-- ==== Sys2Proof/Word.lean ====
section
/-!
DEFINITION. The machine's plain words: a scalar register (R37), a byte of memory (R4), the four operand
field values of an instruction word (R170) and the sparse table type in which registers and memory are held.
-/

namespace Sys2Proof

/-- A 64-bit scalar value (R37). -/
abbrev Word := BitVec 64

/-- One byte of memory; multi-byte storage is little-endian (R4). -/
abbrev Byte := BitVec 8

/-- A 10-bit operand field (R28). -/
abbrev OpField := BitVec 10

/-- A table from numbers to values, with strictly rising keys and no entry equal to the value's default: the one
canonical form in which registers and memory are held, so that equal contents are equal data. -/
abbrev Sparse (V : Type) := List (Nat × V)

end Sys2Proof
end

