-- ==== Sys2Proof/Machine/Sparse.lean ====
section
/-!
DEFINITION. Sparse tables: read, write, build. A read of an unlisted key gives the type's default; a write of the
default removes the entry, so a table keeps one canonical form.
-/

namespace Sys2Proof.Machine

/-- The value at a key; an unlisted key reads as the default. -/
def Sparse.get {V : Type} [Inhabited V] : Sparse V → Nat → V
  | [], _ => default
  | (a, v) :: r, k => if a = k then v else Sparse.get r k

/-- The table without the key. -/
def Sparse.erase {V : Type} (m : Sparse V) (k : Nat) : Sparse V :=
  m.filter fun p => p.1 != k

/-- Insert before the first greater key. -/
def Sparse.ins {V : Type} : Sparse V → Nat → V → Sparse V
  | [], k, v => [(k, v)]
  | (a, w) :: r, k, v => if a < k then (a, w) :: Sparse.ins r k v else (k, v) :: (a, w) :: r

/-- Write one entry; writing the default removes it. -/
def Sparse.set {V : Type} [Inhabited V] [DecidableEq V] (m : Sparse V) (k : Nat) (v : V) : Sparse V :=
  if v = default then Sparse.erase m k else Sparse.ins (Sparse.erase m k) k v

/-- The entries `base + off` to `base + off + n - 1` of a function, canonical. -/
def Sparse.build {V : Type} [Inhabited V] [DecidableEq V] (f : Nat → V) : Nat → Nat → Sparse V
  | _, 0 => []
  | k, n + 1 => if f k = default then Sparse.build f (k + 1) n else (k, f k) :: Sparse.build f (k + 1) n

/-- The table of the first `n` values of a function. -/
def Sparse.ofFn {V : Type} [Inhabited V] [DecidableEq V] (n : Nat) (f : Nat → V) : Sparse V :=
  Sparse.build f 0 n

/-- The canonical form: strictly rising keys, no entry equal to the default. -/
def Sparse.wf {V : Type} [Inhabited V] [DecidableEq V] : Sparse V → Bool
  | [] => true
  | [(_, v)] => v != default
  | (a, v) :: (b, w) :: r => v != default && decide (a < b) && Sparse.wf ((b, w) :: r)

/-- The keys that hold something. -/
def Sparse.keys {V : Type} (m : Sparse V) : List Nat := m.map (·.1)

end Sys2Proof.Machine
end

