-- ==== Sys2Proof/Machine/Bits.lean ====
section
/-!
DEFINITION. Bit-field, sign-extension, byte-order and carry-less helpers shared by every family (R4, R5).
-/

namespace Sys2Proof.Machine

/-- Bits `[hi:lo]` of a number (R5). -/
def bitsOf (x hi lo : Nat) : Nat := (x / 2 ^ lo) % 2 ^ (hi + 1 - lo)

/-- One bit of a number. -/
def bitOf (x i : Nat) : Bool := x.testBit i

/-- The signed value of the low `w` bits (R5 `sext`). -/
def sextNat (w x : Nat) : Int :=
  let y := x % 2 ^ w
  if 2 * y < 2 ^ w then (y : Int) else (y : Int) - (2 ^ w : Nat)

/-- A bit vector read as a signed displacement and widened to a scalar (R5 `sext`). -/
def sext64 {w : Nat} (x : BitVec w) : Word := x.signExtend 64

/-- An integer reduced to `w` bits. -/
def wrapInt (w : Nat) (x : Int) : Nat := (x % (2 ^ w : Nat)).toNat

/-- The little-endian number of a byte list (R4). -/
def leNat : List Byte → Nat
  | [] => 0
  | b :: r => b.toNat + 256 * leNat r

/-- The `n` little-endian bytes of a number (R4). -/
def leBytes : Nat → Nat → List Byte
  | 0, _ => []
  | n + 1, x => BitVec.ofNat 8 x :: leBytes n (x / 256)

/-- Number of one bits among the low `w`. -/
def popcount (w x : Nat) : Nat := (List.range w).countP fun i => x.testBit i

/-- Leading zero bits of a `w`-bit value, `w` for zero. -/
def clzNat (w x : Nat) : Nat := if x % 2 ^ w = 0 then w else w - 1 - Nat.log2 (x % 2 ^ w)

/-- Trailing zero bits of a `w`-bit value, `w` for zero. -/
def ctzNat (w x : Nat) : Nat := ((List.range w).find? fun i => x.testBit i).getD w

/-- The carry-less product of two values, `w` bits of the second (R185, R256). -/
def clmulNat (w a b : Nat) : Nat :=
  (List.range w).foldl (fun acc i => if b.testBit i then acc ^^^ (a <<< i) else acc) 0

/-- Bit reversal of a `w`-bit value (R186). -/
def bitRev (w x : Nat) : Nat :=
  (List.range w).foldl (fun acc i => if x.testBit i then acc + 2 ^ (w - 1 - i) else acc) 0

/-- All of a list's values that are present, or nothing. -/
def allSome {α : Type} : List (Option α) → Option (List α)
  | [] => some []
  | none :: _ => none
  | some a :: r => (allSome r).map (a :: ·)

end Sys2Proof.Machine
end

