-- ==== Sys2Proof/Syntax.lean ====
section
/-!
DEFINITION. The syntax of the AMH-9720: one constructor for each row of spec/opcode_table.json. An encoded
instruction carries the fields of its 96-bit word (R170) in the X layout of its OP (R171, R172); a step of the device that
no word encodes (a landing, an engine's completion, a distributor, host or fabric event) carries what names it.
-/

namespace Sys2Proof

/-- The three instruction streams of a job (R14). -/
inductive Strm where
  | a | v | m
  deriving DecidableEq, Repr, Inhabited

/-- The fields every word has: PM, AWE, AWK and the operand fields D, A, B, C (R170). -/
structure Hd where
  pm  : BitVec 4
  awe : Bool
  awk : BitVec 3
  d   : OpField
  a   : OpField
  b   : OpField
  c   : OpField
  deriving DecidableEq, Repr

/-- Layout X-Z: 36 bits, all reserved (R171). -/
structure Wz extends Hd where
  x : BitVec 36
  deriving DecidableEq, Repr

/-- Layout X-I: a signed 36-bit immediate or displacement (R171). -/
structure Wi extends Hd where
  imm : BitVec 36
  deriving DecidableEq, Repr

/-- Layout X-T: element type, rounding code, saturate, 28 bits of the entry's own (R171). -/
structure Wt extends Hd where
  et  : BitVec 4
  rm  : BitVec 3
  sat : Bool
  ext : BitVec 28
  deriving DecidableEq, Repr

/-- Layout X-M: class, token, open, size, byte displacement (R171). -/
structure Wm extends Hd where
  cls  : BitVec 4
  tke  : Bool
  tk   : BitVec 3
  opn  : Bool
  sz   : BitVec 3
  disp : BitVec 24
  deriving DecidableEq, Repr

/-- Layout X-F: scope, predecessor and successor kinds, class mask (R171). -/
structure Wf extends Hd where
  res   : BitVec 5
  scope : BitVec 3
  pred  : BitVec 6
  succ  : BitVec 6
  clm   : BitVec 16
  deriving DecidableEq, Repr

/-- A PREPARE message of the Almanac: sender, iteration, mask, digest and the delta's slot images, each with its
slot index (R367). -/
structure AlmMsg where
  sender : Nat
  iter   : BitVec 32
  mask   : Nat
  digest : BitVec 256
  delta  : List (Nat × List Byte)
  deriving DecidableEq, Repr

/-- What a COMMIT or an ABORT says: its sender and the iteration (R367). -/
structure AlmEnd where
  sender : Nat
  iter   : BitVec 32
  deriving DecidableEq, Repr, Inhabited

/-- Whose item comes over the fabric: a triple of a ring pass with its origin, or data of a tree with the neighbour it is from (R380, R381). -/
structure FabItem where
  ring   : Bool
  origin : Nat
  deriving DecidableEq, Repr, Inhabited

/-- The instructions and the device's steps, one constructor per row of the opcode table. -/
inductive Instr where
  /-- ADD: Writes sA + sB, modulo 2^64, to sD. (R183) -/
  | add (w : Wz)
  /-- SUB: Writes sA − sB to sD. (R183) -/
  | sub (w : Wz)
  /-- AND: Writes the bitwise AND of sA and sB to sD. (R183) -/
  | and (w : Wz)
  /-- OR: Writes the bitwise OR of sA and sB to sD. (R183) -/
  | or (w : Wz)
  /-- XOR: Writes the bitwise XOR of sA and sB to sD. (R183) -/
  | xor (w : Wz)
  /-- SHL: Shifts sA left by B[5:0]. (R183) -/
  | shl (w : Wz)
  /-- SHR: Shifts sA right by B[5:0], filling with zeros. (R183) -/
  | shr (w : Wz)
  /-- SRA: Shifts sA right by B[5:0], filling with the sign bit. (R183) -/
  | sra (w : Wz)
  /-- SLT: Writes 1 if sA < sB as signed values, otherwise 0. (R183) -/
  | slt (w : Wz)
  /-- SLTU: Writes 1 if sA < sB as unsigned values, otherwise 0. (R183) -/
  | sltu (w : Wz)
  /-- MIN: Writes the signed minimum of sA and sB. (R183) -/
  | min (w : Wz)
  /-- MAX: Writes the signed maximum of sA and sB. (R183) -/
  | max (w : Wz)
  /-- MINU: Writes the unsigned minimum of sA and sB. (R183) -/
  | minu (w : Wz)
  /-- MAXU: Writes the unsigned maximum of sA and sB. (R183) -/
  | maxu (w : Wz)
  /-- ADDI: Adds the sign-extended immediate to sA. (R184) -/
  | addi (w : Wi)
  /-- ANDI: Writes the bitwise AND of sA and the immediate. (R184) -/
  | andi (w : Wi)
  /-- ORI: Writes the bitwise OR of sA and the immediate. (R184) -/
  | ori (w : Wi)
  /-- XORI: Writes the bitwise XOR of sA and the immediate. (R184) -/
  | xori (w : Wi)
  /-- SHLI: Shifts sA left by IMM[5:0]. (R184) -/
  | shli (w : Wi)
  /-- SHRI: Shifts sA right by IMM[5:0], filling with zeros. (R184) -/
  | shri (w : Wi)
  /-- SRAI: Shifts sA right by IMM[5:0], filling with the sign bit. (R184) -/
  | srai (w : Wi)
  /-- SLTI: Writes 1 if sA is below the immediate as signed values. (R184) -/
  | slti (w : Wi)
  /-- SLTIU: Writes 1 if sA is below the sign-extended immediate as unsigned values. (R184) -/
  | sltiu (w : Wi)
  /-- MINI: Writes the signed minimum of sA and the immediate. (R184) -/
  | mini (w : Wi)
  /-- MAXI: Writes the signed maximum of sA and the immediate. (R184) -/
  | maxi (w : Wi)
  /-- MINUI: Writes the unsigned minimum of sA and the immediate. (R184) -/
  | minui (w : Wi)
  /-- MAXUI: Writes the unsigned maximum of sA and the immediate. (R184) -/
  | maxui (w : Wi)
  /-- MUL: Writes the low 64 bits of the product of sA and sB. (R185) -/
  | mul (w : Wz)
  /-- MULH: Writes the high 64 bits of the signed product. (R185) -/
  | mulh (w : Wz)
  /-- MULHU: Writes the high 64 bits of the unsigned product. (R185) -/
  | mulhu (w : Wz)
  /-- DIV: Writes the signed quotient rounded toward zero, with fixed results for division by zero and overflow. (R185) -/
  | div (w : Wz)
  /-- DIVU: Writes the unsigned quotient. (R185) -/
  | divu (w : Wz)
  /-- REM: Writes the signed remainder. (R185) -/
  | rem (w : Wz)
  /-- REMU: Writes the unsigned remainder. (R185) -/
  | remu (w : Wz)
  /-- SCLMUL: Writes the low 64 bits of the carry-less product. (R185) -/
  | sclmul (w : Wz)
  /-- SCLMULH: Writes the high bits of the carry-less product. (R185) -/
  | sclmulh (w : Wz)
  /-- CLZ: Counts the leading zero bits of sA. (R186) -/
  | clz (w : Wi)
  /-- CTZ: Counts the trailing zero bits of sA. (R186) -/
  | ctz (w : Wi)
  /-- POPC: Counts the one bits of sA. (R186) -/
  | popc (w : Wi)
  /-- BREV: Reverses the bits of sA. (R186) -/
  | brev (w : Wi)
  /-- BSWAP: Reverses the bytes of sA. (R186) -/
  | bswap (w : Wi)
  /-- EXTR: Extracts a bit field of sA, zero-extended. (R186) -/
  | extr (w : Wi)
  /-- INS: Inserts the low bits of sA into a field of sB. (R186) -/
  | ins (w : Wi)
  /-- EXTRS: Extracts a bit field of sA, sign-extended. (R186) -/
  | extrs (w : Wi)
  /-- MOVI: Writes the sign-extended immediate to sD. (R187) -/
  | movi (w : Wi)
  /-- MOVHI: Replaces bits [63:36] of sA with a 28-bit immediate and writes the result to sD. (R187) -/
  | movhi (w : Wi)
  /-- MOV: Copies sA to sD. (R187) -/
  | mov (w : Wi)
  /-- SEL: Writes sA if sC is non-zero, and sB otherwise. (R187) -/
  | sel (w : Wi)
  /-- BEQ: Branches if sA equals sB. (R189) -/
  | beq (w : Wi)
  /-- BNE: Branches if sA differs from sB. (R189) -/
  | bne (w : Wi)
  /-- BLT: Branches if sA < sB as signed values. (R189) -/
  | blt (w : Wi)
  /-- BGE: Branches if sA ≥ sB as signed values. (R189) -/
  | bge (w : Wi)
  /-- BLTU: Branches if sA < sB as unsigned values. (R189) -/
  | bltu (w : Wi)
  /-- BGEU: Branches if sA ≥ sB as unsigned values. (R189) -/
  | bgeu (w : Wi)
  /-- BR: Transfers control to a displacement from the word. (R190) -/
  | br (w : Wi)
  /-- BRI: Transfers control to sA plus a byte offset. (R190) -/
  | bri (w : Wi)
  /-- CALL: Writes a link value with ENT = 1 to sD and transfers control. (R190) -/
  | call (w : Wi)
  /-- RET: Returns through the link value in sA, checked as R188 states. (R190) -/
  | ret (w : Wi)
  /-- BQ: Pops a queue and branches if the value is non-zero. (R190) -/
  | bq (w : Wi)
  /-- BQZ: Pops a queue and branches if the value is zero. (R190) -/
  | bqz (w : Wi)
  /-- LOOP: Closes a software-pipelined loop: updates lc or the epilogue count, decrements rrb, writes the stage mask and branches, all in one retirement. (R191) -/
  | loop (w : Wi)
  /-- LOOPI: Decrements lc and branches while lc is non-zero. (R192) -/
  | loopi (w : Wi)
  /-- LOOPS: Decrements a scalar and branches while it is non-zero. (R192) -/
  | loops (w : Wi)
  /-- RRBSET: Sets rrb and, with prime, initialises the window masks. (R193) -/
  | rrbset (w : Wi)
  /-- RDZ: Joins the three streams at a rendezvous and fences their accesses. (R195) -/
  | rdz (w : Wi)
  /-- YIELD: Lets a pending pre-emption stop the job at this point. (R196) -/
  | yield (w : Wi)
  /-- END: Stops the stream. (R197) -/
  | endStream (w : Wi)
  /-- TRAP: Raises a synchronous event with cause 0x01 to the stream's handler. (R198) -/
  | trap (w : Wi)
  /-- ERET: Leaves handler mode and comes back through epc. (R201) -/
  | eret (w : Wi)
  /-- BKPT: Halts the job for a debugger, or faults if the region does not allow debugging. (R203) -/
  | bkpt (w : Wi)
  /-- RDSR: Reads a special register into a scalar. (R204) -/
  | rdsr (w : Wi)
  /-- WRSR: Writes a special register, with the waits and side effects that R204 lists for each register. (R204) -/
  | wrsr (w : Wi)
  /-- RDCYC: Reads the die's cycle count. (R204) -/
  | rdcyc (w : Wi)
  /-- SQW: Pushes a scalar into a queue. (R205) -/
  | sqw (w : Wz)
  /-- SQR: Pops a queue into a scalar. (R205) -/
  | sqr (w : Wz)
  /-- LD_B: Loads a byte, sign-extended. (R213) -/
  | ldB (w : Wm)
  /-- LD_BN: Loads a byte, zero-extended. (R213) -/
  | ldBn (w : Wm)
  /-- LD_H: Loads a halfword, sign-extended. (R213) -/
  | ldH (w : Wm)
  /-- LD_HN: Loads a halfword, zero-extended. (R213) -/
  | ldHn (w : Wm)
  /-- LD_W: Loads a word, sign-extended. (R213) -/
  | ldW (w : Wm)
  /-- LD_WN: Loads a word, zero-extended. (R213) -/
  | ldWn (w : Wm)
  /-- LD_D: Loads a doubleword. (R213) -/
  | ldD (w : Wm)
  /-- ST_B: Enters a 1-byte store into its class's store queue. (R214) -/
  | stB (w : Wm)
  /-- ST_H: Enters a 2-byte store into its class's store queue. (R214) -/
  | stH (w : Wm)
  /-- ST_W: Enters a 4-byte store into its class's store queue. (R214) -/
  | stW (w : Wm)
  /-- ST_D: Enters an 8-byte store into its class's store queue. (R214) -/
  | stD (w : Wm)
  /-- LDV: Starts an asynchronous load of 1, 2 or 4 registers from strided rows. (R215) -/
  | ldv (w : Wm)
  /-- LDVP: Starts an asynchronous load of tiles into a port. (R215) -/
  | ldvp (w : Wm)
  /-- STV: Reads registers at issue and stores them as strided rows. (R215) -/
  | stv (w : Wm)
  /-- STVP: Pops tiles from a port and stores them as strided rows. (R215) -/
  | stvp (w : Wm)
  /-- LDG: Gathers one element per predicated lane into a register, asynchronously. (R216) -/
  | ldg (w : Wm)
  /-- STG: Scatters one element per predicated lane to memory. (R216) -/
  | stg (w : Wm)
  /-- AADD_ATOMIC: Atomically adds sB to memory and returns the old value. (R217) -/
  | aaddAtomic (w : Wm)
  /-- AAND: Atomically ANDs sB into memory. (R217) -/
  | aand (w : Wm)
  /-- AOR: Atomically ORs sB into memory. (R217) -/
  | aor (w : Wm)
  /-- AXOR: Atomically XORs sB into memory. (R217) -/
  | axor (w : Wm)
  /-- AMIN: Atomically writes the signed minimum to memory. (R217) -/
  | amin (w : Wm)
  /-- AMAX: Atomically writes the signed maximum to memory. (R217) -/
  | amax (w : Wm)
  /-- AMINN: Atomically writes the unsigned minimum to memory. (R217) -/
  | aminn (w : Wm)
  /-- AMAXN: Atomically writes the unsigned maximum to memory. (R217) -/
  | amaxn (w : Wm)
  /-- ASWP: Atomically swaps sB with memory. (R217) -/
  | aswp (w : Wm)
  /-- ACAS: Atomically compares memory with sC and, if they are equal, writes sB. (R217) -/
  | acas (w : Wm)
  /-- FENCE: Orders the earlier accesses of the covered kinds and classes before later ones at a scope. (R101) -/
  | fence (w : Wf)
  /-- SWINIT: Initialises a sync word. (R219) -/
  | swinit (w : Wm)
  /-- SWWAIT: Watches a sync word until its generation advances or ERR is set. (R220) -/
  | swwait (w : Wm)
  /-- SWADD: Releases earlier writes, then adds n to a sync word by the update of R89. (R221) -/
  | swadd (w : Wm)
  /-- PCFG: Configures a port's producer and consumer. (R222) -/
  | pcfg (w : Wm)
  /-- PGO: Starts a port's address generator from a descriptor. (R223) -/
  | pgo (w : Wm)
  /-- PSTOP: Stops a port's address generator after the tiles whose reads have begun. (R224) -/
  | pstop (w : Wm)
  /-- PFLUSH: Stops the generator, discards the port's tiles and unconfigures the port. (R224) -/
  | pflush (w : Wm)
  /-- WCFG: Configures a window and fetches its first k rows. (R225) -/
  | wcfg (w : Wm)
  /-- WADV: Advances a window by n rows and fetches the new rows. (R226) -/
  | wadv (w : Wm)
  /-- WREL: Unconfigures a window. (R227) -/
  | wrel (w : Wm)
  /-- CPY: Enqueues a one-dimensional Rake copy. (R228) -/
  | cpy (w : Wm)
  /-- CPY2: Enqueues a two-dimensional copy from a descriptor. (R229) -/
  | cpy2 (w : Wm)
  /-- CPY3: Enqueues a three-dimensional copy from a descriptor. (R229) -/
  | cpy3 (w : Wm)
  /-- CPYSW: Enqueues a copy marked for a sync word. (R228) -/
  | cpysw (w : Wm)
  /-- CBAT: Closes a token's open batch. (R230) -/
  | cbat (w : Wm)
  /-- WAITN: Waits until a token's count is at most n, then acquires the ended batches. (R97) -/
  | waitn (w : Wm)
  /-- PREF: Hints TLB fills and flash reads for a range. (R231) -/
  | pref (w : Wm)
  /-- ENQ: Pushes a command record into a Meridian mailbox. (R232) -/
  | enq (w : Wm)
  /-- DEQ: Pops the oldest completion element and acquires its result. (R233) -/
  | deq (w : Wm)
  /-- TIERIN: Takes the migration tokens of a range and promotes its pages to HBM. (R234) -/
  | tierin (w : Wm)
  /-- TIERQ: Reports the tier and state of a page. (R236) -/
  | tierq (w : Wm)
  /-- TIEREV: Moves the HBM pages of a range to CXL or back to FLASH. (R235) -/
  | tierev (w : Wm)
  /-- VADD: Adds elementwise, rounding once. (R243) -/
  | vadd (w : Wt)
  /-- VSUB: Subtracts elementwise. (R243) -/
  | vsub (w : Wt)
  /-- VMUL: Multiplies elementwise. (R243) -/
  | vmul (w : Wt)
  /-- VFMA: Computes A × B + C elementwise with one rounding. (R243) -/
  | vfma (w : Wt)
  /-- VFMS: Computes A × B − C elementwise with one rounding. (R243) -/
  | vfms (w : Wt)
  /-- VMIN: Writes the elementwise minimum. (R243) -/
  | vmin (w : Wt)
  /-- VMAX: Writes the elementwise maximum. (R243) -/
  | vmax (w : Wt)
  /-- VABS: Writes the elementwise absolute value. (R243) -/
  | vabs (w : Wt)
  /-- VNEG: Negates elementwise. (R243) -/
  | vneg (w : Wt)
  /-- VABD: Writes the elementwise absolute difference. (R243) -/
  | vabd (w : Wt)
  /-- VCMP: Compares elementwise and writes a mask. (R244) -/
  | vcmp (w : Wt)
  /-- VAND: Bitwise AND of 16-bit lanes. (R245) -/
  | vand (w : Wt)
  /-- VOR: Bitwise OR of 16-bit lanes. (R245) -/
  | vor (w : Wt)
  /-- VXOR: Bitwise XOR of 16-bit lanes. (R245) -/
  | vxor (w : Wt)
  /-- VNOT: Bitwise NOT of 16-bit lanes. (R245) -/
  | vnot (w : Wt)
  /-- VSHL: Shifts elements left. (R245) -/
  | vshl (w : Wt)
  /-- VSHR: Shifts elements right, filling with zeros. (R245) -/
  | vshr (w : Wt)
  /-- VSRA: Shifts elements right, filling with the sign bit. (R245) -/
  | vsra (w : Wt)
  /-- VSEL: Selects lanes from A or B by a mask. (R245) -/
  | vsel (w : Wt)
  /-- VCVT: Converts elements between types with one rounding. (R246) -/
  | vcvt (w : Wt)
  /-- VCVTS: Converts elements by an FP32 scale, rounding the exact quotient once. (R246) -/
  | vcvts (w : Wt)
  /-- VPACK: Packs the low bytes of two registers into 8-bit lanes. (R247) -/
  | vpack (w : Wt)
  /-- VUNPK: Extends one byte of each lane to 16 bits. (R247) -/
  | vunpk (w : Wt)
  /-- VQI4X: Quantises four registers into one I4X register, with outliers. (R248) -/
  | vqi4x (w : Wt)
  /-- VMOV: Copies one register. (R249) -/
  | vmov (w : Wt)
  /-- VBCST: Broadcasts a scalar to every element. (R249) -/
  | vbcst (w : Wt)
  /-- VINS: Inserts a scalar into one element. (R249) -/
  | vins (w : Wt)
  /-- VEXT: Extracts one element into a scalar. (R249) -/
  | vext (w : Wt)
  /-- VIDX: Writes element indices offset by a scalar. (R249) -/
  | vidx (w : Wt)
  /-- VROTR: Rotates each row by k. (R250) -/
  | vrotr (w : Wt)
  /-- VROTC: Rotates each column by k. (R250) -/
  | vrotc (w : Wt)
  /-- VBCR: Broadcasts column k across each row. (R250) -/
  | vbcr (w : Wt)
  /-- VBCC: Broadcasts row k down each column. (R250) -/
  | vbcc (w : Wt)
  /-- VREDR: Reduces each row by SUM, MAX or MIN. (R251) -/
  | vredr (w : Wt)
  /-- VREDC: Reduces each column by SUM, MAX or MIN. (R251) -/
  | vredc (w : Wt)
  /-- VTRN: Transposes each 16 × 16 block. (R252) -/
  | vtrn (w : Wt)
  /-- VPERM: Permutes the elements of each row by index. (R252) -/
  | vperm (w : Wt)
  /-- VEXP2: Computes 2^x, rounded once. (R253) -/
  | vexp2 (w : Wt)
  /-- VEXP: Computes e^x, rounded once. (R253) -/
  | vexp (w : Wt)
  /-- VLOG2: Computes log2 x, rounded once. (R253) -/
  | vlog2 (w : Wt)
  /-- VRCP: Computes 1/x, rounded once. (R253) -/
  | vrcp (w : Wt)
  /-- VRSQ: Computes 1/√x, rounded once. (R253) -/
  | vrsq (w : Wt)
  /-- VSQRT: Computes √x, rounded once. (R253) -/
  | vsqrt (w : Wt)
  /-- VTANH: Computes tanh x, rounded once. (R253) -/
  | vtanh (w : Wt)
  /-- VSIGM: Computes the sigmoid, rounded once. (R253) -/
  | vsigm (w : Wt)
  /-- VSILU: Computes SiLU, rounded once. (R253) -/
  | vsilu (w : Wt)
  /-- VGELU: Computes GELU, rounded once. (R253) -/
  | vgelu (w : Wt)
  /-- VROPE: Rotates element pairs by cos and sin. (R254) -/
  | vrope (w : Wt)
  /-- VSMERGE: Merges two attention triple groups row by row. (R255) -/
  | vsmerge (w : Wt)
  /-- VCLMUL_L: Writes the low half of each element's carry-less product. (R256) -/
  | vclmulL (w : Wt)
  /-- VCLMUL_H: Writes the high half of each element's carry-less product. (R256) -/
  | vclmulH (w : Wt)
  /-- VPOPC: Counts the one bits of each element. (R256) -/
  | vpopc (w : Wt)
  /-- VCLZ: Counts the leading zero bits of each element. (R256) -/
  | vclz (w : Wt)
  /-- VRAND: Fills a register with Philox-4×32-10 draws. (R258) -/
  | vrand (w : Wt)
  /-- RNGKEY: Sets the job's random key. (R257) -/
  | rngkey (w : Wt)
  /-- MAND: ANDs two masks. (R259) -/
  | mand (w : Wi)
  /-- MOR: ORs two masks. (R259) -/
  | mor (w : Wi)
  /-- MXOR: XORs two masks. (R259) -/
  | mxor (w : Wi)
  /-- MNOT: Inverts a mask. (R259) -/
  | mnot (w : Wi)
  /-- MSET: Sets a mask from a count and a pattern. (R259) -/
  | mset (w : Wi)
  /-- MCNT: Counts the set bits of a mask. (R259) -/
  | mcnt (w : Wi)
  /-- MFIRST: Finds the lowest set bit of a mask. (R259) -/
  | mfirst (w : Wi)
  /-- MMA: Delivers A × B products into an accumulator tile as one contribution. (R267) -/
  | mma (w : Wt)
  /-- MMAS: Multiplies a 2:4-sparse A by B into a tile. (R268) -/
  | mmas (w : Wt)
  /-- MMAF: Multiplies with the types and anchor of a format-table entry, re-anchoring the tile if needed. (R269) -/
  | mmaf (w : Wt)
  /-- MMAT: Multiplies with B stored one row per output column. (R267) -/
  | mmat (w : Wt)
  /-- MCLR: Clears the predicated lanes of a tile. (R270) -/
  | mclr (w : Wt)
  /-- ANCH: Re-anchors a tile to a given anchor. (R270) -/
  | anch (w : Wt)
  /-- ASHF: Shifts a tile's anchor by n. (R270) -/
  | ashf (w : Wt)
  /-- AADDV: Adds vector elements into the lanes of a tile. (R270) -/
  | aaddv (w : Wt)
  /-- AADD_ACC: Adds one tile into another, re-anchored. (R270) -/
  | aaddAcc (w : Wt)
  /-- ASUB: Subtracts one tile from another. (R270) -/
  | asub (w : Wt)
  /-- AMOV: Copies a tile's state and anchor. (R270) -/
  | amov (w : Wt)
  /-- ACAN: Folds C into S in every lane of a tile. (R270) -/
  | acan (w : Wt)
  /-- RSLV: Resolves each tile lane into a register with one rounding. (R271) -/
  | rslv (w : Wt)
  /-- ACMP: Compares exact tile values with a vector operand into a mask. (R272) -/
  | acmp (w : Wt)
  /-- AEXN: Writes each lane's flags, with OV, into a register. (R273) -/
  | aexn (w : Wt)
  /-- ASTR: Stores a tile as a raw image. (R274) -/
  | astr (w : Wm)
  /-- ASTC: Stores a tile as a canonical image. (R274) -/
  | astc (w : Wm)
  /-- ALDR: Loads a tile from a raw image. (R274) -/
  | aldr (w : Wm)
  /-- ALDC: Loads a tile from a canonical image. (R274) -/
  | aldc (w : Wm)
  /-- SETRM: Sets rm from the next M word onward. (R275) -/
  | setrm (w : Wt)
  /-- FMTT: Reloads M's format-table copy. (R276) -/
  | fmtt (w : Wt)
  /-- ATTN: Attends one page of a context and writes an attention triple group. (R278) -/
  | attn (w : Wt)
  /-- ATTNM: Attends up to 64 pages, merges the hits in page order and reports the misses. (R279) -/
  | attnm (w : Wt)
  /-- KVNEW: Creates a context from a descriptor. (R287) -/
  | kvnew (w : Wm)
  /-- KVFREE: Frees a context. (R288) -/
  | kvfree (w : Wm)
  /-- KVFORK: Makes a child context of a parent at a position. (R289) -/
  | kvfork (w : Wm)
  /-- KVSHARE: Maps a range of a source context into a target context. (R290) -/
  | kvshare (w : Wm)
  /-- KVSTAT: Writes a context's status record. (R291) -/
  | kvstat (w : Wm)
  /-- KVW: Writes a key-value entry with its lifetime. (R292) -/
  | kvw (w : Wm)
  /-- KVRNW: Renews an entry's expiry from qp. (R293) -/
  | kvrnw (w : Wm)
  /-- KVEXP: Expires an entry. (R293) -/
  | kvexp (w : Wm)
  /-- KVADV: Sets the query position. (R294) -/
  | kvadv (w : Wm)
  /-- KVCMT: Commits up to a position, raising H. (R294) -/
  | kvcmt (w : Wm)
  /-- KVRWD: Rewinds qp, cp and ww. (R294) -/
  | kvrwd (w : Wm)
  /-- SMIN: Swaps a context in from its image. (R295) -/
  | smin (w : Wm)
  /-- SMOUT: Writes a context's swap image and frees its map entries. (R295) -/
  | smout (w : Wm)
  /-- SMINV: Reloads a context's map from the page tables. (R295) -/
  | sminv (w : Wm)
  /-- SLABGR: Moves a context's slab to a new base of twice the size. (R295) -/
  | slabgr (w : Wm)
  /-- XOPEN: Opens a channel end from a descriptor. (R297) -/
  | xopen (w : Wm)
  /-- XGRANT: Grants n send permits to the peer. (R298) -/
  | xgrant (w : Wm)
  /-- XSEND: Consumes a permit and sends a tile set. (R298) -/
  | xsend (w : Wm)
  /-- XRECV: Pops the oldest arrival. (R298) -/
  | xrecv (w : Wm)
  /-- XCLOSE: Closes a channel end. (R298) -/
  | xclose (w : Wm)
  /-- XSTAT: Reads a channel end's state. (R298) -/
  | xstat (w : Wm)
  /-- PANCFG: Claims and configures a Pan filter slot. (R299) -/
  | pancfg (w : Wm)
  /-- PANCFG_REL: Releases a Pan filter slot, ending any open record batch. (R299) -/
  | pancfgRel (w : Wm)
  /-- PANRD: Requests a row's Pan summary record once the row fills. (R301) -/
  | panrd (w : Wm)
  /-- CNTRD: Reads a launch exception counter. (R302) -/
  | cntrd (w : Wi)
  /-- CNTCLR: Clears one or all launch counters and re-arms their thresholds. (R302) -/
  | cntclr (w : Wi)
  /-- INVTLB: Invalidates translations at a kind-dependent scope. (R303) -/
  | invtlb (w : Wi)
  /-- PMCRD: Reads a performance or row-activation counter. (R304) -/
  | pmcrd (w : Wi)
  /-- RESULT_LANDS: A fixed-latency write lands in its destination at issue cycle plus latency. (R43) -/
  | resultLands
  /-- LOAD_DATA_RETURN: A scalar load's data returns and is written to its destination. (R213) -/
  | loadDataReturn (id : Nat)
  /-- STORE_PERFORM: A queued store performs as a W access. (R214) -/
  | storePerform (id : Nat)
  /-- ATOMIC_PERFORM: An atomic performs at the location's home and returns the old value. (R217) -/
  | atomicPerform (id : Nat)
  /-- SECTION_ENTRY: A stream enters a section once its begin conditions hold, taking an ordinal. (R18) -/
  | sectionEntry (k : Strm)
  /-- SECTION_RETIRE: A section retires once control has left it and its results have landed. (R19) -/
  | sectionRetire (k : Strm)
  /-- RDZ_JOIN: The waiting streams leave a rendezvous together. (R15) -/
  | rdzJoin
  /-- STREAM_DEADLOCK: All streams wait only on one another, and a stream-deadlock fault is raised. (R25) -/
  | streamDeadlock
  /-- JOB_COMPLETE: A job completes once its streams have stopped, its results have landed and its tokens are zero. (R13) -/
  | jobComplete
  /-- EVENT_TAKEN: A held asynchronous event is taken at an instruction boundary and enters the handler. (R198) -/
  | eventTaken (k : Strm)
  /-- TILE_LOAD_COMPLETE: An LDV, LDVP or tile-store batch completes once its rows are written or performed. (R215) -/
  | tileLoadComplete (id row : Nat)
  /-- GATHER_COMPLETE: An LDG or STG batch is performed. (R321) -/
  | gatherComplete (id : Nat)
  /-- RAKE_ROW_PERFORM: The Rake performs a row of a copy and reports its bytes. (R89) -/
  | rakeRowPerform (id row : Nat)
  /-- SWWAIT_COMPLETE: A watched sync word advances or sets ERR, and the SWWAIT completes. (R220) -/
  | swwaitComplete
  /-- WINDOW_FETCH_PERFORM: A window fetch writes its slot rows. (R92) -/
  | windowFetchPerform (id row : Nat)
  /-- PGEN_TILE_PUSH: A port address generator reads a tile and pushes it, with a fault mark if it failed. (R223) -/
  | pgenTilePush (port : Nat)
  /-- MAILBOX_COMMAND: The Meridian firmware serves a mailbox command. (R364) -/
  | mailboxCommand (die queue : Nat)
  /-- TIER_MIGRATION_COMPLETE: The pages of a migration are copied, retagged at package scope, and their tokens are released. (R234) -/
  | tierMigrationComplete (id : Nat)
  /-- CONTEXT_AREA_CLEAR_DONE: KVNEW's background area clear completes. (R123) -/
  | contextAreaClearDone (die ctx : Nat)
  /-- KVW_COMPLETE: A KVW's cell write is performed; the node is filed and ww is raised. (R128) -/
  | kvwComplete (die id : Nat)
  /-- FORK_COPY_DONE: The fork's node and partial-unit copies complete. (R137) -/
  | forkCopyDone (die ctx : Nat)
  /-- KV_COMMAND_APPLY: The Orrery applies a command held back by in-flight KVWs or ATTNs. (R145) -/
  | kvCommandApply (die id : Nat)
  /-- ORRERY_RECLAIM_STEP: The engine advances RP by one position, splicing an inner slot. (R130) -/
  | orreryReclaimStep (die ctx : Nat)
  /-- ORRERY_RELEASE_STEP: The engine empties one node from the release list and decrements its page's live count. (R131) -/
  | orreryReleaseStep (die ctx : Nat)
  /-- SLAB_PAGE_MOVE: A page of a growing slab has moved, and WM advances. (R144) -/
  | slabPageMove (die ctx : Nat)
  /-- ATTN_PAGE_COMPUTE: A page's data has arrived, and the matrix unit computes its triple. (R278) -/
  | attnPageCompute (die id : Nat)
  /-- ATTN_COMPLETE: The triple group is written, and the ATTN batch is performed. (R277) -/
  | attnComplete (die id : Nat)
  /-- CHANNEL_MATCH: The peer XOPEN is accepted, and the two ends are matched or closed for unequal t. (R151) -/
  | channelMatch (die num : Nat)
  /-- PERMIT_ARRIVE: A grant's permit reaches the sender once the granting reads have performed. (R154) -/
  | permitArrive (die num : Nat)
  /-- SET_ARRIVED: The last row of a tile set is written and checked, the sync word is raised and the arrival is queued. (R153) -/
  | setArrived (die num : Nat)
  /-- BRIDGE_BEAT_REPLAY: A bridge beat fails its CRC and is replayed. (R160) -/
  | bridgeBeatReplay (die num : Nat)
  /-- BRIDGE_RETRAIN: After 16 failed replays the bridge retrains and channels that are filling fail. (R160) -/
  | bridgeRetrain (adie fdie : Nat)
  /-- XCLOSE_COMPLETE: A close completes once earlier sends have arrived, and frees the ends when both have closed. (R158) -/
  | xcloseComplete (die num : Nat)
  /-- PAN_STORE_OBSERVE: A store to a watched region updates the row's count, sum, flags and shortlist. (R300) -/
  | panStoreObserve (die : Nat)
  /-- LAUNCH_TAKE: The distributor takes a ring entry and checks the launch record. (R338) -/
  | launchTake (die node : Nat)
  /-- TAILX_WRITE: A TAILX write enqueues launch entries, refusing an overrun. (R337) -/
  | tailxWrite (node value : Nat)
  /-- GANG_PLACE: The distributor places or restores a gang on a free cluster. (R341) -/
  | gangPlace (die : Nat)
  /-- SLICE_END: At a slice boundary the distributor walks the tree and pre-empts gangs over their share. (R339) -/
  | sliceEnd (die : Nat)
  /-- PREEMPT_STOP: Every stream of a gang stops at an instruction boundary, and pending writes are recorded. (R343) -/
  | preemptStop (lrec gang : Nat)
  /-- GANG_SAVE_COMPLETE: A gang's images are written with VALID set, or its save fails. (R343) -/
  | gangSaveComplete (lrec gang : Nat)
  /-- LAUNCH_COMPLETE: The counters and completion record of a finished launch are written. (R338) -/
  | launchComplete (lrec : Nat)
  /-- POWER_GOOD: Power-good starts bring-up at phase 1. (R325) -/
  | powerGood
  /-- PHASE_COMPLETE: A bring-up phase ends, and the next begins. (R325) -/
  | phaseComplete (failed : List Nat) (refuse : Bool)
  /-- PHASE_TIMEOUT: A phase passes its bound, and bring-up ends with FCODE 0x03. (R325) -/
  | phaseTimeout
  /-- DEVICE_RESET: A conventional reset, CXL reset or power loss restarts bring-up. (R328) -/
  | deviceReset
  /-- FIRMWARE_UPDATE: A signed image over MCTP restarts bring-up at phase 1. (R327) -/
  | firmwareUpdate (image : List Byte) (sig : Nat)
  /-- CXL_MEM_READ: The host reads device memory through CXL.mem. (R329) -/
  | cxlMemRead (addr len : Nat)
  /-- CXL_MEM_WRITE: The host writes device memory through CXL.mem. (R329) -/
  | cxlMemWrite (addr : Nat) (bytes : List Byte)
  /-- IDE_ESTABLISHED: The IDE streams are established, and held traffic flows. (R331) -/
  | ideEstablished
  /-- IDE_KEY_REFRESH: An IDE key refresh takes effect at a flit boundary. (R331) -/
  | ideKeyRefresh
  /-- IDE_INTEGRITY_FAIL: An IDE check fails: IDEERR is set, reads are poisoned, CXL pages fault and vector 1 is signalled. (R331) -/
  | ideIntegrityFail
  /-- IDEERR_CLEAR: A write of one clears DEVSTAT.IDEERR. (R326) -/
  | ideerrClear (value : Word)
  /-- REGISTER_WRITE: A host write to a register with no behaviour of its own, such as SCHED or a UIO window. (R340) -/
  | registerWrite (offset : Nat) (value : Word)
  /-- ROOT_WRITE: A write of ROOT names a new region tree and starts a walk. (R390) -/
  | rootWrite (offset : Nat) (value : Word)
  /-- PREQ_GO: Pre-empts every resident pre-emptible gang of a launch. (R340) -/
  | preqGo (offset : Nat) (value : Word)
  /-- PREQ_CANCEL: Stops every job of a launch unsaved, ending it with status 4. (R340) -/
  | preqCancel (offset : Nat) (value : Word)
  /-- PREQ_RESUME: Restores the gangs saved for a debugger. (R352) -/
  | preqResume (offset : Nat) (value : Word)
  /-- TLBINV_WRITE: The host starts a package-wide TLB invalidation. (R355) -/
  | tlbinvWrite (value : Word)
  /-- TLBINV_COMPLETE: The invalidation is complete, and BUSY clears. (R355) -/
  | tlbinvComplete
  /-- FAQ_POP: A read of FAQ pops one fault-address entry. (R356) -/
  | faqPop
  /-- HBM_ERROR_REPORT: An HBM controller corrects or poisons a line and queues an entry, signalling vector 3 on the first. (R356) -/
  | hbmErrorReport (dpa type : Nat)
  /-- RETIRE_REMAP: RETIRE with EXCL = 0 locks a frame, copies it to a spare, lists it and redirects it. (R357) -/
  | retireRemap (value : Word)
  /-- RETIRE_EXCLUDE: RETIRE with EXCL = 1 lists a frame without remapping it. (R357) -/
  | retireExclude (value : Word)
  /-- RETIRE_COMPLETE: A retirement ends: BUSY clears, vector 4 is signalled and a 0x41 record is posted. (R357) -/
  | retireComplete
  /-- ROWCTL_WRITE: A ROWCTL write sets the notice limits and applies MTHD to mth at once. (R359) -/
  | rowctlWrite (value : Word)
  /-- ROW_ACTIVATION: An access opens a row, counts the activation and may raise a management alert. (R323) -/
  | rowActivation (dpa : Nat)
  /-- REFRESH_MANAGEMENT: After the alerting access completes, the neighbouring rows are refreshed, counts are cleared and the bank backs off. (R323) -/
  | refreshManagement (bank : Nat)
  /-- BACKOFF_END: A 280 ns back-off ends, and the waiting accesses are released and charged. (R324) -/
  | backoffEnd (bank : Nat)
  /-- PERIODIC_REFRESH: A row's periodic refresh clears its count. (R323) -/
  | periodicRefresh (bank row : Nat)
  /-- FLASH_REBUILD: An uncorrectable flash read is rebuilt from parity, or the page is poisoned. (R360) -/
  | flashRebuild (page : Nat) (rebuilt : Bool)
  /-- WATCHDOG_WRITE: The Meridian writes its watchdog register. (R363) -/
  | watchdogWrite (die : Nat)
  /-- WATCHDOG_EXPIRE: A Meridian misses its watchdog for 100 ms. (R363) -/
  | watchdogExpire (die : Nat)
  /-- CDIS_WRITE: A CDIS write disables cores and takes their clusters out of placement. (R387) -/
  | cdisWrite (die : Nat) (value : Word)
  /-- PREPARE: A die stores an Almanac delta, checks its digest and answers. (R368) -/
  | prepare (die : Nat) (m : AlmMsg)
  /-- ACK: The master records a die's acknowledgement and commits once all have arrived. (R368) -/
  | ack (die : Nat) (iter : BitVec 32)
  /-- NACK: A digest mismatch leads to an ABORT and a retry. (R369) -/
  | nack (die : Nat) (iter : BitVec 32)
  /-- COMMIT: A die applies the delta, sets ALMST.ITER and starts the next iteration. (R368) -/
  | commit (die : Nat) (m : AlmEnd)
  /-- ABORT: A die discards its stored delta. (R369) -/
  | abort (die : Nat) (m : AlmEnd)
  /-- ALMANAC_ACK_TIMEOUT: The ACK deadline passes, and the commit aborts. (R368) -/
  | almanacAckTimeout
  /-- FLIT_RECEIVE: A port receives a flit, delivers it or discards it and sends a NAK. (R375) -/
  | flitReceive (port : Nat) (flit : List Byte)
  /-- NAK_RECEIVE: A NAK makes the sender replay from the named flit. (R375) -/
  | nakReceive (port seq : Nat)
  /-- PORT_RETRAIN: After 16 failed replays the port retrains, or goes down if retraining fails. (R375) -/
  | portRetrain (port : Nat) (trained : Bool)
  /-- LANE_DROP: A lane loses lock or exceeds its correction limit and is dropped. (R376) -/
  | laneDrop (port lane : Nat)
  /-- LANE_WIDTH_SWITCH: Once the replay buffer drains, the port changes width at a flit boundary. (R376) -/
  | laneWidthSwitch (port : Nat)
  /-- TOPO_LOAD: A TOPO write with GO starts a topology table load. (R379) -/
  | topoLoad (value : Word)
  /-- TOPO_LOAD_COMPLETE: The table is checked and loaded or rejected, and BUSY clears. (R379) -/
  | topoLoadComplete
  /-- COLQ_SUBMIT: A COLQ write queues a collective descriptor. (R380) -/
  | colqSubmit (value : Word)
  /-- RING_STEP: A triple arrives from the predecessor and is folded, forwarded or stored late. (R381) -/
  | ringStep (item : FabItem) (triple : List Byte)
  /-- COLLECTIVE_COMPLETE: The results are performed at system scope, and the sync word is raised. (R380) -/
  | collectiveComplete
  /-- GET_VERSION: An SPDM GET_VERSION request is answered. (R385) -/
  | getVersion
  /-- GET_CAPABILITIES: An SPDM GET_CAPABILITIES request is answered. (R385) -/
  | getCapabilities
  /-- NEGOTIATE_ALGORITHMS: Selects ML-DSA-65 and SHAKE256, or answers with an error. (R385) -/
  | negotiateAlgorithms (mldsa65 shake256 : Bool)
  /-- GET_DIGESTS: Returns the certificate chain digests. (R385) -/
  | getDigests
  /-- GET_CERTIFICATE: Returns the slot 0 certificate chain. (R385) -/
  | getCertificate (slot : Nat)
  /-- CHALLENGE: Signs a challenge response. (R385) -/
  | challenge (nonce : Nat)
  /-- GET_MEASUREMENTS: Returns the measurements taken so far. (R386) -/
  | getMeasurements
  /-- KEY_EXCHANGE: Begins an SPDM session. (R385) -/
  | keyExchange (share : Nat)
  /-- FINISH: Completes the session and derives the IDE keys. (R385) -/
  | finish (verified : Bool)
  /-- KEY_UPDATE: Updates the session keys. (R385) -/
  | keyUpdate
  /-- END_SESSION: Ends the SPDM session. (R385) -/
  | endSession
  /-- SHARED_INFRASTRUCTURE_MACHINE_CHECK: A machine check strikes a die's shared infrastructure, and the die is fenced. (R362) -/
  | sharedInfrastructureMachineCheck (die : Nat)
  /-- TILE_IMAGE_LOAD_COMPLETE: An ALDR or ALDC finishes writing the tile and its anchor, or ends in error with every lane NV; its batch is performed and the R262 waits on that tile end. (R274) -/
  | tileImageLoadComplete (id : Nat)
  /-- ORRERY_BATCH_PERFORMED: The background work of an Orrery command ends and its batch is performed: an SMOUT image is written, an SMIN or on-demand swap-in map is loaded, a KVSTAT record is written, KVSHARE nodes are copied, or KVFREE releases its area. (R295) -/
  | orreryBatchPerformed (die id : Nat)
  deriving DecidableEq, Repr

end Sys2Proof
end

