-- ==== Sys2Proof/Decode.lean ====
section
/-!
DEFINITION. Decoding a 96-bit word (R170 to R172) and a section header (R163); then the encoder, written from the same
tables. Both keep every bit of a word: what a bit means, and which patterns fault, is Machine/Shape.lean's matter (R174).
-/

namespace Sys2Proof
open Machine

/-- How an opcode row reads its X field (R171, R172). -/
inductive Mk where
  | z (f : Wz → Instr)
  | i (f : Wi → Instr)
  | t (f : Wt → Instr)
  | m (f : Wm → Instr)
  | f (g : Wf → Instr)

/-- A word's payload in its layout. -/
inductive Payload where
  | z (w : Wz)
  | i (w : Wi)
  | t (w : Wt)
  | m (w : Wm)
  | f (w : Wf)
  deriving DecidableEq, Repr

/-- The common fields of a word, bits [83:36] (R170). -/
def unpackHd (w : Nat) : Hd where
  pm := BitVec.ofNat 4 (w / 2 ^ 80)
  awe := (w / 2 ^ 79) % 2 == 1
  awk := BitVec.ofNat 3 (w / 2 ^ 76)
  d := BitVec.ofNat 10 (w / 2 ^ 66)
  a := BitVec.ofNat 10 (w / 2 ^ 56)
  b := BitVec.ofNat 10 (w / 2 ^ 46)
  c := BitVec.ofNat 10 (w / 2 ^ 36)

def unpackZ (w : Nat) : Wz := { unpackHd w with x := BitVec.ofNat 36 w }
def unpackI (w : Nat) : Wi := { unpackHd w with imm := BitVec.ofNat 36 w }
def unpackT (w : Nat) : Wt :=
  { unpackHd w with
    et := BitVec.ofNat 4 (w / 2 ^ 32), rm := BitVec.ofNat 3 (w / 2 ^ 29)
    sat := (w / 2 ^ 28) % 2 == 1, ext := BitVec.ofNat 28 w }
def unpackM (w : Nat) : Wm :=
  { unpackHd w with
    cls := BitVec.ofNat 4 (w / 2 ^ 32), tke := (w / 2 ^ 31) % 2 == 1
    tk := BitVec.ofNat 3 (w / 2 ^ 28), opn := (w / 2 ^ 27) % 2 == 1
    sz := BitVec.ofNat 3 (w / 2 ^ 24), disp := BitVec.ofNat 24 w }
def unpackF (w : Nat) : Wf :=
  { unpackHd w with
    res := BitVec.ofNat 5 (w / 2 ^ 31), scope := BitVec.ofNat 3 (w / 2 ^ 28)
    pred := BitVec.ofNat 6 (w / 2 ^ 22), succ := BitVec.ofNat 6 (w / 2 ^ 16), clm := BitVec.ofNat 16 w }

/-- Build the instruction of a row from a word. -/
def Mk.apply (k : Mk) (w : Nat) : Instr :=
  match k with
  | .z g => g (unpackZ w)
  | .i g => g (unpackI w)
  | .t g => g (unpackT w)
  | .m g => g (unpackM w)
  | .f g => g (unpackF w)

/-- OP 0x01 (R172). -/
def rows01 (fn : Nat) : Option Mk :=
  match fn with
  | 0 => some (.z .add)
  | 1 => some (.z .sub)
  | 2 => some (.z .and)
  | 3 => some (.z .or)
  | 4 => some (.z .xor)
  | 5 => some (.z .shl)
  | 6 => some (.z .shr)
  | 7 => some (.z .sra)
  | 8 => some (.z .slt)
  | 9 => some (.z .sltu)
  | 10 => some (.z .min)
  | 11 => some (.z .max)
  | 12 => some (.z .minu)
  | 13 => some (.z .maxu)
  | _ => none

/-- OP 0x02 (R172). -/
def rows02 (fn : Nat) : Option Mk :=
  match fn with
  | 0 => some (.i .addi)
  | 2 => some (.i .andi)
  | 3 => some (.i .ori)
  | 4 => some (.i .xori)
  | 5 => some (.i .shli)
  | 6 => some (.i .shri)
  | 7 => some (.i .srai)
  | 8 => some (.i .slti)
  | 9 => some (.i .sltiu)
  | 10 => some (.i .mini)
  | 11 => some (.i .maxi)
  | 12 => some (.i .minui)
  | 13 => some (.i .maxui)
  | _ => none

/-- OP 0x03 (R172). -/
def rows03 (fn : Nat) : Option Mk :=
  match fn with
  | 0 => some (.z .mul)
  | 1 => some (.z .mulh)
  | 2 => some (.z .mulhu)
  | 3 => some (.z .div)
  | 4 => some (.z .divu)
  | 5 => some (.z .rem)
  | 6 => some (.z .remu)
  | 7 => some (.z .sclmul)
  | 8 => some (.z .sclmulh)
  | _ => none

/-- OP 0x04 (R172). -/
def rows04 (fn : Nat) : Option Mk :=
  match fn with
  | 0 => some (.i .clz)
  | 1 => some (.i .ctz)
  | 2 => some (.i .popc)
  | 3 => some (.i .brev)
  | 4 => some (.i .bswap)
  | 5 => some (.i .extr)
  | 6 => some (.i .ins)
  | 7 => some (.i .extrs)
  | _ => none

/-- OP 0x05 (R172). -/
def rows05 (fn : Nat) : Option Mk :=
  match fn with
  | 0 => some (.i .movi)
  | 1 => some (.i .movhi)
  | 2 => some (.i .mov)
  | 3 => some (.i .sel)
  | _ => none

/-- OP 0x08 (R172). -/
def rows08 (fn : Nat) : Option Mk :=
  match fn with
  | 0 => some (.i .beq)
  | 1 => some (.i .bne)
  | 2 => some (.i .blt)
  | 3 => some (.i .bge)
  | 4 => some (.i .bltu)
  | 5 => some (.i .bgeu)
  | _ => none

/-- OP 0x09 (R172). -/
def rows09 (fn : Nat) : Option Mk :=
  match fn with
  | 0 => some (.i .br)
  | 1 => some (.i .bri)
  | 2 => some (.i .call)
  | 3 => some (.i .ret)
  | 4 => some (.i .bq)
  | 5 => some (.i .bqz)
  | _ => none

/-- OP 0x0A (R172). -/
def rows0A (fn : Nat) : Option Mk :=
  match fn with
  | 0 => some (.i .loop)
  | 1 => some (.i .loopi)
  | 2 => some (.i .loops)
  | 3 => some (.i .rrbset)
  | _ => none

/-- OP 0x0B (R172). -/
def rows0B (fn : Nat) : Option Mk :=
  match fn with
  | 0 => some (.i .rdz)
  | 1 => some (.i .yield)
  | 2 => some (.i .endStream)
  | 3 => some (.i .trap)
  | 4 => some (.i .eret)
  | 5 => some (.i .bkpt)
  | _ => none

/-- OP 0x0C (R172). -/
def rows0C (fn : Nat) : Option Mk :=
  match fn with
  | 0 => some (.i .rdsr)
  | 1 => some (.i .wrsr)
  | 2 => some (.i .rdcyc)
  | _ => none

/-- OP 0x0D (R172). -/
def rows0D (fn : Nat) : Option Mk :=
  match fn with
  | 0 => some (.z .sqw)
  | 1 => some (.z .sqr)
  | _ => none

/-- OP 0x10 (R172). -/
def rows10 (fn : Nat) : Option Mk :=
  match fn with
  | 0 => some (.m .ldB)
  | 1 => some (.m .ldBn)
  | 2 => some (.m .ldH)
  | 3 => some (.m .ldHn)
  | 4 => some (.m .ldW)
  | 5 => some (.m .ldWn)
  | 6 => some (.m .ldD)
  | _ => none

/-- OP 0x11 (R172). -/
def rows11 (fn : Nat) : Option Mk :=
  match fn with
  | 0 => some (.m .stB)
  | 1 => some (.m .stH)
  | 2 => some (.m .stW)
  | 3 => some (.m .stD)
  | _ => none

/-- OP 0x12 (R172). -/
def rows12 (fn : Nat) : Option Mk :=
  match fn with
  | 0 => some (.m .ldv)
  | 1 => some (.m .ldvp)
  | _ => none

/-- OP 0x13 (R172). -/
def rows13 (fn : Nat) : Option Mk :=
  match fn with
  | 0 => some (.m .stv)
  | 1 => some (.m .stvp)
  | _ => none

/-- OP 0x14 (R172). -/
def rows14 (fn : Nat) : Option Mk :=
  match fn with
  | 0 => some (.m .ldg)
  | _ => none

/-- OP 0x15 (R172). -/
def rows15 (fn : Nat) : Option Mk :=
  match fn with
  | 0 => some (.m .stg)
  | _ => none

/-- OP 0x16 (R172). -/
def rows16 (fn : Nat) : Option Mk :=
  match fn with
  | 0 => some (.m .aaddAtomic)
  | 1 => some (.m .aand)
  | 2 => some (.m .aor)
  | 3 => some (.m .axor)
  | 4 => some (.m .amin)
  | 5 => some (.m .amax)
  | 6 => some (.m .aminn)
  | 7 => some (.m .amaxn)
  | 8 => some (.m .aswp)
  | 9 => some (.m .acas)
  | _ => none

/-- OP 0x17 (R172). -/
def rows17 (fn : Nat) : Option Mk :=
  match fn with
  | 0 => some (.f .fence)
  | _ => none

/-- OP 0x18 (R172). -/
def rows18 (fn : Nat) : Option Mk :=
  match fn with
  | 0 => some (.m .swinit)
  | 1 => some (.m .swwait)
  | 2 => some (.m .swadd)
  | _ => none

/-- OP 0x19 (R172). -/
def rows19 (fn : Nat) : Option Mk :=
  match fn with
  | 0 => some (.m .pcfg)
  | 1 => some (.m .pgo)
  | 2 => some (.m .pstop)
  | 3 => some (.m .pflush)
  | _ => none

/-- OP 0x1A (R172). -/
def rows1A (fn : Nat) : Option Mk :=
  match fn with
  | 0 => some (.m .wcfg)
  | 1 => some (.m .wadv)
  | 2 => some (.m .wrel)
  | _ => none

/-- OP 0x1B (R172). -/
def rows1B (fn : Nat) : Option Mk :=
  match fn with
  | 0 => some (.m .cpy)
  | 1 => some (.m .cpy2)
  | 2 => some (.m .cpy3)
  | 3 => some (.m .cpysw)
  | 4 => some (.m .cbat)
  | 5 => some (.m .waitn)
  | 6 => some (.m .pref)
  | _ => none

/-- OP 0x1C (R172). -/
def rows1C (fn : Nat) : Option Mk :=
  match fn with
  | 0 => some (.m .enq)
  | 1 => some (.m .deq)
  | _ => none

/-- OP 0x1D (R172). -/
def rows1D (fn : Nat) : Option Mk :=
  match fn with
  | 0 => some (.m .tierin)
  | 1 => some (.m .tierq)
  | 2 => some (.m .tierev)
  | _ => none

/-- OP 0x40 (R172). -/
def rows40 (fn : Nat) : Option Mk :=
  match fn with
  | 0 => some (.t .vadd)
  | 1 => some (.t .vsub)
  | 2 => some (.t .vmul)
  | 3 => some (.t .vfma)
  | 4 => some (.t .vfms)
  | 5 => some (.t .vmin)
  | 6 => some (.t .vmax)
  | 7 => some (.t .vabs)
  | 8 => some (.t .vneg)
  | 9 => some (.t .vabd)
  | _ => none

/-- OP 0x41 (R172). -/
def rows41 (fn : Nat) : Option Mk :=
  match fn with
  | 0 => some (.t .vcmp)
  | _ => none

/-- OP 0x42 (R172). -/
def rows42 (fn : Nat) : Option Mk :=
  match fn with
  | 0 => some (.t .vand)
  | 1 => some (.t .vor)
  | 2 => some (.t .vxor)
  | 3 => some (.t .vnot)
  | 4 => some (.t .vshl)
  | 5 => some (.t .vshr)
  | 6 => some (.t .vsra)
  | 7 => some (.t .vsel)
  | _ => none

/-- OP 0x43 (R172). -/
def rows43 (fn : Nat) : Option Mk :=
  match fn with
  | 0 => some (.t .vcvt)
  | 1 => some (.t .vcvts)
  | 2 => some (.t .vpack)
  | 3 => some (.t .vunpk)
  | 4 => some (.t .vqi4x)
  | _ => none

/-- OP 0x44 (R172). -/
def rows44 (fn : Nat) : Option Mk :=
  match fn with
  | 0 => some (.t .vmov)
  | 1 => some (.t .vbcst)
  | 2 => some (.t .vins)
  | 3 => some (.t .vext)
  | 4 => some (.t .vidx)
  | _ => none

/-- OP 0x45 (R172). -/
def rows45 (fn : Nat) : Option Mk :=
  match fn with
  | 0 => some (.t .vrotr)
  | 1 => some (.t .vrotc)
  | 2 => some (.t .vbcr)
  | 3 => some (.t .vbcc)
  | 4 => some (.t .vredr)
  | 5 => some (.t .vredc)
  | 6 => some (.t .vtrn)
  | 7 => some (.t .vperm)
  | _ => none

/-- OP 0x46 (R172). -/
def rows46 (fn : Nat) : Option Mk :=
  match fn with
  | 0 => some (.t .vexp2)
  | 1 => some (.t .vexp)
  | 2 => some (.t .vlog2)
  | 3 => some (.t .vrcp)
  | 4 => some (.t .vrsq)
  | 5 => some (.t .vsqrt)
  | 6 => some (.t .vtanh)
  | 7 => some (.t .vsigm)
  | 8 => some (.t .vsilu)
  | 9 => some (.t .vgelu)
  | _ => none

/-- OP 0x47 (R172). -/
def rows47 (fn : Nat) : Option Mk :=
  match fn with
  | 0 => some (.t .vrope)
  | 1 => some (.t .vsmerge)
  | _ => none

/-- OP 0x48 (R172). -/
def rows48 (fn : Nat) : Option Mk :=
  match fn with
  | 0 => some (.t .vclmulL)
  | 1 => some (.t .vclmulH)
  | 2 => some (.t .vpopc)
  | 3 => some (.t .vclz)
  | _ => none

/-- OP 0x49 (R172). -/
def rows49 (fn : Nat) : Option Mk :=
  match fn with
  | 0 => some (.t .vrand)
  | 1 => some (.t .rngkey)
  | _ => none

/-- OP 0x4A (R172). -/
def rows4A (fn : Nat) : Option Mk :=
  match fn with
  | 0 => some (.i .mand)
  | 1 => some (.i .mor)
  | 2 => some (.i .mxor)
  | 3 => some (.i .mnot)
  | 4 => some (.i .mset)
  | 5 => some (.i .mcnt)
  | 6 => some (.i .mfirst)
  | _ => none

/-- OP 0x70 (R172). -/
def rows70 (fn : Nat) : Option Mk :=
  match fn with
  | 0 => some (.t .mma)
  | 1 => some (.t .mmas)
  | 2 => some (.t .mmaf)
  | 3 => some (.t .mmat)
  | _ => none

/-- OP 0x71 (R172). -/
def rows71 (fn : Nat) : Option Mk :=
  match fn with
  | 0 => some (.t .mclr)
  | 1 => some (.t .anch)
  | 2 => some (.t .ashf)
  | 3 => some (.t .aaddv)
  | 4 => some (.t .aaddAcc)
  | 5 => some (.t .asub)
  | 6 => some (.t .amov)
  | 7 => some (.t .acan)
  | _ => none

/-- OP 0x72 (R172). -/
def rows72 (fn : Nat) : Option Mk :=
  match fn with
  | 0 => some (.t .rslv)
  | 1 => some (.t .acmp)
  | 2 => some (.t .aexn)
  | _ => none

/-- OP 0x73 (R172). -/
def rows73 (fn : Nat) : Option Mk :=
  match fn with
  | 0 => some (.m .astr)
  | 1 => some (.m .astc)
  | 2 => some (.m .aldr)
  | 3 => some (.m .aldc)
  | _ => none

/-- OP 0x74 (R172). -/
def rows74 (fn : Nat) : Option Mk :=
  match fn with
  | 0 => some (.t .setrm)
  | 1 => some (.t .fmtt)
  | _ => none

/-- OP 0x75 (R172). -/
def rows75 (fn : Nat) : Option Mk :=
  match fn with
  | 0 => some (.t .attn)
  | 1 => some (.t .attnm)
  | _ => none

/-- OP 0x80 (R172). -/
def rows80 (fn : Nat) : Option Mk :=
  match fn with
  | 0 => some (.m .kvnew)
  | 1 => some (.m .kvfree)
  | 2 => some (.m .kvfork)
  | 3 => some (.m .kvshare)
  | 4 => some (.m .kvstat)
  | _ => none

/-- OP 0x81 (R172). -/
def rows81 (fn : Nat) : Option Mk :=
  match fn with
  | 0 => some (.m .kvw)
  | 1 => some (.m .kvrnw)
  | 2 => some (.m .kvexp)
  | _ => none

/-- OP 0x82 (R172). -/
def rows82 (fn : Nat) : Option Mk :=
  match fn with
  | 0 => some (.m .kvadv)
  | 1 => some (.m .kvcmt)
  | 2 => some (.m .kvrwd)
  | _ => none

/-- OP 0x83 (R172). -/
def rows83 (fn : Nat) : Option Mk :=
  match fn with
  | 0 => some (.m .smin)
  | 1 => some (.m .smout)
  | 2 => some (.m .sminv)
  | 3 => some (.m .slabgr)
  | _ => none

/-- OP 0x84 (R172). -/
def rows84 (fn : Nat) : Option Mk :=
  match fn with
  | 0 => some (.m .xopen)
  | 1 => some (.m .xgrant)
  | 2 => some (.m .xsend)
  | 3 => some (.m .xrecv)
  | 4 => some (.m .xclose)
  | 5 => some (.m .xstat)
  | _ => none

/-- OP 0x85 (R172). -/
def rows85 (fn : Nat) : Option Mk :=
  match fn with
  | 0 => some (.m .pancfg)
  | 1 => some (.m .panrd)
  | _ => none

/-- OP 0x86 (R172). -/
def rows86 (fn : Nat) : Option Mk :=
  match fn with
  | 0 => some (.i .cntrd)
  | 1 => some (.i .cntclr)
  | 2 => some (.i .invtlb)
  | 3 => some (.i .pmcrd)
  | _ => none

/-- The opcode map: the row an OP and FN name, or none (R172, R174 row 1). -/
def opcodeRow (op fn : Nat) : Option Mk :=
  match op with
  | 0x01 => rows01 fn
  | 0x02 => rows02 fn
  | 0x03 => rows03 fn
  | 0x04 => rows04 fn
  | 0x05 => rows05 fn
  | 0x08 => rows08 fn
  | 0x09 => rows09 fn
  | 0x0A => rows0A fn
  | 0x0B => rows0B fn
  | 0x0C => rows0C fn
  | 0x0D => rows0D fn
  | 0x10 => rows10 fn
  | 0x11 => rows11 fn
  | 0x12 => rows12 fn
  | 0x13 => rows13 fn
  | 0x14 => rows14 fn
  | 0x15 => rows15 fn
  | 0x16 => rows16 fn
  | 0x17 => rows17 fn
  | 0x18 => rows18 fn
  | 0x19 => rows19 fn
  | 0x1A => rows1A fn
  | 0x1B => rows1B fn
  | 0x1C => rows1C fn
  | 0x1D => rows1D fn
  | 0x40 => rows40 fn
  | 0x41 => rows41 fn
  | 0x42 => rows42 fn
  | 0x43 => rows43 fn
  | 0x44 => rows44 fn
  | 0x45 => rows45 fn
  | 0x46 => rows46 fn
  | 0x47 => rows47 fn
  | 0x48 => rows48 fn
  | 0x49 => rows49 fn
  | 0x4A => rows4A fn
  | 0x70 => rows70 fn
  | 0x71 => rows71 fn
  | 0x72 => rows72 fn
  | 0x73 => rows73 fn
  | 0x74 => rows74 fn
  | 0x75 => rows75 fn
  | 0x80 => rows80 fn
  | 0x81 => rows81 fn
  | 0x82 => rows82 fn
  | 0x83 => rows83 fn
  | 0x84 => rows84 fn
  | 0x85 => rows85 fn
  | 0x86 => rows86 fn
  | _ => none

/-- PANCFG with SZ[0] set releases a slot: the table's row PANCFG_REL (R282, R299). -/
def splitRel (i : Instr) : Instr :=
  match i with
  | .pancfg w => if w.sz.getLsbD 0 then .pancfgRel w else .pancfg w
  | j => j

/-- The instruction a 96-bit word encodes; none when its OP or FN is unassigned (R172, R174 row 1). -/
def decodeWord (w : Nat) : Option Instr :=
  (opcodeRow (w / 2 ^ 88 % 256) (w / 2 ^ 84 % 16)).map fun k => splitRel (k.apply w)

/-- The instruction at the head of a byte sequence, and the rest (R170). -/
def decodeBytes (bs : List Byte) : Option (Instr × List Byte) :=
  if bs.length < 12 then none
  else (decodeWord (leNat (bs.take 12))).map fun i => (i, bs.drop 12)

/-- The instruction the decoder reads from a table word. -/
def decodeTableWord (nbits w : Nat) : Option Instr :=
  (decodeBytes (leBytes 12 (w % 2 ^ (max nbits 96)))).map (·.1)

/-- A section header's fields (R163). -/
structure SecHdr where
  hk  : Nat
  len : Nat
  d1  : Nat
  d2  : Nat
  v1  : Bool
  v2  : Bool
  sid : Nat
  res : Nat
  tag : Nat
  deriving DecidableEq, Repr

/-- Read a header from its 64 bits (R163). -/
def decodeHdr (w : Nat) : SecHdr where
  hk := w / 2 ^ 60 % 16
  len := w / 2 ^ 48 % 4096
  d1 := w / 2 ^ 36 % 4096
  d2 := w / 2 ^ 24 % 4096
  v1 := w / 2 ^ 23 % 2 == 1
  v2 := w / 2 ^ 22 % 2 == 1
  sid := w / 2 ^ 20 % 4
  res := w / 2 ^ 16 % 16
  tag := w % 2 ^ 16

/-- A header's 64 bits (R163). -/
def encodeHdr (h : SecHdr) : Nat :=
  h.hk * 2 ^ 60 + h.len * 2 ^ 48 + h.d1 * 2 ^ 36 + h.d2 * 2 ^ 24 + h.v1.toNat * 2 ^ 23 + h.v2.toNat * 2 ^ 22
    + h.sid * 2 ^ 20 + h.res * 2 ^ 16 + h.tag

/-- The common fields placed in bits [83:36]. -/
def packHd (h : Hd) : Nat :=
  h.pm.toNat * 2 ^ 80 + h.awe.toNat * 2 ^ 79 + h.awk.toNat * 2 ^ 76 + h.d.toNat * 2 ^ 66 + h.a.toNat * 2 ^ 56
    + h.b.toNat * 2 ^ 46 + h.c.toNat * 2 ^ 36

/-- A payload placed in bits [83:0]. -/
def packPayload (p : Payload) : Nat :=
  match p with
  | .z w => packHd w.toHd + w.x.toNat
  | .i w => packHd w.toHd + w.imm.toNat
  | .t w => packHd w.toHd + (w.et.toNat * 2 ^ 32 + w.rm.toNat * 2 ^ 29 + w.sat.toNat * 2 ^ 28 + w.ext.toNat)
  | .m w => packHd w.toHd + (w.cls.toNat * 2 ^ 32 + w.tke.toNat * 2 ^ 31 + w.tk.toNat * 2 ^ 28 + w.opn.toNat * 2 ^ 27
      + w.sz.toNat * 2 ^ 24 + w.disp.toNat)
  | .f w => packHd w.toHd + (w.res.toNat * 2 ^ 31 + w.scope.toNat * 2 ^ 28 + w.pred.toNat * 2 ^ 22
      + w.succ.toNat * 2 ^ 16 + w.clm.toNat)

/-- The OP, FN and payload of an instruction; a step that no word encodes has none (R172). -/
def Instr.code (i : Instr) : Option (Nat × Nat × Payload) :=
  match i with
  | .add w => some (0x01, 0, .z w)
  | .sub w => some (0x01, 1, .z w)
  | .and w => some (0x01, 2, .z w)
  | .or w => some (0x01, 3, .z w)
  | .xor w => some (0x01, 4, .z w)
  | .shl w => some (0x01, 5, .z w)
  | .shr w => some (0x01, 6, .z w)
  | .sra w => some (0x01, 7, .z w)
  | .slt w => some (0x01, 8, .z w)
  | .sltu w => some (0x01, 9, .z w)
  | .min w => some (0x01, 10, .z w)
  | .max w => some (0x01, 11, .z w)
  | .minu w => some (0x01, 12, .z w)
  | .maxu w => some (0x01, 13, .z w)
  | .addi w => some (0x02, 0, .i w)
  | .andi w => some (0x02, 2, .i w)
  | .ori w => some (0x02, 3, .i w)
  | .xori w => some (0x02, 4, .i w)
  | .shli w => some (0x02, 5, .i w)
  | .shri w => some (0x02, 6, .i w)
  | .srai w => some (0x02, 7, .i w)
  | .slti w => some (0x02, 8, .i w)
  | .sltiu w => some (0x02, 9, .i w)
  | .mini w => some (0x02, 10, .i w)
  | .maxi w => some (0x02, 11, .i w)
  | .minui w => some (0x02, 12, .i w)
  | .maxui w => some (0x02, 13, .i w)
  | .mul w => some (0x03, 0, .z w)
  | .mulh w => some (0x03, 1, .z w)
  | .mulhu w => some (0x03, 2, .z w)
  | .div w => some (0x03, 3, .z w)
  | .divu w => some (0x03, 4, .z w)
  | .rem w => some (0x03, 5, .z w)
  | .remu w => some (0x03, 6, .z w)
  | .sclmul w => some (0x03, 7, .z w)
  | .sclmulh w => some (0x03, 8, .z w)
  | .clz w => some (0x04, 0, .i w)
  | .ctz w => some (0x04, 1, .i w)
  | .popc w => some (0x04, 2, .i w)
  | .brev w => some (0x04, 3, .i w)
  | .bswap w => some (0x04, 4, .i w)
  | .extr w => some (0x04, 5, .i w)
  | .ins w => some (0x04, 6, .i w)
  | .extrs w => some (0x04, 7, .i w)
  | .movi w => some (0x05, 0, .i w)
  | .movhi w => some (0x05, 1, .i w)
  | .mov w => some (0x05, 2, .i w)
  | .sel w => some (0x05, 3, .i w)
  | .beq w => some (0x08, 0, .i w)
  | .bne w => some (0x08, 1, .i w)
  | .blt w => some (0x08, 2, .i w)
  | .bge w => some (0x08, 3, .i w)
  | .bltu w => some (0x08, 4, .i w)
  | .bgeu w => some (0x08, 5, .i w)
  | .br w => some (0x09, 0, .i w)
  | .bri w => some (0x09, 1, .i w)
  | .call w => some (0x09, 2, .i w)
  | .ret w => some (0x09, 3, .i w)
  | .bq w => some (0x09, 4, .i w)
  | .bqz w => some (0x09, 5, .i w)
  | .loop w => some (0x0A, 0, .i w)
  | .loopi w => some (0x0A, 1, .i w)
  | .loops w => some (0x0A, 2, .i w)
  | .rrbset w => some (0x0A, 3, .i w)
  | .rdz w => some (0x0B, 0, .i w)
  | .yield w => some (0x0B, 1, .i w)
  | .endStream w => some (0x0B, 2, .i w)
  | .trap w => some (0x0B, 3, .i w)
  | .eret w => some (0x0B, 4, .i w)
  | .bkpt w => some (0x0B, 5, .i w)
  | .rdsr w => some (0x0C, 0, .i w)
  | .wrsr w => some (0x0C, 1, .i w)
  | .rdcyc w => some (0x0C, 2, .i w)
  | .sqw w => some (0x0D, 0, .z w)
  | .sqr w => some (0x0D, 1, .z w)
  | .ldB w => some (0x10, 0, .m w)
  | .ldBn w => some (0x10, 1, .m w)
  | .ldH w => some (0x10, 2, .m w)
  | .ldHn w => some (0x10, 3, .m w)
  | .ldW w => some (0x10, 4, .m w)
  | .ldWn w => some (0x10, 5, .m w)
  | .ldD w => some (0x10, 6, .m w)
  | .stB w => some (0x11, 0, .m w)
  | .stH w => some (0x11, 1, .m w)
  | .stW w => some (0x11, 2, .m w)
  | .stD w => some (0x11, 3, .m w)
  | .ldv w => some (0x12, 0, .m w)
  | .ldvp w => some (0x12, 1, .m w)
  | .stv w => some (0x13, 0, .m w)
  | .stvp w => some (0x13, 1, .m w)
  | .ldg w => some (0x14, 0, .m w)
  | .stg w => some (0x15, 0, .m w)
  | .aaddAtomic w => some (0x16, 0, .m w)
  | .aand w => some (0x16, 1, .m w)
  | .aor w => some (0x16, 2, .m w)
  | .axor w => some (0x16, 3, .m w)
  | .amin w => some (0x16, 4, .m w)
  | .amax w => some (0x16, 5, .m w)
  | .aminn w => some (0x16, 6, .m w)
  | .amaxn w => some (0x16, 7, .m w)
  | .aswp w => some (0x16, 8, .m w)
  | .acas w => some (0x16, 9, .m w)
  | .fence w => some (0x17, 0, .f w)
  | .swinit w => some (0x18, 0, .m w)
  | .swwait w => some (0x18, 1, .m w)
  | .swadd w => some (0x18, 2, .m w)
  | .pcfg w => some (0x19, 0, .m w)
  | .pgo w => some (0x19, 1, .m w)
  | .pstop w => some (0x19, 2, .m w)
  | .pflush w => some (0x19, 3, .m w)
  | .wcfg w => some (0x1A, 0, .m w)
  | .wadv w => some (0x1A, 1, .m w)
  | .wrel w => some (0x1A, 2, .m w)
  | .cpy w => some (0x1B, 0, .m w)
  | .cpy2 w => some (0x1B, 1, .m w)
  | .cpy3 w => some (0x1B, 2, .m w)
  | .cpysw w => some (0x1B, 3, .m w)
  | .cbat w => some (0x1B, 4, .m w)
  | .waitn w => some (0x1B, 5, .m w)
  | .pref w => some (0x1B, 6, .m w)
  | .enq w => some (0x1C, 0, .m w)
  | .deq w => some (0x1C, 1, .m w)
  | .tierin w => some (0x1D, 0, .m w)
  | .tierq w => some (0x1D, 1, .m w)
  | .tierev w => some (0x1D, 2, .m w)
  | .vadd w => some (0x40, 0, .t w)
  | .vsub w => some (0x40, 1, .t w)
  | .vmul w => some (0x40, 2, .t w)
  | .vfma w => some (0x40, 3, .t w)
  | .vfms w => some (0x40, 4, .t w)
  | .vmin w => some (0x40, 5, .t w)
  | .vmax w => some (0x40, 6, .t w)
  | .vabs w => some (0x40, 7, .t w)
  | .vneg w => some (0x40, 8, .t w)
  | .vabd w => some (0x40, 9, .t w)
  | .vcmp w => some (0x41, 0, .t w)
  | .vand w => some (0x42, 0, .t w)
  | .vor w => some (0x42, 1, .t w)
  | .vxor w => some (0x42, 2, .t w)
  | .vnot w => some (0x42, 3, .t w)
  | .vshl w => some (0x42, 4, .t w)
  | .vshr w => some (0x42, 5, .t w)
  | .vsra w => some (0x42, 6, .t w)
  | .vsel w => some (0x42, 7, .t w)
  | .vcvt w => some (0x43, 0, .t w)
  | .vcvts w => some (0x43, 1, .t w)
  | .vpack w => some (0x43, 2, .t w)
  | .vunpk w => some (0x43, 3, .t w)
  | .vqi4x w => some (0x43, 4, .t w)
  | .vmov w => some (0x44, 0, .t w)
  | .vbcst w => some (0x44, 1, .t w)
  | .vins w => some (0x44, 2, .t w)
  | .vext w => some (0x44, 3, .t w)
  | .vidx w => some (0x44, 4, .t w)
  | .vrotr w => some (0x45, 0, .t w)
  | .vrotc w => some (0x45, 1, .t w)
  | .vbcr w => some (0x45, 2, .t w)
  | .vbcc w => some (0x45, 3, .t w)
  | .vredr w => some (0x45, 4, .t w)
  | .vredc w => some (0x45, 5, .t w)
  | .vtrn w => some (0x45, 6, .t w)
  | .vperm w => some (0x45, 7, .t w)
  | .vexp2 w => some (0x46, 0, .t w)
  | .vexp w => some (0x46, 1, .t w)
  | .vlog2 w => some (0x46, 2, .t w)
  | .vrcp w => some (0x46, 3, .t w)
  | .vrsq w => some (0x46, 4, .t w)
  | .vsqrt w => some (0x46, 5, .t w)
  | .vtanh w => some (0x46, 6, .t w)
  | .vsigm w => some (0x46, 7, .t w)
  | .vsilu w => some (0x46, 8, .t w)
  | .vgelu w => some (0x46, 9, .t w)
  | .vrope w => some (0x47, 0, .t w)
  | .vsmerge w => some (0x47, 1, .t w)
  | .vclmulL w => some (0x48, 0, .t w)
  | .vclmulH w => some (0x48, 1, .t w)
  | .vpopc w => some (0x48, 2, .t w)
  | .vclz w => some (0x48, 3, .t w)
  | .vrand w => some (0x49, 0, .t w)
  | .rngkey w => some (0x49, 1, .t w)
  | .mand w => some (0x4A, 0, .i w)
  | .mor w => some (0x4A, 1, .i w)
  | .mxor w => some (0x4A, 2, .i w)
  | .mnot w => some (0x4A, 3, .i w)
  | .mset w => some (0x4A, 4, .i w)
  | .mcnt w => some (0x4A, 5, .i w)
  | .mfirst w => some (0x4A, 6, .i w)
  | .mma w => some (0x70, 0, .t w)
  | .mmas w => some (0x70, 1, .t w)
  | .mmaf w => some (0x70, 2, .t w)
  | .mmat w => some (0x70, 3, .t w)
  | .mclr w => some (0x71, 0, .t w)
  | .anch w => some (0x71, 1, .t w)
  | .ashf w => some (0x71, 2, .t w)
  | .aaddv w => some (0x71, 3, .t w)
  | .aaddAcc w => some (0x71, 4, .t w)
  | .asub w => some (0x71, 5, .t w)
  | .amov w => some (0x71, 6, .t w)
  | .acan w => some (0x71, 7, .t w)
  | .rslv w => some (0x72, 0, .t w)
  | .acmp w => some (0x72, 1, .t w)
  | .aexn w => some (0x72, 2, .t w)
  | .astr w => some (0x73, 0, .m w)
  | .astc w => some (0x73, 1, .m w)
  | .aldr w => some (0x73, 2, .m w)
  | .aldc w => some (0x73, 3, .m w)
  | .setrm w => some (0x74, 0, .t w)
  | .fmtt w => some (0x74, 1, .t w)
  | .attn w => some (0x75, 0, .t w)
  | .attnm w => some (0x75, 1, .t w)
  | .kvnew w => some (0x80, 0, .m w)
  | .kvfree w => some (0x80, 1, .m w)
  | .kvfork w => some (0x80, 2, .m w)
  | .kvshare w => some (0x80, 3, .m w)
  | .kvstat w => some (0x80, 4, .m w)
  | .kvw w => some (0x81, 0, .m w)
  | .kvrnw w => some (0x81, 1, .m w)
  | .kvexp w => some (0x81, 2, .m w)
  | .kvadv w => some (0x82, 0, .m w)
  | .kvcmt w => some (0x82, 1, .m w)
  | .kvrwd w => some (0x82, 2, .m w)
  | .smin w => some (0x83, 0, .m w)
  | .smout w => some (0x83, 1, .m w)
  | .sminv w => some (0x83, 2, .m w)
  | .slabgr w => some (0x83, 3, .m w)
  | .xopen w => some (0x84, 0, .m w)
  | .xgrant w => some (0x84, 1, .m w)
  | .xsend w => some (0x84, 2, .m w)
  | .xrecv w => some (0x84, 3, .m w)
  | .xclose w => some (0x84, 4, .m w)
  | .xstat w => some (0x84, 5, .m w)
  | .pancfg w => some (0x85, 0, .m w)
  | .pancfgRel w => some (0x85, 0, .m w)
  | .panrd w => some (0x85, 1, .m w)
  | .cntrd w => some (0x86, 0, .i w)
  | .cntclr w => some (0x86, 1, .i w)
  | .invtlb w => some (0x86, 2, .i w)
  | .pmcrd w => some (0x86, 3, .i w)
  | .resultLands => none
  | .loadDataReturn _ => none
  | .storePerform _ => none
  | .atomicPerform _ => none
  | .sectionEntry _ => none
  | .sectionRetire _ => none
  | .rdzJoin => none
  | .streamDeadlock => none
  | .jobComplete => none
  | .eventTaken _ => none
  | .tileLoadComplete _ _ => none
  | .gatherComplete _ => none
  | .rakeRowPerform _ _ => none
  | .swwaitComplete => none
  | .windowFetchPerform _ _ => none
  | .pgenTilePush _ => none
  | .mailboxCommand _ _ => none
  | .tierMigrationComplete _ => none
  | .contextAreaClearDone _ _ => none
  | .kvwComplete _ _ => none
  | .forkCopyDone _ _ => none
  | .kvCommandApply _ _ => none
  | .orreryReclaimStep _ _ => none
  | .orreryReleaseStep _ _ => none
  | .slabPageMove _ _ => none
  | .attnPageCompute _ _ => none
  | .attnComplete _ _ => none
  | .channelMatch _ _ => none
  | .permitArrive _ _ => none
  | .setArrived _ _ => none
  | .bridgeBeatReplay _ _ => none
  | .bridgeRetrain _ _ => none
  | .xcloseComplete _ _ => none
  | .panStoreObserve _ => none
  | .launchTake _ _ => none
  | .tailxWrite _ _ => none
  | .gangPlace _ => none
  | .sliceEnd _ => none
  | .preemptStop _ _ => none
  | .gangSaveComplete _ _ => none
  | .launchComplete _ => none
  | .powerGood => none
  | .phaseComplete _ _ => none
  | .phaseTimeout => none
  | .deviceReset => none
  | .firmwareUpdate _ _ => none
  | .cxlMemRead _ _ => none
  | .cxlMemWrite _ _ => none
  | .ideEstablished => none
  | .ideKeyRefresh => none
  | .ideIntegrityFail => none
  | .ideerrClear _ => none
  | .registerWrite _ _ => none
  | .rootWrite _ _ => none
  | .preqGo _ _ => none
  | .preqCancel _ _ => none
  | .preqResume _ _ => none
  | .tlbinvWrite _ => none
  | .tlbinvComplete => none
  | .faqPop => none
  | .hbmErrorReport _ _ => none
  | .retireRemap _ => none
  | .retireExclude _ => none
  | .retireComplete => none
  | .rowctlWrite _ => none
  | .rowActivation _ => none
  | .refreshManagement _ => none
  | .backoffEnd _ => none
  | .periodicRefresh _ _ => none
  | .flashRebuild _ _ => none
  | .watchdogWrite _ => none
  | .watchdogExpire _ => none
  | .cdisWrite _ _ => none
  | .prepare _ _ => none
  | .ack _ _ => none
  | .nack _ _ => none
  | .commit _ _ => none
  | .abort _ _ => none
  | .almanacAckTimeout => none
  | .flitReceive _ _ => none
  | .nakReceive _ _ => none
  | .portRetrain _ _ => none
  | .laneDrop _ _ => none
  | .laneWidthSwitch _ => none
  | .topoLoad _ => none
  | .topoLoadComplete => none
  | .colqSubmit _ => none
  | .ringStep _ _ => none
  | .collectiveComplete => none
  | .getVersion => none
  | .getCapabilities => none
  | .negotiateAlgorithms _ _ => none
  | .getDigests => none
  | .getCertificate _ => none
  | .challenge _ => none
  | .getMeasurements => none
  | .keyExchange _ => none
  | .finish _ => none
  | .keyUpdate => none
  | .endSession => none
  | .sharedInfrastructureMachineCheck _ => none
  | .tileImageLoadComplete _ => none
  | .orreryBatchPerformed _ _ => none

/-- The 96-bit word of an instruction (R170). -/
def encodeWord (i : Instr) : Option Nat :=
  i.code.map fun (op, fn, p) => op * 2 ^ 88 + fn * 2 ^ 84 + packPayload p

/-- The 12 bytes of an instruction, little-endian (R170). -/
def encode (i : Instr) : Option (List Byte) := (encodeWord i).map (leBytes 12)

end Sys2Proof
end

