-- ==== Sys2Proof/Config.lean ====
section
/-!
DEFINITION. The free values: what the spec leaves open and no proof may evaluate. Each is an opaque constant
applied to plain data; a claim about one holds whatever it is (log entry 5).
-/

namespace Sys2Proof

/-- The `n`th free value of width `w` (log entry 5). -/
opaque Config.free (n : Nat) (w : Nat) : BitVec w

/-- The `n`th free yes or no: for example whether a training or a signature check succeeds (log entry 5). -/
opaque Config.freeBool (n : Nat) : Bool

/-- SHAKE256 truncated to 256 bits; the spec names the hash and does not define it (R367, R386; log entry 6). -/
opaque Config.shake256 (bytes : List Byte) : BitVec 256

/-- The signature of a digest by the identity key; the spec names ML-DSA-65 and does not define it (R385; log entry 6). -/
opaque Config.sign (digest : BitVec 256) : List Byte

/-- A received flit after forward error correction (R375; log entry 6). -/
opaque Config.fecCorrects (flit : List Byte) : List Byte

/-- The forward error correction bytes of a flit (R374; log entry 6). -/
opaque Config.fec (bytes : List Byte) : List Byte

/-- The images the measurements are taken of: the lead ROM, the boot firmware as shipped, the runtime firmware (R386; log entry 5). -/
opaque Config.romImage : List Byte
opaque Config.bootImage : List Byte
opaque Config.runtimeImage : List Byte

/-- The identity key's certificate chain (R385; log entry 5). -/
opaque Config.certChain : List Byte

/-- Whether an offset of the register block is a register of a UIO window; the spec gives no offsets (R330; log entry 5). -/
opaque Config.uioReg (offset : Nat) : Bool

/-- The UIO windows that the registers describe, each with its host address and its size; the spec gives no form (R330; log entry 5). -/
opaque Config.uioWindows (regs : List (Nat × BitVec 64)) : List (Nat × Nat)

/-- The topology entry a fabric port reaches, where the table does not name it (R375, R381; log entry 5). -/
opaque Config.portPeer (port : Nat) : Nat

/-- The launches the firmware enqueues for a step of an iteration, 0 the forward pass, 1 sampling, 2 acceptance: each a queue node and a launch
record (R365; log entry 5). -/
opaque Config.loopLaunches (step iter : Nat) : List (Nat × Nat)

/-- Whether a draft passes its acceptance test, from the bits of its draw and the row's record; the spec gives the draw and not the test (R373;
log entry 5). -/
opaque Config.acceptsDraft (u : Nat) (record : List Byte) : Bool

/-- The symbols of a lane that forward error correction corrects in a received flit (R376; log entry 5). -/
opaque Config.fecFixed (flit : List Byte) (lane : Nat) : Nat

end Sys2Proof
end

