-- ==== Sys2Proof/Machine/Num.lean ====
section
/-!
DEFINITION. Element types, the value of every bit pattern, the single rounding of an exact result and the events
it counts (R54 to R64, R79).
-/

namespace Sys2Proof.Machine

/-- Element types (R54 to R57). -/
inductive ETy where
  | i8 | n8 | i16 | n16 | i32 | n32 | e4m3 | e5m2 | fp16 | bf16 | fp32 | i4x
  deriving DecidableEq, Repr

/-- The type a 4-bit code names; 0 names none and 0xD to 0xF are reserved (R56). -/
def ETy.ofCode (c : BitVec 4) : Option ETy :=
  match c.toNat with
  | 1 => some .i8 | 2 => some .n8 | 3 => some .i16 | 4 => some .n16 | 5 => some .i32 | 6 => some .n32
  | 7 => some .e4m3 | 8 => some .e5m2 | 9 => some .fp16 | 10 => some .bf16 | 11 => some .fp32 | 12 => some .i4x
  | _ => none

/-- The element width in bits (R54, R55, R57). -/
def ETy.width : ETy → Nat
  | .i8 | .n8 | .e4m3 | .e5m2 => 8
  | .i16 | .n16 | .fp16 | .bf16 => 16
  | .i32 | .n32 | .fp32 => 32
  | .i4x => 4

def ETy.isInt : ETy → Bool
  | .i8 | .n8 | .i16 | .n16 | .i32 | .n32 => true
  | _ => false

def ETy.isFloat : ETy → Bool
  | .e4m3 | .e5m2 | .fp16 | .bf16 | .fp32 => true
  | _ => false

def ETy.isSigned : ETy → Bool
  | .i8 | .i16 | .i32 => true
  | _ => false

/-- Elements in a row of a register or pair (R239). -/
def ETy.perRow (t : ETy) : Nat :=
  match t.width with | 4 => 256 | 8 => 128 | _ => 64

/-- Registers one operand of the type occupies: a pair for 32-bit types (R31). -/
def ETy.regs (t : ETy) : Nat := if t.width = 32 then 2 else 1

/-- Fraction bits, exponent bits and bias of a float type (R55). -/
def ETy.fracBits : ETy → Nat
  | .e4m3 => 3 | .e5m2 => 2 | .fp16 => 10 | .bf16 => 7 | .fp32 => 23 | _ => 0
def ETy.expBits : ETy → Nat
  | .e4m3 => 4 | .e5m2 => 5 | .fp16 => 5 | .bf16 => 8 | .fp32 => 8 | _ => 0
def ETy.bias : ETy → Int
  | .e4m3 => 7 | .e5m2 => 15 | .fp16 => 15 | .bf16 => 127 | .fp32 => 127 | _ => 0

/-- A float's value: a NaN, an infinity, or sign, magnitude `m * 2^e` (R55). -/
inductive FVal where
  | nan
  | inf (neg : Bool)
  | fin (neg : Bool) (m : Nat) (e : Int)
  deriving DecidableEq, Repr

/-- The value of a float bit pattern (R55). -/
def decodeFloat (t : ETy) (bits : Nat) : FVal :=
  let fb := t.fracBits
  let eb := t.expBits
  let f := bits % 2 ^ fb
  let e := (bits / 2 ^ fb) % 2 ^ eb
  let neg := bits.testBit (fb + eb)
  let special : Bool := match t with
    | .e4m3 => e == 15 && f == 7
    | _ => e == 2 ^ eb - 1
  if special then (if t = .e4m3 ∨ f ≠ 0 then .nan else .inf neg)
  else if e = 0 then .fin neg f (1 - t.bias - fb)
  else .fin neg (2 ^ fb + f) ((e : Int) - t.bias - fb)

/-- The integer an element of an integer type holds (R54). -/
def decodeInt (t : ETy) (bits : Nat) : Int :=
  if t.isSigned then sextNat t.width bits else ((bits % 2 ^ t.width : Nat) : Int)

/-- The value of an element of any type but I4X, as a float value (exact). -/
def decodeElem (t : ETy) (bits : Nat) : FVal :=
  if t.isFloat then decodeFloat t bits
  else let v := decodeInt t bits; .fin (decide (v < 0)) v.natAbs 0

/-- The NaN an operation produces (R61). -/
def producedNaN : ETy → Nat
  | .e4m3 => 0x7F | .e5m2 => 0x7E | .fp16 => 0x7E00 | .bf16 => 0x7FC0 | .fp32 => 0x7FC00000 | _ => 0

/-- The bit pattern of an infinity; E4M3 has none and takes its NaN (R55, R59). -/
def infBits (t : ETy) (neg : Bool) : Nat :=
  match t with
  | .e4m3 => 0x7F
  | _ => ((2 ^ t.expBits - 1) * 2 ^ t.fracBits) + (if neg then 2 ^ (t.width - 1) else 0)

/-- The bit pattern of the largest finite magnitude (R55). -/
def maxBits (t : ETy) (neg : Bool) : Nat :=
  (match t with
   | .e4m3 => 0x7E
   | _ => (2 ^ t.expBits - 1) * 2 ^ t.fracBits - 1) + (if neg then 2 ^ (t.width - 1) else 0)

/-- Rounding modes (R58). -/
inductive RMode where
  | rne | rtz | rdn | rup | rna
  deriving DecidableEq, Repr

/-- Codes 0 to 4; 5 is resolved before and 6, 7 are illegal (R58). -/
def RMode.ofCode (c : Nat) : RMode :=
  match c with | 1 => .rtz | 2 => .rdn | 3 => .rup | 4 => .rna | _ => .rne

/-- An exact result before rounding: a NaN, an infinity, or a signed rational (R58). -/
inductive XVal where
  | nan
  | inf (neg : Bool)
  | rat (neg : Bool) (num den : Nat)
  deriving DecidableEq, Repr

/-- A rounded element and the counters (4f + k) it counts in (R79). -/
structure Rounded where
  bits : Nat
  events : List Nat
  deriving DecidableEq, Repr, Inhabited

/-- The row of R79 that counts a type's events. -/
def ETy.row : ETy → Nat
  | .e4m3 => 1 | .e5m2 => 2 | .fp16 => 3 | .bf16 => 4 | .fp32 => 5 | _ => 6

/-- Whether a magnitude with quotient `q` and remainder `r` over `den` rounds up (R58). -/
def roundsUp (rm : RMode) (neg : Bool) (q r den : Nat) : Bool :=
  match rm with
  | .rne => decide (2 * r > den) || (decide (2 * r = den) && q % 2 == 1)
  | .rna => decide (2 * r ≥ den) && decide (r > 0)
  | .rtz => false
  | .rdn => neg && decide (r > 0)
  | .rup => !neg && decide (r > 0)

/-- `floor (log2 (num / den))` for positive numbers. -/
def ratLog2 (num den : Nat) : Int :=
  let l : Int := (Nat.log2 num : Int) - Nat.log2 den
  let ge := if l ≥ 0 then decide (num ≥ den * 2 ^ l.toNat) else decide (num * 2 ^ (-l).toNat ≥ den)
  if ge then l else l - 1

/-- `num / den` scaled by `2^(-q)` and rounded to an integer: the integer and whether it is exact. -/
def roundScaled (rm : RMode) (neg : Bool) (num den : Nat) (q : Int) : Nat × Bool :=
  let n := if q ≥ 0 then num else num * 2 ^ (-q).toNat
  let d := if q ≥ 0 then den * 2 ^ q.toNat else den
  let k := n / d
  let r := n % d
  (if roundsUp rm neg k r d then k + 1 else k, r == 0)

/-- The bit pattern of magnitude `n * 2^q`, where `n` has at most `frac + 1` bits and `q` is its quantum. -/
def packFloat (t : ETy) (neg : Bool) (n : Nat) (q : Int) : Nat :=
  let fb := t.fracBits
  let s := if neg then 2 ^ (t.width - 1) else 0
  if n < 2 ^ fb then s + n
  else if n = 2 ^ (fb + 1) then s + ((q + 1 + fb + t.bias).toNat) * 2 ^ fb
  else s + ((q + fb + t.bias).toNat) * 2 ^ fb + (n - 2 ^ fb)

/-- The quantum of the least binade, and the largest finite value as `n * 2^q` (R55). -/
def ETy.minQuantum (t : ETy) : Int := 1 - t.bias - t.fracBits
def ETy.maxFinite (t : ETy) : Nat × Int :=
  match t with
  | .e4m3 => (14, 5)
  | _ => (2 ^ (t.fracBits + 1) - 1, (2 ^ t.expBits - 2 : Nat) - t.bias - t.fracBits)

/-- The result of an overflow or an infinity under a mode, and its events (R59). `ofl`: it is an overflow. -/
def overflowResult (t : ETy) (rm : RMode) (sat neg ofl : Bool) : Rounded :=
  let toInf := !ofl || (match rm with
    | .rne | .rna => true | .rtz => false | .rdn => neg | .rup => !neg)
  if !toInf then { bits := maxBits t neg, events := [4 * t.row + 2] }
  else if sat then { bits := maxBits t neg, events := [4 * t.row + 2] }
  else { bits := infBits t neg,
         events := (if ofl then [4 * t.row + 2] else []) ++ [4 * t.row + (if t = .e4m3 then 0 else 1)] }

/-- One rounding of an exact value to a float type (R58 to R61). -/
def roundFloat (t : ETy) (rm : RMode) (sat : Bool) (x : XVal) : Rounded :=
  match x with
  | .nan => { bits := producedNaN t, events := [4 * t.row] }
  | .inf neg => overflowResult t rm sat neg false
  | .rat neg num den =>
    if num = 0 then { bits := packFloat t neg 0 0, events := [] }
    else
      let l := ratLog2 num den
      let q := max (l - t.fracBits) t.minQuantum
      let (n, exact) := roundScaled rm neg num den q
      let (mn, mq) := t.maxFinite
      let big := if q ≥ mq then decide (n * 2 ^ (q - mq).toNat > mn) else decide (n > mn * 2 ^ (mq - q).toNat)
      if big then overflowResult t rm sat neg true
      else { bits := packFloat t neg n q,
             events := if !exact && decide (l < 1 - t.bias) then [4 * t.row + 3] else [] }

/-- The exact value of a float value. -/
def FVal.toX : FVal → XVal
  | .nan => .nan
  | .inf n => .inf n
  | .fin n m e => if e ≥ 0 then .rat n (m * 2 ^ e.toNat) 1 else .rat n m (2 ^ (-e).toNat)

/-- The signed integer `m * 2^e` scaled to quantum `2^q`, for `q ≤ e`. -/
def scaleTo (neg : Bool) (m : Nat) (e q : Int) : Int :=
  let v : Int := (m * 2 ^ (e - q).toNat : Nat)
  if neg then -v else v

/-- The exact sum of two values; an exact zero of opposite signs is +0 (R60, R61). -/
def addExact (a b : FVal) : FVal :=
  match a, b with
  | .nan, _ => .nan
  | _, .nan => .nan
  | .inf x, .inf y => if x = y then .inf x else .nan
  | .inf x, _ => .inf x
  | _, .inf y => .inf y
  | .fin na ma ea, .fin nb mb eb =>
    let q := min ea eb
    let s := scaleTo na ma ea q + scaleTo nb mb eb q
    if s = 0 then .fin (na && nb) 0 q else .fin (decide (s < 0)) s.natAbs q

def negF : FVal → FVal
  | .nan => .nan
  | .inf n => .inf !n
  | .fin n m e => .fin (!n) m e

def absF : FVal → FVal
  | .nan => .nan
  | .inf _ => .inf false
  | .fin _ m e => .fin false m e

/-- The exact product (R61: zero times infinity is NaN). -/
def mulExact (a b : FVal) : FVal :=
  match a, b with
  | .nan, _ => .nan
  | _, .nan => .nan
  | .inf x, .inf y => .inf (x != y)
  | .inf x, .fin y m _ => if m = 0 then .nan else .inf (x != y)
  | .fin x m _, .inf y => if m = 0 then .nan else .inf (x != y)
  | .fin x m e, .fin y n f => .fin (x != y) (m * n) (e + f)

/-- The exact quotient of scaled conversion, special cases first (R64). -/
def divExact (x s : FVal) : XVal × Bool :=
  match x, s with
  | .nan, _ => (.nan, false)
  | _, .nan => (.nan, false)
  | .inf _, .inf _ => (.nan, false)
  | .inf a, .fin b _ _ => (.inf (a != b), false)
  | .fin a _ _, .inf b => (.rat (a != b) 0 1, false)
  | .fin a m e, .fin b n f =>
    if n = 0 then (if m = 0 then (.nan, false) else (.inf (a != b), true))
    else
      let d := e - f
      if d ≥ 0 then (.rat (a != b) (m * 2 ^ d.toNat) n, false)
      else (.rat (a != b) m (n * 2 ^ (-d).toNat), false)

/-- Compare two finite or infinite values; none when a NaN is met (R244). -/
def cmpF (a b : FVal) : Option Ordering :=
  match a, b with
  | .nan, _ => none
  | _, .nan => none
  | .inf x, .inf y => some (if x = y then .eq else if x then .lt else .gt)
  | .inf x, _ => some (if x then .lt else .gt)
  | _, .inf y => some (if y then .gt else .lt)
  | .fin na ma ea, .fin nb mb eb =>
    let q := min ea eb
    some (compare (scaleTo na ma ea q) (scaleTo nb mb eb q))

/-- Whether relation `rel` (0 EQ .. 5 GE) holds of a comparison; unordered satisfies only NE (R244, R71). -/
def relHolds (rel : Nat) (o : Option Ordering) : Bool :=
  match o with
  | none => rel == 1
  | some c =>
    match rel with
    | 0 => c == .eq | 1 => c != .eq | 2 => c == .lt | 3 => c != .gt | 4 => c == .gt | _ => c != .lt

/-- The limits of an integer type (R54). -/
def ETy.intMin (t : ETy) : Int := if t.isSigned then -(2 ^ (t.width - 1) : Nat) else 0
def ETy.intMax (t : ETy) : Int := if t.isSigned then (2 ^ (t.width - 1) : Nat) - 1 else (2 ^ t.width : Nat) - 1

/-- An exact integer reduced to a type: wrapped, or clamped with a clamp event (R62). -/
def narrowInt (t : ETy) (sat : Bool) (v : Int) : Rounded :=
  if sat && (decide (v < t.intMin) || decide (v > t.intMax)) then
    { bits := wrapInt t.width (if v < t.intMin then t.intMin else t.intMax), events := [26] }
  else { bits := wrapInt t.width v, events := [] }

/-- The integer nearest an exact rational under a mode. -/
def roundToInt (rm : RMode) (neg : Bool) (num den : Nat) : Int :=
  let (n, _) := roundScaled rm neg num den 0
  if neg then -(n : Int) else n

/-- A float value converted to an integer type: one rounding, always clamped (R62). -/
def floatToInt (t : ETy) (rm : RMode) (x : XVal) : Rounded :=
  match x with
  | .nan => { bits := 0, events := [24] }
  | .inf neg => { bits := wrapInt t.width (if neg then t.intMin else t.intMax), events := [25] }
  | .rat neg num den => narrowInt t true (roundToInt rm neg num den)

/-- Element `k` of an I4X lane, with the events of reading it: a misplaced marker (0) or a NaN outlier (2) (R57, R79). -/
def i4xElem (lane k : Nat) : FVal × List Nat :=
  let n := fun i => bitsOf lane (4 * i + 3) (4 * i)
  let v := sextNat 4 (n k)
  let plain := if n k = 8 then (FVal.fin false 0 0, [0]) else (FVal.fin (decide (v < 0)) v.natAbs 0, [])
  let outlier := fun (b : Nat) => let x := decodeFloat .e4m3 b; (x, if x = .nan then [2] else [])
  let zero := (FVal.fin false 0 0, [])
  if n 0 = 8 then (if k = 0 then outlier (n 1 + 16 * n 2) else if k < 3 then zero else plain)
  else if n 1 = 8 then (if k = 0 then plain else if k = 1 then outlier (n 2 + 16 * n 3) else zero)
  else plain

end Sys2Proof.Machine
end

