-- ==== Sys2Proof/Machine/State.lean ====
section
/-!
DEFINITION. The machine's state as plain data: the core under view and the parked cores that hold jobs, the dies with their
engines, the package memory, the launches, the host-visible registers and the fabric. The reasons a step may stop.
-/

namespace Sys2Proof.Machine

/-- The codes of precise faults (R350). `noBacking` is the model's own stop, see `Fault`. -/
inductive FCode where
  | illegalInstr | illegalOperand | illegalStream | illegalTarget | illegalSection | privilege | translation
  | alignment | gap | rngExhausted | poison | machineCheck | unsupportedOnDie | shadowRead | unhandledEvent
  | eventOverflow | nestedTrap | breakpoint | imageMalformed | noBacking
  deriving DecidableEq, Repr, Inhabited

/-- A fault: its code, cause detail, data address and information (R350). -/
structure FaultInfo where
  code : FCode
  sub  : Nat := 0
  addr : Nat := 0
  info : Nat := 0
  eva  : Bool := false           -- the rules place `info` in the stream's eva
  tok  : Option (Nat × Nat) := none -- the token and the wait's count whose held error this is (R211)
  at_  : Option Word := none     -- the faulting word, where it is not the one at the stream's pc (R331)
  deriving DecidableEq, Repr, Inhabited

/-- One lane of an accumulator tile (R41). -/
structure Lane where
  s  : BitVec 96
  c  : BitVec 96
  ix : Bool
  nv : Bool
  pi : Bool
  ni : Bool
  deriving DecidableEq, Repr, Inhabited

/-- An accumulator tile: 1,024 lanes and an anchor (R41). -/
structure Tile where
  lanes  : Sparse Lane
  anchor : Int
  deriving DecidableEq, Repr, Inhabited

/-- A vector register: 1,024 lanes of 16 bits, lane (i, j) at 64 i + j (R31). -/
abbrev VReg := Sparse (BitVec 16)

/-- Where a scalar result goes: nowhere, a scalar of a stream, or a reserved slot of a queue (R180, R207). -/
inductive SDest where
  | none
  | scal (k : Strm) (n : Nat)
  | queue (q id : Nat)
  deriving DecidableEq, Repr, Inhabited

/-- A slot of a scalar queue: a value and the cycle from which it may be popped, or a place reserved at issue (R38, R182, R207). -/
inductive QSlot where
  | val (v : Word) (since : Nat)
  | res (id : Nat)
  deriving DecidableEq, Repr, Inhabited

/-- A tile in a port, with the fault mark a generator may set (R223). -/
structure PTile where
  data : VReg
  mark : Option FaultInfo
  deriving DecidableEq, Repr, Inhabited

/-- A slot of a port: a tile, or a place reserved at issue (R30, R316). -/
inductive PSlot where
  | tile (t : PTile)
  | res (id : Nat)
  deriving DecidableEq, Repr, Inhabited

/-- Names a token batch of a job's stream wherever the job is (R40, R96). -/
structure TokRef where
  lrec  : Nat
  job   : Nat
  strm  : Strm
  tok   : Nat
  batch : Nat
  deriving DecidableEq, Repr, Inhabited

/-- A result bound for a job's scalar or queue, wherever the job is (R283). -/
structure DestRef where
  lrec : Nat
  job  : Nat
  dst  : SDest
  deriving DecidableEq, Repr, Inhabited

/-- An access that waits at a bank in back-off: which part of its operation it is, the bank, the cycle from which it waits (R324). -/
structure Block where
  part  : Nat
  bank  : Nat
  since : Nat
  deriving DecidableEq, Repr, Inhabited

/-- A port address generator (R223). -/
structure Pag where
  base : Nat
  rstr : Int
  n0 : Nat
  n1 : Nat
  n2 : Nat
  s0 : Int
  s1 : Int
  s2 : Int
  pos : Nat
  cls : Nat
  tok : Option TokRef
  blocked : List Block
  row : Nat := 0                 -- rows of its next tile already read, the cycle in which it took the port for that tile, and the tile so far
  start : Option Nat := none
  got : VReg := []
  deriving DecidableEq, Repr, Inhabited

/-- A port: configuration, slots in order, generator (R39, R222). -/
structure Port where
  configured : Bool
  prod  : Nat
  cons  : Nat
  slots : List PSlot
  gen   : Option Pag
  deriving DecidableEq, Repr, Inhabited

/-- A batch: its operations not yet performed, and the first error that ended one (R96, R211). -/
structure Batch where
  id   : Nat
  left : Nat
  err  : Option FaultInfo
  deriving DecidableEq, Repr, Inhabited

/-- A wait token: the open batch, the closed batches oldest first, and the errors of ended batches held for the first wait each
would have kept waiting, oldest first, with the number of batches closed since (R40, R96, R211). -/
structure Token where
  openB  : Option Batch
  closed : List Batch
  errs   : List (FaultInfo × Nat)
  deriving DecidableEq, Repr, Inhabited

/-- An event held for a stream (R198, R200). -/
structure Event where
  cause : Nat
  sub   : Nat
  info  : Word
  deriving DecidableEq, Repr, Inhabited

/-- The per-job registers as one stream sees them until its next RDZ (R52). -/
structure JobView where
  rm   : BitVec 3
  fmtb : Word
  fmtw : Nat                     -- writes of fmtb so far (R77)
  ptb  : Word
  dbg  : BitVec 32
  cntc : BitVec 32
  cnti : BitVec 32
  deriving DecidableEq, Repr, Inhabited

/-- A section that control has left and that has not retired: the cycle its last result lands (R19). -/
structure LeftSec where
  due : Nat
  deriving DecidableEq, Repr, Inhabited

/-- The descriptor of the word at the pc: the access that reads it, and once it has been read its bytes, or the poison met (R210, R283). -/
structure DescRead where
  id   : Nat
  data : Option (Except FaultInfo (List Byte))
  deriving DecidableEq, Repr, Inhabited

/-- One instruction stream of a job (R14 to R20, R37, R40, R50, R198 to R202). -/
structure StrmSt where
  sregs   : Sparse Word          -- s1 to s31
  ready   : Sparse Nat           -- the cycle from which a scalar may be read (R182)
  busy    : List Nat             -- scalars awaiting a memory or engine result (R37)
  pc      : Word
  atHdr   : Bool                 -- the pc names a header to enter (PCK 0, R166)
  entIdx  : Nat                  -- the word at which a pending entry begins (R188)
  secBase : Word                 -- header address of the current section
  secLen  : Nat
  entered : Bool                 -- inside a section
  ord     : Nat                  -- ordinal counter (R17)
  ret     : Nat                  -- retired count
  left    : List LeftSec
  secDue  : Nat                  -- the cycle the current section's last result lands
  stopped : Bool
  rdz     : Nat
  atRdz   : Bool
  handler : Bool
  held    : List Event
  lc      : Word
  rrb     : BitVec 6
  evh     : Word
  evc     : BitVec 32
  eva     : Word
  epc     : Word
  tokens  : Sparse Token
  view    : JobView
  nextIssue : Nat                -- the cycle from which the next word may issue (R182, R212)
  divBusy : Nat
  swwait  : Option Wm            -- the SWWAIT word that watches (R220)
  stepped : Bool                 -- halted by dbg.STEP after a word it issued (R53)
  sent    : Option Nat           -- the cycle from which its engine may accept the word at the pc (R286)
  desc    : Option DescRead
  deriving DecidableEq, Repr, Inhabited

/-- One register write within a pending entry: the bits of each lane it writes and their values (R44, R46). -/
structure RegPart where
  reg  : Nat
  mask : VReg
  val  : VReg
  deriving DecidableEq, Repr, Inhabited

/-- What a fixed-latency write does at landing (R46, R261, R348). -/
inductive PEff where
  | regs (parts : List RegPart)
  | port (p slot : Nat) (tile : VReg)
  | mask (m : Nat) (pred val : BitVec 1024)
  | contrib (c : Nat) (lanes : Sparse Lane) (anchor : Option Int)
  | canon (c : Nat)
  | clear (c : Nat) (pred : BitVec 1024)
  | copy (c : Nat) (pred : BitVec 1024) (lanes : Sparse Lane) (anchor : Option Int)
  | anchor (c : Nat) (a : Int)
  deriving DecidableEq, Repr, Inhabited

/-- A fixed-latency write that has issued and not landed, with the events its results count (R46, R79). -/
structure Pending where
  due    : Nat
  ord    : Nat
  strm   : Strm
  eff    : PEff
  events : List Nat
  shd    : Bool                  -- issued under dbg.SHD: its destinations' pending bits are set (R48)
  deriving DecidableEq, Repr, Inhabited

/-- What an issued memory access does when it performs (R213 to R221, R274). Physical addresses are keys of `mem`. -/
inductive MBody where
  | desc (pa : Nat)
  | load (pa n : Nat) (signed : Bool) (dst : SDest)
  | store (pa : Nat) (bytes : List Byte)
  | atomic (fn pa n b c : Nat) (dst : SDest)
  | swadd (pa n : Nat)
  | ldv (todo : List (Nat × Nat)) (regs : List Nat) (pred : BitVec 1024)
  | ldvp (todo : List (Nat × Nat)) (port : Nat) (slots : List Nat) (pred : BitVec 1024) (acc : List VReg)
  | stv (todo : List (Nat × Nat)) (data : List VReg) (pred : BitVec 1024)
  | ldg (elems : List (Nat × Nat)) (n : Nat) (regs : List Nat)
  | stg (elems : List (Nat × Nat × Nat)) (n : Nat)
  | astr (pages : List (Nat × Nat)) (va : Nat) (bytes : List Byte) (left : List Nat)
  | aldr (pages : List (Nat × Nat)) (va c : Nat) (canon : Bool) (left : List Nat) (got : List (Nat × List Byte))
  deriving DecidableEq, Repr, Inhabited

/-- A memory access issued and not performed (R98, R100). -/
structure MOp where
  id   : Nat
  strm : Strm
  cls  : Nat
  kinds : BitVec 6               -- R, W, CR, CW, MR, MW (R171)
  va   : Nat
  vas  : List (Nat × Nat)        -- the virtual address of each of its rows or lanes (R211)
  body : MBody
  tok  : Option TokRef
  notBefore : Nat
  blocked : List Block
  shd  : Bool                    -- issued under dbg.SHD (R48)
  pc   : Word := 0               -- the word that issued it
  deriving DecidableEq, Repr, Inhabited

/-- A run of bytes not yet moved: virtual source and destination (R228, R229). -/
structure Chunk where
  src : Nat
  dst : Nat
  len : Nat
  deriving DecidableEq, Repr, Inhabited

/-- What an XSEND's transfer is for: the sending end, its place in the channel, the buffer, the user word, the failures of its current
beat's check since it last passed, the cycle from which its last beat may have crossed (R153, R155, R160, R309). -/
structure SendTo where
  num  : Nat
  seq  : Nat
  buf  : Nat
  user : Word
  replays : Nat
  from_ : Nat
  deriving DecidableEq, Repr, Inhabited

/-- A destination row that a copy is moving: the pieces still to be read, the bytes read with their addresses, and, once they have been
written, how many the sync word is still to be told of (R87, R89). -/
structure RowWork where
  row   : Nat
  reads : List Chunk
  got   : List (Nat × List Byte)
  wrote : Option Nat
  deriving DecidableEq, Repr, Inhabited

/-- A Rake command with its progress (R93 to R95, R155, R228, R229). -/
structure Copy where
  id   : Nat
  die  : Nat                     -- the core whose queue holds it
  cid  : Nat
  weight : Nat                   -- its job's Rake weight
  cls  : Nat
  todo : List Chunk
  pages : List (Nat × Nat)       -- granules translated at acceptance
  psn  : List Nat                -- granules of poisoned pages (R360)
  sw   : Option Nat
  send : Option SendTo           -- a transfer of an XSEND; its destination lies in the receiver's scratchpad
  tok  : Option TokRef
  blocked : List Block
  work : Option RowWork := none
  deriving DecidableEq, Repr, Inhabited

/-- A configured window (R91). -/
structure Win where
  ring   : Nat
  lk     : Nat
  bytes  : Nat
  tbase  : Nat
  stride : Int
  rows   : Nat
  h      : Nat
  deriving DecidableEq, Repr, Inhabited

/-- A 128-byte row of a window fetch: its place in the command, scratchpad address, tensor address or none for zeros (R91). -/
structure WPiece where
  ix  : Nat
  dst : Nat
  src : Option Nat
  deriving DecidableEq, Repr, Inhabited

/-- The fetches one WCFG or WADV issued (R91, R92, R226). -/
structure WFetch where
  id   : Nat
  todo : List WPiece
  cls  : Nat
  tok  : Option TokRef
  blocked : List Block
  deriving DecidableEq, Repr, Inhabited

/-- A cached leaf entry (R354). -/
structure TlbEnt where
  ptb  : Nat
  page : Nat                     -- address bits above the page offset
  big  : Bool
  leaf : Nat
  deriving DecidableEq, Repr, Inhabited

/-- M's copy of the format table: 16 entries, and the failed read when unfilled (R77). -/
structure FmtCopy where
  entries  : Sparse Word
  unfilled : Option FaultInfo
  deriving DecidableEq, Repr, Inhabited

/-- Who uses a core's memory port: a stream's words, or the generator of a port (R7, R212, R223). -/
inductive PortUser where
  | strm (k : Strm)
  | gen (n : Nat)
  deriving DecidableEq, Repr, Inhabited

/-- How a gang stops: saved to be restored, saved for a debugger, or unsaved with its jobs ended (R343, R352). -/
inductive StopKind where
  | save | debug | fail
  deriving DecidableEq, Repr, Inhabited

/-- A core and the job it holds (R7, R12, R50). -/
structure Core where
  did : Nat
  cid : Nat
  running : Bool
  lrec : Nat
  gangNo : Nat
  node : Nat
  job  : BitVec 32
  njob : BitVec 32
  rank : BitVec 2
  sys  : Bool                    -- the region's view and flags at placement (R335)
  dbgOk : Bool
  pre  : Bool
  canon : Bool
  vbank : Bool
  rakeW : Nat
  spx  : Nat
  slot : Nat                     -- save slot (R336)
  stopReq : Bool                 -- its gang is to stop: its streams issue no further word (R196, R343, R352)
  stopAs  : StopKind
  halted : Bool
  rcb  : Word
  jobv : JobView                 -- the newest value of each per-job register (R52)
  sa : StrmSt
  sv : StrmSt
  sm : StrmSt
  vregs : Sparse VReg
  banks : BitVec 20              -- live vector banks (R347)
  masks : Sparse (BitVec 1024)   -- m1 to m15
  tiles : Sparse Tile
  queues : Sparse (List QSlot)
  ports : Sparse Port
  fmt   : FmtCopy
  rng   : Word
  pending : List Pending
  ops   : List MOp
  rake  : List Copy
  wins  : Sparse (Option Win)
  fetches : List WFetch
  cq    : List Word
  pmc   : Sparse Nat
  vbusy : Nat                    -- unit occupancy: the cycle each is free from (R9)
  mbusy : Nat
  abusy : Nat
  portFrom : Nat                 -- the memory port is held from this cycle
  portBusy : Nat                 -- to before this one (R9, R75)
  portQ : List (PortUser × Nat)  -- who waits for the memory port, in order of coming, and the cycle in which each last asked for it (R22)
  stalls : List Block            -- the waits at a bank of reads made by words that stand at issue, numbered 64 for each stream (R324)
  turnAt : Nat                   -- the cycle in which its streams have their next turn (R12, R46)
  viewAt : Nat                   -- the cycle in which it next comes under view (log entry 3)
  tlb   : List TlbEnt
  code  : List Host.Cell         -- memory as fetch reads it (R169)
  deriving DecidableEq, Repr, Inhabited

/-- An attention node; PREV and NEXT follow from the context's ordered lists (R125, log entry 8). -/
structure Node where
  e   : Nat
  tag : Nat
  grp : Nat
  flg : Nat
  deriving DecidableEq, Repr, Inhabited

/-- A sequence map entry (R141). -/
structure MapEnt where
  tier  : Nat
  v     : Bool
  brw   : Bool
  lend  : Nat
  frame : Nat
  deriving DecidableEq, Repr, Inhabited

/-- A command at the Orrery that has not been applied or not been completed (R128, R145, R293). `new`, `forked` and `put` stand
for the background work of a KVNEW, of a fork into a child, and of a record or image still to be written. -/
inductive KCmd where
  | new
  | kvw (p g l : Nat) (cell : List Byte)
  | renew (p g l : Nat) (dst : DestRef)
  | expire (p g : Nat) (dst : DestRef)
  | rewind (q : Nat)
  | adv (q : Nat)
  | commit (p : Nat)
  | fork (slab area k kmax ptb p : Nat) (dst : DestRef)
  | forked (child : Nat)
  | share (src a n : Nat) (dst : DestRef)
  | free (dst : DestRef)
  | smin (dst : DestRef)
  | smout (pages : List (Nat × Nat)) (va : Nat) (dst : DestRef)
  | sminv (dst : DestRef)
  | grow (base : Nat) (dst : DestRef)
  | stat (pa f : Nat) (dst : DestRef)
  | put (pages : List (Nat × Nat)) (va : Nat) (bytes : List Byte)
  deriving DecidableEq, Repr, Inhabited

/-- An Orrery command with its identity, context, acceptance order and batch. `applied`: only its background work or its
cell write is left. -/
structure KOp where
  id   : Nat
  ctx  : Nat
  cmd  : KCmd
  cls  : Nat
  lrec : Nat
  job  : Nat
  tok  : Option TokRef
  applied : Bool
  blocked : List Block
  deriving DecidableEq, Repr, Inhabited

/-- A growing slab: new base, the granule map of the new slab, moved watermark (R144). -/
structure Fwd where
  base : Nat
  map  : Sparse MapEnt
  wm   : Nat
  err  : Option FaultInfo        -- the first error the move met (R211)
  deriving DecidableEq, Repr, Inhabited

/-- A step the Orrery engine has still to do at the end of a block: an outer block goes to the release list whole, or a node is moved to where it
now belongs (R130). -/
inductive EngStep where
  | splice (b : Nat)
  | move (ix : Nat)
  deriving DecidableEq, Repr, Inhabited

/-- A context (R120 to R144). Lists hold node indexes in order; inner slot `s`, lap `l` is at `2 s + l`. -/
structure Ctx where
  num  : Nat
  gen  : Nat
  lw   : Nat
  g    : Nat
  lc   : Nat
  k    : Nat
  kmax : Nat
  slab : Nat
  area : Nat
  ptb  : Nat
  qp   : Nat
  cp   : Nat
  h    : Nat
  rp   : Nat
  ww   : Option Nat
  nodes : Sparse Node
  inner : Sparse (List Nat)
  outer : Sparse (List Nat)
  far   : List Nat
  never : List Nat
  release : List Nat
  steps : List EngStep           -- the cascade and the far walk begun and not ended (R130)
  map  : Sparse MapEnt           -- slab granules
  amap : Sparse MapEnt           -- area granules
  hot  : Bool
  swapVa : Nat                   -- the swap image's address, and its translated granules (R142)
  swapPages : List (Nat × Nat)
  clearing : Bool
  copying  : Bool                -- a fork into this context is copying (R137)
  dead     : Bool                -- freed, its background work not yet ended (R140)
  lenders : Sparse Nat           -- borrowed granule to the lending context number plus 1
  fwd  : Option Fwd
  deriving DecidableEq, Repr, Inhabited

/-- A row of an attention triple, FP32 bits, with the events of the roundings that produced it: m, l, then o (R146, R148). -/
structure TRow where
  m  : Nat
  l  : Nat
  o  : List Nat
  ev : List (List Nat)
  deriving DecidableEq, Repr, Inhabited

/-- An accepted ATTN or ATTNM (R277 to R280). -/
structure Attn where
  id   : Nat
  ctx  : Nat
  lrec : Nat
  job  : Nat
  multi : Bool
  kt   : Nat
  qt   : Nat
  q    : VReg
  q0   : Nat
  page : Nat
  grp  : Nat
  count : Nat
  scale : Nat
  h    : Nat                     -- H and ww as sampled at acceptance (R127)
  ww   : Option Nat
  regs : List Nat
  pred : BitVec 1024
  eve  : Bool
  strm : Strm                    -- the stream that issued it
  shd  : Bool                    -- issued under dbg.SHD (R48)
  next : Nat                     -- pages already attended or skipped
  rows : List TRow               -- the fold so far, row by row (R279)
  done : Nat                     -- rows of the group already written (R45)
  miss : Nat
  tok  : Option TokRef
  blocked : List Block
  deriving DecidableEq, Repr, Inhabited

/-- A receiver's buffer (R153). -/
inductive BufSt where
  | free
  | granted
  | filling (seq : Nat)
  | arrived (seq : Nat) (user : Word)
  deriving DecidableEq, Repr, Inhabited

/-- A grant held back until the granting reads have performed (R154). -/
structure HeldGrant where
  n    : Nat
  ops  : List Nat                -- memory access ids it waits for
  copies : List Nat
  fetches : List Nat
  ports : List Nat
  migs  : List Nat
  deriving DecidableEq, Repr, Inhabited

/-- Whether an end waits for its peer, is matched, or has failed; closing and closed follow from the flags (R159, R160). -/
inductive EndSt where
  | opening | opened | failed
  deriving DecidableEq, Repr, Inhabited

/-- A channel end (R150 to R160, R296, R297). -/
structure ChEnd where
  num  : Nat
  gen  : Nat
  key  : Nat
  peer : Nat
  role : Nat                     -- 0 send, 1 receive
  t    : Nat
  nb   : Nat
  buf  : Nat
  sw   : Nat
  eve  : Bool
  lrec : Nat
  job  : Nat
  node : Nat                     -- the queue node of the job that opened it, to whose fault domain a failure goes (R160)
  st   : EndSt
  mismatch : Bool
  selfClosed : Bool              -- the owner has issued XCLOSE
  done : Bool                    -- this end's close has completed
  peerEnd : Option Nat
  bufs : List BufSt
  grants : Nat                   -- grants made, the next permit's buffer
  held : List HeldGrant
  permits : Nat
  sent : Nat
  popped : Nat
  rpl  : Nat
  errDue : Bool                  -- its sync word has still to get ERR: its job is saved (R152, R160)
  openTok : Option TokRef
  closeTok : Option TokRef
  deriving DecidableEq, Repr, Inhabited

/-- A watched row of a Pan slot (R300). -/
structure PanRow where
  cnt  : Nat
  dup  : Bool
  nan  : Bool
  above : Bool
  sat  : Bool
  sum  : Nat
  short : List (Nat × Nat)       -- element index and its FP32 bits, best first
  seen : List Nat
  deriving DecidableEq, Repr, Inhabited

/-- A waiting PANRD (R301). -/
structure PanRead where
  row : Nat
  pages : List (Nat × Nat)
  va  : Nat
  clr : Bool
  tok : Option TokRef
  blocked : List Block
  deriving DecidableEq, Repr, Inhabited

/-- A Pan filter slot (R299). -/
structure PanSlot where
  used : Bool
  gen  : Nat
  pages : List (Nat × Nat)       -- granules still watched, virtual address and memory key
  va   : Nat
  rows : Nat
  len  : Nat
  et   : Nat
  ks   : Nat
  cap  : Nat
  temp : Nat
  state : Sparse PanRow
  reads : List PanRead
  deriving DecidableEq, Repr, Inhabited

/-- A command record in a Meridian mailbox, with the queue node of the job that left it (R232, R372). -/
structure MboxCmd where
  lrec : Nat
  job  : Nat
  node : Nat
  ptb  : Nat
  record : List Byte
  tok  : Option TokRef
  until_ : Option (BitVec 32)    -- once its work has begun: the iteration whose commit performs it (R364, R369)
  deriving DecidableEq, Repr, Inhabited

/-- A Meridian core: an RV64 core with its tightly coupled memory of 512 KiB, by offset (R363). The opcode table has no instruction of it; what
the rules say its firmware does are steps of their own (log entry 31). -/
structure Meridian where
  pc  : Word
  x   : Sparse Word
  tcm : List Host.Cell
  deriving DecidableEq, Repr, Inhabited

/-- A slot image held for the commit of an iteration: a mailbox request's, or one of the firmware's own changes (R368, R369). -/
structure HeldSlot where
  slot : Nat
  img  : List Byte
  iter : BitVec 32
  host : Bool
  deriving DecidableEq, Repr, Inhabited

/-- What a slot has drawn in an iteration: its tokens in order of position (R372, R373). -/
structure Drawn where
  slot : Nat
  toks : List Nat
  deriving DecidableEq, Repr, Inhabited

/-- A step of an iteration (R365). -/
inductive GenStep where
  | forward | sampling | acceptance | commit
  deriving DecidableEq, Repr, Inhabited

/-- The generation loop that the Meridians' firmware runs; the iteration under way is the one last committed (R365, R370). -/
structure GenLoop where
  step  : GenStep := .commit
  begun : Bool := false          -- the step's launches have been chosen, or its PREPARE sent
  put   : List (Nat × Nat) := [] -- launches still to be enqueued, each by its queue node and its record
  entry : Bool := false          -- the ring entry of the first has been written
  wait  : List Nat := []         -- records of launches that have not completed
  failed : Bool := false         -- a launch ended with STATUS 2 or 3
  stopped : Bool := false        -- a launch ended with STATUS 1 or 4: only mailbox 2 is served
  peers : List Nat := []         -- the ports that reach the serving group's other devices
  deriving DecidableEq, Repr, Inhabited

/-- One die and its engines. -/
structure Die where
  ok     : Bool                  -- passed phase 4 (R326)
  fenced : Bool
  cyc    : Nat
  ctl    : Nat                   -- the count of its HBM controllers, from their power-good (R323)
  mth    : Nat
  hold   : Bool
  slice  : Nat
  root   : Nat
  almState : Nat
  almIter  : BitVec 32
  almDelta : Option AlmMsg       -- the delta stored apart from the replica (R368)
  almOut   : Option AlmMsg       -- the PREPARE this die sent as master
  almBase  : Nat
  almAcks  : List Nat            -- who has answered ACK: a die, or 12 plus the port of another device
  almPeers : List Nat            -- the ports its PREPARE left by
  almRetry : Nat
  almSince : Nat
  almRing  : Nat                 -- the ring steps that had passed when it sent the PREPARE
  almPend  : List HeldSlot
  almTok   : List Drawn
  cdis   : BitVec 48
  walked : Nat                   -- the cycle of the last slice end (R339)
  use    : Sparse Nat            -- core-cycles held under each queue node (R339)
  bad    : List Nat              -- nodes the last walk found malformed (R334, R390)
  queues : List Nat              -- queue nodes the last walk found
  ran    : List (Nat × Nat)      -- queue nodes runnable on the die, each with its priority, when last looked at (R339)
  ctxs   : List Ctx
  ctxGens : Sparse Nat
  kops   : List KOp
  attns  : List Attn
  ends   : List ChEnd
  endGens : Sparse Nat
  pans   : Sparse PanSlot
  panq   : List (Nat × List Byte)
  mbox   : Sparse (List MboxCmd)
  watchdog : Nat
  mer    : Meridian
  passEnd : Option (Nat × Nat)   -- the end of a forward pass last reported to it: iteration and layer (R364)
  rakeLeft : Sparse Nat          -- the bytes each core's Rake queue may still move in its cluster's round (R93)
  badArr : BitVec 48             -- cores whose matrix unit fails its residue check: an input, no step sets it (R81)
  orrAt  : Nat                   -- the cycle from which each engine accepts its next command (R286)
  sluAt  : Nat
  panAt  : Nat
  orrNext : Nat                  -- the context the Orrery's background work serves first, and the cycle of its next step (R130)
  orrStep : Nat
  lostBridges : List Nat         -- dies whose bridge to this one failed retraining (R362)
  tlbs   : Sparse (List TlbEnt)  -- cluster TLBs
  deriving DecidableEq, Repr, Inhabited

/-- A page of a migration that holds its token: its address, its leaf entry, its page, its old and its new frame keys; one that stays in its
frame was there already (R84, R234, R361). -/
structure MigPage where
  va     : Nat
  entry  : Nat                   -- memory key of the leaf entry
  leaf   : Nat
  newLeaf : Nat
  bytes  : Nat
  src    : Nat
  dst    : Nat
  copy   : Bool
  deriving DecidableEq, Repr, Inhabited

/-- A migration accepted and not performed: its pages in order, of which the first is under way, with the bytes of it copied and whether the
next 1 KiB has been read (R84, R234). -/
structure Mig where
  id    : Nat
  pages : List MigPage
  at_   : Nat := 0
  read  : Bool := false
  pool  : Nat
  node  : Nat
  cls   : Nat
  lrec  : Nat
  job   : Nat
  tok   : Option TokRef
  blocked : List Block
  deriving DecidableEq, Repr, Inhabited

/-- A fault or notice record, without its sequence number (R350). -/
structure FRec where
  code : Nat
  sub  : Nat := 0
  strm : Nat := 0xFF
  die  : Nat := 0
  core : Nat := 0xFF
  pc   : Nat := 0
  addr : Nat := 0
  info : Nat := 0
  lrec : Nat := 0
  job  : Nat := 0xFFFFFFFF
  cyc  : Nat := 0
  deriving DecidableEq, Repr, Inhabited

/-- A write of the device's own that waits for a locked frame or for the host link: bytes at a key or at an address, a change of a
use figure, a record for a fault domain, an interrupt that follows the writes before it (R331, R333, R338, R351, R357). -/
inductive Late where
  | bytes (key : Nat) (bs : List Byte)
  | va (lrec node ptb va : Nat) (bs : List Byte)
  | use (at_ : Nat) (d : Int)
  | record (node : Nat) (r : FRec)
  | msix (v : Nat)
  deriving DecidableEq, Repr, Inhabited

/-- A launch taken from a ring (R336 to R338). -/
structure Launch where
  lrec  : Nat
  node  : Nat
  jobs  : Nat
  gang  : Nat
  rakeW : Nat
  reiss : Bool
  chunk : Nat
  image : Nat
  fmtb  : Nat
  cnten : Nat
  spx   : Nat
  cpl   : Nat
  dies  : Nat
  save  : Nat
  savesz : Nat
  saven : Nat
  cntb  : Nat
  thr   : List Nat
  next  : Nat                    -- next gang to hand out
  chunks : List (Nat × Nat × Nat) -- a die's chunk: its next gang and its end (R341)
  runOn : List Nat               -- gangs resident at the first precise fault (R352)
  again : List Nat               -- gangs to reissue (R342)
  doneJobs : List Nat
  reis  : Nat
  pre   : Nat
  faulted : Bool
  cancelled : Bool
  lost  : Bool
  counters : Sparse Nat
  crossed : BitVec 32
  deriving DecidableEq, Repr, Inhabited

/-- A gang stopped and, once valid, saved (R343, R352). -/
structure SavedGang where
  lrec  : Nat
  gang  : Nat
  die   : Nat
  cores : List Core
  stopCyc : Nat
  debug : Bool
  valid : Bool
  resume : Bool                  -- RESUME has been written (R352)
  snap  : List Core              -- the cores as their images were written, and the free values in them
  freeAt : Nat
  deriving DecidableEq, Repr, Inhabited

/-- A bank of an HBM stack (R322, R323). -/
structure Bank where
  openRow : Option Nat
  counts  : Sparse Nat
  alerts  : Nat
  cmds    : Nat
  pend    : List Nat             -- refresh management recorded and not done
  backoff : Option Nat          -- end of the back-off
  window  : Nat
  winAlerts : Nat
  noticed : Bool
  done    : List Nat             -- rows whose periodic refresh of this window has been (R323)
  deriving DecidableEq, Repr, Inhabited

/-- A Woelaor port (R374 to R377). -/
structure WPort where
  st    : Nat                    -- 0 down, 1 training, 2 up, 3 repair pending, 4 failed
  lanes : BitVec 4
  dropQ : List Nat               -- lanes waiting to be dropped
  seen  : Nat                    -- flits received in the window of 2^20 under way, and the symbols corrected in it, by lane (R376)
  fixed : Sparse Nat
  rxSeq : Nat
  txSeq : Nat
  replay : List (Nat × List Byte)
  txq    : List (Nat × List Byte) -- payloads waiting to be sent, each with its TYPE
  fails : Nat                    -- consecutive failed replays of the flit last named in a NAK
  nakSeq : Option Nat
  rply  : Nat
  crce  : Nat
  rpr   : Nat
  rx    : List (List Byte)       -- payloads delivered
  nak   : List (List Byte)       -- NAK flits sent
  deriving DecidableEq, Repr, Inhabited

/-- A collective in progress (R380, R381). -/
structure Coll where
  op    : Nat
  kind  : Nat
  root  : Nat
  dl    : Nat
  src   : Nat
  dst   : Nat
  bytes : Nat
  sw    : Nat
  late  : Nat
  upSent : Bool                  -- the partial result has been passed toward the root
  items : List (Nat × List Byte) -- triples that arrived on time, by origin
  lateItems : List (Nat × List Byte)
  arrived : List Nat
  miss  : List Nat
  deriving DecidableEq, Repr, Inhabited

/-- An answer of the SPDM responder (R385, R386). -/
inductive SpdmReply where
  | none
  | error
  | version (major minor : Nat)
  | capabilities
  | algorithms (mldsa65 shake256 : Bool)
  | digests (d : BitVec 256)
  | certificate (chain : List Byte)
  | challengeAuth (nonce : Nat) (sig : List Byte)
  | measurements (m : List (Nat × BitVec 256))
  | keyExchange
  | finish
  | keyUpdate
  | endSession
  deriving DecidableEq, Repr, Inhabited

/-- The SPDM responder (R385, R386). -/
structure Spdm where
  algs    : Bool                 -- algorithms have been agreed
  session : Bool
  handshake : Bool               -- KEY_EXCHANGE answered, FINISH awaited
  keyGen  : Nat
  meas    : Sparse (BitVec 256)
  reply   : SpdmReply            -- the last answer
  deriving DecidableEq, Repr, Inhabited

/-- A message of an Almanac commit on its way to a Meridian, or from one to the master (R367 to R369). -/
inductive AlmStep where
  | prepare (die : Nat) (m : AlmMsg)
  | ack (die : Nat) (iter : BitVec 32)
  | nack (die : Nat) (iter : BitVec 32)
  | commit (die : Nat) (m : AlmEnd)
  | abort (die : Nat) (m : AlmEnd)
  deriving DecidableEq, Repr

/-- Host traffic held until the IDE streams are established, or until the bank or frame it reaches is free (R324, R331, R357). -/
inductive HostReq where
  | read (addr len : Nat)
  | write (addr : Nat) (bytes : List Byte)
  | reg (offset : Nat) (v : Word)
  | root (offset : Nat) (v : Word)
  | preqGo (offset : Nat) (v : Word)
  | preqCancel (offset : Nat) (v : Word)
  | preqResume (offset : Nat) (v : Word)
  | ideerr (v : Word)
  | tlbinv (v : Word)
  | faq
  | remap (v : Word)
  | exclude (v : Word)
  | rowctl (v : Word)
  | cdis (die : Nat) (v : Word)
  deriving DecidableEq, Repr

/-- A stored copy of the bad-page list: its header's count and digest, and its entries (R358). -/
structure BadCopy where
  count  : Nat
  digest : BitVec 256
  entries : List (Nat × Nat × Bool)
  deriving DecidableEq, Repr, Inhabited

/-- A write through the flash append log: an entry of a copy of the bad-page list, or a page written back after a rebuild (R1, R358, R360). -/
inductive Append where
  | badEntry (module : Nat) (frame spare : Nat) (excl : Bool)
  | page (n : Nat)
  deriving DecidableEq, Repr, Inhabited

/-- An entry of the fault-address queue (R356). -/
structure FaqEnt where
  type : Nat
  ovf  : Bool
  ecnt : Nat
  line : Nat
  deriving DecidableEq, Repr, Inhabited

/-- What the host sees and sets (R325 to R332, R355 to R359, R377 to R380). -/
structure HostSt where
  fcode : Nat
  phase : Nat
  phaseAt : Nat
  ideerr : Bool
  degr  : Bool
  fail  : Bool
  rdy   : Bool
  restart : Bool                 -- bring-up restarts (R328, R386)
  held  : List HostReq           -- host traffic held until it can flow (R331)
  ide   : Bool
  ideGen : Nat
  msix  : List Nat               -- vectors signalled, in order
  msixHeld : List Nat            -- signals held until the IDE streams are established (R331)
  tlbinv : Option Nat
  faq   : List FaqEnt
  faqOvf : Bool
  popped : Word                  -- the value the last register read returned
  retBusy : Bool
  retStatus : Nat
  retFrame : Nat
  retExcl : Bool
  badList : List (Nat × Nat × Bool) -- retired frames as applied: frame, spare index, EXCL
  badA  : Option BadCopy         -- the copies in flash modules 0 and 2 (R358)
  badB  : Option BadCopy
  spares : Sparse Nat
  excluded : List Nat
  note  : Bool
  alim  : Nat
  mthd  : Nat
  regs  : Sparse Word            -- other registers: UIO windows (R330)
  readData : List Byte
  readPoison : Bool
  topoBusy : Bool
  topoStatus : Nat
  topoAddr : Nat
  topoSelf : Nat
  topo  : List (Nat × Nat × Nat) -- parent, port, device of each entry
  colq  : List Nat
  coll  : Option Coll
  early : List (FabItem × List Byte) -- triples of a ring, or data of a tree, that came before their collective started here (R381)
  ringSteps : Nat                -- ring steps so far (R27, R381)
  fabOut : List (Nat × List Byte) -- what the engine has passed on: triples by origin in a ring, data by neighbour in a tree (R380, R381)
  ports : Sparse WPort
  spdm  : Spdm
  fwImage : Option (List Byte)   -- a boot firmware image delivered over MCTP (R327)
  deriving DecidableEq, Repr, Inhabited

/-- Which agent moves next when the agenda is empty (log entry 3). -/
inductive Turn where
  | land
  | issue (k : Strm)
  | served
  | engine
  | rotate
  deriving DecidableEq, Repr, Inhabited

/-- The package. -/
structure State where
  core   : Core                  -- the core under view
  parked : List Core             -- the other cores that hold jobs
  cur    : Strm                  -- the stream whose word executes
  turn   : Turn
  agenda : List Instr            -- the device's and the host's next steps, in order (log entry 3)
  msgs   : List AlmStep          -- Almanac messages on their way, oldest first
  gen    : GenLoop
  mem    : List Host.Cell
  poison : List Nat              -- poisoned 64-byte lines of HBM, by line number (R356)
  flashBad : List Nat            -- poisoned flash pages (R360)
  flashLog : List Append         -- the flash append log
  late   : List Late             -- the device's own writes held back, oldest first
  stripes : Sparse Nat           -- the cycle from which each scratchpad stripe may serve its next row (R85)
  origins : List (Nat × Nat)     -- origin records: HBM frame key, flash page (R235)
  migs   : List Mig
  dies   : List Die
  launches : List Launch
  saved  : List SavedGang
  banks  : Sparse Bank
  orphans : List Copy            -- copies of ended jobs, which run on (R95)
  rseqs  : Sparse Nat            -- record sequence number of each fault domain (R350)
  host   : HostSt
  ids    : Nat                   -- the next identity of an operation in flight
  freeN  : Nat                   -- the next free value (log entry 5)
  deriving DecidableEq, Repr, Inhabited

/-- Why a step stops with a fault. Only the model stops: the device's own faults are taken as the spec describes (R352). -/
inductive Fault where
  /-- A page table leaf names an HBM frame beyond the sixteen stacks, or a flash frame beyond the four modules: no such memory exists
  (R1, R329). Raised by any access through it. Safe: the model stops where the spec gives no effect. -/
  | noBacking
  deriving DecidableEq, Repr

/-- Why a step is refused. -/
inductive Refusal where
  /-- An instruction without a meaning yet, by its mnemonic. Safe. -/
  | notModelled (mnemonic : String)
  deriving DecidableEq, Repr

/-- A step's outcome. -/
abbrev Out := Host.Outcome State Fault Refusal

/-- The die with `did` d at power-good: SCHED 1,700,000, mth 2,048, everything else clear (R326, R340, R359). -/
def Die.reset : Die :=
  { (default : Die) with slice := 1700000, mth := 2048 }

/-- The host-visible registers at power-good (R326, R359). -/
def HostSt.reset : HostSt :=
  { (default : HostSt) with note := true, alim := 64, mthd := 2048 }

/-- A stream that runs nothing. -/
def StrmSt.idle : StrmSt := { (default : StrmSt) with stopped := true }

/-- The machine right after power-good, before bring-up: no job, memory with nothing listed, registers of R50, R326, R340 and
R359 at their stated values and every other at zero (log entries 1, 2 and 4). -/
def State.reset : State :=
  { (default : State) with
    core := { (default : Core) with sa := StrmSt.idle, sv := StrmSt.idle, sm := StrmSt.idle }
    turn := .land
    dies := List.replicate 12 Die.reset
    host := HostSt.reset }

end Sys2Proof.Machine
end

