-- ==== Sys2Proof/Machine/Accum.lean ====
section
/-!
DEFINITION. Accumulator lanes and tiles: the value a lane stands for, products and contributions, re-anchoring, overflow,
resolve and the memory images (R41, R42, R65 to R74).
-/

namespace Sys2Proof.Machine

/-- The value T of a lane (R65). -/
def Lane.t (l : Lane) : BitVec 96 := l.s + l.c

/-- A lane that has seen a NaN or an infinity (R42). -/
def Lane.special (l : Lane) : Bool := l.nv || l.pi || l.ni

/-- Inf - Inf sets NV; a special lane holds no finite sum (R42, R66). -/
def Lane.norm (l : Lane) : Lane :=
  let nv := l.nv || (l.pi && l.ni)
  if nv || l.pi || l.ni then { s := 0, c := 0, ix := false, nv := nv, pi := l.pi, ni := l.ni } else l

/-- A C with bit 0 set is folded into S (R42). -/
def Lane.fold (l : Lane) : Lane :=
  if l.c.getLsbD 0 then { l with s := l.s + l.c, c := 0 } else l

/-- A lane given by its fields, as R42 keeps it: C folded into S where its bit 0 is set, no finite sum beside a flag of a NaN or an
infinity. -/
def Lane.tidy (l : Lane) : Lane :=
  let f := l.fold
  if f.special then { f with s := 0, c := 0, ix := false } else f

/-- A lane's T split between S and C as the implementation chooses: C is a free value with bit 0 zero (R67, log entry 10). -/
def Lane.split (n : Nat) (l : Lane) : Lane :=
  if l.special then l
  else
    let c := (Config.free n 96) &&& ~~~(1#96)
    { l with s := l.t - c, c := c }

/-- `floor (m * 2^e * 2^(64 - a))` with its sign, and whether bits were dropped (R66). -/
def floorProduct (neg : Bool) (m : Nat) (e a : Int) : Int × Bool :=
  let k := e + 64 - a
  let v : Int := if neg then -(m : Int) else m
  if k ≥ 0 then (v * (2 ^ k.toNat : Nat), false)
  else (v / (2 ^ (-k).toNat : Nat), v % (2 ^ (-k).toNat : Nat) != 0)

/-- A running sum of products for one lane: the exact integer sum and the flags (R66, R67). -/
structure Addend where
  sum : Int
  ix : Bool
  nv : Bool
  pi : Bool
  ni : Bool
  deriving DecidableEq, Repr, Inhabited

/-- Deliver one exact product (R66). -/
def Addend.deliver (a : Int) (x : Addend) (p : FVal) : Addend :=
  match p with
  | .nan => { x with nv := true }
  | .inf neg => if neg then { x with ni := true } else { x with pi := true }
  | .fin neg m e =>
    let (v, d) := floorProduct neg m e a
    { x with sum := x.sum + v, ix := x.ix || d }

/-- A lane's addend as a lane: T in S (R348). -/
def Addend.lane (x : Addend) : Lane :=
  { s := BitVec.ofInt 96 x.sum, c := 0, ix := x.ix, nv := x.nv, pi := x.pi, ni := x.ni }

/-- Add an addend lane into a lane: exact modulo 2^96, flags OR together (R66, R68). -/
def Lane.add (n : Nat) (l d : Lane) : Lane :=
  Lane.split n (Lane.norm { s := l.t + d.t, c := 0, ix := l.ix || d.ix, nv := l.nv || d.nv, pi := l.pi || d.pi, ni := l.ni || d.ni })

/-- Re-anchoring from `a` to `a'` (R68). -/
def Lane.reanchor (a a' : Int) (l : Lane) : Lane :=
  let k := a - a'
  let t := l.t.toInt
  let v := if k ≥ 0 then t * (2 ^ k.toNat : Nat) else t / (2 ^ (-k).toNat : Nat)
  let d := decide (k < 0) && t % (2 ^ (-k).toNat : Nat) != 0
  Lane.norm { l with s := BitVec.ofInt 96 v, c := 0, ix := l.ix || d }

/-- The exact negation of a lane, PI and NI exchanged (R68). -/
def Lane.negate (l : Lane) : Lane :=
  { s := -l.t, c := 0, ix := l.ix, nv := l.nv, pi := l.ni, ni := l.pi }

/-- ACAN: S := T, C := 0 (R71). -/
def Lane.canon (l : Lane) : Lane := { l with s := l.t, c := 0 }

/-- OV: bits [95:91] of T are not all equal (R69). -/
def Lane.ov (l : Lane) : Bool :=
  let b := (l.t.toNat / 2 ^ 91) % 32
  b != 0 && b != 31

def Tile.lane (t : Tile) (n : Nat) : Lane := Sparse.get t.lanes n

/-- A tile with every lane changed. -/
def Tile.map (f : Nat → Lane → Lane) (t : Tile) : Tile :=
  { t with lanes := Sparse.ofFn 1024 fun n => f n (t.lane n) }

/-- Whether mask bit `n` is set. -/
def pbit (m : BitVec 1024) (n : Nat) : Bool := m.getLsbD n

/-- Every lane re-anchored and the anchor set (R68, ANCH, ASHF). -/
def Tile.reanchor (a' : Int) (t : Tile) : Tile :=
  { lanes := Sparse.ofFn 1024 fun n => (t.lane n).reanchor t.anchor a', anchor := a' }

/-- The signed rational a finite lane stands for: T * 2^(a - 64) (R65). -/
def Lane.exact (a : Int) (l : Lane) : FVal :=
  let t := l.t.toInt
  .fin (decide (t < 0)) t.natAbs (a - 64)

/-- The lane's exact value for ACMP: NaN for NV or OV, infinities for PI and NI (R71). -/
def Lane.cmpVal (a : Int) (l : Lane) : FVal :=
  if l.nv then .nan else if l.pi then .inf false else if l.ni then .inf true
  else if l.ov then .nan else l.exact a

/-- Resolve one lane into a type (R70). -/
def Lane.resolve (t : ETy) (rm : RMode) (sat : Bool) (a : Int) (l : Lane) : Rounded :=
  let acc := (if l.nv then [28] else []) ++ (if l.pi || l.ni then [29] else []) ++ (if !l.special && l.ov then [30] else [])
    ++ (if l.ix then [31] else [])
  if l.nv then { bits := producedNaN t, events := acc }
  else if l.pi then { bits := (roundFloat t rm sat (.inf false)).bits, events := acc }
  else if l.ni then { bits := (roundFloat t rm sat (.inf true)).bits, events := acc }
  else if l.ov then { bits := (overflowResult t rm sat (l.t.getLsbD 95) true).bits, events := acc }
  else
    let r := roundFloat t rm sat (l.exact a).toX
    { bits := r.bits, events := acc ++ r.events }

/-- A lane's flag field in an image (R73). -/
def Lane.flags (l : Lane) : Nat := l.ix.toNat + 2 * l.nv.toNat + 4 * l.pi.toNat + 8 * l.ni.toNat

/-- The header of a tile image (R72). -/
def imageHeader (canon : Bool) (anchor : Int) : List Byte :=
  leBytes 2 (if canon then 2 else 1) ++ leBytes 2 (wrapInt 16 anchor) ++ leBytes 4 1024 ++ leBytes 56 0

/-- A lane's record (R73). -/
def Lane.record (canon : Bool) (l : Lane) : List Byte :=
  if canon then leBytes 12 l.t.toNat ++ leBytes 2 l.flags ++ leBytes 2 0
  else leBytes 12 l.s.toNat ++ leBytes 12 l.c.toNat ++ leBytes 2 l.flags ++ leBytes 6 0

/-- A tile's memory image (R72, R73). -/
def Tile.image (canon : Bool) (t : Tile) : List Byte :=
  imageHeader canon t.anchor ++ (List.range 1024).flatMap fun n => (t.lane n).record canon

def imageBytes (canon : Bool) : Nat := if canon then 64 + 16384 else 64 + 32768

/-- A tile every lane of which has NV set, anchor 0: a malformed image or a failed load (R74, R274). -/
def Tile.malformed : Tile :=
  { lanes := Sparse.ofFn 1024 fun _ => { (default : Lane) with nv := true }, anchor := 0 }

/-- A tile loaded from an image given by its numbers: kept as R42 says, never faulting; the event of a malformed one (R74). -/
def tileOfImage (canon : Bool) (num : Nat → Nat → Nat) : Tile × List Nat :=
  if num 0 2 ≠ (if canon then 2 else 1) ∨ num 4 4 ≠ 1024 then (Tile.malformed, [0])
  else
    let rec_ := fun n =>
      if canon then
        let o := 64 + 16 * n
        let f := num (o + 12) 2
        ({ s := BitVec.ofNat 96 (num o 12), c := 0, ix := f.testBit 0, nv := f.testBit 1, pi := f.testBit 2, ni := f.testBit 3 } : Lane)
      else
        let o := 64 + 32 * n
        let f := num (o + 24) 2
        ({ s := BitVec.ofNat 96 (num o 12), c := BitVec.ofNat 96 (num (o + 12) 12), ix := f.testBit 0, nv := f.testBit 1, pi := f.testBit 2, ni := f.testBit 3 } : Lane)
    ({ lanes := Sparse.ofFn 1024 fun n => (rec_ n).tidy, anchor := sextNat 12 (num 2 2) }, [])

end Sys2Proof.Machine
end

