-- ==== Sys2Proof/Machine/Shape.lean ====
section
/-!
DEFINITION. The shape of each encoded instruction: the streams, dies and view it is legal in, the values its X field may
hold, and what its operand fields may name (R28 to R31, R34, R171, R172, R174 rows 2 to 6, R180, R207, R209, R238 to R241, R260,
R265, R282). Row 1 is Decode.lean's.
-/

namespace Sys2Proof.Machine

/-- What an operand field may name (R28, R29). `vec` and `vdst` give the registers of the operand, the alignment of the
first, and whether a port or (for a source) a scalar or queue may stand there; `portOf` the tiles pushed or popped. -/
inductive OpK where
  | none | sSrc | sDst | sReg | qSrc | qDst | mask | tile
  | portNum
  | portAny
  | portOf (write : Bool) (n : Nat)
  | vec (n al : Nat) (port scal : Bool)
  | vdst (n al : Nat) (port : Bool)
  deriving DecidableEq, Repr

/-- How an entry uses the token fields (R209, R282). -/
inductive TokUse where
  | none | opt | req
  deriving DecidableEq, Repr

/-- The shape of a word. `die`: some true for attention cores only, some false for feed-forward cores only. -/
structure Shape where
  hd : Hd
  streams : List Strm
  die : Option Bool := none
  sys : Bool := false
  lanes : Bool := false
  xok : Bool := true
  d : OpK := .none
  a : OpK := .none
  b : OpK := .none
  c : OpK := .none
  deriving DecidableEq, Repr

def allStrm : List Strm := [.a, .v, .m]

/-- Classes of operand values (R28). -/
def isV (f : OpField) : Bool := decide (f.toNat < 640)
def isP (f : OpField) : Bool := decide (640 ≤ f.toNat) && decide (f.toNat < 648)
def isC (f : OpField) : Bool := decide (648 ≤ f.toNat) && decide (f.toNat < 680)
def isM (f : OpField) : Bool := decide (680 ≤ f.toNat) && decide (f.toNat < 696)
def isS (f : OpField) : Bool := decide (696 ≤ f.toNat) && decide (f.toNat < 728)
def isQ (f : OpField) : Bool := decide (728 ≤ f.toNat) && decide (f.toNat < 732)

/-- The queue each stream produces: A to q0 and q1, V to q2, M to q3 (R38). -/
def producesQ (k : Strm) (q : Nat) : Bool :=
  match k with | .a => q == 0 || q == 1 | .v => q == 2 | .m => q == 3
def consumesQ (k : Strm) (q : Nat) : Bool :=
  match k with | .a => q == 2 || q == 3 | .v => q == 0 | .m => q == 1

/-- Whether `n` registers from `f` lie within one window or below both (R34). -/
def rangeOk (f n : Nat) : Bool :=
  decide (f + n ≤ 512) || (decide (512 ≤ f) && decide (f + n ≤ 576)) || (decide (576 ≤ f) && decide (f + n ≤ 640))

/-- A field that names registers: the range within one window and the first aligned (R29, R34). -/
def vecOk (f : OpField) (n al : Nat) : Bool := isV f && rangeOk f.toNat n && f.toNat % al == 0

/-- A field names a scalar or a queue the stream consumes (R180, R207). -/
def srcOk (k : Strm) (f : OpField) : Bool := isS f || (isQ f && consumesQ k (f.toNat - 728))
def dstOk (k : Strm) (f : OpField) : Bool := isS f || (isQ f && producesQ k (f.toNat - 728))

/-- R29 for one field, but for the state of a port. -/
def OpK.ok (kind : OpK) (k : Strm) (f : OpField) : Bool :=
  match kind with
  | .none => f.toNat == 0
  | .sSrc => srcOk k f
  | .sDst => dstOk k f
  | .sReg => isS f
  | .qSrc => isQ f && consumesQ k (f.toNat - 728)
  | .qDst => isQ f && producesQ k (f.toNat - 728)
  | .mask => isM f
  | .tile => isC f && k == .m
  | .portNum => isP f
  | .portAny => isP f
  | .portOf _ _ => isP f
  | .vec n al port scal => vecOk f n al || (port && isP f) || (scal && srcOk k f)
  | .vdst n al port => vecOk f n al || (port && isP f)

/-! ### X fields -/

/-- Bits of an X-T word's own 28 bits. -/
def xb (w : Wt) (hi lo : Nat) : Nat := bitsOf w.ext.toNat hi lo

/-- An X-I word that uses the low `n` bits (R171). -/
def immBits (w : Wi) (n : Nat) : Bool := w.imm.toNat / 2 ^ n == 0

/-- The token fields of an X-M word against its entry (R171, R209, R282). -/
def tokOk (w : Wm) (u : TokUse) (opn : Bool) : Bool :=
  (w.tke || (w.tk == 0 && !w.opn)) && (opn || !w.opn) &&
  (match u with | .none => !w.tke | .opt => true | .req => w.tke)

/-- DISP uses its low `n` bits; SZ is one of a set of bits. -/
def dispOk (w : Wm) (n : Nat) : Bool := w.disp.toNat / 2 ^ n == 0
def szOk (w : Wm) (set : Nat) : Bool := set.testBit w.sz.toNat

/-- Type sets of R241. -/
def isNumber (t : ETy) : Bool := t.isInt || t.isFloat
def isWideInt (t : ETy) : Bool := t.isInt && decide (t.width ≠ 8)
def isFloat3 (t : ETy) : Bool := t == .fp16 || t == .bf16 || t == .fp32
def isRed (t : ETy) : Bool := t.isInt || isFloat3 t
def isWide (t : ETy) : Bool := isWideInt t || isFloat3 t

/-- The type a word names, when it is one of a set (R56). -/
def etIn (w : Wt) (p : ETy → Bool) : Bool :=
  match ETy.ofCode w.et with
  | some t => p t
  | none => false

/-- The registers an operand of the word's type takes (R31). -/
def etRegs (w : Wt) : Nat :=
  match ETy.ofCode w.et with
  | some t => t.regs
  | none => 1

/-- RM in a word that rounds, or that does not; SAT where the entry saturates, or does not (R58, R239). -/
def rmOk (w : Wt) (rounds : Bool) : Bool := if rounds then decide (w.rm.toNat < 6) else w.rm == 0
def satOk (w : Wt) (sat : Bool) : Bool := sat || !w.sat

/-! ### Scalar and control words (R180 to R205) -/

def shZ3 (w : Wz) : Shape :=
  { hd := w.toHd, streams := allStrm, xok := w.x == 0, d := .sDst, a := .sSrc, b := .sSrc }
def shZ (w : Wz) (d a : OpK) : Shape := { hd := w.toHd, streams := allStrm, xok := w.x == 0, d := d, a := a }
def shI (w : Wi) (n : Nat) (d a b c : OpK) : Shape :=
  { hd := w.toHd, streams := allStrm, xok := immBits w n, d := d, a := a, b := b, c := c }

/-! ### Memory, engine and command words (R207 to R236, R282) -/

def shM (w : Wm) (u : TokUse) (opn : Bool) (sz disp : Nat) (d a b c : OpK) : Shape :=
  { hd := w.toHd, streams := [.a], xok := tokOk w u opn && szOk w sz && dispOk w disp, d := d, a := a, b := b, c := c }
/-- A word whose CLS must be zero and that never joins an open batch. -/
def shM0 (w : Wm) (u : TokUse) (sz disp : Nat) (d a b c : OpK) : Shape :=
  { shM w u false sz disp d a b c with
    xok := w.cls == 0 && tokOk w u false && szOk w sz && dispOk w disp }
def shK (w : Wm) (u : TokUse) (disp : Nat) (d a b c : OpK) : Shape :=
  { shM w u true 1 disp d a b c with die := some true }
/-- The registers a tile access names (R215). -/
def vr (w : Wm) : OpK := .vec (2 ^ w.sz.toNat) 1 false false
def shTile (w : Wm) (req : Bool) (d a b c : OpK) : Shape :=
  { shM w (if req then .req else .opt) true 7 24 d a b c with lanes := true }
/-- Gather and scatter: IW, reserved bits, data size (R216). -/
def shGather (w : Wm) (load : Bool) : Shape :=
  let data := OpK.vec (if w.sz = 2 then 2 else 1) (if w.sz = 2 then 2 else 1) false false
  let iw := bitsOf w.disp.toNat 23 22
  let index := OpK.vec (if iw = 2 then 2 else 1) (if iw = 2 then 2 else 1) false false
  { hd := w.toHd, streams := [.a], lanes := true
    xok := tokOk w (if load then .req else .opt) true && szOk w 6 && iw != 3 && bitsOf w.disp.toNat 17 16 == 0
    d := if load then data else .none, a := .sSrc, b := index, c := if load then .none else data }
def shFence (w : Wf) : Shape :=
  { hd := w.toHd, streams := [.a, .m], xok := w.res == 0 && decide (w.scope.toNat < 6) }
def shPcfg (w : Wm) : Shape :=
  { shM0 w .none 1 4 .portNum .none .none .none with
    xok := (shM0 w .none 1 4 .none .none .none .none).xok && bitsOf w.disp.toNat 3 2 != 3 }
def shSys (w : Wi) (n : Nat) (d a : OpK) : Shape :=
  { hd := w.toHd, streams := [.a], sys := true, xok := immBits w n, d := d, a := a }

/-! ### Vector words (R238 to R259) -/

/-- A vector word: type set, whether it rounds and may saturate, the low bits of X it uses as a mask. -/
def shV (w : Wt) (ets rounds sat : Bool) (use : Nat) (d a b c : OpK) : Shape :=
  { hd := w.toHd, streams := [.v], lanes := true
    xok := ets && rmOk w rounds && satOk w sat && w.ext.toNat &&& use == w.ext.toNat
    d := d, a := a, b := b, c := c }
/-- The general source and destination of R238. -/
def vsrc (w : Wt) : OpK := .vec (etRegs w) (etRegs w) true true
def vdst (w : Wt) : OpK := .vdst (etRegs w) (etRegs w) true
def etFloat (w : Wt) : Bool := etIn w ETy.isFloat

def shArith (w : Wt) (rounds : Bool) (c : OpK) : Shape :=
  shV w (etIn w isNumber) (rounds && etFloat w) true 0 (vdst w) (vsrc w) (vsrc w) c
def shArith3 (w : Wt) : Shape := shArith w true (vsrc w)
/-- VABS and VNEG. DESIGN CHOICE (log 71): they change a sign and never round, so RM must be 0, as R243 says of VMIN
    and VMAX; it does not say whether they count as rounding. -/
def shArith1 (w : Wt) : Shape := shV w (etIn w isNumber) false true 0 (vdst w) (vsrc w) .none .none
def shVcmp (w : Wt) : Shape :=
  shV w (etIn w isWide && decide (xb w 2 0 < 6)) false false 7 .mask (vsrc w) (vsrc w) .none
def shLane (w : Wt) (b c : OpK) : Shape :=
  shV w (w.et == 0) false false 0 (.vdst 1 1 true) (.vec 1 1 true true) b c
def shShift (w : Wt) : Shape :=
  shV w (etIn w ETy.isInt) false false 0x0FC00000 (vdst w) (vsrc w) (if xb w 27 27 = 1 then .none else vsrc w) .none
/-- ST and G of a conversion; between two integer types VCVT does not round (R62, R239, R240, R246). -/
def shCvt (w : Wt) (scaled : Bool) : Shape :=
  let st := ETy.ofCode (BitVec.ofNat 4 (xb w 27 24))
  let r := match st with | some t => t.regs | none => 1
  let ints := (st.map ETy.isInt).getD false && etIn w ETy.isInt
  shV w (etIn w isNumber && st.isSome) (scaled || !ints) true 0x0FC00000 (vdst w) (.vec r r true true)
    (if scaled then .vec 2 2 true true else .none) .none
def shPack (w : Wt) : Shape :=
  shV w (etIn w fun t => t == .i8 || t == .n8) false true 0 (.vdst 1 1 true) (.vec 1 1 true true) (.vec 1 1 true true) .none
def shUnpk (w : Wt) : Shape :=
  shV w (etIn w fun t => t == .i16 || t == .n16) false false 0x400000 (.vdst 1 1 true) (.vec 1 1 true true) .none .none
def shQi4x (w : Wt) : Shape :=
  shV w (etIn w fun t => t == .fp16 || t == .bf16) true true 0 (.vdst 1 1 true) (.vec 4 1 false false) .sSrc .none
def shElem (w : Wt) (sat : Bool) (a b : OpK) (lanes : Bool) (p : ETy → Bool) : Shape :=
  { shV w (etIn w p) false sat 0 (vdst w) a b .none with lanes := lanes }
def shVext (w : Wt) : Shape :=
  { shV w (etIn w isNumber) false false 0 .sDst (vsrc w) .sSrc .none with lanes := false }
def shRot (w : Wt) : Shape :=
  shV w (etIn w isNumber) false false 0x0FE00000 (vdst w) (vsrc w) (if xb w 27 27 = 1 then .none else .sSrc) .none
def shRed (w : Wt) : Shape :=
  let sum := xb w 27 26 == 0
  shV w (etIn w isRed && xb w 27 26 != 3) (sum && etFloat w) sum 0x0C000000 (vdst w) (vsrc w) .none .none
def shPerm (w : Wt) (perm : Bool) : Shape :=
  shV w (etIn w isWide) false false 0 (vdst w) (vsrc w) (if perm then .vec 1 1 false false else .none) .none
def shSpec (w : Wt) : Shape := shV w (etIn w isFloat3) true true 0 (vdst w) (vsrc w) .none .none
def shRope (w : Wt) : Shape :=
  let t := OpK.vec (etRegs w) (etRegs w) false true
  shV w (etIn w isFloat3) true false 0x08000000 (vdst w) (vsrc w) t t
def shMerge (w : Wt) : Shape :=
  shV w (etIn w fun t => t == .fp32) false false 0 (.vdst 4 4 false) (.vec 4 4 false false) (.vec 4 4 false false) .none
def shBits (w : Wt) (mul : Bool) : Shape :=
  shV w (if mul then etIn w (fun t => t == .n16 || t == .n32) else etIn w ETy.isInt) false false 0 (vdst w) (vsrc w)
    (if mul then vsrc w else .none) .none
def shRand (w : Wt) : Shape :=
  shV w (etIn w fun t => t == .n16 || t == .n32 || isFloat3 t) false false 0x0C000000 (vdst w) .sSrc .sSrc .sSrc
def shRngkey (w : Wt) : Shape := { shV w (w.et == 0) false false 0 .none .sSrc .none .none with lanes := false }
def shMask (w : Wi) (n : Nat) (d a b : OpK) (lanes : Bool) : Shape :=
  { hd := w.toHd, streams := [.v], lanes := lanes
    xok := immBits w n && (n == 0 || bitsOf w.imm.toNat 12 11 != 3), d := d, a := a, b := b }

/-! ### Matrix words (R260 to R279) -/

/-- The type pairs the multiplies accept (R266). -/
def pairOk (at_ bt : Option ETy) : Bool :=
  match at_, bt with
  | some x, some y =>
    let i8 := fun t => t == ETy.i8 || t == ETy.n8
    let f8 := fun t => t == ETy.e4m3 || t == ETy.e5m2
    (i8 x && i8 y) || (f8 x && f8 y) || (x == y && (x == .i4x || x == .fp16 || x == .bf16))
  | _, _ => false

def shX (w : Wt) (ets lanes : Bool) (use : Nat) (d a b c : OpK) : Shape :=
  { hd := w.toHd, streams := [.m], lanes := lanes
    xok := ets && w.rm == 0 && !w.sat && w.ext.toNat &&& use == w.ext.toNat
    d := d, a := a, b := b, c := c }
def shMma (w : Wt) (sparse : Bool) : Shape :=
  shX w (pairOk (ETy.ofCode w.et) (ETy.ofCode (BitVec.ofNat 4 (xb w 27 24)))) true (if sparse then 0x0F800000 else 0x0F000000)
    .tile (.vec 1 1 true false) (if sparse then .vec 8 1 false false else .vec 4 1 true false) (if sparse then .mask else .none)
def shMmaf (w : Wt) : Shape := shX w (w.et == 0) true 0x00F80000 .tile (.vec 1 1 true false) (.vec 4 1 true false) .none
def shAcc (w : Wt) (lanes : Bool) (n : Nat) (d a : OpK) : Shape := shX w (w.et == 0) lanes (2 ^ n - 1) d a .none .none
def shAaddv (w : Wt) : Shape :=
  shX w (etIn w isWide) true 0 .tile (.vec (etRegs w) (etRegs w) true false) .none .none
/-- RSLV: the word's own type, or the table's under FT (R265, R271). -/
def shRslv (w : Wt) : Shape :=
  let ft := xb w 27 27 == 1
  let t := etIn w fun t => t == .fp32 || t == .fp16 || t == .bf16 || t == .e4m3 || t == .e5m2
  { hd := w.toHd, streams := [.m], lanes := true
    xok := w.ext.toNat / 2 ^ 20 * 2 ^ 20 == w.ext.toNat &&
      (if ft then w.et == 0 && w.rm == 0 && !w.sat else t && decide (w.rm.toNat < 6))
    d := if ft then .vdst 1 1 true else vdst w, a := .tile }
def shAcmp (w : Wt) : Shape :=
  shX w (etIn w (fun t => t == .i32 || isFloat3 t) && decide (xb w 2 0 < 6)) true 7 .mask .tile (vsrc w) .none
/-- SETRM: RM is the mode; code 5 is its own entry's fault (R275). -/
def shSetrm (w : Wt) : Shape :=
  { hd := w.toHd, streams := [.m], xok := w.et == 0 && decide (w.rm.toNat < 6) && !w.sat && w.ext == 0 }
def shAttn (w : Wt) (multi : Bool) : Shape :=
  let kt := etIn w fun t => t == .fp16 || t == .bf16 || t == .e4m3 || t == .e5m2
  let qt := xb w 27 24 == 9 || xb w 27 24 == 10
  { shX w (kt && qt && xb w 23 23 == 1) true (if multi then 0x0FF80000 else 0x0FF00000)
      (.vec 4 4 false false) (.vec 1 1 true false) .sSrc .sSrc with die := some true }

/-- The shape of an encoded instruction; a step of the device has none. -/
def instrShape (i : Instr) : Option Shape :=
  match i with
  | .add w => some (shZ3 w)
  | .sub w => some (shZ3 w)
  | .and w => some (shZ3 w)
  | .or w => some (shZ3 w)
  | .xor w => some (shZ3 w)
  | .shl w => some (shZ3 w)
  | .shr w => some (shZ3 w)
  | .sra w => some (shZ3 w)
  | .slt w => some (shZ3 w)
  | .sltu w => some (shZ3 w)
  | .min w => some (shZ3 w)
  | .max w => some (shZ3 w)
  | .minu w => some (shZ3 w)
  | .maxu w => some (shZ3 w)
  | .addi w => some (shI w 36 .sDst .sSrc .none .none)
  | .andi w => some (shI w 36 .sDst .sSrc .none .none)
  | .ori w => some (shI w 36 .sDst .sSrc .none .none)
  | .xori w => some (shI w 36 .sDst .sSrc .none .none)
  | .shli w => some (shI w 6 .sDst .sSrc .none .none)
  | .shri w => some (shI w 6 .sDst .sSrc .none .none)
  | .srai w => some (shI w 6 .sDst .sSrc .none .none)
  | .slti w => some (shI w 36 .sDst .sSrc .none .none)
  | .sltiu w => some (shI w 36 .sDst .sSrc .none .none)
  | .mini w => some (shI w 36 .sDst .sSrc .none .none)
  | .maxi w => some (shI w 36 .sDst .sSrc .none .none)
  | .minui w => some (shI w 36 .sDst .sSrc .none .none)
  | .maxui w => some (shI w 36 .sDst .sSrc .none .none)
  | .mul w => some (shZ3 w)
  | .mulh w => some (shZ3 w)
  | .mulhu w => some (shZ3 w)
  | .div w => some (shZ3 w)
  | .divu w => some (shZ3 w)
  | .rem w => some (shZ3 w)
  | .remu w => some (shZ3 w)
  | .sclmul w => some (shZ3 w)
  | .sclmulh w => some (shZ3 w)
  | .clz w => some (shI w 0 .sDst .sSrc .none .none)
  | .ctz w => some (shI w 0 .sDst .sSrc .none .none)
  | .popc w => some (shI w 0 .sDst .sSrc .none .none)
  | .brev w => some (shI w 0 .sDst .sSrc .none .none)
  | .bswap w => some (shI w 0 .sDst .sSrc .none .none)
  | .extr w => some (shI w 13 .sDst .sSrc .none .none)
  | .ins w => some (shI w 13 .sDst .sSrc .sSrc .none)
  | .extrs w => some (shI w 13 .sDst .sSrc .none .none)
  | .movi w => some (shI w 36 .sDst .none .none .none)
  | .movhi w => some (shI w 28 .sDst .sSrc .none .none)
  | .mov w => some (shI w 0 .sDst .sSrc .none .none)
  | .sel w => some (shI w 0 .sDst .sSrc .sSrc .sSrc)
  | .beq w => some (shI w 36 .none .sSrc .sSrc .none)
  | .bne w => some (shI w 36 .none .sSrc .sSrc .none)
  | .blt w => some (shI w 36 .none .sSrc .sSrc .none)
  | .bge w => some (shI w 36 .none .sSrc .sSrc .none)
  | .bltu w => some (shI w 36 .none .sSrc .sSrc .none)
  | .bgeu w => some (shI w 36 .none .sSrc .sSrc .none)
  | .br w => some (shI w 36 .none .none .none .none)
  | .bri w => some (shI w 36 .none .sSrc .none .none)
  | .call w => some (shI w 36 .sDst .none .none .none)
  | .ret w => some (shI w 0 .none .sSrc .none .none)
  | .bq w => some (shI w 36 .none .qSrc .none .none)
  | .bqz w => some (shI w 36 .none .qSrc .none .none)
  | .loop w => some (shI w 36 .sReg .none .none .none)
  | .loopi w => some (shI w 36 .none .none .none .none)
  | .loops w => some (shI w 36 .sReg .none .none .none)
  | .rrbset w => some (shI w 7 .none .none .none .none)
  | .rdz w => some (shI w 0 .none .none .none .none)
  | .yield w => some (shI w 0 .none .none .none .none)
  | .endStream w => some (shI w 0 .none .none .none .none)
  | .trap w => some (shI w 16 .none .none .none .none)
  | .eret w => some (shI w 0 .none .none .none .none)
  | .bkpt w => some (shI w 16 .none .none .none .none)
  | .rdsr w => some (shI w 8 .sDst .none .none .none)
  | .wrsr w => some (shI w 8 .none .sSrc .none .none)
  | .rdcyc w => some (shI w 0 .sDst .none .none .none)
  | .sqw w => some (shZ w .qDst .sReg)
  | .sqr w => some (shZ w .sReg .qSrc)
  | .ldB w => some (shM w .none false 1 24 .sDst .sSrc .none .none)
  | .ldBn w => some (shM w .none false 1 24 .sDst .sSrc .none .none)
  | .ldH w => some (shM w .none false 1 24 .sDst .sSrc .none .none)
  | .ldHn w => some (shM w .none false 1 24 .sDst .sSrc .none .none)
  | .ldW w => some (shM w .none false 1 24 .sDst .sSrc .none .none)
  | .ldWn w => some (shM w .none false 1 24 .sDst .sSrc .none .none)
  | .ldD w => some (shM w .none false 1 24 .sDst .sSrc .none .none)
  | .stB w => some (shM w .none false 1 24 .none .sSrc .sSrc .none)
  | .stH w => some (shM w .none false 1 24 .none .sSrc .sSrc .none)
  | .stW w => some (shM w .none false 1 24 .none .sSrc .sSrc .none)
  | .stD w => some (shM w .none false 1 24 .none .sSrc .sSrc .none)
  | .ldv w => some (shTile w true (vr w) .sSrc .sSrc .none)
  | .ldvp w => some (shTile w false (.portOf true (2 ^ w.sz.toNat)) .sSrc .sSrc .none)
  | .stv w => some (shTile w false .none .sSrc .sSrc (vr w))
  | .stvp w => some (shTile w false .none .sSrc .sSrc (.portOf false (2 ^ w.sz.toNat)))
  | .ldg w => some (shGather w true)
  | .stg w => some (shGather w false)
  | .aaddAtomic w => some (shM w .none false 0xF 24 .sDst .sSrc .sSrc .none)
  | .aand w => some (shM w .none false 0xF 24 .sDst .sSrc .sSrc .none)
  | .aor w => some (shM w .none false 0xF 24 .sDst .sSrc .sSrc .none)
  | .axor w => some (shM w .none false 0xF 24 .sDst .sSrc .sSrc .none)
  | .amin w => some (shM w .none false 0xF 24 .sDst .sSrc .sSrc .none)
  | .amax w => some (shM w .none false 0xF 24 .sDst .sSrc .sSrc .none)
  | .aminn w => some (shM w .none false 0xF 24 .sDst .sSrc .sSrc .none)
  | .amaxn w => some (shM w .none false 0xF 24 .sDst .sSrc .sSrc .none)
  | .aswp w => some (shM w .none false 0xF 24 .sDst .sSrc .sSrc .none)
  | .acas w => some (shM w .none false 0xF 24 .sDst .sSrc .sSrc .sSrc)
  | .fence w => some (shFence w)
  | .swinit w => some (shM w .none false 1 24 .none .sSrc .sSrc .sSrc)
  | .swwait w => some (shM w .none false 3 24 .sDst .sSrc .sSrc .none)
  | .swadd w => some (shM w .none false 1 24 .none .sSrc .sSrc .none)
  | .pcfg w => some (shPcfg w)
  | .pgo w => some (shM w .opt true 1 24 .portAny .sSrc .none .none)
  | .pstop w => some (shM0 w .none 1 0 .portAny .none .none .none)
  | .pflush w => some (shM0 w .none 1 0 .portAny .none .none .none)
  | .wcfg w => some (shM w .req true 0xFF 24 .none .sSrc .none .none)
  | .wadv w => some (shM w .req true 0xFF 7 .none .none .none .none)
  | .wrel w => some (shM0 w .none 0xFF 0 .none .none .none .none)
  | .cpy w => some (shM w .opt true 3 24 .sDst .sSrc .sSrc .sSrc)
  | .cpy2 w => some (shM w .opt true 3 24 .sDst .sSrc .none .none)
  | .cpy3 w => some (shM w .opt true 3 24 .sDst .sSrc .none .none)
  | .cpysw w => some (shM w .opt true 1 24 .sSrc .sSrc .sSrc .sSrc)
  | .cbat w => some { shM0 w .req 1 0 .none .none .none .none with streams := [.a, .m] }
  | .waitn w => some { shM0 w .req 1 8 .none .none .none .none with streams := [.a, .m] }
  | .pref w => some (shM0 w .none 1 24 .none .sSrc .sSrc .none)
  | .enq w => some (shM w .opt true 3 24 .sDst .sSrc .sSrc .none)
  | .deq w => some (shM0 w .none 3 0 .sDst .none .none .none)
  | .tierin w => some (shM w .opt true 1 24 .sDst .sSrc .sSrc .none)
  | .tierq w => some (shM0 w .none 1 24 .sDst .sSrc .none .none)
  | .tierev w => some (shM w .opt true 6 24 .sDst .sSrc .sSrc .none)
  | .vadd w => some (shArith w true .none)
  | .vsub w => some (shArith w true .none)
  | .vmul w => some (shArith w true .none)
  | .vfma w => some (shArith3 w)
  | .vfms w => some (shArith3 w)
  | .vmin w => some (shArith w false .none)
  | .vmax w => some (shArith w false .none)
  | .vabs w => some (shArith1 w)
  | .vneg w => some (shArith1 w)
  | .vabd w => some (shArith w true .none)
  | .vcmp w => some (shVcmp w)
  | .vand w => some (shLane w (.vec 1 1 true true) .none)
  | .vor w => some (shLane w (.vec 1 1 true true) .none)
  | .vxor w => some (shLane w (.vec 1 1 true true) .none)
  | .vnot w => some (shLane w .none .none)
  | .vshl w => some (shShift w)
  | .vshr w => some (shShift w)
  | .vsra w => some (shShift w)
  | .vsel w => some (shLane w (.vec 1 1 true true) .mask)
  | .vcvt w => some (shCvt w false)
  | .vcvts w => some (shCvt w true)
  | .vpack w => some (shPack w)
  | .vunpk w => some (shUnpk w)
  | .vqi4x w => some (shQi4x w)
  | .vmov w => some (shLane w .none .none)
  | .vbcst w => some (shElem w false .sSrc .none true isNumber)
  | .vins w => some (shElem w false .sSrc .sSrc true isNumber)
  | .vext w => some (shVext w)
  | .vidx w => some (shElem w false .sSrc .none true isWideInt)
  | .vrotr w => some (shRot w)
  | .vrotc w => some (shRot w)
  | .vbcr w => some (shRot w)
  | .vbcc w => some (shRot w)
  | .vredr w => some (shRed w)
  | .vredc w => some (shRed w)
  | .vtrn w => some (shPerm w false)
  | .vperm w => some (shPerm w true)
  | .vexp2 w => some (shSpec w)
  | .vexp w => some (shSpec w)
  | .vlog2 w => some (shSpec w)
  | .vrcp w => some (shSpec w)
  | .vrsq w => some (shSpec w)
  | .vsqrt w => some (shSpec w)
  | .vtanh w => some (shSpec w)
  | .vsigm w => some (shSpec w)
  | .vsilu w => some (shSpec w)
  | .vgelu w => some (shSpec w)
  | .vrope w => some (shRope w)
  | .vsmerge w => some (shMerge w)
  | .vclmulL w => some (shBits w true)
  | .vclmulH w => some (shBits w true)
  | .vpopc w => some (shBits w false)
  | .vclz w => some (shBits w false)
  | .vrand w => some (shRand w)
  | .rngkey w => some (shRngkey w)
  | .mand w => some (shMask w 0 .mask .mask .mask true)
  | .mor w => some (shMask w 0 .mask .mask .mask true)
  | .mxor w => some (shMask w 0 .mask .mask .mask true)
  | .mnot w => some (shMask w 0 .mask .mask .none true)
  | .mset w => some (shMask w 13 .mask .none .none true)
  | .mcnt w => some (shMask w 0 .sDst .mask .none false)
  | .mfirst w => some (shMask w 0 .sDst .mask .none false)
  | .mma w => some (shMma w false)
  | .mmas w => some (shMma w true)
  | .mmaf w => some (shMmaf w)
  | .mmat w => some (shMma w false)
  | .mclr w => some (shAcc w true 0 .tile .none)
  | .anch w => some (shAcc w false 12 .tile .none)
  | .ashf w => some (shAcc w false 12 .tile .none)
  | .aaddv w => some (shAaddv w)
  | .aaddAcc w => some (shAcc w true 0 .tile .tile)
  | .asub w => some (shAcc w true 0 .tile .tile)
  | .amov w => some (shAcc w true 0 .tile .tile)
  | .acan w => some (shAcc w false 0 .tile .none)
  | .rslv w => some (shRslv w)
  | .acmp w => some (shAcmp w)
  | .aexn w => some (shAcc w true 0 (.vdst 1 1 true) .tile)
  | .astr w => some { shM w .req true 1 24 .none .sSrc .none .tile with streams := [.m] }
  | .astc w => some { shM w .req true 1 24 .none .sSrc .none .tile with streams := [.m] }
  | .aldr w => some { shM w .req true 1 24 .tile .sSrc .none .none with streams := [.m] }
  | .aldc w => some { shM w .req true 1 24 .tile .sSrc .none .none with streams := [.m] }
  | .setrm w => some (shSetrm w)
  | .fmtt w => some (shAcc w false 0 .none .none)
  | .attn w => some (shAttn w false)
  | .attnm w => some (shAttn w true)
  | .kvnew w => some (shK w .req 24 .sDst .sSrc .none .none)
  | .kvfree w => some (shK w .req 0 .sDst .none .sSrc .none)
  | .kvfork w => some (shK w .req 24 .sDst .sSrc .sSrc .sSrc)
  | .kvshare w => some (shK w .req 0 .sDst .sSrc .sSrc .sSrc)
  | .kvstat w => some (shK w .req 24 .sDst .sSrc .sSrc .sSrc)
  | .kvw w => some (shK w .opt 24 .none .sSrc .sSrc .sSrc)
  | .kvrnw w => some (shK w .none 0 .sDst .none .sSrc .sSrc)
  | .kvexp w => some (shK w .none 0 .sDst .none .sSrc .sSrc)
  | .kvadv w => some (shK w .opt 0 .none .none .sSrc .sSrc)
  | .kvcmt w => some (shK w .opt 0 .none .none .sSrc .sSrc)
  | .kvrwd w => some (shK w .opt 0 .none .none .sSrc .sSrc)
  | .smin w => some (shK w .req 0 .sDst .none .sSrc .none)
  | .smout w => some (shK w .req 24 .sDst .sSrc .sSrc .none)
  | .sminv w => some (shK w .req 0 .sDst .none .sSrc .none)
  | .slabgr w => some (shK w .req 24 .sDst .sSrc .sSrc .none)
  | .xopen w => some (shM w .req true 1 24 .sDst .sSrc .none .none)
  | .xgrant w => some (shM w .none false 1 5 .sDst .none .sSrc .none)
  | .xsend w => some (shM w .opt true 3 24 .sDst .sSrc .sSrc .sSrc)
  | .xrecv w => some (shM0 w .none 3 0 .sDst .none .sSrc .none)
  | .xclose w => some { shM w .req true 1 0 .sDst .none .sSrc .none with xok := w.cls == 0 && (shM w .req true 1 0 .none .none .none .none).xok }
  | .xstat w => some (shM0 w .none 1 0 .sDst .none .sSrc .none)
  | .pancfg w => some { shM w .none false 1 24 .sDst .sSrc .none .none with die := some false }
  | .pancfgRel w => some { shM w .none false 2 0 .sDst .none .sSrc .none with die := some false }
  | .panrd w => some { shM w .req true 3 24 .none .sSrc .sSrc .sSrc with die := some false }
  | .cntrd w => some (shSys w 5 .sDst .none)
  | .cntclr w => some (shSys w 6 .none .none)
  | .invtlb w => some (shSys w 2 .none (if w.imm.toNat = 1 then .none else .sSrc))
  | .pmcrd w => some (shSys w 8 .sDst (if 16 ≤ w.imm.toNat ∧ w.imm.toNat ≤ 18 then .sSrc else .none))
  | .resultLands => none
  | .loadDataReturn _ => none
  | .storePerform _ => none
  | .atomicPerform _ => none
  | .sectionEntry _ => none
  | .sectionRetire _ => none
  | .rdzJoin => none
  | .streamDeadlock => none
  | .jobComplete => none
  | .eventTaken _ => none
  | .tileLoadComplete _ _ => none
  | .gatherComplete _ => none
  | .rakeRowPerform _ _ => none
  | .swwaitComplete => none
  | .windowFetchPerform _ _ => none
  | .pgenTilePush _ => none
  | .mailboxCommand _ _ => none
  | .tierMigrationComplete _ => none
  | .contextAreaClearDone _ _ => none
  | .kvwComplete _ _ => none
  | .forkCopyDone _ _ => none
  | .kvCommandApply _ _ => none
  | .orreryReclaimStep _ _ => none
  | .orreryReleaseStep _ _ => none
  | .slabPageMove _ _ => none
  | .attnPageCompute _ _ => none
  | .attnComplete _ _ => none
  | .channelMatch _ _ => none
  | .permitArrive _ _ => none
  | .setArrived _ _ => none
  | .bridgeBeatReplay _ _ => none
  | .bridgeRetrain _ _ => none
  | .xcloseComplete _ _ => none
  | .panStoreObserve _ => none
  | .launchTake _ _ => none
  | .tailxWrite _ _ => none
  | .gangPlace _ => none
  | .sliceEnd _ => none
  | .preemptStop _ _ => none
  | .gangSaveComplete _ _ => none
  | .launchComplete _ => none
  | .powerGood => none
  | .phaseComplete _ _ => none
  | .phaseTimeout => none
  | .deviceReset => none
  | .firmwareUpdate _ _ => none
  | .cxlMemRead _ _ => none
  | .cxlMemWrite _ _ => none
  | .ideEstablished => none
  | .ideKeyRefresh => none
  | .ideIntegrityFail => none
  | .ideerrClear _ => none
  | .registerWrite _ _ => none
  | .rootWrite _ _ => none
  | .preqGo _ _ => none
  | .preqCancel _ _ => none
  | .preqResume _ _ => none
  | .tlbinvWrite _ => none
  | .tlbinvComplete => none
  | .faqPop => none
  | .hbmErrorReport _ _ => none
  | .retireRemap _ => none
  | .retireExclude _ => none
  | .retireComplete => none
  | .rowctlWrite _ => none
  | .rowActivation _ => none
  | .refreshManagement _ => none
  | .backoffEnd _ => none
  | .periodicRefresh _ _ => none
  | .flashRebuild _ _ => none
  | .watchdogWrite _ => none
  | .watchdogExpire _ => none
  | .cdisWrite _ _ => none
  | .prepare _ _ => none
  | .ack _ _ => none
  | .nack _ _ => none
  | .commit _ _ => none
  | .abort _ _ => none
  | .almanacAckTimeout => none
  | .flitReceive _ _ => none
  | .nakReceive _ _ => none
  | .portRetrain _ _ => none
  | .laneDrop _ _ => none
  | .laneWidthSwitch _ => none
  | .topoLoad _ => none
  | .topoLoadComplete => none
  | .colqSubmit _ => none
  | .ringStep _ _ => none
  | .collectiveComplete => none
  | .getVersion => none
  | .getCapabilities => none
  | .negotiateAlgorithms _ _ => none
  | .getDigests => none
  | .getCertificate _ => none
  | .challenge _ => none
  | .getMeasurements => none
  | .keyExchange _ => none
  | .finish _ => none
  | .keyUpdate => none
  | .endSession => none
  | .sharedInfrastructureMachineCheck _ => none
  | .tileImageLoadComplete _ => none
  | .orreryBatchPerformed _ _ => none

/-- R174 rows 2 to 6 but for the state of ports: the stream, the die, the view, the X field, the operand fields. -/
def Shape.legal (h : Shape) (k : Strm) (attn sys : Bool) : Bool :=
  h.streams.contains k && (match h.die with | none => true | some x => x == attn) && (!h.sys || sys)
  && h.xok && (h.hd.awe || h.hd.awk == 0) && (h.lanes || h.hd.pm == 0)
  && h.d.ok k h.hd.d && h.a.ok k h.hd.a && h.b.ok k h.hd.b && h.c.ok k h.hd.c

end Sys2Proof.Machine
end

