-- ==== Sys2Proof/Machine/Base.lean ====
section
/-!
DEFINITION. The named operations over the state that every family shares: accessors, memory and its address spaces, translation, sync
words, tokens, queues, results, records and counters.
-/

namespace Sys2Proof.Machine

/-! ### Results of an attempt to issue a word -/

/-- Why a word does not issue: it waits, a read it makes waits at a bank in back-off, or it raises a precise fault (R174, R324). -/
inductive Halt where
  | wait
  | bank (keys : List Nat)       -- reads of its own wait at banks in back-off (R324)
  | trap (f : FaultInfo)
  deriving DecidableEq, Repr

/-- The result of an attempt: a value, a wait or a fault. -/
abbrev Res (α : Type) := Except Halt α

def waitUnless (b : Bool) : Res Unit := if b then .ok () else .error .wait
def trapIf (b : Bool) (f : FaultInfo) : Res Unit := if b then .error (.trap f) else .ok ()
def trapR {α : Type} (f : FaultInfo) : Res α := .error (.trap f)

/-- A fault with a code alone, and with a cause detail (R350). -/
def flt (c : FCode) : FaultInfo := { code := c }
def fltS (c : FCode) (sub : Nat) : FaultInfo := { code := c, sub := sub }

/-! ### Accessors -/

/-- A core's stream. -/
def Core.strm (c : Core) (k : Strm) : StrmSt :=
  match k with | .a => c.sa | .v => c.sv | .m => c.sm

def Core.setStrm (c : Core) (k : Strm) (x : StrmSt) : Core :=
  match k with | .a => { c with sa := x } | .v => { c with sv := x } | .m => { c with sm := x }

/-- The stream that issues. -/
def State.strm (s : State) : StrmSt := s.core.strm s.cur

def State.setStrm (s : State) (x : StrmSt) : State := { s with core := s.core.setStrm s.cur x }

/-- Change the issuing stream; change the core under view. -/
def State.upd (s : State) (f : StrmSt → StrmSt) : State := s.setStrm (f s.strm)
def State.updC (s : State) (f : Core → Core) : State := { s with core := f s.core }
/-- Change one named stream of the core under view. -/
def State.updK (s : State) (k : Strm) (f : StrmSt → StrmSt) : State :=
  { s with core := s.core.setStrm k (f (s.core.strm k)) }

/-- A die by its `did`. -/
def State.die (s : State) (d : Nat) : Die := s.dies.getD d Die.reset
def State.setDie (s : State) (d : Nat) (x : Die) : State := { s with dies := s.dies.set d x }
def State.updDie (s : State) (d : Nat) (f : Die → Die) : State := s.setDie d (f (s.die d))

/-- The cycle count of the core's die (R26). -/
def State.now (s : State) : Nat := (s.die s.core.did).cyc

/-- Attention dies are `did` 0 to 3 (R3). -/
def isAttnDie (d : Nat) : Bool := decide (d < 4)

/-- The cluster of the core, as an index over the package. -/
def Core.clusterIx (c : Core) : Nat := c.did * 16 + c.cid / 4

/-- A stream's scalar: s0 reads as zero (R37). -/
def StrmSt.sreg (x : StrmSt) (n : Nat) : Word := if n = 0 then 0 else Sparse.get x.sregs n

/-- Write a scalar: s0 ignores writes (R37). -/
def StrmSt.setSreg (x : StrmSt) (n : Nat) (v : Word) : StrmSt :=
  if n = 0 then x else { x with sregs := Sparse.set x.sregs n v }

/-- A mask: m0 reads as all ones (R36). -/
def Core.mask (c : Core) (n : Nat) : BitVec 1024 := if n = 0 then BitVec.allOnes 1024 else Sparse.get c.masks n
def Core.setMask (c : Core) (n : Nat) (v : BitVec 1024) : Core :=
  if n = 0 then c else { c with masks := Sparse.set c.masks n v }

def Core.vreg (c : Core) (n : Nat) : VReg := Sparse.get c.vregs n
/-- Write a vector register and mark its bank live (R347). -/
def Core.setVreg (c : Core) (n : Nat) (v : VReg) : Core :=
  { c with vregs := Sparse.set c.vregs n v, banks := c.banks ||| (1#20 <<< (n / 32)) }

def Core.tile (c : Core) (n : Nat) : Tile := Sparse.get c.tiles n
def Core.setTile (c : Core) (n : Nat) (t : Tile) : Core := { c with tiles := Sparse.set c.tiles n t }

def Core.queue (c : Core) (n : Nat) : List QSlot := Sparse.get c.queues n
def Core.setQueue (c : Core) (n : Nat) (q : List QSlot) : Core := { c with queues := Sparse.set c.queues n q }

def Core.port (c : Core) (n : Nat) : Port := Sparse.get c.ports n
def Core.setPort (c : Core) (n : Nat) (p : Port) : Core := { c with ports := Sparse.set c.ports n p }

/-- A fresh identity for an operation in flight. -/
def State.fresh (s : State) : Nat × State := (s.ids, { s with ids := s.ids + 1 })

/-- Add to a PMCRD counter of the core's job (R304). -/
def Core.count (c : Core) (n by_ : Nat) : Core :=
  { c with pmc := Sparse.set c.pmc n ((Sparse.get c.pmc n + by_) % 2 ^ 64) }

/-! ### Jobs wherever they are -/

/-- Whether a core holds a job. -/
def Core.holds (c : Core) (lrec job : Nat) : Bool := c.running && c.lrec == lrec && c.job.toNat == job

/-- Change a job's core, running or saved. -/
def State.updJob (s : State) (lrec job : Nat) (f : Core → Core) : State :=
  if s.core.holds lrec job then s.updC f
  else
    let g := fun (c : Core) => if c.holds lrec job then f c else c
    { s with parked := s.parked.map g,
             saved := s.saved.map fun (v : SavedGang) => { v with cores := v.cores.map g } }

/-- Every core that holds a job, running or saved. -/
def State.allCores (s : State) : List Core :=
  s.core :: s.parked ++ s.saved.flatMap (·.cores)

/-- The core of a job, running or saved. -/
def State.jobCore (s : State) (lrec job : Nat) : Option Core :=
  s.allCores.find? fun c => c.holds lrec job

/-- Whether a job is saved, its images written. -/
def State.jobSaved (s : State) (lrec job : Nat) : Bool := s.saved.any fun v => v.valid && v.cores.any fun c => c.holds lrec job

/-! ### Channel ends (R150, R151) -/

def Die.chEnd (d : Die) (n : Nat) : Option ChEnd := d.ends.find? fun e => e.num == n

/-- The matched end at the peer. -/
def State.partner (s : State) (e : ChEnd) : Option ChEnd :=
  match e.peerEnd with
  | none => none
  | some n => (s.die e.peer).chEnd n

/-! ### Memory: address spaces and bytes -/

/-- Keys of the memory table: HBM by DPA, then CXL, FLASH and the cluster scratchpads (R83, R85). -/
def cxlBase : Nat := 2 ^ 52
def flashBase : Nat := 2 * 2 ^ 52
def scratchBase : Nat := 3 * 2 ^ 52

/-- The scratchpad window and the reserved range after it (R85, R86). -/
def winLo : Nat := 0x10000000
def winHi : Nat := 0x10400000
def resHi : Nat := 0x20000000

def inWindow (va : Nat) : Bool := decide (winLo ≤ va) && decide (va < winHi)

/-- The key of a scratchpad address of a cluster (R85). -/
def scratchKey (cluster va : Nat) : Nat := scratchBase + cluster * 2 ^ 22 + (va - winLo)

/-- Bytes of one HBM stack, and of all sixteen (R329). -/
def stackBytes : Nat := 0xC00000000
def hbmBytes : Nat := 16 * stackBytes

/-- Bytes of the four flash modules (R1). -/
def flashBytes : Nat := 8000000000000

/-- The die that holds an HBM address (R329). -/
def dieOfDpa (dpa : Nat) : Nat :=
  let k := dpa / stackBytes
  if k < 8 then k / 2 else k - 4

def isHbmKey (key : Nat) : Bool := decide (key < cxlBase)
def isFlashKey (key : Nat) : Bool := decide (flashBase ≤ key) && decide (key < scratchBase)
def isScratchKey (key : Nat) : Bool := decide (scratchBase ≤ key)

/-- The value a byte of memory holds. -/
def State.byte (s : State) (key : Nat) : Byte := Sparse.get s.mem key

/-- The bytes at consecutive keys. -/
def State.bytesAt (s : State) (key : Nat) : Nat → List Byte
  | 0 => []
  | n + 1 => s.byte key :: s.bytesAt (key + 1) n

/-- The little-endian number at a key (R4). -/
def State.natAt (s : State) (key n : Nat) : Nat := leNat (s.bytesAt key n)

/-- Write consecutive bytes. -/
def memWrite (m : List Host.Cell) (key : Nat) : List Byte → List Host.Cell
  | [] => m
  | b :: r => memWrite (Sparse.set m key b) (key + 1) r

/-- Memory's canonical form: strictly rising addresses, no entry equal to what an unlisted address reads as (zero). -/
def Memory.wf (m : List Host.Cell) : Bool := Sparse.wf m

/-- Whether an HBM key lies in the slice of a fenced die or in an excluded frame (R327, R357, R362). -/
def State.hbmDead (s : State) (key : Nat) : Bool :=
  isHbmKey key && ((s.die (dieOfDpa key)).fenced || s.host.excluded.contains (key / 65536))

/-- Whether a read of `n` bytes meets poison (R327, R356, R360). -/
def State.poisonedAt (s : State) (key n : Nat) : Bool :=
  s.hbmDead key || (isHbmKey key && s.poison.any fun l => decide (l * 64 < key + n) && decide (key < (l + 1) * 64)) ||
  (isFlashKey key && s.flashBad.contains ((key - flashBase) / 65536))

/-- Lines of HBM that a write covers whole: their poison marks clear (R356). -/
def clearPoison (p : List Nat) (key n : Nat) : List Nat :=
  p.filter fun l => !(decide (key ≤ l * 64) && decide ((l + 1) * 64 ≤ key + n))

/-- Whether a write touches a region a Pan slot of its stack watches (R300). -/
def Die.watches (d : Die) (key n : Nat) : Bool :=
  d.pans.any fun p => p.2.used && p.2.pages.any fun g => decide (g.2 < key + n) && decide (key < g.2 + 65536)

/-- Perform a write: a dead frame discards it, a whole line clears its poison, a watched region's filter sees it. -/
def State.writeMem (s : State) (key : Nat) (bs : List Byte) : State :=
  if s.hbmDead key then s
  else
    let s1 := { s with mem := memWrite s.mem key bs, poison := if isHbmKey key then clearPoison s.poison key bs.length else s.poison }
    let d := dieOfDpa key
    if isHbmKey key && (s1.die d).watches key bs.length then
      s1.updDie d fun x => { x with panq := x.panq ++ [(key, bs)] }
    else s1

/-! ### HBM rows (R322 to R324) -/

/-- The bank of an HBM key: stack, pseudo-channel and bank; and its row (R322). -/
def bankOf (key : Nat) : Nat :=
  let sa := key % stackBytes
  (key / stackBytes) * 1024 + bitsOf sa 15 10 * 16 + bitsOf sa 19 16
def rowOf (key : Nat) : Nat := bitsOf (key % stackBytes) 35 20

/-- Whether an access to a key's bank must wait: a back-off runs, or refresh management comes first (R323, R324). -/
def State.backedOff (s : State) (key : Nat) : Bool :=
  let b := Sparse.get s.banks (bankOf key)
  isHbmKey key && (b.backoff.isSome || !b.pend.isEmpty)

/-! ### Address checks and translation (R82 to R86, R208, R353, R354) -/

/-- What an access does to a page (R83). -/
inductive Acc where
  | rd
  | wr
  | atom (n : Nat)
  | sync
  | watch
  | crd
  | cwr
  deriving DecidableEq, Repr

def Acc.writes : Acc → Bool
  | .rd => false
  | .watch => false
  | .crd => false
  | _ => true

/-- Copies end by R211 on a poisoned page, so their translation passes it (R360). -/
def Acc.copies : Acc → Bool
  | .crd => true
  | .cwr => true
  | _ => false

/-- R82 and R86 for an access of `n` bytes. -/
def rangeCheck (va n : Nat) : Res Unit :=
  trapIf (decide (va ≥ 2 ^ 52) || (decide (va < resHi) && decide (winHi < va + n)))
    { code := .translation, sub := 19, addr := va }

/-- Fields of a leaf or table entry (R353). -/
def leafTier (e : Nat) : Nat := bitsOf e 63 62
def leafOrig (e : Nat) : Bool := e.testBit 61
def leafPsn (e : Nat) : Bool := e.testBit 60
def leafW (e : Nat) : Bool := e.testBit 59
def leafFrame (e : Nat) : Nat := bitsOf e 51 16 * 65536

/-- The memory key of a leaf's frame. -/
def leafKey (e : Nat) : Nat :=
  leafFrame e + (match leafTier e with | 1 => cxlBase | 2 => flashBase | _ => 0)

/-- The outcome of a walk: the leaf's key, the leaf, and whether it maps 2 MiB; or a cause (R353). -/
structure Leaf where
  entry : Nat
  leaf  : Nat
  big   : Bool
  deriving DecidableEq, Repr

/-- Whether a page overlaps the scratchpad window and the reserved range (R86). -/
def overlapsWindow (page bytes : Nat) : Bool := decide (page < resHi) && decide (winLo < page + bytes)

/-- A leaf entry checked (R353). -/
def checkLeaf (va entry e : Nat) (big : Bool) : Except Nat Leaf :=
  let bytes := if big then 0x200000 else 0x10000
  let mis := bitsOf e 15 8 != 0 || (big && bitsOf e 20 16 != 0)
  if bitsOf e 58 52 != 0 || bitsOf e 7 2 != 0 || mis || leafTier e == 3 then .error 17
  else if overlapsWindow (va / bytes * bytes) bytes then .error 19
  else .ok { entry := entry, leaf := e, big := big }

/-- A table entry checked against the next level's alignment (R353). -/
def tableOk (e align : Nat) : Bool :=
  bitsOf e 63 52 == 0 && bitsOf e 7 2 == 0 && !e.testBit 1 && (bitsOf e 51 8 * 256) % align == 0

/-- The four-level walk through the tables in HBM (R353). -/
def State.walk (s : State) (ptb va : Nat) : Except Nat Leaf :=
  let e0 := s.natAt (ptb + 8 * bitsOf va 51 39) 8
  if !e0.testBit 0 then .error 16
  else if !tableOk e0 4096 then .error 17
  else
    let e1 := s.natAt (bitsOf e0 51 8 * 256 + 8 * bitsOf va 38 30) 8
    if !e1.testBit 0 then .error 16
    else if !tableOk e1 4096 then .error 17
    else
      let a2 := bitsOf e1 51 8 * 256 + 8 * bitsOf va 29 21
      let e2 := s.natAt a2 8
      if !e2.testBit 0 then .error 16
      else if e2.testBit 1 then checkLeaf va a2 e2 true
      else if !tableOk e2 256 then .error 17
      else
        let a3 := bitsOf e2 51 8 * 256 + 8 * bitsOf va 20 16
        let e3 := s.natAt a3 8
        if !e3.testBit 0 then .error 16
        else if !e3.testBit 1 then .error 17
        else checkLeaf va a3 e3 false

/-- The memory keys of the entries a walk reads: each table names the next (R353). -/
def State.walkKeys (s : State) (ptb va : Nat) : List Nat :=
  let a0 := ptb + 8 * bitsOf va 51 39
  let e0 := s.natAt a0 8
  if !(e0.testBit 0 && tableOk e0 4096) then [a0]
  else
    let a1 := bitsOf e0 51 8 * 256 + 8 * bitsOf va 38 30
    let e1 := s.natAt a1 8
    if !(e1.testBit 0 && tableOk e1 4096) then [a0, a1]
    else
      let a2 := bitsOf e1 51 8 * 256 + 8 * bitsOf va 29 21
      let e2 := s.natAt a2 8
      if !(e2.testBit 0 && tableOk e2 256) then [a0, a1, a2] else [a0, a1, a2, bitsOf e2 51 8 * 256 + 8 * bitsOf va 20 16]

/-- Whether a TLB entry serves an address (R354). -/
def TlbEnt.hits (t : TlbEnt) (ptb va : Nat) : Bool :=
  t.ptb == ptb && t.page == va / (if t.big then 0x200000 else 0x10000)

/-- The TLB entry that serves an address: the core's, else the cluster's (R354). -/
def State.cachedLeaf (s : State) (ptb va : Nat) : Option TlbEnt :=
  let find := fun (l : List TlbEnt) => l.find? fun t => t.hits ptb va
  (find s.core.tlb).orElse fun _ => find (Sparse.get (s.die s.core.did).tlbs (s.core.cid / 4))

/-- The leaf for an address: a TLB's, else a walk's (R354). -/
def State.leafOf (s : State) (ptb va : Nat) : Except Nat Leaf :=
  match s.cachedLeaf ptb va with
  | some t => .ok { entry := 0, leaf := t.leaf, big := t.big }
  | none => s.walk ptb va

/-- Whether the walk that an address needs waits at a bank in back-off (R324). -/
def State.walkBlocked (s : State) (ptb va : Nat) : Bool :=
  (s.cachedLeaf ptb va).isNone && (s.walkKeys ptb va).any s.backedOff

/-- Whether a key lies in a live context area (R123). -/
def State.engineOwned (s : State) (key : Nat) : Bool :=
  s.dies.any fun d => d.ctxs.any fun c => c.amap.any fun m => m.2.frame == key / 65536 * 65536 && m.2.tier == 0 && isHbmKey key

/-- Whether a frame is locked for a remap (R357). -/
def State.frameLocked (s : State) (key : Nat) : Bool :=
  s.host.retBusy && s.host.retStatus == 0 && !s.host.retExcl && isHbmKey key && key / 65536 == s.host.retFrame

/-- Whether writes to a page wait: its migration token is held, or its frame is locked for a remap (R84, R357). -/
def State.migHeld (s : State) (key : Nat) : Bool :=
  (s.migs.any fun m => m.pages.any fun p => decide (p.src ≤ key) && decide (key < p.src + p.bytes)) || s.frameLocked key

/-- Whether an access to CXL memory cannot flow: the IDE streams are not established (R331). -/
def State.linkDown (s : State) (key : Nat) : Bool :=
  decide (cxlBase ≤ key) && decide (key < flashBase) && !s.host.ide

/-- Whether an access to CXL memory is refused: the IDE streams have failed (R331). -/
def State.linkFailed (s : State) (key : Nat) : Bool := s.host.ideerr && s.linkDown key

/-- Whether a leaf acts as poisoned: its PSN bit, or a poisoned flash page among those it names (R353, R360). -/
def State.leafPoisoned (s : State) (l : Leaf) : Bool :=
  let f := leafFrame l.leaf / 65536
  leafPsn l.leaf || (leafTier l.leaf == 2 && s.flashBad.any fun p => decide (f ≤ p) && decide (p < f + (if l.big then 32 else 1)))

/-- The memory key of an address through its leaf: poison, tier, write permission, what stands behind the frame (R83, R353). -/
def State.pageKey (s : State) (va : Nat) (acc : Acc) (l : Leaf) : Res Nat :=
  let tier := leafTier l.leaf
  let key := leafKey l.leaf + va % (if l.big then 0x200000 else 0x10000)
  let refused := match acc with
    | .rd => false
    | .wr => tier == 2
    | .atom n => tier == 2 || (tier == 1 && decide (n < 4))
    | .sync => tier != 0
    | .watch => tier != 0
    | .crd => false
    | .cwr => tier == 2
  if s.leafPoisoned l && !acc.copies then trapR { code := .poison, addr := va }
  else if refused || (tier == 1 && s.host.ideerr && !s.host.ide) then trapR { code := .translation, sub := 2, addr := va }
  else if tier == 1 && !s.host.ide then .error .wait
  else if acc.writes && tier != 2 && !leafW l.leaf then trapR { code := .translation, sub := 18, addr := va }
  else if (tier == 0 && decide (key ≥ hbmBytes)) || (tier == 2 && decide (key ≥ flashBase + flashBytes)) then trapR (flt .noBacking)
  else if tier == 0 && s.engineOwned key then trapR { code := .translation, sub := 3, addr := va }
  else .ok key

/-- The memory key of an address under a table base as the core under view translates it (R85, R208, R354). -/
def State.xlateAt (s : State) (ptb va : Nat) (acc : Acc) : Res Nat :=
  if inWindow va then .ok (scratchKey s.core.clusterIx va)
  else if s.walkBlocked ptb va then .error (.bank (s.walkKeys ptb va))
  else
    match s.leafOf ptb va with
    | .error sub => trapR { code := .translation, sub := sub, addr := va }
    | .ok l => s.pageKey va acc l

/-- The memory key of an address by a walk of the tables as memory holds them, whatever a TLB has cached (R85, R169, R353). -/
def State.xlateWalk (s : State) (ptb va : Nat) (acc : Acc) : Res Nat :=
  if inWindow va then .ok (scratchKey s.core.clusterIx va)
  else
    match s.walk ptb va with
    | .error sub => trapR { code := .translation, sub := sub, addr := va }
    | .ok l => s.pageKey va acc l

/-- The memory key of an address as a distributor or an engine without a cluster reaches it: always a walk, and no scratchpad window
(R353; log entry 25). -/
def State.devKey (s : State) (ptb va : Nat) (acc : Acc) : Res Nat :=
  match rangeCheck va 1 with
  | .error h => .error h
  | .ok _ =>
    if inWindow va then trapR { code := .translation, sub := 19, addr := va }
    else
      match s.walk ptb va with
      | .error sub => trapR { code := .translation, sub := sub, addr := va }
      | .ok l => s.pageKey va acc l

/-- The granules of a range from `va` on as a distributor reaches them. -/
def State.devGranules (s : State) (ptb : Nat) (acc : Acc) (va g : Nat) : Nat → Res (List (Nat × Nat))
  | 0 => .ok []
  | n + 1 => do
    let a := max va (g * 65536)
    let k ← s.devKey ptb a acc
    let r ← s.devGranules ptb acc va (g + 1) n
    .ok ((g * 65536, k - (a - g * 65536)) :: r)

/-- The granules of `[va, va + n)` as a distributor reaches them. -/
def State.devRange (s : State) (ptb : Nat) (acc : Acc) (va n : Nat) : Res (List (Nat × Nat)) :=
  s.devGranules ptb acc va (va / 65536) (if n = 0 then 0 else (va + n - 1) / 65536 + 1 - va / 65536)

/-- The page table base the issuing stream sees (R52). -/
def State.ptb (s : State) : Nat := s.strm.view.ptb.toNat

/-- The memory key of an address as the issuing stream translates it. -/
def State.xlate (s : State) (va : Nat) (acc : Acc) : Res Nat := s.xlateAt s.ptb va acc

/-- The tier of a translated key: 0 HBM or scratchpad, 1 CXL, 2 FLASH. -/
def keyTier (key : Nat) : Nat :=
  if key < cxlBase then 0 else if key < flashBase then 1 else if key < scratchBase then 2 else 0

/-- Translate every 64 KiB granule from `va` on: pairs of granule address and key. -/
def State.xlateGranules (s : State) (acc : Acc) (va g : Nat) : Nat → Res (List (Nat × Nat))
  | 0 => .ok []
  | n + 1 =>
    let a := max va (g * 65536)
    match rangeCheck a 1 with
    | .error h => .error h
    | .ok _ =>
      match s.xlate a acc with
      | .error h => .error h
      | .ok k =>
        match s.xlateGranules acc va (g + 1) n with
        | .error h => .error h
        | .ok r => .ok ((g * 65536, k - (a - g * 65536)) :: r)

/-- Translate the granules of `[va, va + n)`; a scratchpad range must not pass the window's end (R86). -/
def State.xlateRange (s : State) (acc : Acc) (va n : Nat) : Res (List (Nat × Nat)) :=
  match rangeCheck va n with
  | .error h => .error h
  | .ok _ => s.xlateGranules acc va (va / 65536) (if n = 0 then 0 else (va + n - 1) / 65536 + 1 - va / 65536)

/-- The key of an address within translated granules. -/
def keyIn (pages : List (Nat × Nat)) (va : Nat) : Nat :=
  match pages.find? fun p => p.1 == va / 65536 * 65536 with
  | some p => p.2 + va % 65536
  | none => 0

/-- Bytes at virtual addresses within translated granules. -/
def State.bytesIn (s : State) (pages : List (Nat × Nat)) (va : Nat) : Nat → List Byte
  | 0 => []
  | n + 1 => s.byte (keyIn pages va) :: s.bytesIn pages (va + 1) n

/-- Join runs of bytes at consecutive keys. -/
def joinRuns : List (Nat × List Byte) → List (Nat × List Byte)
  | [] => []
  | (k, b) :: r =>
    match joinRuns r with
    | [] => [(k, b)]
    | (l, c) :: t => if k + b.length = l then (k, b ++ c) :: t else (k, b) :: (l, c) :: t

/-- Perform a list of writes in order. -/
def State.writeRuns (s : State) : List (Nat × List Byte) → State
  | [] => s
  | (k, b) :: r => (s.writeMem k b).writeRuns r

/-- Bytes at virtual addresses, by key. -/
def keyedBytes (pages : List (Nat × Nat)) (va : Nat) : List Byte → List (Nat × List Byte)
  | [] => []
  | b :: r => (keyIn pages va, [b]) :: keyedBytes pages (va + 1) r

/-- Write bytes at virtual addresses within translated granules. -/
def State.writeIn (s : State) (pages : List (Nat × Nat)) (va : Nat) (bs : List Byte) : State :=
  s.writeRuns (joinRuns (keyedBytes pages va bs))

/-- Whether a range read meets poison. -/
def State.poisonIn (s : State) (pages : List (Nat × Nat)) (va n : Nat) : Bool :=
  pages.any fun p => decide (p.1 < va + n) && decide (va < p.1 + 65536) &&
    s.poisonedAt (p.2 + (max p.1 va - p.1)) (min (va + n) (p.1 + 65536) - max p.1 va)

/-! ### Scratchpad stripes (R85) -/

/-- The stripe that holds a scratchpad key, over the package: one of its cluster's four cores (R85). -/
def stripeOf (key : Nat) : Nat := (key - scratchBase) / 2 ^ 22 * 4 + key / 128 % 4

/-- The cycle count of a stripe's die. -/
def State.stripeNow (s : State) (key : Nat) : Nat := (s.die ((key - scratchBase) / 2 ^ 22 / 16)).cyc

/-- Whether a key's stripe has no row left to serve in this cycle. -/
def State.stripeBusy (s : State) (key : Nat) : Bool :=
  isScratchKey key && decide (s.stripeNow key < Sparse.get s.stripes (stripeOf key))

/-- A stripe serves one 128-byte row a cycle (R85). -/
def State.useStripe (s : State) (key : Nat) : State :=
  if isScratchKey key then
    { s with stripes := Sparse.set s.stripes (stripeOf key) (max (s.stripeNow key) (Sparse.get s.stripes (stripeOf key)) + 1) }
  else s

/-! ### What stands in an access's way (R84, R85, R324, R331, R357) -/

/-- An access may go, must wait, or waits at a bank that backs off. -/
inductive Gate where
  | go
  | wait
  | bank
  deriving DecidableEq, Repr

/-- The gate of an access that reads and writes the bytes at some keys. -/
def State.gate (s : State) (reads writes : List Nat) : Gate :=
  let all := reads ++ writes
  if all.any s.linkDown || writes.any s.migHeld || all.any s.stripeBusy then .wait
  else if all.any s.backedOff then .bank else .go

/-- The waits that the accesses at some keys begin at banks in back-off, beside those already noted: the accesses are numbered from
`part` (R324). -/
def State.newBlocks (s : State) (old : List Block) (part since : Nat) (keys : List Nat) : List Block :=
  keys.zipIdx.filterMap fun x =>
    if s.backedOff x.1 && !(old.any fun b => b.part == part + x.2) then
      some { part := part + x.2, bank := bankOf x.1, since := since }
    else none

/-! ### The two paths to host memory (R330) -/

/-- The path an access takes to host memory: through a UIO window, or through CXL.cache, which every atomic takes (R330). -/
inductive LinkPath where
  | uio
  | cache
  deriving DecidableEq, Repr

/-- The path of an access at a key. The driver may program up to eight windows; the spec gives neither the offsets nor the form of their
registers (log entry 5). -/
def State.linkPath (s : State) (key : Nat) (atomic : Bool) : LinkPath :=
  if !atomic && ((Config.uioWindows s.host.regs).take 8).any fun w => decide (cxlBase + w.1 ≤ key) && decide (key < cxlBase + w.1 + w.2)
  then .uio else .cache

/-! ### Fault records (R350, R351) -/

/-- The record code of a fault (R350). -/
def FCode.num : FCode → Nat
  | .illegalInstr => 0x01 | .illegalOperand => 0x02 | .illegalStream => 0x03 | .illegalTarget => 0x04
  | .illegalSection => 0x05 | .privilege => 0x06 | .translation => 0x07 | .alignment => 0x08 | .gap => 0x09
  | .rngExhausted => 0x0A | .poison => 0x0B | .machineCheck => 0x0C | .unsupportedOnDie => 0x0D
  | .shadowRead => 0x0E | .unhandledEvent => 0x0F | .eventOverflow => 0x10 | .nestedTrap => 0x11
  | .breakpoint => 0x12 | .imageMalformed => 0x13 | .noBacking => 0x07

/-- The number of a stream in records and headers (R14). -/
def strmNum : Strm → Nat
  | .a => 0 | .v => 1 | .m => 2

/-- The 64 bytes of a fault record (R350). -/
def FRec.toBytes (r : FRec) (rseq : Nat) : List Byte :=
  leBytes 2 r.code ++ leBytes 2 r.sub ++ leBytes 1 r.strm ++ leBytes 1 r.die ++ leBytes 1 r.core ++ leBytes 1 0
    ++ leBytes 8 r.pc ++ leBytes 8 r.addr ++ leBytes 8 r.info ++ leBytes 8 r.lrec ++ leBytes 4 r.job
    ++ leBytes 4 rseq ++ leBytes 8 r.cyc ++ leBytes 8 0

/-- A bound on the length of a path: as many nodes of 256 bytes as HBM holds, so that no path of distinct nodes is cut (R390). -/
def treeDepth : Nat := hbmBytes / 256

/-- The fault domain of a node: itself when it gives FDOM, else its nearest ancestor that does, or the root (R350). -/
def State.faultDomain (s : State) : Nat → Nat → Nat
  | 0, node => node
  | fuel + 1, node =>
    let fset := s.natAt (node + 16) 2
    let flags := s.natAt (node + 14) 2
    let parent := s.natAt node 8
    if (fset.testBit 0 && flags.testBit 0) || parent == 0 then node else s.faultDomain fuel parent

/-- Signal an MSI-X vector: held until the IDE streams are established (R331). -/
def HostSt.signal (h : HostSt) (v : Nat) : HostSt :=
  if h.ide then { h with msix := h.msix ++ [v] } else { h with msixHeld := h.msixHeld ++ [v] }

def State.msix (s : State) (v : Nat) : State := { s with host := s.host.signal v }

/-- Whether a write of the device's own must wait: for older ones, a locked frame or the host link (R331, R357). -/
def State.holdsLate (s : State) (key : Nat) : Bool := !s.late.isEmpty || s.migHeld key || s.linkDown key

/-- Signal a vector after every write of the device's own made before (R338). -/
def State.msixAfter (s : State) (v : Nat) : State :=
  if s.late.isEmpty then s.msix v else { s with late := s.late ++ [.msix v] }

/-- A write of the device's own. -/
def State.devWrite (s : State) (key : Nat) (bs : List Byte) : State :=
  if s.holdsLate key then { s with late := s.late ++ [.bytes key bs] } else s.writeMem key bs

/-- A record at the tail of a fault domain's queue: written, counted as dropped when the queue is full, signalled (R351). -/
def State.writeRecord (s : State) (node : Nat) (r : FRec) : State :=
  let fq := s.natAt (node + 64) 8
  let rseq := Sparse.get s.rseqs node
  let s1 := { s with rseqs := Sparse.set s.rseqs node ((rseq + 1) % 2 ^ 32) }
  if fq = 0 then s1
  else
    let base := s.natAt fq 8
    let size := s.natAt (fq + 8) 4
    let head := s.natAt (fq + 12) 4
    let tail := s.natAt (fq + 16) 4
    let v := s.natAt (fq + 20) 2
    let vec := if v < 5 ∨ v > 63 then 5 else v
    let s2 :=
      if (tail + 2 ^ 32 - head) % 2 ^ 32 = size then
        s1.writeMem (fq + 24) (leBytes 4 (min (s.natAt (fq + 24) 4 + 1) (2 ^ 32 - 1)))
      else
        (s1.writeMem (base + 64 * (tail % size)) (r.toBytes rseq)).writeMem (fq + 16) (leBytes 4 (tail + 1))
    s2.msix vec

/-- Whether a record must wait: for older writes of the device, or for a locked frame of its queue (R357). -/
def State.recordHeld (s : State) (node : Nat) : Bool :=
  let fq := s.natAt (node + 64) 8
  s.migHeld fq || s.migHeld (s.natAt fq 8 + 64 * (s.natAt (fq + 16) 4 % s.natAt (fq + 8) 4))

/-- Post a record to a fault domain's queue (R351). -/
def State.postRecord (s : State) (node : Nat) (r : FRec) : State :=
  if !s.late.isEmpty || s.recordHeld node then { s with late := s.late ++ [.record node r] } else s.writeRecord node r

/-- The root domain a die reports to: its own ROOT, else that of the lowest live die with one (R350). -/
def State.rootOf (s : State) (d : Nat) : Nat :=
  if (s.die d).root ≠ 0 then (s.die d).root
  else ((s.dies.find? fun x => !x.fenced && x.root != 0).map (·.root)).getD 0

/-- Post a record no job causes to the root domain (R350). -/
def State.postRoot (s : State) (d : Nat) (r : FRec) : State :=
  if s.rootOf d = 0 then s else s.postRecord (s.rootOf d) { r with cyc := (s.die d).cyc }

/-- Post a record of the core's job to its fault domain (R350). -/
def State.postJob (s : State) (c : Core) (r : FRec) : State :=
  if c.node = 0 then s else s.postRecord (s.faultDomain treeDepth c.node) { r with cyc := (s.die c.did).cyc }

/-! ### Region nodes (R333, R334) -/

/-- A node and its ancestors up to the root. -/
def State.nodePath (s : State) : Nat → Nat → List Nat
  | 0, _ => []
  | fuel + 1, node => if node = 0 then [] else node :: s.nodePath fuel (s.natAt node 8)

/-- An inheritable field: the value of the nearest node of the path that gives it, 0 for none (R334). -/
def State.inherit (s : State) (off n : Nat) : List Nat → Nat
  | [] => 0
  | x :: r => let v := s.natAt (x + off) n; if v = 0 then s.inherit off n r else v

/-- The page table base of a launch's region (R333, R335). -/
def State.launchPtb (s : State) (l : Launch) : Nat := s.inherit 48 8 (s.nodePath treeDepth l.node)

/-! ### Counters (R79, R80) -/

/-- Split bytes at an address into runs that cross no 64 KiB boundary. -/
def splitAt64K (va : Nat) (bs : List Byte) : List (Nat × List Byte) :=
  let n := 65536 - va % 65536
  (va, bs.take n) :: (if bs.length ≤ n then [] else [(va + n, bs.drop n)])

/-- A write of a launch's that its translation refuses, on a CXL page after an integrity failure among others, writes nothing and is reported to
the fault domain of the launch (R331, R350). -/
def State.writeRefused (s : State) (lrec node : Nat) (f : FaultInfo) : State :=
  s.postRecord (s.faultDomain treeDepth node)
    { code := f.code.num, sub := f.sub, die := s.core.did, addr := f.addr, lrec := lrec, cyc := (s.die s.core.did).cyc }

/-- Whether a held write is one of a launch's. -/
def Late.ofLaunch (lrec : Nat) : Late → Bool
  | .va r _ _ _ _ => r == lrec
  | _ => false

/-- Write bytes at an address of a launch's address space, each page under its own translation: held behind the launch's earlier writes, while
the host link keeps the write back, or while a frame is locked (R331, R338, R357). -/
def State.writeVa (s : State) (l : Launch) (va : Nat) (bs : List Byte) : State :=
  let ptb := s.launchPtb l
  (splitAt64K va bs).foldl (fun s x =>
    let held : State := { s with late := s.late ++ [.va l.lrec l.node ptb x.1 x.2] }
    if s.late.any (Late.ofLaunch l.lrec) then held
    else match s.devKey ptb x.1 .wr with
    | .ok k => if s.holdsLate k then held else s.writeMem k x.2
    | .error (.trap f) => s.writeRefused l.lrec l.node f
    | .error _ => held) s

/-- The 32 counters of a launch, as its area receives them (R338). -/
def Launch.counterBytes (l : Launch) : List Byte := (List.range 32).flatMap fun i => leBytes 8 (Sparse.get l.counters i)

/-- Whether counter `n` of a launch is enabled for a stream of a job (R52, R80). -/
def countsFor (l : Launch) (x : StrmSt) (n : Nat) : Bool := l.cnten.testBit n || x.view.cntc.getLsbD n

/-- Set a `cnti` bit in every view of a job (R80). -/
def Core.setCnti (n : Nat) (c : Core) : Core :=
  let up := fun (v : JobView) => { v with cnti := v.cnti ||| (1#32 <<< n) }
  { c with jobv := up c.jobv, sa := { c.sa with view := up c.sa.view }
           sv := { c.sv with view := up c.sv.view }, sm := { c.sm with view := up c.sm.view } }

/-- Count one event of a stream of a job in its launch; at its threshold's crossing `cnti` is set, the counters are written and the host
is interrupted (R79, R80, R338). -/
def State.countEvent (s : State) (c : Core) (k : Strm) (n : Nat) : State :=
  match s.launches.find? fun l => l.lrec == c.lrec with
  | none => s
  | some l =>
    if !countsFor l (c.strm k) n then s
    else
      let v := min (Sparse.get l.counters n + 1) (2 ^ 48 - 1)
      let thr := l.thr.getD n 0
      let cross := decide (thr ≠ 0) && v == thr && !l.crossed.getLsbD n
      let l1 := { l with counters := Sparse.set l.counters n v
                         crossed := if cross then l.crossed ||| (1#32 <<< n) else l.crossed }
      let s1 := { s with launches := s.launches.map fun x => if x.lrec == l.lrec then l1 else x }
      if !cross then s1
      else
        let up := fun (x : Core) => if x.running && x.lrec == l.lrec then Core.setCnti n x else x
        let s2 := { s1 with core := up s1.core, parked := s1.parked.map up
                            saved := s1.saved.map fun (v : SavedGang) => { v with cores := v.cores.map up } }
        (s2.writeVa l l.cntb l1.counterBytes).msixAfter 2

/-- Count a landed result's events (R79). -/
def State.countEvents (s : State) (c : Core) (k : Strm) : List Nat → State
  | [] => s
  | n :: r => (s.countEvent c k n).countEvents c k r

/-! ### Tokens and batches (R40, R96, R97, R211) -/

/-- Closed batches that have ended leave from the oldest; the error of each is held with the number of batches closed after it
(R96, R211). -/
def dropEnded : List Batch → List (FaultInfo × Nat) → List Batch × List (FaultInfo × Nat)
  | [], e => ([], e)
  | b :: r, e => if b.left = 0 then dropEnded r (e ++ b.err.toList.map fun f => (f, r.length)) else (b :: r, e)

def Token.settle (t : Token) : Token :=
  let (c, e) := dropEnded t.closed t.errs
  { t with closed := c, errs := e }

/-- A batch that closes becomes the newest closed batch, after every batch whose error is held (R96, R97). -/
def Token.addClosed (t : Token) (b : Batch) : Token :=
  { t with closed := t.closed ++ [b], errs := t.errs.map fun e => (e.1, e.2 + 1) }

/-- One while the open batch holds an unperformed operation (R96). -/
def Token.openCount (t : Token) : Nat := match t.openB with | some b => if b.left = 0 then 0 else 1 | none => 0

/-- A token's count (R40): outstanding closed batches, plus one for an open batch that is not empty. -/
def Token.count (t : Token) : Nat :=
  t.closed.length + t.openCount

/-- The error a wait for at most `n` raises once the count lets it end: the oldest held one whose batch, were it outstanding, would keep
the wait waiting; or that of an open batch all of whose operations have ended, where that batch too would (R211). -/
def Token.raised (t : Token) (n : Nat) : Option FaultInfo :=
  match t.errs.find? fun e => decide (n ≤ e.2 + t.openCount) with
  | some e => some e.1
  | none => match t.openB with | some b => if b.left = 0 ∧ n ≤ t.closed.length then b.err else none | none => none

/-- The token once that error has been raised. -/
def Token.clearRaised (t : Token) (n : Nat) : Token :=
  match t.errs.find? fun e => decide (n ≤ e.2 + t.openCount) with
  | some e => { t with errs := t.errs.erase e }
  | none => { t with openB := t.openB.map fun b => if b.left = 0 ∧ n ≤ t.closed.length then { b with err := none } else b }

/-- Add an operation to a token: to the open batch, or as a batch of its own (R96). -/
def Token.join (t : Token) (opn : Bool) (id : Nat) : Token × Nat :=
  if opn then
    match t.openB with
    | some b => ({ t with openB := some { b with left := b.left + 1 } }, b.id)
    | none => ({ t with openB := some { id := id, left := 1, err := none } }, id)
  else (t.addClosed { id := id, left := 1, err := none }, id)

/-- Whether an operation may join: it adds to an open batch that counts already, or starts one where fewer than 255 count (R40). -/
def Token.room (t : Token) (opn : Bool) : Bool := (opn && t.openCount == 1) || decide (t.count < 255)

/-- Whether the open batch may close: no 256th closed batch comes to be outstanding (R40). -/
def Token.mayClose (t : Token) : Bool := t.openB.isNone || decide (t.closed.length < 255)

/-- Close the open batch (CBAT, R96). -/
def Token.closeOpen (t : Token) : Token :=
  match t.openB with
  | none => t
  | some b => ({ t with openB := none }.addClosed b).settle

/-- One operation of a batch is performed, with the error that ended it if any (R96, R211). -/
def Token.perform (t : Token) (batch : Nat) (err : Option FaultInfo) : Token :=
  let f := fun (b : Batch) =>
    if b.id = batch then { b with left := b.left - 1, err := if b.err.isSome then b.err else err } else b
  Token.settle { t with openB := t.openB.map f, closed := t.closed.map f }

def StrmSt.token (x : StrmSt) (n : Nat) : Token := Sparse.get x.tokens n
def StrmSt.setToken (x : StrmSt) (n : Nat) (t : Token) : StrmSt := { x with tokens := Sparse.set x.tokens n t }

/-- The issuing stream's word joins token `n`: its reference, for the operation to end. -/
def State.joinTok (s : State) (n : Nat) (opn : Bool) : TokRef × State :=
  let (id, s1) := s.fresh
  let (t, b) := Token.join (s1.strm.token n) opn id
  ({ lrec := s.core.lrec, job := s.core.job.toNat, strm := s.cur, tok := n, batch := b },
    s1.upd fun x => x.setToken n t)

/-- Join the token a word names, if any. -/
def State.joinIf (s : State) (tke : Bool) (n : Nat) (opn : Bool) : Option TokRef × State :=
  if tke then let (r, s1) := s.joinTok n opn; (some r, s1) else (none, s)

/-- End one operation of a batch wherever its job is (R96). -/
def State.endOp (s : State) (r : Option TokRef) (err : Option FaultInfo) : State :=
  match r with
  | none => s
  | some t => s.updJob t.lrec t.job fun c =>
      c.setStrm t.strm ((c.strm t.strm).setToken t.tok (((c.strm t.strm).token t.tok).perform t.batch err))

/-! ### Scalar queues and results (R37, R38, R180, R207) -/

/-- Fill the slot reserved for a result. -/
def fillQ (id : Nat) (v : Word) : List QSlot → List QSlot
  | [] => []
  | .res i :: r => if i = id then .val v 0 :: r else .res i :: fillQ id v r
  | x :: r => x :: fillQ id v r

/-- Deliver a late result to a core (R37, R207). -/
def Core.deliver (c : Core) (d : SDest) (v : Word) : Core :=
  match d with
  | .none => c
  | .scal k n => c.setStrm k { (c.strm k).setSreg n v with busy := (c.strm k).busy.erase n }
  | .queue q id => c.setQueue q (fillQ id v (c.queue q))

/-- Deliver a late result wherever the job is (R283). -/
def State.deliver (s : State) (d : DestRef) (v : Word) : State :=
  s.updJob d.lrec d.job fun c => c.deliver d.dst v

/-! ### Sync words (R88 to R90) -/

/-- A sync word after `n` further bytes (R89), as its 128 bits. -/
def syncUpdate (w n : Nat) : Nat :=
  let tgt := bitsOf w 31 0
  let cnt := bitsOf w 63 32
  let gen := bitsOf w 95 64
  let ovf := w.testBit 96
  if tgt = 0 then (if ovf then w else w + 2 ^ 96)
  else
    let total := cnt + n
    let k := total / tgt
    let past := decide (0 < k) && (decide (1 < k) || decide (total % tgt ≠ 0))
    tgt + (total % tgt) * 2 ^ 32 + ((gen + k) % 2 ^ 32) * 2 ^ 64
      + (if ovf || past then 2 ^ 96 else 0) + bitsOf w 127 97 * 2 ^ 97

/-- Raise the sync word at a key by `n` bytes in one step (R89). -/
def State.raiseSync (s : State) (key n : Nat) : State :=
  s.writeMem key (leBytes 16 (syncUpdate (s.natAt key 16) n))

/-- Set ERR in a sync word (R89). -/
def State.syncErr (s : State) (key : Nat) : State :=
  let w := s.natAt key 16
  if w.testBit 97 then s else s.writeMem key (leBytes 16 (w + 2 ^ 97))

/-! ### Events (R198 to R202) -/

/-- Hold an asynchronous event for a stream of a core: discarded when the stream has stopped (R200, R202). -/
def StrmSt.hold (x : StrmSt) (e : Event) : StrmSt :=
  if x.stopped then x else { x with held := x.held ++ [e] }

/-- Raise an event to a job's stream (R198). -/
def State.raiseEvent (s : State) (lrec job : Nat) (k : Strm) (e : Event) : State :=
  s.updJob lrec job fun c => c.setStrm k ((c.strm k).hold e)

/-! ### Sections and link values (R164, R188) -/

/-- The address of word `i` of a section (R164). -/
def wordAddr (hdr : Word) (i : Nat) : Word := hdr + 8 + BitVec.ofNat 64 (12 * i)

/-- The index of the pc within its section. -/
def StrmSt.wordIdx (x : StrmSt) : Nat := ((x.pc - x.secBase - 8).toNat) / 12

/-- A link value: word index, address and ENT (R188). -/
def linkOf (idx : Nat) (addr : Word) (ent : Bool) : Word :=
  (BitVec.ofNat 64 idx <<< 52) ||| (addr &&& 0x000FFFFFFFFFFFFC#64) ||| (if ent then 1 else 0)

/-- The link of the word at the pc, resuming without entry; of a header, entering its section (R198). -/
def StrmSt.linkHere (x : StrmSt) : Word :=
  if x.atHdr then linkOf 0 (x.pc + 8) true else linkOf x.wordIdx x.pc false

/-- The link of the word after the one at the pc (R190, R198). -/
def StrmSt.linkNext (x : StrmSt) (ent : Bool) : Word :=
  if x.wordIdx + 1 < x.secLen then linkOf (x.wordIdx + 1) (x.pc + 12) ent else linkOf 0 (x.pc + 12 + 8) true

/-! ### Use figures (R333, R334) -/

/-- A use figure with the changes to it that are still held back. -/
def State.useNow (s : State) (at_ : Nat) : Int :=
  s.late.foldl (fun n w => match w with | .use x d => if x = at_ then n + d else n | _ => n) (s.natAt at_ 8 : Int)

/-- Whether `add` more bytes pass no quota of the path; all ones is unlimited (R333, R334). -/
def State.quotaOk (s : State) (off use add : Nat) : List Nat → Bool
  | [] => true
  | x :: r =>
    let q := s.inherit off 8 (x :: r)
    (q == 0 || q == 2 ^ 64 - 1 || decide (s.useNow (x + use) + add ≤ q)) && s.quotaOk off use add r

/-- Change one use figure (R333). -/
def State.changeUse (s : State) (at_ : Nat) (d : Int) : State :=
  s.writeMem at_ (leBytes 8 ((s.natAt at_ 8 : Int) + d).toNat)

/-- Add to a use figure of every node of a path (R333, R334). -/
def State.addUse (s : State) (use : Nat) (d : Int) : List Nat → State
  | [] => s
  | x :: r =>
    (if s.holdsLate (x + use) then { s with late := s.late ++ [.use (x + use) d] } else s.changeUse (x + use) d).addUse use d r

/-! ### Writes held back -/

/-- Whether a held write may be made now. -/
def State.lateDue (s : State) : Late → Bool
  | .bytes key _ => !(s.migHeld key || s.linkDown key)
  | .use at_ _ => !s.migHeld at_
  | .record node _ => !s.recordHeld node
  | .msix _ => true
  | .va _ _ ptb va _ => match s.devKey ptb va .wr with
    | .ok k => !s.migHeld k
    | .error (.trap _) => true
    | .error _ => false

/-- Make a held write. -/
def State.makeLate (s : State) : Late → State
  | .bytes key bs => s.writeMem key bs
  | .use at_ d => s.changeUse at_ d
  | .record node r => s.writeRecord node r
  | .msix v => s.msix v
  | .va lrec node ptb va bs => match s.devKey ptb va .wr with
    | .ok k => s.writeMem k bs
    | .error (.trap f) => s.writeRefused lrec node f
    | .error _ => s

/-- The oldest held write is made once nothing stands in its way (R331, R357). -/
def State.flushLate (s : State) : State :=
  match s.late with
  | [] => s
  | w :: r => if s.lateDue w then { s with late := r }.makeLate w else s

/-- A gang that leaves its cluster gives back four cores (R334, R341). -/
def State.giveCores (s : State) (node : Nat) : State := s.addUse 112 (-4) (s.nodePath treeDepth node)

/-! ### Ending and stopping jobs (R13, R284, R343, R352) -/

/-- The Sluice closes each end a job still holds (R284). -/
def State.closeEnds (s : State) (lrec job : Nat) : State :=
  { s with dies := s.dies.map fun (d : Die) =>
      { d with ends := d.ends.map fun (e : ChEnd) =>
          if e.lrec == lrec && e.job == job && !e.selfClosed then
            { e with selfClosed := true, openTok := none, closeTok := none }
          else e } }

/-- Whether a core belongs to a gang. -/
def Core.inGang (c : Core) (lrec g : Nat) : Bool := c.running && c.lrec == lrec && c.gangNo == g

/-- The core without its job. -/
def Core.cleared (c : Core) : Core :=
  { (default : Core) with did := c.did, cid := c.cid, sa := StrmSt.idle, sv := StrmSt.idle, sm := StrmSt.idle }

/-- The running cores of a gang. -/
def State.gangCores (s : State) (lrec g : Nat) : List Core :=
  (s.core :: s.parked).filter fun c => c.inGang lrec g

/-- Take a gang off its cores. -/
def State.dropGang (s : State) (lrec g : Nat) : State :=
  { s with core := if s.core.inGang lrec g then s.core.cleared else s.core
           parked := s.parked.filter fun c => !c.inGang lrec g }

/-- Close the channel ends of every job of a list of cores (R284). -/
def State.closeAll (s : State) : List Core → State
  | [] => s
  | c :: r => (s.closeEnds c.lrec c.job.toNat).closeAll r

end Sys2Proof.Machine
end

