-- ==== Sys2Proof/Machine/Ops.lean ====
section
/-!
DEFINITION. Performing memory accesses, HBM row activation, stopping a gang, taking a precise fault (R350 to R352), fetch and
sections (R16 to R20, R163 to R169), taking an event and coming back from one (R188, R198 to R201), and ending a word.
-/

namespace Sys2Proof.Machine

/-! ### HBM rows (R322 to R324, R359) -/

/-- Cycles of a refresh window: 32 ms of the controller's count (R323). -/
def refreshWindow : Nat := 27200000

/-- Cycles of a back-off: 280 ns, rounded up (R323). -/
def backoffCycles : Nat := 238

/-- A bank's alert for row `r`: counters 17 and 18, the recorded refresh management, the notice (R323, R359). -/
def State.rowAlert (s : State) (key r : Nat) : State :=
  let b := bankOf key
  let d := dieOfDpa key
  let w := (s.die d).ctl / refreshWindow
  let k := Sparse.get s.banks b
  let fresh := decide (k.window ≠ w)
  let wa := (if fresh then 0 else k.winAlerts) + 1
  let noticed := !fresh && k.noticed
  let notice := s.host.note && decide (wa ≥ max 1 s.host.alim) && !noticed
  let k1 := { k with alerts := k.alerts + 1, cmds := k.cmds + 1, pend := k.pend ++ [r], window := w
                     winAlerts := wa, noticed := noticed || notice }
  let s1 := { s with banks := Sparse.set s.banks b k1 }
  if notice then s1.postRoot d { code := 0x40, die := d, addr := key, info := k1.alerts } else s1

/-- An access is served: its scratchpad stripe gives it a row of a cycle, or its row of HBM, when not open, is opened and counted, which
may raise an alert (R85, R323). -/
def State.touchRow (s : State) (key : Nat) : State :=
  if isScratchKey key then s.useStripe key
  else if !isHbmKey key then s
  else
    let b := bankOf key
    let r := rowOf key
    let k := Sparse.get s.banks b
    if k.openRow = some r then s
    else
      let n := Sparse.get k.counts r + 1
      let s1 := { s with banks := Sparse.set s.banks b { k with openRow := some r, counts := Sparse.set k.counts r n } }
      if n ≥ (s.die (dieOfDpa key)).mth then s1.rowAlert key r else s1

/-- The accesses at a list of keys are served. -/
def State.touchRows (s : State) : List Nat → State
  | [] => s
  | k :: r => (s.touchRow k).touchRows r

/-- Remember a leaf in the core's 64 and the cluster's 1,024 entries, oldest replaced; a walk's reads open their rows (R323, R354, log entry 9). -/
def State.fillTlb (s : State) (va : Nat) : State :=
  let ptb := s.ptb
  if inWindow va then s else
  match s.leafOf ptb va with
  | .error _ => s
  | .ok l =>
    let t : TlbEnt := { ptb := ptb, page := va / (if l.big then 0x200000 else 0x10000), big := l.big, leaf := l.leaf }
    let add := fun (n : Nat) (x : List TlbEnt) => if x.contains t then x else (x ++ [t]).drop (x.length + 1 - n)
    let miss := !s.core.tlb.contains t
    let cl := s.core.cid / 4
    let walked := miss && !(Sparse.get (s.die s.core.did).tlbs cl).contains t
    let s0 := if walked then s.touchRows (s.walkKeys ptb va) else s
    let s1 := s0.updDie s.core.did fun d => { d with tlbs := Sparse.set d.tlbs cl (add 1024 (Sparse.get d.tlbs cl)) }
    s1.updC fun c =>
      let c1 := if miss then c.count 8 1 else c
      let c2 := if walked then c1.count 9 1 else c1
      { c2 with tlb := add 64 c2.tlb }

/-- Remember the leaf of each page some addresses lie in. -/
def State.fillTlbs (s : State) (vas : List Nat) : State :=
  ((vas.map (· / 65536)).dedup).foldl (fun s p => s.fillTlb (p * 65536)) s

/-- The key of the first byte of a range in each interleave of 1 KiB it meets (R322). -/
def kibKeys (pages : List (Nat × Nat)) (va n : Nat) : List Nat :=
  (List.range ((va + n - 1) / 1024 + 1 - va / 1024)).map fun i => keyIn pages (max va ((va / 1024 + i) * 1024))

/-! ### Performing accesses (R45, R100, R213 to R217, R221, R274) -/

/-- The 64 lanes of a 128-byte row merged into row `i` of a register image where the predicate holds (R31, R36). -/
def setRow (v : VReg) (i : Nat) (pred : BitVec 1024) (zero : Bool) (bs : List Byte) : VReg :=
  Sparse.ofFn 1024 fun n =>
    if n / 64 = i then
      if pbit pred n then BitVec.ofNat 16 (leNat ((bs.drop (2 * (n % 64))).take 2)) else if zero then 0 else Sparse.get v n
    else Sparse.get v n

/-- Write the predicated lanes of a row (R215). -/
def State.writeRow (s : State) (key i : Nat) (v : VReg) (pred : BitVec 1024) : State :=
  s.writeRuns (joinRuns (((List.range 64).filter fun j => pbit pred (64 * i + j)).map fun j =>
    (key + 2 * j, leBytes 2 (Sparse.get v (64 * i + j)).toNat)))

/-- The new value of an atomic (R217). -/
def atomicNew (fn w old b c : Nat) : Nat :=
  let m := 2 ^ (8 * w)
  let sg := fun x => sextNat (8 * w) x
  match fn with
  | 0 => (old + b) % m
  | 1 => old &&& b
  | 2 => old ||| b
  | 3 => old ^^^ b
  | 4 => if sg old ≤ sg b then old else b
  | 5 => if sg old ≥ sg b then old else b
  | 6 => min old b
  | 7 => max old b
  | 8 => b
  | _ => if old = c then b else old

/-- Poison, a failed host link, and an unmapped page, met after acceptance (R211, R331). -/
def poisonAt (va : Nat) : FaultInfo := { code := .poison, addr := va, info := va, eva := true }
def refusedAt (va : Nat) : FaultInfo := { code := .translation, sub := 2, addr := va, info := va, eva := true }
def unmappedAt (va : Nat) : FaultInfo := { code := .translation, sub := 16, addr := va, info := va, eva := true }

def State.dropOp (s : State) (id : Nat) : State :=
  s.updC fun c => { c with ops := c.ops.filter fun o => o.id != id }

/-- An access ends: it leaves the list and its batch (R96). -/
def State.endMop (s : State) (o : MOp) (err : Option FaultInfo) : State := (s.dropOp o.id).endOp o.tok err

/-- A part of an access has been performed: what is left of it stands in the list, or it has ended. -/
def State.goOn (s : State) (o : MOp) (ended : Bool) (left : MBody) : State :=
  if ended then s.endMop o none
  else s.updC fun c => { c with ops := c.ops.map fun x => if x.id = o.id then { x with body := left } else x }

/-- A scalar value extended to 64 bits (R213). -/
def extendLoad (v n : Nat) (signed : Bool) : Word :=
  if signed then BitVec.ofInt 64 (sextNat (8 * n) v) else BitVec.ofNat 64 v

/-- Deliver a gathered element to a register or pair (R216). -/
def gatherElem (v hi : VReg) (lane n val : Nat) : VReg × VReg :=
  (Sparse.set v lane (BitVec.ofNat 16 val), if n = 4 then Sparse.set hi lane (BitVec.ofNat 16 (val / 65536)) else hi)

/-- A tile fills the slot reserved for it (R30). -/
def fillSlot (id : Nat) (t : PTile) (l : List PSlot) : List PSlot := l.map fun x => if x = .res id then .tile t else x

def Core.fillPort (c : Core) (p id : Nat) (t : PTile) : Core :=
  c.setPort p { c.port p with slots := fillSlot id t (c.port p).slots }

/-- A part of an access, performed in one step: its number, the keys it only reads, the keys it writes. -/
structure Part where
  ix     : Nat
  reads  : List Nat
  writes : List Nat
  deriving DecidableEq, Repr, Inhabited

/-- The bytes of an image that lie in a 128-byte row of memory: their first address and their number. -/
def rowSpan (va n row : Nat) : Nat × Nat := (max va (128 * row), min (va + n) (128 * row + 128) - max va (128 * row))

/-- The 128-byte rows of memory an image lies in. -/
def imageRows (va n : Nat) : List Nat := (List.range ((va + n - 1) / 128 + 1 - va / 128)).map fun i => va / 128 + i

/-- The parts of an access not yet performed: rows of a tile access, elements of a gather or scatter by their lanes, rows of a tile image, or
the whole access (R45, R87, R216, R274). -/
def MBody.parts : MBody → List Part
  | .desc pa => [⟨0, [pa], []⟩]
  | .load pa _ _ _ => [⟨0, [pa], []⟩]
  | .store pa _ => [⟨0, [], [pa]⟩]
  | .atomic _ pa _ _ _ _ => [⟨0, [], [pa]⟩]
  | .swadd pa _ => [⟨0, [], [pa]⟩]
  | .ldv t _ _ => t.map fun p => ⟨p.1, [p.2], []⟩
  | .ldvp t _ _ _ _ => t.map fun p => ⟨p.1, [p.2], []⟩
  | .stv t _ _ => t.map fun p => ⟨p.1, [], [p.2]⟩
  | .ldg e _ _ => e.map fun x => ⟨x.1, [x.2], []⟩
  | .stg e _ => e.map fun x => ⟨x.1, [], [x.2.1]⟩
  | .astr p va bs left => left.map fun r => ⟨r, [], [keyIn p (rowSpan va bs.length r).1]⟩
  | .aldr p va _ canon left _ => left.map fun r => ⟨r, [keyIn p (rowSpan va (imageBytes canon) r).1], []⟩

/-- Cycles after its first part before a part may perform: the memory port moves 256 bytes a cycle (R7, R212). -/
def MOp.pace (o : MOp) (ix : Nat) : Nat :=
  match o.body with
  | .ldv _ _ _ | .ldvp _ _ _ _ _ | .stv _ _ _ => ix / 2
  | .astr _ va _ _ => (ix - va / 128) / 2
  | .aldr _ va _ _ _ _ => (ix - va / 128) / 2
  | .ldg _ n _ => ix / 64 * n / 4
  | .stg _ n => ix / 64 * n / 4
  | _ => 0

/-- The virtual address of a row or lane of an access (R211). -/
def MOp.vaOf (o : MOp) (n : Nat) : Nat := ((o.vas.find? fun p => p.1 == n).map (·.2)).getD o.va

/-- The descriptor a word waits for has been read (R210). -/
def StrmSt.readDesc (x : StrmSt) (id : Nat) (d : Except FaultInfo (List Byte)) : StrmSt :=
  { x with desc := x.desc.map fun r => if r.id = id then { r with data := some d } else r }

/-- The first address of a range in a 64-byte line that holds poison. -/
def State.firstPoison (s : State) (pages : List (Nat × Nat)) (va n : Nat) : Option Nat :=
  if s.poisonIn pages va n then
    ((List.range ((va + n - 1) / 64 + 1 - va / 64)).map fun i => max va ((va / 64 + i) * 64)).find? fun a => s.poisonIn pages a 1
  else none

/-- The tile of an image from the rows of memory read of it, in whatever order they were read; the event of a malformed one (R74, R274). -/
def rowsTile (canon : Bool) (va : Nat) (rows : List (Nat × List Byte)) : Tile × List Nat :=
  let bs := (imageRows va (imageBytes canon)).flatMap fun r => ((rows.find? fun x => x.1 == r).map (·.2)).getD []
  tileOfImage canon fun off n => leNat ((bs.drop off).take n)

/-- Perform one part of an access of the core under view: poison ends the operation at the part that meets it (R211). -/
def State.performPart (s : State) (o : MOp) (ix : Nat) : State :=
  match o.body with
  | .desc pa =>
    let d := if s.poisonedAt pa 64 then .error { code := .poison, addr := o.va } else .ok (s.bytesAt pa 64)
    ((s.touchRow pa).updK o.strm fun x => x.readDesc o.id d).endMop o none
  | .load pa n signed dst =>
    ((s.touchRow pa).updC fun c => c.deliver dst (extendLoad (s.natAt pa n) n signed)).endMop o none
  | .store pa bs => ((s.touchRow pa).writeMem pa bs).endMop o none
  | .atomic fn pa n b c dst =>
    let old := s.natAt pa n
    let new := atomicNew fn n old b c
    let s1 := s.touchRow pa
    let s2 := if fn = 9 ∧ old ≠ c then s1 else s1.writeMem pa (leBytes n new)
    (s2.updC fun k => k.deliver dst (BitVec.ofNat 64 old)).endMop o none
  | .swadd pa n => ((s.touchRow pa).raiseSync pa n).endMop o none
  | .ldv todo regs pred =>
    match todo.find? fun p => p.1 == ix with
    | none => s
    | some (_, key) =>
      if s.poisonedAt key 128 then s.endMop o (some (poisonAt (o.vaOf ix)))
      else
        let r := regs.getD (ix / 16) 0
        let left := todo.filter fun p => p.1 != ix
        ((s.touchRow key).updC fun c => c.setVreg r (setRow (c.vreg r) (ix % 16) pred false (s.bytesAt key 128))).goOn o
          left.isEmpty (.ldv left regs pred)
  | .ldvp todo port slots pred acc =>
    match todo.find? fun p => p.1 == ix with
    | none => s
    | some (_, key) =>
      if s.poisonedAt key 128 then s.endMop o (some (poisonAt (o.vaOf ix)))
      else
        let m := ix / 16
        let acc1 := acc.set m (setRow (acc.getD m []) (ix % 16) pred true (s.bytesAt key 128))
        let left := todo.filter fun p => p.1 != ix
        let s1 := s.touchRow key
        let s2 := if (left.any fun p => p.1 / 16 == m) then s1
          else s1.updC fun c => c.fillPort port (slots.getD m 0) { data := acc1.getD m [], mark := none }
        s2.goOn o left.isEmpty (.ldvp left port slots pred acc1)
  | .stv todo data pred =>
    match todo.find? fun p => p.1 == ix with
    | none => s
    | some (_, key) =>
      let left := todo.filter fun p => p.1 != ix
      ((s.touchRow key).writeRow key (ix % 16) (data.getD (ix / 16) []) pred).goOn o left.isEmpty (.stv left data pred)
  | .ldg elems n regs =>
    match elems.find? fun e => e.1 == ix with
    | none => s
    | some (_, key) =>
      if s.poisonedAt key n then s.endMop o (some (poisonAt (o.vaOf ix)))
      else
        let r := regs.getD 0 0
        let h := regs.getD 1 0
        let left := elems.filter fun e => e.1 != ix
        let (v1, v2) := gatherElem (s.core.vreg r) (s.core.vreg h) ix n (s.natAt key n)
        let s1 := (s.touchRow key).updC fun c => c.setVreg r v1
        let s2 := if n = 4 then s1.updC fun c => c.setVreg h v2 else s1
        s2.goOn o left.isEmpty (.ldg left n regs)
  | .stg elems n =>
    match elems.find? fun e => e.1 == ix with
    | none => s
    | some (_, key, val) =>
      let left := elems.filter fun e => e.1 != ix
      ((s.touchRow key).writeMem key (leBytes n val)).goOn o left.isEmpty (.stg left n)
  | .astr pages va bs left =>
    let (a, n) := rowSpan va bs.length ix
    let rest := left.filter (· != ix)
    ((s.touchRow (keyIn pages a)).writeIn pages a ((bs.drop (a - va)).take n)).goOn o rest.isEmpty (.astr pages va bs rest)
  | .aldr pages va c canon left got =>
    let (a, n) := rowSpan va (imageBytes canon) ix
    match s.firstPoison pages a n with
    | some x => (s.updC fun k => k.setTile c Tile.malformed).endMop o (some (poisonAt x))
    | none =>
      let got1 := got ++ [(ix, s.bytesIn pages a n)]
      let rest := left.filter (· != ix)
      let s1 := s.touchRow (keyIn pages a)
      if rest.isEmpty then
        let (t, ev) := rowsTile canon va got1
        ((s1.updC fun k => k.setTile c t).countEvents s1.core .m ev).endMop o none
      else s1.goOn o false (.aldr pages va c canon rest got1)

/-- Whether an access has one part only and no batch: a scalar access, which a failed link faults (R331). -/
def MBody.isScalar : MBody → Bool
  | .load _ _ _ _ => true
  | .store _ _ => true
  | .atomic _ _ _ _ _ _ => true
  | .swadd _ _ => true
  | _ => false

/-- A part of an access meets a page the failed host link refuses: the operation ends there (R211, R331; log entry 33). -/
def State.refusePart (s : State) (o : MOp) (ix : Nat) : State :=
  match o.body with
  | .desc _ => (s.updK o.strm fun x => x.readDesc o.id (.error { code := .translation, sub := 2, addr := o.va })).endMop o none
  | .aldr _ va c canon _ _ =>
    (s.updC fun k => k.setTile c Tile.malformed).endMop o (some (refusedAt (rowSpan va (imageBytes canon) ix).1))
  | .astr _ va bs _ => s.endMop o (some (refusedAt (rowSpan va bs.length ix).1))
  | _ => s.endMop o (some (refusedAt (o.vaOf ix)))

/-- Whether no older access of the same stream and class stands before an access (R100). -/
def oldestOfClass (ops : List MOp) (o : MOp) : Bool :=
  !(ops.takeWhile fun x => x.id != o.id).any fun x => x.strm == o.strm && x.cls == o.cls

/-! ### Landing (R43, R44, R79) -/

/-- Merge the written bits of each lane (R44). -/
def mergeReg (old mask val : VReg) : VReg :=
  Sparse.ofFn 1024 fun n =>
    let m := Sparse.get mask n
    (Sparse.get old n &&& ~~~m) ||| (Sparse.get val n &&& m)

def applyParts (c : Core) : List RegPart → Core
  | [] => c
  | p :: r => applyParts (c.setVreg p.reg (mergeReg (c.vreg p.reg) p.mask p.val)) r

/-- The effect of one fixed-latency write at its landing (R44, R261). `n` selects the free split of each lane. -/
def PEff.apply (n : Nat) (e : PEff) (c : Core) : Core :=
  match e with
  | .regs parts => applyParts c parts
  | .port p slot tile => c.fillPort p slot { data := tile, mark := none }
  | .mask m pred val => c.setMask m ((c.mask m &&& ~~~pred) ||| (val &&& pred))
  | .contrib t lanes anc =>
    let x := c.tile t
    let y := match anc with | some a => if a = x.anchor then x else x.reanchor a | none => x
    c.setTile t (y.map fun i l => match lanes.find? fun p => p.1 == i with | some p => Lane.add (n + i) l p.2 | none => l)
  | .canon t => c.setTile t ((c.tile t).map fun _ l => l.canon)
  | .clear t pred => c.setTile t ((c.tile t).map fun i l => if pbit pred i then default else l)
  | .copy t pred lanes anc =>
    let x := c.tile t
    c.setTile t { lanes := Sparse.ofFn 1024 fun i => if pbit pred i then Sparse.get lanes i else x.lane i
                  anchor := anc.getD x.anchor }
  | .anchor t a => c.setTile t ((c.tile t).reanchor a)

/-- The order in which writes due in one cycle land: A, then V, then M, earlier words first (R44). -/
def landsBefore (a b : Pending) : Bool :=
  decide (a.due < b.due) || (a.due == b.due && (decide ((strmNum a.strm) < (strmNum b.strm)) ||
    (a.strm == b.strm && decide (a.ord ≤ b.ord))))

/-- Insert in landing order. -/
def insertPending (p : Pending) : List Pending → List Pending
  | [] => [p]
  | q :: r => if landsBefore q p then q :: insertPending p r else p :: q :: r

/-- Land a list of writes. -/
def State.landAll (s : State) : List Pending → State
  | [] => s
  | p :: r =>
    let s1 := { s with core := p.eff.apply s.freeN s.core, freeN := s.freeN + 1024 }
    (s1.countEvents s.core p.strm p.events).landAll r

/-- Land every write due by a cycle. -/
def State.landDue (s : State) (t : Nat) : State :=
  let due := s.core.pending.filter fun p => decide (p.due ≤ t)
  (s.updC fun c => { c with pending := c.pending.filter fun p => !decide (p.due ≤ t) }).landAll due

/-- Whether a write is bound for a port. -/
def PEff.isPort : PEff → Bool
  | .port _ _ _ => true
  | _ => false

/-- At a stop, results bound for a port enter their slots (R46). -/
def State.landPorts (s : State) : State :=
  let due := s.core.pending.filter fun p => p.eff.isPort
  (s.updC fun c => { c with pending := c.pending.filter fun p => !p.eff.isPort }).landAll due

/-! ### Stopping a gang (R343, R352) -/

/-- Bring one of the running cores under view. -/
def State.focus (s : State) (c : Core) : State :=
  if s.core.running ∧ s.core.did = c.did ∧ s.core.cid = c.cid then s
  else
    let rest := s.parked.filter fun x => !(x.did == c.did && x.cid == c.cid)
    match s.parked.find? fun x => x.did == c.did && x.cid == c.cid with
    | none => s
    | some x => { s with core := x, parked := rest ++ (if s.core.running then [s.core] else []) }

/-- At a stop the core under view lands what is due before its streams would next have issued, and its port-bound results (R46). -/
def State.settleCore (s : State) : State := (s.landDue s.core.turnAt).landPorts

def State.settleCores (s : State) : List Core → State
  | [] => s
  | c :: r => ((s.focus c).settleCore).settleCores r

/-- Settle the cores of a gang; the core under view stays under view. -/
def State.settleGang (s : State) (cs : List Core) : State :=
  if s.core.running then (s.settleCores cs).focus s.core else s.settleCores cs

/-- Mark a core halted for a debugger: dbg.HLT reads 1 (R53, R203, R352). -/
def Core.markHalted (c : Core) : Core :=
  let up := fun (v : JobView) => { v with dbg := v.dbg ||| 4#32 }
  { c with halted := true, jobv := up c.jobv, sa := { c.sa with view := up c.sa.view }
           sv := { c.sv with view := up c.sv.view }, sm := { c.sm with view := up c.sm.view } }

/-- How a gang stops when two causes meet. -/
def StopKind.join : StopKind → StopKind → StopKind
  | .fail, _ => .fail
  | _, .fail => .fail
  | .debug, _ => .debug
  | _, .debug => .debug
  | .save, .save => .save

/-- Every stream of a gang stops at its boundary: it issues no further word, what it has issued is still performed, and PREEMPT_STOP then
takes the gang off its cores (R343, R352). -/
def State.haltGang (s : State) (lrec g : Nat) (k : StopKind) : State :=
  let up := fun (c : Core) => if c.inGang lrec g then { c with stopReq := true, stopAs := c.stopAs.join k } else c
  { s with core := up s.core, parked := s.parked.map up }

/-- A generator whose next tile is to be read from its first row (R223). -/
def Pag.rewind (g : Pag) : Pag := { g with row := 0, start := none, got := [] }

/-- Take a gang that has stopped off its cores, to be saved; its transfers that are on the bridge arrive by themselves (R152, R343). -/
def State.stopGang (s : State) (lrec g : Nat) (debug : Bool) : State :=
  let cs := s.gangCores lrec g
  if cs.isEmpty then s
  else
    let s1 := s.settleGang cs
    let now := s1.gangCores lrec g
    let keep := now.map fun (c : Core) =>
      let k := { c with rake := (c.rake.filter fun x => !x.todo.isEmpty).map fun x => { x with work := none }
                        ports := c.ports.map fun p => (p.1, { p.2 with gen := p.2.gen.map Pag.rewind }) }
      if debug then k.markHalted else k
    let v : SavedGang := { lrec := lrec, gang := g, die := (now.head?.map (·.did)).getD 0, cores := keep
                           stopCyc := (s1.die ((now.head?.map (·.did)).getD 0)).cyc, debug := debug, valid := false, resume := false
                           snap := [], freeAt := 0 }
    let s2 := s1.dropGang lrec g
    { s2 with saved := s2.saved ++ [v], orphans := s2.orphans ++ now.flatMap fun (c : Core) => c.rake.filter fun x => x.todo.isEmpty }

/-- Take a gang off its cores without saving it: its jobs end, their copies run on (R95, R284, R340, R352). -/
def State.endGang (s : State) (lrec g : Nat) : State :=
  let cs := s.gangCores lrec g
  let s2 := ({ s with orphans := s.orphans ++ cs.flatMap fun (c : Core) => c.rake }.dropGang lrec g).closeAll cs
  match cs with
  | [] => s2
  | c :: _ => s2.giveCores c.node

/-- A launch marked as having met a precise fault: gangs then resident run on, none other is placed (R352). -/
def State.markFaulted (s : State) (lrec : Nat) : State :=
  let here := ((s.core :: s.parked).filter fun c => c.running && c.lrec == lrec).map (·.gangNo)
  { s with launches := s.launches.map fun (l : Launch) =>
      if l.lrec == lrec && !l.faulted then { l with faulted := true, runOn := here } else l }

/-- A precise fault stops the gang of the core under view: saved for a debugger if its region allows debugging, else ended (R352). -/
def State.faultGang (s : State) : State :=
  (s.markFaulted s.core.lrec).haltGang s.core.lrec s.core.gangNo (if s.core.dbgOk then .debug else .fail)

/-- Take a precise fault of the issuing stream: the record goes to the job's fault domain, `eva` is set where the rules place
a value there, and the gang stops (R174, R350, R352). An error a token held is held no more (R211). -/
def State.raise (s : State) (f : FaultInfo) : State :=
  let c := s.core
  let s0 := match f.tok with
    | some (t, n) => s.upd fun x => x.setToken t ((x.token t).clearRaised n)
    | none => s
  let s1 := if f.eva then s0.upd fun x => { x with eva := BitVec.ofNat 64 f.info } else s0
  (s1.postJob c
    { code := f.code.num, sub := f.sub, strm := strmNum s.cur, die := c.did, core := c.cid, pc := (f.at_.getD s.strm.pc).toNat
      addr := f.addr, info := f.info, lrec := c.lrec, job := c.job.toNat }).faultGang

/-- The outcome of a precise fault. Only a frame beyond the stacks, which the spec does not give, stops the model. -/
def takeFault (f : FaultInfo) (s : State) : Out :=
  if f.code = .noBacking then .fault .noBacking else .next (s.raise f)

/-- A read of a word at issue waits at a bank in back-off, from this cycle on (R324). -/
def State.stall (s : State) (keys : List Nat) : State :=
  let new := s.newBlocks s.core.stalls (64 * strmNum s.cur) s.now keys
  if new.isEmpty then s else s.updC fun c => { c with stalls := c.stalls ++ new }

/-- The outcome of an attempt to issue: the new state, the state unchanged while the word waits, or the fault taken. -/
def outcome (s : State) (r : Res State) : Out :=
  match r with
  | .ok s' => .next s'
  | .error .wait => .next s
  | .error (.bank keys) => .next (s.stall keys)
  | .error (.trap f) => takeFault f s

/-- The outcome of an attempt of one stream's step. -/
def outcomeOf (s : State) (k : Strm) (r : Res State) : Out := outcome { s with cur := k } r

/-! ### Fetch and sections (R16 to R20, R163 to R169) -/

/-- A number a stream fetches from its job's memory as it stood when the job started or was last restored, through the page tables as
they then stood, whatever a TLB has cached since, and the `ptb` the stream sees (R52, R169; log entry 11). -/
def State.fetchNat (s : State) (x : StrmSt) (va n : Nat) : Res Nat :=
  let t := { s with mem := s.core.code }
  let ptb := x.view.ptb.toNat
  match rangeCheck va n with
  | .error h => .error h
  | .ok _ =>
    match t.xlateWalk ptb va .rd with
    | .error h => .error h
    | .ok k =>
      if s.poisonedAt k n then trapR { code := .poison, addr := va }
      else if va % 65536 + n ≤ 65536 then .ok (t.natAt k n)
      else
        let n1 := 65536 - va % 65536
        match t.xlateWalk ptb (va + n1) .rd with
        | .error h => .error h
        | .ok k2 => .ok (t.natAt k n1 + 256 ^ n1 * t.natAt k2 (n - n1))

/-- The word at a stream's pc (R166, R170); row 1 of R174 when it is none. -/
def State.fetchInstr (s : State) (k : Strm) : Res Instr :=
  let pc := (s.core.strm k).pc
  if pc.toNat % 4 ≠ 0 then trapR (flt .illegalTarget)
  else
    match s.fetchNat (s.core.strm k) pc.toNat 12 with
    | .error h => .error h
    | .ok w =>
      match decodeWord w with
      | some i => .ok i
      | none => trapR (flt .illegalInstr)

/-- The header a stream reads at an address. -/
def State.fetchHdr (s : State) (x : StrmSt) (a : Word) : Res SecHdr :=
  match s.fetchNat x a.toNat 8 with
  | .error h => .error h
  | .ok w => .ok (decodeHdr w)

/-- Steps 3 and 4 of R165. -/
def hdrFields (h : SecHdr) (k : Strm) : Bool :=
  h.sid == strmNum k && h.res == 0 && (h.v1 || h.d1 == 0) && (h.v2 || h.d2 == 0)

/-- Whether an address is a word of the current section (R164). -/
def StrmSt.inSection (x : StrmSt) (t : Word) : Bool :=
  let d := (t - x.secBase - 8).toNat
  d % 12 == 0 && decide (d / 12 < x.secLen)

/-- Control leaves the current section, which then waits to retire (R19). A handler's sections neither leave nor retire (R200). -/
def StrmSt.leave (x : StrmSt) : StrmSt :=
  if x.entered && !x.handler then { x with entered := false, left := x.left ++ [⟨x.secDue⟩], secDue := 0 } else x

/-- Control reaches a header, to enter the section at word `i`. -/
def StrmSt.toHdr (x : StrmSt) (h : Word) (i : Nat) : StrmSt :=
  { x.leave with pc := h, atHdr := true, entIdx := i }

/-- Control passes to the next word or the next header (R166). -/
def StrmSt.advance (x : StrmSt) : StrmSt :=
  if x.wordIdx + 1 < x.secLen then { x with pc := x.pc + 12 } else x.toHdr (x.pc + 12) 0

/-- The check of a control transfer and the stream after it (R166, R167). A translation fault of the header read at `t - 8` is the
transferring word's, at its pc (log entry 12). -/
def State.target (s : State) (k : Strm) (x : StrmSt) (t : Word) : Res StrmSt :=
  if t.toNat % 4 ≠ 0 then trapR (flt .illegalTarget)
  else if x.inSection t then
    .ok (if t = x.secBase + 8 then x.toHdr x.secBase 0 else { x with pc := t })
  else
    match s.fetchHdr x (t - 8) with
    | .error h => .error h
    | .ok h =>
      if h.hk ≠ 0xA ∨ h.len = 0 then trapR (flt .illegalTarget)
      else if !hdrFields h k then trapR (flt .illegalSection)
      else .ok (x.toHdr (t - 8) 0)

/-- Coming back through a link value (R188). -/
def State.comeBack (s : State) (k : Strm) (x : StrmSt) (l : Word) : Res StrmSt :=
  let w := l &&& 0x000FFFFFFFFFFFFC#64
  let i := (l >>> 52).toNat
  let h := w - 8 - BitVec.ofNat 64 (12 * i)
  if l.getLsbD 1 then trapR (flt .illegalTarget)
  else
    match s.fetchHdr x h with
    | .error e => .error e
    | .ok d =>
      if d.hk ≠ 0xA ∨ d.len = 0 ∨ hdrFields d k = false ∨ d.len ≤ i then trapR (flt .illegalTarget)
      else if l.getLsbD 0 then .ok (x.toHdr h i)
      else .ok { x with pc := w, atHdr := false, secBase := h, secLen := d.len, entered := true }

/-- The begin conditions of a header at an ordinal (R18). -/
def beginOk (c : Core) (k : Strm) (h : SecHdr) (n : Nat) : Bool :=
  let (o1, o2) := match k with | .a => (c.sv, c.sm) | .v => (c.sa, c.sm) | .m => (c.sa, c.sv)
  let ok := fun (v : Bool) (d : Nat) (x : StrmSt) => !v || decide ((x.ret : Int) > (n : Int) + sextNat 12 d)
  ok h.v1 h.d1 o1 && ok h.v2 h.d2 o2

/-- Stop the issuing stream: held events are discarded (R13, R197, R202). -/
def StrmSt.stop (x : StrmSt) : StrmSt :=
  { ({ x with handler := false }).leave with stopped := true, held := [], handler := false, atRdz := false, swwait := none, sent := none, desc := none }

/-! ### Events (R198, R200, R201) -/

/-- Enter the handler for an event, coming back later through `back` (R198). -/
def State.enterHandler (s : State) (k : Strm) (e : Event) (back : Word) : Res State :=
  let x := s.core.strm k
  if x.evh = 0 then trapR (flt .unhandledEvent)
  else
    let y := { x with evc := BitVec.ofNat 32 (e.cause + 256 * e.sub), eva := e.info, epc := back, handler := true
                      swwait := none, sent := none, desc := none }
    match s.target k y x.evh with
    | .error h => .error h
    | .ok z => .ok { s with core := s.core.setStrm k z }

/-! ### Ending a word -/

/-- A stream whose word has issued: under its own view of dbg.STEP it halts (R53). -/
def StrmSt.issued (x : StrmSt) (next : Nat) : StrmSt :=
  { x with nextIssue := next, stepped := x.view.dbg.getLsbD 1, sent := none, desc := none }

/-- A word that does not transfer control ends: the pc advances, and the next word issues `cost` cycles later (R182). -/
def State.retire (s : State) (cost : Nat) : State := s.upd fun x => x.advance.issued (s.now + cost)

/-- A word that transfers control ends with the stream it left (R182). -/
def State.transfer (s : State) (x : StrmSt) (cost : Nat) : State := s.setStrm (x.issued (s.now + cost))

end Sys2Proof.Machine
end

