-- ==== Sys2Proof/Machine/Operands.lean ====
section
/-!
DEFINITION. The operand forms: the static checks of R174 rows 2 to 6, renaming in the rotating windows (R33), reading and
writing scalars, queues, vector registers, ports and masks, elements within registers (R31, R239), the await field.
-/

namespace Sys2Proof.Machine

/-! ### Row checks (R174) -/

/-- The port a field names. -/
def portIx (f : OpField) : Nat := f.toNat - 640

/-- The consumer and producer codes of a stream (R39, R222). -/
def consCode (k : Strm) : Nat := strmNum k
def prodCode (k : Strm) : Nat := match k with | .a => 0 | .v => 2 | .m => 3

/-- R29 for the port a field names: configured, and its producer or consumer the issuing stream. -/
def State.portRes (s : State) (kind : OpK) (f : OpField) : Res Unit :=
  let p := s.core.port (portIx f)
  let need := fun (ok : Bool) =>
    if !p.configured then trapR (fltS .illegalOperand 10) else trapIf (!ok) (flt .illegalOperand)
  if !isP f then .ok ()
  else
    match kind with
    | .portAny => need true
    | .portOf true _ => need (p.prod == prodCode s.cur)
    | .portOf false _ => need (p.cons == consCode s.cur)
    | .vec _ _ _ _ => need (p.cons == consCode s.cur)
    | .vdst _ _ _ => need (p.prod == prodCode s.cur)
    | _ => .ok ()

/-- Row 6: the kinds of all four fields, then the ports they name. -/
def State.operandsOk (s : State) (h : Shape) : Res Unit := do
  trapIf (!(h.d.ok s.cur h.hd.d && h.a.ok s.cur h.hd.a && h.b.ok s.cur h.hd.b && h.c.ok s.cur h.hd.c)) (flt .illegalOperand)
  s.portRes h.d h.hd.d
  s.portRes h.a h.hd.a
  s.portRes h.b h.hd.b
  s.portRes h.c h.hd.c

/-- Rows 2 to 6 of R174, in order. -/
def State.static (s : State) (h : Shape) : Res Unit := do
  trapIf (!h.streams.contains s.cur) (flt .illegalStream)
  trapIf (match h.die with | none => false | some x => x != isAttnDie s.core.did) (flt .unsupportedOnDie)
  trapIf (h.sys && !s.core.sys) (flt .privilege)
  trapIf (!(h.xok && (h.hd.awe || h.hd.awk == 0) && (h.lanes || h.hd.pm == 0))) (flt .illegalInstr)
  s.operandsOk h

/-! ### The await field (R40, R97, R211) -/

/-- A word with AWE waits until its token is zero, and raises an error the token holds. -/
def State.await (s : State) (hd : Hd) : Res Unit :=
  if !hd.awe then .ok ()
  else
    let t := s.strm.token hd.awk.toNat
    if t.count ≠ 0 then .error .wait
    else match t.raised 0 with
      | some f => trapR { f with eva := true, tok := some (hd.awk.toNat, 0) }
      | none => .ok ()

/-! ### Scalars and queues (R37, R38, R180) -/

/-- The scalar, or the queue, a field names. -/
def scalIx (f : OpField) : Nat := f.toNat - 696
def queueIx (f : OpField) : Nat := f.toNat - 728

/-- Whether a scalar's earlier writes have completed (R37). -/
def StrmSt.ready? (x : StrmSt) (n now : Nat) : Bool := n == 0 || (!x.busy.contains n && decide (Sparse.get x.ready n ≤ now))

/-- Read a scalar or pop a queue whose oldest value may be read (R37, R38, R182). -/
def State.readS (s : State) (f : OpField) : Res (Word × State) :=
  if isS f then
    if s.strm.ready? (scalIx f) s.now then .ok (s.strm.sreg (scalIx f), s) else .error .wait
  else
    match s.core.queue (queueIx f) with
    | .val v t :: r => if t ≤ s.now then .ok (v, s.updC fun c => c.setQueue (queueIx f) r) else .error .wait
    | _ => .error .wait

/-- Write a scalar, or push a queue: the value may be read or popped `cost` cycles later (R37, R38, R182). -/
def State.writeS (s : State) (f : OpField) (v : Word) (cost : Nat) : Res State :=
  if isS f then
    let n := scalIx f
    if n = 0 then .ok s
    else if s.strm.busy.contains n then .error .wait
    else .ok (s.upd fun x => { x.setSreg n v with ready := Sparse.set x.ready n (max (Sparse.get x.ready n) (s.now + cost)) })
  else
    let q := s.core.queue (queueIx f)
    if q.length < 16 then .ok (s.updC fun c => c.setQueue (queueIx f) (q ++ [.val v (s.now + cost)])) else .error .wait

/-- Reserve the destination of a late result (R37, R207). -/
def State.reserveS (s : State) (f : OpField) : Res (SDest × State) :=
  if isS f then
    let n := scalIx f
    if n = 0 then .ok (.none, s)
    else if s.strm.busy.contains n then .error .wait
    else .ok (.scal s.cur n, s.upd fun x => { x with busy := x.busy ++ [n] })
  else
    let q := s.core.queue (queueIx f)
    if q.length < 16 then
      let (id, s1) := s.fresh
      .ok (.queue (queueIx f) id, s1.updC fun c => c.setQueue (queueIx f) (q ++ [.res id]))
    else .error .wait

/-- The destination of a late result as an engine keeps it (R283). -/
def State.destRef (s : State) (d : SDest) : DestRef := { lrec := s.core.lrec, job := s.core.job.toNat, dst := d }

/-! ### Renaming in the windows (R33, R34) -/

/-- The physical register of a name in a stream. -/
def physV (k : Strm) (rrb n : Nat) : Nat :=
  match k with
  | .v => if 512 ≤ n ∧ n < 576 then 512 + (n - 512 + rrb) % 64 else n
  | .m => if 576 ≤ n ∧ n < 640 then 576 + (n - 576 + rrb) % 64 else n
  | .a => n

/-- The physical mask of a name in a stream. -/
def physM (k : Strm) (rrb n : Nat) : Nat :=
  match k with
  | .v => if 8 ≤ n ∧ n < 12 then 8 + (n - 8 + rrb) % 4 else n
  | .m => if 12 ≤ n ∧ n < 16 then 12 + (n - 12 + rrb) % 4 else n
  | .a => n

def State.phys (s : State) (n : Nat) : Nat := physV s.cur s.strm.rrb.toNat n

/-- The physical registers of a multi-register operand (R34). -/
def State.physRange (s : State) (f n : Nat) : List Nat := (List.range n).map fun i => s.phys (f + i)

/-- A mask operand, and the predicate of a word (R36). -/
def State.maskIx (s : State) (f : OpField) : Nat := physM s.cur s.strm.rrb.toNat (f.toNat - 680)
def State.pred (s : State) (hd : Hd) : BitVec 1024 := s.core.mask (physM s.cur s.strm.rrb.toNat hd.pm.toNat)

/-! ### Shadow reads (R48) -/

/-- Registers, masks and tiles that a write in flight is bound for. -/
def PEff.dests : PEff → List Nat
  | .regs ps => ps.map (·.reg)
  | .port _ _ _ => []
  | .mask m _ _ => [680 + m]
  | .contrib c _ _ => [648 + c]
  | .canon c => [648 + c]
  | .clear c _ => [648 + c]
  | .copy c _ _ _ => [648 + c]
  | .anchor c _ => [648 + c]

/-- Registers and tiles an access writes. -/
def MBody.dests : MBody → List Nat
  | .ldv _ rs _ => rs
  | .ldg _ _ rs => rs
  | .aldr _ _ c _ _ _ => [648 + c]
  | _ => []

/-- The pending bits: destinations of the fixed-latency and asynchronous writes in flight that were issued under dbg.SHD (R48). -/
def State.inFlight (s : State) : List Nat :=
  s.core.pending.flatMap (fun p => if p.shd then p.eff.dests else []) ++
    s.core.ops.flatMap (fun o => if o.shd then o.body.dests else []) ++
    (s.die s.core.did).attns.flatMap fun a => if a.shd && a.lrec == s.core.lrec && a.job == s.core.job.toNat then a.regs else []

/-- Whether the issuing stream keeps pending bits (R48). -/
def State.keepsBits (s : State) : Bool := s.strm.view.dbg.getLsbD 0

/-- A stream that no longer keeps pending bits: those its words set are gone (R48). -/
def State.dropBits (s : State) (k : Strm) : State :=
  if (s.core.strm k).view.dbg.getLsbD 0 then s
  else
    let s1 := s.updC fun c =>
      { c with pending := c.pending.map fun p => if p.strm = k then { p with shd := false } else p
               ops := c.ops.map fun o => if o.strm = k then { o with shd := false } else o }
    s1.updDie s.core.did fun d =>
      { d with attns := d.attns.map fun a =>
          if a.strm == k && a.lrec == s.core.lrec && a.job == s.core.job.toNat then { a with shd := false } else a }

/-- The tile a field names. -/
def tileIx (f : OpField) : Nat := f.toNat - 648

/-- The registers, masks and tiles a word reads: its source fields and its predicate; m0 is no destination (R36, R48). -/
def State.shapeReads (s : State) (h : Shape) : List Nat :=
  let names := fun (k : OpK) (f : OpField) => match k with
    | .vec n _ _ _ => if isV f then s.physRange f.toNat n else []
    | .mask => [680 + s.maskIx f]
    | .tile => [648 + tileIx f]
    | _ => []
  (names h.a h.hd.a ++ names h.b h.hd.b ++ names h.c h.hd.c ++ [680 + physM s.cur s.strm.rrb.toNat h.hd.pm.toNat]).filter (· != 680)

/-- Under dbg.SHD a word that would issue and reads a destination in flight faults instead (R48). -/
def State.shadow (s : State) (h : Shape) : Res Unit :=
  trapIf (s.keepsBits && (s.shapeReads h).any fun n => s.inFlight.contains n) (flt .shadowRead)

/-! ### Ports (R30, R39, R223) -/

/-- Pop `n` tiles; a marked tile raises its fault (R223). -/
def State.popPort (s : State) (p : Nat) : Nat → Res (List VReg × State)
  | 0 => .ok ([], s)
  | n + 1 =>
    match (s.core.port p).slots with
    | .tile t :: r =>
      match t.mark with
      | some f => .error (.trap f)
      | none =>
        match (s.updC fun c => c.setPort p { c.port p with slots := r }).popPort p n with
        | .error h => .error h
        | .ok (ts, s1) => .ok (t.data :: ts, s1)
    | _ => .error .wait

/-- Reserve `n` slots of a port for results to come (R30, R316). -/
def State.reservePort (s : State) (p : Nat) : Nat → Res (List Nat × State)
  | 0 => .ok ([], s)
  | n + 1 =>
    let q := s.core.port p
    if 4 ≤ q.slots.length then .error .wait
    else
      let (id, s1) := s.fresh
      match (s1.updC fun c => c.setPort p { q with slots := q.slots ++ [.res id] }).reservePort p n with
      | .error h => .error h
      | .ok (ids, s2) => .ok (id :: ids, s2)

/-! ### Vector sources and destinations (R31, R238, R260) -/

/-- A vector source: register images, or one value for every element. -/
inductive VSrc where
  | tiles (l : List VReg)
  | all (v : Word)
  deriving DecidableEq, Repr

/-- Read a vector source of `n` registers: registers, tiles popped from a port, or a scalar (R30, R238). -/
def State.readV (s : State) (f : OpField) (n : Nat) : Res (VSrc × State) :=
  if isV f then
    let rs := s.physRange f.toNat n
    .ok (.tiles (rs.map s.core.vreg), s)
  else if isP f then
    match s.popPort (portIx f) n with
    | .error h => .error h
    | .ok (ts, s1) => .ok (.tiles ts, s1)
  else
    match s.readS f with
    | .error h => .error h
    | .ok (v, s1) => .ok (.all v, s1)

/-- The bits of element (i, j) of a type within register images (R31). -/
def elemBits (t : ETy) (l : List VReg) (i j : Nat) : Nat :=
  let r := l.getD 0 []
  match t.width with
  | 4 => bitsOf (Sparse.get r (64 * i + j / 4)).toNat (4 * (j % 4) + 3) (4 * (j % 4))
  | 8 => bitsOf (Sparse.get r (64 * i + j / 2)).toNat (8 * (j % 2) + 7) (8 * (j % 2))
  | 16 => (Sparse.get r (64 * i + j)).toNat
  | _ => (Sparse.get r (64 * i + j)).toNat + 65536 * (Sparse.get (l.getD 1 []) (64 * i + j)).toNat

/-- Element (i, j) of a source: a scalar gives its low bits to every element (R238). -/
def VSrc.elem (x : VSrc) (t : ETy) (i j : Nat) : Nat :=
  match x with
  | .tiles l => elemBits t l i j
  | .all v => v.toNat % 2 ^ t.width

/-- A whole 16-bit lane of a source (R238, R320). -/
def VSrc.lane (x : VSrc) (n : Nat) : Nat :=
  match x with
  | .tiles l => (Sparse.get (l.getD 0 []) n).toNat
  | .all v => v.toNat % 65536

/-- The lane that holds element (i, j) (R31). -/
def laneOf (t : ETy) (i j : Nat) : Nat := 64 * i + j * 64 / t.perRow

/-- Elements a lane holds (R31). -/
def perLane (t : ETy) : Nat := t.perRow / 64

/-- A result being assembled: what each lane of one to four registers gets, bit mask and value. -/
structure LaneOut where
  mask : Nat
  val  : Nat
  deriving DecidableEq, Repr, Inhabited

/-- The register parts an element function writes: for each predicated lane, the elements it holds (R44, R63, R239).
`f i j` is the bits of element (i, j), or none where it is not written. -/
def elemParts (t : ETy) (regs : List Nat) (pred : BitVec 1024) (f : Nat → Nat → Option Nat) : List RegPart :=
  let p := perLane t
  let w := t.width
  let lane := fun (n : Nat) =>
    if !pbit pred n then (default : LaneOut)
    else
      (List.range p).foldl (fun (o : LaneOut) k =>
        match f (n / 64) (p * (n % 64) + k) with
        | some v => { mask := o.mask + (2 ^ w - 1) * 2 ^ (w * k), val := o.val + (v % 2 ^ w) * 2 ^ (w * k) }
        | none => o) default
  let lo := regs.getD 0 0
  let low : RegPart :=
    { reg := lo, mask := Sparse.ofFn 1024 fun n => BitVec.ofNat 16 (lane n).mask
      val := Sparse.ofFn 1024 fun n => BitVec.ofNat 16 (lane n).val }
  if w = 32 then
    [low, { reg := regs.getD 1 0, mask := Sparse.ofFn 1024 fun n => BitVec.ofNat 16 ((lane n).mask / 65536)
            val := Sparse.ofFn 1024 fun n => BitVec.ofNat 16 ((lane n).val / 65536) }]
  else [low]

/-- Whole register images written under a predicate. -/
def imageParts (pred : BitVec 1024) : List Nat → List VReg → List RegPart
  | r :: rs, v :: vs =>
    { reg := r, mask := Sparse.ofFn 1024 fun n => if pbit pred n then 0xFFFF#16 else 0
      val := Sparse.ofFn 1024 fun n => if pbit pred n then Sparse.get v n else 0 } :: imageParts pred rs vs
  | _, _ => []

/-- The banks of registers that a write in flight is bound for are live (R347). -/
def Core.useBanks (c : Core) (dests : List Nat) : Core :=
  { c with banks := dests.foldl (fun b n => if n < 640 then b ||| (1#20 <<< (n / 32)) else b) c.banks }

/-- Add a fixed-latency write due `lat` cycles from now, with the events it counts at landing (R43, R79). -/
def State.pend (s : State) (lat : Nat) (e : PEff) (events : List Nat) : State :=
  let (id, s1) := s.fresh
  let due := s1.now + lat
  let s2 := s1.updC fun c =>
    { c.useBanks e.dests with
      pending := insertPending { due := due, ord := id, strm := s.cur, eff := e, events := events, shd := s.keepsBits } c.pending }
  s2.upd fun x => if x.handler then x else { x with secDue := max x.secDue due }

/-- Deliver a vector result: to registers under their masks, or to a port one tile a register, unwritten lanes zero
(R30, R36, R238). The register parts are in operand order. -/
def State.writeV (s : State) (f : OpField) (lat : Nat) (parts : List RegPart) (events : List Nat) : Res State :=
  if isV f then .ok (s.pend lat (.regs parts) events)
  else
    match s.reservePort (portIx f) parts.length with
    | .error h => .error h
    | .ok (ids, s1) =>
      .ok ((ids.zip parts).foldl (fun (acc : State × List Nat) x =>
        (acc.1.pend lat (.port (portIx f) x.1 x.2.val) acc.2, [])) (s1, events)).1

/-- The registers of a destination; a port's parts carry placeholder numbers. -/
def State.dstRegs (s : State) (f : OpField) (n : Nat) : List Nat :=
  if isV f then s.physRange f.toNat n else List.replicate n 0

/-- A mask operand's value (R36). -/
def State.readM (s : State) (f : OpField) : BitVec 1024 := s.core.mask (s.maskIx f)

/-- The rounding mode a word uses: its own, or `rm` as its stream sees it (R58, R78). -/
def State.rmode (s : State) (code : Nat) : RMode := RMode.ofCode (if code = 5 then s.strm.view.rm.toNat else code)

end Sys2Proof.Machine
end

