-- ==== Sys2Proof/Machine/Flags.lean ====
section
/-!
DEFINITION. Exception events, the machine's arithmetic flags: what a word's element results count at landing, each event by the
number 4 f + k of its counter, and only in lanes whose predicate bit is 1 (R63, R79).
-/

namespace Sys2Proof.Machine

/-- The lanes a predicate selects, ascending. -/
def predLanes (p : BitVec 1024) : List Nat := (List.range 1024).filter fun n => pbit p n

/-- The element indexes a lane holds: pairs of row and column (R31). -/
def laneElems (t : ETy) (n : Nat) : List (Nat × Nat) :=
  (List.range (perLane t)).map fun k => (n / 64, perLane t * (n % 64) + k)

/-- The events of the elements a word writes (R79). -/
def elemEvents (t : ETy) (p : BitVec 1024) (f : Nat → Nat → Option Rounded) : List Nat :=
  (predLanes p).flatMap fun n => (laneElems t n).flatMap fun x => ((f x.1 x.2).map (·.events)).getD []

/-- The events of lanes, for results that are not elements of a type. -/
def laneEvents (p : BitVec 1024) (f : Nat → List Nat) : List Nat := (predLanes p).flatMap f

end Sys2Proof.Machine
end

