-- ==== Sys2Proof/Machine/Scalar.lean ====
section
/-!
DEFINITION. Integer arithmetic, bit operations, moves and the scalar queues: OP 0x01 to 0x05 and 0x0D (R180 to R187, R205).
-/

namespace Sys2Proof.Machine

/-- A comparison's result: 1 or 0 (R183). -/
def truth (b : Bool) : Word := if b then 1 else 0

/-- Read a source field that the word uses. -/
def State.srcIf (s : State) (k : OpK) (f : OpField) : Res (Word × State) :=
  match k with
  | .none => .ok (0, s)
  | _ => s.readS f

/-- Read the three source fields in field order (R30, R180). -/
def State.sources (s : State) (h : Shape) : Res ((Word × Word × Word) × State) :=
  match s.srcIf h.a h.hd.a with
  | .error e => .error e
  | .ok (a, s1) =>
    match s1.srcIf h.b h.hd.b with
    | .error e => .error e
    | .ok (b, s2) =>
      match s2.srcIf h.c h.hd.c with
      | .error e => .error e
      | .ok (c, s3) => .ok ((a, b, c), s3)

/-- A word with one scalar result: sources, the entry's own check, await, result `cost` cycles later (R174, R180, R182). -/
def State.aluIf (s : State) (h : Shape) (ok : Bool) (cost : Nat) (f : Word → Word → Word → Word) : Res State := do
  s.static h
  trapIf (!ok) (flt .illegalOperand)
  let ((a, b, c), s1) ← s.sources h
  s.await h.hd
  let s2 ← s1.writeS h.hd.d (f a b c) cost
  .ok (s2.retire 1)

/-- A word with one scalar result and no check of its own. -/
def State.alu (s : State) (h : Shape) (cost : Nat) (f : Word → Word → Word → Word) : Res State := s.aluIf h true cost f

/-- Significant bits of a number. -/
def sigBits (n : Nat) : Nat := if n = 0 then 0 else Nat.log2 n + 1

/-- The cost of a divide: 4 + ceil(b / 4), at most 20 (R182). -/
def divCost (signed : Bool) (a b : Word) : Nat :=
  let m := fun (x : Word) => if signed then x.toInt.natAbs else x.toNat
  let n : Nat := min 64 ((sigBits (m a) : Int) - sigBits (m b) + 1).toNat
  min 20 (4 + (n + 3) / 4)

/-- A divide: the divider is busy until the result (R182). -/
def State.divide (s : State) (h : Shape) (signed : Bool) (f : Word → Word → Word) : Res State := do
  s.static h
  let ((a, b, _), s1) ← s.sources h
  s.await h.hd
  waitUnless (decide (s.strm.divBusy ≤ s.now))
  let cost := divCost signed a b
  let s2 ← s1.writeS h.hd.d (f a b) cost
  .ok ((s2.upd fun x => { x with divBusy := s.now + cost }).retire 1)

/-- POS and WID of a field description, and their limits (R186). -/
def fieldPos (w : Wi) : Nat := w.imm.toNat % 64
def fieldWid (w : Wi) : Nat := w.imm.toNat / 64 % 128
def fieldOk (w : Wi) : Bool := decide (1 ≤ fieldWid w) && decide (fieldWid w ≤ 64) && decide (fieldPos w + fieldWid w ≤ 64)
def fieldOf (w : Wi) (a : Word) : Nat := a.toNat / 2 ^ fieldPos w % 2 ^ fieldWid w

/-- B with the described bits replaced by the low bits of A (R186). -/
def insertField (w : Wi) (a b : Word) : Word :=
  let m : Word := BitVec.ofNat 64 ((2 ^ fieldWid w - 1) * 2 ^ fieldPos w)
  (b &&& ~~~m) ||| ((a <<< fieldPos w) &&& m)

/-- The bytes of a scalar in reverse order (R186). -/
def byteSwap (a : Word) : Word := BitVec.ofNat 64 (leNat (leBytes 8 a.toNat).reverse)

/-- ADD: A + B modulo 2^64 (R183). -/
def execAdd (w : Wz) (s : State) : Out := outcome s (s.alu (shZ3 w) 1 (fun a b _ => a + b))

/-- SUB: A - B (R183). -/
def execSub (w : Wz) (s : State) : Out := outcome s (s.alu (shZ3 w) 1 (fun a b _ => a - b))

/-- AND (R183). -/
def execAnd (w : Wz) (s : State) : Out := outcome s (s.alu (shZ3 w) 1 (fun a b _ => a &&& b))

/-- OR (R183). -/
def execOr (w : Wz) (s : State) : Out := outcome s (s.alu (shZ3 w) 1 (fun a b _ => a ||| b))

/-- XOR (R183). -/
def execXor (w : Wz) (s : State) : Out := outcome s (s.alu (shZ3 w) 1 (fun a b _ => a ^^^ b))

/-- SHL by B[5:0] (R183). -/
def execShl (w : Wz) (s : State) : Out := outcome s (s.alu (shZ3 w) 1 (fun a b _ => a <<< (b.toNat % 64)))

/-- SHR by B[5:0], zero-filling (R183). -/
def execShr (w : Wz) (s : State) : Out := outcome s (s.alu (shZ3 w) 1 (fun a b _ => a >>> (b.toNat % 64)))

/-- SRA by B[5:0], sign-filling (R183). -/
def execSra (w : Wz) (s : State) : Out := outcome s (s.alu (shZ3 w) 1 (fun a b _ => a.sshiftRight (b.toNat % 64)))

/-- SLT: signed A < B (R183). -/
def execSlt (w : Wz) (s : State) : Out := outcome s (s.alu (shZ3 w) 1 (fun a b _ => truth (a.slt b)))

/-- SLTU: unsigned A < B (R183). -/
def execSltu (w : Wz) (s : State) : Out := outcome s (s.alu (shZ3 w) 1 (fun a b _ => truth (a.ult b)))

/-- MIN, signed (R183). -/
def execMin (w : Wz) (s : State) : Out := outcome s (s.alu (shZ3 w) 1 (fun a b _ => if a.slt b then a else b))

/-- MAX, signed (R183). -/
def execMax (w : Wz) (s : State) : Out := outcome s (s.alu (shZ3 w) 1 (fun a b _ => if a.slt b then b else a))

/-- MINU, unsigned (R183). -/
def execMinu (w : Wz) (s : State) : Out := outcome s (s.alu (shZ3 w) 1 (fun a b _ => if a.ult b then a else b))

/-- MAXU, unsigned (R183). -/
def execMaxu (w : Wz) (s : State) : Out := outcome s (s.alu (shZ3 w) 1 (fun a b _ => if a.ult b then b else a))

/-- ADDI: A + sext(IMM) (R184). -/
def execAddi (w : Wi) (s : State) : Out := outcome s (s.alu (shI w 36 .sDst .sSrc .none .none) 1 (fun a _ _ => a + sext64 w.imm))

/-- ANDI (R184). -/
def execAndi (w : Wi) (s : State) : Out := outcome s (s.alu (shI w 36 .sDst .sSrc .none .none) 1 (fun a _ _ => a &&& sext64 w.imm))

/-- ORI (R184). -/
def execOri (w : Wi) (s : State) : Out := outcome s (s.alu (shI w 36 .sDst .sSrc .none .none) 1 (fun a _ _ => a ||| sext64 w.imm))

/-- XORI (R184). -/
def execXori (w : Wi) (s : State) : Out := outcome s (s.alu (shI w 36 .sDst .sSrc .none .none) 1 (fun a _ _ => a ^^^ sext64 w.imm))

/-- SLTI (R184). -/
def execSlti (w : Wi) (s : State) : Out := outcome s (s.alu (shI w 36 .sDst .sSrc .none .none) 1 (fun a _ _ => truth (a.slt (sext64 w.imm))))

/-- SLTIU: the sign-extended immediate compared unsigned (R184). -/
def execSltiu (w : Wi) (s : State) : Out := outcome s (s.alu (shI w 36 .sDst .sSrc .none .none) 1 (fun a _ _ => truth (a.ult (sext64 w.imm))))

/-- MINI (R184). -/
def execMini (w : Wi) (s : State) : Out := outcome s (s.alu (shI w 36 .sDst .sSrc .none .none) 1 (fun a _ _ => if a.slt (sext64 w.imm) then a else sext64 w.imm))

/-- MAXI (R184). -/
def execMaxi (w : Wi) (s : State) : Out := outcome s (s.alu (shI w 36 .sDst .sSrc .none .none) 1 (fun a _ _ => if a.slt (sext64 w.imm) then sext64 w.imm else a))

/-- MINUI (R184). -/
def execMinui (w : Wi) (s : State) : Out := outcome s (s.alu (shI w 36 .sDst .sSrc .none .none) 1 (fun a _ _ => if a.ult (sext64 w.imm) then a else sext64 w.imm))

/-- MAXUI (R184). -/
def execMaxui (w : Wi) (s : State) : Out := outcome s (s.alu (shI w 36 .sDst .sSrc .none .none) 1 (fun a _ _ => if a.ult (sext64 w.imm) then sext64 w.imm else a))

/-- SHLI by IMM[5:0] (R184). -/
def execShli (w : Wi) (s : State) : Out := outcome s (s.alu (shI w 6 .sDst .sSrc .none .none) 1 (fun a _ _ => a <<< (w.imm.toNat % 64)))

/-- SHRI by IMM[5:0] (R184). -/
def execShri (w : Wi) (s : State) : Out := outcome s (s.alu (shI w 6 .sDst .sSrc .none .none) 1 (fun a _ _ => a >>> (w.imm.toNat % 64)))

/-- SRAI by IMM[5:0] (R184). -/
def execSrai (w : Wi) (s : State) : Out := outcome s (s.alu (shI w 6 .sDst .sSrc .none .none) 1 (fun a _ _ => a.sshiftRight (w.imm.toNat % 64)))

/-- MUL: P[63:0] (R185). -/
def execMul (w : Wz) (s : State) : Out := outcome s (s.alu (shZ3 w) 3 (fun a b _ => a * b))

/-- MULH: P[127:64], signed (R185). -/
def execMulh (w : Wz) (s : State) : Out := outcome s (s.alu (shZ3 w) 3 (fun a b _ => BitVec.ofInt 64 (a.toInt * b.toInt / 2 ^ 64)))

/-- MULHU: P[127:64], unsigned (R185). -/
def execMulhu (w : Wz) (s : State) : Out := outcome s (s.alu (shZ3 w) 3 (fun a b _ => BitVec.ofNat 64 (a.toNat * b.toNat / 2 ^ 64)))

/-- SCLMUL: K[63:0] (R185). -/
def execSclmul (w : Wz) (s : State) : Out := outcome s (s.alu (shZ3 w) 3 (fun a b _ => BitVec.ofNat 64 (clmulNat 64 a.toNat b.toNat)))

/-- SCLMULH: K[126:64] (R185). -/
def execSclmulh (w : Wz) (s : State) : Out := outcome s (s.alu (shZ3 w) 3 (fun a b _ => BitVec.ofNat 64 (clmulNat 64 a.toNat b.toNat / 2 ^ 64)))

/-- DIV: the quotient rounded toward zero, all ones for B = 0, -2^63 for the overflowing quotient (R185). -/
def execDiv (w : Wz) (s : State) : Out := outcome s (s.divide (shZ3 w) true (fun a b => if b = 0 then BitVec.allOnes 64 else a.sdiv b))

/-- DIVU: the unsigned quotient, all ones for B = 0 (R185). -/
def execDivu (w : Wz) (s : State) : Out := outcome s (s.divide (shZ3 w) false (fun a b => if b = 0 then BitVec.allOnes 64 else a / b))

/-- REM: A - Q B with the sign of A, A for B = 0 (R185). -/
def execRem (w : Wz) (s : State) : Out := outcome s (s.divide (shZ3 w) true (fun a b => if b = 0 then a else a.srem b))

/-- REMU: the unsigned remainder, A for B = 0 (R185). -/
def execRemu (w : Wz) (s : State) : Out := outcome s (s.divide (shZ3 w) false (fun a b => if b = 0 then a else a % b))

/-- CLZ: leading zero bits, 64 for zero (R186). -/
def execClz (w : Wi) (s : State) : Out := outcome s (s.alu (shI w 0 .sDst .sSrc .none .none) 1 (fun a _ _ => BitVec.ofNat 64 (clzNat 64 a.toNat)))

/-- CTZ: trailing zero bits, 64 for zero (R186). -/
def execCtz (w : Wi) (s : State) : Out := outcome s (s.alu (shI w 0 .sDst .sSrc .none .none) 1 (fun a _ _ => BitVec.ofNat 64 (ctzNat 64 a.toNat)))

/-- POPC: number of one bits (R186). -/
def execPopc (w : Wi) (s : State) : Out := outcome s (s.alu (shI w 0 .sDst .sSrc .none .none) 1 (fun a _ _ => BitVec.ofNat 64 (popcount 64 a.toNat)))

/-- BREV: bit i becomes bit 63 - i (R186). -/
def execBrev (w : Wi) (s : State) : Out := outcome s (s.alu (shI w 0 .sDst .sSrc .none .none) 1 (fun a _ _ => BitVec.ofNat 64 (bitRev 64 a.toNat)))

/-- BSWAP: byte i becomes byte 7 - i (R186). -/
def execBswap (w : Wi) (s : State) : Out := outcome s (s.alu (shI w 0 .sDst .sSrc .none .none) 1 (fun a _ _ => byteSwap a))

/-- EXTR: the field at POS of WID bits, zero-extended (R186). -/
def execExtr (w : Wi) (s : State) : Out :=
  outcome s (s.aluIf (shI w 13 .sDst .sSrc .none .none) (fieldOk w) 1 (fun a _ _ => BitVec.ofNat 64 (fieldOf w a)))

/-- INS: B with the field replaced by the low bits of A (R186). -/
def execIns (w : Wi) (s : State) : Out :=
  outcome s (s.aluIf (shI w 13 .sDst .sSrc .sSrc .none) (fieldOk w) 1 (fun a b _ => insertField w a b))

/-- EXTRS: the field sign-extended (R186). -/
def execExtrs (w : Wi) (s : State) : Out :=
  outcome s (s.aluIf (shI w 13 .sDst .sSrc .none .none) (fieldOk w) 1 (fun a _ _ => BitVec.ofInt 64 (sextNat (fieldWid w) (fieldOf w a))))

/-- MOVI: sext(IMM) (R187). -/
def execMovi (w : Wi) (s : State) : Out := outcome s (s.alu (shI w 36 .sDst .none .none .none) 1 (fun _ _ _ => sext64 w.imm))

/-- MOVHI: IMM[27:0] above A[35:0] (R187). -/
def execMovhi (w : Wi) (s : State) : Out := outcome s (s.alu (shI w 28 .sDst .sSrc .none .none) 1 (fun a _ _ => BitVec.ofNat 64 (w.imm.toNat % 2 ^ 28 * 2 ^ 36 + a.toNat % 2 ^ 36)))

/-- MOV (R187). -/
def execMov (w : Wi) (s : State) : Out := outcome s (s.alu (shI w 0 .sDst .sSrc .none .none) 1 (fun a _ _ => a))

/-- SEL: A when C is not zero, else B (R187). -/
def execSel (w : Wi) (s : State) : Out := outcome s (s.alu (shI w 0 .sDst .sSrc .sSrc .sSrc) 1 (fun a b c => if c ≠ 0 then a else b))

/-- SQW: push A into queue D (R205). -/
def execSqw (w : Wz) (s : State) : Out := outcome s (s.alu (shZ w .qDst .sReg) 1 (fun a _ _ => a))

/-- SQR: pop queue A into scalar D (R205). -/
def execSqr (w : Wz) (s : State) : Out := outcome s (s.alu (shZ w .sReg .qSrc) 1 (fun a _ _ => a))

end Sys2Proof.Machine
end

