-- ==== Sys2Proof/Machine/Control.lean ====
section
/-!
DEFINITION. Control transfer, loops, stream control and the steps of the streams: OP 0x08 to 0x0B (R188 to R203), landings,
section entry and retirement (R15 to R19, R43), the rendezvous, stream deadlock (R25), job completion (R13) and events (R198).
-/

namespace Sys2Proof.Machine

/-! ### Branches (R189, R190) -/

/-- The target of a displacement in 4-byte units (R168). -/
def State.dispTarget (s : State) (w : Wi) : Word := s.strm.pc + 4 * sext64 w.imm

/-- A transfer or a fall-through after a checked target; the target is checked whether or not taken, before any pop
(R189, R190). -/
def State.branchTo (s : State) (h : Shape) (t : Res Word) (take : Word → Word → Bool) (cost : Nat) : Res State := do
  s.static h
  let tgt ← t
  let x ← s.target s.cur s.strm tgt
  let ((a, b, _), s1) ← s.sources h
  s.await h.hd
  .ok (if take a b then s1.transfer x cost else s1.retire 1)

/-- A conditional branch (R189). -/
def State.branch (s : State) (w : Wi) (take : Word → Word → Bool) : Res State :=
  s.branchTo (shI w 36 .none .sSrc .sSrc .none) (.ok (s.dispTarget w)) take 2

/-- BEQ (R189). -/
def execBeq (w : Wi) (s : State) : Out := outcome s (s.branch w fun a b => a == b)
/-- BNE (R189). -/
def execBne (w : Wi) (s : State) : Out := outcome s (s.branch w fun a b => a != b)
/-- BLT, signed (R189). -/
def execBlt (w : Wi) (s : State) : Out := outcome s (s.branch w fun a b => a.slt b)
/-- BGE, signed (R189). -/
def execBge (w : Wi) (s : State) : Out := outcome s (s.branch w fun a b => !a.slt b)
/-- BLTU, unsigned (R189). -/
def execBltu (w : Wi) (s : State) : Out := outcome s (s.branch w fun a b => a.ult b)
/-- BGEU, unsigned (R189). -/
def execBgeu (w : Wi) (s : State) : Out := outcome s (s.branch w fun a b => !a.ult b)

/-- BR (R190). -/
def execBr (w : Wi) (s : State) : Out :=
  outcome s (s.branchTo (shI w 36 .none .none .none .none) (.ok (s.dispTarget w)) (fun _ _ => true) 2)

/-- BRI: transfer to A plus a byte offset (R190). -/
def execBri (w : Wi) (s : State) : Out :=
  let base : Res Word := match s.readS w.a with
    | .ok (a, _) => .ok (a + sext64 w.imm)
    | .error e => .error e
  outcome s (s.branchTo (shI w 36 .none .sSrc .none .none) base (fun _ _ => true) 2)

/-- BQ: pop A and branch when it is not zero; the target is checked before the pop (R190). -/
def execBq (w : Wi) (s : State) : Out :=
  outcome s (s.branchTo (shI w 36 .none .qSrc .none .none) (.ok (s.dispTarget w)) (fun a _ => a != 0) 2)

/-- BQZ: pop A and branch when it is zero (R190). -/
def execBqz (w : Wi) (s : State) : Out :=
  outcome s (s.branchTo (shI w 36 .none .qSrc .none .none) (.ok (s.dispTarget w)) (fun a _ => a == 0) 2)

/-- CALL: D receives the link of the return point, with ENT 1 (R190). -/
def State.call (s : State) (w : Wi) : Res State := do
  let h := shI w 36 .sDst .none .none .none
  s.static h
  let x ← s.target s.cur s.strm (s.dispTarget w)
  s.await h.hd
  let s1 ← s.writeS w.d (s.strm.linkNext true) 2
  .ok (s1.transfer { x with sregs := s1.strm.sregs, ready := s1.strm.ready } 2)

def execCall (w : Wi) (s : State) : Out := outcome s (s.call w)

/-- RET: come back through link value A (R188, R190). -/
def State.ret (s : State) (w : Wi) : Res State := do
  let h := shI w 0 .none .sSrc .none .none
  s.static h
  let ((a, _, _), s1) ← s.sources h
  let x ← s1.comeBack s.cur s1.strm a
  s.await h.hd
  .ok (s1.transfer x 2)

def execRet (w : Wi) (s : State) : Out := outcome s (s.ret w)

/-! ### Loops and rotation (R191 to R194) -/

/-- The first window mask of a stream's rotation: m8 in V, m12 in M; A has none (R33, R191). -/
def windowMask (k : Strm) : Option Nat := match k with | .a => none | .v => some 8 | .m => some 12

/-- Write a stream's logical window mask `i` places after the first, at once (R191, R193). -/
def State.setWindowMask (s : State) (rrb i : Nat) (v : BitVec 1024) : State :=
  match windowMask s.cur with
  | none => s
  | some m => s.updC fun c => c.setMask (physM s.cur rrb (m + i)) v

/-- A loop word's scalar, checked for readiness (R37). -/
def State.loopCount (s : State) (f : OpField) : Res Word :=
  if s.strm.busy.contains (scalIx f) && scalIx f != 0 then .error .wait
  else match s.readS f with
    | .error e => .error e
    | .ok (v, _) => .ok v

/-- LOOP: count, rotate, set the stage mask and branch in one retirement (R191). -/
def State.loop (s : State) (w : Wi) : Res State := do
  let h := shI w 36 .sReg .none .none .none
  s.static h
  let x ← s.target s.cur s.strm (s.dispTarget w)
  let n ← s.loopCount w.d
  s.await h.hd
  if s.strm.lc = 0 ∧ n = 0 then .ok (s.retire 1)
  else
    let stage := decide (s.strm.lc ≠ 0)
    let s1 ← if stage then .ok s else s.writeS w.d (n - 1) 1
    let rrb := s.strm.rrb - 1
    let s2 := s1.setWindowMask rrb.toNat 0 (if stage then BitVec.allOnes 1024 else 0)
    .ok (s2.transfer { x with sregs := s1.strm.sregs, ready := s1.strm.ready
                              lc := if stage then x.lc - 1 else x.lc, rrb := rrb } 1)

def execLoop (w : Wi) (s : State) : Out := outcome s (s.loop w)

/-- LOOPI: branch while `lc` is not zero (R192). -/
def State.loopi (s : State) (w : Wi) : Res State := do
  let h := shI w 36 .none .none .none .none
  s.static h
  let x ← s.target s.cur s.strm (s.dispTarget w)
  s.await h.hd
  .ok (if s.strm.lc = 0 then s.retire 1 else s.transfer { x with lc := x.lc - 1 } 1)

def execLoopi (w : Wi) (s : State) : Out := outcome s (s.loopi w)

/-- LOOPS: branch while D is not zero (R192). -/
def State.loops (s : State) (w : Wi) : Res State := do
  let h := shI w 36 .sReg .none .none .none
  s.static h
  let x ← s.target s.cur s.strm (s.dispTarget w)
  let n ← s.loopCount w.d
  s.await h.hd
  if n = 0 then .ok (s.retire 1)
  else
    let s1 ← s.writeS w.d (n - 1) 1
    .ok (s1.transfer { x with sregs := s1.strm.sregs, ready := s1.strm.ready } 1)

def execLoops (w : Wi) (s : State) : Out := outcome s (s.loops w)

/-- RRBSET: set the rotation base, and with PRIME the window masks (R193). -/
def State.rrbset (s : State) (w : Wi) : Res State := do
  let h := shI w 7 .none .none .none .none
  s.static h
  let prime := w.imm.getLsbD 6
  trapIf (prime && s.cur == .a) (flt .illegalOperand)
  s.await h.hd
  let rrb := w.imm.toNat % 64
  let s1 := s.upd fun x => { x with rrb := BitVec.ofNat 6 rrb }
  let s2 := if prime then
      (((s1.setWindowMask rrb 0 (BitVec.allOnes 1024)).setWindowMask rrb 1 0).setWindowMask rrb 2 0).setWindowMask rrb 3 0
    else s1
  .ok (s2.retire 1)

def execRrbset (w : Wi) (s : State) : Out := outcome s (s.rrbset w)

/-! ### Stream control (R195 to R203) -/

/-- The shape of a word without operands. -/
def shNone (w : Wi) (n : Nat) : Shape := shI w n .none .none .none .none

/-- RDZ: the stream waits for the join (R15, R195). -/
def State.rdzWait (s : State) (w : Wi) : Res State := do
  s.static (shNone w 0)
  s.await w.toHd
  .ok (s.upd fun x => { x with atRdz := true })

def execRdz (w : Wi) (s : State) : Out := outcome s (s.rdzWait w)

/-- YIELD: a stop point for a pre-emption requested and not carried out, else nothing (R196). -/
def State.yield (s : State) (w : Wi) : Res State := do
  s.static (shNone w 0)
  s.await w.toHd
  let s1 := s.retire 1
  .ok (if s.core.stopReq then s1.haltGang s.core.lrec s.core.gangNo .save else s1)

def execYield (w : Wi) (s : State) : Out := outcome s (s.yield w)

/-- END: the stream stops (R13, R197). -/
def State.endStrm (s : State) (w : Wi) : Res State := do
  s.static (shNone w 0)
  s.await w.toHd
  .ok (s.transfer s.strm.stop 1)

def execEndStream (w : Wi) (s : State) : Out := outcome s (s.endStrm w)

/-- TRAP: take event 0x01 with the immediate as information (R198, R200). -/
def State.trap (s : State) (w : Wi) : Res State := do
  s.static (shNone w 16)
  trapIf s.strm.handler (flt .nestedTrap)
  let s1 ← s.enterHandler s.cur { cause := 1, sub := 0, info := BitVec.ofNat 64 w.imm.toNat } (s.strm.linkNext false)
  s.await w.toHd
  .ok (s1.transfer s1.strm 1)

def execTrap (w : Wi) (s : State) : Out := outcome s (s.trap w)

/-- ERET: leave handler mode and come back through `epc` (R201). -/
def State.eret (s : State) (w : Wi) : Res State := do
  s.static (shNone w 0)
  trapIf (!s.strm.handler) (flt .illegalInstr)
  let x ← s.comeBack s.cur { s.strm with handler := false } s.strm.epc
  s.await w.toHd
  .ok (s.transfer x 1)

def execEret (w : Wi) (s : State) : Out := outcome s (s.eret w)

/-- BKPT: halt the job for a debugger, or fault where the region forbids it (R203). M's word is the last of its cycle: the job would next have
issued in the one after it (R46). -/
def State.bkpt (s : State) (w : Wi) : Res State := do
  s.static (shNone w 16)
  trapIf (!s.core.dbgOk) { code := .breakpoint, info := w.imm.toNat }
  s.await w.toHd
  let c := s.core
  let s1 := (s.retire 1).postJob c
    { code := 0x30, strm := strmNum s.cur, die := c.did, core := c.cid, pc := s.strm.pc.toNat, info := w.imm.toNat
      lrec := c.lrec, job := c.job.toNat }
  let s2 := s1.haltGang c.lrec c.gangNo .debug
  .ok (if s.cur = .m then s2.updC fun x => { x with turnAt := s.now + 1 } else s2)

def execBkpt (w : Wi) (s : State) : Out := outcome s (s.bkpt w)

/-! ### Landing (R43, R44) -/

/-- RESULT_LANDS: every fixed-latency write due by this cycle lands (R43, R44, R79). In a gang that stops nothing lands beyond the cycle
in which its streams would next have issued: the rest are its pending writes (R46). -/
def execResultLands (s : State) : Out := .next (s.landDue (if s.core.stopReq then min s.now s.core.turnAt else s.now))

/-! ### Sections (R16 to R19, R165) -/

/-- A stream enters the section whose header it has reached, once the header's conditions hold (R16 to R18, R165, R200). -/
def State.enterSection (s : State) (k : Strm) : Res State :=
  let x := s.core.strm k
  if x.pc.toNat % 4 ≠ 0 then trapR (flt .illegalTarget)
  else
    match s.fetchHdr x x.pc with
    | .error e => .error e
    | .ok h =>
      if h.hk ≠ 0xA then trapR (flt .illegalSection)
      else if h.len = 0 then .ok (s.updK k fun y => y.stop)
      else if !hdrFields h k then trapR (flt .illegalSection)
      else
        let inside := fun (y : StrmSt) =>
          { y with secBase := x.pc, secLen := h.len, pc := wordAddr x.pc x.entIdx, atHdr := false }
        if x.handler then .ok (s.updK k inside)
        else if x.ord ≥ 2 ^ 32 then trapR (flt .illegalSection)
        else if !beginOk s.core k h x.ord then .error .wait
        else .ok (s.updK k fun y => { inside y with ord := x.ord + 1, entered := true, secDue := 0 })

/-- Whether a stream of the core under view can act. -/
def Core.live (c : Core) (k : Strm) : Bool := c.running && !(c.strm k).stopped

/-- SECTION_ENTRY: an entry whose conditions hold; otherwise the stream waits (R16 to R18, R165). -/
def execSectionEntry (k : Strm) (s : State) : Out :=
  if s.core.live k && (s.core.strm k).atHdr then outcomeOf s k (s.enterSection k) else .next s

/-- Whether the oldest section a stream has left may retire: every result of its words has landed (R19). -/
def State.retirable (s : State) (k : Strm) : Bool :=
  match (s.core.strm k).left with
  | [] => false
  | l :: _ => decide (l.due ≤ s.now) && !s.core.pending.any fun p => p.strm == k && decide (p.due ≤ l.due)

/-- SECTION_RETIRE: the oldest left section retires (R17, R19, R304). -/
def execSectionRetire (k : Strm) (s : State) : Out :=
  if s.core.running && s.retirable k then
    .next ((s.updK k fun x => { x with left := x.left.drop 1, ret := (x.ret + 1) % 2 ^ 32 }).updC fun c =>
      c.count (strmNum k) 1)
  else .next s

/-! ### The format table's copy (R77, R276) -/

/-- The format table in translated pages, or the poison met (R77, R356). -/
def State.fmtIn (s : State) (base : Nat) (pages : List (Nat × Nat)) : Res FmtCopy :=
  if s.poisonIn pages base 128 then trapR { code := .poison, addr := base }
  else
    let bs := s.bytesIn pages base 128
    .ok { entries := Sparse.ofFn 16 fun i => BitVec.ofNat 64 (leNat ((bs.drop (8 * i)).take 8)), unfilled := none }

/-- Read the format table into M's copy; a failed read is reported (R77). -/
def State.readFmt (s : State) (base : Nat) : Res FmtCopy :=
  match s.xlateRange .rd base 128 with
  | .error h => .error h
  | .ok pages => s.fmtIn base pages

/-- The key at which the format table is read, where its page has a translation. -/
def State.fmtKeys (s : State) (base : Nat) : List Nat :=
  match ({ s with cur := .m } : State).xlate base .rd with | .ok k => [k] | .error _ => []

/-- A fill that does not fault: on a failed read the copy is marked unfilled with its cause and address (R77). -/
def State.fillFmt (s : State) (base : Nat) : State :=
  match { s with cur := .m }.readFmt base with
  | .ok f => (s.touchRows (s.fmtKeys base)).updC fun c => { c with fmt := f }
  | .error (.trap f) =>
    s.updC fun c => { c with fmt := { c.fmt with unfilled := some { f with info := f.addr, eva := true } } }
  | .error _ => s.updC fun c => { c with fmt := { c.fmt with unfilled := some { code := .translation, sub := 2, addr := base, info := base, eva := true } } }

/-! ### The rendezvous (R15, R52, R102) -/

/-- Whether the join completes: every stream waits or has stopped, every result has landed, every access has performed. -/
def State.canJoin (s : State) : Bool :=
  let c := s.core
  let at_ := fun (x : StrmSt) => x.stopped || x.atRdz
  c.running && (c.sa.atRdz || c.sv.atRdz || c.sm.atRdz) && at_ c.sa && at_ c.sv && at_ c.sm && c.pending.isEmpty && c.ops.isEmpty

/-- A stream leaves its rendezvous with the per-job registers as they stand (R15, R52). -/
def StrmSt.join (x : StrmSt) (v : JobView) (now : Nat) : StrmSt :=
  if x.atRdz then ({ x with atRdz := false, rdz := x.rdz + 1, view := v } : StrmSt).advance.issued (now + 1) else x

/-- Whether the join reads the format table again: `fmtb` has been written since M's last view of it (R77). -/
def State.refills (s : State) : Bool := s.core.sm.atRdz && s.core.sm.view.fmtw != s.core.jobv.fmtw

/-- The banks in back-off that the walk for that read waits at (R324). -/
def State.refillBanks (s : State) : Option (List Nat) :=
  if !s.refills then none
  else match ({ s with cur := .m } : State).xlateAt s.core.jobv.ptb.toNat s.core.jobv.fmtb.toNat .rd with
    | .error (.bank keys) => some keys
    | _ => none

/-- RDZ_JOIN: all waiting streams leave in one cycle (R15). -/
def State.rdzJoin (s : State) : State :=
  let refill := s.refills
  let s1 := s.updC fun c =>
    { c with sa := c.sa.join c.jobv s.now, sv := c.sv.join c.jobv s.now, sm := c.sm.join c.jobv s.now }
  (if refill then s1.fillFmt s1.core.jobv.fmtb.toNat else s1).dropBits .a

def execRdzJoin (s : State) : Out :=
  .next (if !s.canJoin then s
    else match s.refillBanks with
      | some keys => { ({ s with cur := .m } : State).stall keys with cur := s.cur }
      | none => s.rdzJoin)

/-! ### Stream deadlock (R25, R314) -/

/-- The values or tiles a field of a kind pops, and those it pushes (R30). -/
def OpK.pops (kind : OpK) (f : OpField) : Nat :=
  match kind with
  | .sSrc => 1 | .qSrc => 1
  | .vec n _ _ _ => if isP f then n else 1
  | .portOf false n => n
  | _ => 0
def OpK.pushes : OpK → Nat
  | .sDst => 1 | .qDst => 1
  | .vdst n _ _ => n
  | .portOf true n => n
  | _ => 0

/-- What a word takes from, and gives to, the queue or port a field names, over all its fields that name it (R30). -/
def Shape.fields (h : Shape) : List (OpK × OpField) := [(h.d, h.hd.d), (h.a, h.hd.a), (h.b, h.hd.b), (h.c, h.hd.c)]
def Shape.pops (h : Shape) (f : OpField) : Nat := ((h.fields.filter fun x => x.2 == f).map fun x => x.1.pops f).sum
def Shape.pushes (h : Shape) (f : OpField) : Nat := ((h.fields.filter fun x => x.2 == f).map fun x => x.1.pushes).sum

/-- Whether a field names a queue or port that the word, popping and pushing all it names there, cannot use now, and only a stream can change
that (R25, R30, R308). -/
def State.fieldBlocked (s : State) (h : Shape) (f : OpField) : Bool :=
  if isQ f then
    let q := s.core.queue (queueIx f)
    decide (q.length < h.pops f) || decide (16 + h.pops f < q.length + h.pushes f)
  else if isP f then
    let p := s.core.port (portIx f)
    (p.prod != 1 && decide (p.slots.length < h.pops f)) || decide (4 + h.pops f < p.slots.length + h.pushes f)
  else false

/-- Whether a stream waits on a condition that only another stream can satisfy (R25). -/
def State.waitsOnStream (s : State) (k : Strm) : Bool :=
  let x := s.core.strm k
  if x.stopped then false
  else if x.atRdz then true
  else if x.atHdr then
    match s.fetchHdr x x.pc with
    | .ok h => h.hk == 0xA && h.len != 0 && hdrFields h k && !x.handler && !beginOk s.core k h x.ord
    | .error _ => false
  else
    match s.fetchInstr k with
    | .ok i =>
      match instrShape i with
      | some h => h.fields.any fun x => x.1.ok k x.2 && s.fieldBlocked h x.2
      | none => false
    | .error _ => false

/-- Whether an event is taken, or overflows, at the stream's current boundary (R198, R200). -/
def State.takeable (s : State) (k : Strm) : Bool :=
  let x := s.core.strm k
  s.core.live k && (decide (8 < x.held.length) || (!x.held.isEmpty && !x.handler && !x.atHdr && !x.atRdz))

/-- Generators held by a full port: they change nothing while its consumer waits (R25, R223). -/
def Core.stuckGens (c : Core) : List Pag := (c.ports.filter fun p => decide (4 ≤ p.2.slots.length)).filterMap fun p => p.2.gen

/-- Whether a token's outstanding operations are generators held by full ports. -/
def Token.onlyGens (t : Token) (n : Nat) (gens : List Pag) : Bool :=
  (t.closed ++ t.openB.toList).all fun b =>
    decide (b.left ≤ gens.countP fun g => g.tok.any fun r => r.tok == n && r.batch == b.id)

/-- A stream with nothing in flight that could change what it waits for: no token counts another operation than a generator held by a full
port, no event is held, no scalar is awaited, no section has to retire (R25, R314). -/
def State.quiet (s : State) (k : Strm) : Bool :=
  let x := s.core.strm k
  (x.tokens.all fun t => t.2.onlyGens t.1 (if k = .a then s.core.stuckGens else [])) && x.held.isEmpty && x.busy.isEmpty && x.left.isEmpty

/-- Every stream is stopped or waits on another, and no asynchronous operation that could change the outcome is outstanding (R25). -/
def State.deadlocked (s : State) : Bool :=
  let c := s.core
  let stuck := fun (k : Strm) => (c.strm k).stopped || s.waitsOnStream k
  c.running && !c.stopReq && !(c.sa.stopped && c.sv.stopped && c.sm.stopped) && !s.canJoin && stuck .a && stuck .v && stuck .m &&
    s.quiet .a && s.quiet .v && s.quiet .m && c.ops.isEmpty && c.rake.isEmpty && c.fetches.isEmpty && c.pending.isEmpty &&
    (c.ports.all fun p => p.2.gen.isNone || decide (4 ≤ p.2.slots.length))

/-- STREAM_DEADLOCK: the fault at the lowest-numbered waiting stream, with the three program counters (R25, R350). -/
def State.raiseDeadlock (s : State) : State :=
  let k : Strm := if !s.core.sa.stopped then .a else if !s.core.sv.stopped then .v else .m
  let c := s.core
  let own := fun (x : StrmSt) => { x with eva := x.pc }
  let s1 := s.updC fun c => { c with sa := own c.sa, sv := own c.sv, sm := own c.sm }
  (s1.postJob c
    { code := FCode.illegalSection.num, sub := 1, strm := strmNum k, die := c.did, core := c.cid, pc := c.sa.pc.toNat
      addr := c.sv.pc.toNat, info := c.sm.pc.toNat, lrec := c.lrec, job := c.job.toNat }).faultGang

def execStreamDeadlock (s : State) : Out := .next (if s.deadlocked then s.raiseDeadlock else s)

/-! ### Stepping (R53) -/

/-- Whether the job stops for a debugger: a stream has halted after a word it issued, and each other that steps has too, or waits for a
stream (R53). -/
def State.stepDue (s : State) : Bool :=
  let c := s.core
  let done := fun (k : Strm) => !c.live k || !(c.strm k).view.dbg.getLsbD 1 || (c.strm k).stepped || s.waitsOnStream k
  c.running && !c.stopReq && (c.sa.stepped || c.sv.stepped || c.sm.stepped) && done .a && done .v && done .m

/-- Under dbg.STEP the job halts once its streams have each issued a word (R53). -/
def State.stepHalt (s : State) : State :=
  if s.stepDue then s.haltGang s.core.lrec s.core.gangNo .debug else s

/-! ### Job completion (R13) -/

/-- All three streams have stopped, every result has landed, every token reads zero (R13); the accesses without a token have performed
as well (log entry 13). -/
def State.jobDone (s : State) : Bool :=
  let c := s.core
  let zero := fun (x : StrmSt) => x.tokens.all fun t => t.2.count == 0
  c.running && c.sa.stopped && c.sv.stopped && c.sm.stopped && c.pending.isEmpty && zero c.sa && zero c.sv && zero c.sm && c.ops.isEmpty

/-- JOB_COMPLETE: the launch counts the job, its channel ends close, its copies run on (R13, R95, R284). -/
def State.completeJob (s : State) : State :=
  let c := s.core
  let s1 : State := { s with
    orphans := s.orphans ++ s.core.rake
    launches := s.launches.map fun (l : Launch) =>
      if l.lrec == c.lrec then { l with doneJobs := l.doneJobs ++ [c.job.toNat] } else l }
  let s2 : State := { (s1.closeEnds c.lrec c.job.toNat) with core := c.cleared }
  if (s2.gangCores c.lrec c.gangNo).isEmpty && !(s2.saved.any fun v => v.lrec == c.lrec && v.gang == c.gangNo) then s2.giveCores c.node else s2

def execJobComplete (s : State) : Out := .next (if s.jobDone then s.completeJob else s)

/-! ### Asynchronous events (R198, R200) -/

/-- EVENT_TAKEN: the oldest held event enters the handler; a ninth held event faults (R198, R200). -/
def State.takeEvent (s : State) (k : Strm) : Res State :=
  let x := s.core.strm k
  if 8 < x.held.length then trapR (flt .eventOverflow)
  else
    match x.held with
    | [] => .ok s
    | e :: r => (s.updK k fun y => { y with held := r }).enterHandler k e x.linkHere

def execEventTaken (k : Strm) (s : State) : Out :=
  if s.takeable k then outcomeOf s k (s.takeEvent k) else .next s

end Sys2Proof.Machine
end

