-- ==== Sys2Proof/Machine/SpecialRegs.lean ====
section
/-!
DEFINITION. The special registers: RDSR, WRSR and RDCYC over every register of R50, with the views, widths and faults of R51, the
visibility of R52 and the layout of `dbg` (R53).
-/

namespace Sys2Proof.Machine

/-- The special registers (R50). -/
inductive SReg where
  | lc | rrb | evh | evc | eva | epc | job | njob | gang | cid | did | rm | fmtb | cyc | rcb | ptb | dbg | mth | cntc | cnti
  deriving DecidableEq, Repr

/-- The register a number names; others are reserved (R50, R51). -/
def SReg.ofNum (n : Nat) : Option SReg :=
  match n with
  | 0x00 => some .lc | 0x01 => some .rrb | 0x02 => some .evh | 0x03 => some .evc | 0x04 => some .eva | 0x05 => some .epc
  | 0x08 => some .job | 0x09 => some .njob | 0x0A => some .gang | 0x0B => some .cid | 0x0C => some .did
  | 0x0D => some .rm | 0x0E => some .fmtb | 0x0F => some .cyc | 0x10 => some .rcb | 0x11 => some .ptb
  | 0x12 => some .dbg | 0x13 => some .mth | 0x14 => some .cntc | 0x15 => some .cnti
  | _ => none

/-- The width of a register (R50). -/
def SReg.width : SReg → Nat
  | .lc | .evh | .eva | .epc | .fmtb | .cyc | .rcb | .ptb => 64
  | .rrb | .cid => 6
  | .evc | .job | .njob | .dbg | .cntc | .cnti => 32
  | .gang => 2
  | .did => 4
  | .rm => 3
  | .mth => 16

/-- Registers the user view may not name (R50, R51). -/
def SReg.sysOnly : SReg → Bool
  | .rcb | .ptb | .dbg | .mth | .cntc | .cnti => true
  | _ => false

/-- Whether a view may write a register (R50, R51). -/
def SReg.writable (sys : Bool) : SReg → Bool
  | .lc | .rrb | .evh | .epc | .rm | .fmtb => true
  | .evc | .eva | .ptb | .dbg | .mth | .cntc | .cnti => sys
  | .job | .njob | .gang | .cid | .did | .cyc | .rcb => false

/-- The value a register reads in the issuing stream; the reserved link bit of `epc` reads zero (R6, R50, R52, R188, R204). -/
def State.readSpecial (s : State) (r : SReg) : Word :=
  let x := s.strm
  let v := x.view
  let c := s.core
  match r with
  | .lc => x.lc
  | .rrb => x.rrb.zeroExtend 64
  | .evh => x.evh
  | .evc => x.evc.zeroExtend 64
  | .eva => x.eva
  | .epc => x.epc &&& ~~~2#64
  | .job => c.job.zeroExtend 64
  | .njob => c.njob.zeroExtend 64
  | .gang => c.rank.zeroExtend 64
  | .cid => BitVec.ofNat 64 c.cid
  | .did => BitVec.ofNat 64 c.did
  | .rm => v.rm.zeroExtend 64
  | .fmtb => v.fmtb
  | .cyc => BitVec.ofNat 64 s.now
  | .rcb => c.rcb
  | .ptb => v.ptb
  | .dbg => v.dbg.zeroExtend 64
  | .mth => BitVec.ofNat 64 (s.die c.did).mth
  | .cntc => v.cntc.zeroExtend 64
  | .cnti => v.cnti.zeroExtend 64

/-- Change a per-job register: its newest value, and the issuing stream's view of it (R52). -/
def State.updView (s : State) (f : JobView → JobView) : State :=
  (s.updC fun c => { c with jobv := f c.jobv }).upd fun x => { x with view := f x.view }

/-- Write a register the view may write (R50 to R53, R199). A write of `fmtb` in M refills M's copy (R77). -/
def State.writeSpecial (s : State) (r : SReg) (v : Word) : State :=
  match r with
  | .lc => s.upd fun x => { x with lc := v }
  | .rrb => s.upd fun x => { x with rrb := v.truncate 6 }
  | .evh => s.upd fun x => { x with evh := v }
  | .evc => s.upd fun x => { x with evc := v.truncate 32 &&& 0xFFFF#32 }
  | .eva => s.upd fun x => { x with eva := v }
  | .epc => s.upd fun x => { x with epc := v }
  | .rm => s.updView fun j => { j with rm := v.truncate 3 }
  | .fmtb =>
    let s1 := s.updView fun j => { j with fmtb := v, fmtw := j.fmtw + 1 }
    if s.cur = .m then s1.fillFmt v.toNat else s1
  | .ptb => s.updView fun j => { j with ptb := v }
  | .dbg => (s.updView fun j => { j with dbg := (j.dbg &&& 4#32) ||| (v.truncate 32 &&& 3#32) }).dropBits s.cur
  | .mth => s.updDie s.core.did fun d => { d with mth := v.toNat % 65536 }
  | .cntc => s.updView fun j => { j with cntc := v.truncate 32 }
  | .cnti => s.updView fun j => { j with cnti := j.cnti &&& ~~~(v.truncate 32) }
  | _ => s

/-- The register a word names, with the faults of R51 that do not depend on a value. -/
def State.specialOf (s : State) (w : Wi) (write : Bool) : Res SReg :=
  match SReg.ofNum (w.imm.toNat % 256) with
  | none => trapR (flt .illegalOperand)
  | some r =>
    if r.sysOnly && !s.core.sys then trapR (flt .privilege)
    else if write && !r.writable s.core.sys then trapR (flt .illegalOperand)
    else .ok r

/-- RDSR: D receives the register (R204). -/
def State.rdsr (s : State) (w : Wi) : Res State := do
  let h := shI w 8 .sDst .none .none .none
  s.static h
  let r ← s.specialOf w false
  s.await h.hd
  let s1 ← s.writeS w.d (s.readSpecial r) 1
  .ok (s1.retire 1)

def execRdsr (w : Wi) (s : State) : Out := outcome s (s.rdsr w)

/-- Value faults of a write: `rm` 5 to 7, `fmtb` unaligned, `mth` zero, a narrow register's high bits (R51, R323). -/
def specialValueOk (r : SReg) (v : Word) : Res Unit := do
  trapIf (r == .rm && decide (5 ≤ v.toNat) && decide (v.toNat < 8)) (flt .illegalOperand)
  trapIf (r == .fmtb && v.toNat % 64 != 0) (flt .alignment)
  trapIf (r == .mth && v == 0) (flt .illegalOperand)
  trapIf (v.toNat / 2 ^ r.width != 0) (flt .illegalOperand)

/-- WRSR: the register receives A (R51, R204); of `rm` in M it waits until no M result is in flight (R78). -/
def State.wrsr (s : State) (w : Wi) : Res State := do
  let h := shI w 8 .none .sSrc .none .none
  s.static h
  let r ← s.specialOf w true
  let ((a, _, _), s1) ← s.sources h
  specialValueOk r a
  s.await h.hd
  waitUnless (!(r == .rm && s.cur == .m && s.core.pending.any fun p => p.strm == .m))
  .ok ((s1.writeSpecial r a).retire 1)

def execWrsr (w : Wi) (s : State) : Out := outcome s (s.wrsr w)

/-- RDCYC: D receives the die's cycle count (R26, R204). -/
def State.rdcyc (s : State) (w : Wi) : Res State := do
  let h := shI w 0 .sDst .none .none .none
  s.static h
  s.await h.hd
  let s1 ← s.writeS w.d (BitVec.ofNat 64 s.now) 1
  .ok (s1.retire 1)

def execRdcyc (w : Wi) (s : State) : Out := outcome s (s.rdcyc w)

end Sys2Proof.Machine
end

