-- ==== Sys2Proof/Machine/MemOps.lean ====
section
/-!
DEFINITION. The A stream's own memory accesses: scalar and tile loads and stores, gather and scatter, atomics, FENCE and sync words, OP
0x10 to 0x18 (R207 to R221), and the steps in which these accesses perform.
-/

namespace Sys2Proof.Machine

/-! ### Addresses and issue (R208, R210, R212) -/

/-- The effective address A + sext(DISP) (R208). -/
def effAddr (w : Wm) (a : Word) : Nat := (a + sext64 w.disp).toNat

/-- Kinds of access as bits: R 0, W 1, CR 2, CW 3, MR 4, MW 5 (R98, R171). -/
def kR : BitVec 6 := 1
def kW : BitVec 6 := 2
def kRW : BitVec 6 := 3
def kMR : BitVec 6 := 16
def kMW : BitVec 6 := 32

/-- R208's first two checks, for an access of `n` bytes aligned to `al`. -/
def addrCheck (ea n al : Nat) : Res Unit := do
  rangeCheck ea n
  trapIf (ea % al != 0) { code := .alignment, addr := ea }

/-- Join a word's token, waiting while 255 batches are outstanding (R40, R96). -/
def State.joinWord (s : State) (tke : Bool) (tk : Nat) (opn : Bool) : Res (Option TokRef × State) :=
  if tke && !(s.strm.token tk).room opn then .error .wait else .ok (s.joinIf tke tk opn)

def State.joinW (s : State) (w : Wm) : Res (Option TokRef × State) := s.joinWord w.tke w.tk.toNat w.opn

/-- Cycles a request outside the scratchpad stands at its bank before it performs: the model's own, the latency is not fixed
(R212, R324; log entry 23). -/
def bankCycles : Nat := 24

/-- Cycles before a scalar access performs. A scratchpad access returns 12 cycles after issue in the core's own stripe, 20 in
another's: its engine turn is the one before (R85, R212; log entry 23). -/
def State.accessWait (s : State) (key : Nat) : Nat :=
  if isScratchKey key then (if (key / 128) % 4 = s.core.cid % 4 then 11 else 19) else bankCycles

/-- Issue an access: it stands in the core's list until it performs; `vas` gives the address of each of its rows or lanes (R48, R100,
R347, R354). -/
def State.addOpAt (s : State) (cls : Nat) (kinds : BitVec 6) (va : Nat) (vas : List (Nat × Nat)) (body : MBody) (tok : Option TokRef)
    (wait : Nat) : State :=
  let (id, s1) := s.fresh
  (s1.updC fun c => { c.useBanks body.dests with ops := c.ops ++
    [{ id := id, strm := s.cur, cls := cls, kinds := kinds, va := va, vas := vas, body := body, tok := tok
       notBefore := s.now + wait, blocked := [], shd := s.keepsBits, pc := s.strm.pc }] }).fillTlbs (vas.map (·.2))

/-- Issue an access at one address. -/
def State.addOp (s : State) (cls : Nat) (kinds : BitVec 6) (va : Nat) (body : MBody) (tok : Option TokRef) (wait : Nat) : State :=
  s.addOpAt cls kinds va [(0, va)] body tok wait

/-- A scalar access's key: poison is met at the word (R356). -/
def State.scalarKey (s : State) (ea n : Nat) (acc : Acc) (reads : Bool) : Res Nat := do
  let key ← s.xlate ea acc
  trapIf (reads && s.poisonedAt key n) { code := .poison, addr := ea }
  .ok key

/-! ### Scalar loads and stores (R213, R214) -/

/-- The shape of a scalar access. -/
def shLd (w : Wm) : Shape := shM w .none false 1 24 .sDst .sSrc .none .none
def shSt (w : Wm) : Shape := shM w .none false 1 24 .none .sSrc .sSrc .none

/-- A scalar load of `n` bytes (R213). -/
def State.load (s : State) (w : Wm) (n : Nat) (signed : Bool) : Res State := do
  s.static (shLd w)
  let ((a, _, _), s1) ← s.sources (shLd w)
  let ea := effAddr w a
  addrCheck ea n n
  let key ← s.scalarKey ea n .rd true
  s.await w.toHd
  let (d, s2) ← s1.reserveS w.d
  .ok ((s2.addOp w.cls.toNat kR ea (.load key n signed d) none (s.accessWait key)).retire 1)

/-- Stores of a stream waiting in a class's queue (R214). -/
def State.storesIn (s : State) (cls : Nat) : Nat :=
  s.core.ops.countP fun o => o.strm == s.cur && o.cls == cls && (match o.body with | .store _ _ => true | _ => false)

/-- A scalar store of `n` bytes: the data is read at issue, a full class queue waits (R214). -/
def State.store (s : State) (w : Wm) (n : Nat) : Res State := do
  s.static (shSt w)
  let ((a, b, _), s1) ← s.sources (shSt w)
  let ea := effAddr w a
  addrCheck ea n n
  let key ← s.scalarKey ea n .wr false
  s.await w.toHd
  waitUnless (decide (s.storesIn w.cls.toNat < 16))
  .ok ((s1.addOp w.cls.toNat kW ea (.store key (leBytes n b.toNat)) none (s.accessWait key)).retire 1)

/-- LD.B (R213). -/
def execLdB (w : Wm) (s : State) : Out := outcome s (s.load w 1 true)
/-- LD.BN (R213). -/
def execLdBn (w : Wm) (s : State) : Out := outcome s (s.load w 1 false)
/-- LD.H (R213). -/
def execLdH (w : Wm) (s : State) : Out := outcome s (s.load w 2 true)
/-- LD.HN (R213). -/
def execLdHn (w : Wm) (s : State) : Out := outcome s (s.load w 2 false)
/-- LD.W (R213). -/
def execLdW (w : Wm) (s : State) : Out := outcome s (s.load w 4 true)
/-- LD.WN (R213). -/
def execLdWn (w : Wm) (s : State) : Out := outcome s (s.load w 4 false)
/-- LD.D (R213). -/
def execLdD (w : Wm) (s : State) : Out := outcome s (s.load w 8 false)
/-- ST.B (R214). -/
def execStB (w : Wm) (s : State) : Out := outcome s (s.store w 1)
/-- ST.H (R214). -/
def execStH (w : Wm) (s : State) : Out := outcome s (s.store w 2)
/-- ST.W (R214). -/
def execStW (w : Wm) (s : State) : Out := outcome s (s.store w 4)
/-- ST.D (R214). -/
def execStD (w : Wm) (s : State) : Out := outcome s (s.store w 8)

/-! ### Tile accesses (R215) -/

/-- The row stride: 128 when B is s0, else B's value (R215). -/
def rowStride (w : Wm) (b : Word) : Word := if w.b.toNat = 696 then 128 else b

/-- The rows of a tile access, each checked and translated: row number and key (R208, R215). -/
def State.tileRows (s : State) (acc : Acc) (ea stride : Word) (k : Nat) : Nat → Res (List (Nat × Nat))
  | 0 => .ok []
  | n + 1 => do
    let va := (ea + BitVec.ofNat 64 k * stride).toNat
    rangeCheck va 128
    let key ← s.xlate va acc
    let r ← s.tileRows acc ea stride (k + 1) n
    .ok ((k, key) :: r)

/-- The checks and translation of a tile access of `n` registers (R208, R215). -/
def State.tileAddr (s : State) (w : Wm) (acc : Acc) (a b : Word) : Res (List (Nat × Nat)) := do
  let ea := a + sext64 w.disp
  let st := rowStride w b
  rangeCheck ea.toNat 128
  trapIf (ea.toNat % 128 != 0 || st.toNat % 128 != 0) { code := .alignment, addr := ea.toNat }
  s.tileRows acc ea st 0 (16 * 2 ^ w.sz.toNat)

/-- The addresses of the rows of a tile access (R215). -/
def tileVas (w : Wm) (a b : Word) : List (Nat × Nat) :=
  (List.range (16 * 2 ^ w.sz.toNat)).map fun k => (k, (a + sext64 w.disp + BitVec.ofNat 64 k * rowStride w b).toNat)

/-- Those who wait for a core's memory port, in the order in which they came: each asks again in every cycle (R22). -/
def Core.portWaits (c : Core) (now : Nat) : List (PortUser × Nat) := c.portQ.filter fun q => decide (now ≤ q.2 + 1)

/-- Whether a user may take the memory port now for some cycles: it is free for them, and nobody waits for it before this user (R9, R22). -/
def State.portFree (s : State) (u : PortUser) (cycles : Nat) : Bool :=
  (decide (s.core.portBusy ≤ s.now) || decide (s.now + cycles ≤ s.core.portFrom)) &&
    (s.core.portWaits s.now).head?.all fun q => q.1 == u

/-- A user waits for the memory port behind those who wait already (R22; log entry 47). -/
def State.standAtPort (s : State) (u : PortUser) : State :=
  let w := s.core.portWaits s.now
  let q := if w.any fun q => q.1 == u then w.map fun q => if q.1 == u then (u, s.now) else q else w ++ [(u, s.now)]
  s.updC fun c => { c with portQ := q }

/-- A user takes the memory port from `lead` cycles from now on (R75, R212). -/
def State.holdPort (s : State) (u : PortUser) (lead cycles : Nat) : State :=
  s.updC fun c =>
    { c with portFrom := s.now + lead
             portBusy := if s.now < c.portBusy then c.portBusy else s.now + lead + cycles
             portQ := (c.portWaits s.now).filter fun q => q.1 != u }

/-- A word takes the memory port and goes on from `s1`, or stands at issue until it may (R9, R22, R212). -/
def State.withPort (s : State) (u : PortUser) (lead cycles : Nat) (s1 : State) (go : State → Res State) : Res State :=
  if s.portFree u (lead + cycles) then go (s1.holdPort u lead cycles) else .ok (s.standAtPort u)

/-- LDV: reads rows into registers asynchronously (R215). -/
def State.ldvWord (s : State) (w : Wm) : Res State := do
  let h := shTile w true (vr w) .sSrc .sSrc .none
  s.static h
  let ((a, b, _), s1) ← s.sources h
  let rows ← s.tileAddr w .rd a b
  s.await w.toHd
  let n := 2 ^ w.sz.toNat
  s.withPort (.strm .a) 0 (8 * n) s1 fun s2 => do
    let (t, s3) ← s2.joinW w
    s.shadow h
    .ok ((s3.addOpAt w.cls.toNat kR (effAddr w a) (tileVas w a b) (.ldv rows (s.physRange w.d.toNat n) (s.pred w.toHd)) t 0).retire 1)

def execLdv (w : Wm) (s : State) : Out := outcome s (s.ldvWord w)

/-- LDVP: reads rows into reserved slots of a port (R215). -/
def State.ldvpWord (s : State) (w : Wm) : Res State := do
  let h := shTile w false (.portOf true (2 ^ w.sz.toNat)) .sSrc .sSrc .none
  s.static h
  let ((a, b, _), s1) ← s.sources h
  let rows ← s.tileAddr w .rd a b
  s.await w.toHd
  let n := 2 ^ w.sz.toNat
  s.withPort (.strm .a) 0 (8 * n) s1 fun s2 => do
    let (t, s3) ← s2.joinW w
    let (slots, s4) ← s3.reservePort (portIx w.d) n
    s.shadow h
    .ok ((s4.addOpAt w.cls.toNat kR (effAddr w a) (tileVas w a b)
      (.ldvp rows (portIx w.d) slots (s.pred w.toHd) (List.replicate n [])) t 0).retire 1)

def execLdvp (w : Wm) (s : State) : Out := outcome s (s.ldvpWord w)

/-- STV and STVP: the registers or tiles are read whole at issue, then the rows are written (R215). -/
def State.stvWord (s : State) (w : Wm) (c : OpK) : Res State := do
  let h := shTile w false .none .sSrc .sSrc c
  s.static h
  let ((a, b, _), s1) ← s.sources { h with c := .none }
  let rows ← s.tileAddr w .wr a b
  s.await w.toHd
  let n := 2 ^ w.sz.toNat
  let (v, s2) ← s1.readV w.c n
  s.withPort (.strm .a) 0 (8 * n) s2 fun s3 => do
    let (t, s4) ← s3.joinW w
    s.shadow h
    let data := match v with | .tiles l => l | .all _ => []
    .ok ((s4.addOpAt w.cls.toNat kW (effAddr w a) (tileVas w a b) (.stv rows data (s.pred w.toHd)) t 0).retire 1)

def execStv (w : Wm) (s : State) : Out := outcome s (s.stvWord w (vr w))
def execStvp (w : Wm) (s : State) : Out := outcome s (s.stvWord w (.portOf false (2 ^ w.sz.toNat)))

/-! ### Gather and scatter (R216) -/

/-- Lane `n`'s index from the index register or pair (R216). -/
def laneIndex (w : Wm) (l : List VReg) (n : Nat) : Int :=
  let lo := (Sparse.get (l.getD 0 []) n).toNat
  let hi := (Sparse.get (l.getD 1 []) n).toNat
  let iw := bitsOf w.disp.toNat 23 22
  let bits := if iw = 0 then 8 else if iw = 1 then 16 else 32
  let raw := (lo + 65536 * hi) % 2 ^ bits
  if w.disp.getLsbD 21 then sextNat bits raw else raw

/-- Lane `n`'s element address (R216). -/
def laneAddr (w : Wm) (a : Word) (l : List VReg) (n : Nat) : Nat :=
  (a + BitVec.ofInt 64 (sextNat 16 w.disp.toNat) + BitVec.ofInt 64 (laneIndex w l n * (2 ^ bitsOf w.disp.toNat 20 18 : Nat))).toNat

/-- One check of the addresses of lanes. -/
def laneChecks (chk : Nat → Res Unit) (addr : Nat → Nat) : List Nat → Res Unit
  | [] => .ok ()
  | n :: r => do
    chk (addr n)
    laneChecks chk addr r

/-- Natural alignment (R208, R216). -/
def alignCheck (n ea : Nat) : Res Unit := trapIf (ea % n != 0) { code := .alignment, addr := ea }

/-- Translate the addresses of lanes (R216). -/
def State.laneXlate (s : State) (acc : Acc) (addr : Nat → Nat) : List Nat → Res (List (Nat × Nat))
  | [] => .ok []
  | n :: r => do
    let key ← s.xlate (addr n) acc
    let l ← s.laneXlate acc addr r
    .ok ((n, key) :: l)

/-- The keys of lanes: every address is checked by R82 and R86, then every one for its alignment, before any is translated (R208, R216). -/
def State.laneKeys (s : State) (acc : Acc) (size : Nat) (addr : Nat → Nat) (lanes : List Nat) : Res (List (Nat × Nat)) := do
  laneChecks (fun a => rangeCheck a size) addr lanes
  laneChecks (alignCheck size) addr lanes
  s.laneXlate acc addr lanes

/-- Bytes of a gathered element (R216). -/
def elemSize (w : Wm) : Nat := if w.sz = 2 then 4 else 2

/-- The register images of a source that cannot be a scalar. -/
def VSrc.images (v : VSrc) : List VReg := match v with | .tiles l => l | .all _ => []

/-- A gather or scatter goes to its banks; one with no element has performed (R321). -/
def State.addElems (s : State) (w : Wm) (kinds : BitVec 6) (a : Word) (vas : List (Nat × Nat)) (body : MBody) (tok : Option TokRef) : State :=
  if vas.isEmpty then s.endOp tok none else s.addOpAt w.cls.toNat kinds a.toNat vas body tok 0

/-- LDG: the port moves its elements in the time of as many register rows (R7, R212, R216, R321; log entry 48). -/
def State.ldgWord (s : State) (w : Wm) : Res State := do
  let h := shGather w true
  s.static h
  let ((a, _, _), s1) ← s.sources { h with b := .none }
  let iw := bitsOf w.disp.toNat 23 22
  let (ix, _) ← s.readV w.b (if iw = 2 then 2 else 1)
  let n := elemSize w
  let keys ← s.laneKeys .rd n (laneAddr w a ix.images) (predLanes (s.pred w.toHd))
  s.await w.toHd
  s.withPort (.strm .a) 0 (if keys.isEmpty then 0 else 4 * n) s1 fun s2 => do
    let (t, s3) ← s2.joinW w
    s.shadow h
    .ok ((s3.addElems w kR a (keys.map fun k => (k.1, laneAddr w a ix.images k.1)) (.ldg keys n (s.physRange w.d.toNat (n / 2))) t).retire 8)

def execLdg (w : Wm) (s : State) : Out := outcome s (s.ldgWord w)

/-- STG (R216, R321). -/
def State.stgWord (s : State) (w : Wm) : Res State := do
  let h := shGather w false
  s.static h
  let ((a, _, _), s1) ← s.sources { h with b := .none, c := .none }
  let iw := bitsOf w.disp.toNat 23 22
  let (ix, _) ← s.readV w.b (if iw = 2 then 2 else 1)
  let n := elemSize w
  let keys ← s.laneKeys .wr n (laneAddr w a ix.images) (predLanes (s.pred w.toHd))
  s.await w.toHd
  let (v, _) ← s.readV w.c (n / 2)
  let val := fun (l : Nat) => elemBits (if n = 4 then .n32 else .n16) v.images (l / 64) (l % 64)
  s.withPort (.strm .a) 0 (if keys.isEmpty then 0 else 4 * n) s1 fun s2 => do
    let (t, s3) ← s2.joinW w
    s.shadow h
    .ok ((s3.addElems w kW a (keys.map fun k => (k.1, laneAddr w a ix.images k.1)) (.stg (keys.map fun k => (k.1, k.2, val k.1)) n) t).retire 8)

def execStg (w : Wm) (s : State) : Out := outcome s (s.stgWord w)

/-! ### Atomics (R217) -/

/-- An atomic of function `fn` (R217). -/
def State.atomicWord (s : State) (w : Wm) (fn : Nat) : Res State := do
  let h := shM w .none false 0xF 24 .sDst .sSrc .sSrc (if fn = 9 then .sSrc else .none)
  s.static h
  let ((a, b, c), s1) ← s.sources h
  let ea := effAddr w a
  let n := 2 ^ w.sz.toNat
  addrCheck ea n n
  let key ← s.scalarKey ea n (.atom n) true
  s.await w.toHd
  let (d, s2) ← s1.reserveS w.d
  let m := 2 ^ (8 * n)
  .ok ((s2.addOp w.cls.toNat kRW ea (.atomic fn key n (b.toNat % m) (c.toNat % m) d) none (s.accessWait key)).retire 1)

/-- AADD, the atomic (R217). -/
def execAaddAtomic (w : Wm) (s : State) : Out := outcome s (s.atomicWord w 0)
/-- AAND (R217). -/
def execAand (w : Wm) (s : State) : Out := outcome s (s.atomicWord w 1)
/-- AOR (R217). -/
def execAor (w : Wm) (s : State) : Out := outcome s (s.atomicWord w 2)
/-- AXOR (R217). -/
def execAxor (w : Wm) (s : State) : Out := outcome s (s.atomicWord w 3)
/-- AMIN, signed (R217). -/
def execAmin (w : Wm) (s : State) : Out := outcome s (s.atomicWord w 4)
/-- AMAX, signed (R217). -/
def execAmax (w : Wm) (s : State) : Out := outcome s (s.atomicWord w 5)
/-- AMINN, unsigned (R217). -/
def execAminn (w : Wm) (s : State) : Out := outcome s (s.atomicWord w 6)
/-- AMAXN, unsigned (R217). -/
def execAmaxn (w : Wm) (s : State) : Out := outcome s (s.atomicWord w 7)
/-- ASWP (R217). -/
def execAswp (w : Wm) (s : State) : Out := outcome s (s.atomicWord w 8)
/-- ACAS (R217). -/
def execAcas (w : Wm) (s : State) : Out := outcome s (s.atomicWord w 9)

/-! ### FENCE (R101, R218) -/

/-- Whether an access belongs to a FENCE's earlier set: the fencing stream's own of its kinds and classes, and, where MR or MW is a
predecessor and the scope is core or wider, every matrix access of M (R101). -/
def inEarlier (k : Strm) (w : Wf) (o : MOp) : Bool :=
  (o.strm == k && o.kinds &&& w.pred != 0 && w.clm.getLsbD o.cls) ||
    (decide (w.scope.toNat ≥ 1) && w.pred &&& 0x30#6 != 0 && o.strm == .m && o.kinds &&& 0x30#6 != 0)

/-- Whether copies, windows, generators, migrations or exchanges of the stream with a predecessor kind and class are unfinished
(R98, R101). CR is bit 2 and CW bit 3. -/
def State.copiesPending (s : State) (w : Wf) : Bool :=
  let c := s.core
  let cls := fun (n : Nat) => w.clm.getLsbD n
  let own := fun (lrec job : Nat) => lrec == c.lrec && job == c.job.toNat
  s.cur == .a && w.pred &&& 0xC#6 != 0 &&
    (c.rake.any (fun k => cls k.cls) || c.fetches.any (fun f => cls f.cls)
      || (w.pred.getLsbD 2 && c.ports.any fun p => match p.2.gen with | some g => cls g.cls | none => false)
      || s.migs.any (fun m => own m.lrec m.job && cls m.cls)
      || (s.die c.did).kops.any fun o => own o.lrec o.job && cls o.cls && (match o.cmd with
        | .kvw _ _ _ _ => true | .stat _ _ _ => true | _ => false))

/-- FENCE: waits until the earlier set has performed (R101, R218). -/
def State.fence (s : State) (w : Wf) : Res State := do
  s.static (shFence w)
  s.await w.toHd
  let empty := w.pred == 0 || w.succ == 0 || w.clm == 0
  waitUnless (empty || (!s.core.ops.any (inEarlier s.cur w) && !s.copiesPending w))
  .ok (s.retire 1)

def execFence (w : Wf) (s : State) : Out := outcome s (s.fence w)

/-! ### Sync words (R88, R219 to R221) -/

/-- The key of a sync word (R88, R208). -/
def State.syncKey (s : State) (ea : Nat) (acc : Acc) : Res Nat := do
  addrCheck ea 16 16
  s.scalarKey ea 16 acc (acc != .wr)

/-- SWINIT: writes the whole sync word (R219). -/
def State.swinit (s : State) (w : Wm) : Res State := do
  let h := shM w .none false 1 24 .none .sSrc .sSrc .sSrc
  s.static h
  let ((a, b, c), s1) ← s.sources h
  let ea := effAddr w a
  addrCheck ea 16 16
  let key ← s.scalarKey ea 16 .sync false
  trapIf (b.toNat / 2 ^ 32 != 0 || c.toNat / 2 ^ 32 != 0) (flt .illegalOperand)
  s.await w.toHd
  waitUnless (decide (s.storesIn w.cls.toNat < 16))
  .ok ((s1.addOp w.cls.toNat kW ea (.store key (leBytes 16 (b.toNat + c.toNat * 2 ^ 64))) none (s.accessWait key)).retire 1)

def execSwinit (w : Wm) (s : State) : Out := outcome s (s.swinit w)

/-- Whether a sync word shows an advance past an observed generation, or ERR (R220). -/
def syncShows (word observed : Nat) : Bool :=
  let d := (bitsOf word 95 64 + 2 ^ 32 - observed % 2 ^ 32) % 2 ^ 32
  (decide (1 ≤ d) && decide (d < 2 ^ 31)) || word.testBit 97

/-- SWWAIT's result: abandon flag, ERR, OVF, GEN (R220). -/
def syncResult (word : Nat) (abandoned : Bool) : Word :=
  BitVec.ofNat 64 (bitsOf word 97 96 * 2 ^ 32 + bitsOf word 95 64 + (if abandoned then 2 ^ 63 else 0))

/-- A read that a word at issue makes itself: it waits for its link, its stripe or its bank (R85, R324, R331). -/
def State.readGate (s : State) (keys : List Nat) : Res Unit :=
  match s.gate keys [] with
  | .go => .ok ()
  | .wait => .error .wait
  | .bank => .error (.bank keys)

/-- SWWAIT: the read with which it begins to watch and the one that completes it go to the word's bank (R323, R324). It completes when the word shows an advance or ERR; otherwise with `nb` it gives up, and without it watches (R220). -/
def State.swwaitWord (s : State) (w : Wm) : Res State := do
  let h := shM w .none false 3 24 .sDst .sSrc .sSrc .none
  s.static h
  let ((a, b, _), s1) ← s.sources h
  let ea := effAddr w a
  addrCheck ea 16 16
  let key ← s.scalarKey ea 16 .watch true
  s.await w.toHd
  let ready := !s.core.ops.any fun o => o.strm == s.cur && o.cls == w.cls.toNat
  let word := s.natAt key 16
  let shows := syncShows word b.toNat
  let nb := w.sz.getLsbD 0
  if ready && (shows || nb) then
    s.readGate [key]
    let s2 ← (s1.touchRow key).writeS w.d (syncResult word (!shows)) 1
    .ok ((s2.upd fun x => { x with swwait := none }).retire 1)
  else if s.strm.swwait.isSome then .ok s
  else
    s.readGate [key]
    .ok (((s.touchRow key).fillTlb ea).upd fun x => { x with swwait := some w })

def execSwwait (w : Wm) (s : State) : Out := outcome s (s.swwaitWord w)

/-- SWWAIT_COMPLETE: the watched word has advanced or shows ERR (R220). -/
def execSwwaitComplete (s : State) : Out :=
  match s.core.sa.swwait with
  | some w => if s.core.live .a then outcomeOf s .a ({ s with cur := .a }.swwaitWord w) else .next s
  | none => .next s

/-- SWADD: adds to the sync word after the stream's earlier writes of its class (R221). -/
def State.swadd (s : State) (w : Wm) : Res State := do
  let h := shM w .none false 1 24 .none .sSrc .sSrc .none
  s.static h
  let ((a, b, _), s1) ← s.sources h
  let ea := effAddr w a
  addrCheck ea 16 16
  let key ← s.scalarKey ea 16 .sync true
  trapIf (b.toNat / 2 ^ 32 != 0) (flt .illegalOperand)
  s.await w.toHd
  .ok ((s1.addOp w.cls.toNat kRW ea (.swadd key b.toNat) none (s.accessWait key)).retire 1)

def execSwadd (w : Wm) (s : State) : Out := outcome s (s.swadd w)

/-! ### Accesses perform (R84, R100, R324) -/

/-- Whether an access writes memory. -/
def MOp.writes (o : MOp) : Bool := o.kinds &&& 0x2A#6 != 0

/-- Cycles a row or element of an access takes to its scratchpad stripe and back (R85); a scalar access has them in `notBefore`. -/
def State.stripeWait (s : State) (o : MOp) (p : Part) : Nat :=
  if o.body.isScalar then 0
  else (p.reads ++ p.writes).foldl (fun n k => if isScratchKey k then max n (s.accessWait k) else n) 0

/-- The page of CXL memory a key lies in. -/
def cxlPage (key : Nat) : Option Nat := if cxlBase ≤ key ∧ key < flashBase then some ((key - cxlBase) / 65536) else none

/-- Whether an access of the same class reaches a key's page on the other path to host memory: the keys it has still to reach, and whether it is
an atomic (R330). -/
def State.crosses (s : State) (key : Nat) (atom : Bool) (keys : List Nat) (atom2 : Bool) : Bool :=
  (cxlPage key).isSome && keys.any fun k => cxlPage k == cxlPage key &&
    s.linkPath k atom2 != s.linkPath key atom

/-- The keys an access has still to reach, and whether it is an atomic. -/
def MOp.keys (o : MOp) : List Nat := o.body.parts.flatMap fun p => p.reads ++ p.writes
def MOp.isAtomic (o : MOp) : Bool := match o.body with | .atomic _ _ _ _ _ _ => true | .swadd _ _ => true | _ => false

/-- The keys a copy has still to reach. -/
def Copy.keys (k : Copy) : List Nat := k.todo.flatMap fun c => [keyIn k.pages c.src] ++ if k.send.isSome then [] else [keyIn k.pages c.dst]

/-- The keys of the tensor rows a window fetch has still to reach. -/
def State.fetchKeys (s : State) (f : WFetch) : List Nat :=
  f.todo.filterMap fun p => p.src.bind fun va => match ({ s with cur := .a } : State).xlate va .rd with | .ok k => some k | .error _ => none

/-- Whether an access of a class issued as `id` must wait for an older one of its class that is outstanding on the other path to the same page of
host memory (R330). -/
def State.pathHeld (s : State) (id cls key : Nat) (atom : Bool) : Bool :=
  (cxlPage key).isSome &&
    ((s.core.ops.any fun o => decide (o.id < id) && o.cls == cls && s.crosses key atom o.keys o.isAtomic) ||
      (s.core.rake.any fun k => decide (k.id < id) && k.cls == cls && s.crosses key atom k.keys false) ||
      s.core.fetches.any fun f => decide (f.id < id) && f.cls == cls && s.crosses key atom (s.fetchKeys f) false)

/-- Whether a part of an access may perform: no older access of its stream and class stands before it, none of its class is outstanding on the
other path to its page, its time has come (R85, R100, R212, R330). -/
def State.canPerform (s : State) (o : MOp) (p : Part) : Bool :=
  oldestOfClass s.core.ops o && decide (o.notBefore + o.pace p.ix + s.stripeWait o p ≤ s.now) &&
    !(p.reads ++ p.writes).any fun k => s.pathHeld o.id o.cls k o.isAtomic

/-- The cycle an access reached its bank: a scalar access when it issued, a part of another as it comes to it (R324). -/
def MOp.reached (o : MOp) (now : Nat) : Nat :=
  match o.body with
  | .load _ _ _ _ | .store _ _ | .atomic _ _ _ _ _ _ | .swadd _ _ | .desc _ => o.notBefore - bankCycles
  | _ => now

/-- Parts of an access meet a back-off: they wait at the bank from the cycle they reached it on (R324). -/
def State.blockOp (s : State) (o : MOp) (parts : List Part) : State :=
  let new := parts.flatMap fun p => s.newBlocks o.blocked (64 * p.ix) (o.reached s.now) (p.reads ++ p.writes)
  if new.isEmpty then s
  else s.updC fun c => { c with ops := c.ops.map fun x => if x.id = o.id then { x with blocked := x.blocked ++ new } else x }

/-- The result a late access was to deliver does not come: its scalar keeps its value, its slot of a queue goes. -/
def Core.undeliver (c : Core) (d : SDest) : Core :=
  match d with
  | .none => c
  | .scal k n => c.setStrm k { c.strm k with busy := (c.strm k).busy.erase n }
  | .queue q id => c.setQueue q ((c.queue q).filter (· != .res id))

/-- A scalar access meets a page of host memory that the failed link refuses: a translation fault at the word that issued it, and no effect
(R331; log entry 33). -/
def State.refuseScalar (s : State) (o : MOp) : State :=
  let d := match o.body with | .load _ _ _ d => d | .atomic _ _ _ _ _ d => d | _ => .none
  { (s.endMop o none).updC (fun c => c.undeliver d) with cur := o.strm }.raise
    { code := .translation, sub := 2, addr := o.va, at_ := some o.pc }

/-- One attempt to perform the first of some parts of an access that nothing stands in the way of. -/
def State.attempt (s : State) (id : Nat) (fits : MBody → Bool) (pick : Part → Bool) : State :=
  match s.core.ops.find? fun o => o.id == id with
  | none => s
  | some o =>
    if !fits o.body then s
    else
      let due := o.body.parts.filter fun p => pick p && s.canPerform o p
      match due.find? fun p => (p.reads ++ p.writes).any s.linkFailed with
      | some p => if o.body.isScalar then s.refuseScalar o else s.refusePart o p.ix
      | none =>
        match due.find? fun p => s.gate p.reads p.writes == .go with
        | some p => s.performPart o p.ix
        | none => s.blockOp o (due.filter fun p => s.gate p.reads p.writes == .bank)

/-- LOAD_DATA_RETURN: a scalar load, or the read of a descriptor (R210, R213). -/
def execLoadDataReturn (id : Nat) (s : State) : Out :=
  .next (s.attempt id (fun b => match b with | .load _ _ _ _ => true | .desc _ => true | _ => false) fun _ => true)

/-- STORE_PERFORM (R214). -/
def execStorePerform (id : Nat) (s : State) : Out :=
  .next (s.attempt id (fun b => match b with | .store _ _ => true | _ => false) fun _ => true)

/-- ATOMIC_PERFORM: an atomic, or SWADD's update (R217, R221). -/
def execAtomicPerform (id : Nat) (s : State) : Out :=
  .next (s.attempt id (fun b => match b with | .atomic _ _ _ _ _ _ => true | .swadd _ _ => true | _ => false) fun _ => true)

/-- TILE_LOAD_COMPLETE: a row of a tile load or store, or of a stored matrix image, performs, the last one ending the batch
(R45, R215, R274). -/
def execTileLoadComplete (id row : Nat) (s : State) : Out :=
  .next (s.attempt id (fun b => match b with
    | .ldv _ _ _ => true | .ldvp _ _ _ _ _ => true | .stv _ _ _ => true | .astr _ _ _ _ => true | _ => false) fun p => p.ix == row)

/-- GATHER_COMPLETE: an element of a gather or scatter performs, the last one ending the batch (R45, R216, R321). -/
def execGatherComplete (id : Nat) (s : State) : Out :=
  .next (s.attempt id (fun b => match b with | .ldg _ _ _ => true | .stg _ _ => true | _ => false) fun _ => true)

/-- TILE_IMAGE_LOAD_COMPLETE: a row of an image is read; the last one of an ALDR or ALDC writes its tile, or an error every lane of it NV (R274). -/
def execTileImageLoadComplete (id : Nat) (s : State) : Out :=
  .next (s.attempt id (fun b => match b with | .aldr _ _ _ _ _ _ => true | _ => false) fun _ => true)

end Sys2Proof.Machine
end

