-- ==== Sys2Proof/Machine/Engines.lean ====
section
/-!
DEFINITION. Ports and their generators, windows, Rake copies, batches and waits, engine command queues: OP 0x19 to 0x1C (R91 to
R97, R222 to R233), and the steps of these engines.
-/

namespace Sys2Proof.Machine

/-- R103 and the descriptor's place in class order: the stream's earlier accesses of the class have performed. -/
def State.classDrained (s : State) (cls : Nat) : Bool := !s.core.ops.any fun o => o.strm == s.cur && o.cls == cls

/-- The key of a 64-byte descriptor at a 64-byte aligned address (R208, R210). -/
def State.descKey (s : State) (ea : Nat) : Res Nat := do
  addrCheck ea 64 64
  s.xlate ea .rd

/-- A word that takes a descriptor awaits its token and issues the descriptor's read, a load of kind R in its class; it stands at issue in
the state given until the bytes have come, and goes on with them (R100, R210, R283). -/
def State.descriptor (s : State) (w : Wm) (a : Word) : Res (State ⊕ List Byte) := do
  let ea := effAddr w a
  let key ← s.descKey ea
  s.await w.toHd
  match s.strm.desc with
  | none =>
    let s1 := s.addOp w.cls.toNat kR ea (.desc key) none (s.accessWait key)
    .ok (.inl (s1.upd fun x => { x with desc := some { id := s.ids, data := none } }))
  | some d =>
    match d.data with
    | none => .error .wait
    | some (.error f) => trapR f
    | some (.ok bs) => .ok (.inr bs)

/-- Go on with a descriptor, or stand at issue while it is read. -/
def withDesc (r : Res (State ⊕ List Byte)) (go : List Byte → Res State) : Res State :=
  match r with
  | .error h => .error h
  | .ok (.inl t) => .ok t
  | .ok (.inr bs) => go bs

/-- A little-endian field of a record. -/
def fieldNat (bs : List Byte) (off n : Nat) : Nat := leNat ((bs.drop off).take n)
def fieldInt (bs : List Byte) (off n : Nat) : Int := sextNat (8 * n) (fieldNat bs off n)

/-! ### Ports (R222 to R224) -/

/-- Whether a producer and a consumer code are of one stream (R222). -/
def sameStream (prod cons : Nat) : Bool := (prod == 0 && cons == 0) || (prod == 2 && cons == 1) || (prod == 3 && cons == 2)

/-- PCFG (R222). -/
def State.pcfg (s : State) (w : Wm) : Res State := do
  s.static (shPcfg w)
  let prod := bitsOf w.disp.toNat 1 0
  let cons := bitsOf w.disp.toNat 3 2
  let p := s.core.port (portIx w.d)
  trapIf (sameStream prod cons) (flt .illegalOperand)
  trapIf (!p.slots.isEmpty || p.gen.isSome) (fltS .illegalOperand 9)
  s.await w.toHd
  .ok ((s.updC fun c => c.setPort (portIx w.d) { configured := true, prod := prod, cons := cons, slots := [], gen := none }).retire 1)

def execPcfg (w : Wm) (s : State) : Out := outcome s (s.pcfg w)

/-- A generator's descriptor within its limits (R223; a misaligned BASE is an alignment fault, log entry 21). -/
def pagOf (bs : List Byte) (cls : Nat) (tok : Option TokRef) : Res Pag := do
  let base := fieldNat bs 0 8
  let rstr := fieldInt bs 8 8
  let n0 := fieldNat bs 16 4
  let n1 := fieldNat bs 20 4
  let n2 := fieldNat bs 24 4
  let s0 := fieldInt bs 32 8
  let s1 := fieldInt bs 40 8
  let s2 := fieldInt bs 48 8
  trapIf (base % 128 != 0) { code := .alignment, addr := base }
  trapIf (rstr % 128 != 0 || s0 % 128 != 0 || s1 % 128 != 0 || s2 % 128 != 0 || n0 == 0 || n1 == 0 || n2 == 0
    || decide (n0 * n1 * n2 ≥ 2 ^ 32) || fieldNat bs 28 4 != 0 || fieldNat bs 56 8 != 0) (flt .illegalOperand)
  .ok { base := base, rstr := if rstr = 0 then 128 else rstr, n0 := n0, n1 := n1, n2 := n2, s0 := s0, s1 := s1, s2 := s2
        pos := 0, cls := cls, tok := tok, blocked := [] }

/-- PGO: start the port's generator; the word's own faults wait for no token and no descriptor (R174, R223). -/
def State.pgo (s : State) (w : Wm) : Res State := do
  let h := shM w .opt true 1 24 .portAny .sSrc .none .none
  s.static h
  let ((a, _, _), s1) ← s.sources h
  let _ ← s.descKey (effAddr w a)
  let p := s.core.port (portIx w.d)
  trapIf (p.prod != 1 || p.gen.isSome) (flt .illegalOperand)
  withDesc (s.descriptor w a) fun bs => do
    let g ← pagOf bs w.cls.toNat none
    let (t, s2) ← s1.joinW w
    .ok ((s2.updC fun c => c.setPort (portIx w.d) { p with gen := some { g with tok := t } }).retire 1)

def execPgo (w : Wm) (s : State) : Out := outcome s (s.pgo w)

/-- Stop a port's generator: its batch ends (R224). -/
def State.stopGen (s : State) (n : Nat) : State :=
  match (s.core.port n).gen with
  | none => s
  | some g => (s.updC fun c => c.setPort n { c.port n with gen := none }).endOp g.tok none

/-- PSTOP (R224). -/
def State.pstop (s : State) (w : Wm) : Res State := do
  s.static (shM0 w .none 1 0 .portAny .none .none .none)
  s.await w.toHd
  .ok ((s.stopGen (portIx w.d)).retire 1)

def execPstop (w : Wm) (s : State) : Out := outcome s (s.pstop w)

/-- End the LDVPs of a list that are bound for a port (R224). -/
def State.dropLdvp (s : State) (n : Nat) : List MOp → State
  | [] => s
  | o :: r =>
    match o.body with
    | .ldvp _ p _ _ _ => if p = n then (s.endMop o none).dropLdvp n r else s.dropLdvp n r
    | _ => s.dropLdvp n r

/-- PFLUSH: stop the generator, discard every tile held or to come, unconfigure the port (R224). -/
def State.flushPort (s : State) (n : Nat) : State :=
  let s1 := (s.stopGen n).dropLdvp n s.core.ops
  s1.updC fun c => { c.setPort n default with
    pending := c.pending.filter fun p => match p.eff with | .port q _ _ => q != n | _ => true }

def State.pflush (s : State) (w : Wm) : Res State := do
  s.static (shM0 w .none 1 0 .portAny .none .none .none)
  s.await w.toHd
  .ok ((s.flushPort (portIx w.d)).retire 1)

def execPflush (w : Wm) (s : State) : Out := outcome s (s.pflush w)

/-- The tile addresses a generator makes, in order (R223). -/
def Pag.addr (g : Pag) (pos : Nat) : Int :=
  (g.base : Int) + (pos % g.n0 : Nat) * g.s0 + (pos / g.n0 % g.n1 : Nat) * g.s1 + (pos / (g.n0 * g.n1) : Nat) * g.s2

/-- The address of row `k` of a generated tile. -/
def pagRow (t rstr : Int) (k : Nat) : Nat := (BitVec.ofInt 64 (t + k * rstr)).toNat

/-- Replace a port's generator. -/
def State.setGen (s : State) (n : Nat) (g : Option Pag) : State := s.updC fun c => c.setPort n { c.port n with gen := g }

/-- A generator's next tile begins: it takes the memory port for its 16 rows, or stands next for it (R22, R212, R223). -/
def State.beginTile (s : State) (n : Nat) (g : Pag) : State :=
  if s.portFree (.gen n) 8 then (s.holdPort (.gen n) 0 8).setGen n (some { g with start := some s.now }) else s.standAtPort (.gen n)

/-- A generator's tile is pushed: it goes on with the next, or, after the last or a marked one, it ends with its batch (R223). -/
def State.pushTile (s : State) (n : Nat) (g : Pag) (t : PTile) : State :=
  let more := t.mark.isNone && decide (g.pos + 1 < g.n0 * g.n1 * g.n2)
  let g1 : Pag := { g with pos := g.pos + 1, row := 0, start := none, got := [], blocked := [] }
  let s1 := s.updC fun c => c.setPort n { c.port n with slots := (c.port n).slots ++ [.tile t], gen := if more then some g1 else none }
  if more then s1 else s1.endOp g.tok none

/-- Reads of a generator wait at banks in back-off (R324). -/
def State.blockGen (s : State) (n : Nat) (g : Pag) (part : Nat) (keys : List Nat) : State :=
  let new := s.newBlocks g.blocked part s.now keys
  if new.isEmpty then s else s.setGen n (some { g with blocked := g.blocked ++ new })

/-- The key of a generator's next row, as stream A translates it (R223). -/
def State.genKey (s : State) (va : Nat) : Res Nat :=
  match rangeCheck va 128 with
  | .error h => .error h
  | .ok _ => ({ s with cur := .a } : State).xlate va .rd

/-- A generator's next row is read; a row that cannot be read, or holds poison, marks the tile (R223). -/
def State.genRow (s : State) (n : Nat) (g : Pag) : State :=
  let va := pagRow (g.addr g.pos) g.rstr g.row
  let bad := fun (f : FaultInfo) => s.pushTile n g { data := g.got, mark := some f }
  match s.genKey va with
  | .error (.trap f) => bad { f with addr := va, info := va, eva := true }
  | .error .wait => s
  | .error (.bank keys) => s.blockGen n g (16 + 4 * g.row) keys
  | .ok key =>
    if s.poisonedAt key 128 then bad (poisonAt va)
    else if s.pathHeld s.ids g.cls key false then s
    else match s.gate [key] [] with
      | .wait => s
      | .bank => s.blockGen n g g.row [key]
      | .go =>
        let s1 := { (({ s with cur := .a } : State).fillTlb va).touchRow key with cur := s.cur }
        let g1 : Pag := { g with row := g.row + 1, got := setRow g.got g.row (BitVec.allOnes 1024) true (s.bytesAt key 128) }
        if g1.row = 16 then s1.pushTile n g1 { data := g1.got, mark := none } else s1.setGen n (some g1)

/-- PGEN_TILE_PUSH: a generator begins its next tile, or reads the next of its rows, two a cycle; with the sixteenth the tile is pushed
(R22, R212, R223). -/
def State.pgenPush (s : State) (n : Nat) : State :=
  match (s.core.port n).gen with
  | none => s
  | some g =>
    match g.start with
    | none => if 4 ≤ (s.core.port n).slots.length then s else s.beginTile n g
    | some t => if s.now < t + g.row / 2 then s else s.genRow n g

def execPgenTilePush (port : Nat) (s : State) : Out := .next (if s.core.running then s.pgenPush port else s)

/-! ### Windows (R91, R92, R225 to R227) -/

/-- The 128-byte rows that fetch tensor row `t` of a window, numbered from `ix` (R91). -/
def Win.rowPieces (w : Win) (t ix : Nat) : List WPiece :=
  let slot := w.ring + (t % 2 ^ w.lk) * w.bytes
  (List.range (w.bytes / 128)).map fun i =>
    { ix := ix + i, dst := slot + 128 * i
      src := if t < w.rows then some (BitVec.ofInt 64 ((w.tbase : Int) + t * w.stride + (128 * i : Nat))).toNat else none }

/-- The rows of tensor rows `t` to `t + n - 1`. -/
def Win.pieces (w : Win) (t : Nat) : Nat → List WPiece
  | 0 => []
  | n + 1 => w.pieces t n ++ w.rowPieces (t + n) (n * (w.bytes / 128))

/-- A window's descriptor within the limits of R91. -/
def winOf (bs : List Byte) : Res Win := do
  let ring := fieldNat bs 0 8
  let tbase := fieldNat bs 8 8
  let stride := fieldInt bs 16 8
  let b := fieldNat bs 24 4
  let n := fieldNat bs 28 4
  let h := fieldNat bs 32 4
  let lk := fieldNat bs 36 1
  trapIf (ring % 128 != 0) { code := .alignment, addr := ring }
  trapIf (tbase % 128 != 0) { code := .alignment, addr := tbase }
  trapIf (lk == 0 || decide (lk > 6) || b % 128 != 0 || b == 0 || decide (b > 16384) || decide (2 ^ lk * b > 2 ^ 20)
    || !inWindow ring || decide (ring + 2 ^ lk * b > winHi) || stride % 128 != 0 || n == 0 || decide (h ≥ n)
    || fieldNat bs 37 27 != 0) (flt .illegalOperand)
  .ok { ring := ring, lk := lk, bytes := b, tbase := tbase, stride := stride, rows := n, h := h }

/-- Issue a window's fetches as one operation of the word's batch (R91). -/
def State.fetchRows (s : State) (w : Wm) (win : Win) (t n : Nat) (tok : Option TokRef) : State :=
  let (id, s1) := s.fresh
  s1.updC fun c => { c with
    wins := Sparse.set c.wins w.sz.toNat (some win)
    fetches := c.fetches ++ [{ id := id, todo := win.pieces t n, cls := w.cls.toNat, tok := tok, blocked := [] }] }

/-- WCFG (R91, R225). -/
def State.wcfg (s : State) (w : Wm) : Res State := do
  let h := shM w .req true 0xFF 24 .none .sSrc .none .none
  s.static h
  let ((a, _, _), s1) ← s.sources h
  withDesc (s.descriptor w a) fun bs => do
    let win ← winOf bs
    trapIf (Sparse.get s.core.wins w.sz.toNat).isSome (fltS .illegalOperand 11)
    let (t, s2) ← s1.joinW w
    .ok ((s2.fetchRows w win win.h (2 ^ win.lk) t).retire 1)

def execWcfg (w : Wm) (s : State) : Out := outcome s (s.wcfg w)

/-- WADV (R91, R226). -/
def State.wadv (s : State) (w : Wm) : Res State := do
  s.static (shM w .req true 0xFF 7 .none .none .none .none)
  let n := w.disp.toNat
  match Sparse.get s.core.wins w.sz.toNat with
  | none => trapR (flt .illegalOperand)
  | some win =>
    trapIf (n == 0 || decide (n > 2 ^ win.lk)) (flt .illegalOperand)
    s.await w.toHd
    waitUnless (s.classDrained w.cls.toNat)
    let (t, s1) ← s.joinW w
    let win1 := { win with h := win.h + n }
    .ok ((s1.fetchRows w win1 (win1.h + 2 ^ win.lk - n) n t).retire 1)

def execWadv (w : Wm) (s : State) : Out := outcome s (s.wadv w)

/-- WREL: pending fetches complete in their own batches (R227). -/
def State.wrel (s : State) (w : Wm) : Res State := do
  s.static (shM0 w .none 0xFF 0 .none .none .none .none)
  s.await w.toHd
  .ok ((s.updC fun c => { c with wins := Sparse.set c.wins w.sz.toNat none }).retire 1)

def execWrel (w : Wm) (s : State) : Out := outcome s (s.wrel w)

/-- Remove a fetch and end its operation. -/
def State.endFetch (s : State) (f : WFetch) (err : Option FaultInfo) : State :=
  (s.updC fun c => { c with fetches := c.fetches.filter fun x => x.id != f.id }).endOp f.tok err

/-- What a row of a fetch reads: nothing for zeros, or a key; or the fault its address meets (R211, R226). -/
def State.pieceKey (s : State) (p : WPiece) : Res (List Nat) :=
  match p.src with
  | none => .ok []
  | some va =>
    match rangeCheck va 128 with
    | .error h => .error h
    | .ok _ => match s.xlate va .rd with
      | .error h => .error h
      | .ok key => if s.poisonedAt key 128 then trapR (poisonAt va) else .ok [key]

/-- The bytes a row of a fetch writes. -/
def State.pieceBytes (s : State) (keys : List Nat) : List Byte :=
  match keys with
  | [] => List.replicate 128 0
  | k :: _ => s.bytesAt k 128

/-- WINDOW_FETCH_PERFORM: one 128-byte row of a fetch; rows for one place keep the order of their commands (R92, R226). -/
def State.fetchRow (s : State) (id row : Nat) : State :=
  match s.core.fetches.find? fun f => f.id == id with
  | none => s
  | some f =>
    match f.todo.find? fun p => p.ix == row with
    | none => s
    | some p =>
      if (s.core.fetches.takeWhile fun x => x.id != id).any fun x => x.todo.any fun q => q.dst == p.dst then s
      else
        let put := fun (s : State) (f : WFetch) => s.updC fun c =>
          { c with fetches := c.fetches.map fun x => if x.id = id then f else x }
        match ({ s with cur := .a } : State).pieceKey p with
        | .error .wait => s
        | .error (.bank keys) =>
          let new := s.newBlocks f.blocked (64 * p.ix + 32) s.now keys
          if new.isEmpty then s else put s { f with blocked := f.blocked ++ new }
        | .error (.trap e) => s.endFetch f (some { e with addr := p.src.getD 0, info := p.src.getD 0, eva := true })
        | .ok keys =>
          let dst := scratchKey s.core.clusterIx p.dst
          if keys.any fun k => s.pathHeld f.id f.cls k false then s
          else match s.gate keys [dst] with
          | .wait => s
          | .bank =>
            let new := s.newBlocks f.blocked (64 * p.ix) s.now keys
            if new.isEmpty then s else put s { f with blocked := f.blocked ++ new }
          | .go =>
            let left := f.todo.filter fun q => q.ix != row
            let s1 := ((({ s with cur := .a } : State).fillTlbs p.src.toList).touchRows (keys ++ [dst])).writeMem dst (s.pieceBytes keys)
            let s2 := { s1 with cur := s.cur }
            if left.isEmpty then s2.endFetch f none else put s2 { f with todo := left }

def execWindowFetchPerform (id row : Nat) (s : State) : Out := .next (if s.core.running then s.fetchRow id row else s)

/-! ### Rake copies (R93 to R95, R228, R229) -/

/-- Whether two byte ranges meet. -/
def rangesMeet (a n b m : Int) : Bool := decide (a < b + m) && decide (b < a + n)

/-- Granules of an address range whose pages are poisoned (R353, R360). -/
def State.psnGranules (s : State) (pages : List (Nat × Nat)) : List Nat :=
  (pages.filter fun p => !inWindow p.1 && (match s.leafOf s.ptb p.1 with
    | .ok l => s.leafPoisoned l
    | .error _ => false)).map (·.1)

/-- Translate the source and destination of every run (R228). -/
def State.copyPages (s : State) : List Chunk → Res (List (Nat × Nat))
  | [] => .ok []
  | c :: r => do
    let a ← s.xlateRange .crd c.src c.len
    let b ← s.xlateRange .cwr c.dst c.len
    let l ← s.copyPages r
    .ok (a ++ (b ++ l))

/-- Keep the first of equal entries. -/
def dedup (l : List (Nat × Nat)) : List (Nat × Nat) :=
  l.foldl (fun acc p => if acc.contains p then acc else acc ++ [p]) []

/-- The commands of a core's Rake queue, oldest first: those an earlier job left, then its job's. A transfer that has left the queue for the
bridge is in it no more (R93, R95). -/
def State.rakeQueue (s : State) (die cid : Nat) : List Copy :=
  ((s.orphans.filter fun k => k.die == die && k.cid == cid) ++
    ((s.core :: s.parked).filter fun c => c.running && c.did == die && c.cid == cid).flatMap (·.rake)).filter fun k => !k.todo.isEmpty

/-- Whether the core's Rake queue has no room for a command (R93, R94). -/
def State.rakeFull (s : State) : Bool := decide (32 ≤ (s.rakeQueue s.core.did s.core.cid).length)

/-- Add a command to the core's Rake queue; its pages are as translated at acceptance (R93, R228, R354). -/
def State.pushRake (s : State) (cls : Nat) (runs : List Chunk) (pages : List (Nat × Nat)) (sw : Option Nat) (send : Option SendTo)
    (tok : Option TokRef) : State :=
  let (id, s1) := s.fresh
  let p := dedup pages
  (s1.updC fun c => { c with rake := c.rake ++
    [{ id := id, die := s.core.did, cid := s.core.cid, weight := s.core.rakeW, cls := cls, todo := runs, pages := p
       psn := s.psnGranules p, sw := sw, send := send, tok := tok, blocked := [] }] }).fillTlbs (p.map (·.1))

/-- Enqueue a copy at the core's Rake queue, or report it full under `nb` (R94, R228).
    DESIGN CHOICE (log 70): the wait for the class's earlier accesses (R103) comes before the look at the queue, so a
    copy with `nb` can stand at issue while the queue is full; R94 does not order the two. -/
def State.enqueueCopy (s : State) (w : Wm) (runs : List Chunk) (pages : List (Nat × Nat)) (sw : Option Nat) (status : Bool) : Res State := do
  s.await w.toHd
  waitUnless (s.classDrained w.cls.toNat)
  if s.rakeFull && status && w.sz.getLsbD 0 then
    let s1 ← s.writeS w.d 1 1
    .ok (s1.retire 1)
  else if s.rakeFull then .error .wait
  else do
    let (t, s1) ← s.joinW w
    let s2 ← if status then s1.writeS w.d 0 1 else .ok s1
    .ok ((s2.pushRake w.cls.toNat runs pages sw none t).retire 1)

/-- The checks of a one-dimensional copy in the entry's order: its length, its pages, overlap (R174, R228). -/
def State.copyChecks (s : State) (src dst len : Nat) : Res (List (Nat × Nat)) := do
  trapIf (len == 0 || decide (len > 2 ^ 24)) (flt .illegalOperand)
  let pages ← s.copyPages [{ src := src, dst := dst, len := len }]
  trapIf (rangesMeet src len dst len) (fltS .illegalOperand 12)
  .ok pages

/-- CPY (R228). -/
def State.cpy (s : State) (w : Wm) : Res State := do
  let h := shM w .opt true 3 24 .sDst .sSrc .sSrc .sSrc
  s.static h
  let ((a, b, c), s1) ← s.sources h
  let src := effAddr w a
  let pages ← s.copyChecks src b.toNat c.toNat
  s1.enqueueCopy w [{ src := src, dst := b.toNat, len := c.toNat }] pages none true

def execCpy (w : Wm) (s : State) : Out := outcome s (s.cpy w)

/-- CPYSW: a copy marked for the sync word D names (R89, R228). -/
def State.cpysw (s : State) (w : Wm) : Res State := do
  let h := shM w .opt true 1 24 .sSrc .sSrc .sSrc .sSrc
  s.static h
  let ((a, b, c), s1) ← s.sources h
  let (d, s2) ← s1.readS w.d
  let src := effAddr w a
  let pages ← s.copyChecks src b.toNat c.toNat
  addrCheck d.toNat 16 16
  let sw ← s.scalarKey d.toNat 16 .sync false
  (s2.fillTlb d.toNat).enqueueCopy w [{ src := src, dst := b.toNat, len := c.toNat }] pages (some sw) false

def execCpysw (w : Wm) (s : State) : Out := outcome s (s.cpysw w)

/-- The runs of a strided copy: rows `0` to `n1 - 1` of planes `0` to `n2 - 1` (R229). -/
def copyRuns (bs : List Byte) : List Chunk :=
  let at_ := fun (base : Nat) (s1 s2 : Int) (y z : Nat) => (BitVec.ofInt 64 ((base : Int) + z * s2 + y * s1)).toNat
  (List.range (fieldNat bs 24 4)).flatMap fun z => (List.range (fieldNat bs 20 4)).map fun y =>
    { src := at_ (fieldNat bs 8 8) (fieldInt bs 32 8) (fieldInt bs 40 8) y z
      dst := at_ (fieldNat bs 0 8) (fieldInt bs 48 8) (fieldInt bs 56 8) y z
      len := fieldNat bs 16 4 }

/-- The bounding range of one side: its lowest byte and its length (R229). -/
def boundOf (base n0 n1 n2 : Nat) (s1 s2 : Int) : Int × Int :=
  let p1 := (n1 - 1 : Nat) * s1
  let p2 := (n2 - 1 : Nat) * s2
  ((base : Int) + min 0 p1 + min 0 p2, max 0 p1 - min 0 p1 + (max 0 p2 - min 0 p2) + n0)

/-- The limits of a strided copy, then the overlap of its bounding ranges (R229). -/
def stridedLimits (bs : List Byte) (planes : Bool) : Res Unit := do
  let n0 := fieldNat bs 16 4
  let n1 := fieldNat bs 20 4
  let n2 := fieldNat bs 24 4
  trapIf (n0 == 0 || decide (n0 > 2 ^ 24) || n1 == 0 || n2 == 0 || decide (n0 * n1 * n2 > 2 ^ 24) || fieldNat bs 28 4 != 0
    || (!planes && (n2 != 1 || fieldNat bs 40 8 != 0 || fieldNat bs 56 8 != 0))) (flt .illegalOperand)
  let (a, n) := boundOf (fieldNat bs 8 8) n0 n1 n2 (fieldInt bs 32 8) (fieldInt bs 40 8)
  let (b, m) := boundOf (fieldNat bs 0 8) n0 n1 n2 (fieldInt bs 48 8) (fieldInt bs 56 8)
  trapIf (rangesMeet a n b m) (fltS .illegalOperand 12)

/-- CPY2 and CPY3 (R229). -/
def State.cpyStrided (s : State) (w : Wm) (planes : Bool) : Res State := do
  let h := shM w .opt true 3 24 .sDst .sSrc .none .none
  s.static h
  let ((a, _, _), s1) ← s.sources h
  withDesc (s.descriptor w a) fun bs => do
    stridedLimits bs planes
    let pages ← s.copyPages (copyRuns bs)
    s1.enqueueCopy w (copyRuns bs) pages none true

def execCpy2 (w : Wm) (s : State) : Out := outcome s (s.cpyStrided w false)
def execCpy3 (w : Wm) (s : State) : Out := outcome s (s.cpyStrided w true)

/-- Cut out of a run the bytes that lie in the 128-byte row `row` of the destination: the piece, and what is left. -/
def Chunk.cut (c : Chunk) (row : Nat) : Option (Chunk × List Chunk) :=
  let lo := max c.dst (row * 128)
  let hi := min (c.dst + c.len) (row * 128 + 128)
  if hi ≤ lo then none
  else
    let left := if c.dst < lo then [{ c with len := lo - c.dst }] else []
    let right := if hi < c.dst + c.len then [{ src := c.src + (hi - c.dst), dst := hi, len := c.dst + c.len - hi : Chunk }] else []
    some ({ src := c.src + (lo - c.dst), dst := lo, len := hi - lo }, left ++ right)

/-- Cut a row out of every run that has bytes in it: the pieces in order, and what is left (R87). -/
def cutRow (row : Nat) : List Chunk → List Chunk × List Chunk
  | [] => ([], [])
  | c :: r =>
    let (p, l) := cutRow row r
    match c.cut row with
    | some (q, m) => (q :: p, m ++ l)
    | none => (p, c :: l)

/-- The parts of a piece that lie in one 128-byte row of the source each. -/
def Chunk.bySource (c : Chunk) : List Chunk :=
  let n := 128 - c.src % 128
  if c.len ≤ n then [c] else [{ c with len := n }, { src := c.src + n, dst := c.dst + n, len := c.len - n }]

/-- Bytes of a list of pieces. -/
def pieceSum (l : List Chunk) : Nat := (l.map (·.len)).sum

/-- Replace, or with none remove, a copy. -/
def replaceCopy (id : Nat) (k : Option Copy) (l : List Copy) : List Copy :=
  l.flatMap fun x => if x.id = id then k.toList else [x]

/-- Replace, or with none remove, a copy wherever it is (R95). -/
def State.putCopy (s : State) (id : Nat) (k : Option Copy) : State :=
  let up := fun (c : Core) => { c with rake := replaceCopy id k c.rake }
  { s with core := up s.core, parked := s.parked.map up, orphans := replaceCopy id k s.orphans
           saved := s.saved.map fun (v : SavedGang) => { v with cores := v.cores.map up } }

/-- A copy stands at the head of its queue (R93). -/
def State.rakeHead (s : State) (k : Copy) : Bool := (s.rakeQueue k.die k.cid).head?.map (·.id) == some k.id

/-- The units of 512 bytes a queue is served in a round: the weight of the job on the core, else of the job that left the command (R93). -/
def State.rakeWeight (s : State) (die cid : Nat) : Nat :=
  match (s.core :: s.parked).find? fun c => c.running && c.did == die && c.cid == cid with
  | some c => c.rakeW
  | none => ((s.rakeQueue die cid).head?.map (·.weight)).getD 0

/-! ### Where a copy writes: memory, or the receiver of an XSEND (R152, R155) -/

/-- The receiving end of a transfer. -/
def State.receiver (s : State) (k : Copy) : Option ChEnd :=
  match k.send with
  | none => none
  | some x => ((s.die k.die).chEnd x.num).bind s.partner

/-- Bytes of a copy still to be moved. -/
def Copy.left (k : Copy) : Nat := (k.todo.map (·.len)).sum

/-- The job of a receiving end, where it takes rows now: a saved one takes the rest of a set whose arrival had begun, until its scratchpad is
saved (R152). -/
def State.takesRows (s : State) (k : Copy) (p : ChEnd) : Option Core :=
  match (s.core :: s.parked).find? fun c => c.holds p.lrec p.job with
  | some c => some c
  | none =>
    if k.left < p.t * 2048 then
      (s.saved.filter fun v => !v.valid).findSome? fun v => v.cores.find? fun c => c.holds p.lrec p.job
    else none

/-- The keys a copy's row writes: a receiver whose job has ended takes nothing. None while the receiver is saved: a send held back so stays at
the head of its Rake queue and keeps the commands behind it waiting, the model's choice (R94, R152; log entry 49). -/
def State.copyDst (s : State) (k : Copy) (va : Nat) : Option (List Nat) :=
  match k.send, s.receiver k with
  | none, _ => some [keyIn k.pages va]
  | some _, none => some []
  | some _, some p =>
    match s.takesRows k p with
    | some c => some [scratchKey c.clusterIx va]
    | none => if (s.jobCore p.lrec p.job).isSome then none else some []

/-- The key of the sync word a transfer is marked for, where its receiver still runs (R151). -/
def State.recvSync (s : State) (k : Copy) : Option Nat :=
  (s.receiver k).bind fun p => if p.sw = 0 then none else (s.jobCore p.lrec p.job).map fun c => scratchKey c.clusterIx p.sw

/-- What stands in the way of a row of a copy: a link, a migration or a locked frame, a stripe, a bank (R84, R85, R324, R331). -/
def State.copyGate (s : State) (k : Copy) (c : Chunk) : Gate :=
  match s.copyDst k c.dst with
  | none => .wait
  | some d => s.gate [keyIn k.pages c.src] (d ++ k.sw.toList)

/-- The bytes a core's queue may still move in the round (R93). -/
def State.rakeLeft (s : State) (die cid : Nat) : Nat := Sparse.get (s.die die).rakeLeft cid

/-- Whether the head of a core's queue can move its next row within the round. -/
def State.rakeDue (s : State) (die cid : Nat) : Bool :=
  match (s.rakeQueue die cid).head? with
  | none => false
  | some k => k.todo.head?.any fun c => s.copyGate k c == .go && decide (pieceSum (cutRow (c.dst / 128) k.todo).1 ≤ s.rakeLeft die cid)

/-- The cores of a core's cluster (R7). -/
def clusterMates (cid : Nat) : List Nat := (List.range 4).map fun i => cid / 4 * 4 + i

/-- Whether another core of the cluster still has a share of the round to use. -/
def State.rakeOthers (s : State) (k : Copy) : Bool :=
  (clusterMates k.cid).any fun c => c != k.cid && s.rakeDue k.die c

/-- A new round: every core's queue may move its weight in units of 512 bytes (R93). -/
def State.rakeRound (s : State) (die cid : Nat) : State :=
  s.updDie die fun d =>
    { d with rakeLeft := (clusterMates cid).foldl (fun r c => Sparse.set r c (512 * s.rakeWeight die c)) d.rakeLeft }

/-- A row takes its bytes from the queue's share of the round. -/
def State.rakeTake (s : State) (k : Copy) (n : Nat) : State :=
  s.updDie k.die fun d => { d with rakeLeft := Sparse.set d.rakeLeft k.cid (Sparse.get d.rakeLeft k.cid - n) }

/-- The state in which a copy at the head of its queue moves `n` bytes: within its share, or, once no other queue of the cluster has a
share it can use, in a new round (R93). -/
def State.rakeServe (s : State) (k : Copy) (n : Nat) : Option State :=
  if n ≤ s.rakeLeft k.die k.cid then some (s.rakeTake k n)
  else if s.rakeOthers k then none
  else some ((s.rakeRound k.die k.cid).rakeTake k n)

/-- Accesses of a copy wait at banks in back-off (R324). -/
def State.blockCopy (s : State) (k : Copy) (part : Nat) (keys : List Nat) : State :=
  let new := s.newBlocks k.blocked part (s.die k.die).cyc keys
  if new.isEmpty then s else s.putCopy k.id (some { k with blocked := k.blocked ++ new })

/-- A step of a copy that reads and writes some keys: made once nothing stands in its way (R84, R85, R324, R330, R331, R357). -/
def State.copyStep (s : State) (k : Copy) (part : Nat) (reads writes : List Nat) (go : State → State) : State :=
  if (reads ++ writes).any fun x => s.pathHeld k.id k.cls x false then s
  else match s.gate reads writes with
    | .wait => s
    | .bank => s.blockCopy k part (reads ++ writes)
    | .go => go (s.touchRows (reads ++ writes))

/-- A copy ends at an error; first its sync word, or its receiver's, gets ERR, when nothing keeps that write back (R84, R89, R211, R357). -/
def State.failCopy (s : State) (k : Copy) (f : FaultInfo) : State :=
  let fail := fun (s : State) => (s.putCopy k.id none).endOp k.tok (some f)
  match k.sw.orElse fun _ => s.recvSync k with
  | some w => s.copyStep k 1001 [] [w] fun t => (fail t).syncErr w
  | none => fail s

/-- The error the read of a piece meets: poison, a poisoned page, a host link that failed (R211, R331, R360). -/
def State.readError (s : State) (k : Copy) (p : Chunk) : Option FaultInfo :=
  if k.psn.contains (p.src / 65536 * 65536) || s.poisonIn k.pages p.src p.len then some (poisonAt p.src)
  else if s.linkFailed (keyIn k.pages p.src) then some (refusedAt p.src) else none

/-- The error the write of a row meets: a poisoned destination page, a host link that failed (R211, R331, R360). -/
def State.writeError (s : State) (k : Copy) (va : Nat) : Option FaultInfo :=
  if k.send.isSome then none
  else if k.psn.contains (va / 65536 * 65536) then some (poisonAt va)
  else if s.linkFailed (keyIn k.pages va) then some (refusedAt va) else none

/-- A copy without the bytes of a row that has been written: a transfer's last row leaves it on the bridge, another copy's ends it. -/
def Copy.after (k : Copy) (rest : List Chunk) : Option Copy :=
  let k1 := { k with todo := rest, work := none, send := k.send.map fun x => { x with replays := 0 } }
  if rest.isEmpty && k.send.isNone then none else some k1

/-- A row is begun within the queue's share of the round: every run's bytes in it are to be read, then written at once (R87, R93). -/
def State.beginRow (s : State) (k : Copy) (row : Nat) : State :=
  let ps := (cutRow row k.todo).1
  if ps.isEmpty then s
  else match s.rakeServe k (pieceSum ps) with
    | none => s
    | some s0 => s0.putCopy k.id (some { k with work := some { row := row, reads := ps.flatMap Chunk.bySource, got := [], wrote := none } })

/-- A row is done: its bytes count as performed (R89, R304). -/
def State.finishRow (s : State) (k : Copy) (row n : Nat) : State :=
  let s1 := if s.core.rake.any fun x => x.id == k.id then s.updC fun c => c.count 10 n else s
  match k.after (cutRow row k.todo).2 with
  | none => (s1.putCopy k.id none).endOp k.tok none
  | some k1 => s1.putCopy k.id (some k1)

/-- The next step of a row: a piece is read; or the row is written, whole; or its sync word is told of its bytes (R87, R89, R211). -/
def State.rowStep (s : State) (k : Copy) (w : RowWork) : State :=
  match w.wrote, w.reads, w.got with
  | some n, _, _ =>
    match k.sw with
    | none => s.finishRow k w.row n
    | some x => s.copyStep k 1001 [] [x] fun t => (t.raiseSync x n).finishRow k w.row n
  | none, p :: r, _ =>
    match s.readError k p with
    | some f => s.failCopy k f
    | none => s.copyStep k w.got.length [keyIn k.pages p.src] [] fun t =>
        t.putCopy k.id (some { k with work := some { w with reads := r, got := w.got ++ [(p.dst, s.bytesIn k.pages p.src p.len)] } })
  | none, [], got =>
    let va := (got.head?.map (·.1)).getD 0
    match s.writeError k va with
    | some f => s.failCopy k f
    | none =>
      match s.copyDst k va with
      | none => s
      | some dst => s.copyStep k 1000 [] dst fun t =>
          (t.writeRuns (got.flatMap fun x => ((s.copyDst k x.1).getD []).map fun d => (d, x.2))).putCopy k.id
            (some { k with work := some { w with wrote := some (got.map (·.2.length)).sum } })

/-- A copy at the head of its queue goes on with one destination row (R87, R89, R93, R211, R304). -/
def State.copyRow (s : State) (id row : Nat) : State :=
  match (s.core.rake ++ s.orphans).find? fun k => k.id == id with
  | none => s
  | some k =>
    if !s.rakeHead k then s
    else match k.work with
      | none => s.beginRow k row
      | some w => if w.row = row then s.rowStep k w else s

/-- RAKE_ROW_PERFORM (R89, R93). -/
def execRakeRowPerform (id row : Nat) (s : State) : Out := .next (s.copyRow id row)

/-! ### Batches and waits (R96, R97, R230, R231) -/

/-- CBAT: close the token's open batch, waiting while 255 closed ones are outstanding (R40, R96, R230). -/
def State.cbat (s : State) (w : Wm) : Res State := do
  s.static { shM0 w .req 1 0 .none .none .none .none with streams := [.a, .m] }
  s.await w.toHd
  waitUnless (s.strm.token w.tk.toNat).mayClose
  .ok ((s.upd fun x => x.setToken w.tk.toNat (x.token w.tk.toNat).closeOpen).retire 1)

def execCbat (w : Wm) (s : State) : Out := outcome s (s.cbat w)

/-- WAITN: waits until the token's count is at most n, and raises the error of a batch whose end lets it complete (R97, R211, R230). -/
def State.waitn (s : State) (w : Wm) : Res State := do
  s.static { shM0 w .req 1 8 .none .none .none .none with streams := [.a, .m] }
  s.await w.toHd
  let t := s.strm.token w.tk.toNat
  waitUnless (decide (t.count ≤ w.disp.toNat))
  match t.raised w.disp.toNat with
  | some f => trapR { f with eva := true, tok := some (w.tk.toNat, w.disp.toNat) }
  | none => .ok (s.retire 1)

def execWaitn (w : Wm) (s : State) : Out := outcome s (s.waitn w)

/-- Fill the cluster TLB with a page's translation, if it has one; the walk's reads open their rows, and a page whose walk would wait for a bank
is left out (R231, R323, R324; log entry 51). -/
def State.prefPage (s : State) (va : Nat) : State :=
  if inWindow va || s.walkBlocked s.ptb va then s
  else
    let cl := s.core.cid / 4
    match s.leafOf s.ptb va with
    | .error _ => s
    | .ok l =>
      let t : TlbEnt := { ptb := s.ptb, page := va / (if l.big then 0x200000 else 0x10000), big := l.big, leaf := l.leaf }
      let old := Sparse.get (s.die s.core.did).tlbs cl
      if old.contains t then s
      else ((s.touchRows (s.walkKeys s.ptb va)).updDie s.core.did fun d =>
        { d with tlbs := Sparse.set d.tlbs cl ((old ++ [t]).drop (old.length + 1 - 1024)) }).updC fun c => c.count 9 1

def State.prefPages (s : State) (va : Nat) : Nat → State
  | 0 => s
  | n + 1 => (s.prefPage va).prefPages (va + 65536) n

/-- PREF: a hint that fills the cluster TLB and never faults (R231). -/
def State.pref (s : State) (w : Wm) : Res State := do
  let h := shM0 w .none 1 24 .none .sSrc .sSrc .none
  s.static h
  let ((a, b, _), s1) ← s.sources h
  s.await w.toHd
  let ea := effAddr w a
  let n := min b.toNat (2 ^ 24)
  let pages := if n = 0 ∨ ea ≥ 2 ^ 52 then 0 else (ea + n - 1) / 65536 + 1 - ea / 65536
  .ok ((s1.prefPages (ea / 65536 * 65536) pages).retire 1)

def execPref (w : Wm) (s : State) : Out := outcome s (s.pref w)

/-! ### Engine command queues (R232, R233) -/

/-- ENQ: push a command record into a Meridian mailbox; a wrong queue number waits for no token and no descriptor (R174, R232). -/
def State.enq (s : State) (w : Wm) : Res State := do
  let h := shM w .opt true 3 24 .sDst .sSrc .sSrc .none
  s.static h
  let ((a, b, _), s1) ← s.sources h
  let _ ← s.descKey (effAddr w a)
  trapIf (decide (b.toNat > 3)) (flt .illegalOperand)
  withDesc (s.descriptor w a) fun bs => do
    let box := Sparse.get (s.die s.core.did).mbox b.toNat
    if 16 ≤ box.length then
      waitUnless (w.sz.getLsbD 0)
      let s2 ← s1.writeS w.d 1 1
      .ok (s2.retire 1)
    else
      let (t, s2) ← s1.joinW w
      let s3 ← s2.writeS w.d 0 1
      let m : MboxCmd := { lrec := s.core.lrec, job := s.core.job.toNat, node := s.core.node, ptb := s.ptb, record := bs, tok := t, until_ := none }
      .ok ((s3.updDie s.core.did fun d => { d with mbox := Sparse.set d.mbox b.toNat (box ++ [m]) }).retire 1)

def execEnq (w : Wm) (s : State) : Out := outcome s (s.enq w)

/-- DEQ: pop the oldest completion element (R104, R233). -/
def State.deq (s : State) (w : Wm) : Res State := do
  s.static (shM0 w .none 3 0 .sDst .none .none .none)
  s.await w.toHd
  match s.core.cq with
  | e :: r =>
    let s1 ← s.writeS w.d e 1
    .ok ((s1.updC fun c => { c with cq := r }).retire 1)
  | [] =>
    waitUnless (w.sz.getLsbD 0)
    let s1 ← s.writeS w.d (BitVec.allOnes 64) 1
    .ok (s1.retire 1)

def execDeq (w : Wm) (s : State) : Out := outcome s (s.deq w)

/-! ### Acceptance by an engine (R283, R286) -/

/-- An engine that takes commands of OP 0x75 and 0x80 to 0x85. -/
inductive Engine where
  | orrery
  | sluice
  | pan
  deriving DecidableEq, Repr

/-- Cycles from issue to acceptance by an idle engine (R286). -/
def Engine.latency : Engine → Nat
  | .orrery => 24
  | .sluice => 12
  | .pan => 40

/-- The cycle from which an engine of a die accepts its next command. -/
def Die.engineAt (d : Die) : Engine → Nat
  | .orrery => d.orrAt
  | .sluice => d.sluAt
  | .pan => d.panAt

/-- An engine accepts one command a cycle (R286). -/
def Die.accepts (d : Die) (e : Engine) (next : Nat) : Die :=
  match e with
  | .orrery => { d with orrAt := next }
  | .sluice => { d with sluAt := next }
  | .pan => { d with panAt := next }

/-- The word has been sent to its engine, which accepts it from a cycle on. -/
def State.send (s : State) (e : Engine) : State := s.upd fun x => { x with sent := some (s.now + e.latency) }

/-- Whether an engine accepts the word now, where it has been sent. -/
def State.mayAccept (s : State) (e : Engine) (at_ : Nat) : Bool :=
  decide (at_ ≤ s.now) && decide ((s.die s.core.did).engineAt e ≤ s.now)

/-- A word whose sources are read in `s1` stands at issue until its engine accepts it, and then goes on (R283, R286). -/
def State.accept (s : State) (e : Engine) (s1 : State) (go : State → Res State) : Res State :=
  match s.strm.sent with
  | none => .ok (s.send e)
  | some t =>
    if s.mayAccept e t then go (s1.updDie s.core.did fun d => d.accepts e (s.now + 1))
    else .error .wait

/-- The same for a word whose acceptance reads a descriptor (R210, R283).
    DESIGN CHOICE (log 73): the descriptor's read and the cycles to acceptance (R286, R309) are both counted from the
    word's first look, so they overlap; the spec does not say whether one follows the other. -/
def State.acceptDesc (s : State) (e : Engine) (w : Wm) (a : Word) (s1 : State) (go : List Byte → State → Res State) : Res State :=
  match s.descriptor w a with
  | .error h => .error h
  | .ok (.inl t) => .ok (t.send e)
  | .ok (.inr bs) => s.accept e s1 (go bs)

end Sys2Proof.Machine
end

