-- ==== Sys2Proof/Machine/Ports.lean ====
section
/-!
DEFINITION. Woelaor ports: the flit and its CRC, the replay buffer, acknowledgement and NAK (R374, R375).
-/

namespace Sys2Proof.Machine

/-- A step of the reflected CRC-32: a multiplication by x modulo the generator, which 18_prog_crc32.md gives under "The arithmetic". -/
def crcStep (c : Nat) : Nat := if c % 2 = 1 then (c / 2) ^^^ 0xEDB88320 else c / 2

/-- A byte enters the CRC register. -/
def crcByte (c : Nat) (b : Byte) : Nat := Nat.repeat crcStep 8 (c ^^^ b.toNat)

/-- CRC-32 of a byte list, from the standard initial value, inverted at the end (18_prog_crc32.md, "The arithmetic"; log entry 6). -/
def crc32 (bs : List Byte) : Nat := bs.foldl crcByte 0xFFFFFFFF ^^^ 0xFFFFFFFF

def State.wport (s : State) (p : Nat) : WPort := Sparse.get s.host.ports p

def State.updPort (s : State) (p : Nat) (f : WPort → WPort) : State :=
  { s with host := { s.host with ports := Sparse.set s.host.ports p (f (s.wport p)) } }

/-- Payload bytes of a flit, and the flits a replay buffer holds (R374, R375). -/
def flitPay : Nat := 232
def replayRoom : Nat := 256

/-- A flit (R374). -/
def flitBytes (seq ack ty : Nat) (pay : List Byte) : List Byte :=
  let head := leBytes 2 seq ++ leBytes 2 ack ++ leBytes 1 ty ++ leBytes 3 0 ++ (pay ++ List.replicate flitPay 0).take flitPay
  let crc := head ++ leBytes 4 (crc32 head)
  crc ++ (Config.fec crc ++ List.replicate 12 0).take 12

/-- The number of a flit's predecessor, modulo 2^16. -/
def prevSeq (n : Nat) : Nat := (n + 65535) % 65536

/-- Send what waits while the replay buffer has room and no repair is pending (R375, R376). -/
def WPort.pump (p : WPort) : List (Nat × List Byte) → WPort
  | [] => { p with txq := [] }
  | x :: r =>
    if p.st ≠ 2 ∨ replayRoom ≤ p.replay.length then { p with txq := x :: r }
    else
      let f := flitBytes p.txSeq (prevSeq p.rxSeq) x.1 x.2
      ({ p with replay := p.replay ++ [(p.txSeq, f)], txSeq := (p.txSeq + 1) % 65536 }).pump r

/-- Cut bytes into payloads. -/
def payloads (bs : List Byte) : Nat → List (List Byte)
  | 0 => []
  | n + 1 => if bs.isEmpty then [] else bs.take flitPay :: payloads (bs.drop flitPay) n

/-- Send bytes through a port in flits of a TYPE: 1 data, 3 collective slots (R374). -/
def State.sendBytes (s : State) (p ty : Nat) (bs : List Byte) : State :=
  s.updPort p fun x => x.pump (x.txq ++ (payloads bs (bs.length / flitPay + 1)).map fun b => (ty, b))

/-- Drop the flits up to the one acknowledged, if it is held (R375). -/
def ackUpTo (ack : Nat) (l : List (Nat × List Byte)) : List (Nat × List Byte) :=
  if l.any fun x => x.1 == ack then (l.dropWhile fun x => x.1 != ack).drop 1 else l

/-- The flit that names the expected number: TYPE 2, with the number in its payload's first two bytes. It takes no number of its own and is not
replayed, and neither is an idle flit: the spec says nothing of either, so this is the model's choice (R374, R375; log entry 44). -/
def WPort.nakFlit (p : WPort) : List Byte := flitBytes p.txSeq (prevSeq p.rxSeq) 2 (leBytes 2 p.rxSeq)

/-- A flit that is not accepted is discarded and answered with a NAK naming the expected number (R375). -/
def WPort.refuse (p : WPort) (crc : Bool) : WPort :=
  { p with nak := p.nak ++ [p.nakFlit], crce := if crc then min (p.crce + 1) 65535 else p.crce }

/-- Failed replays of one flit before a port retrains (R375). -/
def portReplays : Nat := 16

/-- A NAK: the flits before the one named have arrived; those from it on are sent again; the sixteenth failed replay of one
flit starts a retraining (R375). -/
def WPort.nakFor (p : WPort) (seq : Nat) : WPort :=
  if !(p.replay.any fun x => x.1 == seq) then p
  else
    let fails := if p.nakSeq = some seq then p.fails + 1 else 0
    { p with replay := p.replay.dropWhile fun x => x.1 != seq
             rply := min (p.rply + 1) 65535, fails := fails, nakSeq := some seq
             st := if portReplays ≤ fails then 1 else p.st }

/-- A flit arrives: correction, check, sequence; it is delivered once and in order. An idle flit and a NAK carry an acknowledgement whatever their
number (R374, R375). -/
def WPort.receive (p : WPort) (raw : List Byte) : WPort :=
  let f := Config.fecCorrects raw
  let ty := fieldNat f 4 1
  let acked := { p with replay := ackUpTo (fieldNat f 2 2) p.replay }
  if fieldNat f 240 4 ≠ crc32 (f.take 240) then p.refuse true
  else if ty = 0 then acked.pump acked.txq
  else if ty = 2 then
    let q := acked.nakFor (fieldNat f 8 2)
    q.pump q.txq
  else if fieldNat f 0 2 ≠ p.rxSeq then p.refuse false
  else
    let q := { acked with
      rxSeq := (p.rxSeq + 1) % 65536
      rx := if ty = 1 ∨ ty = 3 then p.rx ++ [(f.drop 8).take flitPay] else p.rx }
    q.pump q.txq

/-- Whether a port carries traffic, and whether it is lost to its peer (R375, R377). -/
def WPort.up (p : WPort) : Bool := p.st == 2 || p.st == 3
def WPort.gone (p : WPort) : Bool := p.st == 0 || p.st == 4

end Sys2Proof.Machine
end

