-- ==== Sys2Proof/Machine/SpecFn.lean ====
section
/-!
DEFINITION. The special functions of R253: the exact function value, rounded once. A transcendental value is enclosed
between two fixed-point bounds at a precision; when both ends round alike, that is the rounding of the exact value,
and otherwise the precision rises (log entry 7).
-/

namespace Sys2Proof.Machine

/-- An enclosure `[lo, hi] / 2^P` of a real number. -/
structure Encl where
  lo : Int
  hi : Int
  deriving DecidableEq, Repr, Inhabited

/-- Division rounded up. -/
def cdivInt (a b : Int) : Int := -((-a) / b)

def Encl.add (a b : Encl) : Encl := ⟨a.lo + b.lo, a.hi + b.hi⟩
def Encl.neg (a : Encl) : Encl := ⟨-a.hi, -a.lo⟩
def Encl.ofInt (p : Nat) (n : Int) : Encl := ⟨n * (2 ^ p : Nat), n * (2 ^ p : Nat)⟩

/-- Product at scale `p`. -/
def Encl.mul (p : Nat) (a b : Encl) : Encl :=
  let x := a.lo * b.lo
  let y := a.lo * b.hi
  let z := a.hi * b.lo
  let w := a.hi * b.hi
  ⟨min (min x y) (min z w) / (2 ^ p : Nat), cdivInt (max (max x y) (max z w)) (2 ^ p : Nat)⟩

/-- Quotient by an enclosure of a positive number. -/
def Encl.div (p : Nat) (a b : Encl) : Encl :=
  let l := a.lo * (2 ^ p : Nat)
  let h := a.hi * (2 ^ p : Nat)
  ⟨min (l / b.lo) (l / b.hi), max (cdivInt h b.lo) (cdivInt h b.hi)⟩

/-- Quotient by a positive integer. -/
def Encl.divNat (a : Encl) (n : Nat) : Encl := ⟨a.lo / n, cdivInt a.hi n⟩

/-- Widen by a bound on a remainder. -/
def Encl.widen (a : Encl) (d : Int) : Encl := ⟨a.lo - d, a.hi + d⟩

/-- The largest magnitude of an enclosure. -/
def Encl.mag (a : Encl) : Int := max a.hi (-a.lo)

/-- A rational `±m * 2^e` at scale `p`. -/
def Encl.ofDy (p : Nat) (neg : Bool) (m : Nat) (e : Int) : Encl :=
  let k := e + p
  let v : Encl := if k ≥ 0 then ⟨(m * 2 ^ k.toNat : Nat), (m * 2 ^ k.toNat : Nat)⟩
    else ⟨(m / 2 ^ (-k).toNat : Nat), (m / 2 ^ (-k).toNat : Nat) + 1⟩
  if neg then v.neg else v

/-- `1/n - 1/(3 n^3) + ..` (arctan) or with all signs plus (artanh) of `1/n`, `k` terms. -/
def invSeries (p : Nat) (alt : Bool) (n : Nat) : Nat → Nat → Encl → Encl → Encl
  | 0, _, _, acc => acc.widen 4
  | k + 1, i, t, acc =>
    let u := t.divNat (2 * i + 1)
    invSeries p alt n k (i + 1) (t.divNat (n * n)) (acc.add (if alt && i % 2 == 1 then u.neg else u))

/-- `ln 2 = 2 artanh (1/3)`. -/
def ln2Encl (p : Nat) : Encl :=
  let one := Encl.ofInt p 1
  let s := invSeries p false 3 (p / 3 + 10) 0 (one.divNat 3) ⟨0, 0⟩
  s.add s

/-- `pi = 16 arctan (1/5) - 4 arctan (1/239)` (Machin). -/
def piEncl (p : Nat) : Encl :=
  let one := Encl.ofInt p 1
  let a := invSeries p true 5 (p / 4 + 10) 0 (one.divNat 5) ⟨0, 0⟩
  let b := invSeries p true 239 (p / 15 + 10) 0 (one.divNat 239) ⟨0, 0⟩
  (Encl.mul p (Encl.ofInt p 16) a).add (Encl.mul p (Encl.ofInt p 4) b).neg

/-- The exponential series of a reduced argument. -/
def expSeries (p : Nat) (x : Encl) : Nat → Nat → Encl → Encl → Encl
  | 0, _, t, acc => acc.widen (2 * t.mag + 4)
  | k + 1, i, t, acc => let u := (Encl.mul p t x).divNat i; expSeries p x k (i + 1) u (acc.add u)

/-- `e^x = result * 2^k` for `|x| ≤ 4096`, with `k` the returned exponent. -/
def expEncl (p : Nat) (x : Encl) : Encl × Int :=
  let l2 := ln2Encl p
  let k : Int := (x.lo + l2.lo / 2) / l2.lo
  let r := x.add (Encl.mul p (Encl.ofInt p k) l2).neg
  (expSeries p r (p / 3 + 20) 1 (Encl.ofInt p 1) (Encl.ofInt p 1), k)

/-- An enclosure times `2^k`, still at scale `p`. -/
def Encl.shift (a : Encl) (k : Int) : Encl :=
  if k ≥ 0 then ⟨a.lo * (2 ^ k.toNat : Nat), a.hi * (2 ^ k.toNat : Nat)⟩
  else ⟨a.lo / (2 ^ (-k).toNat : Nat), cdivInt a.hi (2 ^ (-k).toNat : Nat)⟩

/-- Square root of a positive enclosure. -/
def Encl.sqrt (p : Nat) (a : Encl) : Encl :=
  ⟨((a.lo.toNat * 2 ^ p).sqrt : Nat), ((a.hi.toNat * 2 ^ p).sqrt + 1 : Nat)⟩

/-- The artanh series `z + z^3/3 + ..` for `|z| ≤ 1/3`. -/
def artanhSeries (p : Nat) (z2 : Encl) : Nat → Nat → Encl → Encl → Encl
  | 0, _, t, acc => acc.widen (2 * t.mag + 4)
  | k + 1, i, t, acc =>
    let u := Encl.mul p t z2
    artanhSeries p z2 k (i + 1) u (acc.add (u.divNat (2 * i + 1)))

/-- `log2 (m * 2^e)` for `m > 0`. -/
def log2Encl (p : Nat) (m : Nat) (e : Int) : Encl :=
  let l := Nat.log2 m
  let num := (Encl.ofInt p ((m : Int) - (2 ^ l : Nat)))
  let den := (Encl.ofInt p ((m : Int) + (2 ^ l : Nat)))
  let z := Encl.div p num den
  let a := artanhSeries p (Encl.mul p z z) (p / 3 + 10) 1 z z
  (Encl.ofInt p (l + e)).add (Encl.div p (a.add a) (ln2Encl p))

/-- `sum x^(2n+1) / (2n+1)!!` for the normal distribution. -/
def phiSeries (p : Nat) (x2 : Encl) : Nat → Nat → Encl → Encl → Encl
  | 0, _, t, acc => acc.widen (2 * t.mag + 4)
  | k + 1, i, t, acc =>
    let u := (Encl.mul p t x2).divNat (2 * i + 1)
    phiSeries p x2 k (i + 1) u (acc.add u)

/-- The standard normal distribution function at a positive `x` up to 20. -/
def normalCdf (p : Nat) (x : Encl) : Encl :=
  let x2 := Encl.mul p x x
  let (ev, k) := expEncl p (x2.divNat 2).neg
  let twoPi := (piEncl p).add (piEncl p)
  let dens := Encl.div p (ev.shift k) (Encl.sqrt p twoPi)
  let s := phiSeries p x2 (p + 500) 1 x x
  (Encl.mul p dens s).add ((Encl.ofInt p 1).divNat 2)

/-- The exact value `v * 2^(k - p)` to be rounded. -/
def enclEnd (p : Nat) (v k : Int) : XVal :=
  let q := k - p
  if q ≥ 0 then .rat (decide (v < 0)) (v.natAbs * 2 ^ q.toNat) 1 else .rat (decide (v < 0)) v.natAbs (2 ^ (-q).toNat)

/-- The rounding both ends agree on, at the first precision at which they do. -/
def roundEncl (t : ETy) (rm : RMode) (sat : Bool) (f : Nat → Encl × Int) : List Nat → Rounded
  | [] => default
  | p :: ps =>
    let (v, k) := f p
    let a := roundFloat t rm sat (enclEnd p v.lo k)
    let b := roundFloat t rm sat (enclEnd p v.hi k)
    if decide (a = b) || ps.isEmpty then a else roundEncl t rm sat f ps

/-- The precisions tried in turn. -/
def precisions : List Nat := [160, 480, 1500]

/-- A representative of the reals strictly between 0 and every format's least value. -/
def tinyX (neg : Bool) : XVal := .rat neg 1 (2 ^ 1000)
/-- A representative above every format's largest value. -/
def hugeX (neg : Bool) : XVal := .rat neg (2 ^ 1000) 1
/-- A representative just nearer zero than `m * 2^e`. -/
def belowX (neg : Bool) (m : Nat) (e : Int) : XVal :=
  (FVal.fin neg (m * 2 ^ 300 - 1) (e - 300)).toX
/-- A representative just farther from zero than `m * 2^e`. -/
def aboveX (neg : Bool) (m : Nat) (e : Int) : XVal :=
  (FVal.fin neg (m * 2 ^ 300 + 1) (e - 300)).toX

/-- Whether `m * 2^e ≥ b`. -/
def dyGe (m : Nat) (e : Int) (b : Nat) : Bool :=
  if e ≥ 0 then decide (m * 2 ^ e.toNat ≥ b) else decide (m ≥ b * 2 ^ (-e).toNat)

/-- `e^x` of a finite value (R253). -/
def expRound (t : ETy) (rm : RMode) (sat neg : Bool) (m : Nat) (e : Int) : Rounded :=
  if m = 0 then roundFloat t rm sat (.rat false 1 1)
  else if dyGe m e 2000 then roundFloat t rm sat (if neg then tinyX false else hugeX false)
  else roundEncl t rm sat (fun p => expEncl p (Encl.ofDy p neg m e)) precisions

/-- `2^x` of a finite value (R253). -/
def exp2Round (t : ETy) (rm : RMode) (sat neg : Bool) (m : Nat) (e : Int) : Rounded :=
  if m = 0 then roundFloat t rm sat (.rat false 1 1)
  else if dyGe m e 2000 then roundFloat t rm sat (if neg then tinyX false else hugeX false)
  else
    let isInt := decide (e ≥ 0) || m % 2 ^ (-e).toNat == 0
    if isInt then
      let n := if e ≥ 0 then m * 2 ^ e.toNat else m / 2 ^ (-e).toNat
      roundFloat t rm sat (if neg then .rat false 1 (2 ^ n) else .rat false (2 ^ n) 1)
    else roundEncl t rm sat (fun p => expEncl p (Encl.mul p (Encl.ofDy p neg m e) (ln2Encl p))) precisions

/-- `log2 x` of a positive finite value (R253). -/
def log2Round (t : ETy) (rm : RMode) (sat : Bool) (m : Nat) (e : Int) : Rounded :=
  if m = 2 ^ Nat.log2 m then
    let v : Int := Nat.log2 m + e
    roundFloat t rm sat (.rat (decide (v < 0)) v.natAbs 1)
  else roundEncl t rm sat (fun p => (log2Encl p m e, 0)) precisions

/-- `1/√x` or `√x` of a positive finite value (R253). -/
def rootRound (t : ETy) (rm : RMode) (sat recip : Bool) (m : Nat) (e : Int) : Rounded :=
  let m' := if e % 2 = 0 then m else 2 * m
  let e' := if e % 2 = 0 then e / 2 else (e - 1) / 2
  let r := m'.sqrt
  if r * r = m' then
    roundFloat t rm sat (if recip then
      (if e' ≥ 0 then .rat false 1 (r * 2 ^ e'.toNat) else .rat false (2 ^ (-e').toNat) r)
      else (FVal.fin false r e').toX)
  else
    roundEncl t rm sat (fun p =>
      let s := Encl.sqrt p (Encl.ofInt p m')
      (if recip then Encl.div p (Encl.ofInt p 1) s else s, if recip then -e' else e')) precisions

/-- `tanh x` of a finite value (R253). DESIGN CHOICE (log 72): of -0 it is -0, as are `siluRound` and `geluRound`; the
    spec states no sign there. -/
def tanhRound (t : ETy) (rm : RMode) (sat neg : Bool) (m : Nat) (e : Int) : Rounded :=
  if m = 0 then roundFloat t rm sat (.rat neg 0 1)
  else if dyGe m e 500 then roundFloat t rm sat (belowX neg 1 0)
  else roundEncl t rm sat (fun p =>
    let (v, k) := expEncl p (Encl.ofDy p true m (e + 1))
    let w := v.shift k
    let one := Encl.ofInt p 1
    let r := Encl.div p (one.add w.neg) (one.add w)
    (if neg then r.neg else r, 0)) precisions

/-- `1/(1 + e^-x)` of a finite value (R253). -/
def sigmRound (t : ETy) (rm : RMode) (sat neg : Bool) (m : Nat) (e : Int) : Rounded :=
  if m = 0 then roundFloat t rm sat (.rat false 1 2)
  else if dyGe m e 2000 then roundFloat t rm sat (if neg then tinyX false else belowX false 1 0)
  else roundEncl t rm sat (fun p =>
    let (v, k) := expEncl p (Encl.ofDy p true m e)
    let one := Encl.ofInt p 1
    let den := one.add (v.shift k)
    if neg then (Encl.div p v den, k) else (Encl.div p one den, 0)) precisions

/-- `x/(1 + e^-x)` of a finite value (R253). -/
def siluRound (t : ETy) (rm : RMode) (sat neg : Bool) (m : Nat) (e : Int) : Rounded :=
  if m = 0 then roundFloat t rm sat (.rat neg 0 1)
  else if dyGe m e 2000 then roundFloat t rm sat (if neg then tinyX true else belowX false m e)
  else roundEncl t rm sat (fun p =>
    let (v, k) := expEncl p (Encl.ofDy p true m e)
    let one := Encl.ofInt p 1
    let den := one.add (v.shift k)
    let s := if neg then Encl.div p v den else Encl.div p one den
    let r : Encl := ⟨s.lo * m, s.hi * m⟩
    (if neg then r.neg else r, (if neg then k else 0) + e)) precisions

/-- `x Φ(x)` of a finite value (R253). -/
def geluRound (t : ETy) (rm : RMode) (sat neg : Bool) (m : Nat) (e : Int) : Rounded :=
  if m = 0 then roundFloat t rm sat (.rat neg 0 1)
  else if dyGe m e 20 then roundFloat t rm sat (if neg then tinyX true else belowX false m e)
  else roundEncl t rm sat (fun p =>
    let c := normalCdf p (Encl.ofDy p false m e)
    let s := if neg then (Encl.ofInt p 1).add c.neg else c
    let r : Encl := ⟨s.lo * m, s.hi * m⟩
    (if neg then r.neg else r, e)) precisions

/-- The ten special functions, FN 0 to 9 of OP 0x46 (R253). -/
inductive SFun where
  | exp2 | exp | log2 | rcp | rsq | sqrt | tanh | sigm | silu | gelu
  deriving DecidableEq, Repr

/-- One special function of one element: special cases, then the single rounding (R253). DESIGN CHOICE (log 72): at
    the poles of `log2`, `rcp` and `rsq` the result is the infinity and counts the table's Inf event only, no overflow
    and no saturation; the spec states both rules and does not say which holds at a pole. -/
def specFn (fn : SFun) (t : ETy) (rm : RMode) (sat : Bool) (x : FVal) : Rounded :=
  let rd := roundFloat t rm sat
  match x with
  | .nan => rd .nan
  | .inf neg =>
    match fn with
    | .exp2 | .exp => rd (if neg then .rat false 0 1 else .inf false)
    | .log2 | .sqrt => rd (if neg then .nan else .inf false)
    | .rcp => rd (.rat neg 0 1)
    | .rsq => rd (if neg then .nan else .rat false 0 1)
    | .tanh => rd (.rat neg 1 1)
    | .sigm => rd (if neg then .rat false 0 1 else .rat false 1 1)
    | .silu | .gelu => rd (if neg then .rat true 0 1 else .inf false)
  | .fin neg m e =>
    match fn with
    | .exp2 => exp2Round t rm sat neg m e
    | .exp => expRound t rm sat neg m e
    | .log2 => if m = 0 then rd (.inf true) else if neg then rd .nan else log2Round t rm sat m e
    | .rcp => if m = 0 then rd (.inf neg)
              else rd (if e ≥ 0 then .rat neg 1 (m * 2 ^ e.toNat) else .rat neg (2 ^ (-e).toNat) m)
    | .rsq => if m = 0 then rd (.inf neg) else if neg then rd .nan else rootRound t rm sat true m e
    | .sqrt => if m = 0 then rd (.rat neg 0 1) else if neg then rd .nan else rootRound t rm sat false m e
    | .tanh => tanhRound t rm sat neg m e
    | .sigm => sigmRound t rm sat neg m e
    | .silu => siluRound t rm sat neg m e
    | .gelu => geluRound t rm sat neg m e

end Sys2Proof.Machine
end

