-- ==== Sys2Proof/Machine/Vector.lean ====
section
/-!
DEFINITION. Vector, special-function, random-number and mask words: OP 0x40 to 0x4A (R237 to R259).
-/

namespace Sys2Proof.Machine

/-! ### Reading, occupancy and writing (R238, R239, R242) -/

/-- The sources of a vector word and its predicate. -/
structure VIn where
  a : VSrc
  b : VSrc
  c : VSrc
  p : BitVec 1024
  deriving DecidableEq, Repr

/-- A source field by its kind. -/
def State.vsource (s : State) (k : OpK) (f : OpField) : Res (VSrc × State) :=
  match k with
  | .vec n _ _ _ => s.readV f n
  | .sSrc =>
    match s.readS f with
    | .error h => .error h
    | .ok (v, s1) => .ok (.all v, s1)
  | _ => .ok (.all 0, s)

/-- The sources in field order, then the predicate. -/
def State.vread (s : State) (h : Shape) : Res (VIn × State) := do
  let (a, s1) ← s.vsource h.a h.hd.a
  let (b, s2) ← s1.vsource h.b h.hd.b
  let (c, s3) ← s2.vsource h.c h.hd.c
  .ok ({ a := a, b := b, c := c, p := s.pred h.hd }, s3)

/-- Whether a field holds a 32-bit pair. -/
def isPair (k : OpK) (f : OpField) : Bool :=
  match k with
  | .vec 2 2 _ _ => isV f || isP f
  | .vdst 2 2 _ => true
  | _ => false

/-- Occupancy 1, or 2 when an operand is a pair (R242). -/
def pairCost (h : Shape) : Nat :=
  if isPair h.d h.hd.d || isPair h.a h.hd.a || isPair h.b h.hd.b || isPair h.c h.hd.c then 2 else 1

/-- A vector word: rows 2 to 6, the checks that its own fields settle, operands, the checks on their values, await, the unit, its effect
(R174, R237, R242). -/
def State.vwordIf (s : State) (h : Shape) (occ : Nat) (own : Res Unit) (chk : VIn → Res Unit) (go : VIn → State → Res State) : Res State := do
  s.static h
  own
  let (x, s1) ← s.vread h
  chk x
  s.await h.hd
  waitUnless (decide (s.core.vbusy ≤ s.now))
  let s2 ← go x (s1.updC fun c => { c with vbusy := s.now + occ })
  s.shadow h
  .ok (s2.retire 1)

/-- A vector word whose own checks are all on operand values. -/
def State.vword (s : State) (h : Shape) (occ : Nat) (chk : VIn → Res Unit) (go : VIn → State → Res State) : Res State :=
  s.vwordIf h occ (.ok ()) chk go

/-- No check of its own. -/
def noCheck (_ : VIn) : Res Unit := .ok ()

/-- Write the elements of a result of type `t` under the predicate, and count their events (R239). -/
def State.putElems (s : State) (t : ETy) (d : OpField) (p : BitVec 1024) (lat : Nat) (f : Nat → Nat → Option Rounded) : Res State :=
  s.writeV d lat (elemParts t (s.dstRegs d t.regs) p fun i j => (f i j).map (·.bits)) (elemEvents t p f)

/-- The word's type, and its rounding mode. -/
def etOf (w : Wt) : ETy := (ETy.ofCode w.et).getD .n16
def State.modeOf (s : State) (w : Wt) : RMode := s.rmode w.rm.toNat

/-- An exact result without events. -/
def plain (b : Nat) : Option Rounded := some { bits := b, events := [] }

/-! ### Arithmetic (R243) -/

/-- The sign of a value. -/
def FVal.isNeg : FVal → Bool
  | .nan => false
  | .inf n => n
  | .fin n _ _ => n

/-- The lesser and the greater, with −0 below +0; a NaN operand gives NaN (R243). -/
def minF (a b : FVal) : FVal :=
  match cmpF a b with
  | none => .nan
  | some .lt => a
  | some .gt => b
  | some .eq => if a.isNeg then a else b

def maxF (a b : FVal) : FVal :=
  match cmpF a b with
  | none => .nan
  | some .lt => b
  | some .gt => a
  | some .eq => if a.isNeg then b else a

/-- The ten members of OP 0x40, on values and on integers. -/
inductive VArith where
  | add | sub | mul | fma | fms | min | max | abs | neg | abd
  deriving DecidableEq, Repr

def VArith.float (o : VArith) (a b c : FVal) : FVal :=
  match o with
  | .add => addExact a b
  | .sub => addExact a (negF b)
  | .mul => mulExact a b
  | .fma => addExact (mulExact a b) c
  | .fms => addExact (mulExact a b) (negF c)
  | .min => minF a b
  | .max => maxF a b
  | .abs => absF a
  | .neg => negF a
  | .abd => absF (addExact a (negF b))

def VArith.int (o : VArith) (a b c : Int) : Int :=
  match o with
  | .add => a + b
  | .sub => a - b
  | .mul => a * b
  | .fma => a * b + c
  | .fms => a * b - c
  | .min => Min.min a b
  | .max => Max.max a b
  | .abs => a.natAbs
  | .neg => -a
  | .abd => (a - b).natAbs

/-- One element of an arithmetic word: the exact result rounded once, or reduced (R62, R243). -/
def VArith.elem (o : VArith) (t : ETy) (rm : RMode) (sat : Bool) (a b c : Nat) : Rounded :=
  if t.isFloat then roundFloat t rm sat (o.float (decodeFloat t a) (decodeFloat t b) (decodeFloat t c)).toX
  else narrowInt t sat (o.int (decodeInt t a) (decodeInt t b) (decodeInt t c))

/-- An arithmetic word (R243). -/
def State.arith (s : State) (w : Wt) (o : VArith) (h : Shape) : Res State :=
  s.vword h (pairCost h) noCheck fun x s1 =>
    let t := etOf w
    s1.putElems t w.d x.p 4 fun i j =>
      some (o.elem t (s.modeOf w) w.sat (x.a.elem t i j) (x.b.elem t i j) (x.c.elem t i j))

/-- VADD (R243). -/
def execVadd (w : Wt) (s : State) : Out := outcome s (s.arith w .add (shArith w true .none))
/-- VSUB (R243). -/
def execVsub (w : Wt) (s : State) : Out := outcome s (s.arith w .sub (shArith w true .none))
/-- VMUL (R243). -/
def execVmul (w : Wt) (s : State) : Out := outcome s (s.arith w .mul (shArith w true .none))
/-- VFMA (R243). -/
def execVfma (w : Wt) (s : State) : Out := outcome s (s.arith w .fma (shArith3 w))
/-- VFMS (R243). -/
def execVfms (w : Wt) (s : State) : Out := outcome s (s.arith w .fms (shArith3 w))
/-- VMIN (R243). -/
def execVmin (w : Wt) (s : State) : Out := outcome s (s.arith w .min (shArith w false .none))
/-- VMAX (R243). -/
def execVmax (w : Wt) (s : State) : Out := outcome s (s.arith w .max (shArith w false .none))
/-- VABS (R243). -/
def execVabs (w : Wt) (s : State) : Out := outcome s (s.arith w .abs (shArith1 w))
/-- VNEG (R243). -/
def execVneg (w : Wt) (s : State) : Out := outcome s (s.arith w .neg (shArith1 w))
/-- VABD (R243). -/
def execVabd (w : Wt) (s : State) : Out := outcome s (s.arith w .abd (shArith w true .none))

/-! ### Compare (R244) -/

/-- The comparison of two elements of a type (R244). -/
def cmpElem (t : ETy) (a b : Nat) : Option Ordering :=
  if t.isFloat then cmpF (decodeFloat t a) (decodeFloat t b) else some (compare (decodeInt t a) (decodeInt t b))

/-- A mask from a function of its bits. -/
def maskOf (f : Nat → Bool) : BitVec 1024 := (BitVec.ofBoolListLE ((List.range 1024).map f)).setWidth 1024

/-- Land a mask under a predicate (R36, R43). -/
def State.putMask (s : State) (d : OpField) (lat : Nat) (p v : BitVec 1024) : State := s.pend lat (.mask (s.maskIx d) p v) []

/-- VCMP (R244). -/
def execVcmp (w : Wt) (s : State) : Out :=
  outcome s (s.vword (shVcmp w) (pairCost (shVcmp w)) noCheck fun x s1 =>
    let t := etOf w
    .ok (s1.putMask w.d 3 x.p (maskOf fun n => relHolds (xb w 2 0) (cmpElem t (x.a.elem t (n / 64) (n % 64)) (x.b.elem t (n / 64) (n % 64))))))

/-! ### Logic, shifts, select (R245, R320) -/

/-- A word of 16-bit lanes. -/
def State.lanes (s : State) (w : Wt) (h : Shape) (lat : Nat) (f : Nat → Nat → Nat) : Res State :=
  s.vword h (pairCost h) noCheck fun x s1 =>
    s1.putElems .n16 w.d x.p lat fun i j => plain (f (x.a.lane (64 * i + j)) (x.b.lane (64 * i + j)))

/-- VAND (R245). -/
def execVand (w : Wt) (s : State) : Out := outcome s (s.lanes w (shLane w (.vec 1 1 true true) .none) 2 fun a b => a &&& b)
/-- VOR (R245). -/
def execVor (w : Wt) (s : State) : Out := outcome s (s.lanes w (shLane w (.vec 1 1 true true) .none) 2 fun a b => a ||| b)
/-- VXOR (R245). -/
def execVxor (w : Wt) (s : State) : Out := outcome s (s.lanes w (shLane w (.vec 1 1 true true) .none) 2 fun a b => a ^^^ b)
/-- VNOT (R245). -/
def execVnot (w : Wt) (s : State) : Out := outcome s (s.lanes w (shLane w .none .none) 2 fun a _ => a ^^^ 65535)
/-- VMOV (R249). -/
def execVmov (w : Wt) (s : State) : Out := outcome s (s.lanes w (shLane w .none .none) 2 fun a _ => a)

/-- A shift: the amount from SH, or from the low bits of B's element, SH then ignored (R245; log entry 14). -/
def State.vshift (s : State) (w : Wt) (f : ETy → Nat → Nat → Nat) : Res State :=
  let t := etOf w
  let ims := xb w 27 27 == 1
  s.vwordIf (shShift w) (pairCost (shShift w)) (trapIf (ims && decide (xb w 26 22 ≥ t.width)) (flt .illegalOperand)) noCheck
    fun x s1 => s1.putElems t w.d x.p 2 fun i j =>
      plain (f t (x.a.elem t i j) (if ims then xb w 26 22 else x.b.elem t i j % t.width))

/-- VSHL (R245). -/
def execVshl (w : Wt) (s : State) : Out := outcome s (s.vshift w fun t a n => a * 2 ^ n % 2 ^ t.width)
/-- VSHR (R245). -/
def execVshr (w : Wt) (s : State) : Out := outcome s (s.vshift w fun _ a n => a / 2 ^ n)
/-- VSRA (R245). -/
def execVsra (w : Wt) (s : State) : Out :=
  outcome s (s.vshift w fun t a n => wrapInt t.width (sextNat t.width a / (2 ^ n : Nat)))

/-- VSEL (R245). -/
def State.vsel (s : State) (w : Wt) : Res State := do
  let h := shLane w (.vec 1 1 true true) .mask
  s.static h
  let (x, s1) ← s.vread h
  let m := s.readM w.c
  s.await h.hd
  waitUnless (decide (s.core.vbusy ≤ s.now))
  let s2 := s1.updC fun c => { c with vbusy := s.now + pairCost h }
  let s3 ← s2.putElems .n16 w.d x.p 2 fun i j =>
    plain (if pbit m (64 * i + j) then x.a.lane (64 * i + j) else x.b.lane (64 * i + j))
  s.shadow h
  .ok (s3.retire 1)

def execVsel (w : Wt) (s : State) : Out := outcome s (s.vsel w)

/-! ### Conversion and packing (R246 to R248) -/

/-- The group G and the source type of a conversion. -/
def cvtG (w : Wt) : Nat := xb w 23 22
def cvtSt (w : Wt) : ETy := (ETy.ofCode (BitVec.ofNat 4 (xb w 27 24))).getD .n16

/-- The groups a pair of types has (R246). -/
def cvtGroups (st dt : ETy) : Nat := max (st.perRow / dt.perRow) (dt.perRow / st.perRow)

/-- The source element of destination element `j`, and the conversion's index; none where nothing is written (R246). -/
def cvtMap (st dt : ETy) (g j : Nat) : Option (Nat × Nat) :=
  if dt.perRow ≤ st.perRow then some (g * dt.perRow + j, j)
  else if g * st.perRow ≤ j ∧ j < (g + 1) * st.perRow then some (j - g * st.perRow, j - g * st.perRow)
  else none

/-- The value of a source element and the events of reading it (R55, R57, R246). -/
def srcValue (x : VSrc) (st : ETy) (i j : Nat) : FVal × List Nat :=
  if st = .i4x then i4xElem (x.lane (64 * i + j / 4)) (j % 4) else (decodeElem st (x.elem st i j), [])

/-- One conversion without a scale (R246). -/
def convert (st dt : ETy) (rm : RMode) (sat : Bool) (v : FVal) (bits : Nat) : Rounded :=
  if dt.isFloat then roundFloat dt rm sat v.toX
  else if st.isInt then narrowInt dt sat (decodeInt st bits)
  else floatToInt dt rm v.toX

/-- One scaled conversion: the special cases, then one rounding of the exact quotient (R64, R246). -/
def convertScaled (dt : ETy) (rm : RMode) (sat : Bool) (v scale : FVal) : Rounded :=
  let q := (divExact v scale).1
  if dt.isFloat then roundFloat dt rm sat q else floatToInt dt rm q

/-- A conversion word (R246). -/
def State.cvt (s : State) (w : Wt) (scaled : Bool) : Res State :=
  let dt := etOf w
  let st := cvtSt w
  let h := shCvt w scaled
  s.vwordIf h (pairCost h) (trapIf (decide (cvtGroups st dt ≤ cvtG w)) (flt .illegalOperand)) noCheck fun x s1 =>
    s1.putElems dt w.d x.p 4 fun i j =>
      (cvtMap st dt (cvtG w) j).map fun m =>
        let v := srcValue x.a st i m.1
        let r := if scaled
          then convertScaled dt (s.modeOf w) w.sat v.1 (decodeFloat .fp32 (x.b.elem .fp32 i (64 * m.2 / min st.perRow dt.perRow)))
          else convert st dt (s.modeOf w) w.sat v.1 (x.a.elem st i m.1)
        { r with events := v.2 ++ r.events }

/-- VCVT (R246). -/
def execVcvt (w : Wt) (s : State) : Out := outcome s (s.cvt w false)
/-- VCVTS (R246). -/
def execVcvts (w : Wt) (s : State) : Out := outcome s (s.cvt w true)

/-- VPACK: the low bytes of A and B, clamped under SAT (R247). -/
def execVpack (w : Wt) (s : State) : Out :=
  let t := etOf w
  outcome s (s.vword (shPack w) 1 noCheck fun x s1 =>
    s1.putElems t w.d x.p 4 fun i j =>
      let lane := if j % 2 = 0 then x.a.lane (64 * i + j / 2) else x.b.lane (64 * i + j / 2)
      some (narrowInt t w.sat (if t = .i8 then sextNat 16 lane else (lane : Int))))

/-- VUNPK: one byte of each lane, extended (R247). -/
def execVunpk (w : Wt) (s : State) : Out :=
  let t := etOf w
  outcome s (s.vword (shUnpk w) 1 noCheck fun x s1 =>
    s1.putElems t w.d x.p 4 fun i j =>
      let b := x.a.lane (64 * i + j) / 256 ^ (xb w 22 22) % 256
      plain (if t = .i16 then wrapInt 16 (sextNat 8 b) else b))

/-- An element's quotient as an integer, and its clamp to −7 to 7 with the event (R248; a NaN gives 0). -/
def qInt (rm : RMode) (q : XVal) : Int :=
  match q with
  | .nan => 0
  | .inf neg => if neg then -8 else 8
  | .rat neg n d => roundToInt rm neg n d

def qNib (rm : RMode) (q : XVal) : Rounded :=
  let v := qInt rm q
  if q = .nan then { bits := 0, events := [24] }
  else if v.natAbs > 7 then { bits := if v < 0 then 9 else 7, events := [26] }
  else { bits := wrapInt 4 v, events := [] }

/-- The event of an element given up to an outlier (R248). -/
def qLost (rm : RMode) (q : XVal) : List Nat := if qInt rm q = 0 then [] else [26]

/-- One I4X lane quantised from four quotients (R248). -/
def qLane (rm : RMode) (sat : Bool) (q : Nat → XVal) : Rounded :=
  let n := fun k => qNib rm (q k)
  if (qInt rm (q 0)).natAbs > 7 then
    let e := roundFloat .e4m3 rm sat (q 0)
    { bits := 8 + 16 * e.bits + 4096 * (n 3).bits, events := e.events ++ qLost rm (q 1) ++ qLost rm (q 2) ++ (n 3).events }
  else if (qInt rm (q 1)).natAbs > 7 then
    let e := roundFloat .e4m3 rm sat (q 1)
    { bits := (n 0).bits + 128 + 256 * e.bits, events := (n 0).events ++ e.events ++ qLost rm (q 2) ++ qLost rm (q 3) }
  else
    { bits := (n 0).bits + 16 * (n 1).bits + 256 * (n 2).bits + 4096 * (n 3).bits
      events := (n 0).events ++ (n 1).events ++ (n 2).events ++ (n 3).events }

/-- VQI4X: four registers quantised to one of I4X (R248). -/
def execVqi4x (w : Wt) (s : State) : Out :=
  let t := etOf w
  outcome s (s.vword (shQi4x w) 4 noCheck fun x s1 =>
    let scale := decodeFloat .fp32 (x.b.elem .fp32 0 0)
    s1.putElems .n16 w.d x.p 4 fun i l =>
      some (qLane (s.modeOf w) w.sat fun k =>
        let e := 4 * l + k
        (divExact (decodeFloat t (elemBits t [x.a.images.getD (e / 64) []] i (e % 64))) scale).1))

/-! ### Moves and indices (R249) -/

/-- VBCST (R249). -/
def execVbcst (w : Wt) (s : State) : Out :=
  let t := etOf w
  let h := shElem w false .sSrc .none true isNumber
  outcome s (s.vword h (pairCost h) noCheck fun x s1 => s1.putElems t w.d x.p 2 fun i j => plain (x.a.elem t i j))

/-- The scalar a field gave. -/
def VSrc.word (x : VSrc) : Word := match x with | .all v => v | .tiles _ => 0

/-- An element index past the register (R249). -/
def indexCheck (t : ETy) (v : Word) : Res Unit := trapIf (decide (v.toNat ≥ 16 * t.perRow)) (fltS .illegalOperand 13)

/-- VINS: one element written (R249). -/
def execVins (w : Wt) (s : State) : Out :=
  let t := etOf w
  let h := shElem w false .sSrc .sSrc true isNumber
  outcome s (s.vword h (pairCost h) (fun x => indexCheck t x.b.word) fun x s1 =>
    s1.putElems t w.d x.p 2 fun i j => if i * t.perRow + j = x.b.word.toNat then plain (x.a.elem t i j) else none)

/-- VEXT: one element to a scalar, read at issue (R43, R249). -/
def execVext (w : Wt) (s : State) : Out :=
  let t := etOf w
  outcome s (s.vword (shVext w) 1 (fun x => indexCheck t x.b.word) fun x s1 =>
    let e := x.b.word.toNat
    let v := x.a.elem t (e / t.perRow) (e % t.perRow)
    s1.writeS w.d (if t.isSigned then BitVec.ofInt 64 (sextNat t.width v) else BitVec.ofNat 64 v) 3)

/-- VIDX (R249). -/
def execVidx (w : Wt) (s : State) : Out :=
  let t := etOf w
  let h := shElem w false .sSrc .none true isWideInt
  outcome s (s.vword h (pairCost h) noCheck fun x s1 =>
    s1.putElems t w.d x.p 2 fun i j => plain ((x.a.word.toNat + i * t.perRow + j) % 2 ^ t.width))

/-! ### Rotation, broadcast, reduction, rearrangement (R250 to R252) -/

/-- k: the field K, or B's value; the field is ignored where B gives k (R250; log entry 14). -/
def rotK (w : Wt) (x : VIn) : Nat := if xb w 27 27 = 1 then xb w 26 21 else x.b.word.toNat

/-- A word that moves elements by k (R250). -/
def State.rotWord (s : State) (w : Wt) (lat : Nat) (limit : Option Nat) (f : Nat → Nat → Nat → Nat × Nat) : Res State :=
  let t := etOf w
  let far := fun (k : Nat) => trapIf (match limit with | some n => decide (k ≥ n) | none => false) (flt .illegalOperand)
  s.vwordIf (shRot w) (pairCost (shRot w)) (if xb w 27 27 = 1 then far (xb w 26 21) else .ok ()) (fun x => far (rotK w x))
    fun x s1 => s1.putElems t w.d x.p lat fun i j =>
      let e := f (rotK w x) i j
      plain (x.a.elem t e.1 e.2)

/-- VROTR (R250). -/
def execVrotr (w : Wt) (s : State) : Out := outcome s (s.rotWord w 3 none fun k i j => (i, (j + k) % (etOf w).perRow))
/-- VROTC (R250). -/
def execVrotc (w : Wt) (s : State) : Out := outcome s (s.rotWord w 6 none fun k i j => ((i + k) % 16, j))
/-- VBCR (R250). -/
def execVbcr (w : Wt) (s : State) : Out := outcome s (s.rotWord w 2 (some (etOf w).perRow) fun k i _ => (i, k))
/-- VBCC (R250). -/
def execVbcc (w : Wt) (s : State) : Out := outcome s (s.rotWord w 5 (some 16) fun k _ j => (k, j))

/-- Fold floats: the exact sum, or the exact extreme (R251). -/
def foldF (f : FVal → FVal → FVal) : List FVal → FVal
  | [] => .fin false 0 0
  | [a] => a
  | a :: r => r.foldl f a

/-- The reduction of the elements that contribute (R251). -/
def reduce (t : ETy) (rop : Nat) (rm : RMode) (sat : Bool) (l : List Nat) : Rounded :=
  if t.isFloat then
    let v := l.map (decodeFloat t)
    match rop with
    | 0 => roundFloat t rm sat (foldF addExact v).toX
    | 1 => roundFloat t .rne false (foldF maxF v).toX
    | _ => roundFloat t .rne false (foldF minF v).toX
  else
    let v := l.map (decodeInt t)
    match rop with
    | 0 => narrowInt t sat v.sum
    | 1 => narrowInt t false (v.tail.foldl max (v.headD 0))
    | _ => narrowInt t false (v.tail.foldl min (v.headD 0))

/-- A reduction along rows or columns (R251). -/
def State.reduceWord (s : State) (w : Wt) (lat : Nat) (rows : Bool) : Res State :=
  let t := etOf w
  s.vword (shRed w) (pairCost (shRed w)) noCheck fun x s1 =>
    let line := fun (k : Nat) =>
      if rows then (List.range t.perRow).map fun j => (k, j) else (List.range 16).map fun i => (i, k)
    let result := fun (k : Nat) =>
      reduce t (xb w 27 26) (s.modeOf w) w.sat
        (((line k).filter fun e => pbit x.p (laneOf t e.1 e.2)).map fun e => x.a.elem t e.1 e.2)
    let all := (List.range (if rows then 16 else t.perRow)).map result
    s1.putElems t w.d x.p lat fun i j => some (all.getD (if rows then i else j) default)

/-- VREDR (R251). -/
def execVredr (w : Wt) (s : State) : Out := outcome s (s.reduceWord w 7 true)
/-- VREDC (R251). -/
def execVredc (w : Wt) (s : State) : Out := outcome s (s.reduceWord w 9 false)

/-- Whether two register operands share a register. -/
def regsMeet (f n g m : Nat) : Bool := decide (f < g + m) && decide (g < f + n)

/-- D must differ from a register source (R252, R254). -/
def differs (w : Wt) (g : OpField) (m : Nat) : Res Unit :=
  trapIf (isV w.d && isV g && regsMeet w.d.toNat (etRegs w) g.toNat m) (flt .illegalOperand)

/-- VTRN: 16 × 16 blocks transposed (R252). -/
def execVtrn (w : Wt) (s : State) : Out :=
  let t := etOf w
  let h := shPerm w false
  outcome s (s.vwordIf h (pairCost h) (differs w w.a (etRegs w)) noCheck fun x s1 =>
    s1.putElems t w.d x.p 6 fun i j => plain (x.a.elem t (j % 16) (16 * (j / 16) + i)))

/-- VPERM: permute within rows (R252). -/
def execVperm (w : Wt) (s : State) : Out :=
  let t := etOf w
  let h := shPerm w true
  outcome s (s.vwordIf h (pairCost h) (do differs w w.a (etRegs w); differs w w.b 1) noCheck
    fun x s1 => s1.putElems t w.d x.p 6 fun i j => plain (x.a.elem t i (x.b.lane (64 * i + j) % 64)))

/-! ### Special functions, rotary embedding, triple merge (R253 to R255) -/

/-- A special-function word (R253). -/
def State.special (s : State) (w : Wt) (fn : SFun) : Res State :=
  let t := etOf w
  s.vword (shSpec w) (if t = .fp32 then 2 else 1) noCheck fun x s1 =>
    s1.putElems t w.d x.p 12 fun i j => some (specFn fn t (s.modeOf w) w.sat (decodeFloat t (x.a.elem t i j)))

/-- VEXP2 (R253). -/
def execVexp2 (w : Wt) (s : State) : Out := outcome s (s.special w .exp2)
/-- VEXP (R253). -/
def execVexp (w : Wt) (s : State) : Out := outcome s (s.special w .exp)
/-- VLOG2 (R253). -/
def execVlog2 (w : Wt) (s : State) : Out := outcome s (s.special w .log2)
/-- VRCP (R253). -/
def execVrcp (w : Wt) (s : State) : Out := outcome s (s.special w .rcp)
/-- VRSQ (R253). -/
def execVrsq (w : Wt) (s : State) : Out := outcome s (s.special w .rsq)
/-- VSQRT (R253). -/
def execVsqrt (w : Wt) (s : State) : Out := outcome s (s.special w .sqrt)
/-- VTANH (R253). -/
def execVtanh (w : Wt) (s : State) : Out := outcome s (s.special w .tanh)
/-- VSIGM (R253). -/
def execVsigm (w : Wt) (s : State) : Out := outcome s (s.special w .sigm)
/-- VSILU (R253). -/
def execVsilu (w : Wt) (s : State) : Out := outcome s (s.special w .silu)
/-- VGELU (R253). -/
def execVgelu (w : Wt) (s : State) : Out := outcome s (s.special w .gelu)

/-- VROPE: rotate element pairs (R254). -/
def execVrope (w : Wt) (s : State) : Out :=
  let t := etOf w
  let split := xb w 27 27 == 1
  outcome s (s.vwordIf (shRope w) (pairCost (shRope w)) (differs w w.a (etRegs w)) noCheck fun x s1 =>
    s1.putElems t w.d x.p 6 fun i j =>
      let u := if split then j % 32 else j - j % 2
      let v := if split then j % 32 + 32 else u + 1
      let f := fun (y : VSrc) (k : Nat) => decodeFloat t (y.elem t i k)
      let c := f x.b u
      let sn := f x.c u
      let r := if j = u then addExact (mulExact (f x.a u) c) (negF (mulExact (f x.a v) sn))
        else addExact (mulExact (f x.a u) sn) (mulExact (f x.a v) c)
      some (roundFloat t (s.modeOf w) false r.toX))

/-- Row `i` of a group of four register images (R255). -/
def tripleRow (g : List VReg) (i : Nat) : TRow :=
  let ml := g.take 2
  { m := elemBits .fp32 ml i 0, l := elemBits .fp32 ml i 1, o := (List.range 64).map fun j => elemBits .fp32 (g.drop 2) i j
    ev := [] }

def isNaN32 (b : Nat) : Bool := decide (decodeFloat .fp32 b = .nan)
def negInf32 : Nat := infBits .fp32 true
def nan32 : Nat := producedNaN .fp32

/-- The row whose every component is NaN, each counting (R148, R278). -/
def nanRow : TRow := { m := nan32, l := nan32, o := List.replicate 64 nan32, ev := List.replicate 66 [4 * ETy.fp32.row] }
/-- The row of no entry (R146). -/
def emptyRow : TRow := { m := negInf32, l := 0, o := List.replicate 64 0, ev := [] }
def TRow.hasNaN (t : TRow) : Bool := isNaN32 t.m || isNaN32 t.l || t.o.any isNaN32

/-- `VEXP.FP32 (round (x - m))` under RNE (R148, R253). -/
def expDiff (x m : Nat) : FVal :=
  let d := roundFloat .fp32 .rne false (addExact (decodeFloat .fp32 x) (negF (decodeFloat .fp32 m))).toX
  decodeFloat .fp32 (specFn .exp .fp32 .rne false (decodeFloat .fp32 d.bits)).bits

/-- The merge of two rows; a component counts the events of the rounding that produced it (R148). Of -0 and +0 the largest is the first:
the model's choice, the rule does not say which (log entry 20). -/
def mergeRow (x y : TRow) : TRow :=
  if x.hasNaN || y.hasNaN then nanRow
  else if x.m = negInf32 then y
  else if y.m = negInf32 then x
  else
    let m := if cmpF (decodeFloat .fp32 x.m) (decodeFloat .fp32 y.m) = some .lt then y.m else x.m
    let ax := expDiff x.m m
    let ay := expDiff y.m m
    let f := fun (a b : Nat) =>
      roundFloat .fp32 .rne false (addExact (mulExact (decodeFloat .fp32 a) ax) (mulExact (decodeFloat .fp32 b) ay)).toX
    let l := f x.l y.l
    let o := List.zipWith f x.o y.o
    { m := m, l := l.bits, o := o.map (·.bits), ev := [] :: l.events :: o.map (·.events) }

/-- The four register images of sixteen rows, with columns 2 and 3 of row 0 as given (R255, R279). -/
def tripleImages (rows : List TRow) (c2 c3 : Nat) : List VReg :=
  let row := fun i => rows.getD i default
  let ml := fun (n : Nat) =>
    let i := n / 64
    match n % 64 with
    | 0 => (row i).m
    | 1 => (row i).l
    | 2 => if i = 0 then c2 else 0
    | 3 => if i = 0 then c3 else 0
    | _ => 0
  let o := fun (n : Nat) => (row (n / 64)).o.getD (n % 64) 0
  let img := fun (f : Nat → Nat) (d : Nat) => Sparse.ofFn 1024 fun n => BitVec.ofNat 16 (f n / d)
  [img ml 1, img ml 65536, img o 1, img o 65536]

/-- Events of a row's components in the lanes that hold them: m and l in columns 0 and 1, o in its own (R255). -/
def tripleEvents (p : BitVec 1024) (i : Nat) (ev : List (List Nat)) : List Nat :=
  let at_ := fun (k j : Nat) => if pbit p (64 * i + j) then ev.getD k [] else []
  at_ 0 0 ++ at_ 1 1 ++ (List.range 64).flatMap fun j => at_ (j + 2) j

/-- VSMERGE: merge two groups row by row (R148, R255). -/
def execVsmerge (w : Wt) (s : State) : Out :=
  outcome s (s.vword (shMerge w) 4 noCheck fun x s1 =>
    let rows := (List.range 16).map fun i => mergeRow (tripleRow x.a.images i) (tripleRow x.b.images i)
    let imgs := tripleImages rows 0 0
    .ok (s1.pend 12 (.regs (imageParts x.p (s.physRange w.d.toNat 4) imgs))
      ((List.range 16).flatMap fun i => tripleEvents x.p i (rows.getD i default).ev)))

/-! ### Carry-less products and bit counts (R256) -/

/-- A word on the bits of each element. -/
def State.bitWord (s : State) (w : Wt) (mul : Bool) (lat : Nat) (f : Nat → Nat → Nat → Nat) : Res State :=
  let t := etOf w
  let h := shBits w mul
  s.vword h (pairCost h) noCheck fun x s1 =>
    s1.putElems t w.d x.p lat fun i j => plain (f t.width (x.a.elem t i j) (x.b.elem t i j))

/-- VCLMUL.L (R256). -/
def execVclmulL (w : Wt) (s : State) : Out := outcome s (s.bitWord w true 5 fun n a b => clmulNat n a b % 2 ^ n)
/-- VCLMUL.H (R256). -/
def execVclmulH (w : Wt) (s : State) : Out := outcome s (s.bitWord w true 5 fun n a b => clmulNat n a b / 2 ^ n)
/-- VPOPC (R256). -/
def execVpopc (w : Wt) (s : State) : Out := outcome s (s.bitWord w false 2 fun n a _ => popcount n a)
/-- VCLZ (R256). -/
def execVclz (w : Wt) (s : State) : Out := outcome s (s.bitWord w false 2 fun n a _ => clzNat n a)

/-! ### Random numbers (R257, R258) -/

/-- RNGKEY (R257). -/
def execRngkey (w : Wt) (s : State) : Out :=
  outcome s (s.vword (shRngkey w) 1 noCheck fun x s1 => .ok (s1.updC fun c => { c with rng := x.a.word }))

/-- Rounds of Philox-4×32-10 (R258). -/
def philox (c : Nat × Nat × Nat × Nat) (k0 k1 : Nat) : Nat → Nat × Nat × Nat × Nat
  | 0 => c
  | n + 1 =>
    let (c0, c1, c2, c3) := c
    let p0 := 0xD2511F53 * c0
    let p1 := 0xCD9E8D57 * c2
    philox ((p1 / 2 ^ 32) ^^^ c1 ^^^ k0, p1 % 2 ^ 32, (p0 / 2 ^ 32) ^^^ c3 ^^^ k1, p0 % 2 ^ 32)
      ((k0 + 0x9E3779B9) % 2 ^ 32) ((k1 + 0xBB67AE85) % 2 ^ 32) n

/-- The output word of a lane (R258). -/
def randWord (key a b c : Word) (word lane : Nat) : Nat :=
  let r := philox (a.toNat % 2 ^ 32, c.toNat % 65536 * 65536 + lane, b.toNat % 2 ^ 32, b.toNat / 2 ^ 32)
    (key.toNat % 2 ^ 32) (key.toNat / 2 ^ 32) 10
  match word with | 0 => r.1 | 1 => r.2.1 | 2 => r.2.2.1 | _ => r.2.2.2

/-- The element formed from an output word (R258). -/
def randElem (t : ETy) (x : Nat) : Nat :=
  let q := fun (n d : Nat) => (roundFloat t .rne false (.rat false n d)).bits
  match t with
  | .n32 => x
  | .fp16 => q (x / 2 ^ 21) (2 ^ 11)
  | .bf16 => q (x / 2 ^ 24) (2 ^ 8)
  | .fp32 => q (x / 2 ^ 8) (2 ^ 24)
  | _ => x % 65536

/-- VRAND (R258). -/
def execVrand (w : Wt) (s : State) : Out :=
  let t := etOf w
  outcome s (s.vword (shRand w) (pairCost (shRand w))
    (fun x => trapIf (decide (x.a.word.toNat > 67108863) || decide (x.c.word.toNat > 65535)) (flt .rngExhausted)) fun x s1 =>
    s1.putElems t w.d x.p 8 fun i j =>
      plain (randElem t (randWord s.core.rng x.a.word x.b.word x.c.word (xb w 27 26) (64 * i + j))))

/-! ### Masks (R259) -/

/-- A mask word: mask sources, then its result. -/
def State.maskWord (s : State) (w : Wi) (h : Shape) (ok : Bool)
    (go : BitVec 1024 → BitVec 1024 → BitVec 1024 → State → Res State) : Res State := do
  s.static h
  trapIf (!ok) (flt .illegalOperand)
  let a := if h.a = .mask then s.readM w.a else 0
  let b := if h.b = .mask then s.readM w.b else 0
  s.await w.toHd
  waitUnless (decide (s.core.vbusy ≤ s.now))
  let s1 ← go (s.pred w.toHd) a b (s.updC fun c => { c with vbusy := s.now + 1 })
  s.shadow h
  .ok (s1.retire 1)

/-- A word that writes a mask. -/
def State.maskOp (s : State) (w : Wi) (h : Shape) (f : BitVec 1024 → BitVec 1024 → BitVec 1024) : Res State :=
  s.maskWord w h true fun p a b s1 => .ok (s1.putMask w.d 2 p (f a b))

/-- MAND (R259). -/
def execMand (w : Wi) (s : State) : Out := outcome s (s.maskOp w (shMask w 0 .mask .mask .mask true) fun a b => a &&& b)
/-- MOR (R259). -/
def execMor (w : Wi) (s : State) : Out := outcome s (s.maskOp w (shMask w 0 .mask .mask .mask true) fun a b => a ||| b)
/-- MXOR (R259). -/
def execMxor (w : Wi) (s : State) : Out := outcome s (s.maskOp w (shMask w 0 .mask .mask .mask true) fun a b => a ^^^ b)
/-- MNOT (R259). -/
def execMnot (w : Wi) (s : State) : Out := outcome s (s.maskOp w (shMask w 0 .mask .mask .none true) fun a _ => ~~~a)

/-- The bits MSET sets (R259). -/
def msetMask (pat n : Nat) : BitVec 1024 :=
  maskOf fun l => match pat with
    | 0 => decide (l < n)
    | 1 => decide (l % 64 < n)
    | _ => decide (l / 64 < n)

/-- MSET (R259). -/
def execMset (w : Wi) (s : State) : Out :=
  let n := bitsOf w.imm.toNat 10 0
  let pat := bitsOf w.imm.toNat 12 11
  let limit := match pat with | 0 => 1024 | 1 => 64 | _ => 16
  outcome s (s.maskWord w (shMask w 13 .mask .none .none true) (decide (n ≤ limit)) fun p _ _ s1 =>
    .ok (s1.putMask w.d 2 p (msetMask pat n)))

/-- MCNT (R259). -/
def execMcnt (w : Wi) (s : State) : Out :=
  outcome s (s.maskWord w (shMask w 0 .sDst .mask .none false) true fun _ a _ s1 =>
    s1.writeS w.d (BitVec.ofNat 64 (popcount 1024 a.toNat)) 3)

/-- MFIRST (R259). -/
def execMfirst (w : Wi) (s : State) : Out :=
  outcome s (s.maskWord w (shMask w 0 .sDst .mask .none false) true fun _ a _ s1 =>
    s1.writeS w.d (BitVec.ofNat 64 (ctzNat 1024 a.toNat)) 3)

end Sys2Proof.Machine
end

