-- ==== Sys2Proof/Machine/Matrix.lean ====
section
/-!
DEFINITION. Matrix multiplies, tile operations, resolve and compare, tile images, rounding mode and format table: OP 0x70 to 0x74
(R260 to R276), over the accumulator of R65 to R78.
-/

namespace Sys2Proof.Machine

/-! ### Tiles in flight (R261 to R263) -/

/-- Whether an image load to a tile is in flight (R262). -/
def State.tileLoading (s : State) (c : Nat) : Bool := s.core.ops.any fun o => o.body.dests.contains (648 + c)

/-- Whether any result to a tile is outstanding (R262). -/
def State.tileBusy (s : State) (c : Nat) : Bool :=
  s.tileLoading c || s.core.pending.any fun p => p.eff.dests.contains (648 + c)

/-- The anchor a write in flight sets. -/
def PEff.newAnchor (c : Nat) : PEff → Option Int
  | .contrib d _ a => if d = c then a else none
  | .copy d _ _ a => if d = c then a else none
  | .anchor d a => if d = c then some a else none
  | _ => none

/-- The anchor in force when a result that lands `lat` cycles from now lands: that of the last anchor change in flight to land by then
(R68, R262). -/
def State.landingAnchor (s : State) (c lat : Nat) : Int :=
  ((s.core.pending.filter fun p => decide (p.due ≤ s.now + lat)).filterMap fun p => p.eff.newAnchor c).getLast?.getD (s.core.tile c).anchor

/-- The tiles a word names. -/
def Shape.tiles (h : Shape) : List Nat :=
  let f := fun (k : OpK) (x : OpField) => if k = .tile then [tileIx x] else []
  f h.d h.hd.d ++ f h.a h.hd.a ++ f h.c h.hd.c

/-- The unit a word of M needs, and for how long (R9, R264). -/
inductive MUnit where
  | matrix (n : Nat)
  | acc (n : Nat)
  | none
  deriving DecidableEq, Repr

/-- Wait for a unit and take it; the matrix unit's busy cycles are counted (R9, R304). -/
def State.takeUnit (s : State) (u : MUnit) : Res State :=
  match u with
  | .matrix n => if s.core.mbusy ≤ s.now then .ok (s.updC fun c => { c.count 3 n with mbusy := s.now + n }) else .error .wait
  | .acc n => if s.core.abusy ≤ s.now then .ok (s.updC fun c => { c with abusy := s.now + n }) else .error .wait
  | .none => .ok s

/-- The residue check of the matrix unit at a multiply into a tile: on a mismatch the word has no effect (R81). -/
def State.residue (s : State) (c : Nat) : Res Unit :=
  trapIf ((s.die s.core.did).badArr.getLsbD s.core.cid) { code := .machineCheck, info := c, eva := true }

/-- A word of M: rows 2 to 6, operands, tile waits, its own checks on the tiles, await, the unit, its effect (R48, R174, R260, R262). -/
def State.mword (s : State) (h : Shape) (u : MUnit) (chk : Res Unit) (waits : Bool)
    (go : VIn → State → Res State) : Res State := do
  s.static h
  let (x, s1) ← s.vread h
  waitUnless (!h.tiles.any s.tileLoading && !waits)
  chk
  s.await h.hd
  let s2 ← s1.takeUnit u
  let s3 ← go x s2
  s.shadow h
  .ok (s3.retire 1)

/-! ### Products (R66, R266 to R269) -/

/-- The value of a source element of a multiply (R55, R57). -/
def mmaElem (t : ETy) (v : VReg) (i j : Nat) : FVal :=
  if t = .i4x then (i4xElem (Sparse.get v (64 * i + j / 4)).toNat (j % 4)).1 else decodeElem t (elemBits t [v] i j)

/-- The inner dimension K of a type (R266). -/
def ETy.inner (t : ETy) : Nat := t.perRow

/-- B(k, n) of MMA and MMAF (R266). -/
def mmaB (t : ETy) (b : List VReg) (k n : Nat) : FVal :=
  mmaElem t (b.getD (k / 16 % 4) []) (k % 16) (perLane t * n + k / 64)

/-- B(k, n) of MMAT (R266). -/
def mmatB (t : ETy) (b : List VReg) (k n : Nat) : FVal := mmaElem t (b.getD (n / 16) []) (n % 16) k

/-- B(k, n) of MMAS (R266). -/
def mmasB (t : ETy) (b : List VReg) (k n : Nat) : FVal :=
  mmaElem t (b.getD (k / 16 % 8) []) (k % 16) (perLane t * n + k / 128)

/-- The addend of one lane: each product enters alone (R66, R267). -/
def addendOf (anchor : Int) (products : List FVal) : Lane :=
  (products.foldl (fun x p => Addend.deliver anchor x p) default).lane

/-- A contribution's addends in the predicated lanes. -/
def contribLanes (p : BitVec 1024) (f : Nat → Lane) : Sparse Lane := (predLanes p).map fun n => (n, f n)

/-- Misplaced markers and NaN outliers of a register read as I4X, once per element (R267). -/
def markerEvents (t : ETy) (v : VReg) : List Nat :=
  if t = .i4x then (List.range 1024).flatMap fun n => (List.range 4).flatMap fun k => (i4xElem (Sparse.get v n).toNat k).2 else []

/-- Cycles a multiply holds the matrix unit (R8, R264). -/
def State.mmaCost (s : State) : Nat := if isAttnDie s.core.did then 8 else 4

/-- Deliver dense products to a tile (R267). -/
def State.dense (s : State) (d : OpField) (at_ bt : ETy) (anchor : Int) (set : Option Int) (x : VIn)
    (bf : ETy → List VReg → Nat → Nat → FVal) : State :=
  let a := x.a.images.getD 0 []
  let b := x.b.images
  let lane := fun (n : Nat) =>
    addendOf anchor ((List.range at_.inner).map fun k => mulExact (mmaElem at_ a (n / 64) k) (bf bt b k (n % 64)))
  s.pend 12 (.contrib (tileIx d) (contribLanes x.p lane) set) (markerEvents at_ a ++ b.flatMap (markerEvents bt))

/-- The B type of a word (R265). -/
def btOf (w : Wt) : ETy := (ETy.ofCode (BitVec.ofNat 4 (xb w 27 24))).getD .n16

/-- MMA (R81, R267). -/
def execMma (w : Wt) (s : State) : Out :=
  outcome s (s.mword (shMma w false) (.matrix s.mmaCost) (.ok ()) false fun x s1 => do
    s.residue (tileIx w.d)
    .ok (s1.dense w.d (etOf w) (btOf w) (s.landingAnchor (tileIx w.d) 12) none x mmaB))

/-- MMAT (R81, R267). -/
def execMmat (w : Wt) (s : State) : Out :=
  outcome s (s.mword (shMma w false) (.matrix s.mmaCost) (.ok ()) false fun x s1 => do
    s.residue (tileIx w.d)
    .ok (s1.dense w.d (etOf w) (btOf w) (s.landingAnchor (tileIx w.d) 12) none x mmatB))

/-- The dense position of stored element `h` of group `g` within its four (R268). -/
def sparsePos (m : BitVec 1024) (g h : Nat) : Nat := (m.toNat / 2 ^ (4 * g + 2 * h)) % 4

/-- Whether a group's metadata is illegal (R268). -/
def sparseBad (m : BitVec 1024) (g : Nat) : Bool := decide (sparsePos m g 0 ≥ sparsePos m g 1)

/-- MMAS: 2:4-sparse A (R81, R268). -/
def State.mmas (s : State) (w : Wt) : Res State := do
  let h := shMma w true
  let at_ := etOf w
  let bt := btOf w
  s.static h
  let (x, s1) ← s.vread h
  let m := s.readM w.c
  let groups := List.range (at_.inner / 2)
  trapIf (xb w 23 23 == 1 && groups.any (sparseBad m)) (fltS .illegalOperand 14)
  s.await h.hd
  waitUnless (!s.tileLoading (tileIx w.d))
  s.residue (tileIx w.d)
  let s2 ← s1.takeUnit (.matrix s.mmaCost)
  let a := x.a.images.getD 0 []
  let good := groups.filter fun g => !sparseBad m g
  let lane := fun (n : Nat) =>
    addendOf (s.landingAnchor (tileIx w.d) 12) (good.flatMap fun g => [0, 1].map fun k =>
      mulExact (mmaElem at_ a (n / 64) (2 * g + k)) (mmasB bt x.b.images (4 * g + sparsePos m g k) (n % 64)))
  let events := markerEvents at_ a ++ x.b.images.flatMap (markerEvents bt) ++ (groups.filter (sparseBad m)).map fun _ => 1
  s.shadow h
  .ok ((s2.pend 12 (.contrib (tileIx w.d) (contribLanes x.p lane) none) events).retire 1)

def execMmas (w : Wt) (s : State) : Out := outcome s (s.mmas w)

/-! ### The format table (R76, R77, R269) -/

/-- The entry a word uses: IDX under FIX, else M's `lc` (R269). -/
def State.fmtIx (s : State) (fix : Bool) (idx : Nat) : Nat := if fix then idx else s.strm.lc.toNat % 16

/-- An entry with its checks: the failed read first (R77). -/
def State.fmtEntry (s : State) (e : Nat) : Res Nat := do
  match s.core.fmt.unfilled with
  | some f => trapR f
  | none => do
    let v := (Sparse.get s.core.fmt.entries e).toNat
    let ty := fun (hi lo : Nat) => ETy.ofCode (BitVec.ofNat 4 (bitsOf v hi lo))
    let dest := match ty 27 24 with
      | some .fp32 => true | some .fp16 => true | some .bf16 => true | some .e4m3 => true | some .e5m2 => true | _ => false
    trapIf (bitsOf v 63 28 != 0 || decide (bitsOf v 22 20 > 5) || !pairOk (ty 3 0) (ty 7 4) || !dest) (flt .illegalOperand)
    .ok v

/-- Fields of an entry (R76). -/
def fmtType (v hi lo : Nat) : ETy := (ETy.ofCode (BitVec.ofNat 4 (bitsOf v hi lo))).getD .n16
def fmtAnchor (v : Nat) : Int := sextNat 12 (bitsOf v 19 8)

/-- MMAF: types and anchor from a format-table entry (R81, R269). -/
def State.mmaf (s : State) (w : Wt) : Res State := do
  let h := shMmaf w
  s.static h
  let (x, s1) ← s.vread h
  let v ← s.fmtEntry (s.fmtIx (xb w 23 23 == 1) (xb w 22 19))
  s.await h.hd
  let c := tileIx w.d
  let change := fmtAnchor v != s.landingAnchor c 12
  waitUnless (!s.tileLoading c && !(change && s.tileBusy c))
  s.residue c
  let s2 ← s1.takeUnit (.matrix s.mmaCost)
  s.shadow h
  .ok ((s2.dense w.d (fmtType v 3 0) (fmtType v 7 4) (fmtAnchor v) (if change then some (fmtAnchor v) else none) x mmaB).retire 1)

def execMmaf (w : Wt) (s : State) : Out := outcome s (s.mmaf w)

/-! ### Tile housekeeping (R270) -/

/-- MCLR (R270). -/
def execMclr (w : Wt) (s : State) : Out :=
  outcome s (s.mword (shAcc w true 0 .tile .none) (.acc 1) (.ok ()) false fun x s1 => .ok (s1.pend 2 (.clear (tileIx w.d) x.p) []))

/-- An anchor within the 12-bit field (R41, R270). -/
def anchorOk (a : Int) : Bool := decide (-2048 ≤ a) && decide (a ≤ 2047)

/-- An anchor change: waits until the tile is free (R262, R270). -/
def State.anchorWord (s : State) (w : Wt) (a : Int) : Res State :=
  let c := tileIx w.d
  s.mword (shAcc w false 12 .tile .none) (.acc 1) (trapIf (!anchorOk a) (flt .illegalOperand)) (s.tileBusy c)
    fun _ s1 => .ok (s1.pend 8 (.anchor c a) [])

/-- ANCH (R270). -/
def execAnch (w : Wt) (s : State) : Out := outcome s (s.anchorWord w (sextNat 12 (xb w 11 0)))
/-- ASHF: once the tile is free its anchor is shifted, within its range (R262, R270). -/
def execAshf (w : Wt) (s : State) : Out :=
  outcome s (s.anchorWord w ((s.core.tile (tileIx w.d)).anchor + sextNat 12 (xb w 11 0)))

/-- AADDV: each element enters as the product x × 1 (R270). -/
def execAaddv (w : Wt) (s : State) : Out :=
  let t := etOf w
  let c := tileIx w.d
  outcome s (s.mword (shAaddv w) (.acc t.regs) (.ok ()) false fun x s1 =>
    .ok (s1.pend 12 (.contrib c (contribLanes x.p fun n =>
      addendOf (s.landingAnchor c 12) [decodeElem t (x.a.elem t (n / 64) (n % 64))]) none) []))

/-- A tile added to or subtracted from D, re-anchored to D's anchor (R68, R270). -/
def State.tileSum (s : State) (w : Wt) (f : Lane → Lane) : Res State :=
  let c := tileIx w.d
  let src := s.core.tile (tileIx w.a)
  s.mword (shAcc w true 0 .tile .tile) (.acc 1) (.ok ()) false fun x s1 =>
    .ok (s1.pend 8 (.contrib c (contribLanes x.p fun n =>
      f ((src.lane n).reanchor src.anchor (s.landingAnchor c 8))) none) [])

/-- AADD, the tile operation (R270). -/
def execAaddAcc (w : Wt) (s : State) : Out := outcome s (s.tileSum w id)
/-- ASUB (R270). -/
def execAsub (w : Wt) (s : State) : Out := outcome s (s.tileSum w Lane.negate)

/-- AMOV: lanes under the predicate, the anchor when PM is 0 (R262, R270). -/
def execAmov (w : Wt) (s : State) : Out :=
  let c := tileIx w.d
  let src := s.core.tile (tileIx w.a)
  let change := src.anchor != s.landingAnchor c 4
  outcome s (s.mword (shAcc w true 0 .tile .tile) (.acc 1) (trapIf (w.pm != 0 && change) (flt .illegalOperand))
    (change && s.tileBusy c) fun x s1 =>
      .ok (s1.pend 4 (.copy c x.p src.lanes (if w.pm = 0 then some src.anchor else none)) []))

/-- ACAN (R71, R270). -/
def execAcan (w : Wt) (s : State) : Out :=
  outcome s (s.mword (shAcc w false 0 .tile .none) (.acc 1) (.ok ()) false fun _ s1 => .ok (s1.pend 8 (.canon (tileIx w.d)) []))

/-! ### Resolve, compare, flag read (R271 to R273) -/

/-- How a resolve ends: its type, mode and saturation, from the word or from the table (R271). -/
structure RslvForm where
  t   : ETy
  rm  : RMode
  sat : Bool
  deriving DecidableEq, Repr

def State.rslvForm (s : State) (w : Wt) : Res RslvForm := do
  if xb w 27 27 = 1 then
    let v ← s.fmtEntry (s.fmtIx (xb w 26 26 == 1) (xb w 25 22))
    .ok { t := fmtType v 27 24, rm := s.rmode (bitsOf v 22 20), sat := v.testBit 23 }
  else .ok { t := etOf w, rm := s.modeOf w, sat := w.sat }

/-- RSLV (R70, R271). -/
def State.rslv (s : State) (w : Wt) : Res State := do
  let h := shRslv w
  s.static h
  let f ← s.rslvForm w
  let g := xb w 21 20
  let n := f.t.regs
  trapIf (if f.t.width = 8 then decide (g > 1) else g != 0) (flt .illegalOperand)
  trapIf (isV w.d && !vecOk w.d n n) (flt .illegalOperand)
  s.await h.hd
  waitUnless (!s.tileLoading (tileIx w.a))
  let s1 ← s.takeUnit (.acc n)
  let c := s.core.tile (tileIx w.a)
  let lane := fun (k : Nat) => (c.lane k).resolve f.t f.rm f.sat c.anchor
  let s2 ← s1.putElems f.t w.d (s.pred h.hd) 16 fun i j =>
    if f.t.width = 8 then (if j / 64 = g then some (lane (64 * i + j % 64)) else none) else some (lane (64 * i + j))
  s.shadow h
  .ok (s2.retire 1)

def execRslv (w : Wt) (s : State) : Out := outcome s (s.rslv w)

/-- ACMP: exact lanes against exact elements (R71, R272). -/
def execAcmp (w : Wt) (s : State) : Out :=
  let t := etOf w
  let c := s.core.tile (tileIx w.a)
  outcome s (s.mword (shAcmp w) (.acc 1) (.ok ()) false fun x s1 =>
    .ok (s1.putMask w.d 16 x.p (maskOf fun n =>
      relHolds (xb w 2 0) (cmpF ((c.lane n).cmpVal c.anchor) (decodeElem t (x.b.elem t (n / 64) (n % 64)))))))

/-- The five flags of a lane as AEXN gives them (R273). -/
def Lane.exn (l : Lane) : Nat := l.flags + (if l.ov then 16 else 0)

/-- AEXN (R273). -/
def execAexn (w : Wt) (s : State) : Out :=
  let c := s.core.tile (tileIx w.a)
  outcome s (s.mword (shAcc w true 0 (.vdst 1 1 true) .tile) (.acc 1) (.ok ()) false fun x s1 =>
    s1.putElems .n16 w.d x.p 8 fun i j => plain (c.lane (64 * i + j)).exn)

/-! ### Tile images (R72 to R75, R274) -/

/-- The address of an image and its pages (R208, R274). -/
def State.imagePages (s : State) (acc : Acc) (ea n : Nat) : Res (List (Nat × Nat)) := do
  addrCheck ea n 64
  s.xlateRange acc ea n

/-- Cycles ASTC takes to form T before it uses the port, and cycles an image takes at the port (R75). -/
def canonLead (canon : Bool) : Nat := if canon then 8 else 0
def imageCycles (canon : Bool) : Nat := if canon then 64 else 128

/-- ASTR and ASTC (R75, R274). -/
def State.tileStore (s : State) (w : Wm) (canon : Bool) : Res State := do
  let h := { shM w .req true 1 24 .none .sSrc .none .tile with streams := [.m] }
  s.static h
  let ((a, _, _), s1) ← s.sources { h with c := .none }
  let ea := effAddr w a
  let pages ← s.imagePages .wr ea (imageBytes canon)
  waitUnless (!s.tileLoading (tileIx w.c))
  s.await w.toHd
  s.withPort (.strm .m) (canonLead canon) (imageCycles canon) s1 fun s2 => do
    let (t, s3) ← s2.joinW w
    s.shadow h
    .ok ((s3.addOpAt w.cls.toNat kMW ea (pages.map fun p => (p.1, p.1))
      (.astr pages ea ((s.core.tile (tileIx w.c)).image canon) (imageRows ea (imageBytes canon))) t (canonLead canon)).retire 1)

/-- ASTR (R274). -/
def execAstr (w : Wm) (s : State) : Out := outcome s (s.tileStore w false)
/-- ASTC (R274). -/
def execAstc (w : Wm) (s : State) : Out := outcome s (s.tileStore w true)

/-- ALDR and ALDC: the image moves through the port while it is held (R75, R262, R274). -/
def State.tileLoad (s : State) (w : Wm) (canon : Bool) : Res State := do
  let h := { shM w .req true 1 24 .tile .sSrc .none .none with streams := [.m] }
  s.static h
  let ((a, _, _), s1) ← s.sources h
  let ea := effAddr w a
  let pages ← s.imagePages .rd ea (imageBytes canon)
  waitUnless (!s.tileBusy (tileIx w.d))
  s.await w.toHd
  s.withPort (.strm .m) 0 (imageCycles canon) s1 fun s2 => do
    let (t, s3) ← s2.joinW w
    .ok ((s3.addOpAt w.cls.toNat kMR ea (pages.map fun p => (p.1, p.1))
      (.aldr pages ea (tileIx w.d) canon (imageRows ea (imageBytes canon)) []) t 0).retire 1)

/-- ALDR (R274). -/
def execAldr (w : Wm) (s : State) : Out := outcome s (s.tileLoad w false)
/-- ALDC (R274). -/
def execAldc (w : Wm) (s : State) : Out := outcome s (s.tileLoad w true)

/-! ### Rounding mode and format table (R78, R275, R276) -/

/-- SETRM: from the next M word, without waiting (R275). -/
def execSetrm (w : Wt) (s : State) : Out :=
  outcome s (do
    s.static (shSetrm w)
    trapIf (w.rm == 5) (flt .illegalOperand)
    s.mword (shSetrm w) .none (.ok ()) false fun _ s1 => .ok (s1.updView fun j => { j with rm := w.rm }))

/-- FMTT: the copy is filled again; a failed read leaves it unchanged and faults (R276). -/
def State.fmtt (s : State) (w : Wt) : Res State := do
  s.static (shAcc w false 0 .none .none)
  let base := s.strm.view.fmtb.toNat
  let pages ← s.xlateRange .rd base 128
  s.await w.toHd
  waitUnless (s.classDrained 0)
  let f ← s.fmtIn base pages
  s.readGate [keyIn pages base]
  .ok (((s.touchRow (keyIn pages base)).updC fun c => { c with fmt := f }).retire 1)

def execFmtt (w : Wt) (s : State) : Out := outcome s (s.fmtt w)

end Sys2Proof.Machine
end

