-- ==== Sys2Proof/Machine/Tier.lean ====
section
/-!
DEFINITION. Tier migration: TIERIN, TIERQ and TIEREV, region nodes and their quotas, frame pools, and the step that completes a migration
(R83, R84, R234 to R236, R333, R334, R361).
-/

namespace Sys2Proof.Machine

/-! ### Frame pools (R361) -/

/-- Offsets of the four lists of a pool: array, capacity, count, low threshold; 0 L64, 1 L2M, 2 X64, 3 X2M. -/
def poolArr (i : Nat) : Nat := [0, 16, 64, 80].getD i 0
def poolCap (i : Nat) : Nat := [8, 24, 72, 88].getD i 0
def poolCnt (i : Nat) : Nat := [12, 28, 76, 92].getD i 0
def poolLow (i : Nat) : Nat := [32, 36, 96, 100].getD i 0

/-- The list that holds frames of a tier and size. -/
def poolList (tier : Nat) (big : Bool) : Nat := 2 * tier + big.toNat

/-- A page of the range that is in the tier already: it is skipped, and holds its token (R234, R235). -/
def MigPage.stays (p : MigPage) : Bool := p.dst == p.src

/-- The list a migrated page's old frame goes to; a FLASH page leaves no frame (R361). -/
def MigPage.freed (p : MigPage) : Option Nat :=
  let t := keyTier p.src
  if t = 2 || p.stays then none else some (poolList t (decide (p.bytes > 65536)))

/-- The list a migrated page's new frame came from; a page that returns to FLASH took none (R361). -/
def MigPage.taken (p : MigPage) : Option Nat :=
  if p.copy then some (poolList (keyTier p.dst) (decide (p.bytes > 65536))) else none

/-- Frames that accepted migrations may still push onto a list of a pool: old frames, and new ones that come back when a migration ends
at poison (R211, R361). -/
def State.pushesDue (s : State) (pool i : Nat) : Nat :=
  let ps := s.migs.flatMap fun m => if m.pool = pool then m.pages else []
  ps.countP (fun p => p.freed == some i) + ps.countP fun p => p.taken == some i

/-- Whether the device may write a pool now: none of its counts and arrays lies in a locked frame (R357). -/
def State.poolFree (s : State) (pool : Nat) : Bool :=
  (List.range 4).all fun i => !s.frameLocked (pool + poolCnt i) &&
    !s.frameLocked (s.natAt (pool + poolArr i) 8 + 8 * s.natAt (pool + poolCnt i) 4)

/-- Take the top frame of a list, with the low notice of R361. -/
def State.popFrame (s : State) (c : Core) (pool i : Nat) : Nat × State :=
  let n := s.natAt (pool + poolCnt i) 4
  let f := s.natAt (s.natAt (pool + poolArr i) 8 + 8 * (n - 1)) 8
  let low := s.natAt (pool + poolLow i) 4
  let s1 := s.writeMem (pool + poolCnt i) (leBytes 4 (n - 1))
  (f, if low = n then s1.postJob c { code := 0x45, die := c.did, info := i } else s1)

/-- Push a freed frame onto its list. -/
def State.pushFrame (s : State) (pool i frame : Nat) : State :=
  let n := s.natAt (pool + poolCnt i) 4
  (s.writeMem (s.natAt (pool + poolArr i) 8 + 8 * n) (leBytes 8 frame)).writeMem (pool + poolCnt i) (leBytes 4 (n + 1))

/-! ### Ranges of pages (R234) -/

/-- A page of a range: its address and its leaf. -/
structure TPage where
  va : Nat
  leaf : Leaf
  deriving DecidableEq, Repr

def Leaf.bytes (l : Leaf) : Nat := if l.big then 0x200000 else 0x10000

/-- The page an address begins, walked at package scope (R82, R86, R234, R353). -/
def State.tierPage (s : State) (va : Nat) : Res TPage := do
  rangeCheck va 1
  trapIf (inWindow va) (flt .illegalOperand)
  match s.walk s.ptb va with
  | .error sub => trapR { code := .translation, sub := sub, addr := va }
  | .ok l =>
    trapIf (va % l.bytes != 0) (flt .illegalOperand)
    .ok ⟨va, l⟩

/-- The pages of a range: at most as many as the fuel, each whole (R234). -/
def State.tierPages (s : State) (va left : Nat) : Nat → Res (List TPage)
  | 0 => if left = 0 then .ok [] else trapR (flt .illegalOperand)
  | fuel + 1 =>
    if left = 0 then .ok []
    else do
      let p ← s.tierPage va
      trapIf (decide (left < p.leaf.bytes)) (flt .illegalOperand)
      trapIf (s.leafPoisoned p.leaf) { code := .poison, addr := va }
      let r ← s.tierPages (va + p.leaf.bytes) (left - p.leaf.bytes) fuel
      .ok (p :: r)

/-- CXL traffic needs the IDE stream: it waits for it, and faults after an integrity failure (R331). -/
def State.cxlReady (s : State) (va : Nat) : Res Unit :=
  if s.host.ide then .ok ()
  else if s.host.ideerr then trapR { code := .translation, sub := 2, addr := va }
  else .error .wait

/-- Whether another migration holds the token of one of the pages (R84, R361). -/
def State.tokensHeld (s : State) (ps : List TPage) : Bool :=
  ps.any fun p => s.migs.any fun m => m.pages.any fun q => q.entry == p.leaf.entry || q.src == leafKey p.leaf.leaf

/-- A leaf entry with another tier and frame. -/
def leafWith (e tier frame : Nat) : Nat :=
  e % 65536 + bitsOf frame 51 16 * 65536 + bitsOf e 61 52 * 2 ^ 52 + tier * 2 ^ 62

/-- A page that is skipped. -/
def TPage.stay (p : TPage) : MigPage :=
  let e := p.leaf.leaf
  { va := p.va, entry := p.leaf.entry, leaf := e, newLeaf := e, bytes := p.leaf.bytes, src := leafKey e, dst := leafKey e, copy := false }

/-- Take frames for the pages that move and lay out the moves: to HBM (tier 0) or to CXL (tier 1). A FLASH page stays read-only and of
FLASH origin (R234, R235). -/
def State.layMoves (s : State) (c : Core) (pool tier : Nat) (moves : TPage → Bool) : List TPage → List MigPage × State
  | [] => ([], s)
  | p :: r =>
    if !moves p then
      let (l, s1) := s.layMoves c pool tier moves r
      (p.stay :: l, s1)
    else
      let e := p.leaf.leaf
      let (f, s1) := s.popFrame c pool (poolList tier p.leaf.big)
      let flash := leafTier e == 2
      let e1 := leafWith e tier f
      let e2 := if flash then (if e1.testBit 61 then e1 else e1 + 2 ^ 61) - (if e1.testBit 59 then 2 ^ 59 else 0) else e1
      let (l, s2) := s1.layMoves c pool tier moves r
      ({ p.stay with newLeaf := e2, dst := f + (if tier = 1 then cxlBase else 0), copy := true } :: l, s2)

/-- The counts a command takes from and gives to each list are within what the pool holds (R361). -/
def State.poolOk (s : State) (pool : Nat) (take give : Nat → Nat) : Bool :=
  (List.range 4).all fun i =>
    (take i == 0 || (pool != 0 && decide (take i ≤ s.natAt (pool + poolCnt i) 4)))
      && (give i == 0 || (pool != 0 && decide (s.natAt (pool + poolCnt i) 4 + s.pushesDue pool i + give i ≤ s.natAt (pool + poolCap i) 4)))

/-- Pages of a list of pages that take from or give to list `i`. -/
def countList (ps : List TPage) (f : TPage → Option Nat) (i : Nat) : Nat := ps.countP fun p => f p == some i

def totalBytes (ps : List TPage) : Nat := (ps.map fun p => p.leaf.bytes).sum

/-- Record an accepted migration, with status 0 (R234). -/
def State.startMig (s : State) (w : Wm) (pool : Nat) (pages : List MigPage) : Res State := do
  let (t, s1) ← s.joinW w
  let s2 ← s1.writeS w.d 0 1
  let (id, s3) := s2.fresh
  let m : Mig := { id := id, pages := pages, pool := pool, node := s.core.node, cls := w.cls.toNat
                   lrec := s.core.lrec, job := s.core.job.toNat, tok := t, blocked := [] }
  .ok (({ s3 with migs := s3.migs ++ [m] } : State).retire 1)

/-- Status 1 or 2: nothing else happens (R234). -/
def State.tierStatus (s : State) (w : Wm) (v : Word) : Res State := do
  let s1 ← s.writeS w.d v 1
  .ok (s1.retire 1)

/-- The sources and the pages of a tier command: EA begins a page, of an empty range too (R234). -/
def State.tierRange (s : State) (w : Wm) (h : Shape) : Res (List TPage × State) := do
  s.static h
  let ((a, b, _), s1) ← s.sources h
  let ea := effAddr w a
  let _ ← s.tierPage ea
  let ps ← s.tierPages ea b.toNat 64
  .ok (ps, s1)

/-- TIERIN (R234, R361). -/
def State.tierin (s : State) (w : Wm) : Res State := do
  let (ps, s1) ← s.tierRange w (shM w .opt true 1 24 .sDst .sSrc .sSrc .none)
  let moves := fun (p : TPage) => leafTier p.leaf.leaf != 0
  let mv := ps.filter moves
  let cxl := mv.filter fun p => leafTier p.leaf.leaf == 1
  match cxl with
  | p :: _ => s.cxlReady p.va
  | [] => .ok ()
  s.await w.toHd
  waitUnless (s.classDrained w.cls.toNat)
  if s.tokensHeld ps then s1.tierStatus w 1
  else
    let path := s.nodePath treeDepth s.core.node
    let pool := s.inherit 56 8 path
    waitUnless (s.poolFree pool)
    let take := countList mv fun p => some (poolList 0 p.leaf.big)
    let give := countList cxl fun p => some (poolList 1 p.leaf.big)
    if !s.quotaOk 24 96 (totalBytes mv) path || !s.poolOk pool take give then s1.tierStatus w 2
    else
      let (pages, s2) := (s1.addUse 96 (totalBytes mv) path).layMoves s.core pool 0 moves ps
      s2.startMig w pool pages

def execTierin (w : Wm) (s : State) : Out := outcome s (s.tierin w)

/-- The flash page an HBM frame came from (R235). -/
def State.originOf (s : State) (key : Nat) : Option Nat := (s.origins.find? fun o => o.1 == key).map (·.2)

/-- TIEREV (R235, R361). -/
def State.tierev (s : State) (w : Wm) : Res State := do
  let (ps, s1) ← s.tierRange w (shM w .opt true 6 24 .sDst .sSrc .sSrc .none)
  let moves := fun (p : TPage) => leafTier p.leaf.leaf == 0
  let mv := ps.filter moves
  let flash := w.sz == 2
  trapIf (flash && mv.any fun p => !leafOrig p.leaf.leaf || (s.originOf (leafKey p.leaf.leaf)).isNone) (flt .illegalOperand)
  match mv with
  | p :: _ => if flash then .ok () else s.cxlReady p.va
  | [] => .ok ()
  s.await w.toHd
  waitUnless (s.classDrained w.cls.toNat)
  if s.tokensHeld ps then s1.tierStatus w 1
  else
    let path := s.nodePath treeDepth s.core.node
    let pool := s.inherit 56 8 path
    waitUnless (s.poolFree pool)
    let give := countList mv fun p => some (poolList 0 p.leaf.big)
    if flash then
      if !s.poolOk pool (fun _ => 0) give then s1.tierStatus w 2
      else
        s1.startMig w pool (ps.map fun p =>
          let e := p.leaf.leaf
          let f := (s.originOf (leafKey e)).getD 0 * 65536
          if moves p then { p.stay with newLeaf := leafWith e 2 f, dst := f + flashBase } else p.stay)
    else
      let take := countList mv fun p => some (poolList 1 p.leaf.big)
      if !s.quotaOk 32 104 (totalBytes mv) path || !s.poolOk pool take give then s1.tierStatus w 2
      else
        let (pages, s2) := (s1.addUse 104 (totalBytes mv) path).layMoves s.core pool 1 moves ps
        s2.startMig w pool pages

def execTierev (w : Wm) (s : State) : Out := outcome s (s.tierev w)

/-- The state TIERQ reports (R236). -/
def State.tierWord (s : State) (l : Leaf) : Nat :=
  leafTier l.leaf + 4 * (s.tokensHeld [{ va := 0, leaf := l }]).toNat + 8 * (leafOrig l.leaf).toNat + 16 * l.big.toNat
    + 32 * (s.leafPoisoned l).toNat

/-- TIERQ (R236). -/
def State.tierq (s : State) (w : Wm) : Res State := do
  let h := shM0 w .none 1 24 .sDst .sSrc .none .none
  s.static h
  let ((a, _, _), s1) ← s.sources h
  let ea := effAddr w a
  rangeCheck ea 1
  trapIf (inWindow ea) (flt .illegalOperand)
  match s.walk s.ptb ea with
  | .error sub => trapR { code := .translation, sub := sub, addr := ea }
  | .ok l =>
    s.await w.toHd
    let s2 ← s1.writeS w.d (BitVec.ofNat 64 (s.tierWord l)) 1
    .ok (s2.retire 1)

def execTierq (w : Wm) (s : State) : Out := outcome s (s.tierq w)

/-! ### Completion (R84, R211, R234, R235, R361) -/

/-- Move the listed bytes of a range: the destination then reads as the source. -/
def copyCells (m : List Host.Cell) (src dst n : Nat) : List Host.Cell :=
  let kept := m.filter fun c => !(decide (dst ≤ c.1) && decide (c.1 < dst + n))
  (m.filter fun c => decide (src ≤ c.1) && decide (c.1 < src + n)).foldl (fun k c => Sparse.set k (c.1 - src + dst) c.2) kept

/-- Copy a frame whole; its lines' poison marks clear (R84, R356). -/
def State.copyFrame (s : State) (src dst n : Nat) : State :=
  if s.hbmDead dst then s
  else { s with mem := copyCells s.mem src dst n, poison := if isHbmKey dst then clearPoison s.poison dst n else s.poison }

/-- The keys of an access after a page has moved. -/
def MBody.rekey (f : Nat → Nat) : MBody → MBody
  | .desc pa => .desc (f pa)
  | .load pa n g d => .load (f pa) n g d
  | .store pa b => .store (f pa) b
  | .atomic fn pa n b c d => .atomic fn (f pa) n b c d
  | .swadd pa n => .swadd (f pa) n
  | .ldv t r p => .ldv (t.map fun x => (x.1, f x.2)) r p
  | .ldvp t o l p a => .ldvp (t.map fun x => (x.1, f x.2)) o l p a
  | .stv t d p => .stv (t.map fun x => (x.1, f x.2)) d p
  | .ldg e n r => .ldg (e.map fun x => (x.1, f x.2)) n r
  | .stg e n => .stg (e.map fun x => (x.1, f x.2.1, x.2.2)) n
  | .astr p v b l => .astr (p.map fun x => (x.1, f x.2)) v b l
  | .aldr p v c k l g => .aldr (p.map fun x => (x.1, f x.2)) v c k l g

/-- Translated granules after a page has moved. -/
def rekeyPages (f : Nat → Nat) (l : List (Nat × Nat)) : List (Nat × Nat) := l.map fun x => (x.1, f x.2)

/-- A copy after a page has moved: its pages and its sync word. -/
def Copy.rekey (f : Nat → Nat) (k : Copy) : Copy := { k with pages := rekeyPages f k.pages, sw := k.sw.map f }

/-- A command at the Orrery after a page has moved: the record or the image it has still to write. -/
def KCmd.rekey (f : Nat → Nat) : KCmd → KCmd
  | .smout p va d => .smout (rekeyPages f p) va d
  | .stat pa n d => .stat (f pa) n d
  | .put p va b => .put (rekeyPages f p) va b
  | c => c

/-- A write held back, after a page has moved. -/
def Late.rekey (f : Nat → Nat) : Late → Late
  | .bytes k b => .bytes (f k) b
  | .use a d => .use (f a) d
  | l => l

/-- Accesses, copies, exchanges and records in flight follow a page that moves, wherever their jobs are; TLB entries of its old leaf go; a
watched page that leaves its frame is watched no more (R84, R95, R299, R354). -/
def State.movePage (s : State) (p : MigPage) : State :=
  let f := fun (k : Nat) => if p.src ≤ k ∧ k < p.src + p.bytes then k - p.src + p.dst else k
  let keep := fun (l : List TlbEnt) => l.filter fun t => t.leaf != p.leaf
  let core := fun (c : Core) =>
    { c with ops := c.ops.map fun o => { o with body := o.body.rekey f }
             rake := c.rake.map (Copy.rekey f), tlb := keep c.tlb }
  { s with
    core := core s.core
    parked := s.parked.map core
    saved := s.saved.map fun (v : SavedGang) => { v with cores := v.cores.map core }
    orphans := s.orphans.map (Copy.rekey f)
    late := s.late.map (Late.rekey f)
    dies := s.dies.map fun (d : Die) =>
      { d with tlbs := d.tlbs.map fun x => (x.1, keep x.2)
               kops := d.kops.map fun o => { o with cmd := o.cmd.rekey f }
               ctxs := d.ctxs.map fun c => { c with swapPages := rekeyPages f c.swapPages }
               pans := d.pans.map fun x => (x.1, { x.2 with
                 pages := x.2.pages.filter fun g => !(decide (p.src ≤ g.2) && decide (g.2 < p.src + p.bytes))
                 reads := x.2.reads.map fun r => { r with pages := rekeyPages f r.pages } }) } }

/-- A page of a migration whose copy, if it has one, is whole: it is retagged at package scope, its old frame returned; one that stays keeps both
(R84, R234, R235, R361). -/
def State.migratePage (s : State) (m : Mig) (p : MigPage) : State :=
  let s2 := (s.writeMem p.entry (leBytes 8 p.newLeaf)).movePage p
  let org := if keyTier p.src = 0 then s2.origins.filter fun o => o.1 != p.src else s2.origins
  let s3 := { s2 with origins := if keyTier p.src = 2 then org ++ [(p.dst, (p.src - flashBase) / 65536)] else org }
  let path := s3.nodePath treeDepth m.node
  match p.freed with
  | none => s3
  | some i =>
    (s3.addUse (if keyTier p.src = 0 then 96 else 104) (-(p.bytes : Int)) path).pushFrame m.pool i
      (p.src - (if keyTier p.src = 1 then cxlBase else 0))

/-- A page that does not move gives its new frame back (R211, R361). -/
def State.unmovePage (s : State) (m : Mig) (p : MigPage) : State :=
  if !p.copy then s
  else
    let t := keyTier p.dst
    (s.addUse (if t = 0 then 96 else 104) (-(p.bytes : Int)) (s.nodePath treeDepth m.node)).pushFrame m.pool
      (poolList t (decide (p.bytes > 65536))) (p.dst - (if t = 1 then cxlBase else 0))

/-- Pages that do not move. -/
def State.unmovePages (s : State) (m : Mig) : List MigPage → State
  | [] => s
  | p :: r => (s.unmovePage m p).unmovePages m r

/-- Change a migration. -/
def State.updMig (s : State) (id : Nat) (f : Mig → Mig) : State := { s with migs := s.migs.map fun m => if m.id = id then f m else m }

/-- A migration leaves, and its batch is performed, with an error that ended it (R96, R211). -/
def State.endMig (s : State) (m : Mig) (err : Option FaultInfo) : State :=
  ({ s with migs := s.migs.filter fun x => x.id != m.id } : State).endOp m.tok err

/-- An error ends a migration: the pages not yet moved give their new frames back, once the pool may be written (R211, R357). -/
def State.failMig (s : State) (m : Mig) (f : FaultInfo) : State :=
  if s.poolFree m.pool then (s.unmovePages m m.pages).endMig m (some f) else s

/-- An access of a migration's copy: it waits for a locked frame, the host link or a bank (R84, R324, R331, R357). -/
def State.gateMig (s : State) (m : Mig) (reads writes : List Nat) (go : State → State) : State :=
  match s.gate reads writes with
  | .wait => s
  | .bank => s.updMig m.id fun x => { x with blocked := x.blocked ++ s.newBlocks x.blocked 0 s.now (reads ++ writes) }
  | .go => go (s.touchRows (reads ++ writes))

/-- The next step of a migration's copy: 1 KiB is read, then written in the new frame (R84, R322). -/
def State.copyMig (s : State) (m : Mig) (p : MigPage) : State :=
  let src := p.src + m.at_
  if !m.read then
    match s.firstPoison [((p.va + m.at_) / 65536 * 65536, p.src + m.at_ / 65536 * 65536)] (p.va + m.at_) 1024 with
    | some a => s.failMig m (poisonAt a)
    | none => s.gateMig m [src] [] fun s => s.updMig m.id fun x => { x with read := true }
  else s.gateMig m [] [p.dst + m.at_] fun s =>
    (s.copyFrame src (p.dst + m.at_) 1024).updMig m.id fun x => { x with at_ := m.at_ + 1024, read := false }

/-- TIER_MIGRATION_COMPLETE: the next step of a migration. A page that is copied is read and written 1 KiB at a time, then retagged, and its token
is released; the last page's retag performs the batch. A link that has failed ends it by R211 (R84, R234, R235, R331). -/
def State.finishMig (s : State) (id : Nat) : State :=
  match s.migs.find? fun m => m.id == id with
  | none => s
  | some m =>
    match m.pages with
    | [] => s.endMig m none
    | p :: r =>
      if p.copy && (s.linkDown p.src || s.linkDown p.dst) then (if s.host.ideerr then s.failMig m (refusedAt p.va) else s)
      else if p.copy && decide (m.at_ < p.bytes) then s.copyMig m p
      else
        let s1 := if p.stays then s else s.migratePage m p
        if !p.stays && (s.frameLocked p.entry || !s.poolFree m.pool) then s
        else if r.isEmpty then s1.endMig m none
        else s1.updMig id fun x => { x with pages := r, at_ := 0, read := false }

def execTierMigrationComplete (id : Nat) (s : State) : Out := .next (s.finishMig id)

end Sys2Proof.Machine
end

