-- ==== Sys2Proof/Machine/Orrery.lean ====
section
/-!
DEFINITION. The Orrery of an attention die: contexts, nodes and their filing, commands and their order, fork and sharing, the sequence
map, background work: OP 0x80 to 0x83 (R120 to R145, R281 to R295).
-/

namespace Sys2Proof.Machine

/-! ### Contexts (R120 to R124) -/

/-- A context of a die by its number. -/
def Die.ctx (d : Die) (n : Nat) : Option Ctx := d.ctxs.find? fun c => c.num == n

/-- Change a context. -/
def State.updCtx (s : State) (die n : Nat) (f : Ctx → Ctx) : State :=
  s.updDie die fun d => { d with ctxs := d.ctxs.map fun c => if c.num = n then f c else c }

/-- G rounded up to a power of two (R121). -/
def gpOf (g : Nat) : Nat := if g ≤ 1 then 1 else 2 ^ (Nat.log2 (g - 1) + 1)
def Ctx.gp (c : Ctx) : Nat := gpOf c.g
/-- W, cell bytes, page bytes, positions the slab holds (R121, R122). -/
def Ctx.w (c : Ctx) : Nat := 2 ^ c.lw
def Ctx.cellBytes (c : Ctx) : Nat := 2 ^ c.lc
def pageBytesOf (lc g : Nat) : Nat := 64 * 2 ^ lc * gpOf g
def Ctx.pageBytes (c : Ctx) : Nat := pageBytesOf c.lc c.g
def Ctx.limit (c : Ctx) : Nat := 64 * 2 ^ c.k

/-- 64 KiB granules that hold `n` bytes. -/
def granules (n : Nat) : Nat := (n + 65535) / 65536

/-- Granules of a context area: heads, then nodes (R123). -/
def areaGranules (lw g kmax : Nat) : Nat := granules (256 + 24 * 2 ^ lw) + granules (32 * (64 * gpOf g * 2 ^ kmax))
def slabGranules (lc g k : Nat) : Nat := granules (pageBytesOf lc g * 2 ^ k)

/-- The watermark as a number, none comparing as −1 (R124). -/
def wwInt (w : Option Nat) : Int := match w with | some p => p | none => -1

/-- The handle of a context (R120). -/
def Ctx.handle (c : Ctx) (die : Nat) : Nat := c.gen * 2 ^ 24 + die * 2 ^ 14 + c.num

/-- A handle as the issuing core's die accepts it (R120). -/
def State.ctxOf (s : State) (h : Nat) : Res Ctx :=
  match (s.die s.core.did).ctx (h % 2 ^ 14) with
  | some c =>
    if bitsOf h 15 14 = s.core.did ∧ bitsOf h 23 16 = 0 ∧ bitsOf h 31 24 = c.gen ∧ c.dead = false then .ok c
    else trapR (fltS .illegalOperand 4)
  | none => trapR (fltS .illegalOperand 4)

/-- The accepted watermark: ww and the KVWs in flight (R292). -/
def Die.accepted (d : Die) (c : Ctx) : Int :=
  d.kops.foldl (fun m o => match o.cmd with
    | .kvw p _ _ _ => if o.ctx = c.num then max m p else m
    | _ => m) (wwInt c.ww)

/-! ### The sequence map (R141) -/

/-- A map entry loaded from the page tables. -/
def State.mapEnt (s : State) (ptb va : Nat) : MapEnt :=
  match s.walk ptb va with
  | .error _ => default
  | .ok l => { tier := leafTier l.leaf, v := true, brw := false, lend := 0
               frame := leafFrame l.leaf + (if l.big then va % 0x200000 / 65536 * 65536 else 0) }

/-- The map of `n` granules from an address. -/
def State.loadMap (s : State) (ptb va n : Nat) : Sparse MapEnt := Sparse.ofFn n fun i => s.mapEnt ptb (va + 65536 * i)

/-- The memory key of a byte of a granule. -/
def MapEnt.key (e : MapEnt) (off : Nat) : Nat :=
  e.frame + off % 65536 + (match e.tier with | 1 => cxlBase | 2 => flashBase | _ => 0)

/-- One key for each interleave of 1 KiB that `n` bytes of a granule from an offset meet (R322). -/
def MapEnt.keys (e : MapEnt) (off n : Nat) : List Nat :=
  if n = 0 then [] else (List.range ((off + n - 1) / 1024 + 1 - off / 1024)).map fun i => e.key (max off ((off / 1024 + i) * 1024))

/-- An entry as the map memory holds it, and read back (R141). -/
def MapEnt.word (e : MapEnt) : Nat :=
  e.tier * 2 ^ 62 + e.v.toNat * 2 ^ 61 + e.brw.toNat * 2 ^ 60 + e.lend * 2 ^ 52 + e.frame
def MapEnt.ofWord (n : Nat) : MapEnt :=
  { tier := bitsOf n 63 62, v := n.testBit 61, brw := n.testBit 60, lend := bitsOf n 59 52, frame := bitsOf n 51 16 * 65536 }

/-- Entries a context takes in the map memory (R141). -/
def Ctx.entries (c : Ctx) : Nat :=
  slabGranules c.lc c.g c.k + areaGranules c.lw c.g c.kmax + (if c.fwd.isSome then slabGranules c.lc c.g (c.k + 1) else 0)

/-- Entries in use on a die; the map memory holds 2,097,152 (R141). -/
def Die.mapUse (d : Die) : Nat := ((d.ctxs.filter (·.hot)).map Ctx.entries).sum
def mapCapacity : Nat := 2097152

/-- The byte offset of a cell in the slab (R122). -/
def Ctx.cellOff (c : Ctx) (p g : Nat) : Nat := p / 64 * c.pageBytes + (g * 64 + p % 64) * c.cellBytes

/-- The entry that maps a slab offset: the new slab's where its page has moved (R144). -/
def Ctx.slabEnt (c : Ctx) (off : Nat) : MapEnt :=
  match c.fwd with
  | some f => if off / c.pageBytes < f.wm then Sparse.get f.map (off / 65536) else Sparse.get c.map (off / 65536)
  | none => Sparse.get c.map (off / 65536)

/-- The granules of the share unit that holds a position (R136 to R138). -/
def Ctx.unit (c : Ctx) : Nat := max 64 (64 * 65536 / c.pageBytes)
def Ctx.unitGranules (c : Ctx) (u : Nat) : List Nat :=
  let n := max 65536 c.pageBytes / 65536
  ((List.range n).map fun i => u * n + i).filter fun x => decide (x < slabGranules c.lc c.g c.k)

/-! ### Nodes and lists (R125, R129 to R131) -/

/-- The index of a node (R123). -/
def Ctx.nodeIx (c : Ctx) (p g : Nat) : Nat := p * c.gp + g

/-- Bytes of the context block and the heads, and the granules they lie in (R123). -/
def Ctx.headLen (c : Ctx) : Nat := 256 + 24 * c.w
def Ctx.headGrs (c : Ctx) : List Nat := List.range (granules c.headLen)

/-- The granules of the context area that hold nodes `ix` to `ix + n - 1` (R123). -/
def Ctx.nodeGrs (c : Ctx) (ix n : Nat) : List Nat :=
  if n = 0 then [] else (List.range ((32 * (ix + n) - 1) / 65536 + 1 - 32 * ix / 65536)).map fun i =>
    granules c.headLen + 32 * ix / 65536 + i

/-- An access of the Orrery to granules of a context area: each is mapped (R141). -/
def Ctx.areaOk (c : Ctx) (grs : List Nat) : Res Unit :=
  match grs.find? fun i => !(Sparse.get c.amap i).v with
  | some i => trapR { code := .translation, sub := 16, addr := c.area + 65536 * i }
  | none => .ok ()

/-- B(x), and f. -/
def Ctx.block (c : Ctx) (x : Nat) : Nat := x / c.w
def Ctx.front (c : Ctx) : Nat := c.block (c.rp + 1)

/-- The expiry of an entry that never expires. -/
def neverExpiry : Nat := 0xFFFFFFFF

/-- The list a node belongs on: its number as FLG has it, and the slot of a ring (R125, R129). -/
def Ctx.place (c : Ctx) (e : Nat) : Nat × Nat :=
  if e = neverExpiry then (4, 0)
  else if e ≤ c.h then (5, 0)
  else if c.block e ≤ c.front + 1 then (1, 2 * (e % c.w) + c.block e % 2)
  else if c.block e ≤ c.front + c.w + 1 then (2, c.block e % c.w)
  else (3, 0)

/-- Change a list. -/
def Ctx.onList (c : Ctx) (l slot : Nat) (f : List Nat → List Nat) : Ctx :=
  match l with
  | 1 => { c with inner := Sparse.set c.inner slot (f (Sparse.get c.inner slot)) }
  | 2 => { c with outer := Sparse.set c.outer slot (f (Sparse.get c.outer slot)) }
  | 3 => { c with far := f c.far }
  | 4 => { c with never := f c.never }
  | 5 => { c with release := f c.release }
  | _ => c

/-- File a node (R129). -/
def Ctx.file (c : Ctx) (ix : Nat) (n : Node) : Ctx :=
  let (l, slot) := c.place n.e
  { c.onList l slot (· ++ [ix]) with nodes := Sparse.set c.nodes ix { n with flg := l } }

/-- File a node on the release list whatever its expiry. -/
def Ctx.toRelease (c : Ctx) (ix : Nat) (n : Node) : Ctx :=
  { c with release := c.release ++ [ix], nodes := Sparse.set c.nodes ix { n with flg := 5 } }

/-- The slot of the ring a node is filed on: it follows from its expiry, whose lap and block do not change meanwhile. -/
def Ctx.slotOf (c : Ctx) (n : Node) : Nat := if n.flg = 1 then 2 * (n.e % c.w) + c.block n.e % 2 else c.block n.e % c.w

/-- Take a node off its list. -/
def Ctx.unlink (c : Ctx) (ix : Nat) : Ctx :=
  let n := Sparse.get c.nodes ix
  c.onList n.flg (c.slotOf n) fun l => l.filter (· != ix)

/-- A list by its number and slot. -/
def Ctx.listAt (c : Ctx) (l slot : Nat) : List Nat :=
  match l with
  | 1 => Sparse.get c.inner slot
  | 2 => Sparse.get c.outer slot
  | 3 => c.far
  | 4 => c.never
  | 5 => c.release
  | _ => []

/-- A node index in a link or a head; all ones is none (R125, log entry 8). -/
def linkBytes (ix : Option Nat) : List Byte := leBytes 8 (ix.getD (2 ^ 64 - 1))

/-- The 32 bytes of a node as the Orrery sees them: PREV and NEXT are its neighbours on its list; a node on none is empty (R125, R131). -/
def Ctx.nodeBytes (c : Ctx) (ix : Nat) : List Byte :=
  let n := Sparse.get c.nodes ix
  if n.flg = 0 then List.replicate 32 0
  else
    let l := c.listAt n.flg (c.slotOf n)
    let at_ := l.idxOf ix
    leBytes 4 n.e ++ leBytes 4 n.tag ++ leBytes 1 n.grp ++ leBytes 1 n.flg ++ leBytes 6 0
      ++ linkBytes (if at_ = 0 then none else l[at_ - 1]?) ++ linkBytes l[at_ + 1]?

/-- The wheel heads: the first node of each inner slot and lap, then of each outer slot (R123, log entry 8). -/
def Ctx.headBytes (c : Ctx) : List Byte :=
  ((List.range (2 * c.w)).flatMap fun i => linkBytes (c.listAt 1 i).head?)
    ++ (List.range c.w).flatMap fun i => linkBytes (c.listAt 2 i).head?

/-- Nodes of a list of a ring go to the release list in one step (R130). -/
def Ctx.splice (c : Ctx) (l slot : Nat) (p : Node → Bool) : Ctx :=
  let mine := fun ix => p (Sparse.get c.nodes ix)
  let moved := (c.listAt l slot).filter mine
  let c1 := c.onList l slot fun x => x.filter fun ix => !mine ix
  { c1 with release := c1.release ++ moved
            nodes := moved.foldl (fun m ix => Sparse.set m ix { Sparse.get m ix with flg := 5 }) c1.nodes }

/-- Move a node to where it now belongs. -/
def Ctx.refile (c : Ctx) (ix : Nat) : Ctx := (c.unlink ix).file ix (Sparse.get c.nodes ix)

/-- Whether a step is still to be done: a node that a command has moved since needs no move (R129, R130). -/
def Ctx.live (c : Ctx) : EngStep → Bool
  | .splice _ => true
  | .move ix => let n := Sparse.get c.nodes ix; (n.flg == 2 || n.flg == 3) && (c.place n.e).1 != n.flg

/-- The steps of the block end under way. -/
def Ctx.due (c : Ctx) : List EngStep := c.steps.dropWhile fun e => !c.live e

/-- The steps of the end of block f − 1: the outer block that joins the inner ring is spliced, or each of its nodes is moved; after W blocks each
far node that comes near is moved (R130). An outer slot also takes the nodes of the block a lap ahead, which stay. -/
def Ctx.blockEnd (c : Ctx) : List EngStep :=
  let b := c.front + 1
  let of := fun (l : List Nat) (p : Nat → Bool) => (l.filter fun ix => p (c.block (Sparse.get c.nodes ix).e)).map EngStep.move
  (if (b + 1) * c.w - 1 ≤ c.h then [.splice b] else of (Sparse.get c.outer (b % c.w)) (· == b))
    ++ if c.front % c.w = 0 then of c.far (fun x => decide (x ≤ c.front + c.w + 1)) else []

/-- Whether reclamation has a step to do. -/
def Ctx.reclaims (c : Ctx) : Bool := !c.dead && (!c.due.isEmpty || decide (c.rp < c.h))

/-- One engine step of reclamation: the next of a block's end, else the splice of the next position (R130). -/
def Ctx.reclaim (c : Ctx) : Ctx :=
  match c.due with
  | .splice b :: r => { c.splice 2 (b % c.w) (fun n => c.block n.e == b) with steps := r }
  | .move ix :: r => { c.refile ix with steps := r }
  | [] =>
    if c.h ≤ c.rp then { c with steps := [] }
    else
      let x := c.rp + 1
      let c1 := { c.splice 1 (2 * (x % c.w) + c.block x % 2) (fun _ => true) with rp := x, steps := [] }
      if x % c.w ≠ c.w - 1 then c1 else { c1 with steps := c1.blockEnd }

/-- Whether an ATTN in flight has still to read a node that its sample of H lets it see: the release of the node waits, so that no result
depends on the engine's progress (R127, R310). -/
def Die.inView (d : Die) (c : Ctx) (ix : Nat) : Bool :=
  let page := ix / c.gp / 64
  d.attns.any fun a => a.ctx == c.num && a.grp == ix % c.gp && decide (a.page + a.next ≤ page) && decide (page < a.page + a.count)
    && decide (a.h < (Sparse.get c.nodes ix).e)

/-- One node of the release list written empty: the first that no ATTN has in view (R131). -/
def Ctx.releaseOne (c : Ctx) (held : Nat → Bool) : Ctx :=
  match c.release.find? fun ix => !held ix with
  | none => c
  | some ix => { c with release := c.release.filter (· != ix), nodes := Sparse.set c.nodes ix default }

/-- Every filed node goes to the release list (R131, R140). -/
def Ctx.freeNodes (c : Ctx) : Ctx :=
  let filed := c.nodes.filter fun n => n.2.flg != 0
  { c with inner := [], outer := [], far := [], never := [], steps := [], release := filed.map (·.1)
           nodes := filed.map fun n => (n.1, { n.2 with flg := 5 }) }

/-- Whether a page is reported reclaimable: no node of it is filed, and it lies at or below H (R131). -/
def Ctx.reclaimable (c : Ctx) (page : Nat) : Bool :=
  decide (page < 2 ^ c.k) && decide (64 * page + 63 ≤ c.h) &&
    c.nodes.all fun n => n.1 / c.gp / 64 != page || n.2.flg == 0

/-! ### Order of commands (R145, R288 to R295) -/

/-- The contexts a command acts on. -/
def KOp.involves (o : KOp) : List Nat := o.ctx :: (match o.cmd with | .share src _ _ _ => [src] | _ => [])

/-- Whether an earlier command holds back a later one: any not yet applied; a KVW in flight only those that wait for it. -/
def holdsBack (e o : KOp) : Bool :=
  !e.applied && e.involves.any (o.involves.contains ·) &&
  match e.cmd with
  | .kvw p g _ _ =>
    match o.cmd with
    | .kvw _ _ _ _ => true
    | .renew q k _ _ => p == q && g == k
    | .expire q k _ => p == q && g == k
    | .rewind _ => true
    | .fork _ _ _ _ _ _ _ => true
    | .share _ _ _ _ => true
    | .free _ => true
    | .smout _ _ _ => true
    | _ => false
  | _ => true

/-- Whether an ATTN of a context is in flight, on any page or on one. -/
def Die.attending (d : Die) (ctx : Nat) : Bool := d.attns.any fun a => a.ctx == ctx
def Die.attendingPage (d : Die) (ctx page : Nat) : Bool :=
  d.attns.any fun a => a.ctx == ctx && decide (a.page ≤ page) && decide (page < a.page + a.count)

/-- Commands that need the slab of each of their contexts at rest: they wait while one moves (R144; log entry 15). -/
def KCmd.needsRest : KCmd → Bool
  | .fork _ _ _ _ _ _ _ | .share _ _ _ _ | .free _ | .smout _ _ _ | .grow _ _ => true
  | _ => false

/-- Whether a command may be applied now, or a KVW be completed (R123, R128, R137, R140, R142 to R145). -/
def Die.canApply (d : Die) (o : KOp) : Bool :=
  !((d.kops.takeWhile fun x => x.id != o.id).any fun e => holdsBack e o) &&
  (o.involves.all fun n => match d.ctx n with
    | some c => !c.clearing && !c.copying && !c.dead && (c.fwd.isNone || !o.cmd.needsRest)
    | none => false) &&
  match o.cmd, d.ctx o.ctx with
  | .kvw p _ _ _, some c => decide ((p : Int) > wwInt c.ww) || !d.attendingPage o.ctx (p / 64)
  | .free _, _ => !d.attending o.ctx
  | .smout _ _ _, _ => !d.attending o.ctx
  | .sminv _, _ => !d.attending o.ctx
  | .grow _ _, _ => decide ((d.ctxs.countP fun x => x.fwd.isSome) < 4)
  | _, _ => true

/-- Whether a command not yet applied may lend a unit of a context: a KVW to it is accepted after that (R138). -/
def KOp.mayLend (o : KOp) (c : Ctx) (u : Nat) : Bool :=
  !o.applied && match o.cmd with
  | .fork _ _ _ _ _ p _ => o.ctx == c.num && decide (u < (p + 1) / c.unit)
  | .share src a n _ => src == c.num && decide (a / c.unit ≤ u) && decide (u < (a + n) / c.unit)
  | _ => false

/-- Whether a SLABGR of a context has not ended: another is accepted after it, against the size it leaves (R144; log entry 15). -/
def Die.growing (d : Die) (ctx : Nat) : Bool :=
  d.kops.any fun o => o.ctx == ctx && (match o.cmd with | .grow _ _ => true | _ => false)

/-- Whether a context waits to be freed, swapped out or reloaded: later words on it are accepted after that. -/
def Die.blocked (d : Die) (ctx : Nat) : Bool :=
  d.kops.any fun o => !o.applied && o.ctx == ctx && (match o.cmd with
    | .free _ => true | .smout _ _ _ => true | .sminv _ => true | _ => false)

/-! ### Applying commands -/

/-- A status result (R285). -/
def statusWord (status value : Nat) : Word := BitVec.ofNat 64 (status * 2 ^ 32 + value)

/-- A command leaves the Orrery: its batch is performed (R96). -/
def State.finishK (s : State) (die : Nat) (o : KOp) (err : Option FaultInfo) : State :=
  (s.updDie die fun d => { d with kops := d.kops.filter fun x => x.id != o.id }).endOp o.tok err

/-- A command's background work remains. -/
def State.keepK (s : State) (die : Nat) (o : KOp) (cmd : KCmd) : State :=
  s.updDie die fun d => { d with kops := d.kops.map fun x => if x.id = o.id then { x with cmd := cmd, applied := true } else x }

/-- A status that ends a command at once. -/
def State.endStatus (s : State) (die : Nat) (o : KOp) (dst : DestRef) (status : Nat) : State :=
  (s.deliver dst (statusWord status 0)).finishK die o none

/-- Whether an entry is absent for KVRNW and KVEXP (R135). -/
def Ctx.absent (c : Ctx) (p g : Nat) : Bool :=
  let n := Sparse.get c.nodes (c.nodeIx p g)
  decide (p ≥ c.limit) || n.tag != p || decide ((p : Int) > wwInt c.ww) || decide (n.e ≤ c.h) || n.e == 0

/-- KVRNW: the context after it, and the status (R135). -/
def Ctx.renew (c : Ctx) (p g l : Nat) : Ctx × Nat :=
  let ix := c.nodeIx p g
  let n := Sparse.get c.nodes ix
  let e := if l = 0 then neverExpiry else c.qp + l
  if c.absent p g then (c, 1)
  else if e ≤ c.h then ((c.unlink ix).toRelease ix { n with e := 0 }, 2)
  else ((c.unlink ix).file ix { n with e := e }, 0)

/-- KVEXP (R136). -/
def Ctx.expire (c : Ctx) (p g : Nat) : Ctx × Nat :=
  let ix := c.nodeIx p g
  if c.absent p g then (c, 1) else ((c.unlink ix).toRelease ix { Sparse.get c.nodes ix with e := 0 }, 0)

/-- KVADV, KVCMT and KVRWD (R132 to R134). -/
def Ctx.advance (c : Ctx) (q : Nat) : Ctx := { c with qp := q }
def Ctx.commit (c : Ctx) (p : Nat) : Ctx := { c with cp := p, h := max c.h p, qp := max c.qp p }
def Ctx.rewind (c : Ctx) (q : Nat) : Ctx :=
  { c with qp := q, cp := min c.cp q, ww := c.ww.map fun w => min w q }

/-- Change the map entry of a granule of a slab at rest; a swapped-out context's is changed in its image too (R138, R141, R142). -/
def State.setEnt (s : State) (die num gr : Nat) (f : MapEnt → MapEnt) : State :=
  match (s.die die).ctx num with
  | none => s
  | some c =>
    let e := f (Sparse.get c.map gr)
    let s1 := s.updCtx die num fun c => { c with map := Sparse.set c.map gr e }
    if c.hot then s1 else s1.devWrite (keyIn c.swapPages (c.swapVa + c.headLen + 8 * gr)) (leBytes 8 e.word)

/-- Give back a borrowed granule: the lender's count falls (R138, R140). -/
def State.giveBack (s : State) (die ctx gr : Nat) : State :=
  match (s.die die).ctx ctx with
  | none => s
  | some c =>
    let lender := Sparse.get c.lenders gr
    if lender = 0 then s
    else
      ((s.setEnt die (lender - 1) gr fun e => { e with lend := e.lend - 1 }).setEnt die ctx gr fun e => { e with brw := false }).updCtx
        die ctx fun c => { c with lenders := Sparse.set c.lenders gr 0 }

/-- Give back a list of granules. -/
def State.giveBackAll (s : State) (die ctx : Nat) : List Nat → State
  | [] => s
  | x :: r => (s.giveBack die ctx x).giveBackAll die ctx r

/-- Borrow granules of one context for another: the frame is shared, the lender's count rises (R137, R139, R141). -/
def State.borrowAll (s : State) (die src dst : Nat) : List Nat → State
  | [] => s
  | x :: r =>
    let e := match (s.die die).ctx src with | some c => Sparse.get c.map x | none => default
    ((((s.giveBack die dst x).setEnt die src x fun k => { k with lend := k.lend + 1 }).setEnt die dst x fun k =>
      { e with brw := true, lend := k.lend }).updCtx die dst fun c => { c with lenders := Sparse.set c.lenders x (src + 1) }).borrowAll
        die src dst r

/-- Whether a granule of a context may take one more borrower (R141). -/
def Ctx.canLend (c : Ctx) (gr : Nat) : Bool := decide ((Sparse.get c.map gr).lend < 255)
/-- Whether a context lends or borrows a unit (R140, R144, R291). -/
def Ctx.lends (c : Ctx) : Bool := c.map.any fun e => decide (e.2.lend > 0)
def Ctx.borrows (c : Ctx) : Bool := c.map.any fun e => e.2.brw

/-- Copy nodes of positions `[a, a + n)` from one context to another, filed by the receiver; expired ones are copied empty: at or below the
receiver's H, and at or below the source's, whose nodes the engine may have emptied already (R137, R310; log entry 17). -/
def Ctx.takeNodes (dst src : Ctx) (a n : Nat) : Ctx :=
  let mine := fun (ix : Nat) => decide (a ≤ ix / dst.gp) && decide (ix / dst.gp < a + n)
  let cleared := (dst.nodes.filter fun x => mine x.1).foldl
    (fun c x => { c.unlink x.1 with nodes := Sparse.set c.nodes x.1 default }) dst
  (src.nodes.filter fun x => mine x.1).foldl
    (fun c x => if x.2.flg = 0 ∨ x.2.e ≤ c.h ∨ x.2.e ≤ src.h then c else c.file x.1 x.2) cleared

/-- A fresh context of a die, hot, with its maps loaded (R121, R124, R287). -/
def State.makeCtx (s : State) (die num lw g lc k kmax slab area ptb : Nat) : Ctx :=
  { (default : Ctx) with
    num := num, gen := Sparse.get (s.die die).ctxGens num, lw := lw, g := g, lc := lc, k := k, kmax := kmax
    slab := slab, area := area, ptb := ptb, hot := true
    map := s.loadMap ptb slab (slabGranules lc g k), amap := s.loadMap ptb area (areaGranules lw g kmax) }

/-- The least free context number (R120, R287). -/
def Die.freeNum (d : Die) : Option Nat := (List.range 16384).find? fun n => (d.ctx n).isNone

/-- Bytes of a slab to move within one granule: from where, to where, at which offset, and their address in the slab (R137, R138, R144). -/
structure GMove where
  src : MapEnt
  dst : MapEnt
  off : Nat
  n   : Nat
  va  : Nat
  deriving DecidableEq, Repr

/-- What a move reads and writes. -/
def moveReads (l : List GMove) : List Nat := l.flatMap fun m => m.src.keys m.off m.n
def moveWrites (l : List GMove) : List Nat := l.flatMap fun m => m.dst.keys m.off m.n

/-- The error a move meets: an unmapped entry, a destination that takes no store, a failed link, poison (R83, R141, R211, R331). -/
def State.moveError (s : State) (m : GMove) : Option FaultInfo :=
  if !m.src.v || !m.dst.v then some (unmappedAt m.va)
  else if m.dst.tier == 2 || s.linkFailed (m.src.key m.off) || s.linkFailed (m.dst.key m.off) then some (refusedAt m.va)
  else (s.firstPoison [(m.va / 65536 * 65536, m.src.key 0)] m.va m.n).map poisonAt

/-- Make moves whose accesses have been served. -/
def State.makeMoves (s : State) : List GMove → State
  | [] => s
  | m :: r => (s.copyFrame (m.src.key m.off) (m.dst.key m.off) m.n).makeMoves r

/-- Rake bytes the Orrery moves for a job (R304). -/
def State.countFor (s : State) (lrec job n k : Nat) : State := s.updJob lrec job fun c => c.count n k

/-- A command waits at banks in back-off: the waits it begins are noted (R324). -/
def State.blockK (s : State) (die : Nat) (o : KOp) (keys : List Nat) : State :=
  let new := s.newBlocks o.blocked 0 (s.die die).cyc keys
  if new.isEmpty then s
  else s.updDie die fun d =>
    { d with kops := d.kops.map fun x => if x.id = o.id then { x with blocked := x.blocked ++ new } else x }

/-- Go on with a command once its accesses may be served (R84, R324, R331, R357). -/
def State.gateK (s : State) (die : Nat) (o : KOp) (reads writes : List Nat) (go : State → State) : State :=
  if s.jobSaved o.lrec o.job && writes.any isScratchKey then s
  else match s.gate reads writes with
  | .wait => s
  | .bank => s.blockK die o (reads ++ writes)
  | .go => go (s.touchRows (reads ++ writes))

/-- The copy of a fork's partial unit into the child's backing (R137). -/
def forkMoves (par ch : Ctx) (p : Nat) : List GMove :=
  if (p + 1) % par.unit = 0 then []
  else (ch.unitGranules ((p + 1) / par.unit)).map fun x =>
    { src := Sparse.get par.map x, dst := Sparse.get ch.map x, off := 0, va := par.slab + 65536 * x
      n := min 65536 (par.pageBytes * 2 ^ (min par.k ch.k) - 65536 * x) }

/-- Apply a KVFORK: an error of the copy ends its batch (R137, R211, R289). -/
def State.applyFork (s : State) (die : Nat) (o : KOp) (par : Ctx) (slab area k kmax ptb p : Nat) (dst : DestRef) : State :=
  let d := s.die die
  match d.freeNum with
  | none => s.endStatus die o dst 4
  | some num =>
    let ch := s.makeCtx die num par.lw par.g par.lc k kmax slab area ptb
    let shared := (List.range ((p + 1) / par.unit)).flatMap ch.unitGranules
    if mapCapacity < d.mapUse + ch.entries then s.endStatus die o dst 3
    else if shared.any fun x => !par.canLend x then s.endStatus die o dst 2
    else
      let mv := forkMoves par ch p
      let err := mv.findSome? s.moveError
      let ch1 := { ch with qp := p + 1, cp := min par.cp (p + 1), h := par.h, rp := par.rp, ww := some p, copying := err.isNone }
      let make := fun (s : State) =>
        ((s.updDie die fun d => { d with ctxs := d.ctxs ++ [ch1.takeNodes par 0 (p + 1)] }).borrowAll die par.num num shared).deliver dst
          (statusWord 0 (ch.handle die))
      match err with
      | some f => (make s).finishK die o (some f)
      | none => s.gateK die o (moveReads mv) (moveWrites mv) fun s =>
          (((make s).makeMoves mv).countFor o.lrec o.job 10 ((mv.map (·.n)).sum)).keepK die o (.forked num)

/-- Apply a KVSHARE (R139, R290). -/
def State.applyShare (s : State) (die : Nat) (o : KOp) (tgt : Ctx) (src a n : Nat) (dst : DestRef) : State :=
  match (s.die die).ctx src with
  | none => s.endStatus die o dst 0
  | some sc =>
    let gr := (List.range (n / tgt.unit)).flatMap fun i => tgt.unitGranules (a / tgt.unit + i)
    if gr.any fun x => !sc.canLend x then s.endStatus die o dst 2
    else
      let s1 := (s.borrowAll die src tgt.num gr).updCtx die tgt.num fun c =>
        let c1 := c.takeNodes sc a n
        { c1 with ww := if n = 0 then c1.ww else some ((max (wwInt c1.ww) (a + n - 1 : Nat)).toNat) }
      (s1.deliver dst (statusWord 0 0)).keepK die o o.cmd

/-- The KVSTAT record of a context, in one step (R291). -/
def Die.record (d : Die) (c : Ctx) (f : Nat) : List Byte :=
  let word := fun (w : Int) => leBytes 4 (wrapInt 32 w)
  let onList := fun (p : Nat → Bool) => c.nodes.countP fun n => p n.2.flg
  let recl := fun (page : Nat) => c.reclaimable page
  leBytes 4 c.qp ++ leBytes 4 c.cp ++ leBytes 4 c.h ++ word (wwInt c.ww) ++ leBytes 4 c.rp ++ word (d.accepted c)
    ++ leBytes 4 (onList fun l => decide (1 ≤ l) && decide (l ≤ 4)) ++ leBytes 4 (onList (· == 5))
    ++ leBytes 4 ((List.range (2 ^ c.k)).countP recl) ++ leBytes 4 0
    ++ leBytes 8 ((List.range 64).foldl (fun m i => if recl (f + i) then m + 2 ^ i else m) 0)
    ++ leBytes 1 ((!c.hot).toNat + 2 * c.lends.toNat + 4 * c.borrows.toNat + 8 * c.fwd.isSome.toNat)
    ++ leBytes 1 c.k ++ leBytes 1 c.kmax ++ leBytes 1 c.lw ++ leBytes 1 c.g ++ leBytes 1 c.lc ++ leBytes 10 0

/-! ### The swap image (R142, R295) -/

def Ctx.imageLen (c : Ctx) : Nat :=
  c.headLen + 8 * (slabGranules c.lc c.g c.k + areaGranules c.lw c.g c.kmax)

/-- A swap image: the block, whose layout the spec leaves open and whose fields State holds, the heads, the map entries. R295 gives the size of
the entries' part and no order: the slab's entries stand first, then the area's, both by granule, the model's choice (log entry 16). -/
def Ctx.image (c : Ctx) (free : Nat) : List Byte :=
  (List.range 256).map (fun i => Config.free (free + i) 8) ++ c.headBytes
    ++ (List.range (slabGranules c.lc c.g c.k)).flatMap (fun i => leBytes 8 (Sparse.get c.map i).word)
    ++ (List.range (areaGranules c.lw c.g c.kmax)).flatMap (fun i => leBytes 8 (Sparse.get c.amap i).word)

/-- One key for each interleave of 1 KiB of a context's swap image. -/
def Ctx.imageKeys (c : Ctx) (n : Nat) : List Nat := kibKeys c.swapPages c.swapVa n

/-- The nodes that follow a head: those linked from it, on whatever list it is (R125). -/
def Ctx.chain (c : Ctx) (head : Nat) : List Nat :=
  (((c.inner.map (·.2) ++ c.outer.map (·.2) ++ [c.far, c.never, c.release]).find? (·.contains head)).map fun l =>
    l.dropWhile (· != head)).getD []

/-- A swapped-out context made hot: its wheel heads and its map are what its image holds (R123, R141, R142). -/
def State.fromImage (s : State) (c : Ctx) : Ctx :=
  let word := fun (off : Nat) => leNat (s.bytesIn c.swapPages (c.swapVa + off) 8)
  let ent := fun (i : Nat) => MapEnt.ofWord (word (c.headLen + 8 * i))
  let n := slabGranules c.lc c.g c.k
  { c with hot := true
           inner := Sparse.ofFn (2 * c.w) fun i => c.chain (word (256 + 8 * i))
           outer := Sparse.ofFn c.w fun i => c.chain (word (256 + 16 * c.w + 8 * i))
           map := Sparse.ofFn n ent, amap := Sparse.ofFn (areaGranules c.lw c.g c.kmax) fun i => ent (n + i) }

/-- Swap a context out: its image is written, its map entries are free (R142). -/
def State.swapOut (s : State) (die : Nat) (c : Ctx) (pages : List (Nat × Nat)) (va : Nat) : State :=
  ({ s with freeN := s.freeN + 256 }.writeIn pages va (c.image s.freeN)).updCtx die c.num fun x =>
    { x with hot := false, swapVa := va, swapPages := pages }

/-- Swap a context in. -/
def State.swapBack (s : State) (die : Nat) (c : Ctx) : State := s.updCtx die c.num fun _ => s.fromImage c

/-- The first poisoned address of `n` bytes of a context's image. -/
def State.imagePoison (s : State) (c : Ctx) (n : Nat) : Option FaultInfo := (s.firstPoison c.swapPages c.swapVa n).map poisonAt

/-- The map read again from the page tables, of a growing slab the new one too: borrowed entries stay, lender counts stay (R143). -/
def State.reloadMap (s : State) (c : Ctx) : Ctx :=
  let ent := fun (m : Sparse MapEnt) (base i : Nat) =>
    let old := Sparse.get m i
    if old.brw then old else { s.mapEnt c.ptb (base + 65536 * i) with lend := old.lend }
  { c with map := Sparse.ofFn (slabGranules c.lc c.g c.k) (ent c.map c.slab)
           fwd := c.fwd.map fun f => { f with map := Sparse.ofFn (slabGranules c.lc c.g (c.k + 1)) (ent f.map f.base) }
           amap := s.loadMap c.ptb c.area (areaGranules c.lw c.g c.kmax) }

/-- Apply one command (R132 to R144, R283). A KVW is completed by its own step. -/
def State.applyK (s : State) (die : Nat) (o : KOp) : State :=
  match (s.die die).ctx o.ctx with
  | none => s.finishK die o none
  | some c =>
    let put := fun (x : Ctx) => s.updCtx die c.num fun _ => x
    match o.cmd with
    | .adv q => (put (c.advance q)).finishK die o none
    | .commit p => (put (c.commit p)).finishK die o none
    | .rewind q => (put (c.rewind q)).finishK die o none
    | .renew p g l dst =>
      let (x, st) := c.renew p g l
      (put x).endStatus die o dst st
    | .expire p g dst =>
      let (x, st) := c.expire p g
      (put x).endStatus die o dst st
    | .fork slab area k kmax ptb p dst => s.applyFork die o c slab area k kmax ptb p dst
    | .share src a n dst => s.applyShare die o c src a n dst
    | .free dst =>
      if c.lends then s.endStatus die o dst 1
      else
        (((s.giveBackAll die c.num (c.lenders.map (·.1))).updCtx die c.num fun x =>
          { x.freeNodes with gen := (x.gen + 1) % 256, dead := true }).deliver dst (statusWord 0 0)).keepK die o o.cmd
    | .stat pa f dst =>
      let go := fun (c : Ctx) (s : State) =>
        (s.deliver dst (statusWord 0 0)).keepK die o (.put [(pa / 65536 * 65536, pa / 65536 * 65536)] pa ((s.die die).record c f))
      if c.hot then go c s
      else match s.imagePoison c c.imageLen with
        | some f => (s.deliver dst (statusWord 0 0)).finishK die o (some f)
        | none => s.gateK die o (c.imageKeys c.imageLen) [] fun s => go { s.fromImage c with hot := false } s
    | .smin dst =>
      if c.hot then s.endStatus die o dst 0
      else if mapCapacity < (s.die die).mapUse + c.entries then s.endStatus die o dst 3
      else match s.imagePoison c c.imageLen with
        | some f => (s.deliver dst (statusWord 0 0)).finishK die o (some f)
        | none => s.gateK die o (c.imageKeys c.imageLen) [] fun s => (s.swapBack die c).endStatus die o dst 0
    | .smout pages va dst =>
      if !c.hot then s.endStatus die o dst 0
      else s.gateK die o [] (kibKeys pages va c.imageLen) fun s => (s.swapOut die c pages va).endStatus die o dst 0
    | .sminv dst => (put (s.reloadMap c)).endStatus die o dst 0
    | .grow base dst =>
      let n := slabGranules c.lc c.g (c.k + 1)
      if c.lends then s.endStatus die o dst 1
      else if mapCapacity < (s.die die).mapUse + n then s.endStatus die o dst 3
      else
        let new := s.loadMap c.ptb base n
        let keep := fun (i : Nat) => let e := Sparse.get c.map i; if e.brw then e else Sparse.get new i
        ((put { c with fwd := some { base := base, map := Sparse.ofFn n keep, wm := 0, err := none } }).deliver dst
          (statusWord 0 0)).keepK die o o.cmd
    | .new => s
    | .kvw _ _ _ _ => s
    | .forked _ => s
    | .put _ _ _ => s

/-! ### Acceptance (R145, R210, R283) -/

/-- Reserved bits of a scalar operand must be zero (R282). -/
def scalarBits (v : Word) (used : Nat) : Res Unit := trapIf (v.toNat &&& used != v.toNat) (flt .illegalOperand)

/-- A word that names a context waits while the context is being freed, swapped out or reloaded; the handle is then checked. -/
def State.acceptCtx (s : State) (h : Nat) : Res Ctx := do
  let c ← s.ctxOf h
  waitUnless (!(s.die s.core.did).blocked c.num)
  .ok c

/-- Whether the maps of swapped-out contexts do not fit (R141, R142). -/
def State.mapFull (s : State) (cs : List Ctx) : Bool :=
  let cold := cs.filter fun c => !c.hot
  !cold.isEmpty && decide (mapCapacity < (s.die s.core.did).mapUse + (cold.map Ctx.entries).sum)

/-- Contexts a word swaps in: the word stands at issue until their images may be read (R142). -/
def State.swapIn (s : State) (cs : List Ctx) (counted : Bool) : Res State :=
  let cold := cs.filter fun c => !c.hot
  match cold.findSome? fun c => s.imagePoison c c.imageLen with
  | some f => trapR f
  | none => do
    let keys := cold.flatMap fun c => c.imageKeys c.imageLen
    s.readGate keys
    let s1 := cold.foldl (fun s c => s.swapBack s.core.did c) (s.touchRows keys)
    .ok (if counted then s1.updC fun k => k.count 6 cold.length else s1)

/-- Put an accepted command in the Orrery's list, and apply it if nothing holds it back (R145). -/
def State.addK (s : State) (w : Wm) (tok : Option TokRef) (ctx : Nat) (cmd : KCmd) : State :=
  let (id, s1) := s.fresh
  let o : KOp := { id := id, ctx := ctx, cmd := cmd, cls := w.cls.toNat, lrec := s.core.lrec, job := s.core.job.toNat
                   tok := tok, blocked := [], applied := match cmd with | .new => true | _ => false }
  let s2 := s1.updDie s.core.did fun d => { d with kops := d.kops ++ [o] }
  if !o.applied && (s2.die s.core.did).canApply o then s2.applyK s.core.did o else s2

/-- A command on context `c`, accepted: the contexts `cs` are swapped in first, counted for KV words; a map that does not fit ends it with
status 3 (R141, R142, R283, R304). -/
def State.submitK (s : State) (w : Wm) (c : Ctx) (cmd : DestRef → KCmd) (result : Bool) (cs : List Ctx) (counted : Bool) : Res State := do
  let s0 ← if s.mapFull cs then .ok s else s.swapIn cs counted
  let (t, s1) ← s0.joinW w
  let (d, s2) ← if result then s1.reserveS w.d else .ok (.none, s1)
  let dst := s.destRef d
  if s.mapFull cs then .ok (((s2.deliver dst (statusWord 3 0)).endOp t none).retire 1)
  else .ok ((s2.addK w t c.num (cmd dst)).retire 1)

/-- A word of the Orrery: rows 2 to 6, sources, await, class, acceptance; then `go` in the state in which the Orrery accepts it (R103, R174,
R283, R286). -/
def State.kword (s : State) (w : Wm) (h : Shape) (go : Word × Word × Word → State → Res State) : Res State := do
  s.static h
  let (x, s1) ← s.sources h
  s.await w.toHd
  waitUnless (s.classDrained w.cls.toNat)
  s.accept .orrery s1 (go x)

/-- The same for a word whose acceptance reads a descriptor. -/
def State.kdesc (s : State) (w : Wm) (h : Shape) (go : Word × Word × Word → List Byte → State → Res State) : Res State := do
  s.static h
  let (x, s1) ← s.sources h
  s.acceptDesc .orrery w x.1 s1 (go x)

/-! ### Contexts (R287 to R291) -/

/-- The limits of R121 in the table's order; an area must be mapped HBM (R123, R287). -/
def State.ctxLimits (s : State) (lw g lc k kmax slab area : Nat) : Res Unit := do
  trapIf (decide (lw < 3) || decide (lw > 12) || g == 0 || decide (g > 64) || decide (lc < 3) || decide (lc > 15)
    || decide (2 ^ lc * gpOf g > 32768) || decide (k > kmax) || decide (kmax > 20)) (flt .illegalOperand)
  trapIf (slab % 65536 != 0) { code := .alignment, addr := slab }
  trapIf (area % 65536 != 0) { code := .alignment, addr := area }
  rangeCheck slab 1
  rangeCheck area 1
  trapIf (overlapsWindow area (65536 * areaGranules lw g kmax)) { code := .translation, sub := 19, addr := max area winLo }
  let _ ← s.xlateRange .sync area (65536 * areaGranules lw g kmax)
  .ok ()

/-- KVNEW (R123, R124, R287). -/
def State.kvnew (s : State) (w : Wm) : Res State :=
  s.kdesc w (shK w .req 24 .sDst .sSrc .none .none) fun _ bs s1 => do
    trapIf (fieldNat bs 21 43 != 0) (flt .illegalOperand)
    let lw := fieldNat bs 16 1
    let g := fieldNat bs 17 1
    let lc := fieldNat bs 18 1
    let k := fieldNat bs 19 1
    let kmax := fieldNat bs 20 1
    let slab := fieldNat bs 0 8
    let area := fieldNat bs 8 8
    s1.ctxLimits lw g lc k kmax slab area
    let (t, s2) ← s1.joinW w
    let (dst, s3) ← s2.reserveS w.d
    let d := s.die s.core.did
    let fail := fun (st : Nat) => (((s3.deliver (s.destRef dst) (statusWord st 0)).endOp t none).retire 1 : State)
    match d.freeNum with
    | none => .ok (fail 4)
    | some num =>
      let c := { s.makeCtx s.core.did num lw g lc k kmax slab area s.ptb with clearing := true }
      if mapCapacity < d.mapUse + c.entries then .ok (fail 3)
      else
        let s4 := s3.updDie s.core.did fun d => { d with ctxs := d.ctxs ++ [c] }
        let s5 := s4.deliver (s.destRef dst) (statusWord 0 (c.handle s.core.did))
        .ok ((s5.addK w t num .new).retire 1)

def execKvnew (w : Wm) (s : State) : Out := outcome s (s.kvnew w)

/-- KVFREE (R140, R288). -/
def State.kvfree (s : State) (w : Wm) : Res State :=
  s.kword w (shK w .req 0 .sDst .none .sSrc .none) fun (_, b, _) s1 => do
    scalarBits b 0xFFFFFFFF
    let c ← s1.acceptCtx b.toNat
    c.areaOk c.headGrs
    s1.submitK w c (fun d => .free d) true [c] true

def execKvfree (w : Wm) (s : State) : Out := outcome s (s.kvfree w)

/-- The first granule a fork's partial copy reads or writes that is not mapped (R137, R141). -/
def State.forkGap (s : State) (par ch : Ctx) (p : Nat) : Option Nat :=
  (if (p + 1) % par.unit = 0 then [] else ch.unitGranules (p / par.unit)).findSome? fun i =>
    if !(Sparse.get par.map i).v then some (par.slab + 65536 * i)
    else if !(s.mapEnt s.ptb (ch.slab + 65536 * i)).v then some (ch.slab + 65536 * i) else none

/-- KVFORK (R137, R289). -/
def State.kvfork (s : State) (w : Wm) : Res State :=
  s.kdesc w (shK w .req 24 .sDst .sSrc .sSrc .sSrc) fun (_, b, x) bs s1 => do
    scalarBits b 0xFFFFFFFF
    scalarBits x 0xFFFFFFFF
    let c ← s1.acceptCtx b.toNat
    let p := x.toNat
    let k := fieldNat bs 19 1
    let kmax := fieldNat bs 20 1
    let slab := fieldNat bs 0 8
    let area := fieldNat bs 8 8
    trapIf (fieldNat bs 16 3 != 0 || fieldNat bs 21 43 != 0) (flt .illegalOperand)
    s1.ctxLimits c.lw c.g c.lc k kmax slab area
    trapIf (decide ((p : Int) > (s.die s.core.did).accepted c)) (flt .gap)
    trapIf (decide (64 * 2 ^ k ≤ p + 1)) (flt .illegalOperand)
    c.areaOk (c.headGrs ++ c.nodeGrs 0 ((p + 1) * c.gp))
    match s1.forkGap c { c with k := k, slab := slab } p with
    | some a => trapR { code := .translation, sub := 16, addr := a }
    | none => s1.submitK w c (fun d => .fork slab area k kmax s.ptb p d) true [c] true

def execKvfork (w : Wm) (s : State) : Out := outcome s (s.kvfork w)

/-- KVSHARE: A names the source, B the target, C the range (R139, R290). Contexts of different cell bytes or groups, and a range past the
target's slab, are refused as the limits are, and the limits on ww are tested against the accepted watermarks: the model's choices, the
spec does not say (log entry 17). -/
def State.kvshare (s : State) (w : Wm) : Res State :=
  s.kword w (shK w .req 0 .sDst .sSrc .sSrc .sSrc) fun (a, b, x) s1 => do
    scalarBits a 0xFFFFFFFF
    scalarBits b 0xFFFFFFFF
    let src ← s1.acceptCtx a.toNat
    let tgt ← s1.acceptCtx b.toNat
    let d := s.die s.core.did
    let lo := x.toNat % 2 ^ 32
    let n := x.toNat / 2 ^ 32
    trapIf (src.lc != tgt.lc || src.gp != tgt.gp || lo % tgt.unit != 0 || n % tgt.unit != 0 || decide ((lo : Int) > d.accepted tgt + 1)
      || decide ((lo + n : Nat) - 1 > d.accepted src) || decide (lo + n > tgt.limit)) (flt .illegalOperand)
    src.areaOk (src.headGrs ++ src.nodeGrs (lo * src.gp) (n * src.gp))
    tgt.areaOk (tgt.headGrs ++ tgt.nodeGrs (lo * tgt.gp) (n * tgt.gp))
    s1.submitK w tgt (fun r => .share src.num lo n r) true (if src.num = tgt.num then [tgt] else [src, tgt]) true

def execKvshare (w : Wm) (s : State) : Out := outcome s (s.kvshare w)

/-- KVSTAT: a swapped-out context stays so (R291). -/
def State.kvstat (s : State) (w : Wm) : Res State :=
  s.kword w (shK w .req 24 .sDst .sSrc .sSrc .sSrc) fun (a, b, x) s1 => do
    let ea := effAddr w a
    addrCheck ea 64 64
    let key ← s1.xlate ea .wr
    scalarBits b 0xFFFFFFFF
    scalarBits x 0xFFFFF
    let c ← s1.acceptCtx b.toNat
    (s1.fillTlbs [ea]).submitK w c (fun d => .stat key x.toNat d) true [] false

def execKvstat (w : Wm) (s : State) : Out := outcome s (s.kvstat w)

/-! ### Entries (R292, R293) -/

/-- The fields of an entry's scalars: handle, group, position, lifetime (R292). -/
def entryBits (b x : Word) (life : Bool) : Res Unit := do
  scalarBits b 0x3FFFFFFFFF
  scalarBits x (if life then 0xFFFFFFFFFFFFFF else 0xFFFFFFFF)

/-- Whether memory stands behind a map entry's frame (R1, R329). -/
def MapEnt.backed (e : MapEnt) : Bool :=
  match e.tier with
  | 0 => decide (e.frame < hbmBytes)
  | 2 => decide (e.frame < flashBytes)
  | _ => true

/-- An access through a map entry: mapped, its tier writable, memory behind its frame (R83, R141). -/
def entOk (e : MapEnt) (va : Nat) (write : Bool) : Res Unit := do
  trapIf (!e.v) { code := .translation, sub := 16, addr := va }
  trapIf (write && e.tier == 2) { code := .translation, sub := 2, addr := va }
  trapIf (!e.backed) (flt .noBacking)

/-- The granules of a context's own backing that a KVW into a borrowed unit copies to: of a growing slab the old and the new (R138, R144). -/
def State.ownEnts (s : State) (c : Ctx) (i : Nat) : List (Nat × MapEnt) :=
  let at_ := fun (base : Nat) => (base + 65536 * i, s.mapEnt c.ptb (base + 65536 * i))
  at_ c.slab :: (c.fwd.map fun f => at_ f.base).toList

/-- The accesses of a KVW through the map: a borrowed unit is read from the lender's frames and written in the context's own backing, and so is
the cell in it; another cell is written through its own entry (R83, R138, R141). -/
def State.kvwMapped (s : State) (c : Ctx) (unit : List Nat) (off : Nat) : Res Unit := do
  let lent := unit.filter fun i => (Sparse.get c.map i).brw
  lent.forM fun i => entOk (Sparse.get c.map i) (c.slab + 65536 * i) false
  (lent.flatMap (s.ownEnts c)).forM fun e => entOk e.2 e.1 true
  if lent.contains (off / 65536) then .ok () else entOk (c.slabEnt off) (c.slab + off) true

/-- KVW: its cell is read at acceptance (R128, R138, R292; log entry 55). -/
def State.kvw (s : State) (w : Wm) : Res State :=
  s.kword w (shK w .opt 24 .none .sSrc .sSrc .sSrc) fun (a, b, x) s1 => do
    entryBits b x true
    let c ← s1.acceptCtx (b.toNat % 2 ^ 32)
    let d := s.die s.core.did
    let g : Nat := b.toNat / 2 ^ 32
    let p : Nat := x.toNat % 2 ^ 32
    trapIf (decide ((p : Int) > d.accepted c + 1) || decide (p ≥ c.limit)) (flt .gap)
    trapIf (decide (g ≥ c.g)) (flt .illegalOperand)
    let unit := c.unitGranules (p / c.unit)
    waitUnless (!d.kops.any fun o => o.mayLend c (p / c.unit))
    trapIf (unit.any fun i => decide ((Sparse.get c.map i).lend > 0)) (fltS .gap 5)
    c.areaOk (c.headGrs ++ c.nodeGrs (c.nodeIx p g) 1)
    s1.kvwMapped c unit (c.cellOff p g)
    let ea := effAddr w a
    let pages ← s1.xlateRange .rd ea c.cellBytes
    let keys := kibKeys pages ea c.cellBytes
    s1.readGate keys
    let s2 := (s1.fillTlbs (pages.map (·.1))).touchRows keys
    match s1.firstPoison pages ea c.cellBytes with
    | some at_ => do
      let (t, s3) ← s2.joinW w
      .ok ((s3.endOp t (some (poisonAt at_))).retire 1)
    | none => s2.submitK w c (fun _ => .kvw p g (x.toNat / 2 ^ 32) (s1.bytesIn pages ea c.cellBytes)) false [c] true

def execKvw (w : Wm) (s : State) : Out := outcome s (s.kvw w)

/-- The granules of the node of an entry; none past the slab (R123, R293). -/
def Ctx.entryGrs (c : Ctx) (p g : Nat) : List Nat := c.headGrs ++ if p < c.limit then c.nodeGrs (c.nodeIx p g) 1 else []

/-- KVRNW (R135, R293). -/
def State.kvrnw (s : State) (w : Wm) : Res State :=
  s.kword w (shK w .none 0 .sDst .none .sSrc .sSrc) fun (_, b, x) s1 => do
    entryBits b x true
    let c ← s1.acceptCtx (b.toNat % 2 ^ 32)
    let g : Nat := b.toNat / 2 ^ 32
    trapIf (decide (g ≥ c.g)) (flt .illegalOperand)
    c.areaOk (c.entryGrs (x.toNat % 2 ^ 32) g)
    s1.submitK w c (fun d => .renew (x.toNat % 2 ^ 32) g (x.toNat / 2 ^ 32) d) true [c] true

def execKvrnw (w : Wm) (s : State) : Out := outcome s (s.kvrnw w)

/-- KVEXP (R136, R293). -/
def State.kvexp (s : State) (w : Wm) : Res State :=
  s.kword w (shK w .none 0 .sDst .none .sSrc .sSrc) fun (_, b, x) s1 => do
    entryBits b x false
    let c ← s1.acceptCtx (b.toNat % 2 ^ 32)
    let g : Nat := b.toNat / 2 ^ 32
    trapIf (decide (g ≥ c.g)) (flt .illegalOperand)
    c.areaOk (c.entryGrs x.toNat g)
    s1.submitK w c (fun d => .expire x.toNat g d) true [c] true

def execKvexp (w : Wm) (s : State) : Out := outcome s (s.kvexp w)

/-! ### Positions (R132 to R134, R294) -/

/-- A position command. -/
def State.position (s : State) (w : Wm) (cmd : Nat → KCmd) : Res State :=
  s.kword w (shK w .opt 0 .none .none .sSrc .sSrc) fun (_, b, x) s1 => do
    scalarBits b 0xFFFFFFFF
    scalarBits x 0xFFFFFFFF
    let c ← s1.acceptCtx b.toNat
    trapIf (decide (x.toNat ≥ c.limit)) (flt .gap)
    c.areaOk c.headGrs
    s1.submitK w c (fun _ => cmd x.toNat) false [c] true

/-- KVADV (R132). -/
def execKvadv (w : Wm) (s : State) : Out := outcome s (s.position w .adv)
/-- KVCMT (R133). -/
def execKvcmt (w : Wm) (s : State) : Out := outcome s (s.position w .commit)
/-- KVRWD (R134). -/
def execKvrwd (w : Wm) (s : State) : Out := outcome s (s.position w .rewind)

/-! ### The sequence map (R142 to R144, R295) -/

/-- A map command without an address; SMINV swaps a context in, and is no KV word that counts it (R142, R304). -/
def State.mapWord (s : State) (w : Wm) (cmd : DestRef → KCmd) (swaps : Bool) : Res State :=
  s.kword w (shK w .req 0 .sDst .none .sSrc .none) fun (_, b, _) s1 => do
    scalarBits b 0xFFFFFFFF
    let c ← s1.acceptCtx b.toNat
    s1.submitK w c cmd true (if swaps then [c] else []) false

/-- SMIN (R142, R295). -/
def execSmin (w : Wm) (s : State) : Out := outcome s (s.mapWord w (fun d => .smin d) false)
/-- SMINV (R143, R295). -/
def execSminv (w : Wm) (s : State) : Out := outcome s (s.mapWord w (fun d => .sminv d) true)

/-- SMOUT: the image lies in HBM, 4 KiB aligned (R142, R295). -/
def State.smout (s : State) (w : Wm) : Res State :=
  s.kword w (shK w .req 24 .sDst .sSrc .sSrc .none) fun (a, b, _) s1 => do
    let ea := effAddr w a
    scalarBits b 0xFFFFFFFF
    let c ← s1.acceptCtx b.toNat
    rangeCheck ea c.imageLen
    trapIf (ea % 4096 != 0) { code := .alignment, addr := ea }
    trapIf (inWindow ea) { code := .translation, sub := 2, addr := ea }
    let pages ← s1.xlateRange .sync ea c.imageLen
    c.areaOk c.headGrs
    (s1.fillTlbs (pages.map (·.1))).submitK w c (fun d => .smout pages ea d) true [] false

def execSmout (w : Wm) (s : State) : Out := outcome s (s.smout w)

/-- The first granule a growth would read or write that is not mapped: an owned one of the slab, or one of the new slab (R141, R144, R295). -/
def State.growGap (s : State) (c : Ctx) (base : Nat) : Option Nat :=
  let old := (List.range (slabGranules c.lc c.g c.k)).findSome? fun i =>
    let e := Sparse.get c.map i
    if !e.v && !e.brw then some (c.slab + 65536 * i) else none
  let new := (List.range (slabGranules c.lc c.g (c.k + 1))).findSome? fun i =>
    if !(s.mapEnt c.ptb (base + 65536 * i)).v then some (base + 65536 * i) else none
  new.orElse fun _ => old

/-- SLABGR (R144, R295). A swapped-out context is swapped in first, and the swap is counted for no job: R142 and R304 name ATTN and KV words
only, so both are the model's choice (log entry 18). -/
def State.slabgr (s : State) (w : Wm) : Res State :=
  s.kword w (shK w .req 24 .sDst .sSrc .sSrc .none) fun (a, b, _) s1 => do
    let ea := effAddr w a
    rangeCheck ea 1
    trapIf (ea % 65536 != 0) { code := .alignment, addr := ea }
    scalarBits b 0xFFFFFFFF
    let c ← s1.acceptCtx b.toNat
    waitUnless (!(s.die s.core.did).growing c.num)
    trapIf (decide (c.k + 1 > c.kmax)) (flt .illegalOperand)
    c.areaOk c.headGrs
    match s1.growGap c ea with
    | some at_ => trapR { code := .translation, sub := 16, addr := at_ }
    | none => s1.submitK w c (fun d => .grow ea d) true [c] false

def execSlabgr (w : Wm) (s : State) : Out := outcome s (s.slabgr w)

/-! ### The Orrery's own steps -/

/-- The command of a die by its identity. -/
def Die.kop (d : Die) (id : Nat) : Option KOp := d.kops.find? fun o => o.id == id

/-- KV_COMMAND_APPLY: a command held back is applied (R145). -/
def State.kvApply (s : State) (die id : Nat) : State :=
  match (s.die die).kop id with
  | none => s
  | some o =>
    match o.cmd with
    | .kvw _ _ _ _ => s
    | _ => if !o.applied && (s.die die).canApply o then s.applyK die o else s

def execKvCommandApply (die id : Nat) (s : State) : Out := .next (s.kvApply die id)

/-- The copy of a borrowed granule into the writer's own backing before it is written: of a growing slab the pages already moved go to the new
one (R138, R144). -/
def State.ownMoves (s : State) (c : Ctx) (i : Nat) : List GMove :=
  let lo := 65536 * i
  let hi := min (lo + 65536) (c.pageBytes * 2 ^ c.k)
  let mid := match c.fwd with | some f => min hi (max lo (f.wm * c.pageBytes)) | none => lo
  let move := fun (base off n : Nat) =>
    ({ src := Sparse.get c.map i, dst := s.mapEnt c.ptb (base + lo), off := off, n := n, va := c.slab + off } : GMove)
  ((c.fwd.map fun f => move f.base lo (mid - lo)).toList ++ [move c.slab mid (hi - mid)]).filter fun m => m.n != 0

/-- The borrowed granules of a unit are given back, and map the writer's own backing (R138). -/
def State.ownUnit (s : State) (die num : Nat) : List Nat → State
  | [] => s
  | i :: r =>
    ((s.giveBack die num i).updCtx die num fun c =>
      { c with map := Sparse.set c.map i (s.mapEnt c.ptb (c.slab + 65536 * i))
               fwd := c.fwd.map fun f => { f with map := Sparse.set f.map i (s.mapEnt c.ptb (f.base + 65536 * i)) } }).ownUnit die num r

/-- The error a write through a map entry meets after acceptance (R83, R141, R211, R331). -/
def State.entError (s : State) (e : MapEnt) (va off : Nat) : Option FaultInfo :=
  if !e.v then some (unmappedAt va)
  else if e.tier == 2 || s.linkFailed (e.key off) then some (refusedAt va)
  else none

/-- The node of an entry written and filed, and ww raised (R128, R129). -/
def Ctx.publish (c : Ctx) (p g l : Nat) : Ctx :=
  let ix := c.nodeIx p g
  let y := (c.unlink ix).file ix { e := if l = 0 then neverExpiry else p + l, tag := p, grp := g, flg := 0 }
  { y with ww := some ((max (wwInt y.ww) p).toNat) }

/-- KVW_COMPLETE: a borrowed unit is copied, the cell is written, the node filed, ww raised (R128, R138). -/
def State.kvwComplete (s : State) (die id : Nat) : State :=
  match (s.die die).kop id with
  | none => s
  | some o =>
    match o.cmd, (s.die die).ctx o.ctx with
    | .kvw p g l cell, some c =>
      if !(s.die die).canApply o then s
      else
        let lent := (c.unitGranules (p / c.unit)).filter fun i => (Sparse.get c.map i).brw
        let mv := lent.flatMap (s.ownMoves c)
        let off := c.cellOff p g
        let ent := match mv.find? fun m => decide (m.off ≤ off) && decide (off < m.off + m.n) with
          | some m => m.dst
          | none => c.slabEnt off
        match (mv.findSome? s.moveError).orElse fun _ => s.entError ent (c.slab + off) off with
        | some f => s.finishK die o (some f)
        | none =>
          s.gateK die o (moveReads mv) (moveWrites mv ++ ent.keys off c.cellBytes) fun s =>
            (((((s.makeMoves mv).ownUnit die o.ctx lent).countFor o.lrec o.job 10 ((mv.map (·.n)).sum)).writeMem (ent.key off) cell).updCtx
              die o.ctx fun x => x.publish p g l).finishK die o none
    | _, _ => s

def execKvwComplete (die id : Nat) (s : State) : Out := .next (s.kvwComplete die id)

/-- A frame cleared: every byte of it reads as zero (R123). -/
def State.clearFrame (s : State) (key n : Nat) : State :=
  if s.hbmDead key then s
  else { s with mem := s.mem.filter fun c => !(decide (key ≤ c.1) && decide (c.1 < key + n)), poison := clearPoison s.poison key n }

/-- The granules of an area cleared. -/
def State.clearArea (s : State) : List (Nat × MapEnt) → State
  | [] => s
  | e :: r => (s.clearFrame (e.2.key 0) 65536).clearArea r

/-- CONTEXT_AREA_CLEAR_DONE: the area of a new context is clear (R123). -/
def State.clearDone (s : State) (die ctx : Nat) : State :=
  match (s.die die).kops.find? fun o => o.ctx == ctx && o.cmd == .new, (s.die die).ctx ctx with
  | some o, some c =>
    s.gateK die o [] (c.amap.flatMap fun e => e.2.keys 0 65536) fun s =>
      ((s.clearArea c.amap).updCtx die ctx fun c => { c with clearing := false }).finishK die o none
  | _, _ => s

def execContextAreaClearDone (die ctx : Nat) (s : State) : Out := .next (s.clearDone die ctx)

/-- FORK_COPY_DONE: a child's node and data copies are complete (R137). -/
def State.forkDone (s : State) (die ctx : Nat) : State :=
  match (s.die die).kops.find? fun o => o.cmd == .forked ctx with
  | none => s
  | some o => (s.updCtx die ctx fun c => { c with copying := false }).finishK die o none

def execForkCopyDone (die ctx : Nat) (s : State) : Out := .next (s.forkDone die ctx)

/-- A context the engine works on in the background: hot, its area ready. A swapped-out context waits: the model's choice (log entry 18). -/
def Ctx.working (c : Ctx) : Bool := c.hot && !c.clearing && !c.copying

/-- Whether a context has background work (R130, R131). -/
def Die.hasWork (d : Die) (c : Ctx) : Bool :=
  c.working && (c.reclaims || c.release.any fun ix => !d.inView c ix)

/-- The context the engine serves next: those with work in turn (R130). -/
def Die.nextWork (d : Die) : Option Nat :=
  let least := fun (l : List Ctx) => (l.map (·.num)).min?
  let w := d.ctxs.filter d.hasWork
  (least (w.filter fun c => decide (d.orrNext ≤ c.num))).orElse fun _ => least w

/-- One step of the engine for a context whose turn it is: one a cycle (R130). -/
def State.background (s : State) (die ctx : Nat) (has : Ctx → Bool) (f : Ctx → Ctx) : State :=
  let d := s.die die
  if d.nextWork == some ctx && decide (d.orrStep ≤ d.cyc) && (d.ctx ctx).any has then
    (s.updCtx die ctx f).updDie die fun d => { d with orrNext := ctx + 1, orrStep := d.cyc + 1 }
  else s

/-- ORRERY_RECLAIM_STEP (R130). -/
def execOrreryReclaimStep (die ctx : Nat) (s : State) : Out :=
  .next (s.background die ctx Ctx.reclaims Ctx.reclaim)

/-- ORRERY_RELEASE_STEP (R131). -/
def execOrreryReleaseStep (die ctx : Nat) (s : State) : Out :=
  .next (s.background die ctx (fun c => c.release.any fun ix => !(s.die die).inView c ix) fun c => c.releaseOne ((s.die die).inView c))

/-- The bytes of a growing slab's next page, granule by granule; a borrowed unit is not moved (R144). -/
def Ctx.pageMoves (c : Ctx) (f : Fwd) : List GMove :=
  let lo := f.wm * c.pageBytes
  let hi := lo + c.pageBytes
  ((List.range ((hi - 1) / 65536 + 1 - lo / 65536)).map (lo / 65536 + ·)).filterMap fun i =>
    let e := Sparse.get c.map i
    let a := max lo (65536 * i)
    if e.brw then none
    else some { src := e, dst := Sparse.get f.map i, off := a, n := min hi (65536 * i + 65536) - a, va := c.slab + a }

/-- The next page of a growing slab has moved; the last one changes the base and k, and ends the SLABGR's batch (R144). -/
def State.pageMoved (s : State) (die : Nat) (c : Ctx) (f : Fwd) (o : KOp) (err : Option FaultInfo) : State :=
  let f1 := { f with wm := f.wm + 1, err := if f.err.isSome then f.err else err }
  if f1.wm < 2 ^ c.k then s.updCtx die c.num fun x => { x with fwd := some f1 }
  else (s.updCtx die c.num fun x => { x with slab := f1.base, k := x.k + 1, map := f1.map, fwd := none }).finishK die o f1.err

/-- SLAB_PAGE_MOVE: the next page of a growing slab moves; one that meets an error is left, and ends the batch with it (R144, R211). -/
def State.slabMove (s : State) (die ctx : Nat) : State :=
  match (s.die die).ctx ctx, (s.die die).kops.find? fun o => o.ctx == ctx && o.applied && (match o.cmd with | .grow _ _ => true | _ => false) with
  | some c, some o =>
    match c.fwd with
    | none => s
    | some f =>
      let mv := c.pageMoves f
      match mv.findSome? s.moveError with
      | some e => s.pageMoved die c f o (some e)
      | none => s.gateK die o (moveReads mv) (moveWrites mv) fun s =>
          ((s.makeMoves mv).countFor o.lrec o.job 10 ((mv.map (·.n)).sum)).pageMoved die c f o none
  | _, _ => s

def execSlabPageMove (die ctx : Nat) (s : State) : Out := .next (s.slabMove die ctx)

/-- A freed area's granules hold unspecified bytes (R123, log entry 5). -/
def State.fillFree (s : State) : List (Nat × MapEnt) → State
  | [] => s
  | e :: r =>
    ({ s with freeN := s.freeN + 65536 }.writeMem (e.2.key 0) ((List.range 65536).map fun i => Config.free (s.freeN + i) 8)).fillFree r

/-- A freed context's area is released (R123, R140). -/
def State.releaseArea (s : State) (die : Nat) (c : Ctx) : State :=
  (s.fillFree c.amap).updDie die fun d =>
    { d with ctxs := d.ctxs.filter fun x => x.num != c.num, ctxGens := Sparse.set d.ctxGens c.num c.gen }

/-- ORRERY_BATCH_PERFORMED: the background work of a command ends: a freed context's nodes are empty, a record can be written
(R131, R140, R290, R291). -/
def State.batchDone (s : State) (die id : Nat) : State :=
  match (s.die die).kop id with
  | none => s
  | some o =>
    if !o.applied then s
    else
      match o.cmd, (s.die die).ctx o.ctx with
      | .put pages va bytes, _ =>
        if s.linkFailed (keyIn pages va) then s.finishK die o (some (refusedAt va))
        else s.gateK die o [] (kibKeys pages va bytes.length) fun s => (s.writeIn pages va bytes).finishK die o none
      | .share _ _ _ _, _ => s.finishK die o none
      | .free _, some c => if c.release.isEmpty then (s.releaseArea die c).finishK die o none else s
      | _, _ => s

def execOrreryBatchPerformed (die id : Nat) (s : State) : Out := .next (s.batchDone die id)

end Sys2Proof.Machine
end

