-- ==== Sys2Proof/Machine/Attention.lean ====
section
/-!
DEFINITION. Attention over a context: ATTN and ATTNM, OP 0x75, the triple of a page, the fold over pages, the write of the group
(R126, R127, R146 to R149, R277 to R280, R314).
-/

namespace Sys2Proof.Machine

/-! ### Acceptance (R277) -/

/-- The granules of the slab that hold a page. -/
def Ctx.pageGranules (c : Ctx) (page : Nat) : List Nat :=
  let lo := page * c.pageBytes / 65536
  let hi := (page * c.pageBytes + c.pageBytes - 1) / 65536
  (List.range (hi + 1 - lo)).map (lo + ·)

/-- The map entry that serves a granule of a page. -/
def Ctx.pageEnt (c : Ctx) (page gr : Nat) : MapEnt := c.slabEnt (max (page * c.pageBytes) (gr * 65536))

/-- Where the run of one group's cells of a page begins, and the granules that hold it (R122). -/
def Ctx.runOff (c : Ctx) (page grp : Nat) : Nat := page * c.pageBytes + grp * 64 * c.cellBytes
def Ctx.runGranules (c : Ctx) (page grp : Nat) : List Nat :=
  let lo := c.runOff page grp / 65536
  (List.range ((c.runOff page grp + 64 * c.cellBytes - 1) / 65536 + 1 - lo)).map (lo + ·)

/-- The first unmapped granule that the group's runs of a range of pages lie in (R122, R141, R277). -/
def Ctx.unmapped (c : Ctx) (page count grp : Nat) : Option Nat :=
  (List.range count).findSome? fun i => (c.runGranules (page + i) grp).find? fun gr => !(c.pageEnt (page + i) gr).v

/-- Whether such a granule has no memory behind it. -/
def Ctx.unbacked (c : Ctx) (page count grp : Nat) : Bool :=
  (List.range count).any fun i => (c.runGranules (page + i) grp).any fun gr => !(c.pageEnt (page + i) gr).backed

/-- The operands of an ATTN or ATTNM within their limits, on a context whose area is ready and whose map fits (R121, R123, R137, R141, R277). -/
def State.attnCtx (s : State) (h : Nat) (multi : Bool) (page grp count bytes : Nat) : Res Ctx := do
  let c ← s.acceptCtx h
  waitUnless (!c.clearing && !c.copying)
  trapIf (decide (grp ≥ c.g) || decide (page + count > 2 ^ c.k) || c.cellBytes != bytes || (!multi && count != 1)) (flt .illegalOperand)
  trapIf (s.mapFull [c]) (fltS .illegalOperand 20)
  match c.unmapped page count grp with
  | some gr => trapR { code := .translation, sub := 16, addr := c.slab + 65536 * gr }
  | none => do
    trapIf (c.unbacked page count grp) (flt .noBacking)
    c.areaOk (c.headGrs ++ c.nodeGrs (c.nodeIx (64 * page) 0) (64 * count * c.gp))
    .ok c

/-- An ATTN or ATTNM up to its acceptance by the Orrery. All pages of an ATTNM use one sample of H and ww, taken here: the model's choice, the
rule speaks of each page's (R127, R277; log entry 19). -/
def State.attnWord (s : State) (w : Wt) (multi : Bool) : Res State := do
  let h := shAttn w multi
  s.static h
  let (x, s1) ← s.vread h
  s.await h.hd
  s.accept .orrery s1 fun s1 => do
    let b := x.b.word.toNat
    let cw := x.c.word.toNat
    let page : Nat := bitsOf cw 19 0
    let grp : Nat := bitsOf cw 25 20
    let count : Nat := bitsOf cw 31 26 + 1
    let c ← s1.attnCtx (b % 2 ^ 32) multi page grp count (16 * (etOf w).width)
    let s2 ← s1.swapIn [c] true
    let (t, s3) ← s2.joinWord true (xb w 22 20) false
    let (id, s4) := s3.fresh
    let regs := s.physRange w.d.toNat 4
    let a : Attn := { id := id, ctx := c.num, lrec := s.core.lrec, job := s.core.job.toNat, multi := multi, kt := w.et.toNat
                      qt := xb w 27 24, q := x.a.images.getD 0 [], q0 := b / 2 ^ 32, page := page, grp := grp, count := count
                      scale := cw / 2 ^ 32, h := c.h, ww := c.ww, regs := regs, pred := x.p, eve := multi && xb w 19 19 == 1
                      strm := s.cur, shd := s.keepsBits, next := 0, rows := List.replicate 16 emptyRow, done := 0, miss := 0, tok := t, blocked := [] }
    s.shadow h
    .ok (((s4.updDie s.core.did fun d => { d with attns := d.attns ++ [a] }).updC fun k => k.useBanks regs).retire 1)

/-- ATTN (R277, R278). -/
def execAttn (w : Wt) (s : State) : Out := outcome s (s.attnWord w false)
/-- ATTNM (R277, R279). -/
def execAttnm (w : Wt) (s : State) : Out := outcome s (s.attnWord w true)

/-! ### The triple of a page (R126, R278) -/

/-- A cell as one row reads it: its expiry, position, keys and values. -/
structure ACell where
  pos : Nat
  node : Node
  key : List FVal
  val : List FVal
  deriving DecidableEq, Repr

/-- The 64 elements of half a cell (R122, R277). -/
def cellElems (kt : ETy) (bs : List Byte) : List FVal :=
  let n := kt.width / 8
  (List.range 64).map fun j => decodeElem kt (leNat ((bs.drop (n * j)).take n))

/-- R126 for an entry at query position `q`, with the samples of R127. -/
def visibleAt (pos q : Nat) (n : Node) (h : Nat) (ww : Option Nat) : Bool :=
  n.tag == pos && decide (pos ≤ q) && decide ((pos : Int) ≤ wwInt ww) && decide (q < n.e) && decide (n.e > h) &&
    decide (q ≤ 0xFFFFFFFE)

/-- The exact sum of a list of values. -/
def sumF : List FVal → FVal
  | [] => .fin false 0 0
  | a :: r => r.foldl addExact a

def dotF (a b : List FVal) : FVal := sumF (List.zipWith mulExact a b)

/-- The largest of a list of FP32 scores; of -0 and +0 the first (log entry 20). -/
def maxScore : List Nat → Nat
  | [] => negInf32
  | a :: r => r.foldl (fun m x => if cmpF (decodeFloat .fp32 m) (decodeFloat .fp32 x) = some .lt then x else m) a

/-- The triple of one row over the visible cells (R146, R278). -/
def attnRow (scale : FVal) (q : List FVal) (cells : List ACell) : TRow :=
  if scale = .nan then nanRow
  else if cells.isEmpty then emptyRow
  else
    let sc := cells.map fun c => (roundFloat .fp32 .rne false (mulExact scale (dotF q c.key)).toX).bits
    let m := maxScore sc
    let e := sc.map fun x => expDiff x m
    let l := roundFloat .fp32 .rne false (sumF e).toX
    let o := (List.range 64).map fun j =>
      roundFloat .fp32 .rne false (sumF (List.zipWith (fun x c => mulExact x (c.val.getD j .nan)) e cells)).toX
    let t : TRow := { m := m, l := l.bits, o := o.map (·.bits), ev := [] :: l.events :: o.map (·.events) }
    if (sc.any isNaN32) || (cells.any fun c => c.val.contains .nan) || e.contains .nan || t.hasNaN then nanRow else t

/-- The cells of a page's group that some row of a word may see, read through the map. -/
def State.attnCells (s : State) (c : Ctx) (a : Attn) (page : Nat) : List ACell :=
  let kt := (ETy.ofCode (BitVec.ofNat 4 a.kt)).getD .fp16
  ((List.range 64).map fun i => 64 * page + i).filterMap fun pos =>
    let n := Sparse.get c.nodes (c.nodeIx pos a.grp)
    if (List.range 16).any fun i => visibleAt pos (a.q0 + i) n a.h a.ww then
      let off := c.cellOff pos a.grp
      let bs := s.bytesAt ((c.slabEnt off).key off) c.cellBytes
      some { pos := pos, node := n, key := cellElems kt bs, val := cellElems kt (bs.drop (c.cellBytes / 2)) }
    else none

/-- The sixteen rows of a page (R278). -/
def attnPage (a : Attn) (cells : List ACell) : List TRow :=
  let qt := (ETy.ofCode (BitVec.ofNat 4 a.qt)).getD .bf16
  (List.range 16).map fun i =>
    attnRow (decodeFloat .fp32 a.scale) ((List.range 64).map fun j => decodeElem qt (elemBits qt [a.q] i j))
      (cells.filter fun x => visibleAt x.pos (a.q0 + i) x.node a.h a.ww)

/-! ### Steps of the engine -/

/-- Change an attention word. -/
def State.updAttn (s : State) (die id : Nat) (f : Attn → Attn) : State :=
  s.updDie die fun d => { d with attns := d.attns.map fun a => if a.id = id then f a else a }

/-- An attention word ends: its batch is performed, or holds the error (R96, R211). -/
def State.endAttn (s : State) (die : Nat) (a : Attn) (err : Option FaultInfo) : State :=
  (s.updDie die fun d => { d with attns := d.attns.filter fun x => x.id != a.id }).endOp a.tok err

/-- Keys of the run that holds one group of a page, one for each interleave of 1 KiB (R122, R322). -/
def Ctx.runKeys (c : Ctx) (page grp : Nat) : List Nat :=
  (List.range ((64 * c.cellBytes + 1023) / 1024)).map fun i =>
    let off := c.runOff page grp + 1024 * i
    (c.slabEnt off).key off

/-- The error a page's data meets: a failed link, poison in a cell (R211, R331). -/
def State.pageError (s : State) (c : Ctx) (keys : List Nat) (grp page : Nat) (cells : List ACell) : Option FaultInfo :=
  if keys.any s.linkFailed then some (refusedAt (c.slab + c.cellOff (64 * page) grp))
  else cells.findSome? fun x =>
    let off := c.cellOff x.pos grp
    let va := c.slab + off
    (s.firstPoison [(va / 65536 * 65536, (c.slabEnt off).key 0)] va c.cellBytes).map poisonAt

/-- ATTN_PAGE_COMPUTE: the next page is skipped as missed, or its triple is computed on the matrix unit and folded
(R147, R278 to R280, R324, R331). An error ends the word; the pages it has missed raise no event then (R211, R314; log entry 19). -/
def State.attnStep (s : State) (die id : Nat) : State :=
  match (s.die die).attns.find? fun a => a.id == id with
  | none => s
  | some a =>
    match (s.die die).ctx a.ctx with
    | none => s
    | some c =>
      let page := a.page + a.next
      let now := (s.die die).cyc
      let keys := c.runKeys page a.grp
      if a.count ≤ a.next then s
      else if a.multi && (c.pageGranules page).any fun gr => (c.pageEnt page gr).tier != 0 then
        (s.updAttn die id fun x => { x with next := x.next + 1, miss := x.miss + 2 ^ x.next }).updJob a.lrec a.job
          fun k => k.count 7 1
      else if ((s.jobCore a.lrec a.job).map fun k => decide (k.mbusy > now)).getD false then s
      else
        let cells := s.attnCells c a page
        match s.pageError c keys a.grp page cells with
        | some f => s.endAttn die a (some f)
        | none =>
          match s.gate keys [] with
          | .wait => s
          | .bank =>
            let new := s.newBlocks a.blocked 0 now keys
            if new.isEmpty then s else s.updAttn die id fun x => { x with blocked := x.blocked ++ new }
          | .go =>
            ((s.touchRows keys).updJob a.lrec a.job fun k => { k.count 3 16 with mbusy := now + 16 }).updAttn die id fun y =>
              { y with next := y.next + 1, rows := List.zipWith mergeRow y.rows (attnPage a cells), blocked := [] }

def execAttnPageCompute (die id : Nat) (s : State) : Out := .next (s.attnStep die id)

/-- The lanes of row `i` of a predicate (R31, R36). -/
def rowPred (pred : BitVec 1024) (i : Nat) : BitVec 1024 := pred &&& ((BitVec.allOnes 64).setWidth 1024 <<< (64 * i))

/-- ATTN_COMPLETE: the next row of the four registers is written; with the last the batch is performed and, with a miss, the tier-miss event
is raised in the same step (R45, R277, R279, R314). A word that ended with an error raises none: the spec is silent, the model's choice (log
entry 19). -/
def State.attnDone (s : State) (die id : Nat) : State :=
  match (s.die die).attns.find? fun a => a.id == id with
  | none => s
  | some a =>
    if a.next < a.count then s
    else
      let i := a.done
      let p := rowPred a.pred i
      let imgs := tripleImages a.rows (a.miss % 2 ^ 32) (a.miss / 2 ^ 32)
      let s1 := s.updJob a.lrec a.job fun k => applyParts k (imageParts p a.regs imgs)
      let s2 := match s.jobCore a.lrec a.job with
        | some k => s1.countEvents k .m (tripleEvents p i (a.rows.getD i default).ev)
        | none => s1
      if i < 15 then s2.updAttn die id fun x => { x with done := i + 1 }
      else
        let s3 := s2.endAttn die a none
        if a.eve && a.miss != 0 then s3.raiseEvent a.lrec a.job .a { cause := 2, sub := 0, info := BitVec.ofNat 64 a.miss } else s3

def execAttnComplete (die id : Nat) (s : State) : Out := .next (s.attnDone die id)

end Sys2Proof.Machine
end

