-- ==== Sys2Proof/Machine/Sluice.lean ====
section
/-!
DEFINITION. The Sluice: channel ends and their matching, permits, tile sets, arrivals, closing, failure: OP 0x84
(R150 to R161, R284, R296 to R298, R319).
-/

namespace Sys2Proof.Machine

/-! ### Ends (R150, R151, R296) -/

/-- Change an end. -/
def State.updEnd (s : State) (die n : Nat) (f : ChEnd → ChEnd) : State :=
  s.updDie die fun d => { d with ends := d.ends.map fun e => if e.num = n then f e else e }

/-- The handle of an end (R296). -/
def ChEnd.handle (e : ChEnd) (die : Nat) : Nat := e.gen * 2 ^ 24 + die * 2 ^ 8 + e.num

/-- Whether a bridge joins two dies: AD k with FD 2k and FD 2k + 1 (R3, R150). -/
def bridged (a b : Nat) : Bool :=
  let p := fun x y => decide (x < 4) && decide (4 ≤ y) && decide (y < 12) && decide ((y - 4) / 2 = x)
  p a b || p b a

/-- The status a command other than XCLOSE meets at an end (R151, R157, R158, R160). -/
def State.chStatus (s : State) (e : ChEnd) : Nat :=
  if e.st = .failed then 3
  else if e.mismatch then 4
  else if e.selfClosed || ((s.partner e).map (·.selfClosed)).getD false then 2 else 0

/-- The exchange-closed event of a command that returned status 2 or 3 (R157, R199). -/
def State.closedEvent (s : State) (die : Nat) (e : ChEnd) (st : Nat) : State :=
  if e.eve && (st == 2 || st == 3) then
    s.raiseEvent e.lrec e.job .a { cause := 3, sub := 0, info := statusWord st (e.handle die) }
  else s

/-- Buffers of an end in a state. -/
def ChEnd.count (e : ChEnd) (p : BufSt → Bool) : Nat := e.bufs.countP p
def BufSt.isFree : BufSt → Bool | .free => true | _ => false
def BufSt.isGranted : BufSt → Bool | .granted => true | _ => false
def BufSt.isFilling : BufSt → Bool | .filling _ => true | _ => false
def BufSt.isArrived : BufSt → Bool | .arrived _ _ => true | _ => false

/-- The sends of an end that have not arrived: Rake commands of its die, wherever their job is (R152, R155). -/
def State.sends (s : State) (die num : Nat) : List Copy :=
  ((s.allCores.flatMap (·.rake)) ++ s.orphans).filter fun k => k.die == die && k.send.any fun x => x.num == num

/-- The sends of an end, as its peer knows its die. -/
def State.sendsOf (s : State) (e : ChEnd) : List Copy :=
  match (s.partner e).bind fun p => p.peerEnd.map fun n => (p.peer, n) with
  | some (die, n) => s.sends die n
  | none => []

/-- The sends on their way to a receiving end. -/
def State.sendsTo (s : State) (e : ChEnd) : List Copy :=
  match s.partner e with
  | some p => s.sends e.peer p.num
  | none => []

/-- The end a handle names, of the issuing job and of a role where one is needed (R150, R296). -/
def State.endOf (s : State) (h : Nat) (role : Option Nat) : Res ChEnd :=
  match (s.die s.core.did).chEnd (h % 128) with
  | none => trapR (fltS .illegalOperand 6)
  | some e =>
    if h ≠ e.handle s.core.did ∨ e.lrec ≠ s.core.lrec ∨ e.job ≠ s.core.job.toNat then trapR (fltS .illegalOperand 6)
    else if role.isSome && role != some e.role then trapR (fltS .illegalOperand 8)
    else .ok e

/-! ### XOPEN (R151, R297) -/

/-- The limits of a descriptor (R151, R297). -/
def xopenLimits (bs : List Byte) : Res Unit := do
  let role := fieldNat bs 3 1
  let t := fieldNat bs 4 1
  let nb := fieldNat bs 5 1
  let buf := fieldNat bs 8 8
  let sw := fieldNat bs 16 8
  trapIf (decide (role > 1) || t == 0 || decide (t > 64) || decide (fieldNat bs 6 1 > 1) || fieldNat bs 7 1 != 0
    || fieldNat bs 24 40 != 0) (flt .illegalOperand)
  if role = 0 then trapIf (nb != 0 || buf != 0 || sw != 0) (flt .illegalOperand)
  else do
    trapIf (nb == 0 || decide (nb > 16)) (flt .illegalOperand)
    trapIf (buf % 128 != 0) { code := .alignment, addr := buf }
    trapIf (sw % 16 != 0) { code := .alignment, addr := sw }
    trapIf (!inWindow buf || decide (buf + nb * t * 2048 > winHi)) (flt .illegalOperand)
    trapIf (sw != 0 && !inWindow sw) (flt .illegalOperand)

/-- The least free end of a die (R150). -/
def Die.freeEnd (d : Die) (n : Nat) : Option Nat := (List.range n).find? fun i => (d.chEnd i).isNone

/-- XOPEN (R150, R151, R297). A fenced peer die makes a wrong die pair: the model's choice, the spec gives no status for it (log entry 22). -/
def State.xopen (s : State) (w : Wm) : Res State := do
  let h := shM w .req true 1 24 .sDst .sSrc .none .none
  s.static h
  let ((a, _, _), s1) ← s.sources h
  s.acceptDesc .sluice w a s1 fun bs s1 => do
    xopenLimits bs
    let (t, s2) ← s1.joinW w
    let peer := fieldNat bs 2 1
    let did := s.core.did
    let fail := fun (st : Nat) => do
      let s3 ← s2.writeS w.d (statusWord st 0) 1
      Except.ok (ε := Halt) ((s3.endOp t none).retire 1)
    if !bridged did peer || (s.die peer).fenced then fail 4
    else
      match (s.die did).freeEnd (if isAttnDie did then 128 else 64) with
      | none => fail 5
      | some n => do
        let nb := fieldNat bs 5 1
        let e : ChEnd := { num := n, gen := Sparse.get (s.die did).endGens n, key := fieldNat bs 0 2, peer := peer
                           role := fieldNat bs 3 1, t := fieldNat bs 4 1, nb := nb, buf := fieldNat bs 8 8, sw := fieldNat bs 16 8
                           eve := fieldNat bs 6 1 == 1, lrec := s.core.lrec, job := s.core.job.toNat, node := s.core.node, st := .opening
                           mismatch := false, selfClosed := false, done := false, peerEnd := none, bufs := List.replicate nb .free
                           grants := 0, held := [], permits := 0, sent := 0, popped := 0, rpl := 0, errDue := false, openTok := t, closeTok := none }
        let s3 ← s2.writeS w.d (statusWord 0 (e.handle did)) 1
        .ok ((s3.updDie did fun d => { d with ends := d.ends ++ [e] }).retire 1)

def execXopen (w : Wm) (s : State) : Out := outcome s (s.xopen w)

/-- The end of a key that the Sluice of a die matches next: the first opening end of the role, when no end of the key on that die
is matched and not yet freed (R151, R284). -/
def Die.nextOpen (d : Die) (peer key role : Nat) : Option ChEnd :=
  let mine := d.ends.filter fun e => e.peer == peer && e.key == key
  if mine.any fun e => e.st != .opening || e.mismatch then none
  else mine.find? fun e => e.role == role && !e.selfClosed

/-- CHANNEL_MATCH: two ends are matched, or with unequal `t` both are closed; both batches complete (R151). -/
def State.matchEnds (s : State) (die num : Nat) : State :=
  match (s.die die).chEnd num with
  | none => s
  | some e =>
    match (s.die die).nextOpen e.peer e.key e.role, (s.die e.peer).nextOpen die e.key (1 - e.role) with
    | some x, some y =>
      if x.num ≠ num then s
      else
        let bad := x.t != y.t
        let up := fun (other : Nat) (z : ChEnd) =>
          { z with st := if bad then .opening else .opened, mismatch := bad, openTok := none
                   peerEnd := if bad then none else some other }
        (((s.updEnd die num (up y.num)).updEnd e.peer y.num (up num)).endOp x.openTok none).endOp y.openTok none
    | _, _ => s

def execChannelMatch (die num : Nat) (s : State) : Out := .next (s.matchEnds die num)

/-! ### Grants and sends (R153 to R155, R298) -/

/-- A word on an end: rows 2 to 6, what the word alone decides, sources, await, and, for a push, its class; then `go` in the state in which the Sluice accepts it, with
the operands and the end (R103, R150, R283, R286). -/
def State.xword (s : State) (w : Wm) (h : Shape) (own : Res Unit) (role : Option Nat) (push : Bool)
    (go : Word × Word × Word → ChEnd → State → Res State) : Res State := do
  s.static h
  own
  let (x, s1) ← s.sources h
  s.await w.toHd
  waitUnless (!push || s.classDrained w.cls.toNat)
  s.accept .sluice s1 fun s1 => do
    scalarBits x.2.1 0xFFFFFFFF
    let e ← s1.endOf x.2.1.toNat role
    go x e s1

/-- A result in the status layout ends a word (R285, R298). -/
def State.xreply (s : State) (w : Wm) (e : ChEnd) (st : Nat) : Res State := do
  let s1 ← s.writeS w.d (statusWord st 0) 1
  .ok ((s1.closedEvent s.core.did e st).retire 1)

/-- Reads of the granting stream and class that are still in flight: accesses, copies and sends, window fetches, generators, migrations
(R98, R154). -/
def State.readsBefore (s : State) (cls n : Nat) : HeldGrant :=
  { n := n
    ops := (s.core.ops.filter fun o => o.strm == s.cur && o.cls == cls).map (·.id)
    copies := (s.core.rake.filter fun k => k.cls == cls && !k.todo.isEmpty).map (·.id)
    fetches := (s.core.fetches.filter fun f => f.cls == cls).map (·.id)
    ports := (List.range 8).filter fun p => match (s.core.port p).gen with | some g => g.cls == cls | none => false
    migs := (s.migs.filter fun m => m.lrec == s.core.lrec && m.job == s.core.job.toNat && m.cls == cls).map (·.id) }

/-- Set the next `n` buffers. -/
def grantBufs (nb : Nat) : List BufSt → Nat → Nat → List BufSt
  | b, _, 0 => b
  | b, from_, n + 1 => grantBufs nb (b.set (from_ % nb) .granted) (from_ + 1) n

/-- XGRANT (R153, R154, R298). -/
def State.xgrant (s : State) (w : Wm) : Res State :=
  let n := w.disp.toNat % 32
  s.xword w (shM w .none false 1 5 .sDst .none .sSrc .none) (trapIf (n == 0 || decide (n > 16)) (flt .illegalOperand)) (some 1) false
    fun _ e s1 => do
    let st := s.chStatus e
    if st ≠ 0 then s1.xreply w e st
    else do
      waitUnless (e.st != .opening)
      trapIf (decide (e.count BufSt.isFree < n)) (fltS .illegalOperand 7)
      (s1.updEnd s.core.did e.num fun x =>
        { x with bufs := grantBufs x.nb x.bufs x.grants n, grants := x.grants + n
                 held := x.held ++ [s.readsBefore w.cls.toNat n] }).xreply w e 0

def execXgrant (w : Wm) (s : State) : Out := outcome s (s.xgrant w)

/-- Whether every read a held grant waits for has performed, at the granting job's core. -/
def HeldGrant.clear (g : HeldGrant) (s : State) (c : Option Core) : Bool :=
  match c with
  | none => true
  | some k =>
    (g.ops.all fun i => !k.ops.any fun o => o.id == i) &&
    (g.copies.all fun i => !(k.rake ++ s.orphans).any fun o => o.id == i && !o.todo.isEmpty) &&
    (g.fetches.all fun i => !k.fetches.any fun o => o.id == i) &&
    (g.ports.all fun p => (k.port p).gen.isNone) &&
    (g.migs.all fun i => !s.migs.any fun m => m.id == i)

/-- PERMIT_ARRIVE: the oldest held grant of a receiver reaches its sender; to a sender that has closed it comes back (R154, R158). -/
def State.permitArrive (s : State) (die num : Nat) : State :=
  match (s.die die).chEnd num with
  | none => s
  | some e =>
    match e.held, s.partner e with
    | g :: r, some p =>
      if e.role ≠ 1 || !g.clear s (s.jobCore e.lrec e.job) then s
      else
        let s1 := s.updEnd die num fun x => { x with held := r }
        s1.updEnd e.peer p.num fun x => { x with permits := x.permits + g.n }
    | _, _ => s

def execPermitArrive (die num : Nat) (s : State) : Out := .next (s.permitArrive die num)

/-- Cycles from its push in which the last beat of a set of `t` tiles crosses the bridge: 14 for 16 tiles (R309). -/
def crossCycles (t : Nat) : Nat := (14 * t + 15) / 16

/-- XSEND: it waits, or under `nb` sends nothing, without a permit, or without room in the sender's Rake queue (R103, R153, R155, R298;
log entry 27). -/
def State.xsend (s : State) (w : Wm) : Res State :=
  s.xword w (shM w .opt true 3 24 .sDst .sSrc .sSrc .sSrc) (.ok ()) (some 0) true fun (a, _, c) e s1 => do
    let ea := effAddr w a
    let n := e.t * 2048
    scalarBits c 0xFFFFFFFF
    rangeCheck ea n
    trapIf (ea % 128 != 0) { code := .alignment, addr := ea }
    let pages ← s1.xlateRange .crd ea n
    let (t, s2) ← s1.joinW w
    let st := s.chStatus e
    if st ≠ 0 then (s2.endOp t none).xreply w e st
    else do
      waitUnless (e.st != .opening)
      if e.permits = 0 || s.rakeFull then
        if w.sz.getLsbD 0 then (s2.endOp t none).xreply w e 1 else .error .wait
      else
        match s.partner e with
        | none => .error .wait
        | some p =>
          let buf := e.sent % p.nb
          let x : SendTo := { num := e.num, seq := e.sent, buf := buf, user := c, replays := 0, from_ := s.now + crossCycles e.t }
          let s3 := s2.pushRake w.cls.toNat [{ src := ea, dst := p.buf + buf * n, len := n }] pages none (some x) t
          let s4 := s3.updEnd s.core.did e.num fun y => { y with permits := y.permits - 1, sent := y.sent + 1 }
          (s4.updEnd e.peer p.num fun y => { y with bufs := y.bufs.set buf (.filling e.sent) }).xreply w e 0

def execXsend (w : Wm) (s : State) : Out := outcome s (s.xsend w)

/-! ### Arrival (R152, R153, R156, R160) -/

/-- The oldest of a list of sends: that of least sequence number. -/
def oldestSend (l : List Copy) : Option Copy := l.find? fun k => l.all fun j => k.send.any fun x => j.send.any fun y => decide (x.seq ≤ y.seq)

/-- SET_ARRIVED: every row of the oldest send of an end has been read, has crossed the bridge and been written; the buffer becomes ARRIVED, the
sync word is raised, the batch performed (R89, R152, R153, R155). -/
def State.setArrived (s : State) (die num : Nat) : State :=
  match oldestSend (s.sends die num) with
  | none => s
  | some k =>
    match k.send, s.receiver k with
    | some x, some p =>
      let sw := s.recvSync k
      if !k.todo.isEmpty || decide ((s.die die).cyc < x.from_) || s.jobSaved p.lrec p.job || s.gate [] sw.toList != .go then s
      else
        let s1 := match sw with | some q => (s.touchRow q).raiseSync q (p.t * 2048) | none => s
        let peer := match (s.die die).chEnd num with | some e => e.peer | none => die
        ((s1.updEnd peer p.num fun y => { y with bufs := y.bufs.set x.buf (.arrived x.seq x.user) }).putCopy k.id none).endOp k.tok none
    | _, _ => if k.todo.isEmpty then (s.putCopy k.id none).endOp k.tok none else s

def execSetArrived (die num : Nat) (s : State) : Out := .next (s.setArrived die num)

/-- The XRECV result (R298). -/
def recvWord (st buf seq : Nat) (user : Word) : Word :=
  BitVec.ofNat 64 (st * 2 ^ 56 + buf * 2 ^ 52 + seq % 2 ^ 16 * 2 ^ 32 + user.toNat)

/-- XRECV (R156, R298, R319). After the job's own XCLOSE it returns status 2, of a FAILED end too: R158 says 2 there and R160 says 3, the choice
is the model's; XGRANT and XSEND return 3 there (log entry 26). -/
def State.xrecv (s : State) (w : Wm) : Res State :=
  s.xword w (shM0 w .none 3 0 .sDst .none .sSrc .none) (trapIf (w.d == 696) (flt .illegalOperand)) (some 1) false fun _ e s1 => do
    let fail := fun (st : Nat) => do
      let s2 ← s1.writeS w.d (recvWord st 0 0 0) 1
      Except.ok (ε := Halt) ((s2.closedEvent s.core.did e st).retire 1)
    let st := s.chStatus e
    if e.selfClosed then fail 2
    else if st = 3 ∨ st = 4 then fail st
    else do
      waitUnless (e.st != .opening)
      let b := e.popped % e.nb
      match e.bufs.getD b .free with
      | .arrived seq user => do
        let s2 ← s1.writeS w.d (recvWord 0 b seq user) 1
        .ok ((s2.updEnd s.core.did e.num fun y => { y with bufs := y.bufs.set b .free, popped := y.popped + 1 }).retire 1)
      | _ =>
        if st = 2 ∧ e.bufs.all (fun x => !x.isFilling && !x.isArrived) then fail 2
        else if w.sz.getLsbD 0 then fail 1
        else .error .wait

def execXrecv (w : Wm) (s : State) : Out := outcome s (s.xrecv w)

/-! ### Closing (R158, R284) -/

/-- XCLOSE: of a FAILED end it completes at once with status 3, and a second one of another end with status 2, the latter the model's choice
(R151, R158, R160, R298; log entry 26). -/
def State.xclose (s : State) (w : Wm) : Res State :=
  s.xword w { shM w .req true 1 0 .sDst .none .sSrc .none with
      xok := w.cls == 0 && (shM w .req true 1 0 .none .none .none .none).xok } (.ok ()) none false fun _ e s1 => do
    let (t, s2) ← s1.joinW w
    let close := fun (tok : Option TokRef) => (s2.updEnd s.core.did e.num fun y =>
      { y with selfClosed := true, closeTok := tok, openTok := none }).endOp e.openTok none
    if e.st = .failed then ((if e.selfClosed then s2 else close none).endOp t none).xreply w e 3
    else if e.selfClosed then (s2.endOp t none).xreply w e 2
    else (close t).xreply w e 0

def execXclose (w : Wm) (s : State) : Out := outcome s (s.xclose w)

/-- Free an end: its generation advances (R296). -/
def State.freeEnd (s : State) (die num : Nat) : State :=
  match (s.die die).chEnd num with
  | none => s
  | some e => s.updDie die fun d => { d with ends := d.ends.filter fun x => x.num != num
                                             endGens := Sparse.set d.endGens num ((e.gen + 1) % 256) }

/-- Whether an end's close may complete: a sender's sends have all arrived, a receiver's buffers have all been filled; an end that
is unmatched, closed for unequal `t`, or failed completes at once (R151, R158). -/
def State.closeReady (s : State) (e : ChEnd) : Bool :=
  e.selfClosed && !e.done && (e.st != .opened || (s.partner e).isNone ||
    (if e.role = 0 then (s.sendsOf e).isEmpty else (s.sendsTo e).isEmpty))

/-- XCLOSE_COMPLETE (R158). -/
def State.closeDone (s : State) (die num : Nat) : State :=
  match (s.die die).chEnd num with
  | none => s
  | some e =>
    if !s.closeReady e then s
    else
      let s1 := (s.updEnd die num fun x => { x with done := true, closeTok := none }).endOp e.closeTok none
      match s.partner e with
      | none => s1.freeEnd die num
      | some p =>
        let back := fun (b : BufSt) => if b.isGranted then BufSt.free else b
        let s2 :=
          if e.st ≠ .opened then s1
          else if e.role = 0 then
            (s1.updEnd die num fun x => { x with permits := 0 }).updEnd e.peer p.num fun x =>
              { x with bufs := x.bufs.map back, held := [] }
          else
            (s1.updEnd die num fun x => { x with bufs := x.bufs.map fun _ => .free, held := [] }).updEnd e.peer p.num
              fun x => { x with permits := 0 }
        if p.done then (s2.freeEnd die num).freeEnd e.peer p.num else s2

def execXcloseComplete (die num : Nat) (s : State) : Out := .next (s.closeDone die num)

/-! ### XSTAT (R159) -/

/-- The state code of R159. -/
def State.endCode (s : State) (e : ChEnd) : Nat :=
  if e.st = .failed then 4
  else if e.mismatch || e.done || ((s.partner e).map (·.done)).getD false then 3
  else if s.chStatus e = 2 then 2
  else if e.st = .opening then 0 else 1

/-- The XSTAT record (R159). -/
def State.endRecord (s : State) (e : ChEnd) : Word :=
  let (seq, free, arr, perm) :=
    if e.role = 0 then (e.sent, 0, (s.sendsOf e).length, e.permits)
    else (e.popped, e.count BufSt.isFree, e.count BufSt.isArrived, e.count BufSt.isGranted)
  BitVec.ofNat 64 (seq % 2 ^ 16 * 2 ^ 48 + min e.rpl 65535 * 2 ^ 32 + e.role * 2 ^ 27 + s.endCode e * 2 ^ 24
    + free * 2 ^ 16 + arr * 2 ^ 8 + perm)

/-- XSTAT (R151, R159, R298). -/
def State.xstat (s : State) (w : Wm) : Res State :=
  s.xword w (shM0 w .none 1 0 .sDst .none .sSrc .none) (.ok ()) none false fun _ e s1 => do
    if e.mismatch then s1.xreply w e 4
    else do
      let s2 ← s1.writeS w.d (s.endRecord e) 1
      .ok (s2.retire 1)

def execXstat (w : Wm) (s : State) : Out := outcome s (s.xstat w)

/-! ### Bridge failures (R160) -/

/-- Failed replays of one beat before a bridge retrains. -/
def replayLimit : Nat := 16

/-- A bridge replay counted at an end. -/
def ChEnd.replayed (e : ChEnd) : ChEnd := { e with rpl := min (e.rpl + 1) 65535 }

/-- BRIDGE_BEAT_REPLAY: the current beat of a sending end fails its check and is replayed; where its sixteenth replay fails the bridge is to
retrain, and it is not replayed again. -/
def State.beatReplay (s : State) (die num : Nat) : State :=
  match oldestSend ((s.sends die num).filter fun k => !k.todo.isEmpty) with
  | none => s
  | some k =>
    match k.send, (s.die die).chEnd num with
    | some x, some e =>
      if replayLimit < x.replays then s
      else
        let s1 := s.putCopy k.id (some { k with send := some { x with replays := x.replays + 1 } })
        if x.replays = replayLimit then s1
        else
          let s2 := s1.updEnd die num ChEnd.replayed
          match s.partner e with
          | none => s2
          | some p => s2.updEnd e.peer p.num ChEnd.replayed
    | _, _ => s

def execBridgeBeatReplay (die num : Nat) (s : State) : Out := .next (s.beatReplay die num)

/-- Report a failed channel end to its region's fault domain; the spec gives INFO no meaning for this code, the end's handle in it is the
model's choice (R160, R350; log entry 26). -/
def State.failRecord (s : State) (die : Nat) (e : ChEnd) : State :=
  if e.node = 0 then s
  else s.postRecord (s.faultDomain treeDepth e.node)
    { code := 0x44, die := die, info := e.handle die, lrec := e.lrec, job := e.job, cyc := (s.die die).cyc }

/-- The sync words of a list of failed ends of a die get ERR: that of a saved job once it is restored, in its new cluster; an ended job has
none (R152, R160). -/
def State.payErrs (s : State) (die : Nat) : List ChEnd → State
  | [] => s
  | e :: r =>
    if !e.errDue || s.jobSaved e.lrec e.job then s.payErrs die r
    else
      let s1 := s.updEnd die e.num fun x => { x with errDue := false }
      (match s.jobCore e.lrec e.job with
        | some c => s1.syncErr (scratchKey c.clusterIx e.sw)
        | none => s1).payErrs die r

/-- Sends that will not arrive leave the Rake; their batches are performed. -/
def State.dropSends (s : State) : List Copy → State
  | [] => s
  | k :: r => ((s.putCopy k.id none).endOp k.tok none).dropSends r

/-- A channel fails, named by its sending end: buffers being filled are free, the sync word gets ERR (R153, R160). -/
def State.failChannel (s : State) (die num : Nat) (record : Bool) : State :=
  match (s.die die).chEnd num with
  | none => s
  | some e =>
    let s1 := (s.updEnd die num fun x => { x with st := .failed }).dropSends (s.sends die num)
    match s.partner e with
    | none => s1
    | some p =>
      let s2 := s1.updEnd e.peer p.num fun x =>
        { x with st := .failed, errDue := p.sw != 0, bufs := x.bufs.map fun b => if b.isFilling then .free else b }
      let s3 := s2.payErrs e.peer ((s2.die e.peer).chEnd p.num).toList
      if record then (s3.failRecord die e).failRecord e.peer p else s3

/-- Fail the channels of a list of sending ends. -/
def State.failAll (s : State) (die : Nat) (record : Bool) : List ChEnd → State
  | [] => s
  | e :: r => (s.failChannel die e.num record).failAll die record r

/-- Channels filling from one die to another. -/
def State.fillingTo (s : State) (die peer : Nat) : List ChEnd :=
  (s.die die).ends.filter fun e => e.role == 0 && e.peer == peer && e.st == .opened && !(s.sends die e.num).isEmpty

/-- Whether a bridge is due to retrain: sixteen replays of one beat have failed. -/
def State.retrainDue (s : State) (a f : Nat) : Bool :=
  let due := fun (die peer : Nat) => (s.fillingTo die peer).any fun e => (s.sends die e.num).any fun k =>
    k.send.any fun x => decide (replayLimit < x.replays)
  due a f || due f a

/-- Every channel with a set in flight across a bridge fails; the others stay open (R160). -/
def State.failBridge (s : State) (a f : Nat) : State :=
  (s.failAll a true (s.fillingTo a f)).failAll f true (s.fillingTo f a)

end Sys2Proof.Machine
end

