-- ==== Sys2Proof/Machine/Pan.lean ====
section
/-!
DEFINITION. The Pan filter of a feed-forward die: PANCFG, its release, PANRD, and the step that observes a store: OP 0x85
(R299 to R301).
-/

namespace Sys2Proof.Machine

/-! ### Slots and their handles (R299) -/

def Die.pan (d : Die) (n : Nat) : PanSlot := Sparse.get d.pans n

def State.setPan (s : State) (die n : Nat) (p : PanSlot) : State :=
  s.updDie die fun d => { d with pans := Sparse.set d.pans n p }

/-- The handle of a slot. -/
def panHandle (gen die slot : Nat) : Nat := gen * 2 ^ 24 + die * 2 ^ 8 + slot

/-- The slot a handle names (R299). -/
def State.panOf (s : State) (h : Nat) : Res (Nat × PanSlot) :=
  let n := h % 8
  let p := (s.die s.core.did).pan n
  if p.used ∧ h = panHandle p.gen s.core.did n then .ok (n, p) else trapR (fltS .illegalOperand 21)

/-- Bytes of an element, and of a region. -/
def panWidth (et : Nat) : Nat := if et = 11 then 4 else 2
def PanSlot.bytes (p : PanSlot) : Nat := p.rows * p.len * panWidth p.et
def PanSlot.ty (p : PanSlot) : ETy := match p.et with | 9 => .fp16 | 10 => .bf16 | _ => .fp32

/-! ### PANCFG (R299) -/

/-- Whether FP32 bits are finite, and a positive normal. -/
def finite32 (b : Nat) : Bool := decide (bitsOf b 30 23 < 255)
def posNormal32 (b : Nat) : Bool := finite32 b && decide (bitsOf b 30 23 > 0) && decide (b < 2 ^ 31)

/-- The limits of a descriptor (R299). -/
def panLimits (bs : List Byte) : Res Unit := do
  let rows := fieldNat bs 8 4
  let len := fieldNat bs 12 4
  let et := fieldNat bs 16 1
  let ks := fieldNat bs 17 1
  let base := fieldNat bs 0 8
  trapIf (base % 0x200000 != 0) { code := .alignment, addr := base }
  trapIf (rows == 0 || decide (rows > 4096) || decide (len < 64) || decide (len > 2 ^ 20) || len % 64 != 0
    || !(et == 9 || et == 10 || et == 11) || decide (rows * len * panWidth et > 2 ^ 30) || ks == 0 || decide (ks > 64)
    || fieldNat bs 18 2 != 0 || !finite32 (fieldNat bs 20 4) || !posNormal32 (fieldNat bs 24 4) || fieldNat bs 28 36 != 0)
    (flt .illegalOperand)

/-- Whether two sets of granules share a frame. -/
def sharesFrame (a b : List (Nat × Nat)) : Bool := a.any fun x => b.any fun y => x.2 == y.2

/-- The least free slot of the eight. -/
def Die.freePan (d : Die) : Option Nat := (List.range 8).find? fun n => !(d.pan n).used

/-- PANCFG (R299): it is accepted once the filter has taken every store performed before it. -/
def State.pancfg (s : State) (w : Wm) : Res State := do
  let h := { shM w .none false 1 24 .sDst .sSrc .none .none with die := some false }
  s.static h
  let ((a, _, _), s1) ← s.sources h
  s.acceptDesc .pan w a s1 fun bs s1 => do
    panLimits bs
    let d := s.die s.core.did
    let va := fieldNat bs 0 8
    let slot : PanSlot := { used := true, gen := 0, pages := [], va := va, rows := fieldNat bs 8 4, len := fieldNat bs 12 4
                            et := fieldNat bs 16 1, ks := fieldNat bs 17 1, cap := fieldNat bs 20 4, temp := fieldNat bs 24 4
                            state := [], reads := [] }
    let pages ← s.xlateRange .crd va slot.bytes
    trapIf (pages.any fun g => !isHbmKey g.2 || dieOfDpa g.2 != s.core.did) (fltS .illegalOperand 15)
    trapIf (d.pans.any fun p => p.2.used && sharesFrame p.2.pages pages) (flt .illegalOperand)
    waitUnless d.panq.isEmpty
    match d.freePan with
    | none => do
      let s2 ← s1.writeS w.d (statusWord 1 0) 1
      .ok (s2.retire 1)
    | some n => do
      let gen := (d.pan n).gen
      let s2 ← s1.writeS w.d (statusWord 0 (panHandle gen s.core.did n)) 1
      .ok (((s2.setPan s.core.did n { slot with gen := gen, pages := pages }).fillTlbs (pages.map (·.1))).retire 1)

def execPancfg (w : Wm) (s : State) : Out := outcome s (s.pancfg w)

/-! ### Records (R301) -/

/-- A row's record: a row that has not filled is marked incomplete (R301). -/
def PanSlot.record (p : PanSlot) (r : PanRow) : List Byte :=
  let flg := r.dup.toNat + 2 * r.nan.toNat + 4 * r.above.toNat + 8 * r.sat.toNat + 16 * (r.cnt != p.len).toNat
  leBytes 12 r.sum ++ leBytes 4 r.cnt ++ leBytes 1 flg ++ leBytes 1 p.ks ++ leBytes 46 0
    ++ (List.range p.ks).flatMap fun i =>
      match r.short[i]? with
      | some (x, v) => leBytes 4 x ++ leBytes 4 v
      | none => leBytes 4 0xFFFFFFFF ++ leBytes 4 0

/-- Change the waiting reads of a slot. -/
def State.panReads (s : State) (die n : Nat) (f : List PanRead → List PanRead) : State :=
  s.updDie die fun d => { d with pans := Sparse.set d.pans n { d.pan n with reads := f (d.pan n).reads } }

/-- The record a waiting read takes, as the row stands. -/
def State.panRecord (s : State) (die n : Nat) (r : PanRead) : List Byte :=
  let p := (s.die die).pan n
  p.record (Sparse.get p.state r.row)

/-- The keys a waiting read's record is written at. -/
def PanRead.keys (r : PanRead) (ks : Nat) : List Nat := kibKeys r.pages r.va (64 + 8 * ks)

/-- Write a waiting read's record and end its batch; under CLR the row starts a new generation. A host link that has failed ends the batch
by R211 with nothing written. -/
def State.panWrite (s : State) (die n : Nat) (r : PanRead) : State :=
  let s1 := s.panReads die n fun l => l.erase r
  if (r.keys ((s.die die).pan n).ks).any s.linkFailed then s1.endOp r.tok (some (refusedAt r.va))
  else
    let s2 := ((s1.touchRows (r.keys ((s.die die).pan n).ks)).writeIn r.pages r.va (s.panRecord die n r)).updDie die fun d =>
      { d with pans := Sparse.set d.pans n { (d.pan n) with
          state := if r.clr then Sparse.set (d.pan n).state r.row default else (d.pan n).state } }
    s2.endOp r.tok none

/-- What stands in the way of a waiting read's record: a link that has failed ends it, so it is not waited for. -/
def State.panGate (s : State) (die n : Nat) (r : PanRead) : Gate :=
  let keys := r.keys ((s.die die).pan n).ks
  if keys.any s.linkFailed then .go
  else if keys.any isScratchKey && r.tok.any fun t => s.jobSaved t.lrec t.job then .wait
  else s.gate [] keys

/-- Serve the reads of a slot whose rows are full, oldest first; a record that cannot be written yet waits (R84, R301, R324, R331). -/
def State.panServe (s : State) (die n : Nat) : List PanRead → State
  | [] => s
  | r :: l =>
    let p := (s.die die).pan n
    if (Sparse.get p.state r.row).cnt ≠ p.len then s.panServe die n l
    else match s.panGate die n r with
      | .go => (s.panWrite die n r).panServe die n l
      | .wait => s.panServe die n l
      | .bank =>
        let new := s.newBlocks r.blocked 0 (s.die die).cyc (r.keys p.ks)
        (if new.isEmpty then s
          else s.panReads die n fun x => x.map fun q => if q = r then { q with blocked := q.blocked ++ new } else q).panServe die n l

/-- Serve the reads of every slot of a die. -/
def State.panServeAll (s : State) (die : Nat) : State :=
  (List.range 8).foldl (fun s n => s.panServe die n ((s.die die).pan n).reads) s

/-- End the reads of a slot that is released, each with the record as it stands (R301). -/
def State.panFlush (s : State) (die n : Nat) : List PanRead → State
  | [] => s
  | r :: l => (s.panWrite die n r).panFlush die n l

/-- PANCFG rel: waiting reads end, the generation advances (R299, R301). -/
def State.pancfgRel (s : State) (w : Wm) : Res State := do
  let h := { shM w .none false 2 0 .sDst .none .sSrc .none with die := some false }
  s.static h
  let ((_, b, _), s1) ← s.sources h
  s.await w.toHd
  waitUnless (s.classDrained w.cls.toNat)
  s.accept .pan s1 fun s1 => do
    scalarBits b 0xFFFFFFFF
    let (n, p) ← s.panOf b.toNat
    waitUnless ((s.die s.core.did).panq.isEmpty && p.reads.all fun r => s.panGate s.core.did n r == .go)
    let s2 ← s1.writeS w.d (statusWord 0 0) 1
    let s3 := s2.panFlush s.core.did n p.reads
    .ok ((s3.setPan s.core.did n { (default : PanSlot) with gen := (p.gen + 1) % 256 }).retire 1)

def execPancfgRel (w : Wm) (s : State) : Out := outcome s (s.pancfgRel w)

/-- PANRD (R301). -/
def State.panrd (s : State) (w : Wm) : Res State := do
  let h := { shM w .req true 3 24 .none .sSrc .sSrc .sSrc with die := some false }
  s.static h
  let ((a, b, c), s1) ← s.sources h
  s.await w.toHd
  waitUnless (s.classDrained w.cls.toNat)
  s.accept .pan s1 fun s1 => do
    let ea := effAddr w a
    scalarBits b 0xFFFFFFFF
    scalarBits c 0xFFF
    let (n, p) ← s.panOf b.toNat
    trapIf (decide (c.toNat ≥ p.rows)) (flt .illegalOperand)
    let len := 64 + 8 * p.ks
    addrCheck ea len 64
    let pages ← s.xlateRange .wr ea len
    waitUnless (s.die s.core.did).panq.isEmpty
    let (t, s2) ← s1.joinW w
    let r : PanRead := { row := c.toNat, pages := pages, va := ea, clr := w.sz.getLsbD 0, tok := t, blocked := [] }
    .ok ((((s2.panReads s.core.did n (· ++ [r])).fillTlbs (pages.map (·.1))).panServe s.core.did n [r]).retire 1)

def execPanrd (w : Wm) (s : State) : Out := outcome s (s.panrd w)

/-! ### Observing stores (R300) -/

/-- `(l - CAP) / TEMP`, rounded once to FP32 (R300). -/
def panZ (l : FVal) (cap temp : Nat) : Nat :=
  let q : XVal :=
    match addExact l (negF (decodeFloat .fp32 cap)), decodeFloat .fp32 temp with
    | .fin n m e, .fin _ k f =>
      if e ≥ f then .rat n (m * 2 ^ (e - f).toNat) k else .rat n m (k * 2 ^ (f - e).toNat)
    | .inf n, _ => .inf n
    | _, _ => .nan
  (roundFloat .fp32 .rne false q).bits

/-- `floor (e * 2^64)`, at least the cap of SUM for an infinity (R300). -/
def panTerm (e : FVal) : Nat :=
  match e with
  | .fin false m x => if x + 64 ≥ 0 then m * 2 ^ (x + 64).toNat else m / 2 ^ (-(x + 64)).toNat
  | .inf false => 2 ^ 96
  | _ => 0

/-- Insert into a shortlist: larger values first, equal ones by lower index (R300). -/
def shortIns (x v : Nat) : List (Nat × Nat) → List (Nat × Nat)
  | [] => [(x, v)]
  | (y, u) :: r =>
    match cmpF (decodeFloat .fp32 v) (decodeFloat .fp32 u) with
    | some .gt => (x, v) :: (y, u) :: r
    | some .eq => if x < y then (x, v) :: (y, u) :: r else (y, u) :: shortIns x v r
    | _ => (y, u) :: shortIns x v r

/-- The rule of R300 for one element. -/
def PanSlot.observe (p : PanSlot) (x bits : Nat) (r : PanRow) : PanRow :=
  if r.seen.contains x then { r with dup := true }
  else
    let r1 := { r with cnt := r.cnt + 1, seen := r.seen ++ [x] }
    let l := decodeFloat p.ty bits
    if l = .nan then { r1 with nan := true }
    else
      let z := panZ l p.cap p.temp
      let e := decodeFloat .fp32 (specFn .exp .fp32 .rne false (decodeFloat .fp32 z)).bits
      let sum := r.sum + panTerm e
      let v := (roundFloat .fp32 .rne false l.toX).bits
      { r1 with
        above := r.above || decide (cmpF l (decodeFloat .fp32 p.cap) = some .gt)
        sum := min sum (2 ^ 96 - 1)
        sat := r.sat || decide (sum > 2 ^ 96 - 1)
        short := (shortIns x v r.short).take p.ks }

/-- A run of bytes of the region, from an offset, passes the slot: whole elements count, partial ones set DUP (R300). -/
def PanSlot.take (p : PanSlot) (off : Nat) (bs : List Byte) : PanSlot :=
  let w := panWidth p.et
  let first := off / w
  let last := (off + bs.length - 1) / w
  (List.range (if bs.isEmpty then 0 else last + 1 - first)).foldl (fun (q : PanSlot) k =>
    let i := first + k
    let row := i / p.len
    let old := Sparse.get q.state row
    if p.rows * p.len ≤ i then q
    else if off ≤ i * w ∧ (i + 1) * w ≤ off + bs.length then
      { q with state := Sparse.set q.state row (p.observe (i % p.len) (leNat ((bs.drop (i * w - off)).take w)) old) }
    else { q with state := Sparse.set q.state row { old with dup := true } }) p

/-- A performed write meets one granule of a slot. -/
def PanSlot.meet (p : PanSlot) (key : Nat) (bs : List Byte) : List (Nat × Nat) → PanSlot
  | [] => p
  | g :: r =>
    let lo := max key g.2
    let hi := min (key + bs.length) (g.2 + 65536)
    let q := if lo < hi then p.take (g.1 + (lo - g.2) - p.va) ((bs.drop (lo - key)).take (hi - lo)) else p
    q.meet key bs r

/-- PAN_STORE_OBSERVE: the oldest performed store passes the slots that watch it, and rows that are full are recorded (R300, R301). -/
def State.panObserve (s : State) (die : Nat) : State :=
  match (s.die die).panq with
  | [] => s.panServeAll die
  | (key, bs) :: r =>
    (s.updDie die fun d =>
      { d with panq := r, pans := d.pans.map fun p => (p.1, if p.2.used then p.2.meet key bs p.2.pages else p.2) }).panServeAll die

def execPanStoreObserve (die : Nat) (s : State) : Out := .next (s.panObserve die)

end Sys2Proof.Machine
end

