-- ==== Sys2Proof/Machine/System.lean ====
section
/-!
DEFINITION. System instructions: launch counters, translation invalidation, performance counters: OP 0x86 (R302 to R304).
-/

namespace Sys2Proof.Machine

/-- The launch of the issuing job. -/
def State.launch (s : State) : Option Launch := s.launches.find? fun l => l.lrec == s.core.lrec

/-- CNTRD (R302). -/
def State.cntrd (s : State) (w : Wi) : Res State := do
  s.static (shSys w 5 .sDst .none)
  s.await w.toHd
  let v := ((s.launch).map fun l => Sparse.get l.counters (w.imm.toNat % 32)).getD 0
  let s1 ← s.writeS w.d (BitVec.ofNat 64 v) 1
  .ok (s1.retire 1)

def execCntrd (w : Wi) (s : State) : Out := outcome s (s.cntrd w)

/-- CNTCLR: clears one or all counters and re-arms their thresholds; `cnti` is unchanged (R302).
    DESIGN CHOICE (log 69): re-arming forgets the crossing, so a job placed later gets no `cnti` bit of a crossing
    before the clear; R80 and R302 do not say. -/
def State.cntclr (s : State) (w : Wi) : Res State := do
  s.static (shSys w 6 .none .none)
  s.await w.toHd
  let n := w.imm.toNat % 32
  let clear := fun (l : Launch) =>
    if l.lrec != s.core.lrec then l
    else if w.imm.getLsbD 5 then { l with counters := [], crossed := 0 }
    else { l with counters := Sparse.set l.counters n 0, crossed := l.crossed &&& ~~~(1#32 <<< n) }
  .ok ((({ s with launches := s.launches.map clear } : State)).retire 1)

def execCntclr (w : Wi) (s : State) : Out := outcome s (s.cntclr w)

/-- Drop the entries of a table base that a test names. -/
def dropTlb (hit : TlbEnt → Bool) (l : List TlbEnt) : List TlbEnt := l.filter fun t => !hit t

/-- Drop entries in the core's and its cluster's TLBs. -/
def State.dropCore (s : State) (hit : TlbEnt → Bool) : State :=
  let cl := s.core.cid / 4
  (s.updC fun c => { c with tlb := dropTlb hit c.tlb }).updDie s.core.did fun d =>
    { d with tlbs := Sparse.set d.tlbs cl (dropTlb hit (Sparse.get d.tlbs cl)) }

/-- Drop entries in every TLB of the package (R303, R355). -/
def State.dropAll (s : State) (hit : TlbEnt → Bool) : State :=
  let up := fun (c : Core) => { c with tlb := dropTlb hit c.tlb }
  { s with core := up s.core, parked := s.parked.map up
           dies := s.dies.map fun (d : Die) => { d with tlbs := d.tlbs.map fun x => (x.1, dropTlb hit x.2) } }

/-- Whether every earlier access of the A stream has been translated, its fetches and its generators' reads among them, and its earlier
writes have performed (R303). -/
def State.translated (s : State) : Bool :=
  !(s.core.ops.any fun o => o.strm == s.cur) && s.core.fetches.isEmpty && !s.core.ports.any fun p => p.2.gen.isSome

/-- INVTLB: it waits for the stream's earlier accesses, which its release covers in every class (R303). -/
def State.invtlb (s : State) (w : Wi) : Res State := do
  let kind := w.imm.toNat % 4
  let h := shSys w 2 .none (if w.imm.toNat = 1 then .none else .sSrc)
  s.static h
  trapIf (kind == 3) (flt .illegalOperand)
  let ((a, _, _), s1) ← s.sources h
  s.await w.toHd
  waitUnless s.translated
  let page := fun (t : TlbEnt) => t.hits s.ptb a.toNat
  let s2 := match kind with
    | 0 => s1.dropCore page
    | 1 => s1.dropCore fun t => t.ptb == s.ptb
    | _ => s1.dropAll page
  .ok (s2.retire 1)

def execInvtlb (w : Wi) (s : State) : Out := outcome s (s.invtlb w)

/-- The HBM address a row counter is read for (R304). -/
def State.hbmAddr (s : State) (va : Nat) : Res Nat := do
  rangeCheck va 1
  let key ← s.xlate va .crd
  trapIf (!isHbmKey key) (flt .illegalOperand)
  .ok key

/-- PMCRD (R304). -/
def State.pmcrd (s : State) (w : Wi) : Res State := do
  let n := w.imm.toNat % 256
  let h := shSys w 8 .sDst (if 16 ≤ w.imm.toNat ∧ w.imm.toNat ≤ 18 then .sSrc else .none)
  s.static h
  let ((a, _, _), s1) ← s.sources h
  if n ≤ 10 then do
    s.await w.toHd
    let s2 ← s1.writeS w.d (BitVec.ofNat 64 (Sparse.get s.core.pmc n)) 1
    .ok (s2.retire 1)
  else if 16 ≤ n ∧ n ≤ 18 then do
    let key ← s.hbmAddr a.toNat
    s.await w.toHd
    let b := Sparse.get s.banks (bankOf key)
    let v := if n = 16 then Sparse.get b.counts (rowOf key) else if n = 17 then b.alerts else b.cmds
    let s2 ← s1.writeS w.d (BitVec.ofNat 64 v) 400
    .ok ((s2.fillTlb a.toNat).retire 1)
  else trapR (flt .illegalOperand)

def execPmcrd (w : Wi) (s : State) : Out := outcome s (s.pmcrd w)

end Sys2Proof.Machine
end

