-- ==== Sys2Proof/Machine/SaveArea.lean ====
section
/-!
DEFINITION. Save images: the sections a job is written to and read from, the pending-write entries, the checks of a restore
(R46, R47, R49, R345 to R349, R389).
-/

namespace Sys2Proof.Machine

/-! ### Writing the sections (R346, R389) -/

/-- Bytes of an implementation area: free values (R389, log entry 5). -/
def freeBytes (f n : Nat) : List Byte := (List.range n).map fun i => Config.free (f + i) 8

def Event.bytes (e : Event) : List Byte := leBytes 4 (e.cause + 256 * e.sub) ++ leBytes 4 0 ++ leBytes 8 e.info.toNat

/-- A stream's 512 bytes. -/
def StrmSt.bytes (x : StrmSt) (f : Nat) : List Byte :=
  leBytes 8 x.pc.toNat ++ leBytes 1 (!x.atHdr).toNat ++ leBytes 1 x.handler.toNat ++ leBytes 1 (min 8 x.held.length)
    ++ leBytes 1 x.rrb.toNat ++ leBytes 4 x.ord ++ leBytes 4 x.ret ++ leBytes 4 0 ++ leBytes 8 x.lc.toNat
    ++ leBytes 8 x.evh.toNat ++ leBytes 4 x.evc.toNat ++ leBytes 4 0 ++ leBytes 8 x.eva.toNat ++ leBytes 8 x.epc.toNat
    ++ (List.range 8).flatMap (fun i => match x.held[i]? with | some e => e.bytes | none => leBytes 16 0)
    ++ (List.range 8).flatMap (fun i => leBytes 1 (x.token i).count) ++ freeBytes f 312

def StrmSt.scalarBytes (x : StrmSt) : List Byte := (List.range 32).flatMap fun i => leBytes 8 (x.sreg i).toNat

/-- The job section. -/
def Core.jobBytes (c : Core) (f : Nat) : List Byte :=
  leBytes 8 c.jobv.fmtb.toNat ++ leBytes 8 c.jobv.ptb.toNat ++ leBytes 1 c.jobv.rm.toNat ++ leBytes 3 0
    ++ leBytes 4 c.jobv.dbg.toNat ++ leBytes 4 c.jobv.cntc.toNat ++ leBytes 4 c.jobv.cnti.toNat ++ leBytes 8 c.rng.toNat
    ++ (List.range 16).flatMap (fun i => leBytes 8 (Sparse.get c.fmt.entries i).toNat)
    ++ (List.range 11).flatMap (fun i => leBytes 8 (Sparse.get c.pmc i))
    ++ leBytes 4 c.cq.length ++ leBytes 4 0
    ++ (List.range 32).flatMap (fun i => leBytes 8 ((c.cq[i]?).getD 0).toNat) ++ freeBytes f 504

/-- The values a queue holds. -/
def queueVals (q : List QSlot) : List Word := q.filterMap fun x => match x with | .val v _ => some v | .res _ => none

def queueBytes (q : List QSlot) : List Byte :=
  leBytes 8 (queueVals q).length ++ (List.range 16).flatMap fun i => leBytes 8 (((queueVals q)[i]?).getD 0).toNat

/-- A register image (R31). -/
def regBytes (v : VReg) : List Byte := (List.range 1024).flatMap fun n => leBytes 2 (Sparse.get v n).toNat

/-- The tiles a port holds. -/
def portTiles (l : List PSlot) : List VReg := l.filterMap fun x => match x with | .tile t => some t.data | .res _ => none

def Port.bytes (p : Port) (f : Nat) : List Byte :=
  let ts := portTiles p.slots
  leBytes 1 p.configured.toNat ++ leBytes 1 p.prod ++ leBytes 1 p.cons ++ leBytes 1 ts.length
    ++ leBytes 1 (p.slots.length - ts.length) ++ freeBytes f 59
    ++ (List.range 4).flatMap fun i => match ts[i]? with | some t => regBytes t | none => leBytes 2048 0

/-! ### Pending writes (R348) -/

/-- A pending-write entry with its payload. -/
structure PwEnt where
  dst  : Nat
  kind : Nat
  rem  : Nat
  anc  : Int
  payload : List Byte
  deriving DecidableEq, Repr

def predBytes (p : BitVec 1024) : List Byte := leBytes 128 p.toNat
def allLanes : BitVec 1024 := BitVec.allOnes 1024

/-- A mask of 1,024 lanes from a test. -/
def lanesOf (f : Nat → Bool) : BitVec 1024 := BitVec.ofNat 1024 ((List.range 1024).foldl (fun a n => if f n then a + 2 ^ n else a) 0)

/-- Lanes a register write touches, and whether it writes each of them whole. -/
def RegPart.pred (p : RegPart) : BitVec 1024 := lanesOf fun n => Sparse.get p.mask n != 0
def RegPart.whole (p : RegPart) : Bool := (List.range 1024).all fun n => Sparse.get p.mask n == 0 || Sparse.get p.mask n == 0xFFFF

/-- The byte mask of an entry of kind 9. -/
def RegPart.byteMask (p : RegPart) : List Byte :=
  leBytes 256 ((List.range 1024).foldl (fun a n =>
    let m := (Sparse.get p.mask n).toNat
    a + (if m % 256 = 0 then 0 else 2 ^ (2 * n)) + (if m / 256 = 0 then 0 else 2 ^ (2 * n + 1))) 0)

/-- Entries of register writes: an even pair with one predicate is one entry (R348). -/
def partEnts (rem : Nat) : List RegPart → List PwEnt
  | [] => []
  | [p] =>
    if p.whole then [⟨p.reg, 0, rem, 0, predBytes p.pred ++ regBytes p.val⟩]
    else [⟨p.reg, 9, rem, 0, predBytes p.pred ++ p.byteMask ++ regBytes p.val⟩]
  | p :: q :: r =>
    if p.whole && q.whole && p.pred == q.pred && p.reg % 2 == 0 && q.reg == p.reg + 1 then
      ⟨p.reg, 1, rem, 0, predBytes p.pred ++ regBytes p.val ++ regBytes q.val⟩ :: partEnts rem r
    else if p.whole then ⟨p.reg, 0, rem, 0, predBytes p.pred ++ regBytes p.val⟩ :: partEnts rem (q :: r)
    else ⟨p.reg, 9, rem, 0, predBytes p.pred ++ p.byteMask ++ regBytes p.val⟩ :: partEnts rem (q :: r)

/-- Lane records of a contribution or a copy. -/
def laneBytes (canon : Bool) (l : Sparse Lane) : List Byte := (List.range 1024).flatMap fun n => (Sparse.get l n).record canon

/-- The entries of one pending write; its remaining cycles count from the cycle in which the job would next have issued (R46, R346,
R348). -/
def Core.pwEnts (c : Core) (p : Pending) : List PwEnt :=
  let rem := p.due - c.turnAt
  let here := fun (t : Nat) => (c.tile t).anchor
  match p.eff with
  | .regs parts => partEnts rem parts
  | .port _ _ _ => []
  | .mask m pred val => [⟨680 + m, 2, rem, 0, predBytes pred ++ predBytes val⟩]
  | .contrib t lanes none => [⟨648 + t, 3, rem, 0, predBytes (lanesOf fun n => lanes.any fun x => x.1 == n) ++ laneBytes true lanes⟩]
  | .contrib t lanes (some a) => [⟨648 + t, 4, rem, a, predBytes (lanesOf fun n => lanes.any fun x => x.1 == n) ++ laneBytes true lanes⟩]
  | .canon t => [⟨648 + t, 5, rem, 0, predBytes allLanes⟩]
  | .clear t pred => [⟨648 + t, 6, rem, 0, predBytes pred⟩]
  | .copy t pred lanes a => [⟨648 + t, 7, rem, a.getD (here t), predBytes pred ++ laneBytes false lanes⟩]
  | .anchor t a => [⟨648 + t, 8, rem, a, predBytes allLanes⟩]

/-- The pending section: entries in landing order, then payloads. -/
def pendBytes (es : List PwEnt) : List Byte :=
  let rec go (ord off : Nat) : List PwEnt → List Byte
    | [] => []
    | e :: r =>
      leBytes 2 e.dst ++ leBytes 1 e.kind ++ leBytes 1 e.rem ++ leBytes 2 ord ++ leBytes 2 (wrapInt 16 e.anc)
        ++ leBytes 4 off ++ leBytes 4 e.payload.length ++ leBytes 16 0 ++ go (ord + 1) (off + e.payload.length) r
  go 0 0 es ++ es.flatMap (·.payload)

/-! ### The image (R345, R347) -/

/-- The banks a job saves: its live ones under VBANK, else all (R346, R347). -/
def Core.savedBanks (c : Core) : List Nat := (List.range 20).filter fun b => !c.vbank || c.banks.getLsbD b

/-- Restartable records: one of 128 bytes for each copy, window and generator, of a form the spec leaves open (R346). -/
def Core.rakeRecords (c : Core) : Nat :=
  min 64 (c.rake.length + (c.wins.countP fun w => w.2.isSome) + c.ports.countP fun p => p.2.gen.isSome)

/-- The eleven sections of a job's image. -/
def Core.sections (c : Core) (f : Nat) (scratch : List Byte) : List (List Byte) :=
  [ c.sa.bytes f ++ c.sv.bytes (f + 312) ++ c.sm.bytes (f + 624)
  , c.sa.scalarBytes ++ c.sv.scalarBytes ++ c.sm.scalarBytes
  , c.jobBytes (f + 936)
  , (List.range 16).flatMap fun i => leBytes 128 (c.mask i).toNat
  , (List.range 4).flatMap fun i => queueBytes (c.queue i)
  , (List.range 8).flatMap fun i => (c.port i).bytes (f + 1440 + 59 * i)
  , pendBytes (c.pending.flatMap c.pwEnts)
  , c.savedBanks.flatMap fun b => (List.range 32).flatMap fun i => regBytes (c.vreg (32 * b + i))
  , (List.range 32).flatMap fun i => (c.tile i).image c.canon
  , scratch
  , freeBytes (f + 1912) (128 * c.rakeRecords) ]

/-- Free values one image uses. -/
def imageFree : Nat := 16384

/-- Offset and length of each section, packed from 256 (R346). -/
def dirOf : Nat → List Nat → List (Nat × Nat)
  | _, [] => []
  | o, n :: r => (o, n) :: dirOf (o + n) r

/-- The header (R345). -/
def Core.header (c : Core) (lens : List Nat) (gsz stop valid : Nat) : List Byte :=
  let npw := (c.pending.flatMap c.pwEnts).length
  leBytes 2 1 ++ leBytes 2 256 ++ leBytes 4 (256 + lens.sum) ++ leBytes 4 c.job.toNat ++ leBytes 1 c.rank.toNat ++ leBytes 1 gsz
    ++ leBytes 1 c.did ++ leBytes 1 c.cid ++ leBytes 4 (valid + 2 * c.canon.toNat + 4 * c.vbank.toNat)
    ++ leBytes 4 (c.savedBanks.foldl (fun a b => a + 2 ^ b) 0) ++ leBytes 8 c.lrec ++ leBytes 8 stop
    ++ (dirOf 256 lens).flatMap (fun p => leBytes 4 p.1 ++ leBytes 4 p.2) ++ leBytes 4 npw ++ leBytes 124 0

/-- A job's save image. -/
def Core.imageBytes (c : Core) (gsz stop f : Nat) (scratch : List Byte) : List Byte :=
  let secs := c.sections f scratch
  c.header (secs.map List.length) gsz stop 1 ++ secs.flatten

/-! ### Reading an image (R12, R47, R349, R389) -/

/-- Offset and length of section `i` in an image. -/
def imgDir (bs : List Byte) (i : Nat) : Nat × Nat := (fieldNat bs (40 + 8 * i) 4, fieldNat bs (44 + 8 * i) 4)
def imgSec (bs : List Byte) (i : Nat) : List Byte := (bs.drop (imgDir bs i).1).take (imgDir bs i).2

def imgFlag (bs : List Byte) (n : Nat) : Bool := (fieldNat bs 16 4).testBit n
def imgStart (bs : List Byte) : Bool := imgFlag bs 3
def imgBanks (bs : List Byte) : List Nat :=
  (List.range 20).filter fun b => !imgFlag bs 2 || (fieldNat bs 20 4).testBit b

/-- Read a stream from its 512 bytes and its scalars. -/
def loadStrm (b r : List Byte) : StrmSt :=
  { (default : StrmSt) with
    sregs := Sparse.ofFn 32 fun i => if i = 0 then 0 else BitVec.ofNat 64 (fieldNat r (8 * i) 8)
    pc := BitVec.ofNat 64 (fieldNat b 0 8), atHdr := fieldNat b 8 1 == 0, handler := (fieldNat b 9 1).testBit 0
    held := (List.range (min 8 (fieldNat b 10 1))).map fun i =>
      let e := fieldNat b (64 + 16 * i) 4
      { cause := bitsOf e 7 0, sub := bitsOf e 15 8, info := BitVec.ofNat 64 (fieldNat b (72 + 16 * i) 8) }
    rrb := BitVec.ofNat 6 (fieldNat b 11 1), ord := fieldNat b 12 4, ret := fieldNat b 16 4
    lc := BitVec.ofNat 64 (fieldNat b 24 8), evh := BitVec.ofNat 64 (fieldNat b 32 8), evc := BitVec.ofNat 32 (fieldNat b 40 2)
    eva := BitVec.ofNat 64 (fieldNat b 48 8), epc := BitVec.ofNat 64 (fieldNat b 56 8) }

/-- The per-job registers of an image; dbg.HLT and the reserved bits read as zero (R6, R53). -/
def loadJobv (j : List Byte) : JobView :=
  { rm := BitVec.ofNat 3 (fieldNat j 16 1), fmtb := BitVec.ofNat 64 (fieldNat j 0 8), fmtw := 0
    ptb := BitVec.ofNat 64 (fieldNat j 8 8), dbg := BitVec.ofNat 32 (fieldNat j 20 4 % 4)
    cntc := BitVec.ofNat 32 (fieldNat j 24 4), cnti := BitVec.ofNat 32 (fieldNat j 28 4) }

def loadReg (b : List Byte) (off : Nat) : VReg :=
  Sparse.ofFn 1024 fun n => BitVec.ofNat 16 (fieldNat b (off + 2 * n) 2)

/-- Slots of a port that an image reserves beyond those an operation of the job is bound for: nothing fills them, since no operation in flight
bears their number (R389; log entry 57). -/
def spareSlots (n : Nat) : List PSlot := (List.range n).map fun i => .res (2 ^ 64 + i)

def loadPort (b : List Byte) : Port :=
  let held := min 4 (fieldNat b 3 1)
  { configured := (fieldNat b 0 1).testBit 0, prod := fieldNat b 1 1, cons := fieldNat b 2 1
    slots := (List.range held).map (fun i => .tile { data := loadReg b (64 + 2048 * i), mark := none }) ++
      spareSlots (min (4 - held) (fieldNat b 4 1))
    gen := none }

/-- A predicate of a payload. -/
def loadPred (p : List Byte) (off : Nat) : BitVec 1024 := BitVec.ofNat 1024 (fieldNat p off 128)

/-- Lanes of a payload's records, with R42's invariants. -/
def loadLanes (p : List Byte) (canon : Bool) (pred : BitVec 1024) : Sparse Lane :=
  (predLanes pred).map fun n =>
    let o := 128 + (if canon then 16 else 32) * n
    let f := fieldNat p (o + (if canon then 12 else 24)) 2
    let l : Lane :=
      { s := BitVec.ofNat 96 (fieldNat p o 12), c := if canon then 0 else BitVec.ofNat 96 (fieldNat p (o + 12) 12)
        ix := f.testBit 0, nv := f.testBit 1, pi := f.testBit 2, ni := f.testBit 3 }
    (n, l.tidy)

/-- A register write of a payload, whole lanes under its predicate. -/
def loadPart (reg : Nat) (p : List Byte) (off : Nat) : RegPart :=
  { reg := reg, mask := Sparse.ofFn 1024 fun n => if pbit (loadPred p 0) n then 0xFFFF else 0
    val := loadReg p off }

/-- A register write of kind 9. -/
def loadBytePart (reg : Nat) (p : List Byte) : RegPart :=
  { reg := reg
    mask := Sparse.ofFn 1024 fun n =>
      let m := fieldNat p 128 256
      if pbit (loadPred p 0) n then (if m.testBit (2 * n) then 0x00FF else 0) ||| (if m.testBit (2 * n + 1) then 0xFF00 else 0) else 0
    val := loadReg p 384 }

/-- The effect an entry stands for. -/
def loadEff (dst kind : Nat) (anc : Int) (p : List Byte) : PEff :=
  let pred := loadPred p 0
  match kind with
  | 0 => .regs [loadPart dst p 128]
  | 1 => .regs [loadPart dst p 128, loadPart (dst + 1) p 2176]
  | 2 => .mask (dst - 680) pred (loadPred p 128)
  | 3 => .contrib (dst - 648) (loadLanes p true pred) none
  | 4 => .contrib (dst - 648) (loadLanes p true pred) (some anc)
  | 5 => .canon (dst - 648)
  | 6 => .clear (dst - 648) pred
  | 7 => .copy (dst - 648) pred (loadLanes p false pred) (some anc)
  | 8 => .anchor (dst - 648) anc
  | _ => .regs [loadBytePart dst p]

/-- The pending writes of an image; `due` holds the cycles remaining. Register and mask writes are V's, tile writes M's; under
dbg.SHD their destinations' bits are set (R48). -/
def loadPending (sec : List Byte) (npw : Nat) (shd : Bool) : List Pending :=
  (List.range npw).map fun i =>
    let o := 32 * i
    let kind := fieldNat sec (o + 2) 1
    let p := (sec.drop (32 * npw + fieldNat sec (o + 8) 4)).take (fieldNat sec (o + 12) 4)
    { due := fieldNat sec (o + 3) 1, ord := fieldNat sec (o + 4) 2
      strm := if kind ≤ 2 ∨ kind = 9 then .v else .m
      eff := loadEff (fieldNat sec o 2) kind (fieldInt sec (o + 6) 2) p, events := [], shd := shd }

/-- The banks an image holds, in its order. -/
def bankSlot (banks : List Nat) (b : Nat) : Option Nat := banks.idxOf? b

/-- The state an image describes (R12): what it does not cover reads as zero. -/
def loadCore (bs : List Byte) : Core :=
  let st := imgSec bs 0
  let sc := imgSec bs 1
  let j := imgSec bs 2
  let mk := imgSec bs 3
  let qs := imgSec bs 4
  let ps := imgSec bs 5
  let vs := imgSec bs 7
  let ts := imgSec bs 8
  let canon := imgFlag bs 1
  let v := loadJobv j
  let strm := fun (i : Nat) => { loadStrm ((st.drop (512 * i)).take 512) ((sc.drop (256 * i)).take 256) with view := v }
  { (default : Core) with
    jobv := v, sa := strm 0, sv := strm 1, sm := strm 2
    rng := BitVec.ofNat 64 (fieldNat j 32 8)
    fmt := { entries := Sparse.ofFn 16 fun i => BitVec.ofNat 64 (fieldNat j (40 + 8 * i) 8), unfilled := none }
    pmc := Sparse.ofFn 11 fun i => fieldNat j (168 + 8 * i) 8
    cq := (List.range (min 32 (fieldNat j 256 4))).map fun i => BitVec.ofNat 64 (fieldNat j (264 + 8 * i) 8)
    masks := Sparse.ofFn 16 fun i => if i = 0 then 0 else BitVec.ofNat 1024 (fieldNat mk (128 * i) 128)
    queues := Sparse.ofFn 4 fun i => (List.range (min 16 (fieldNat qs (136 * i) 8))).map fun k =>
      .val (BitVec.ofNat 64 (fieldNat qs (136 * i + 8 + 8 * k) 8)) 0
    ports := Sparse.ofFn 8 fun i => loadPort ((ps.drop (8256 * i)).take 8256)
    pending := loadPending (imgSec bs 6) (fieldNat bs 128 4) (v.dbg.getLsbD 0)
    vregs := Sparse.ofFn 640 fun r => match bankSlot (imgBanks bs) (r / 32) with
      | some k => loadReg vs (65536 * k + 2048 * (r % 32))
      | none => []
    banks := BitVec.ofNat 20 ((imgBanks bs).foldl (fun a b => a + 2 ^ b) 0)
    tiles := Sparse.ofFn 32 fun i =>
      let n := Sys2Proof.Machine.imageBytes canon
      if ts.length < n * (i + 1) then default else (tileOfImage canon (fun o k => fieldNat ts (n * i + o) k)).1 }

/-- Allowed lengths of a section; a start image may leave one out (R12, R346). -/
def secLenOk (bs : List Byte) (share i n : Nat) : Bool :=
  (imgStart bs && n == 0) ||
  match i with
  | 0 => n == 1536
  | 1 => n == 768
  | 2 => n == 1024
  | 3 => n == 2048
  | 4 => n == 544
  | 5 => n == 66048
  | 6 => decide (32 * fieldNat bs 128 4 ≤ n) && decide (n ≤ 329728)
  | 7 => n == 65536 * (imgBanks bs).length
  | 8 => n == 32 * Sys2Proof.Machine.imageBytes (imgFlag bs 1)
  | 9 => n == share
  | _ => decide (n ≤ 8192)

/-- The checks of an image's header (R349). -/
def headerOk (bs : List Byte) (share : Nat) : Bool :=
  let lens := (List.range 11).map fun i => (imgDir bs i).2
  fieldNat bs 0 2 == 1 && fieldNat bs 2 2 == 256 && fieldNat bs 4 4 == 256 + lens.sum && ((List.range 11).map (imgDir bs) == dirOf 256 lens) &&
    ((List.range 11).all fun i => secLenOk bs share i (imgDir bs i).2) && decide (fieldNat bs 128 4 ≤ 64)

/-- The checks of a restore (R349). -/
def imageOk (bs : List Byte) (share : Nat) : Bool :=
  let npw := fieldNat bs 128 4
  let pend := imgSec bs 6
  let pck := fun (i : Nat) => fieldNat (imgSec bs 0) (512 * i + 8) 1
  headerOk bs share && bs.length == fieldNat bs 4 4 &&
    ((List.range npw).all fun i =>
      decide (fieldNat pend (32 * i + 2) 1 ≤ 9) && decide (1 ≤ fieldNat pend (32 * i + 3) 1) && decide (fieldNat pend (32 * i + 3) 1 ≤ 16)) &&
    ((List.range 3).all fun i => decide (pck i ≤ 1)) &&
    (!imgStart bs || (npw == 0 && (List.range 3).all fun i => pck i == 0))

/-! ### Restoring (R47, R49, R352) -/

/-- A field after a restore: the device's own unless the image has been edited since it was written. -/
def edited {α : Type} [DecidableEq α] (written now kept : α) : α := if now = written then kept else now

/-- A table, entry by entry. -/
def editedMap {V : Type} [Inhabited V] [DecidableEq V] (n : Nat) (written now kept : Sparse V) : Sparse V :=
  Sparse.ofFn n fun i => edited (Sparse.get written i) (Sparse.get now i) (Sparse.get kept i)

/-- A stream restored: a debugger's new program counter starts it anew. The image lays out no section bounds, so a word pc that a debugger
moved keeps the bounds of the section the stream was in (log entry 28). -/
def StrmSt.restore (w n k : StrmSt) : StrmSt :=
  let moved := decide (n.pc ≠ w.pc) || n.atHdr != w.atHdr
  let x := { k with
    sregs := editedMap 32 w.sregs n.sregs k.sregs, handler := edited w.handler n.handler k.handler
    held := edited w.held n.held k.held, rrb := edited w.rrb n.rrb k.rrb, ord := edited w.ord n.ord k.ord
    ret := edited w.ret n.ret k.ret, lc := edited w.lc n.lc k.lc, evh := edited w.evh n.evh k.evh
    evc := edited w.evc n.evc k.evc, eva := edited w.eva n.eva k.eva, epc := edited w.epc n.epc k.epc }
  if moved then { x with pc := n.pc, atHdr := n.atHdr, entIdx := 0, stopped := false, atRdz := false, swwait := none } else x

/-- The per-job registers restored, in one view; dbg.HLT reads 0 again (R53, R352). -/
def JobView.restore (w n k : JobView) : JobView :=
  { rm := edited w.rm n.rm k.rm, fmtb := edited w.fmtb n.fmtb k.fmtb, fmtw := k.fmtw, ptb := edited w.ptb n.ptb k.ptb
    dbg := edited w.dbg n.dbg k.dbg &&& 3#32, cntc := edited w.cntc n.cntc k.cntc, cnti := edited w.cnti n.cnti k.cnti }

/-- The slots of a port that are reserved and not filled. -/
def reserved (l : List PSlot) : List PSlot := l.filter fun x => match x with | .res _ => true | .tile _ => false

/-- The reserved slots of a port after a restore: those the device kept, as many as the image gives (R389). -/
def restoreReserved (w n k : List PSlot) : List PSlot :=
  if n.length = w.length then k else k.take n.length ++ spareSlots (n.length - k.length)

/-- A port restored: edited tiles stand before the slots still reserved (R389). -/
def Port.restore (w n k : Port) : Port :=
  let held := n.slots.filter fun x => match x with | .res _ => false | .tile _ => true
  let sl := if portTiles n.slots = portTiles w.slots ∧ (reserved n.slots).length = (reserved w.slots).length then k.slots
    else held ++ restoreReserved (reserved w.slots) (reserved n.slots) (reserved k.slots)
  { configured := edited w.configured n.configured k.configured, prod := edited w.prod n.prod k.prod
    cons := edited w.cons n.cons k.cons, slots := sl, gen := k.gen }

/-- A stream's times after a restore moved by `f`; a word that waited is issued anew (R47, R343). -/
def StrmSt.later (x : StrmSt) (f : Nat → Nat) : StrmSt :=
  { x with left := x.left.map fun l => { l with due := f l.due }, secDue := f x.secDue, nextIssue := f x.nextIssue, divBusy := f x.divBusy
           ready := x.ready.map fun r => (r.1, f r.2), swwait := none, stepped := false, sent := none, desc := none }

/-- The cycle from which a queue's value may be popped, moved by `f`. -/
def QSlot.later (f : Nat → Nat) : QSlot → QSlot
  | .val v t => .val v (f t)
  | .res i => .res i

/-- A job's times moved so that the cycle in which its streams would next have issued becomes `start` (R46, R47). -/
def Core.later (c : Core) (start : Nat) : Core :=
  let f := fun (t : Nat) => t + start - c.turnAt
  { c with
    sa := c.sa.later f, sv := c.sv.later f, sm := c.sm.later f, pending := c.pending.map fun p => { p with due := f p.due }
    queues := c.queues.map fun q => (q.1, q.2.map (QSlot.later f)), vbusy := f c.vbusy, mbusy := f c.mbusy, abusy := f c.abusy
    portFrom := f c.portFrom, portBusy := f c.portBusy, portQ := [], turnAt := start, viewAt := start, halted := false, stopReq := false, stopAs := .save, tlb := [] }

/-- Restore a job so that its streams start at `start`: `w` is its image as written, `n` as it now stands, `k` the job as the device kept
it (R47, R49). -/
def Core.restore (w n k : Core) (start : Nat) : Core :=
  let c := k.later start
  let strm := fun (a b x : StrmSt) => { StrmSt.restore a b x with view := JobView.restore w.jobv n.jobv x.view }
  { c with
    jobv := JobView.restore w.jobv n.jobv k.jobv, sa := strm w.sa n.sa c.sa, sv := strm w.sv n.sv c.sv, sm := strm w.sm n.sm c.sm
    rng := edited w.rng n.rng k.rng
    fmt := { k.fmt with entries := edited w.fmt.entries n.fmt.entries k.fmt.entries }
    pmc := editedMap 11 w.pmc n.pmc k.pmc, cq := edited w.cq n.cq k.cq
    masks := editedMap 16 w.masks n.masks k.masks
    queues := editedMap 4 w.queues n.queues c.queues
    ports := Sparse.ofFn 8 fun i => Port.restore (w.port i) (n.port i) (k.port i)
    pending := if n.pending = w.pending then c.pending else n.pending.map fun p => { p with due := start + p.due }
    vregs := editedMap 640 w.vregs n.vregs k.vregs
    banks := n.banks ||| k.banks
    tiles := editedMap 32 w.tiles n.tiles k.tiles }

end Sys2Proof.Machine
end

