-- ==== Sys2Proof/Machine/Sched.lean ====
section
/-!
DEFINITION. Distributors: the region tree, rings and launch records, placement, slices and shares, pre-emption, saving and restoring
gangs, completion (R10 to R12, R333 to R344, R349, R352, R390).
-/

namespace Sys2Proof.Machine

/-! ### Region nodes as a distributor reads them (R333 to R335, R390) -/

/-- A FLAGS bit: the nearest node of the path that gives it (R333, R334). -/
def State.regionFlag (s : State) (bit : Nat) : List Nat → Bool
  | [] => false
  | x :: r => if (s.natAt (x + 16) 2).testBit bit then (s.natAt (x + 14) 2).testBit bit else s.regionFlag bit r

/-- The priority of a node (R333). -/
def State.regionPrio (s : State) : List Nat → Nat
  | [] => 0
  | x :: r => let v := s.natAt (x + 8 + 1) 1; if v = 0xFF then s.regionPrio r else v

/-- Reserved bytes and values of a node (R333). -/
def State.nodeClean (s : State) (a : Nat) : Bool :=
  let prio := s.natAt (a + 9) 1
  (decide (prio ≤ 7) || prio == 0xFF) && s.natAt (a + 14) 2 < 128 && s.natAt (a + 18) 6 == 0 && s.natAt (a + 44) 4 == 0 &&
    s.natAt (a + 92) 4 == 0 && s.natAt (a + 120) 8 == 0 && s.natAt (a + 144) 112 == 0

/-- A root gives every field (R334). -/
def State.rootComplete (s : State) (a : Nat) : Bool :=
  s.natAt (a + 9) 1 != 0xFF && s.natAt (a + 10) 2 != 0 && s.natAt (a + 12) 2 != 0 && s.natAt (a + 16) 2 % 128 == 127 &&
    s.natAt (a + 24) 8 != 0 && s.natAt (a + 32) 8 != 0 && s.natAt (a + 40) 4 != 0 && s.natAt (a + 48) 8 != 0 &&
    s.natAt (a + 56) 8 != 0 && s.natAt (a + 136) 8 == 0

/-- Whether a node reached under `owner` is well formed (R334, R390). -/
def State.nodeOk (s : State) (owner a : Nat) : Bool :=
  let kind := s.natAt (a + 8) 1
  s.nodeClean a && s.natAt a 8 == owner && a % 256 == 0 &&
    (if owner = 0 then kind == 0 && s.rootComplete a
     else kind == 1 || (kind == 2 && s.natAt (a + 128) 8 == 0))

/-- The walk's result: queue nodes in order, and malformed nodes with their owners (R390). -/
structure TreeWalk where
  queues : List Nat
  bad    : List (Nat × Nat)
  deriving DecidableEq, Repr, Inhabited

/-- The depth-first walk: a stack of (owner, node), the nodes reached so far. -/
def State.walkTree (s : State) : Nat → List (Nat × Nat) → List Nat → TreeWalk → TreeWalk
  | 0, _, _, t => t
  | _ + 1, [], _, t => t
  | fuel + 1, (owner, a) :: st, seen, t =>
    if a = 0 then s.walkTree fuel st seen t
    else if seen.contains a then s.walkTree fuel st seen { t with bad := t.bad ++ [(owner, a)] }
    else
      let sib := if owner = 0 then [] else [(owner, s.natAt (a + 136) 8)]
      if !s.nodeOk owner a then s.walkTree fuel (sib ++ st) (a :: seen) { t with bad := t.bad ++ [(owner, a)] }
      else if s.natAt (a + 8) 1 = 2 then s.walkTree fuel (sib ++ st) (a :: seen) { t with queues := t.queues ++ [a] }
      else s.walkTree fuel ((a, s.natAt (a + 128) 8) :: sib ++ st) (a :: seen) t

/-- Steps a walk may take: each node it reaches, of at most 2^64 addresses, adds at most two (R390). -/
def walkFuel : Nat := 2 ^ 65 + 2

/-- Report nodes newly found malformed to the nearest valid fault domain above (R334, R350). -/
def State.reportBad (s : State) (die : Nat) : List (Nat × Nat) → State
  | [] => s
  | (owner, a) :: r =>
    let s1 := if owner = 0 then s
      else s.postRecord (s.faultDomain treeDepth owner) { code := 0x20, die := die, addr := a, cyc := (s.die die).cyc }
    s1.reportBad die r

/-- The tree under a root: a malformed node, a node reached twice among them, takes its subtree out of the queues (R334, R390). -/
def State.tree (s : State) (root : Nat) : TreeWalk :=
  if root = 0 then default
  else
    let t := s.walkTree walkFuel [(0, root)] [] default
    { t with queues := t.queues.filter fun q => !(s.nodePath treeDepth q).any fun x => t.bad.any fun b => b.2 == x }

/-- A distributor walks its tree (R390). -/
def State.walkRegion (s : State) (die : Nat) : State :=
  let t := s.tree (s.die die).root
  let new := t.bad.filter fun x => !(s.die die).bad.contains x.2
  (s.updDie die fun d => { d with queues := t.queues, bad := t.bad.map (·.2) }).reportBad die new

/-! ### Rings and launch records (R336 to R338) -/

/-- Read a launch record in HBM. -/
def State.readLaunch (s : State) (lrec node : Nat) : Launch :=
  let n := fun (off k : Nat) => s.natAt (lrec + off) k
  { lrec := lrec, node := node, jobs := n 0 4, gang := n 4 1, rakeW := n 5 1, reiss := (n 6 1).testBit 0, chunk := n 7 1
    image := n 8 8, fmtb := n 16 8, cnten := n 24 4, spx := n 28 4, cpl := n 32 8, dies := n 40 2, save := n 48 8
    savesz := n 56 4, saven := n 60 4, cntb := n 64 8, thr := (List.range 32).map fun i => n (128 + 4 * i) 4
    next := 0, chunks := [], runOn := [], again := [], doneJobs := [], reis := 0, pre := 0
    faulted := false, cancelled := false, lost := false, counters := [], crossed := 0 }

/-- Bytes of a save image besides the scratchpad share, at most (R338). -/
def fixedImage : Nat := 2771488

/-- The limits of R336 and R338 for a record that lies in HBM. -/
def State.recordOk (s : State) (l : Launch) : Bool :=
  let kindd := s.regionFlag 5 (s.nodePath treeDepth l.node)
  let other := if kindd then 0xF else 0xFF0
  l.lrec % 64 == 0 && decide (1 ≤ l.gang) && decide (l.gang ≤ 4) && l.jobs != 0 && l.jobs % l.gang == 0 && decide (1 ≤ l.rakeW) &&
    decide (l.rakeW ≤ 15) && decide (s.natAt (l.lrec + 6) 1 ≤ 1) && decide (l.chunk ≤ 15) && l.image % 4096 == 0 &&
    l.spx % l.gang == 0 && (l.spx / l.gang) % 65536 == 0 && decide (l.spx / l.gang ≤ 851968) && decide (l.dies < 4096) &&
    l.dies &&& other == 0 && s.natAt (l.lrec + 42) 6 == 0 && s.natAt (l.lrec + 72) 56 == 0 && l.cpl % 64 == 0 &&
    l.savesz % 4096 == 0 && decide (fixedImage + l.spx / l.gang ≤ l.savesz) && decide (l.gang ≤ l.saven)

/-- The loop learns how one of its launches ended: STATUS 2 or 3 aborts the iteration, 1 or 4 stops the loop (R365). -/
def GenLoop.ended (g : GenLoop) (lrec status : Nat) : GenLoop :=
  if !g.wait.contains lrec then g
  else { g with wait := g.wait.filter (· != lrec), failed := g.failed || status == 2 || status == 3
                stopped := g.stopped || status == 1 || status == 4 }

/-- The completion record, which the firmware sees (R338, R365). -/
def State.writeCpl (s : State) (l : Launch) (status : Nat) : State :=
  let s1 := s.writeVa l l.cpl (leBytes 1 status ++ leBytes 3 0 ++ leBytes 4 l.doneJobs.dedup.length ++ leBytes 4 l.reis ++ leBytes 4 l.pre
    ++ leBytes 48 0)
  { s1 with gen := s1.gen.ended l.lrec status }

/-- The counters of a launch, then its completion record (R338). -/
def State.finishLaunch (s : State) (l : Launch) (status : Nat) : State :=
  let s2 := (s.writeVa l l.cntb l.counterBytes).writeCpl l status
  { s2 with launches := s2.launches.filter fun x => x.lrec != l.lrec }

/-! ### Gangs that wait (R11, R335, R339, R341, R342) -/

/-- A gang that may be placed: its launch, its number, and whether it is restored. -/
structure Cand where
  lrec : Nat
  gang : Nat
  saved : Bool
  deriving DecidableEq, Repr

def Launch.gangs (l : Launch) : Nat := l.jobs / l.gang

/-- The best of a list by a strict order. -/
def pickBy {α : Type} (lt : α → α → Bool) : List α → Option α
  | [] => none
  | a :: r => match pickBy lt r with | none => some a | some b => some (if lt b a then b else a)

/-- Gangs of a launch saved and waiting to be restored: pre-empted, or resumed by the driver; after a precise fault only those
that were resident then (R341, R352). -/
def State.restorable (s : State) (l : Launch) : List SavedGang :=
  s.saved.filter fun v => v.lrec == l.lrec && v.valid && (!v.debug || v.resume) &&
    (!l.faulted || v.resume || l.runOn.contains v.gang)

/-- What is left of a die's chunk of a launch: its next gang and its end (R341). -/
def Launch.chunkOf (l : Launch) (die : Nat) : Option (Nat × Nat × Nat) := l.chunks.find? fun c => c.1 == die && decide (c.2.1 < c.2.2)

/-- The next gang of a launch for a die: a saved gang first, on the die that saved it; then gangs to reissue; then its chunk, or a
new one (R11, R341, R342). -/
def State.nextGang (s : State) (l : Launch) (die : Nat) : Option Cand :=
  let sv := s.restorable l
  if !sv.isEmpty then
    (pickBy (fun a b => decide (a.gang < b.gang)) (sv.filter fun v => v.die == die)).map fun v => ⟨l.lrec, v.gang, true⟩
  else if l.faulted || (s.die die).hold then none
  else
    match l.again with
    | g :: _ => some ⟨l.lrec, g, false⟩
    | [] =>
      match l.chunkOf die with
      | some c => some ⟨l.lrec, c.2.1, false⟩
      | none => if l.next < l.gangs then some ⟨l.lrec, l.next, false⟩ else none

/-- How many gangs of a launch wait for clusters of a die. -/
def State.gangsWaiting (s : State) (l : Launch) (die : Nat) : Nat :=
  let sv := s.restorable l
  if !sv.isEmpty then sv.countP fun v => v.die == die
  else if l.faulted || (s.die die).hold then 0
  else l.again.length + (match l.chunkOf die with | some c => c.2.2 - c.2.1 | none => 0) + (l.gangs - l.next)

/-- A gang is taken from where it waited; a reissued gang starts its jobs afresh (R342). -/
def Launch.takeGang (l : Launch) (die : Nat) (c : Cand) : Launch :=
  if c.saved then l
  else if l.again.head? = some c.gang then { l with again := l.again.drop 1, reis := l.reis + l.gang }
  else
    match l.chunkOf die with
    | some x => { l with chunks := (die, x.2.1 + 1, x.2.2) :: l.chunks.filter fun y => y != x }
    | none =>
      let e := min l.gangs (l.next + 2 ^ l.chunk)
      { l with chunks := (die, l.next + 1, e) :: l.chunks.filter (fun y => y.1 != die), next := e }

/-- Whether a die's distributor serves a queue node: its last walk found it, and its KINDD is the die's kind (R335, R339, R390). -/
def State.servesNode (s : State) (die node : Nat) : Bool :=
  let d := s.die die
  !d.fenced && d.root != 0 && d.queues.contains node && s.regionFlag 5 (s.nodePath treeDepth node) != isAttnDie die

/-- Whether a launch may be served by a die's distributor (R339). -/
def State.eligible (s : State) (l : Launch) (die : Nat) : Bool := l.dies.testBit die && !l.cancelled && !l.lost && s.servesNode die l.node

/-- The jobs of a die's clusters, those being saved among them. -/
def State.coresOn (s : State) (die : Nat) : List Core :=
  ((s.core :: s.parked).filter fun c => c.running && c.did == die) ++ (s.saved.filter fun v => !v.valid && v.die == die).flatMap (·.cores)

/-- Whether a launch has work on a die: a gang of it is resident there, or waits for one of its clusters (R339). -/
def State.worksOn (s : State) (l : Launch) (die : Nat) : Bool :=
  ((s.coresOn die).any fun c => c.lrec == l.lrec) || (s.eligible l die && (s.nextGang l die).isSome)

/-! ### Shares (R339) -/

/-- The priority of a node's gangs. -/
def State.gangPrio (s : State) (node : Nat) : Nat := s.regionPrio (s.nodePath treeDepth node)

/-- The queue nodes with work on a die, each with its priority. -/
def State.runnableAll (s : State) (die : Nat) : List (Nat × Nat) :=
  ((s.launches.filter fun l => s.worksOn l die).map fun l => (l.node, s.gangPrio l.node)).dedup

/-- The queue nodes with work on a die at a priority. -/
def State.runnable (s : State) (die prio : Nat) : List Nat := ((s.runnableAll die).filter fun x => x.2 == prio).map (·.1)

/-- The distinct children of a parent on the paths of some nodes. -/
def State.siblings (s : State) (nodes : List Nat) (parent : Nat) : List Nat :=
  ((nodes.flatMap fun n => s.nodePath treeDepth n).filter fun x => s.natAt x 8 == parent).dedup

/-- A node's share as numerator and denominator: weights over sibling sums, along its path below the root. -/
def State.share (s : State) (nodes : List Nat) : List Nat → Nat × Nat
  | [] => (1, 1)
  | [_] => (1, 1)
  | x :: r =>
    let (n, d) := s.share nodes r
    let sibs := (x :: s.siblings nodes (s.natAt x 8)).dedup
    (n * s.inherit 10 2 (x :: r), d * (sibs.map fun y => s.inherit 10 2 (s.nodePath treeDepth y)).sum)

/-- A node's use figure as a fraction: core-cycles held over its share. -/
def State.figure (s : State) (die prio node : Nat) : Nat × Nat :=
  let (n, d) := s.share (s.runnable die prio) (s.nodePath treeDepth node)
  (Sparse.get (s.die die).use node * d, n)

/-- Whether a fraction is less than another. -/
def fracLt (a b : Nat × Nat) : Bool := decide (a.1 * b.2 < b.1 * a.2)

/-- The least of some figures. -/
def leastFig : List (Nat × Nat) → Option (Nat × Nat)
  | [] => none
  | a :: r => match leastFig r with | none => some a | some b => some (if fracLt b a then b else a)

/-- A node that becomes runnable on a die starts with the least figure among the others there, or with 0 (R339). -/
def State.startUse (s : State) (die prio : Nat) (others : List Nat) (node : Nat) : State :=
  let use := match leastFig (others.map (s.figure die prio)) with
    | none => 0
    | some (a, b) =>
      let (n, d) := s.share (node :: others) (s.nodePath treeDepth node)
      if b * d = 0 then 0 else a * n / (b * d)
  s.updDie die fun d => { d with use := Sparse.set d.use node use }

/-- The nodes of a list become runnable one after the other, beside those that were. -/
def State.startUses (s : State) (die : Nat) : List (Nat × Nat) → List (Nat × Nat) → State
  | _, [] => s
  | old, x :: r => (s.startUse die x.2 ((old.filter fun y => y.2 == x.2).map (·.1)) x.1).startUses die (x :: old) r

/-- A distributor sees which of its nodes have become runnable since it last looked (R339). -/
def State.noteRunnable (s : State) (die : Nat) : State :=
  let now := s.runnableAll die
  let was := (s.die die).ran
  if now = was then s
  else
    (s.startUses die (now.filter was.contains) (now.filter fun x => !was.contains x)).updDie die fun d => { d with ran := now }

/-- A cycle passes on a die: each resident gang holds four core-cycles under its node (R339). -/
def Die.chargeUse (d : Die) (gangs : List (Nat × Nat × Nat)) : Die :=
  { d with use := gangs.foldl (fun u g => Sparse.set u g.2.2 (Sparse.get u g.2.2 + 4)) d.use }

/-- The gangs resident on a die: record, gang and node. -/
def State.resident (s : State) (die : Nat) : List (Nat × Nat × Nat) :=
  (((s.core :: s.parked).filter fun c => c.running && c.did == die).map fun c => (c.lrec, c.gangNo, c.node)).dedup

/-! ### Pre-emption requests (R339, R343) -/

/-- Request that a gang stop to be saved (R343, R344: a second request merges). -/
def State.requestStop (s : State) (lrec g : Nat) : State := s.haltGang lrec g .save

/-- Resident pre-emptible gangs of a die that have not been asked to stop. -/
def State.victims (s : State) (die : Nat) : List (Nat × Nat × Nat) :=
  (((s.core :: s.parked).filter fun c => c.running && c.did == die && c.pre && !c.stopReq).map fun c =>
    (c.lrec, c.gangNo, c.node)).dedup

/-! ### Candidates and placement (R11, R341, R342) -/

/-- Save slots a launch holds: those of its resident and saved jobs (R336). -/
def State.slotsHeld (s : State) (lrec : Nat) : List Nat :=
  (s.allCores.filter fun c => c.running && c.lrec == lrec).map (·.slot)

/-- The least free slots. -/
def freeSlots (held : List Nat) (n k : Nat) : List Nat := ((List.range n).filter fun i => !held.contains i).take k

/-- Clusters of a die (R7). -/
def clustersOf (die : Nat) : Nat := if isAttnDie die then 8 else 12

/-- How many gangs the core budgets of a path leave room for, at most the clusters of a die (R334, R341). -/
def State.budgetRoom (s : State) : List Nat → Nat
  | [] => clustersOf 4
  | x :: r =>
    let b := s.inherit 12 2 (x :: r)
    let rest := s.budgetRoom r
    if b = 0xFFFF then rest else min rest (((b : Int) - s.useNow (x + 112)) / 4).toNat

/-- How many gangs of a launch its save slots and the core budgets leave room for: a saved gang holds its slots (R334, R336, R341). -/
def State.roomFor (s : State) (l : Launch) : Nat :=
  let b := s.budgetRoom (s.nodePath treeDepth l.node)
  if (s.restorable l).isEmpty then min b ((l.saven - (s.slotsHeld l.lrec).length) / l.gang) else b

/-- The gangs that wait for a cluster of a die and fit, each with its priority and figure. -/
def State.waiting (s : State) (die : Nat) : List (Nat × (Nat × Nat) × Cand) :=
  s.launches.filterMap fun l =>
    if !s.eligible l die || s.roomFor l == 0 then none
    else (s.nextGang l die).map fun c => (s.gangPrio l.node, s.figure die (s.gangPrio l.node) l.node, c)

/-- How many gangs above a priority wait for clusters of a die and fit. -/
def State.waitingAbove (s : State) (die prio : Nat) : Nat :=
  ((s.launches.filter fun l => s.eligible l die && decide (prio < s.gangPrio l.node)).map fun l => min (s.gangsWaiting l die) (s.roomFor l)).sum

/-- The order of placement: higher priority, then less use (R339). -/
def candLt (a b : Nat × (Nat × Nat) × Cand) : Bool := decide (b.1 < a.1) || (a.1 == b.1 && fracLt a.2.1 b.2.1)

/-- Whether a cluster may receive a gang: none is resident or being saved there, and no core of it is disabled (R341, R387). -/
def State.clusterFree (s : State) (die cl : Nat) : Bool :=
  !((s.core :: s.parked).any fun c => c.running && c.did == die && c.cid / 4 == cl) &&
    !(s.saved.any fun v => !v.valid && v.die == die && v.cores.any fun c => c.cid / 4 == cl) &&
    ((s.die die).cdis.toNat / 2 ^ (4 * cl)) % 16 == 0

/-- Clear a cluster's scratchpad (R12, R346). -/
def State.clearScratch (s : State) (cluster : Nat) : State :=
  let lo := scratchKey cluster winLo
  { s with mem := s.mem.filter fun c => !(decide (lo ≤ c.1) && decide (c.1 < lo + 2 ^ 22)) }

/-- What a distributor reads at an address of a launch's address space; a read that the host link or a bank keeps back waits (R324, R331). -/
def State.readVa (s : State) (ptb va n : Nat) : Res (List Byte × State) := do
  let pages ← s.devRange ptb .rd va n
  match s.firstPoison pages va n with
  | some a => trapR { code := .poison, addr := a }
  | none =>
    waitUnless (s.gate (kibKeys pages va n) [] == .go)
    .ok (s.bytesIn pages va n, s.touchRows (kibKeys pages va n))

/-- An image, checked: its header first, whose TOTAL gives its length (R345, R349). -/
def State.readImage (s : State) (ptb share va : Nat) : Res (List Byte × State) := do
  let (h, s1) ← s.readVa ptb va 256
  trapIf (!headerOk h share) (flt .imageMalformed)
  let (bs, s2) ← s1.readVa ptb va (fieldNat h 4 4)
  trapIf (!imageOk bs share) (flt .imageMalformed)
  .ok (bs, s2)

/-- The images of a gang. -/
def State.readImages (s : State) (ptb share : Nat) : List Nat → Res (List (List Byte) × State)
  | [] => .ok ([], s)
  | va :: r => do
    let (bs, s1) ← s.readImage ptb share va
    let (l, s2) ← s1.readImages ptb share r
    .ok (bs :: l, s2)

/-- The key in a new cluster of what a key named in an old one (R11, R85). -/
def moveScratch (old new key : Nat) : Nat :=
  if scratchKey old winLo ≤ key ∧ key < scratchKey old winLo + 2 ^ 22 then key - scratchKey old winLo + scratchKey new winLo else key

/-- What placement gives a job: its core, its region's view and flags, its identity (R10, R11, R335); its copies follow it to its
cluster's scratchpad (R85, R95). -/
def State.seat (s : State) (l : Launch) (g rank die cl slot : Nat) (c : Core) : Core :=
  let path := s.nodePath treeDepth l.node
  { c with
    did := die, cid := 4 * cl + rank, running := true, lrec := l.lrec, gangNo := g, node := l.node
    job := BitVec.ofNat 32 (g * l.gang + rank), njob := BitVec.ofNat 32 l.jobs, rank := BitVec.ofNat 2 rank
    sys := s.regionFlag 2 path, dbgOk := s.regionFlag 3 path, pre := s.regionFlag 1 path, canon := s.regionFlag 4 path
    vbank := s.regionFlag 6 path, rakeW := l.rakeW, spx := l.spx, slot := slot, rcb := BitVec.ofNat 64 l.node
    rake := c.rake.map fun k => { k.rekey (moveScratch c.clusterIx (die * 16 + cl)) with die := die, cid := 4 * cl + rank } }

/-- The records that a job's engine commands have still to write to its scratchpad follow it to its new cluster (R85, R283). -/
def State.moveRecords (s : State) (k : Core) (new : Nat) : State :=
  let f := moveScratch k.clusterIx new
  let tok := fun (t : Option TokRef) => t.any fun r => r.lrec == k.lrec && r.job == k.job.toNat
  { s with dies := s.dies.map fun (d : Die) =>
      { d with kops := d.kops.map fun o => if o.lrec == k.lrec && o.job == k.job.toNat then { o with cmd := o.cmd.rekey f } else o
               pans := d.pans.map fun x => (x.1, { x.2 with
                 reads := x.2.reads.map fun r => if tok r.tok then { r with pages := rekeyPages f r.pages } else r }) } }

/-- A job started from an image: counters 0, `fmtb` from the launch, `ptb` from the region as it now stands, the threshold crossings its
launch has seen (R12, R50, R80, R335). -/
def State.freshCore (s : State) (l : Launch) (start : Nat) (c : Core) : Core :=
  let v := { c.jobv with fmtb := BitVec.ofNat 64 l.fmtb, ptb := BitVec.ofNat 64 (s.launchPtb l), cnti := c.jobv.cnti ||| l.crossed }
  let strm := fun (x : StrmSt) => { x with ord := 0, ret := 0, view := v, nextIssue := start }
  { c with jobv := v, sa := strm c.sa, sv := strm c.sv, sm := strm c.sm, turnAt := start, viewAt := start }

/-- Seat the jobs of a gang and give each its scratchpad share (R11, R346). -/
def State.seatAll (s : State) (l : Launch) : List (Core × List Byte) → State
  | [] => s
  | (c, bs) :: r =>
    let share := l.spx / l.gang
    let s1 := s.writeMem (scratchKey c.clusterIx (winLo + c.rank.toNat * share)) (imgSec bs 9)
    ({ s1 with parked := s1.parked ++ [c] }).seatAll l r

/-- Fill the format tables of jobs that have started (R77). -/
def State.fillTables (s : State) : List Core → State
  | [] => s
  | c :: r => ((s.focus c).fillFmt c.jobv.fmtb.toNat).fillTables r

/-- Saved gangs that are not to be restored leave: their copies run on, their channel ends close, and one still being saved gives its cores
back (R95, R284, R334). -/
def State.dropSaved (s : State) : List SavedGang → State
  | [] => s
  | v :: r =>
    let s1 := ({ s with saved := s.saved.filter fun x => !(x.lrec == v.lrec && x.gang == v.gang)
                        orphans := s.orphans ++ v.cores.flatMap fun (c : Core) => c.rake }).closeAll v.cores
    (if v.valid then s1 else s1.giveCores ((v.cores.head?.map (·.node)).getD 0)).dropSaved r

/-- A gang whose images fail stops in its fault domain, and nothing runs (R349). -/
def State.refuseGang (s : State) (l : Launch) (die : Nat) (c : Cand) (f : FaultInfo) : State :=
  let s1 := s.postRecord (s.faultDomain treeDepth l.node)
    { code := f.code.num, sub := f.sub, die := die, addr := f.addr, lrec := l.lrec, cyc := (s.die die).cyc }
  (s1.dropSaved (s1.saved.filter fun v => v.lrec == l.lrec && v.gang == c.gang)).markFaulted l.lrec

/-- The jobs of a gang take their cores; each fetches memory as it stands at this start or restore (R11, R12, R169, R334). -/
def State.startGang (s : State) (l : Launch) (die cl : Nat) (cs : List (Core × List Byte)) (fill : Bool) : State :=
  let s1 := (s.clearScratch (die * 16 + cl)).seatAll l cs
  let s2 := if !fill then s1 else if s.core.running then (s1.fillTables (cs.map (·.1))).focus s.core else s1.fillTables (cs.map (·.1))
  let snap := s2.mem
  let up := fun (k : Core) => if k.running && cs.any (fun x => x.1.lrec == k.lrec && x.1.gangNo == k.gangNo) then { k with code := snap } else k
  let s3 : State := { s2 with core := up s2.core, parked := s2.parked.map up }
  s3.addUse 112 4 (s3.nodePath treeDepth l.node)

/-- Place or restore one gang on a cluster: its jobs' streams all start in the next cycle (R11, R12, R47, R341, R349). -/
def State.placeGang (s : State) (l : Launch) (die cl : Nat) (c : Cand) : State :=
  let start := (s.die die).cyc + 1
  let l1 := l.takeGang die c
  let s0 : State := { s with launches := s.launches.map fun (x : Launch) => if x.lrec == l.lrec then l1 else x }
  let share := l.spx / l.gang
  let ptb := s.launchPtb l
  if c.saved then
    match s0.saved.find? (fun (v : SavedGang) => v.lrec == l.lrec && v.gang == c.gang) with
    | none => s
    | some v =>
      match s0.readImages ptb share (v.cores.map fun (k : Core) => l.save + k.slot * l.savesz) with
      | .error (.trap f) => s0.refuseGang l die c f
      | .error _ => s
      | .ok (imgs, s1) =>
        let job := fun (i : Nat) (k : Core) =>
          let w := v.snap.getD i k
          let old := loadCore (w.imageBytes l.gang v.stopCyc (v.freeAt + imageFree * i) [])
          let bs := imgs.getD i []
          (s1.seat l v.gang k.rank.toNat die cl k.slot (Core.restore old (loadCore bs) k start), bs)
        let s2 : State := { s1 with saved := s1.saved.filter fun (x : SavedGang) => !(x.lrec == l.lrec && x.gang == c.gang) }
        let s3 := (v.cores.foldl (fun s k => s.moveRecords k (die * 16 + cl)) s2).startGang l die cl (v.cores.mapIdx job) false
        s3.payErrs die (s3.die die).ends
  else
    match s0.readImages ptb share [l.image] with
    | .error (.trap f) => s0.refuseGang l die c f
    | .error _ => s
    | .ok (imgs, s1) =>
      let bs := imgs.headD []
      let slots := freeSlots (s1.slotsHeld l.lrec) l.saven l.gang
      let seat := fun (i : Nat) => (s1.seat l c.gang i die cl (slots.getD i 0) (s1.freshCore l start (loadCore bs)), bs)
      s1.startGang l die cl ((List.range l.gang).map seat) true

/-- Clusters of a die that are free, or will be once a gang that stops has been saved. -/
def State.clustersComing (s : State) (die : Nat) : Nat :=
  (List.range (clustersOf die)).countP fun cl => s.clusterFree die cl ||
    (((s.saved.any fun v => !v.valid && v.die == die && v.cores.any fun c => c.cid / 4 == cl) ||
      (s.core :: s.parked).any fun c => c.running && c.did == die && c.cid / 4 == cl && c.stopReq) &&
      ((s.die die).cdis.toNat / 2 ^ (4 * cl)) % 16 == 0)

/-- Gangs that wait at a higher priority take as few clusters as they need, the lowest priority's first (R339). -/
def State.preemptLower (s : State) (die : Nat) : State :=
  let above := fun (v : Nat × Nat × Nat) => s.waitingAbove die (s.gangPrio v.2.2)
  match pickBy (fun a b => decide (s.gangPrio a.2.2 < s.gangPrio b.2.2)) (s.victims die) with
  | none => s
  | some v => if s.clustersComing die < above v then s.requestStop v.1 v.2.1 else s

/-- GANG_PLACE: the first gang in order takes the first free cluster (R11, R339, R341). -/
def State.gangPlace (s : State) (die : Nat) : State :=
  let s0 := s.noteRunnable die
  match pickBy candLt (s0.waiting die) with
  | none => s0
  | some (_, _, c) =>
    match (List.range (clustersOf die)).find? (s0.clusterFree die), s0.launches.find? fun l => l.lrec == c.lrec with
    | some cl, some l => s0.placeGang l die cl c
    | _, _ => s0.preemptLower die

def execGangPlace (die : Nat) (s : State) : Out := .next (if die < 12 then s.gangPlace die else s)

/-! ### Taking launches (R337, R338) -/

/-- An overrun of a ring: the excess entries are skipped and the record is written; the write of HEADX waits while its frame is locked
(R337, R357). -/
def State.checkRing (s : State) (die node : Nat) : State :=
  let size := s.natAt (node + 80) 4
  let head := s.natAt (node + 84) 4
  let tail := s.natAt (node + 88) 4
  if (tail + 2 ^ 32 - head) % 2 ^ 32 ≤ size || s.holdsLate (node + 84) then s
  else
    (s.writeMem (node + 84) (leBytes 4 ((tail + 2 ^ 32 - size) % 2 ^ 32))).postRecord (s.faultDomain treeDepth node)
      { code := 0x21, die := die, addr := node, cyc := (s.die die).cyc }

/-- TAILX_WRITE: the write, which the distributors that serve the node see; it waits while its frame is locked (R337, R357). -/
def State.tailxWrite (s : State) (node value : Nat) : State :=
  let s1 := s.devWrite (node + 88) (leBytes 4 value)
  match (List.range 12).find? fun d => s.servesNode d node with
  | some d => s1.checkRing d node
  | none => s1

/-- Before READY a write to HBM is discarded (R328; log entry 30). -/
def execTailxWrite (node value : Nat) (s : State) : Out :=
  .next (if isHbmKey node && s.host.rdy then s.tailxWrite node value else s)

/-- LAUNCH_TAKE: the next ring entry of a queue node is taken; a record that fails its limits never runs, and one outside HBM is none
(R336 to R338; log entry 29). -/
def State.launchTake (s : State) (die node : Nat) : State :=
  let s0 := s.checkRing die node
  let size := s0.natAt (node + 80) 4
  let head := s0.natAt (node + 84) 4
  let tail := s0.natAt (node + 88) 4
  if head = tail ∨ size = 0 ∨ s0.holdsLate (node + 84) then s0
  else
    let lrec := s0.natAt (s0.natAt (node + 72) 8 + 8 * (head % size)) 8
    let l := s0.readLaunch lrec node
    let s1 := s0.writeMem (node + 84) (leBytes 4 (head + 1))
    if hbmBytes < lrec + 256 then s1
    else if !s0.recordOk l then s1.writeCpl l 1
    else (({ s1 with launches := s1.launches ++ [l] }).noteRunnable die).preemptLower die

def execLaunchTake (die node : Nat) (s : State) : Out :=
  .next (if die < 12 && s.servesNode die node && s.host.rdy then s.launchTake die node else s)

/-! ### Slices (R339) -/

/-- Sort a list by a strict order. -/
def sortBy {α : Type} (lt : α → α → Bool) : List α → List α
  | [] => []
  | a :: r => ins a (sortBy lt r)
where
  ins (a : α) : List α → List α
    | [] => [a]
    | b :: r => if lt b a then b :: ins a r else a :: b :: r

/-- Every gang that waits for a cluster of a die and fits, with its priority and figure, in the order of placement (R339, R341). -/
def State.waitList (s : State) (die : Nat) : List (Nat × (Nat × Nat)) :=
  sortBy (fun a b => decide (b.1 < a.1) || (a.1 == b.1 && fracLt a.2 b.2)) (s.launches.flatMap fun l =>
    if !s.eligible l die then []
    else
      let p := s.gangPrio l.node
      List.replicate (min (clustersOf die) (min (s.gangsWaiting l die) (s.roomFor l))) (p, s.figure die p l.node))

/-- Gangs of equal priority that have used their share give way, one to each waiting gang with less use, greatest use first. -/
def State.sliceVictims (s : State) (die : Nat) : List (Nat × (Nat × Nat)) → State
  | [] => s
  | w :: r =>
    let vs := (s.victims die).filter fun v => s.gangPrio v.2.2 == w.1 && fracLt w.2 (s.figure die w.1 v.2.2)
    let more := fun (a b : Nat × Nat × Nat) => fracLt (s.figure die w.1 b.2.2) (s.figure die w.1 a.2.2)
    match pickBy more vs with
    | none => s.sliceVictims die r
    | some v => (s.requestStop v.1 v.2.1).sliceVictims die r

/-- SLICE_END: at a multiple of SLICE the distributor walks the tree and pre-empts gangs over their share for those that wait beyond the clusters
that are free (R339, R390). -/
def State.sliceEnd (s : State) (die : Nat) : State :=
  let d := s.die die
  let len := max 10000 d.slice
  if d.cyc % len ≠ 0 ∨ d.walked = d.cyc ∨ d.fenced then s
  else
    let s1 := ((s.walkRegion die).updDie die fun d => { d with walked := d.cyc }).noteRunnable die
    s1.sliceVictims die ((s1.waitList die).drop (s1.clustersComing die))

def execSliceEnd (die : Nat) (s : State) : Out := .next (if die < 12 then s.sliceEnd die else s)

/-! ### Stopping and saving (R343, R344) -/

/-- The jobs of a list of cores that have completed leave. -/
def State.completeEach (s : State) : List Core → State
  | [] => s
  | c :: r =>
    let s1 := s.focus c
    (if s1.core.did = c.did ∧ s1.core.cid = c.cid ∧ s1.jobDone then s1.completeJob else s1).completeEach r

/-- Jobs of a gang that have completed leave before the stop; the core under view stays under view (R344). -/
def State.completeJobs (s : State) (cs : List Core) : State :=
  if s.core.running then (s.completeEach cs).focus s.core else s.completeEach cs

/-- How the stop of a gang goes on, of all its causes. -/
def stopKindOf (cs : List Core) : StopKind := cs.foldl (fun k c => k.join c.stopAs) .save

/-- PREEMPT_STOP: a gang asked to stop leaves its cores once every access it has issued has been performed: to be saved, or ended (R20, R106,
R343, R344, R352). -/
def State.preemptStop (s : State) (lrec g : Nat) : State :=
  let cs := s.gangCores lrec g
  if !(cs.any fun c => c.stopReq) || !(cs.all fun c => c.ops.isEmpty) then s
  else
    let s1 := s.completeJobs cs
    if (s1.gangCores lrec g).isEmpty then s1
    else match stopKindOf cs with
      | .save => s1.stopGang lrec g false
      | .debug => s1.stopGang lrec g true
      | .fail => s1.endGang lrec g

def execPreemptStop (lrec gang : Nat) (s : State) : Out := .next (s.preemptStop lrec gang)

/-- Whether a saved job's scalar results have all arrived (R46). -/
def Core.resultsIn (c : Core) : Bool :=
  c.sa.busy.isEmpty && c.sv.busy.isEmpty && c.sm.busy.isEmpty &&
    c.queues.all fun q => q.2.all fun x => match x with | .val _ _ => true | .res _ => false

/-- Write the images of a gang's jobs; a write that a locked frame, the host link or a bank keeps back waits, one that fails is the fault
(R324, R331, R343, R357). -/
def State.writeImages (s : State) (l : Launch) (stop free : Nat) : List Core → Res State
  | [] => .ok s
  | c :: r => do
    let share := l.spx / l.gang
    let scratch := s.bytesAt (scratchKey c.clusterIx (winLo + c.rank.toNat * share)) share
    let bs := c.imageBytes l.gang stop free scratch
    let va := l.save + c.slot * l.savesz
    let pages ← s.devRange (s.launchPtb l) .wr va bs.length
    let keys := kibKeys pages va bs.length
    waitUnless (s.gate [] keys == .go)
    ((s.touchRows keys).writeIn pages va bs).writeImages l stop (free + imageFree) r

/-- A gang that cannot be saved stops unsaved: its jobs end, the fault is recorded, the launch has met a fault (R343). -/
def State.saveFails (s : State) (v : SavedGang) (l : Launch) (f : FaultInfo) : State :=
  let s1 := s.postRecord (s.faultDomain treeDepth l.node)
    { code := f.code.num, sub := f.sub, die := v.die, addr := f.addr, lrec := v.lrec, cyc := (s.die v.die).cyc }
  (s1.dropSaved [v]).markFaulted v.lrec

/-- Whether a set has begun to arrive in the scratchpad of a gang that is being saved: it is written before the scratchpad is (R152). -/
def State.arriving (s : State) (v : SavedGang) : Bool :=
  (s.orphans ++ (s.core :: s.parked).flatMap (·.rake)).any fun k => match s.receiver k with
    | some p => (v.cores.any fun c => c.holds p.lrec p.job) && decide (k.left < p.t * 2048)
    | none => false

/-- GANG_SAVE_COMPLETE: the images are written with VALID set, or the save fails (R343, R352). -/
def State.gangSaved (s : State) (lrec g : Nat) : State :=
  match s.saved.find? fun v => v.lrec == lrec && v.gang == g && !v.valid, s.launches.find? fun l => l.lrec == lrec with
  | some v, some l =>
    if !(v.cores.all Core.resultsIn) || s.arriving v then s
    else
      let canon := fun (c : Core) =>
        if c.canon then { c with tiles := c.tiles.map fun t => (t.1, t.2.map fun _ x => x.canon) } else c
      let cs := v.cores.map canon
      match s.writeImages l v.stopCyc s.freeN cs with
      | .error (.trap f) => s.saveFails v l f
      | .error _ => s
      | .ok s1 =>
        let v1 := { v with cores := cs, snap := cs, freeAt := s.freeN, valid := true }
        let s2 : State := { s1 with
          freeN := s1.freeN + imageFree * cs.length
          saved := s1.saved.map fun (x : SavedGang) => if x.lrec == lrec && x.gang == g then v1 else x
          launches := s1.launches.map fun (x : Launch) => if x.lrec == lrec && !v.debug then { x with pre := x.pre + 1 } else x }
        s2.giveCores l.node
  | _, _ => s

def execGangSaveComplete (lrec gang : Nat) (s : State) : Out := .next (s.gangSaved lrec gang)

/-! ### Completion (R338, R342, R352) -/

/-- The status a launch ends with, when nothing of it is left to run (R338, R342, R352). -/
def State.endCondition (s : State) (l : Launch) : Option Nat :=
  let here := (s.core :: s.parked).any fun c => c.running && c.lrec == l.lrec
  let held := s.saved.any fun v => v.lrec == l.lrec && (v.debug || !v.valid || v.resume || l.runOn.contains v.gang)
  let any := s.saved.any fun v => v.lrec == l.lrec
  if here then none
  else if l.cancelled then some 4
  else if l.lost then some 3
  else if l.faulted then (if held then none else some 2)
  else if any then none
  else if l.doneJobs.dedup.length = l.jobs then some 0 else none

/-- LAUNCH_COMPLETE (R338). -/
def State.launchDone (s : State) (lrec : Nat) : State :=
  match s.launches.find? fun l => l.lrec == lrec with
  | none => s
  | some l =>
    match s.endCondition l with
    | none => s
    | some st =>
      (s.dropSaved (s.saved.filter fun v => v.lrec == lrec)).finishLaunch l st

def execLaunchComplete (lrec : Nat) (s : State) : Out := .next (s.launchDone lrec)

/-- Every gang of a launch stops without being saved (R340, R342). -/
def State.stopLaunch (s : State) (lrec : Nat) : List Nat → State
  | [] => s
  | g :: r => (s.haltGang lrec g .fail).stopLaunch lrec r

/-- The gangs of a launch that are resident. -/
def State.gangsOf (s : State) (lrec : Nat) : List Nat :=
  (((s.core :: s.parked).filter fun c => c.running && c.lrec == lrec).map (·.gangNo)).dedup

/-! ### Distributor registers (R332, R340) -/

/-- The live dies a register write at an offset reaches: all of them at the package offset, or the one whose window it is (R332). -/
def State.diesAt (s : State) (offset reg : Nat) : List Nat :=
  (List.range 12).filter fun d => !(s.die d).fenced && (offset == reg || offset == 0x100000 + 0x40000 * d + reg)

/-- Host traffic: held while the IDE streams are not established, discarded before READY (R328, R331). -/
def State.hostGate (s : State) (q : HostReq) (act : State → State) : State :=
  if !s.host.ide then { s with host := { s.host with held := s.host.held ++ [q] } }
  else if !s.host.rdy then s
  else act s

/-- The launch record address of a PREQ value. -/
def preqRec (v : Word) : Nat := bitsOf v.toNat 51 6 * 64

/-- PREQ with GO: every resident pre-emptible gang of the launch on the dies reached (R340). -/
def State.preqGo (s : State) (offset : Nat) (v : Word) : State :=
  let ds := s.diesAt offset 0x110
  let gs := (((s.core :: s.parked).filter fun c => c.running && c.lrec == preqRec v && c.pre && ds.contains c.did).map (·.gangNo)).dedup
  gs.foldl (fun s g => s.requestStop (preqRec v) g) s

def execPreqGo (offset : Nat) (value : Word) (s : State) : Out :=
  .next (s.hostGate (.preqGo offset value) fun s => if value.getLsbD 0 && !value.getLsbD 1 then s.preqGo offset value else s)

/-- PREQ with CANCEL: every job of the launch stops unsaved, those being saved or saved among them, and it ends with status 4 (R340, R344,
R352). -/
def State.preqCancel (s : State) (offset : Nat) (v : Word) : State :=
  if (s.diesAt offset 0x110).isEmpty then s
  else
    let s1 := (s.stopLaunch (preqRec v) (s.gangsOf (preqRec v))).dropSaved (s.saved.filter fun x => x.lrec == preqRec v)
    { s1 with launches := s1.launches.map fun l => if l.lrec == preqRec v then { l with cancelled := true } else l }

def execPreqCancel (offset : Nat) (value : Word) (s : State) : Out :=
  .next (s.hostGate (.preqCancel offset value) fun s => if value.getLsbD 1 then s.preqCancel offset value else s)

/-- PREQ with RESUME: gangs saved for a debugger are restored from their images as they then stand (R340, R352). -/
def State.preqResume (s : State) (offset : Nat) (v : Word) : State :=
  let ds := s.diesAt offset 0x110
  { s with saved := s.saved.map fun x => if x.lrec == preqRec v && x.debug && x.valid && ds.contains x.die then { x with resume := true } else x }

def execPreqResume (offset : Nat) (value : Word) (s : State) : Out :=
  .next (s.hostGate (.preqResume offset value) fun s =>
    if value.getLsbD 2 && !value.getLsbD 1 then s.preqResume offset value else s)

/-- ROOT: names a new tree and starts a walk (R340, R390). -/
def State.rootWrite (s : State) (v : Word) : List Nat → State
  | [] => s
  | d :: r => ((s.updDie d fun x => { x with root := bitsOf v.toNat 51 8 * 256 }).walkRegion d).rootWrite v r

def execRootWrite (offset : Nat) (value : Word) (s : State) : Out :=
  .next (s.hostGate (.root offset value) fun s => s.rootWrite value (s.diesAt offset 0x108))

end Sys2Proof.Machine
end

