-- ==== Sys2Proof/Machine/Fence.lean ====
section
/-!
DEFINITION. Losing a die: fencing, reissue, the Almanac's abort, bridge retraining, the watchdog and shared machine checks (R160,
R284, R342, R362, R363, R369).
-/

namespace Sys2Proof.Machine

/-! ### The master and the Almanac's rounds (R342, R368, R369) -/

/-- The master: the live die of lowest `did` (R342, R368). -/
def State.master (s : State) : Nat := ((List.range 12).find? fun d => !(s.die d).fenced).getD 0

/-- The live dies. -/
def State.liveDies (s : State) : List Nat := (List.range 12).filter fun d => !(s.die d).fenced

/-- One bit for each live die (R367). -/
def State.liveMask (s : State) : Nat := (s.liveDies.map fun d => 2 ^ d).sum

/-- The bytes a digest covers: each slot image after its index (R367). -/
def deltaBytes (delta : List (Nat × List Byte)) : List Byte := delta.flatMap fun x => leBytes 2 x.1 ++ x.2

/-- The header of a commit's message (R367). -/
def almHeader (ty die dn : Nat) (iter : BitVec 32) (mask : Nat) (dig : BitVec 256) : List Byte :=
  leBytes 1 ty ++ leBytes 1 die ++ leBytes 2 dn ++ leBytes 4 iter.toNat ++ leBytes 8 mask ++ leBytes 32 dig.toNat ++ leBytes 16 0

/-- A message as it travels (R367). -/
def AlmStep.bytes : AlmStep → List Byte
  | .prepare _ m => almHeader 1 m.sender m.delta.length m.iter m.mask m.digest ++ deltaBytes m.delta
  | .ack d n => almHeader 2 d 0 n 0 0
  | .commit _ m => almHeader 3 m.sender 0 m.iter 0 0
  | .abort _ m => almHeader 4 m.sender 0 m.iter 0 0
  | .nack d n => almHeader 5 d 0 n 0 0

/-- Send a message to the serving group's other devices (R368). -/
def State.toPeers (s : State) (m : AlmStep) : State := s.gen.peers.foldl (fun s p => s.sendBytes p 1 m.bytes) s

/-- Whether every die of a PREPARE's MASK, and every other device it went to, has answered ACK: the COMMIT has been sent (R368). -/
def Die.committed (d : Die) : Bool :=
  match d.almOut with
  | none => false
  | some o => (List.range 12).all (fun i => !o.mask.testBit i || d.almAcks.contains i) && d.almPeers.all fun p => d.almAcks.contains (12 + p)

/-- The PREPARE that stands, with the die that sent it. -/
def State.almRound (s : State) : Option (Nat × AlmMsg) :=
  (List.range 12).findSome? fun d => (s.die d).almOut.map fun o => (d, o)

/-- No PREPARE stands at any die. -/
def State.endRound (s : State) : State :=
  { s with dies := s.dies.map fun (d : Die) => { d with almOut := none, almAcks := [], almPeers := [] } }

/-- The changes the commit of an iteration takes, in ascending slot order: of one slot's the latest, a mailbox request's before the firmware's
own, the latter the model's choice; what is held for the commit after it stays (R368, R369; log entry 61). -/
def State.collected (s : State) (iter : BitVec 32) : List (Nat × List Byte) :=
  let l := (s.liveDies.flatMap fun d => (s.die d).almPend).filter fun h => h.iter != iter + 1
  let last := (l.filter (!·.host) ++ l.filter (·.host)).foldl (fun acc h => acc.filter (fun y => y.1 != h.slot) ++ [(h.slot, h.img)]) []
  sortBy (fun a b => decide (a.1 < b.1)) last

/-- The master sends PREPARE, with every change collected, to every live die and to the group's other devices (R368). -/
def State.sendPrepare (s : State) : State :=
  let x := s.master
  let iter := (s.die x).almIter + 1
  let delta := s.collected iter
  let m : AlmMsg := { sender := x, iter := iter, mask := s.liveMask, digest := Config.shake256 (deltaBytes delta), delta := delta }
  let s1 := s.updDie x fun d =>
    { d with almOut := some m, almAcks := [], almPeers := s.gen.peers, almSince := d.cyc, almRing := s.host.ringSteps }
  ({ s1 with msgs := s1.msgs ++ s.liveDies.map fun d => AlmStep.prepare d m } : State).toPeers (.prepare x m)

/-- ABORT to all, then PREPARE anew from the master, with the same ITER, over the live dies; older messages of the round are void (R369). -/
def State.restartRound (s : State) (o : AlmMsg) : State :=
  let s1 := s.endRound
  let m : AlmEnd := { sender := s.master, iter := o.iter }
  (({ s1 with msgs := s.liveDies.map fun d => AlmStep.abort d m } : State).toPeers (.abort s.master m)).sendPrepare

/-- A die of the MASK is fenced: before every ACK has arrived the round starts anew, after it the COMMIT stands (R369). -/
def State.fenceRound (s : State) (d : Nat) : State :=
  match s.almRound with
  | none => s
  | some (x, o) =>
    if (s.die x).committed then (if s.liveDies.any fun k => (s.die k).almState != 0 then s else s.endRound)
    else if !o.mask.testBit d then s
    else (s.restartRound o).updDie s.master fun k => { k with almRetry := 0 }

/-! ### Fencing (R284, R342, R362) -/

/-- A die's copies, fetches and generators are abandoned: nothing further is written or counted. -/
def Core.abandon (c : Core) : Core :=
  { c with rake := [], fetches := [], ports := c.ports.map fun p => (p.1, { p.2 with gen := none }) }

def State.abandonDie (s : State) (d : Nat) : State :=
  let up := fun (c : Core) => if c.did == d then c.abandon else c
  { s with core := up s.core, parked := s.parked.map up
           saved := s.saved.map fun (v : SavedGang) => { v with cores := v.cores.map up }
           orphans := s.orphans.filter fun k => k.die != d }

/-- End the gangs of a list without saving. -/
def State.endGangs (s : State) : List (Nat × Nat) → State
  | [] => s
  | g :: r => (s.endGang g.1 g.2).endGangs r

/-- The gangs of a launch lost with a die: resident there or saved from it (R342). -/
def State.lostGangs (s : State) (lrec d : Nat) : List Nat :=
  ((((s.core :: s.parked).filter fun c => c.running && c.did == d && c.lrec == lrec).map (·.gangNo)) ++
    (s.saved.filter fun v => v.die == d && v.lrec == lrec).map (·.gang)).dedup

/-- The die that takes over what a lost die had not handed out (R342). -/
def State.heir (s : State) (l : Launch) : Nat :=
  ((List.range 12).find? fun d => l.dies.testBit d && !(s.die d).fenced).getD 12

/-- A launch after the loss of a die it names: its gangs lost there are reissued whole, or, where it is not reissuable, it is lost; the rest
of the die's chunk goes to the new master (R342). -/
def Launch.afterLoss (l : Launch) (d heir : Nat) (lost : List Nat) : Launch :=
  let l1 := { l with chunks := l.chunks.map fun c => if c.1 == d then (heir, c.2.1, c.2.2) else c }
  if !l.dies.testBit d then l1
  else if l.reiss then { l1 with again := l1.again ++ lost } else { l1 with lost := true }

/-- The launches after the loss of a die, from the gangs each lost. -/
def State.settleLaunches (s : State) (d : Nat) (lost : Nat → List Nat) : State :=
  { s with launches := s.launches.map fun (l : Launch) => l.afterLoss d (s.heir l) (lost l.lrec) }

/-- The resident gangs of launches that are lost, on every die: they stop without being saved. -/
def State.gangsOfLost (s : State) : List (Nat × Nat) :=
  (((s.core :: s.parked).filter fun c => c.running && s.launches.any fun l => l.lost && l.lrec == c.lrec).map
    fun c => (c.lrec, c.gangNo)).dedup

/-- A channel end whose peer's die is lost fails: it sends and fills nothing more; its sync word keeps what it holds, for the lost die's
commands set no ERR (R160, R284, R362). -/
def State.loseEnd (s : State) (die : Nat) (e : ChEnd) : State :=
  let f := fun (x : ChEnd) =>
    { x with st := .failed, openTok := none, peerEnd := none
             bufs := x.bufs.map fun b => if b.isFilling then .free else b }
  ((s.updEnd die e.num f).dropSends (s.sends die e.num)).endOp e.openTok none

def State.loseEnds (s : State) (die : Nat) : List ChEnd → State
  | [] => s
  | e :: r => (s.loseEnd die e).loseEnds die r

/-- Ends of the other dies whose peer is the lost die fail. -/
def State.losePeers (s : State) (d : Nat) : List Nat → State
  | [] => s
  | k :: r =>
    (if k = d then s else s.loseEnds k ((s.die k).ends.filter fun e => e.peer == d)).losePeers d r

/-- The die itself: its contexts, ends, slots and queues are lost with it (R284, R362). -/
def Die.lost (d : Die) : Die :=
  { d with fenced := true, ok := false, ctxs := [], kops := [], attns := [], ends := [], pans := [], panq := [], mbox := []
           queues := [], bad := [], use := [], ran := [], rakeLeft := [], almState := 0, almDelta := none, almPend := [], passEnd := none }

/-- DIE_FENCE (R362): a die is fenced at run time. -/
def State.fenceDie (s : State) (d : Nat) : State :=
  if (s.die d).fenced then s
  else
    let lost := fun lrec => s.lostGangs lrec d
    let mine := (((s.core :: s.parked).filter fun c => c.running && c.did == d).map fun c => (c.lrec, c.gangNo)).dedup
    let s1 := ((s.abandonDie d).endGangs mine)
    let s2 := s1.dropSaved (s1.saved.filter fun v => v.die == d)
    let s3 := ((s2.losePeers d (List.range 12)).updDie d Die.lost).settleLaunches d lost
    let s4 := s3.gangsOfLost.foldl (fun s g => s.haltGang g.1 g.2 .fail) s3
    let s5 := s4.dropSaved (s4.saved.filter fun v => s4.launches.any fun l => l.lost && l.lrec == v.lrec)
    let s6 : State := { s5 with host := { s5.host with degr := true } }
    (s6.postRoot s6.master { code := 0x43, die := d }).fenceRound d

/-! ### The events that fence a die (R160, R362, R363) -/

/-- SHARED_INFRASTRUCTURE_MACHINE_CHECK (R362). -/
def execSharedInfrastructureMachineCheck (die : Nat) (s : State) : Out :=
  .next (if die < 12 && s.host.rdy then s.fenceDie die else s)

/-- Cycles of the watchdog's 100 ms (R363). -/
def watchdogLimit : Nat := 85000000

/-- Whether a die has missed its watchdog for 100 ms. -/
def State.watchdogDue (s : State) (die : Nat) : Bool :=
  decide (die < 12) && s.host.rdy && !(s.die die).fenced && decide ((s.die die).watchdog + watchdogLimit < (s.die die).cyc)

/-- WATCHDOG_WRITE: a write that comes too late finds its die fenced (R362, R363). -/
def execWatchdogWrite (die : Nat) (s : State) : Out :=
  .next (if s.watchdogDue die then s.fenceDie die
    else if die < 12 && !(s.die die).fenced then s.updDie die fun d => { d with watchdog := d.cyc } else s)

/-- WATCHDOG_EXPIRE (R363). -/
def execWatchdogExpire (die : Nat) (s : State) : Out := .next (if s.watchdogDue die then s.fenceDie die else s)

/-- The dies a die has a bridge to (R1, R150): attention die `k` to feed-forward dies `2 k` and `2 k + 1`. -/
def bridgesOf (d : Nat) : List Nat := (List.range 12).filter fun e => bridged d e || bridged e d

/-- A bridge that fails retraining is lost to both its dies; a die all of whose bridges are lost is fenced (R362). -/
def State.loseBridge (s : State) (a f : Nat) : State :=
  let s1 := (s.updDie a fun d => { d with lostBridges := (f :: d.lostBridges).dedup }).updDie f fun d =>
    { d with lostBridges := (a :: d.lostBridges).dedup }
  let dead := fun (s : State) (d : Nat) => (bridgesOf d).all fun e => (s.die d).lostBridges.contains e
  let s2 := if dead s1 f then s1.fenceDie f else s1
  if dead s2 a then s2.fenceDie a else s2

/-- BRIDGE_RETRAIN: channels filling across the bridge fail; whether the retraining succeeds is free (R160, R362, log entry 5). -/
def State.bridgeRetrain (s : State) (a f : Nat) : State :=
  let ok := Config.freeBool s.freeN
  let s1 : State := { s with freeN := s.freeN + 1 }
  let s2 := s1.failBridge a f
  if ok then s2 else s2.loseBridge a f

def execBridgeRetrain (adie fdie : Nat) (s : State) : Out :=
  .next (if bridged adie fdie && s.retrainDue adie fdie then s.bridgeRetrain adie fdie else s)

end Sys2Proof.Machine
end

