-- ==== Sys2Proof/Machine/Almanac.lean ====
section
/-!
DEFINITION. The Meridians: mailbox commands, the sampler, and the Almanac's commit protocol (R232, R364 to R373).
-/

namespace Sys2Proof.Machine

/-! ### The sampler (R372, R373) -/

/-- `floor (f * n)` for a non-negative finite `f`. -/
def floorScale (f : FVal) (n : Nat) : Nat :=
  match f with
  | .fin _ m e => if e ≥ 0 then m * n * 2 ^ e.toNat else m * n / 2 ^ (-e).toNat
  | _ => 0

/-- The filter's own term of a value (R300, R372). -/
def sampleTerm (v cap temp : Nat) : Nat :=
  panTerm (decodeFloat .fp32 (specFn .exp .fp32 .rne false (decodeFloat .fp32 (panZ (decodeFloat .fp32 v) cap temp))).bits)

/-- The running sums of a list. -/
def prefixSums (acc : Nat) : List Nat → List Nat
  | [] => []
  | a :: r => (acc + a) :: prefixSums (acc + a) r

/-- The token drawn with `u` from a row's sum and shortlist (R372); none where no entry exceeds the draw. -/
def sampleToken (ktop topp cap temp sum : Nat) (short : List (Nat × Nat)) (u : FVal) : Option Nat :=
  let ent := (List.range ktop).map fun i => short.getD i (0xFFFFFFFF, 0)
  let p := prefixSums 0 (ent.map fun e => sampleTerm e.2 cap temp)
  let th := floorScale (decodeFloat .fp32 topp) sum
  let k := (p.findIdx? fun x => decide (x ≥ th)).getD (ktop - 1)
  let t := floorScale u (p.getD k 0)
  (p.findIdx? fun x => decide (x > t)).map fun i => (ent.getD i (0, 0)).1

/-- The bits of draw `j` of a slot for a position, and their value (R373). -/
def slotBits (slot : List Byte) (pos j : Nat) : Nat :=
  let b := BitVec.ofNat 64 (fieldNat slot 40 4 * 2 ^ 32 + fieldNat slot 0 4)
  randElem .fp32 (randWord (BitVec.ofNat 64 (fieldNat slot 48 8)) (BitVec.ofNat 64 pos) b (BitVec.ofNat 64 (j / 1024)) 0 (j % 1024))
def slotUniform (slot : List Byte) (pos j : Nat) : FVal := decodeFloat .fp32 (slotBits slot pos j)

/-- The fields of a slot image that the firmware reads (R366). -/
def slotSeq (slot : List Byte) : Nat := fieldNat slot 0 4
def slotState (slot : List Byte) : Nat := fieldNat slot 4 1
def slotDrafts (slot : List Byte) : Nat := fieldNat slot 5 1
def slotKtop (slot : List Byte) : Nat := fieldNat slot 6 2
def slotCtx (slot : List Byte) (k : Nat) : Nat := fieldNat slot (8 + 4 * k) 4
def slotPos (slot : List Byte) : Nat := fieldNat slot 24 4
def slotTemp (slot : List Byte) : Nat := fieldNat slot 28 4
def slotTopp (slot : List Byte) : Nat := fieldNat slot 32 4
def slotCap (slot : List Byte) : Nat := fieldNat slot 36 4

/-- A slot image with another STATE, and with another STATE and POS (R366). -/
def withState (slot : List Byte) (st : Nat) : List Byte := slot.set 4 (BitVec.ofNat 8 st)
def withPos (slot : List Byte) (st pos : Nat) : List Byte := (withState slot st).take 24 ++ leBytes 4 pos ++ slot.drop 28

/-- The greatest position a draw may have (R366, R373). -/
def maxPos : Nat := 67108863

/-- Bytes of a replica: 4,096 slots of 64 bytes (R366). -/
def replicaBytes : Nat := 262144

/-- A slot of a die's replica, and the slots in use, ascending: a free slot's STATE is 0 (R366). -/
def State.almSlot (s : State) (d i : Nat) : List Byte := s.bytesAt ((s.die d).almBase + 64 * i) 64
def State.usedSlots (s : State) (d : Nat) : List Nat :=
  let base := (s.die d).almBase
  (s.mem.filter fun c => decide (base ≤ c.1) && decide (c.1 < base + replicaBytes) && (c.1 - base) % 64 == 4).map fun c => (c.1 - base) / 64

/-- What the firmware configures a Pan slot for: a cap and a temperature, the largest KTOP, the sequences of its rows (R371). -/
structure PanPlan where
  cap  : Nat
  temp : Nat
  ks   : Nat
  seqs : List Nat
  deriving DecidableEq, Repr

/-- A sequence joins the plan with its pair, or opens a pair while there are fewer than eight (R371). -/
def addPlan (l : List PanPlan) (i : Nat) (img : List Byte) : List PanPlan :=
  if l.any fun p => p.cap == slotCap img && p.temp == slotTemp img then
    l.map fun p => if p.cap = slotCap img ∧ p.temp = slotTemp img then { p with ks := max p.ks (slotKtop img), seqs := p.seqs ++ [i] } else p
  else if l.length < 8 then l ++ [{ cap := slotCap img, temp := slotTemp img, ks := slotKtop img, seqs := [i] }]
  else l

/-- The sequences that ask to sample at a die's replica: those left over by an earlier iteration first, each kind by ascending SEQ; that the ones
left over come first is the model's reading (R371; log entry 61). -/
def State.askingSlots (s : State) (d : Nat) : List Nat :=
  let img := s.almSlot d
  sortBy (fun a b => decide (slotState (img b) < slotState (img a)) ||
      (slotState (img a) == slotState (img b) && decide (slotSeq (img a) < slotSeq (img b))))
    ((s.usedSlots d).filter fun i => slotState (img i) == 1 || slotState (img i) == 2)

/-- The plan of an iteration; the rows of a Pan slot are its sequences by ascending SEQ, the order the model's choice (R371; log entry 61). -/
def State.panPlan (s : State) (d : Nat) : List PanPlan :=
  ((s.askingSlots d).foldl (fun l i => addPlan l i (s.almSlot d i)) []).map fun p =>
    { p with seqs := sortBy (fun a b => decide (slotSeq (s.almSlot d a) < slotSeq (s.almSlot d b))) p.seqs }

/-- The sequences that sample in this iteration. -/
def State.sampling (s : State) (d : Nat) : List Nat := (s.panPlan d).flatMap (·.seqs)

/-- The sequence of a row of a Pan slot, by the slot's cap and temperature (R371). -/
def State.rowSlot (s : State) (d : Nat) (p : PanSlot) (row : Nat) : Option Nat :=
  ((s.panPlan d).find? fun x => x.cap == p.cap && x.temp == p.temp).bind fun x => x.seqs[row]?

/-- The iteration whose commit takes what is held from now on: one after any whose PREPARE stands (R368, R369). -/
def State.nextIter (s : State) : BitVec 32 :=
  match s.almRound with
  | some (_, o) => o.iter + 1
  | none => (s.die s.master).almIter + 1

/-- Hold a slot image for the next commit (R368, R369). -/
def State.holdSlot (s : State) (d i : Nat) (img : List Byte) (host : Bool) : State :=
  s.updDie d fun x => { x with almPend := x.almPend ++ [{ slot := i, img := img, iter := s.nextIter, host := host }] }

/-- The token a row's record gives for a uniform; where no entry exceeds the draw the spec gives none, and it is free (R372). -/
def drawToken (slot : List Byte) (p : PanSlot) (r : PanRow) (u : FVal) (n : Nat) : Nat :=
  (sampleToken (slotKtop slot) (slotTopp slot) p.cap p.temp r.sum r.short u).getD (Config.free n 32).toNat

/-- Drafts from the `d`th on, each at its own position: one that passes its test with draw 2d keeps its token, which the spec leaves to the draft's
maker; the first that fails is resampled with draw 2d + 1 and is the last. True: a position past the end stopped the draws (R373; log entry 61). -/
def drawDrafts (slot : List Byte) (p : PanSlot) (r : PanRow) (n : Nat) : Nat → Nat → List Nat × Bool
  | 0, _ => ([], false)
  | k + 1, d =>
    let pos := slotPos slot + d
    if maxPos < pos then ([], true)
    else if Config.acceptsDraft (slotBits slot pos (2 * d)) (p.record r) then
      let (l, past) := drawDrafts slot p r n k (d + 1)
      ((Config.free (n + d) 32).toNat :: l, past)
    else ([drawToken slot p r (slotUniform slot pos (2 * d + 1)) (n + d)], false)

/-- What a sequence draws from its row: the plain sample's token, or its drafts' (R366, R373). -/
def drawRow (slot : List Byte) (p : PanSlot) (r : PanRow) (n : Nat) : List Nat × Bool :=
  if slotDrafts slot = 0 then
    (if maxPos < slotPos slot then ([], true) else ([drawToken slot p r (slotUniform slot (slotPos slot) 0) n], false))
  else drawDrafts slot p r n (slotDrafts slot) 0

/-- One row of a Pan slot is sampled for its sequence: with NaN or a duplicate it is not, and the sequence drains; a position at its end does not
draw, and ends the sequence (R371 to R373). -/
def State.sampleRow (s : State) (d node lrec : Nat) (p : PanSlot) (row : Nat) : State :=
  match s.rowSlot d p row with
  | none => s
  | some i =>
    let slot := s.almSlot d i
    let r := Sparse.get p.state row
    if r.nan || r.dup then
      (s.holdSlot d i (withState slot 3) false).postRecord (s.faultDomain treeDepth node)
        { code := 0x0B, die := d, lrec := lrec, cyc := (s.die d).cyc }
    else
      let (toks, past) := drawRow slot p r s.freeN
      let s1 : State := { s.updDie d (fun x => { x with almTok := x.almTok ++ [{ slot := i, toks := toks }] }) with freeN := s.freeN + 16 }
      if past then s1.holdSlot d i (withPos slot 4 (slotPos slot + toks.length)) false else s1

def State.sampleRows (s : State) (d node lrec : Nat) (p : PanSlot) (row : Nat) : Nat → State
  | 0 => s
  | n + 1 => (s.sampleRow d node lrec p row).sampleRows d node lrec p (row + 1) n

/-! ### Mailboxes (R232, R364) -/

/-- The slot of the die a sampling request names. -/
def State.mailPan (s : State) (d : Nat) (bs : List Byte) : Option PanSlot :=
  let h := fieldNat bs 20 4
  let p := (s.die d).pan (h % 8)
  if p.used ∧ h = panHandle p.gen d (h % 8) then some p else none

/-- Whether a 32-bit iteration count has come to an iteration. -/
def reached (n now : BitVec 32) : Bool := decide ((now - n).toNat < 2 ^ 31)

/-- Whether the work of a command may proceed: a sampling request awaits its rows, a request for a slot the commit that performs it at every
live die (R364, R372). -/
def State.mailReady (s : State) (d q : Nat) (m : MboxCmd) : Bool :=
  if q = 1 then
    match s.mailPan d m.record with
    | none => true
    | some p => (List.range (fieldNat m.record 26 2)).all fun i => (Sparse.get p.state (fieldNat m.record 24 2 + i)).cnt == p.len
  else if q = 2 then m.until_.any fun n => s.liveDies.all fun k => reached n (s.die k).almIter
  else true

/-- An HBM address of a command, through its job's page tables. -/
def State.mailKey (s : State) (m : MboxCmd) (va : Nat) (acc : Acc) : Option Nat :=
  match s.devKey m.ptb va acc with
  | .ok k => if isHbmKey k then some k else none
  | .error _ => none

/-- What a command asks for once it may proceed (R364): the end of a forward pass, or sampling. -/
def State.mailWork (s : State) (d q : Nat) (m : MboxCmd) : State :=
  if q = 0 then s.updDie d fun x => { x with passEnd := some (fieldNat m.record 16 4, fieldNat m.record 20 4) }
  else if q = 1 then
    match s.mailPan d m.record with
    | none => s
    | some p =>
      s.sampleRows d m.node m.lrec p (fieldNat m.record 24 2) (fieldNat m.record 26 2)
  else s

/-- A request for slots resumes a loop that a launch has stopped, at step 1 of the iteration (R365). -/
def GenLoop.resume (g : GenLoop) : GenLoop :=
  if g.stopped then { g with stopped := false, failed := false, step := .forward, begun := false, put := [], entry := false } else g

/-- A request for a slot begins: its image is held for the next commit; one that names no slot or no image has nothing to perform (R364,
R365, R369). -/
def State.beginSlot (s : State) (d : Nat) (m : MboxCmd) : State × MboxCmd :=
  let done := { m with until_ := some (s.die s.master).almIter }
  match s.mailKey m (fieldNat m.record 20 8) .rd with
  | some k =>
    if fieldNat m.record 16 4 < 4096 then
      ({ s.holdSlot d (fieldNat m.record 16 4) (s.bytesAt k 64) true with gen := s.gen.resume }, { m with until_ := some s.nextIter })
    else (s, done)
  | none => (s, done)

/-- The next request of a mailbox for slots begins. -/
def State.beginMail (s : State) (d : Nat) : List MboxCmd → State × List MboxCmd
  | [] => (s, [])
  | m :: r =>
    if m.until_.isNone then
      let (s1, m1) := s.beginSlot d m
      (s1, m1 :: r)
    else
      let (s1, r1) := s.beginMail d r
      (s1, m :: r1)

/-- The status of a command: 0xFE on the reserved queue, else a value of the firmware's, never 0xFF (R233, R364). -/
def mailStatus (q n : Nat) : Nat := if q = 3 then 0xFE else (Config.free n 8).toNat % 255

/-- The completion element (R232). -/
def mailElement (q st : Nat) (m : MboxCmd) : Word :=
  BitVec.ofNat 64 (st * 2 ^ 56 + q * 2 ^ 48 + fieldNat m.record 0 6)

/-- A write through a Meridian's uncached port, by DPA: naturally aligned accesses of at most 8 bytes in order, each single-copy atomic
(R87, R363). -/
def State.merWrites (s : State) (key : Nat) (bs : List Byte) : Nat → State
  | 0 => s
  | k + 1 =>
    let n := 8 - key % 8
    if bs.isEmpty then s else (s.devWrite key (bs.take n)).merWrites (key + n) (bs.drop n) k
def State.merWrite (s : State) (key : Nat) (bs : List Byte) : State := s.merWrites key bs (bs.length / 8 + 2)

/-- The result record, of the firmware's own content, then the completion element; the batch is performed (R232). -/
def State.mailDone (s : State) (q : Nat) (m : MboxCmd) : State :=
  let res := fieldNat m.record 8 8
  let s1 := if res = 0 then s else match s.mailKey m res .wr with
    | some k => s.merWrite k (freeBytes (s.freeN + 1) 64)
    | none => s
  let e := mailElement q (mailStatus q s.freeN) m
  let s2 : State := { s1 with freeN := s.freeN + 65 }
  (s2.updJob m.lrec m.job fun c => { c with cq := c.cq ++ [e] }).endOp m.tok none

/-- MAILBOX_COMMAND: requests for slots begin as they come; the oldest command of a mailbox completes once its work has been performed, held
back by a full completion queue; while the loop is stopped mailbox 2 alone is served (R232, R364, R365). -/
def State.serveMail (s : State) (d q : Nat) : State :=
  let l := Sparse.get (s.die d).mbox q
  if s.gen.stopped && q != 2 then s
  else if q = 2 ∧ l.any (fun m => m.until_.isNone) = true then
    let (s1, l1) := s.beginMail d l
    s1.updDie d fun x => { x with mbox := Sparse.set x.mbox q l1 }
  else
    match l with
    | [] => s
    | m :: r =>
      if ((s.jobCore m.lrec m.job).map fun c => decide (32 ≤ c.cq.length)).getD false || !s.mailReady d q m then s
      else ((s.updDie d fun x => { x with mbox := Sparse.set x.mbox q r }).mailWork d q m).mailDone q m

def execMailboxCommand (die queue : Nat) (s : State) : Out :=
  .next (if die < 12 && queue < 4 && !(s.die die).fenced then s.serveMail die queue else s)

/-! ### The commit (R367 to R370) -/

/-- Whether a message's digest is that of its delta. -/
def almDigestOk (m : AlmMsg) : Bool := Config.shake256 (deltaBytes m.delta) == m.digest

/-- Whether a PREPARE may reach a die: it is the one the master has sent, though its delta may have been damaged on the way, and the die holds
none (R368). -/
def State.prepareOk (s : State) (die : Nat) (m : AlmMsg) : Bool :=
  decide (die < 12) && !(s.die die).fenced && (s.die die).almState == 0 && m.mask.testBit die &&
    (s.die s.master).almOut == some { m with delta := ((s.die s.master).almOut.map (·.delta)).getD [] }

/-- A message leaves the list of those on their way. -/
def State.took (s : State) (m : AlmStep) : State := { s with msgs := s.msgs.erase m }

/-- Send a message. -/
def State.sendStep (s : State) (m : AlmStep) : State := { s with msgs := s.msgs ++ [m] }

/-- PREPARE: the delta is stored apart from the replica, its digest checked and answered (R368). -/
def State.prepareAt (s : State) (die : Nat) (m : AlmMsg) : State :=
  (s.updDie die fun d => { d with almDelta := some m, almState := 1 }).sendStep (if almDigestOk m then .ack die m.iter else .nack die m.iter)

/-- The PREPARE on its way to a die leaves the list. -/
def State.tookPrepare (s : State) (die : Nat) : State :=
  { s with msgs := s.msgs.filter fun x => match x with | .prepare d _ => d != die | _ => true }

def execPrepare (die : Nat) (m : AlmMsg) (s : State) : Out :=
  .next (if s.prepareOk die m then (s.tookPrepare die).prepareAt die m else s.took (.prepare die m))

/-- Whether an answer for an iteration is awaited: from a die that holds the delta of the round that stands, or, numbered 12 plus its port, from
another device the PREPARE went to (R368). -/
def State.answerOk (s : State) (die : Nat) (iter : BitVec 32) (good : Bool) : Bool :=
  let x := s.die s.master
  !x.committed && (match x.almOut with | some o => o.iter == iter && (decide (12 ≤ die) || o.mask.testBit die) | none => false) &&
    (if 12 ≤ die then x.almPeers.contains (die - 12)
     else !(s.die die).fenced && (s.die die).almState == 1 &&
      (match (s.die die).almDelta with | some m => m.iter == iter && almDigestOk m == good | none => false))

/-- ACK: once everyone has answered, COMMIT goes to all (R368). -/
def State.ackFrom (s : State) (die : Nat) (iter : BitVec 32) : State :=
  let s1 := s.updDie s.master fun d => { d with almAcks := (die :: d.almAcks).dedup }
  let m : AlmEnd := { sender := s.master, iter := iter }
  if (s1.die s1.master).committed then
    ({ s1 with msgs := s1.msgs ++ s1.liveDies.map fun d => AlmStep.commit d m } : State).toPeers (.commit s.master m)
  else s1

def execAck (die : Nat) (iter : BitVec 32) (s : State) : Out :=
  .next (if s.answerOk die iter true then (s.took (.ack die iter)).ackFrom die iter else s.took (.ack die iter))

/-- Fence the dies of a list. -/
def State.fenceAll (s : State) : List Nat → State
  | [] => s
  | d :: r => (s.fenceDie d).fenceAll r

/-- A round that fails: one retry with the same ITER; a second failure fences each die that did not ACK (R369). -/
def State.failRound (s : State) : State :=
  match s.almRound with
  | none => s
  | some (x, o) =>
    if (s.die x).almRetry = 0 then (s.restartRound o).updDie s.master fun d => { d with almRetry := 1 }
    else
      let bad := (List.range 12).filter fun d => o.mask.testBit d && !(s.die x).almAcks.contains d
      let s1 := (s.endRound).fenceAll bad
      (s1.restartRound o).updDie s1.master fun d => { d with almRetry := 0 }

/-- NACK (R369). -/
def execNack (die : Nat) (iter : BitVec 32) (s : State) : Out :=
  .next (if s.answerOk die iter false then (s.took (.nack die iter)).failRound else s.took (.nack die iter))

/-- Cycles the master waits for ACKs, and the ring steps it waits for those of other devices (R368). -/
def ackDeadline : Nat := 1700000
def ackRing : Nat := 16

/-- Whether a deadline for ACKs has passed (R27, R368). -/
def State.ackDue (s : State) : Bool :=
  let x := s.die s.master
  x.almOut.isSome && !x.committed && (decide (x.almSince + ackDeadline ≤ x.cyc) ||
    (x.almPeers.any (fun p => !x.almAcks.contains (12 + p)) && decide (x.almRing + ackRing ≤ s.host.ringSteps)))

/-- ALMANAC_ACK_TIMEOUT (R368, R369). -/
def execAlmanacAckTimeout (s : State) : Out := .next (if s.ackDue then s.failRound else s)

/-- Whether a die holds the delta of an iteration that has been committed (R368, R369). -/
def State.commitOk (s : State) (die : Nat) (iter : BitVec 32) : Bool :=
  decide (die < 12) && !(s.die die).fenced && (s.die die).almState == 1 &&
    (match (s.die die).almDelta with | some m => m.iter == iter | none => false) &&
    s.dies.any fun d => d.committed && (match d.almOut with | some o => o.iter == iter | none => false)

/-- Write slot images to a replica in order (R368). -/
def State.writeSlots (s : State) (base : Nat) : List (Nat × List Byte) → State
  | [] => s
  | x :: r => (s.merWrite (base + 64 * x.1) x.2).writeSlots base r

/-- Whether a write to a die's replica is still held back (R357). -/
def State.replicaHeld (s : State) (die : Nat) : Bool :=
  let base := (s.die die).almBase
  s.late.any fun w => match w with | .bytes k _ => decide (base ≤ k) && decide (k < base + replicaBytes) | _ => false

/-- A die that applies a delta has applied it once every write of it is performed: ITER is set, and what the commit took is held no more; the
round ends when no die is left to apply it (R368, R370). -/
def State.applied (s : State) (die : Nat) : State :=
  match (s.die die).almDelta with
  | none => s
  | some m =>
    if (s.die die).almState ≠ 2 ∨ s.replicaHeld die = true then s
    else
      let s1 := s.updDie die fun d => { d with almDelta := none, almState := 0, almIter := m.iter, almRetry := 0
                                               almPend := d.almPend.filter fun h => h.iter == m.iter + 1 }
      if s1.liveDies.any fun d => (s1.die d).almState != 0 then s1 else s1.endRound

/-- COMMIT: the delta is applied in ascending slot order, and then ITER set (R368, R370). -/
def State.commitAt (s : State) (die : Nat) : State :=
  let delta := ((s.die die).almDelta.map (·.delta)).getD []
  ((s.writeSlots (s.die die).almBase delta).updDie die fun d => { d with almState := 2 }).applied die

def execCommit (die : Nat) (m : AlmEnd) (s : State) : Out :=
  let s1 := s.took (.commit die m)
  .next (if s.commitOk die m.iter then s1.commitAt die else s1)

/-- ABORT: the stored delta is discarded (R369). -/
def State.abortAt (s : State) (die : Nat) (iter : BitVec 32) : State :=
  match (s.die die).almDelta with
  | none => s
  | some m => if m.iter = iter ∧ (s.die die).almState = 1 then s.updDie die fun d => { d with almDelta := none, almState := 0 } else s

def execAbort (die : Nat) (m : AlmEnd) (s : State) : Out :=
  let s1 := s.took (.abort die m)
  .next (if die < 12 && !(s.dies.any Die.committed) then s1.abortAt die m.iter else s1)

/-! ### The loop (R365, R371) -/

def State.updGen (s : State) (f : GenLoop → GenLoop) : State := { s with gen := f s.gen }

def GenStep.num : GenStep → Nat | .forward => 0 | .sampling => 1 | .acceptance => 2 | .commit => 3
def GenStep.next : GenStep → GenStep | .forward => .sampling | .sampling => .acceptance | .acceptance => .commit | .commit => .forward

/-- The attention dies that hold a context of a sequence that samples (R365, R366). -/
def State.ctxDies (s : State) : List Nat :=
  (List.range 4).filter fun k => (s.sampling s.master).any fun i => slotCtx (s.almSlot s.master i) k != 0

/-- The launches of a step: of acceptance those for an attention die that holds a context (R365). -/
def State.stepLaunches (s : State) (g : GenStep) : List (Nat × Nat) :=
  (Config.loopLaunches g.num (s.die s.master).almIter.toNat).filter fun x =>
    g != .acceptance || s.ctxDies.any fun k => (s.natAt (x.2 + 40) 2).testBit k

/-- The next launch of a step is enqueued: the ring entry, a FENCE W→W, which waits for the entry to be performed, then TAILX (R337, R363). -/
def State.enqueueNext (s : State) (node lrec : Nat) (r : List (Nat × Nat)) : State :=
  let tail := s.natAt (node + 88) 4
  if !s.late.isEmpty then s
  else if !s.gen.entry then
    (s.merWrite (s.natAt (node + 72) 8 + 8 * (tail % s.natAt (node + 80) 4)) (leBytes 8 lrec)).updGen fun g => { g with entry := true }
  else (s.tailxWrite node (tail + 1)).updGen fun g => { g with put := r, entry := false, wait := g.wait ++ [lrec] }

/-- Whether a change of a slot that ends its sequence is held: no token of it is awaited (R372, R373). -/
def State.endsHere (s : State) (i : Nat) : Bool :=
  s.liveDies.any fun d => (s.die d).almPend.any fun h => h.slot == i && !h.host && (slotState h.img == 3 || slotState h.img == 4)

/-- What a sequence has drawn in this iteration. -/
def State.drawnOf (s : State) (i : Nat) : Option Drawn :=
  s.liveDies.findSome? fun d => (s.die d).almTok.find? fun x => x.slot == i

/-- Whether every sequence that samples has its tokens (R365). -/
def State.tokensIn (s : State) : Bool := (s.sampling s.master).all fun i => (s.drawnOf i).isSome || s.endsHere i

/-- Hold a change at every live die, so that whichever becomes the master has it (R368, R369). -/
def State.holdAll (s : State) (i : Nat) (img : List Byte) : State := s.liveDies.foldl (fun s d => s.holdSlot d i img false) s

/-- Sequences beyond the eight pairs wait for a later iteration (R371). -/
def State.holdWaiting (s : State) : State :=
  let m := s.master
  let out := (s.askingSlots m).filter fun i => slotState (s.almSlot m i) == 1 && !(s.sampling m).contains i
  out.foldl (fun s i => s.holdAll i (withState (s.almSlot m i) 2)) s

/-- The new POS and STATE of each sequence that has drawn, for the commit (R365, R368). -/
def State.holdAccepted (s : State) : State :=
  let m := s.master
  (s.sampling m).foldl (fun s i =>
    if s.endsHere i then s
    else match s.drawnOf i with
      | none => s
      | some x => s.holdAll i (withPos (s.almSlot m i) 1 (slotPos (s.almSlot m i) + x.toks.length))) s

/-- Step 1 of an iteration begins: nothing has been drawn in it. -/
def State.beginIteration (s : State) : State :=
  { s with gen := { s.gen with step := .forward, begun := false, failed := false }
           dies := s.dies.map fun (d : Die) => { d with almTok := [] } }

/-- Whether a commit would change anything. -/
def State.anyHeld (s : State) : Bool := s.liveDies.any fun d => !(s.die d).almPend.isEmpty

/-- One step of the loop's firmware (R365). A launch that has failed aborts the iteration, which is run again without a commit; with no sequence
to serve the firmware only commits what is held: the latter is the model's choice (log entry 61). -/
def State.loopStep (s : State) : State :=
  let g := s.gen
  if !s.host.rdy || g.stopped then s
  else match g.put with
  | (node, lrec) :: r => s.enqueueNext node lrec r
  | [] =>
    if !g.wait.isEmpty then s
    else if g.failed then s.beginIteration
    else if g.step = .commit then
      if !g.begun then
        (if s.anyHeld || !(s.askingSlots s.master).isEmpty then s.sendPrepare.updGen fun g => { g with begun := true } else s)
      else if s.almRound.isNone then s.beginIteration else s
    else if (s.askingSlots s.master).isEmpty then s.updGen fun g => { g with step := .commit, begun := false }
    else if !g.begun then
      let s1 := if g.step = .sampling then s.holdWaiting else s
      s1.updGen fun g => { g with begun := true, put := s.stepLaunches g.step }
    else if g.step = .sampling ∧ s.tokensIn = false then s
    else
      let s1 := if g.step = .acceptance then s.holdAccepted else s
      s1.updGen fun g => { g with step := g.step.next, begun := false }

end Sys2Proof.Machine
end

