-- ==== Sys2Proof/Machine/Fabric.lean ====
section
/-!
DEFINITION. The Woelaor fabric: flits, replay, lane repair, the topology table, collectives (R374 to R381).
-/

namespace Sys2Proof.Machine

/-! ### The topology (R378, R379) -/

def HostSt.parent (h : HostSt) (i : Nat) : Nat := (h.topo.getD i (0xFFFF, 0, 0)).1

/-- The entry a port reaches: the parent through SELF's port, else what the firmware's cabling gives (R375, R381). -/
def HostSt.peerOf (h : HostSt) (p : Nat) : Nat :=
  let e := h.topo.getD h.topoSelf (0xFFFF, 48, 0)
  if e.1 ≠ 0xFFFF ∧ e.2.1 = p then e.1 else Config.portPeer p

/-- The port that reaches an entry. -/
def HostSt.portOf (h : HostSt) (e : Nat) : Option Nat := (List.range 48).find? fun p => h.peerOf p == e

/-- An entry and its ancestors. -/
def HostSt.chain (h : HostSt) : Nat → Nat → List Nat
  | 0, i => [i]
  | fuel + 1, i => if h.parent i = 0xFFFF then [i] else i :: h.chain fuel (h.parent i)

/-- The neighbour of SELF on the way to an entry; none at the entry itself. -/
def HostSt.hop (h : HostSt) (root : Nat) : Option Nat :=
  let ch := h.chain 4096 root
  match ch.findIdx? fun x => x == h.topoSelf with
  | some 0 => none
  | some (k + 1) => ch[k]?
  | none => if h.parent h.topoSelf = 0xFFFF then none else some (h.parent h.topoSelf)

/-- SELF's neighbours in the tree, ascending. -/
def HostSt.neighbours (h : HostSt) : List Nat :=
  (List.range h.topo.length).filter fun i => i != h.topoSelf && (h.parent i == h.topoSelf || h.parent h.topoSelf == i)

/-- SELF's children in the tree seen from a root. -/
def HostSt.childrenFrom (h : HostSt) (root : Nat) : List Nat := h.neighbours.filter fun i => h.hop root != some i

/-- TOPO: a load starts (R379). -/
def State.topoWrite (s : State) (v : Word) : State :=
  if !v.getLsbD 0 || s.host.topoBusy then s
  else { s with host := { s.host with topoBusy := true, topoAddr := bitsOf v.toNat 51 6 * 64 } }

/-- TOPO_LOAD: the firmware's own write, which the IDE streams hold back no more than any other access inside the device (R331, R379). -/
def execTopoLoad (value : Word) (s : State) : Out := .next (if s.host.rdy then s.topoWrite value else s)

/-- The ERR of an entry (R379). -/
def topoErr (i self parent port : Nat) (up : Bool) : Nat :=
  if parent = i then 1
  else if i < parent ∧ parent ≠ 0xFFFF then 2
  else if 0 < i ∧ parent = 0xFFFF then 3
  else if i = 0 ∧ parent ≠ 0xFFFF then 4
  else if i = self ∧ (47 < port ∨ up = false) then 5
  else 0

/-- The errors of a table's entries. -/
def State.topoErrs (s : State) (a self count : Nat) : List Nat :=
  (List.range count).map fun i =>
    let e := a + 64 + 16 * i
    let port := s.natAt (e + 2) 1
    topoErr i self (s.natAt e 2) port (s.wport port).up

/-- Write each entry's ERR. -/
def State.writeErrs (s : State) (a i : Nat) : List Nat → State
  | [] => s
  | x :: r => (s.writeMem (a + 64 + 16 * i + 3) (leBytes 1 x)).writeErrs a (i + 1) r

/-- TOPO_LOAD_COMPLETE: the table is checked and loaded, or rejected whole (R379). -/
def State.topoDone (s : State) : State :=
  let a := s.host.topoAddr
  let count := s.natAt a 2
  let self := s.natAt (a + 2) 2
  let finish := fun (s : State) (st : Nat) => ({ s with host := { s.host with topoBusy := false, topoStatus := st } } : State)
  if count = 0 ∨ 4096 < count ∨ count ≤ self then finish s 2
  else
    let errs := s.topoErrs a self count
    let s1 := s.writeErrs a 0 errs
    if errs.any fun e => e != 0 then finish s1 1
    else
      let ents := (List.range count).map fun i =>
        let e := a + 64 + 16 * i
        (s.natAt e 2, s.natAt (e + 2) 1, s.natAt (e + 4) 8)
      finish { s1 with host := { s1.host with topo := ents, topoSelf := self } } 0

/-- Whether a write of the device's own over a range must wait: for older ones, or a frame of it that is locked or moving (R357). -/
def State.rangeHeld (s : State) (a n : Nat) : Bool :=
  !s.late.isEmpty || (List.range ((a + n - 1) / 65536 + 1 - a / 65536)).any fun i => s.migHeld (max a ((a / 65536 + i) * 65536))

/-- Whether the table of a load holds entries that cannot be written yet. -/
def State.topoHeld (s : State) : Bool := s.rangeHeld s.host.topoAddr (64 + 16 * s.natAt s.host.topoAddr 2)

def execTopoLoadComplete (s : State) : Out := .next (if s.host.topoBusy && !s.topoHeld then s.topoDone else s)

/-! ### Combining (R380, R381) -/

/-- A register image from 2,048 bytes. -/
def regOfBytes (bs : List Byte) : VReg := Sparse.ofFn 1024 fun n => BitVec.ofNat 16 (fieldNat bs (2 * n) 2)

/-- The bytes of a triple group: its four registers in order (R255). -/
def tripleBytes : Nat := 8192
def tripleRows (bs : List Byte) : List TRow :=
  let g := (List.range 4).map fun k => regOfBytes ((bs.drop (2048 * k)).take 2048)
  (List.range 16).map fun i => tripleRow g i

/-- Merge two triple groups row by row (R148). -/
def mergeGroups (a b : List Byte) : List Byte :=
  (tripleImages (List.zipWith mergeRow (tripleRows a) (tripleRows b)) 0 0).flatMap regBytes

/-- Add two canonical images exactly modulo 2^96 (R67, R68). -/
def addImages (a b : List Byte) : List Byte :=
  let x := (tileOfImage true fun o n => fieldNat a o n).1
  let y := (tileOfImage true fun o n => fieldNat b o n).1
  (x.map fun n l => (Lane.add n l ((y.lane n).reanchor y.anchor x.anchor)).canon).image true

/-- Combine two buffers unit by unit. -/
def combineUnits (f : List Byte → List Byte → List Byte) (u : Nat) (a b : List Byte) : Nat → List Byte
  | 0 => []
  | n + 1 => combineUnits f u a b n ++ f ((a.drop (u * n)).take u) ((b.drop (u * n)).take u)

/-- Combine two buffers by their kind (R380). -/
def combine (kind bytes : Nat) (a b : List Byte) : List Byte :=
  if kind = 1 then combineUnits addImages (imageBytes true) a b (bytes / imageBytes true)
  else combineUnits mergeGroups tripleBytes a b (bytes / tripleBytes)

/-- Insert by ascending key. -/
def insertBy (x : Nat × List Byte) : List (Nat × List Byte) → List (Nat × List Byte)
  | [] => [x]
  | y :: r => if x.1 ≤ y.1 then x :: y :: r else y :: insertBy x r

def sortItems (l : List (Nat × List Byte)) : List (Nat × List Byte) := l.foldr insertBy []

/-! ### Collectives (R380, R381) -/

/-- The entries whose items a collective awaits here. -/
def HostSt.awaited (h : HostSt) (c : Coll) : List Nat :=
  match c.op with
  | 1 => (h.hop c.root).toList
  | 2 => h.childrenFrom c.root
  | 3 => h.childrenFrom 0 ++ (h.hop 0).toList
  | _ => (List.range h.topo.length).filter fun i => i != h.topoSelf

/-- An item's ring distance (R381). -/
def HostSt.distance (h : HostSt) (origin : Nat) : Nat := (h.topoSelf + h.topo.length - origin) % h.topo.length

/-- The descriptor at an address (R380). -/
def State.readColl (s : State) (a : Nat) : Coll :=
  let n := fun (off k : Nat) => s.natAt (a + off) k
  { op := n 0 1, kind := n 1 1, root := n 2 2, dl := n 4 1, src := n 8 8, dst := n 16 8, bytes := n 24 4, sw := n 32 8, late := n 40 8
    upSent := false, items := [], lateItems := [], arrived := [], miss := [] }

/-- Whether a descriptor is one R380 gives. -/
def Coll.formed (c : Coll) : Bool :=
  decide (1 ≤ c.op) && decide (c.op ≤ 4) && decide (c.kind ≤ 2) && (c.kind != 0 || c.op == 1) && decide (c.dl ≤ 15)

/-- Pass data to a neighbour. -/
def State.passTo (s : State) (e key : Nat) (bs : List Byte) : State :=
  let s1 : State := { s with host := { s.host with fabOut := s.host.fabOut ++ [(key, bs)] } }
  match s.host.portOf e with
  | some p => s1.sendBytes p 3 bs
  | none => s1

/-- The next entry of the ring. -/
def HostSt.successor (h : HostSt) : Nat := (h.topoSelf + 1) % h.topo.length

/-- Whether an arriving ring item was passed over: DL items of larger distance came before it (R381). -/
def HostSt.passedOver (h : HostSt) (c : Coll) (origin : Nat) : Bool :=
  c.op == 4 && c.dl != 0 && decide (c.lateItems.length < 16) &&
    decide (c.dl ≤ (c.arrived.filter fun x => decide (h.distance origin < h.distance x)).length)

/-- The items of a tree node's children, folded after its own (R380). -/
def State.partialOf (s : State) (c : Coll) (from_ : List Nat) : List Byte :=
  (sortItems (c.items.filter fun x => from_.contains x.1)).foldl (fun acc x => combine c.kind c.bytes acc x.2) (s.bytesAt c.src c.bytes)

/-- Once every child's data is in or lost, a node that is not the root passes its part toward it. -/
def State.passUp (s : State) : State :=
  match s.host.coll with
  | none => s
  | some c =>
    let root := if c.op = 3 then 0 else c.root
    let kids := s.host.childrenFrom root
    match s.host.hop root with
    | none => s
    | some up =>
      if (c.op ≠ 2 ∧ c.op ≠ 3) ∨ c.upSent ∨ !(kids.all fun k => c.arrived.contains k || c.miss.contains k) then s
      else ({ s with host := { s.host with coll := some { c with upSent := true } } } : State).passTo up up (s.partialOf c kids)

/-- Writes of the device's own, in order. -/
def State.devWrites (s : State) : List (Nat × List Byte) → State
  | [] => s
  | x :: r => (s.devWrite x.1 x.2).devWrites r

/-- An item of the collective that runs here is taken: folded later, or stored late. -/
def State.takeItem (s : State) (c : Coll) (origin : Nat) (data : List Byte) : State :=
  let late := s.host.passedOver c origin
  let c1 := { c with arrived := c.arrived ++ [origin]
                     items := if late then c.items else c.items ++ [(origin, data)]
                     lateItems := if late then c.lateItems ++ [(origin, data)] else c.lateItems }
  let s1 : State := { s with host := { s.host with coll := some c1 } }
  let s2 := if late ∧ c.late ≠ 0 then s1.devWrites (splitAt64K (c.late + 64 + 8192 * c.lateItems.length) (data.take 8192)) else s1
  s2.passUp

/-- Whether the collective that runs here awaits an item. -/
def HostSt.awaits (h : HostSt) (i : FabItem) : Bool :=
  match h.coll with
  | none => false
  | some c => (c.op == 4) == i.ring && (h.awaited c).contains i.origin && !c.arrived.contains i.origin && !c.miss.contains i.origin

/-- An item that came is taken, or held until the collective it belongs to starts here (R381). -/
def State.arriveItem (s : State) (i : FabItem) (data : List Byte) : State :=
  let held : State := { s with host := { s.host with early := s.host.early ++ [(i, data)] } }
  match s.host.coll with
  | some c => if s.host.awaits i then s.takeItem c i.origin data else held
  | none => held

/-- RING_STEP: an item arrives from a neighbour. A triple of a ring pass is forwarded whether or not this device is ready for it, but for its own
come round and the last of the ring; data of a tree comes the same way (R380, R381; log entry 44). -/
def State.ringStep (s : State) (i : FabItem) (data : List Byte) : State :=
  let h := s.host
  if h.topo.length ≤ i.origin ∨ i.origin = h.topoSelf then s
  else
    let s1 : State := if i.ring then { s with host := { h with ringSteps := h.ringSteps + 1 } } else s
    let s2 := if i.ring && decide (h.distance i.origin + 1 < h.topo.length) then s1.passTo h.successor i.origin data else s1
    s2.arriveItem i data

def execRingStep (item : FabItem) (triple : List Byte) (s : State) : Out := .next (s.ringStep item triple)

/-- Items that came early go, in the order of their coming, to the collective that has started: one of each origin. -/
def State.takeEarly (s : State) : List (FabItem × List Byte) → State
  | [] => s
  | x :: r => (s.arriveItem x.1 x.2).takeEarly r

/-- The peers that a collective awaits and whose port here is down or has failed: each is lost from the start (R375, R381). -/
def State.lostPeers (s : State) (c : Coll) : List Nat :=
  (s.host.awaited c).filter fun e => match s.host.portOf e with
    | some p => (s.wport p).gone
    | none => false

/-- Start the oldest descriptor when no collective runs: a ring injects its own triple, a leaf of a tree passes its part up, and what came early is
taken; an ill-formed descriptor is dropped (R375, R380, R381). -/
def State.startColl (s : State) : State :=
  match s.host.coll, s.host.colq with
  | none, a :: r =>
    let c := s.readColl a
    let s1 : State := { s with host := { s.host with colq := r } }
    if !c.formed then s1
    else
      let s2 : State := { s1 with host := { s1.host with coll := some { c with miss := s1.lostPeers c }, early := [] } }
      let s3 := if c.op = 4 ∧ 1 < s.host.topo.length then s2.passTo s.host.successor s.host.topoSelf (s.bytesAt c.src c.bytes) else s2
      s3.passUp.takeEarly s.host.early
  | _, _ => s

/-- COLQ: a descriptor is queued; a write to a full queue is ignored (R380). -/
def State.colqWrite (s : State) (v : Word) : State :=
  if 16 ≤ s.host.colq.length then s
  else ({ s with host := { s.host with colq := s.host.colq ++ [bitsOf v.toNat 51 6 * 64] } } : State).startColl

/-- COLQ_SUBMIT: the firmware's own write (R380). -/
def execColqSubmit (value : Word) (s : State) : Out := .next (if s.host.rdy then s.colqWrite value else s)

/-- The result at this node, if it has one (R380, R381). -/
def State.collResult (s : State) (c : Coll) : Option (List Byte) :=
  let item := fun (e : Option Nat) => e.bind fun i => (c.items.find? fun x => x.1 == i).map (·.2)
  let own := s.bytesAt c.src c.bytes
  match c.op with
  | 1 => if (s.host.hop c.root).isNone then some own else item (s.host.hop c.root)
  | 2 => if (s.host.hop c.root).isNone then some (s.partialOf c (s.host.childrenFrom c.root)) else none
  | 3 => if (s.host.hop 0).isNone then some (s.partialOf c (s.host.childrenFrom 0)) else item (s.host.hop 0)
  | _ =>
    let fold := fun (l : List (Nat × List Byte)) => sortItems l
    match fold (c.items ++ [(s.host.topoSelf, own)]) ++ fold c.lateItems with
    | [] => none
    | a :: r => some (r.foldl (fun acc x => combine c.kind c.bytes acc x.2) a.2)

/-- Whether every awaited item has come or is lost. -/
def HostSt.collDone (h : HostSt) : Bool :=
  match h.coll with
  | none => false
  | some c => (h.awaited c).all fun e => c.arrived.contains e || c.miss.contains e

/-- Pass a result on to the children of a tree. -/
def State.passDown (s : State) (bs : List Byte) : List Nat → State
  | [] => s
  | e :: r => (s.passTo e e bs).passDown bs r

/-- COLLECTIVE_COMPLETE: the results are written, then the sync word is raised, and the next descriptor starts (R380, R381). -/
def State.collComplete (s : State) : State :=
  match s.host.coll with
  | none => s
  | some c =>
    let s0 := s.passUp
    let s1 := match s.collResult c with
      | none => s0
      | some bs =>
        let s1 := s0.writeMem c.dst (bs.take c.bytes)
        match c.op with
        | 1 => s1.passDown bs (s.host.childrenFrom c.root)
        | 3 => s1.passDown bs (s.host.childrenFrom 0)
        | _ => s1
    let s2 := if c.op = 4 ∧ c.late ≠ 0 then
        s1.writeMem c.late (leBytes 4 c.lateItems.length ++ leBytes 4 c.miss.length ++ leBytes 56 0)
      else s1
    let s3 := if c.sw = 0 then s2 else s2.raiseSync c.sw c.bytes
    ({ s3 with host := { s3.host with coll := none } } : State).startColl

/-- Whether a collective's writes must wait. -/
def State.collHeld (s : State) : Bool :=
  match s.host.coll with
  | none => false
  | some c => s.rangeHeld c.dst c.bytes || (c.op == 4 && c.late != 0 && s.rangeHeld c.late 64) || (c.sw != 0 && s.rangeHeld c.sw 16)

def execCollectiveComplete (s : State) : Out := .next (if s.host.collDone && !s.collHeld then s.collComplete else s)

/-! ### Ports that fail, and lane repair (R375, R376) -/

/-- A port goes down: a collective that awaits its peer's item treats the peer as lost (R375, R381). -/
def State.portDown (s : State) (p : Nat) : State :=
  let s1 := s.updPort p fun x => { x with st := 0, lanes := 0, dropQ := [] }
  let e := s.host.peerOf p
  match s.host.coll with
  | none => s1
  | some c =>
    if (s.host.awaited c).contains e && !c.arrived.contains e && !c.miss.contains e then
      ({ s1 with host := { s1.host with coll := some { c with miss := c.miss ++ [e] } } } : State).passUp
    else s1

/-- PORT_RETRAIN: a port in training comes back and replays its buffer, or goes down (R375). -/
def State.retrainPort (s : State) (p : Nat) (trained : Bool) : State :=
  if trained then
    s.updPort p fun x =>
      let y := { x with st := if x.dropQ.isEmpty then 2 else 3, fails := 0, nakSeq := none
                        rply := if x.replay.isEmpty then x.rply else min (x.rply + 1) 65535 }
      y.pump y.txq
  else s.portDown p

def execPortRetrain (port : Nat) (trained : Bool) (s : State) : Out :=
  .next (if port < 48 && (s.wport port).st == 1 then s.retrainPort port trained else s)

/-- Lanes in use. -/
def laneCount (m : BitVec 4) : Nat := (List.range 4).countP fun i => m.getLsbD i

/-- LANE_DROP: the lane waits for the buffer to drain; losing a lane at a width of 2 takes the port down (R376). -/
def State.dropLane (s : State) (p lane : Nat) : State :=
  if laneCount (s.wport p).lanes ≤ 2 then s.portDown p
  else s.updPort p fun x => { x with st := 3, dropQ := x.dropQ ++ [lane] }

def execLaneDrop (port lane : Nat) (s : State) : Out :=
  let p := s.wport port
  .next (if port < 48 && p.up && p.lanes.getLsbD lane && !p.dropQ.contains lane then s.dropLane port lane else s)

/-- The window in which corrected symbols are counted, and the greatest count of a lane that is not dropped (R376). -/
def fixWindow : Nat := 2 ^ 20
def fixLimit : Nat := 4096

/-- A received flit's corrected symbols are counted, lane by lane, over consecutive windows of flits: where a window begins is the model's choice
(R376; log entry 44). -/
def WPort.countFixed (p : WPort) (flit : List Byte) : WPort :=
  let start := p.seen % fixWindow == 0
  let old := fun (i : Nat) => if start then 0 else Sparse.get p.fixed i
  { p with seen := (p.seen + 1) % fixWindow, fixed := Sparse.ofFn 4 fun i => old i + Config.fecFixed flit i }

/-- Lanes in use that have corrected too much are dropped. -/
def State.dropWorn (s : State) (port : Nat) : List Nat → State
  | [] => s
  | i :: r =>
    let p := s.wport port
    (if p.up && p.lanes.getLsbD i && !p.dropQ.contains i && decide (fixLimit < Sparse.get p.fixed i) then s.dropLane port i else s).dropWorn port r

/-- FLIT_RECEIVE (R375, R376). -/
def execFlitReceive (port : Nat) (flit : List Byte) (s : State) : Out :=
  .next (if port < 48 && (s.wport port).up then
    (s.updPort port fun p => (p.receive flit).countFixed flit).dropWorn port (List.range 4) else s)

/-- NAK_RECEIVE (R375). -/
def execNakReceive (port seq : Nat) (s : State) : Out :=
  .next (if port < 48 && (s.wport port).up then s.updPort port fun p => p.nakFor seq else s)

/-- LANE_WIDTH_SWITCH: with the replay buffer empty, the oldest waiting lane leaves; one repair at a time (R376). -/
def State.switchWidth (s : State) (p : Nat) : State :=
  let x := s.wport p
  match x.dropQ with
  | [] => s
  | l :: r =>
    if laneCount x.lanes ≤ 2 then s.portDown p
    else s.updPort p fun x =>
      let y := { x with lanes := x.lanes &&& ~~~(1#4 <<< l), dropQ := r, rpr := min (x.rpr + 1) 255, st := if r.isEmpty then 2 else 3 }
      y.pump y.txq

def execLaneWidthSwitch (port : Nat) (s : State) : Out :=
  .next (if port < 48 && (s.wport port).st == 3 && (s.wport port).replay.isEmpty then s.switchWidth port else s)

end Sys2Proof.Machine
end

