-- ==== Sys2Proof/Machine/Bringup.lean ====
section
/-!
DEFINITION. Bring-up, resets, measurements and the SPDM responder (R325 to R328, R385, R386).
-/

namespace Sys2Proof.Machine

/-! ### Bring-up (R325 to R328) -/

/-- Cycles of one millisecond and of one second of a die's count (R2). -/
def cycMs : Nat := 850000
def cycS : Nat := 850000000

/-- The bound of a phase, in cycles of the lead die (R325). -/
def phaseBound : Nat → Nat
  | 1 => cycS
  | 2 => 10 * cycS
  | 3 => 12 * cycS
  | 4 => 6 * cycS
  | _ => cycS / 10

/-- Change the host-visible registers. -/
def State.updHost (s : State) (f : HostSt → HostSt) : State := { s with host := f s.host }

/-- A phase begins. -/
def State.beginPhase (s : State) (n : Nat) : State := s.updHost fun h => { h with phase := n, phaseAt := (s.die 0).cyc }

/-- Whether a bring-up phase is in progress. -/
def State.booting (s : State) : Bool := decide (1 ≤ s.host.phase) && decide (s.host.phase ≤ 5) && !s.host.fail && !s.host.rdy

/-- Whether the phase in progress has run past its bound. -/
def State.phaseLate (s : State) : Bool := decide (s.host.phaseAt + phaseBound s.host.phase < (s.die 0).cyc)

/-- Bring-up stops with a failure code; vector 0 is signalled (R326, R327). -/
def State.bootFail (s : State) (code : Nat) : State := (s.updHost fun h => { h with fail := true, fcode := code }).msix 0

/-- Fence the dies that failed a phase (R327). -/
def State.bootFence (s : State) (failed : List Nat) : State :=
  { s with dies := s.dies.mapIdx fun i (d : Die) => if failed.contains i then { d with fenced := true, ok := false } else d }

/-- Record a measurement (R386). -/
def State.measure (s : State) (i : Nat) (bs : List Byte) : State :=
  s.updHost fun h => { h with spdm := { h.spdm with meas := Sparse.set h.spdm.meas i (Config.shake256 bs) } }

/-- Ports of a live attention die train; whether a partner answers is free (R325, R374, log entry 5). -/
def State.trainPorts (s : State) : State :=
  let port := fun (p : Nat) => if (s.die (p / 12)).fenced || !Config.freeBool (s.freeN + p) then (default : WPort)
    else { (default : WPort) with st := 2, lanes := 15 }
  { s.updHost (fun h => { h with ports := Sparse.ofFn 48 port }) with freeN := s.freeN + 48 }

/-- The bytes of a bad-page list entry (R358). -/
def badEntry (b : Nat × Nat × Bool) : List Byte := leBytes 8 (b.1 * 65536 + b.2.1 * 2 + b.2.2.toNat)

/-- A copy of the bad-page list with its header (R358). -/
def badCopyOf (l : List (Nat × Nat × Bool)) : BadCopy := { count := l.length, digest := Config.shake256 (l.flatMap badEntry), entries := l }

/-- Whether a copy's digest is that of its entries; a copy never written holds none (R358). -/
def badCopyOk : Option BadCopy → Bool
  | none => true
  | some c => c.count == c.entries.length && Config.shake256 (c.entries.flatMap badEntry) == c.digest

/-- The bad-page list is loaded: the first copy whose digest holds, from which the other is rewritten; none where both fail (R325, R358). -/
def HostSt.loadBad (h : HostSt) : Option HostSt :=
  if badCopyOk h.badA then some { h with badB := if badCopyOk h.badB then h.badB else h.badA, badList := (h.badA.map (·.entries)).getD [] }
  else if badCopyOk h.badB then some { h with badA := h.badB, badList := (h.badB.map (·.entries)).getD [] }
  else none

/-- HBM is zero-filled and the SRAMs initialised; flash keeps its content; the bad-page list applies again (R325, R358). -/
def State.clearMemory (s : State) : State :=
  { s.updHost (fun h => { h with excluded := (h.badList.filter fun b => b.2.2).map (·.1) }) with
    mem := s.mem.filter fun c => decide (cxlBase ≤ c.1) && decide (c.1 < scratchBase)
    poison := [], origins := [] }

/-- DIEOK as a number (R326). -/
def State.dieOk (s : State) : Nat := ((List.range 12).map fun i => if (s.die i).ok then 2 ^ i else 0).sum

/-- ROWCTL's reset value (R359). -/
def rowctlReset : Nat := 2 ^ 32 + 64 * 2 ^ 16 + 2048

/-- READY (R325 to R327): the live dies serve, their watchdogs start, the firmware learns the replica's address, any that leaves it whole in HBM
(R366). -/
def State.becomeReady (s : State) : State :=
  let degr := s.dies.any fun d => d.fenced
  let bases := fun (i : Nat) => (Config.free (s.freeN + i) 40).toNat % ((hbmBytes - replicaBytes) / 4096 + 1) * 4096
  let s1 : State := { s with
    freeN := s.freeN + 12
    dies := s.dies.mapIdx fun i (d : Die) => if d.fenced then d else { d with watchdog := d.cyc, almBase := bases i }
    host := { s.host with rdy := true, degr := degr, restart := false
                          spdm := { s.host.spdm with session := s.host.spdm.session && !s.host.restart } } }
  let s2 := s1.measure 3 Config.runtimeImage
  (s2.measure 5 (leBytes 2 s2.dieOk ++ leBytes 1 degr.toNat ++ leBytes 8 rowctlReset)).msix 0

/-- Bytes of a Meridian's tightly coupled memory (R363). -/
def tcmBytes : Nat := 524288

/-- An image in a tightly coupled memory, as far as it reaches; the core runs it, and its registers hold values no rule gives (R325, R363; log
entry 31). -/
def Meridian.load (m : Meridian) (image : List Byte) (n : Nat) : Meridian :=
  { m with pc := Config.free n 64, x := Sparse.ofFn 31 fun i => Config.free (n + 1 + i) 64
           tcm := ((image.take tcmBytes).zipIdx.filter fun b => b.1 != 0).map fun b => (b.2, b.1) }

/-- The lead ROM loads the boot firmware and releases the other eleven Meridians with the same image (R325). -/
def State.loadFirmware (s : State) : State :=
  let img := s.host.fwImage.getD Config.bootImage
  { s with dies := s.dies.mapIdx fun i (d : Die) => { d with mer := d.mer.load img (s.freeN + 32 * i) }, freeN := s.freeN + 384 }

/-- The end of the phase in progress (R325 to R327, R358, R386): `failed` are the dies that failed it; `refuse` says that the
signature was refused in phase 1, or that neither stored copy of the bad-page list could be read in phase 3. -/
def State.phaseEnd (s : State) (failed : List Nat) (refuse : Bool) : State :=
  match s.host.phase with
  | 1 =>
    let s1 := (s.measure 1 Config.romImage).measure 2 (s.host.fwImage.getD Config.bootImage)
    if refuse then s1.bootFail 0x01 else s1.loadFirmware.beginPhase 2
  | 2 => if failed.contains 0 then s.bootFail 0x02 else (s.bootFence failed).trainPorts.beginPhase 3
  | 3 =>
    match s.host.loadBad with
    | none => s.bootFail 0x05
    | some h =>
      if refuse then s.bootFail 0x05
      else if failed.contains 0 then s.bootFail 0x02
      else
        let s1 := (({ s with host := h } : State).bootFence failed).clearMemory
        (s1.measure 4 (h.badList.flatMap badEntry)).beginPhase 4
  | 4 =>
    if failed.contains 0 then s.bootFail 0x02
    else
      let s1 := s.bootFence failed
      let s2 : State := { s1 with dies := s1.dies.map fun (d : Die) => { d with ok := !d.fenced } }
      if (List.range 12).all fun i => decide (i < 4) || (s2.die i).fenced then s2.bootFail 0x04 else s2.beginPhase 5
  | _ => s.becomeReady

/-- PHASE_COMPLETE (R325). -/
def execPhaseComplete (failed : List Nat) (refuse : Bool) (s : State) : Out :=
  .next (if s.booting && !s.phaseLate then s.phaseEnd failed refuse else s)

/-- PHASE_TIMEOUT (R325). -/
def execPhaseTimeout (s : State) : Out := .next (if s.booting && s.phaseLate then s.bootFail 0x03 else s)

/-- Everything but what a reset leaves: memory until phase 3 clears HBM, flash with its poisoned pages, its append log and the copies of the
bad-page list, the spares, the firmware image, the counts since power-good, the input that a unit fails its check, and the model's own
bookkeeping (R26, R323, R328, R358). -/
def State.rebootWith (s : State) (img : Option (List Byte)) : State :=
  let h := s.host
  let r : State := { State.reset with
    mem := s.mem, poison := s.poison, flashBad := s.flashBad, flashLog := s.flashLog, agenda := s.agenda, ids := s.ids, freeN := s.freeN
    dies := s.dies.map fun (d : Die) => { Die.reset with cyc := d.cyc, ctl := d.ctl, badArr := d.badArr }
    host := { HostSt.reset with
      badList := h.badList, badA := h.badA, badB := h.badB, spares := h.spares, fwImage := img, restart := true, msix := h.msix
      spdm := { (default : Spdm) with session := h.spdm.session } } }
  r.beginPhase 1

/-- DEVICE_RESET: a conventional reset or a CXL reset (R328). -/
def execDeviceReset (s : State) : Out := .next (s.rebootWith s.host.fwImage)

/-- After a loss of power nothing is left but what flash holds and the inputs; the counts start anew (R26, R323, R328). -/
def State.powerCycle (s : State) : State :=
  let r := s.rebootWith s.host.fwImage
  { r with
    mem := r.mem.filter fun c => isFlashKey c.1 || (decide (cxlBase ≤ c.1) && decide (c.1 < flashBase)), poison := []
    dies := r.dies.map fun (d : Die) => { d with cyc := 0, ctl := 0 }
    host := { r.host with phaseAt := 0, spdm := default } }

/-- POWER_GOOD: bring-up starts; on a device that runs, power was lost before (R325, R328; log entry 32). -/
def execPowerGood (s : State) : Out := .next (if s.host.phase = 0 then s.beginPhase 1 else s.powerCycle)

/-- FIRMWARE_UPDATE: under FAIL a signed image over MCTP restarts bring-up; phase 1 checks its signature (R325, R327). -/
def execFirmwareUpdate (image : List Byte) (_sig : Nat) (s : State) : Out :=
  .next (if s.host.fail then s.rebootWith (some image) else s)

/-! ### The SPDM responder (R385, R386) -/

def State.updSpdm (s : State) (f : Spdm → Spdm) : State := s.updHost fun h => { h with spdm := f h.spdm }

/-- Answer a request. -/
def State.answer (s : State) (r : SpdmReply) : State := s.updSpdm fun p => { p with reply := r }

/-- A request: none is answered after a failed bring-up; while bring-up restarts it is answered with an error and the session
ends (R327, R386). -/
def State.spdm (s : State) (f : State → State) : State :=
  if s.host.fail then s
  else if s.host.restart then s.updSpdm fun p => { p with reply := .error, session := false, handshake := false }
  else f s

/-- GET_VERSION (R385). -/
def execGetVersion (s : State) : Out := .next (s.spdm fun s => s.answer (.version 1 3))
/-- GET_CAPABILITIES (R385). -/
def execGetCapabilities (s : State) : Out := .next (s.spdm fun s => s.answer .capabilities)

/-- NEGOTIATE_ALGORITHMS (R385). -/
def execNegotiateAlgorithms (mldsa65 shake256 : Bool) (s : State) : Out :=
  .next (s.spdm fun s =>
    if mldsa65 && shake256 then s.updSpdm fun p => { p with algs := true, reply := .algorithms true true }
    else s.updSpdm fun p => { p with algs := false, session := false, handshake := false, reply := .error })

/-- GET_DIGESTS (R385). -/
def execGetDigests (s : State) : Out := .next (s.spdm fun s => s.answer (.digests (Config.shake256 Config.certChain)))

/-- GET_CERTIFICATE: the chain sits in slot 0 (R385). -/
def execGetCertificate (slot : Nat) (s : State) : Out :=
  .next (s.spdm fun s => s.answer (if slot = 0 then .certificate Config.certChain else .error))

/-- CHALLENGE (R385). -/
def execChallenge (nonce : Nat) (s : State) : Out :=
  .next (s.spdm fun s => s.answer (.challengeAuth nonce (Config.sign (Config.shake256 (leBytes 32 nonce)))))

/-- GET_MEASUREMENTS: the indices taken so far (R386). -/
def execGetMeasurements (s : State) : Out := .next (s.spdm fun s => s.answer (.measurements s.host.spdm.meas))

/-- KEY_EXCHANGE: without agreed algorithms there is no session (R385). -/
def execKeyExchange (_share : Nat) (s : State) : Out :=
  .next (s.spdm fun s =>
    if s.host.spdm.algs then s.updSpdm fun p => { p with handshake := true, session := false, reply := .keyExchange }
    else s.answer .error)

/-- FINISH: with algorithms agreed and a key exchange answered the session stands, and the IDE keys are derived in it (R331, R385). -/
def execFinish (verified : Bool) (s : State) : Out :=
  .next (s.spdm fun s =>
    if s.host.spdm.algs && s.host.spdm.handshake && verified then s.updSpdm fun p => { p with handshake := false, session := true, keyGen := p.keyGen + 1, reply := .finish }
    else s.updSpdm fun p => { p with handshake := false, reply := .error })

/-- KEY_UPDATE (R385). -/
def execKeyUpdate (s : State) : Out :=
  .next (s.spdm fun s => if s.host.spdm.session then s.updSpdm fun p => { p with keyGen := p.keyGen + 1, reply := .keyUpdate } else s.answer .error)

/-- END_SESSION (R385). -/
def execEndSession (s : State) : Out :=
  .next (s.spdm fun s => if s.host.spdm.session then s.updSpdm fun p => { p with session := false, reply := .endSession } else s.answer .error)

end Sys2Proof.Machine
end

