-- ==== Sys2Proof/Machine/HostLink.lean ====
section
/-!
DEFINITION. The host link and its registers: CXL.mem, IDE, the register block, TLB invalidation, HBM errors and retirement, row
management, flash pages, disabled cores (R322 to R324, R326, R328 to R332, R340, R355 to R360, R387).
-/

namespace Sys2Proof.Machine

/-- Hold a host request until it can flow. -/
def State.holdReq (s : State) (q : HostReq) : State := s.updHost fun h => { h with held := h.held ++ [q] }

/-! ### CXL.mem (R328, R329, R331) -/

/-- The 64-byte lines of a range. -/
def linesOf (addr len : Nat) : List Nat := if len = 0 then [] else (List.range ((addr + len - 1) / 64 + 1 - addr / 64)).map (addr / 64 + ·)

/-- The first byte of a range of HBM in each interleave of 1 KiB it meets (R322). -/
def kibsOf (addr n : Nat) : List Nat := (List.range ((addr + n - 1) / 1024 + 1 - addr / 1024)).map fun i => max addr ((addr / 1024 + i) * 1024)

/-- A read of device memory: no answer once bring-up has failed, poison before READY and from poisoned lines; an engine-owned page's bytes
are free (R123, R327, R328, R356). -/
def State.hostRead (s : State) (addr len : Nat) : State :=
  if s.host.fail then s
  else if !s.host.rdy then s.updHost fun h => { h with readData := [], readPoison := true }
  else if hbmBytes < addr + len then s
  else if (kibsOf addr len).any s.backedOff then s.holdReq (.read addr len)
  else
    let bad := (linesOf addr len).any fun l => s.poisonedAt (l * 64) 64
    let owned := (kibsOf addr len).any s.engineOwned
    let data := if bad then [] else if owned then freeBytes s.freeN len else s.bytesAt addr len
    let s1 := (s.touchRows (kibsOf addr len)).updHost fun h => { h with readData := data, readPoison := bad }
    if owned then { s1 with freeN := s1.freeN + len } else s1

/-- CXL_MEM_READ (R329). -/
def execCxlMemRead (addr len : Nat) (s : State) : Out :=
  .next (if !s.host.ide then s.holdReq (.read addr len) else s.hostRead addr len)

/-- Bytes by the 64-byte line they lie in. -/
def lineRuns (addr : Nat) (bs : List Byte) : List (Nat × List Byte) :=
  (linesOf addr bs.length).map fun l =>
    let a := max addr (l * 64)
    (a, (bs.drop (a - addr)).take (l * 64 + 64 - a))

/-- Write lines of device memory, those in dead frames excepted; a whole line clears its poison (R327, R356). -/
def State.writeLines (s : State) : List (Nat × List Byte) → State
  | [] => s
  | x :: r =>
    (if s.hbmDead x.1 then s else { s with mem := memWrite s.mem x.1 x.2, poison := clearPoison s.poison x.1 x.2.length }).writeLines r

/-- A write of device memory: discarded before READY; it waits for a lock or a back-off (R328, R356, R357). -/
def State.hostWrite (s : State) (addr : Nat) (bs : List Byte) : State :=
  let keys := kibsOf addr bs.length
  if !s.host.rdy || decide (hbmBytes < addr + bs.length) then s
  else if keys.any fun k => s.migHeld k || s.backedOff k then s.holdReq (.write addr bs)
  else (s.touchRows (keys.filter fun k => !s.hbmDead k)).writeLines (lineRuns addr bs)

/-- CXL_MEM_WRITE (R329). -/
def execCxlMemWrite (addr : Nat) (bytes : List Byte) (s : State) : Out :=
  .next (if !s.host.ide then s.holdReq (.write addr bytes) else s.hostWrite addr bytes)

/-! ### Registers (R326, R332, R340, R355, R359, R387) -/

/-- A write of SCHED, or of a UIO window's register; every other offset without an event of its own is reserved (R330, R332, R340). -/
def State.regWrite (s : State) (offset : Nat) (v : Word) : State :=
  match s.diesAt offset 0x100 with
  | [] => if offset < 0x100000 && Config.uioReg offset then s.updHost fun h => { h with regs := Sparse.set h.regs offset v } else s
  | ds => ds.foldl (fun s d => s.updDie d fun x => { x with hold := v.getLsbD 32, slice := max 10000 (v.toNat % 2 ^ 32) }) s

def execRegisterWrite (offset : Nat) (value : Word) (s : State) : Out :=
  .next (s.hostGate (.reg offset value) fun s => s.regWrite offset value)

/-- IDEERR_CLEAR: writing 1 clears the bit, before READY too: DEVSTAT is the one register that can be written then (R326, R328). -/
def State.clearIdeerr (s : State) (v : Word) : State := if v.getLsbD 3 then s.updHost fun h => { h with ideerr := false } else s

def State.ideerrWrite (s : State) (v : Word) : State := if !s.host.ide then s.holdReq (.ideerr v) else s.clearIdeerr v

def execIdeerrClear (value : Word) (s : State) : Out := .next (s.ideerrWrite value)

/-- TLBINV: ignored while BUSY, and for reserved kinds (R355). -/
def State.tlbinvWrite (s : State) (v : Word) : State :=
  if s.host.tlbinv.isSome || v.getLsbD 1 then s else s.updHost fun h => { h with tlbinv := some v.toNat }

def execTlbinvWrite (value : Word) (s : State) : Out := .next (s.hostGate (.tlbinv value) fun s => s.tlbinvWrite value)

/-- TLBINV_COMPLETE: the page under every `ptb`, or every entry, is gone from every TLB (R355). -/
def State.tlbinvDone (s : State) : State :=
  match s.host.tlbinv with
  | none => s
  | some v =>
    let page := bitsOf v 51 16 * 65536
    let hit := fun (t : TlbEnt) => v % 2 == 1 || t.hits t.ptb page
    (s.dropAll hit).updHost fun h => { h with tlbinv := none }

def execTlbinvComplete (s : State) : Out := .next s.tlbinvDone

/-- ROWCTL: the notice limits, and MTHD at once on every die; 0 is ignored (R359). -/
def State.rowctlWrite (s : State) (v : Word) : State :=
  let m := bitsOf v.toNat 15 0
  let s1 := s.updHost fun h => { h with note := v.getLsbD 32, alim := max 1 (bitsOf v.toNat 31 16), mthd := if m = 0 then h.mthd else m }
  if m = 0 then s1 else { s1 with dies := s1.dies.map fun (d : Die) => { d with mth := m } }

def execRowctlWrite (value : Word) (s : State) : Out := .next (s.hostGate (.rowctl value) fun s => s.rowctlWrite value)

/-- CDIS: a fenced die's is ignored; attention dies have no CDH (R387). -/
def State.cdisWrite (s : State) (die : Nat) (v : Word) : State :=
  if 12 ≤ die ∨ (s.die die).fenced then s
  else s.updDie die fun d => { d with cdis := BitVec.ofNat 48 (if isAttnDie die then v.toNat % 2 ^ 32 else v.toNat) }

def execCdisWrite (die : Nat) (value : Word) (s : State) : Out := .next (s.hostGate (.cdis die value) fun s => s.cdisWrite die value)

/-! ### HBM errors (R356) -/

/-- Entries of the fault-address queue. -/
def faqRoom : Nat := 1024

/-- Report an error on a line: merged while an entry of the line is unread, lost to a full queue (R356). -/
def HostSt.report (h : HostSt) (line type : Nat) : HostSt :=
  if h.faq.any fun e => e.line == line then
    { h with faq := h.faq.map fun e => if e.line = line then { e with ecnt := min (e.ecnt + 1) 255, type := max e.type type } else e }
  else if faqRoom ≤ h.faq.length then { h with faqOvf := true }
  else { h with faq := h.faq ++ [{ type := type, ovf := h.faqOvf, ecnt := 1, line := line }], faqOvf := false }

/-- HBM_ERROR_REPORT: an uncorrectable error poisons its line; the first entry signals vector 3 (R356). -/
def State.hbmError (s : State) (dpa type : Nat) : State :=
  let first := s.host.faq.isEmpty
  let s1 := s.updHost fun h => h.report (dpa / 64) type
  let s2 : State := if type = 2 then { s1 with poison := (dpa / 64 :: s1.poison).dedup } else s1
  if first then s2.msix 3 else s2

def execHbmErrorReport (dpa type : Nat) (s : State) : Out := .next (if dpa < hbmBytes && type < 3 then s.hbmError dpa type else s)

/-- An entry as FAQ reads it (R356). -/
def FaqEnt.word (e : FaqEnt) : Word :=
  BitVec.ofNat 64 (2 ^ 63 + e.type * 2 ^ 61 + e.ovf.toNat * 2 ^ 60 + e.ecnt * 2 ^ 52 + e.line * 64)

/-- FAQ_POP (R356). -/
def State.faqPop (s : State) : State :=
  match s.host.faq with
  | [] => s.updHost fun h => { h with popped := 0 }
  | e :: r => s.updHost fun h => { h with faq := r, popped := e.word }

def execFaqPop (s : State) : Out := .next (s.hostGate .faq State.faqPop)

/-! ### Frame retirement (R357, R358) -/

/-- Spare frames of a stack, and entries of the bad-page list. -/
def spareFrames : Nat := 512
def badListRoom : Nat := 16384

/-- The STATUS of a retirement (R357). -/
def State.retireStatus (s : State) (frame : Nat) (excl : Bool) : Nat :=
  if hbmBytes ≤ frame * 65536 ∨ (s.die (dieOfDpa (frame * 65536))).fenced then 4
  else if s.host.badList.any fun b => b.1 == frame then 2
  else if badListRoom ≤ s.host.badList.length then 3
  else if excl = false ∧ spareFrames ≤ Sparse.get s.host.spares (frame * 65536 / stackBytes) then 1
  else 0

/-- An entry is appended to the bad-page list: to both copies, through the flash append log (R358). -/
def State.appendBad (s : State) (frame spare : Nat) (excl : Bool) : State :=
  let l := s.host.badList ++ [(frame, spare, excl)]
  { s.updHost (fun h => { h with badList := l, badA := some (badCopyOf l), badB := some (badCopyOf l) }) with
    flashLog := s.flashLog ++ [.badEntry 0 frame spare excl, .badEntry 2 frame spare excl] }

/-- A retirement starts: BUSY, and the frame listed if nothing refuses it; an excluded frame reads as poison from then on (R357). -/
def State.retireFrame (s : State) (v : Word) (excl : Bool) : State :=
  let frame := bitsOf v.toNat 51 16
  if s.host.retBusy || v.getLsbD 0 != excl then s
  else
    let st := s.retireStatus frame excl
    let stack := frame * 65536 / stackBytes
    let spare := Sparse.get s.host.spares stack
    let s1 := s.updHost fun h => { h with retBusy := true, retStatus := st, retFrame := frame, retExcl := excl }
    if st ≠ 0 then s1
    else if excl then (s1.appendBad frame 0x1FF true).updHost fun h => { h with excluded := frame :: h.excluded }
    else (s1.appendBad frame spare false).updHost fun h => { h with spares := Sparse.set h.spares stack (spare + 1) }

/-- RETIRE_REMAP (R357). -/
def execRetireRemap (value : Word) (s : State) : Out := .next (s.hostGate (.remap value) fun s => s.retireFrame value false)
/-- RETIRE_EXCLUDE (R357). -/
def execRetireExclude (value : Word) (s : State) : Out := .next (s.hostGate (.exclude value) fun s => s.retireFrame value true)

/-! ### Row management (R322 to R324) -/

/-- ROW_ACTIVATION: an access reaches its row (R323). -/
def execRowActivation (dpa : Nat) (s : State) : Out := .next (if dpa < hbmBytes && !s.backedOff dpa then s.touchRow dpa else s)

/-- The die of a bank's stack. -/
def dieOfBank (bank : Nat) : Nat := dieOfDpa (bank / 1024 * stackBytes)

/-- Set a row's count to zero. -/
def Bank.zero (b : Bank) (r : Nat) : Bank := { b with counts := Sparse.set b.counts r 0 }

/-- REFRESH_MANAGEMENT: the bank's row closes, the neighbours are refreshed, the counts cleared, and the bank backs off (R323). -/
def State.refreshRows (s : State) (bank : Nat) : State :=
  let b := Sparse.get s.banks bank
  match b.pend, b.backoff with
  | r :: rest, none =>
    let b0 := if r = 0 then b.zero 0 else (b.zero r).zero (r - 1)
    let b1 := if r < 65535 then b0.zero (r + 1) else b0
    { s with banks := Sparse.set s.banks bank
               { b1 with openRow := none, pend := rest, backoff := some ((s.die (dieOfBank bank)).ctl + backoffCycles) } }
  | _, _ => s

def execRefreshManagement (bank : Nat) (s : State) : Out := .next (s.refreshRows bank)

/-- The cycles each access noted waited at a bank whose back-off ends now, by the issuing die's count (R324). -/
def waited (bank now : Nat) (l : List Block) : List Nat :=
  (l.filter fun b => b.bank == bank).map fun b => min (now - b.since) backoffCycles

/-- Charge a job's accesses that waited (R324). -/
def Core.charge (c : Core) (l : List Nat) : Core := l.foldl (fun c n => (c.count 5 1).count 4 n) c

/-- Whether an access is a scalar load, store or atomic (R324). -/
def MBody.scalarAccess : MBody → Bool
  | .load _ _ _ _ => true
  | .store _ _ => true
  | .atomic _ _ _ _ _ _ => true
  | _ => false

/-- The events of the released scalar accesses of a core (R324). -/
def Core.releaseEvents (bank now : Nat) : List MOp → Core → Core
  | [], c => c
  | o :: r, c =>
    let x := c.strm o.strm
    let c1 := if !(waited bank now o.blocked).isEmpty && o.body.scalarAccess && x.evh != 0 then
        c.setStrm o.strm (x.hold { cause := 4, sub := 0, info := BitVec.ofNat 64 o.va })
      else c
    Core.releaseEvents bank now r c1

/-- Forget the waits at a bank. -/
def unblock (bank : Nat) (l : List Block) : List Block := l.filter fun b => b.bank != bank

/-- Charge and release everything a core issued itself that waits at a bank. -/
def Core.release (bank now : Nat) (c : Core) : Core :=
  let waits := c.stalls ++ c.ops.flatMap (·.blocked) ++ c.rake.flatMap (·.blocked) ++ c.fetches.flatMap (·.blocked) ++
    c.ports.flatMap fun p => p.2.gen.toList.flatMap (·.blocked)
  let c2 := Core.releaseEvents bank now c.ops (c.charge (waited bank now waits))
  { c2 with
    stalls := unblock bank c2.stalls
    ops := c2.ops.map fun o => { o with blocked := unblock bank o.blocked }
    rake := c2.rake.map fun o => { o with blocked := unblock bank o.blocked }
    fetches := c2.fetches.map fun o => { o with blocked := unblock bank o.blocked }
    ports := c2.ports.map fun p => (p.1, { p.2 with gen := p.2.gen.map fun g => { g with blocked := unblock bank g.blocked } }) }

/-- The accesses of a die's engines that wait at a bank, each with the job that issued it. -/
def Die.waiters (d : Die) : List (Nat × Nat × List Block) :=
  (d.attns.map fun a => (a.lrec, a.job, a.blocked)) ++ (d.kops.map fun o => (o.lrec, o.job, o.blocked)) ++
    d.pans.flatMap fun p => p.2.reads.filterMap fun r => r.tok.map fun t => (t.lrec, t.job, r.blocked)

def Die.unblock (bank : Nat) (d : Die) : Die :=
  { d with
    attns := d.attns.map fun a => { a with blocked := Machine.unblock bank a.blocked }
    kops := d.kops.map fun o => { o with blocked := Machine.unblock bank o.blocked }
    pans := d.pans.map fun p => (p.1, { p.2 with reads := p.2.reads.map fun r => { r with blocked := Machine.unblock bank r.blocked } }) }

/-- Charge the jobs whose engine accesses wait at a bank. -/
def State.chargeAll (s : State) (bank : Nat) : List (Nat × Nat × List Block) → State
  | [] => s
  | w :: r => (s.updJob w.1 w.2.1 fun c => c.charge (waited bank (s.die c.did).cyc w.2.2)).chargeAll bank r

/-- The end of a back-off: the waiting accesses are charged and released, with events to their streams (R324). -/
def State.releaseBank (s : State) (bank : Nat) : State :=
  let s1 := s.chargeAll bank (s.dies.flatMap Die.waiters ++ s.migs.map fun m => (m.lrec, m.job, m.blocked))
  let free := fun (c : Core) => c.release bank (s.die c.did).cyc
  { s1 with
    banks := Sparse.set s1.banks bank { Sparse.get s1.banks bank with backoff := none }
    core := free s1.core, parked := s1.parked.map free
    saved := s1.saved.map fun (v : SavedGang) => { v with cores := v.cores.map free }
    orphans := s1.orphans.map fun (k : Copy) => { k with blocked := unblock bank k.blocked }
    migs := s1.migs.map fun (m : Mig) => { m with blocked := unblock bank m.blocked }
    dies := s1.dies.map (Die.unblock bank) }

/-- PERIODIC_REFRESH: once in a window the row's count becomes zero, its neighbours' unchanged, and the bank's row is closed (R323). -/
def Bank.refresh (b : Bank) (row : Nat) : Bank :=
  if b.done.contains row then b else { b.zero row with openRow := none, done := row :: b.done }

def execPeriodicRefresh (bank row : Nat) (s : State) : Out :=
  let b := (Sparse.get s.banks bank).refresh row
  .next (if bank < 16384 && row < 65536 then { s with banks := Sparse.set s.banks bank b } else s)

/-! ### Flash pages (R360) -/

/-- FLASH_REBUILD: a rebuilt page is written back through the append log; a rebuild that fails poisons the page, once, and reports it (R360). -/
def State.flashRebuild (s : State) (page : Nat) (rebuilt : Bool) : State :=
  if s.flashBad.contains page then s
  else if rebuilt then { s with flashLog := s.flashLog ++ [.page page] }
  else ({ s with flashBad := page :: s.flashBad } : State).postRoot s.master { code := 0x42, die := s.master, addr := page * 65536 }

def execFlashRebuild (page : Nat) (rebuilt : Bool) (s : State) : Out := .next (s.flashRebuild page rebuilt)

/-! ### Requests that were held (R324, R331, R357) -/

/-- Carry out a request that was held. -/
def HostReq.run (q : HostReq) (s : State) : State :=
  match q with
  | .read a n => if !s.host.ide then s.holdReq q else s.hostRead a n
  | .write a b => if !s.host.ide then s.holdReq q else s.hostWrite a b
  | .reg o v => s.hostGate q fun s => s.regWrite o v
  | .root o v => s.hostGate q fun s => s.rootWrite v (s.diesAt o 0x108)
  | .preqGo o v => s.hostGate q fun s => if v.getLsbD 0 && !v.getLsbD 1 then s.preqGo o v else s
  | .preqCancel o v => s.hostGate q fun s => if v.getLsbD 1 then s.preqCancel o v else s
  | .preqResume o v => s.hostGate q fun s => if v.getLsbD 2 && !v.getLsbD 1 then s.preqResume o v else s
  | .ideerr v => s.ideerrWrite v
  | .tlbinv v => s.hostGate q fun s => s.tlbinvWrite v
  | .faq => s.hostGate q State.faqPop
  | .remap v => s.hostGate q fun s => s.retireFrame v false
  | .exclude v => s.hostGate q fun s => s.retireFrame v true
  | .rowctl v => s.hostGate q fun s => s.rowctlWrite v
  | .cdis d v => s.hostGate q fun s => s.cdisWrite d v

/-- Carry out every held request in order; one that still cannot flow is held again. -/
def State.runHeld (s : State) : State :=
  s.host.held.foldl (fun s q => q.run s) (s.updHost fun h => { h with held := [] })

/-- BACKOFF_END (R324). -/
def State.backoffDone (s : State) (bank : Nat) : State :=
  match (Sparse.get s.banks bank).backoff with
  | none => s
  | some e => if e ≤ (s.die (dieOfBank bank)).ctl then (s.releaseBank bank).runHeld else s

def execBackoffEnd (bank : Nat) (s : State) : Out := .next (s.backoffDone bank)

/-- RETIRE_COMPLETE: BUSY clears with vector 4; a retirement done posts its record (R357). -/
def State.retireDone (s : State) : State :=
  if !s.host.retBusy then s
  else
    let a := s.host.retFrame * 65536
    let s1 := (s.updHost fun h => { h with retBusy := false }).msix 4
    let s2 := if s.host.retStatus = 0 then s1.postRoot (dieOfDpa a) { code := 0x41, die := dieOfDpa a, addr := a } else s1
    s2.runHeld

def execRetireComplete (s : State) : Out := .next s.retireDone

/-! ### IDE (R331) -/

/-- IDE_ESTABLISHED: with the session's keys the streams stand, and held traffic flows (R331, R385). -/
def execIdeEstablished (s : State) : Out :=
  .next (if s.host.spdm.session && !s.host.ide then
    (s.updHost fun h => { h with ide := true, ideGen := h.ideGen + 1, msix := h.msix ++ h.msixHeld, msixHeld := [] }).runHeld else s)

/-- IDE_KEY_REFRESH: new keys at a flit boundary; no request is lost or repeated (R331). -/
def execIdeKeyRefresh (s : State) : Out := .next (if s.host.ide then s.updHost fun h => { h with ideGen := h.ideGen + 1 } else s)

/-- Whether a held request is a read. -/
def HostReq.isRead : HostReq → Bool
  | .read _ _ => true
  | _ => false

/-- IDE_INTEGRITY_FAIL: IDEERR, outstanding reads completed with poison, held writes discarded, vector 1 (R331). -/
def State.ideFail (s : State) : State :=
  let read := s.host.held.any HostReq.isRead
  s.updHost fun h => { h with ideerr := true, ide := false, held := [], msix := h.msix ++ [1]
                              readData := if read then [] else h.readData, readPoison := read || h.readPoison }

def execIdeIntegrityFail (s : State) : Out := .next (if s.host.ide then s.ideFail else s)

/-! ### What the registers read as (R326, R332, R340, R355, R357, R359, R370, R377, R379, R387) -/

/-- DEVSTAT (R326). -/
def State.devstat (s : State) : Word :=
  let h := s.host
  BitVec.ofNat 64 (s.dieOk * 2 ^ 52 + h.fcode * 2 ^ 40 + min ((s.die 0).cyc / cycMs) 65535 * 2 ^ 24 + h.phase * 2 ^ 4 +
    h.ideerr.toNat * 8 + h.degr.toNat * 4 + h.fail.toNat * 2 + h.rdy.toNat)

/-- A die's SCHED and ALMST (R340, R370). -/
def Die.sched (d : Die) : Word := BitVec.ofNat 64 (d.hold.toNat * 2 ^ 32 + d.slice)
def Die.almst (d : Die) (master : Nat) : Word := BitVec.ofNat 64 (master * 2 ^ 60 + d.almState * 2 ^ 58 + d.almIter.toNat)

/-- A port's WPSTAT (R377). -/
def WPort.wpstat (p : WPort) : Word :=
  BitVec.ofNat 64 (p.rply * 2 ^ 48 + p.crce * 2 ^ 32 + p.rpr * 2 ^ 24 + p.lanes.toNat * 2 ^ 8 + p.st)

/-- A die's register at an offset of its window (R332). -/
def State.dieReg (s : State) (d o : Nat) : Word :=
  if (s.die d).fenced then 0
  else if o = 0x100 then (s.die d).sched
  else if o = 0x108 then BitVec.ofNat 64 (s.die d).root
  else if o = 0x400 then (s.die d).almst s.master
  else 0

/-- What a register without side effects holds (R332). -/
def State.regValue (s : State) (o : Nat) : Word :=
  let h := s.host
  if o = 0 then s.devstat
  else if o = 0x200 then (if h.tlbinv.isSome then BitVec.ofNat 64 (2 ^ 63) else 0)
  else if o = 0x310 then BitVec.ofNat 64 (h.retBusy.toNat * 2 ^ 63 + h.retStatus * 2 ^ 60)
  else if o = 0x320 then BitVec.ofNat 64 (h.note.toNat * 2 ^ 32 + h.alim * 2 ^ 16 + h.mthd)
  else if o = 0xA00 then BitVec.ofNat 64 (h.topoBusy.toNat * 2 ^ 63 + h.topoStatus * 2 ^ 60)
  else if 0x500 ≤ o ∧ o < 0x560 ∧ o % 8 = 0 then (s.die ((o - 0x500) / 8)).cdis.setWidth 64
  else if 0x800 ≤ o ∧ o < 0x980 ∧ o % 8 = 0 then (s.wport ((o - 0x800) / 8)).wpstat
  else if 0x100000 ≤ o then s.dieReg ((o - 0x100000) / 0x40000) ((o - 0x100000) % 0x40000)
  else if o = 0x100 ∨ o = 0x108 ∨ o = 0x400 then s.dieReg s.master o
  else if Config.uioReg o then Sparse.get h.regs o
  else 0

/-- What a host read of such a register returns: DEVSTAT always; any other is held until the IDE streams are established and has no answer once
bring-up has failed (R327, R331). -/
def State.readReg (s : State) (o : Nat) : Option Word := if o = 0 ∨ (s.host.ide = true ∧ s.host.fail = false) then some (s.regValue o) else none

/-- Memory_Active, as configuration space reports it (R329). -/
def State.memoryActive (s : State) : Bool := s.host.rdy

/-! ### UIO windows (R330) -/

end Sys2Proof.Machine
end

