-- ==== Sys2Proof/Machine/Auto.lean ====
section
/-!
DEFINITION. The model's own order of the device's steps: which engine, distributor or firmware step comes next when the agenda is
empty, what a stream does at its turn, how time passes (R9, R20, R22, R24 to R27; log entry 3).
-/

namespace Sys2Proof.Machine

/-! ### One step of the device -/

/-- The first of a list of steps that changes the state, or stops. -/
def firstChange (s : State) : List (State → Out) → Option Out
  | [] => none
  | f :: r =>
    match f s with
    | .next t => if t = s then firstChange s r else some (.next t)
    | o => some o

/-- The steps that perform what is left of an access: each row of a tile access has its own (R45). -/
def State.opActs (s : State) (o : MOp) : List (State → Out) :=
  match o.body with
  | .desc _ => [execLoadDataReturn o.id]
  | .load _ _ _ _ => [execLoadDataReturn o.id]
  | .store _ _ => [execStorePerform o.id]
  | .atomic _ _ _ _ _ _ => [execAtomicPerform o.id]
  | .swadd _ _ => [execAtomicPerform o.id]
  | .ldg _ _ _ => [execGatherComplete o.id]
  | .stg _ _ => [execGatherComplete o.id]
  | .aldr _ _ _ _ _ _ => [execTileImageLoadComplete o.id]
  | b => (b.parts.filter fun p => s.canPerform o p).map fun p => execTileLoadComplete o.id p.ix

/-- The next row of a copy. -/
def Copy.act (k : Copy) : Option (State → Out) :=
  k.todo.head?.map fun x => execRakeRowPerform k.id ((k.work.map (·.row)).getD (x.dst / 128))

/-- The steps of the core under view: its accesses, engines, sections, joins, stepping and completion. -/
def State.coreActs (s : State) : List (State → Out) :=
  let c := s.core
  c.ops.flatMap s.opActs ++ (c.fetches.flatMap fun f => f.todo.map fun p => execWindowFetchPerform f.id p.ix) ++
  c.rake.filterMap Copy.act ++ ((List.range 16).map execPgenTilePush) ++
  [execSectionRetire .a, execSectionRetire .v, execSectionRetire .m, execRdzJoin, execStreamDeadlock, fun s => .next s.stepHalt, execJobComplete]

/-- The step of the Orrery's background work: for the context whose turn it is, a reclaim step, else a release step (R130). -/
def Die.backgroundAct (i : Nat) (d : Die) : List (State → Out) :=
  match d.nextWork with
  | none => []
  | some n => if (d.ctx n).any Ctx.reclaims then [execOrreryReclaimStep i n] else [execOrreryReleaseStep i n]

/-- The steps of a die's engines. -/
def Die.acts (i : Nat) (d : Die) : List (State → Out) :=
  (d.kops.flatMap fun o => [execContextAreaClearDone i o.ctx, execKvwComplete i o.id, execKvCommandApply i o.id,
    execOrreryBatchPerformed i o.id] ++ match o.cmd with | .forked ch => [execForkCopyDone i ch] | _ => []) ++
  d.backgroundAct i ++ (d.ctxs.map fun c => execSlabPageMove i c.num) ++
  (d.attns.flatMap fun a => [execAttnPageCompute i a.id, execAttnComplete i a.id]) ++
  (d.ends.flatMap fun e => [execChannelMatch i e.num, execPermitArrive i e.num, execSetArrived i e.num, execXcloseComplete i e.num]) ++
  (if d.panq.isEmpty && d.pans.all (fun p => p.2.reads.isEmpty) then [] else [execPanStoreObserve i]) ++
  ((Sparse.keys d.mbox).map fun q => execMailboxCommand i q)

/-- The firmware writes its watchdog register in time (R363). -/
def petDue (i : Nat) (s : State) : Out :=
  if s.host.rdy ∧ (s.die i).watchdog + watchdogLimit / 2 ≤ (s.die i).cyc then execWatchdogWrite i s else .next s

/-- The steps of a die's distributor and firmware. -/
def Die.schedules (i : Nat) (d : Die) : List (State → Out) :=
  if d.fenced then []
  else [execSliceEnd i] ++ (d.queues.map fun n => execLaunchTake i n) ++ [execGangPlace i, petDue i]

/-- Deliver the oldest Almanac message. -/
def AlmStep.deliver : AlmStep → State → Out
  | .prepare d m => execPrepare d m
  | .ack d n => execAck d n
  | .nack d n => execNack d n
  | .commit d m => execCommit d m
  | .abort d m => execAbort d m

/-- The banks with refresh management or a back-off to end, stops and saves, writes held back, bridges, ports, and what the host has started. -/
def State.packageActs (s : State) : List (State → Out) :=
  (s.msgs.map AlmStep.deliver) ++
  (s.banks.flatMap fun b => [execRefreshManagement b.1, execBackoffEnd b.1]) ++
  s.orphans.filterMap Copy.act ++
  (s.migs.map fun m => execTierMigrationComplete m.id) ++
  ((((s.core :: s.parked).filter fun c => c.running && c.stopReq).map fun c => (c.lrec, c.gangNo)).dedup.map fun g => execPreemptStop g.1 g.2) ++
  (s.saved.map fun v => execGangSaveComplete v.lrec v.gang) ++ (s.launches.map fun l => execLaunchComplete l.lrec) ++
  ((List.range 4).flatMap fun a => [execBridgeRetrain a (4 + 2 * a), execBridgeRetrain a (5 + 2 * a)]) ++
  ((Sparse.keys s.host.ports).map execLaneWidthSwitch) ++
  [fun s => .next s.flushLate, fun s => .next (if s.host.held.isEmpty then s else s.runHeld), execTlbinvComplete, execRetireComplete, execTopoLoadComplete, execCollectiveComplete, execAlmanacAckTimeout, execPhaseTimeout,
    fun s => .next ((List.range 12).foldl State.applied s), fun s => .next s.loopStep]

/-- The device's next step, if any is due. -/
def State.nextAct (s : State) : Option Out :=
  firstChange s ((if s.core.running then s.coreActs else []) ++ s.packageActs ++
    (s.dies.mapIdx fun i d => d.acts i ++ d.schedules i).flatten)

/-! ### A stream's turn -/

/-- What a stream does at its turn. -/
inductive Issue where
  | idle                         -- it stopped, waits, or may not issue yet
  | event                        -- it takes an event, or an event overflows
  | watch                        -- its SWWAIT looks again
  | enter                        -- it enters the section it has reached
  | word                         -- it issues the word at its pc
  deriving DecidableEq, Repr

/-- The turn of a stream of the core under view (R15, R16, R53, R182, R198, R220, R343). -/
def State.issueKind (s : State) (k : Strm) : Issue :=
  let x := s.core.strm k
  if !s.core.live k || s.core.stopReq || x.stepped then .idle
  else if s.takeable k then .event
  else if x.swwait.isSome then .watch
  else if x.atRdz || decide (s.now < x.nextIssue) then .idle
  else if x.atHdr then .enter
  else .word

/-- Whether a stream that entered a section may issue its first word in the same turn (R16). -/
def State.inside (s : State) (k : Strm) : Bool := s.core.live k && !(s.core.strm k).atHdr && !s.core.stopReq

/-! ### Time and the cores in turn -/

/-- A refresh window of a bank ends: the rows whose refresh has not been have it now, so that each has one in every window (R323). -/
def Bank.endWindow (b : Bank) : Bank := { b with counts := b.counts.filter fun r => b.done.contains r.1, openRow := none, done := [] }

/-- A cycle passes; resident gangs hold their cores (R26, R339). The spec gives the dies' counts no common time base (R2, R26): this model
advances the counts of all dies and of their HBM controllers together (log entry 3). -/
def State.tick (s : State) : State :=
  let dies := s.dies.mapIdx fun i (d : Die) => ({ d with cyc := d.cyc + 1, ctl := d.ctl + 1 } : Die).chargeUse (s.resident i)
  let ends := fun (bank : Nat) => (dies.getD (dieOfBank bank) Die.reset).ctl % refreshWindow == 0
  { s with dies := dies, banks := s.banks.map fun b => if ends b.1 then (b.1, b.2.endWindow) else b }

/-- The streams of the core under view have had their turns in this cycle; those of a gang that stops have none from its request on (R46,
R343). -/
def State.serveCore (s : State) : State :=
  if s.core.running then
    s.updC fun c => { c with viewAt := s.now + 1, turnAt := if c.stopReq then c.turnAt else s.now + 1 }
  else s

/-- The next core that has not been under view in this cycle comes under view; once every one has, a cycle passes (log entry 3). -/
def State.rotate (s : State) : State :=
  match s.parked.find? fun c => decide (c.viewAt ≤ (s.die c.did).cyc) with
  | some c => s.focus c
  | none => s.tick

/-- The turn after a turn. -/
def Turn.after : Turn → Turn
  | .land => .issue .a
  | .issue .a => .issue .v
  | .issue .v => .issue .m
  | .issue .m => .served
  | .served => .engine
  | .engine => .rotate
  | .rotate => .land

end Sys2Proof.Machine
end

