-- ==== Sys2Proof/Machine/Dispatch.lean ====
section
/-!
DEFINITION. The dispatch: one arm for each constructor of Instr, each one direct call of that instruction's meaning.
-/

namespace Sys2Proof.Machine

/-- Run one instruction on the core under view, or one step of the device. -/
def exec (i : Instr) (s : State) : Host.Outcome State Fault Refusal :=
  match i with
  | .add w => Sys2Proof.Machine.execAdd w s
  | .sub w => Sys2Proof.Machine.execSub w s
  | .and w => Sys2Proof.Machine.execAnd w s
  | .or w => Sys2Proof.Machine.execOr w s
  | .xor w => Sys2Proof.Machine.execXor w s
  | .shl w => Sys2Proof.Machine.execShl w s
  | .shr w => Sys2Proof.Machine.execShr w s
  | .sra w => Sys2Proof.Machine.execSra w s
  | .slt w => Sys2Proof.Machine.execSlt w s
  | .sltu w => Sys2Proof.Machine.execSltu w s
  | .min w => Sys2Proof.Machine.execMin w s
  | .max w => Sys2Proof.Machine.execMax w s
  | .minu w => Sys2Proof.Machine.execMinu w s
  | .maxu w => Sys2Proof.Machine.execMaxu w s
  | .addi w => Sys2Proof.Machine.execAddi w s
  | .andi w => Sys2Proof.Machine.execAndi w s
  | .ori w => Sys2Proof.Machine.execOri w s
  | .xori w => Sys2Proof.Machine.execXori w s
  | .shli w => Sys2Proof.Machine.execShli w s
  | .shri w => Sys2Proof.Machine.execShri w s
  | .srai w => Sys2Proof.Machine.execSrai w s
  | .slti w => Sys2Proof.Machine.execSlti w s
  | .sltiu w => Sys2Proof.Machine.execSltiu w s
  | .mini w => Sys2Proof.Machine.execMini w s
  | .maxi w => Sys2Proof.Machine.execMaxi w s
  | .minui w => Sys2Proof.Machine.execMinui w s
  | .maxui w => Sys2Proof.Machine.execMaxui w s
  | .mul w => Sys2Proof.Machine.execMul w s
  | .mulh w => Sys2Proof.Machine.execMulh w s
  | .mulhu w => Sys2Proof.Machine.execMulhu w s
  | .div w => Sys2Proof.Machine.execDiv w s
  | .divu w => Sys2Proof.Machine.execDivu w s
  | .rem w => Sys2Proof.Machine.execRem w s
  | .remu w => Sys2Proof.Machine.execRemu w s
  | .sclmul w => Sys2Proof.Machine.execSclmul w s
  | .sclmulh w => Sys2Proof.Machine.execSclmulh w s
  | .clz w => Sys2Proof.Machine.execClz w s
  | .ctz w => Sys2Proof.Machine.execCtz w s
  | .popc w => Sys2Proof.Machine.execPopc w s
  | .brev w => Sys2Proof.Machine.execBrev w s
  | .bswap w => Sys2Proof.Machine.execBswap w s
  | .extr w => Sys2Proof.Machine.execExtr w s
  | .ins w => Sys2Proof.Machine.execIns w s
  | .extrs w => Sys2Proof.Machine.execExtrs w s
  | .movi w => Sys2Proof.Machine.execMovi w s
  | .movhi w => Sys2Proof.Machine.execMovhi w s
  | .mov w => Sys2Proof.Machine.execMov w s
  | .sel w => Sys2Proof.Machine.execSel w s
  | .beq w => Sys2Proof.Machine.execBeq w s
  | .bne w => Sys2Proof.Machine.execBne w s
  | .blt w => Sys2Proof.Machine.execBlt w s
  | .bge w => Sys2Proof.Machine.execBge w s
  | .bltu w => Sys2Proof.Machine.execBltu w s
  | .bgeu w => Sys2Proof.Machine.execBgeu w s
  | .br w => Sys2Proof.Machine.execBr w s
  | .bri w => Sys2Proof.Machine.execBri w s
  | .call w => Sys2Proof.Machine.execCall w s
  | .ret w => Sys2Proof.Machine.execRet w s
  | .bq w => Sys2Proof.Machine.execBq w s
  | .bqz w => Sys2Proof.Machine.execBqz w s
  | .loop w => Sys2Proof.Machine.execLoop w s
  | .loopi w => Sys2Proof.Machine.execLoopi w s
  | .loops w => Sys2Proof.Machine.execLoops w s
  | .rrbset w => Sys2Proof.Machine.execRrbset w s
  | .rdz w => Sys2Proof.Machine.execRdz w s
  | .yield w => Sys2Proof.Machine.execYield w s
  | .endStream w => Sys2Proof.Machine.execEndStream w s
  | .trap w => Sys2Proof.Machine.execTrap w s
  | .eret w => Sys2Proof.Machine.execEret w s
  | .bkpt w => Sys2Proof.Machine.execBkpt w s
  | .rdsr w => Sys2Proof.Machine.execRdsr w s
  | .wrsr w => Sys2Proof.Machine.execWrsr w s
  | .rdcyc w => Sys2Proof.Machine.execRdcyc w s
  | .sqw w => Sys2Proof.Machine.execSqw w s
  | .sqr w => Sys2Proof.Machine.execSqr w s
  | .ldB w => Sys2Proof.Machine.execLdB w s
  | .ldBn w => Sys2Proof.Machine.execLdBn w s
  | .ldH w => Sys2Proof.Machine.execLdH w s
  | .ldHn w => Sys2Proof.Machine.execLdHn w s
  | .ldW w => Sys2Proof.Machine.execLdW w s
  | .ldWn w => Sys2Proof.Machine.execLdWn w s
  | .ldD w => Sys2Proof.Machine.execLdD w s
  | .stB w => Sys2Proof.Machine.execStB w s
  | .stH w => Sys2Proof.Machine.execStH w s
  | .stW w => Sys2Proof.Machine.execStW w s
  | .stD w => Sys2Proof.Machine.execStD w s
  | .ldv w => Sys2Proof.Machine.execLdv w s
  | .ldvp w => Sys2Proof.Machine.execLdvp w s
  | .stv w => Sys2Proof.Machine.execStv w s
  | .stvp w => Sys2Proof.Machine.execStvp w s
  | .ldg w => Sys2Proof.Machine.execLdg w s
  | .stg w => Sys2Proof.Machine.execStg w s
  | .aaddAtomic w => Sys2Proof.Machine.execAaddAtomic w s
  | .aand w => Sys2Proof.Machine.execAand w s
  | .aor w => Sys2Proof.Machine.execAor w s
  | .axor w => Sys2Proof.Machine.execAxor w s
  | .amin w => Sys2Proof.Machine.execAmin w s
  | .amax w => Sys2Proof.Machine.execAmax w s
  | .aminn w => Sys2Proof.Machine.execAminn w s
  | .amaxn w => Sys2Proof.Machine.execAmaxn w s
  | .aswp w => Sys2Proof.Machine.execAswp w s
  | .acas w => Sys2Proof.Machine.execAcas w s
  | .fence w => Sys2Proof.Machine.execFence w s
  | .swinit w => Sys2Proof.Machine.execSwinit w s
  | .swwait w => Sys2Proof.Machine.execSwwait w s
  | .swadd w => Sys2Proof.Machine.execSwadd w s
  | .pcfg w => Sys2Proof.Machine.execPcfg w s
  | .pgo w => Sys2Proof.Machine.execPgo w s
  | .pstop w => Sys2Proof.Machine.execPstop w s
  | .pflush w => Sys2Proof.Machine.execPflush w s
  | .wcfg w => Sys2Proof.Machine.execWcfg w s
  | .wadv w => Sys2Proof.Machine.execWadv w s
  | .wrel w => Sys2Proof.Machine.execWrel w s
  | .cpy w => Sys2Proof.Machine.execCpy w s
  | .cpy2 w => Sys2Proof.Machine.execCpy2 w s
  | .cpy3 w => Sys2Proof.Machine.execCpy3 w s
  | .cpysw w => Sys2Proof.Machine.execCpysw w s
  | .cbat w => Sys2Proof.Machine.execCbat w s
  | .waitn w => Sys2Proof.Machine.execWaitn w s
  | .pref w => Sys2Proof.Machine.execPref w s
  | .enq w => Sys2Proof.Machine.execEnq w s
  | .deq w => Sys2Proof.Machine.execDeq w s
  | .tierin w => Sys2Proof.Machine.execTierin w s
  | .tierq w => Sys2Proof.Machine.execTierq w s
  | .tierev w => Sys2Proof.Machine.execTierev w s
  | .vadd w => Sys2Proof.Machine.execVadd w s
  | .vsub w => Sys2Proof.Machine.execVsub w s
  | .vmul w => Sys2Proof.Machine.execVmul w s
  | .vfma w => Sys2Proof.Machine.execVfma w s
  | .vfms w => Sys2Proof.Machine.execVfms w s
  | .vmin w => Sys2Proof.Machine.execVmin w s
  | .vmax w => Sys2Proof.Machine.execVmax w s
  | .vabs w => Sys2Proof.Machine.execVabs w s
  | .vneg w => Sys2Proof.Machine.execVneg w s
  | .vabd w => Sys2Proof.Machine.execVabd w s
  | .vcmp w => Sys2Proof.Machine.execVcmp w s
  | .vand w => Sys2Proof.Machine.execVand w s
  | .vor w => Sys2Proof.Machine.execVor w s
  | .vxor w => Sys2Proof.Machine.execVxor w s
  | .vnot w => Sys2Proof.Machine.execVnot w s
  | .vshl w => Sys2Proof.Machine.execVshl w s
  | .vshr w => Sys2Proof.Machine.execVshr w s
  | .vsra w => Sys2Proof.Machine.execVsra w s
  | .vsel w => Sys2Proof.Machine.execVsel w s
  | .vcvt w => Sys2Proof.Machine.execVcvt w s
  | .vcvts w => Sys2Proof.Machine.execVcvts w s
  | .vpack w => Sys2Proof.Machine.execVpack w s
  | .vunpk w => Sys2Proof.Machine.execVunpk w s
  | .vqi4x w => Sys2Proof.Machine.execVqi4x w s
  | .vmov w => Sys2Proof.Machine.execVmov w s
  | .vbcst w => Sys2Proof.Machine.execVbcst w s
  | .vins w => Sys2Proof.Machine.execVins w s
  | .vext w => Sys2Proof.Machine.execVext w s
  | .vidx w => Sys2Proof.Machine.execVidx w s
  | .vrotr w => Sys2Proof.Machine.execVrotr w s
  | .vrotc w => Sys2Proof.Machine.execVrotc w s
  | .vbcr w => Sys2Proof.Machine.execVbcr w s
  | .vbcc w => Sys2Proof.Machine.execVbcc w s
  | .vredr w => Sys2Proof.Machine.execVredr w s
  | .vredc w => Sys2Proof.Machine.execVredc w s
  | .vtrn w => Sys2Proof.Machine.execVtrn w s
  | .vperm w => Sys2Proof.Machine.execVperm w s
  | .vexp2 w => Sys2Proof.Machine.execVexp2 w s
  | .vexp w => Sys2Proof.Machine.execVexp w s
  | .vlog2 w => Sys2Proof.Machine.execVlog2 w s
  | .vrcp w => Sys2Proof.Machine.execVrcp w s
  | .vrsq w => Sys2Proof.Machine.execVrsq w s
  | .vsqrt w => Sys2Proof.Machine.execVsqrt w s
  | .vtanh w => Sys2Proof.Machine.execVtanh w s
  | .vsigm w => Sys2Proof.Machine.execVsigm w s
  | .vsilu w => Sys2Proof.Machine.execVsilu w s
  | .vgelu w => Sys2Proof.Machine.execVgelu w s
  | .vrope w => Sys2Proof.Machine.execVrope w s
  | .vsmerge w => Sys2Proof.Machine.execVsmerge w s
  | .vclmulL w => Sys2Proof.Machine.execVclmulL w s
  | .vclmulH w => Sys2Proof.Machine.execVclmulH w s
  | .vpopc w => Sys2Proof.Machine.execVpopc w s
  | .vclz w => Sys2Proof.Machine.execVclz w s
  | .vrand w => Sys2Proof.Machine.execVrand w s
  | .rngkey w => Sys2Proof.Machine.execRngkey w s
  | .mand w => Sys2Proof.Machine.execMand w s
  | .mor w => Sys2Proof.Machine.execMor w s
  | .mxor w => Sys2Proof.Machine.execMxor w s
  | .mnot w => Sys2Proof.Machine.execMnot w s
  | .mset w => Sys2Proof.Machine.execMset w s
  | .mcnt w => Sys2Proof.Machine.execMcnt w s
  | .mfirst w => Sys2Proof.Machine.execMfirst w s
  | .mma w => Sys2Proof.Machine.execMma w s
  | .mmas w => Sys2Proof.Machine.execMmas w s
  | .mmaf w => Sys2Proof.Machine.execMmaf w s
  | .mmat w => Sys2Proof.Machine.execMmat w s
  | .mclr w => Sys2Proof.Machine.execMclr w s
  | .anch w => Sys2Proof.Machine.execAnch w s
  | .ashf w => Sys2Proof.Machine.execAshf w s
  | .aaddv w => Sys2Proof.Machine.execAaddv w s
  | .aaddAcc w => Sys2Proof.Machine.execAaddAcc w s
  | .asub w => Sys2Proof.Machine.execAsub w s
  | .amov w => Sys2Proof.Machine.execAmov w s
  | .acan w => Sys2Proof.Machine.execAcan w s
  | .rslv w => Sys2Proof.Machine.execRslv w s
  | .acmp w => Sys2Proof.Machine.execAcmp w s
  | .aexn w => Sys2Proof.Machine.execAexn w s
  | .astr w => Sys2Proof.Machine.execAstr w s
  | .astc w => Sys2Proof.Machine.execAstc w s
  | .aldr w => Sys2Proof.Machine.execAldr w s
  | .aldc w => Sys2Proof.Machine.execAldc w s
  | .setrm w => Sys2Proof.Machine.execSetrm w s
  | .fmtt w => Sys2Proof.Machine.execFmtt w s
  | .attn w => Sys2Proof.Machine.execAttn w s
  | .attnm w => Sys2Proof.Machine.execAttnm w s
  | .kvnew w => Sys2Proof.Machine.execKvnew w s
  | .kvfree w => Sys2Proof.Machine.execKvfree w s
  | .kvfork w => Sys2Proof.Machine.execKvfork w s
  | .kvshare w => Sys2Proof.Machine.execKvshare w s
  | .kvstat w => Sys2Proof.Machine.execKvstat w s
  | .kvw w => Sys2Proof.Machine.execKvw w s
  | .kvrnw w => Sys2Proof.Machine.execKvrnw w s
  | .kvexp w => Sys2Proof.Machine.execKvexp w s
  | .kvadv w => Sys2Proof.Machine.execKvadv w s
  | .kvcmt w => Sys2Proof.Machine.execKvcmt w s
  | .kvrwd w => Sys2Proof.Machine.execKvrwd w s
  | .smin w => Sys2Proof.Machine.execSmin w s
  | .smout w => Sys2Proof.Machine.execSmout w s
  | .sminv w => Sys2Proof.Machine.execSminv w s
  | .slabgr w => Sys2Proof.Machine.execSlabgr w s
  | .xopen w => Sys2Proof.Machine.execXopen w s
  | .xgrant w => Sys2Proof.Machine.execXgrant w s
  | .xsend w => Sys2Proof.Machine.execXsend w s
  | .xrecv w => Sys2Proof.Machine.execXrecv w s
  | .xclose w => Sys2Proof.Machine.execXclose w s
  | .xstat w => Sys2Proof.Machine.execXstat w s
  | .pancfg w => Sys2Proof.Machine.execPancfg w s
  | .pancfgRel w => Sys2Proof.Machine.execPancfgRel w s
  | .panrd w => Sys2Proof.Machine.execPanrd w s
  | .cntrd w => Sys2Proof.Machine.execCntrd w s
  | .cntclr w => Sys2Proof.Machine.execCntclr w s
  | .invtlb w => Sys2Proof.Machine.execInvtlb w s
  | .pmcrd w => Sys2Proof.Machine.execPmcrd w s
  | .resultLands => Sys2Proof.Machine.execResultLands s
  | .loadDataReturn id => Sys2Proof.Machine.execLoadDataReturn id s
  | .storePerform id => Sys2Proof.Machine.execStorePerform id s
  | .atomicPerform id => Sys2Proof.Machine.execAtomicPerform id s
  | .sectionEntry k => Sys2Proof.Machine.execSectionEntry k s
  | .sectionRetire k => Sys2Proof.Machine.execSectionRetire k s
  | .rdzJoin => Sys2Proof.Machine.execRdzJoin s
  | .streamDeadlock => Sys2Proof.Machine.execStreamDeadlock s
  | .jobComplete => Sys2Proof.Machine.execJobComplete s
  | .eventTaken k => Sys2Proof.Machine.execEventTaken k s
  | .tileLoadComplete id row => Sys2Proof.Machine.execTileLoadComplete id row s
  | .gatherComplete id => Sys2Proof.Machine.execGatherComplete id s
  | .rakeRowPerform id row => Sys2Proof.Machine.execRakeRowPerform id row s
  | .swwaitComplete => Sys2Proof.Machine.execSwwaitComplete s
  | .windowFetchPerform id row => Sys2Proof.Machine.execWindowFetchPerform id row s
  | .pgenTilePush port => Sys2Proof.Machine.execPgenTilePush port s
  | .mailboxCommand die queue => Sys2Proof.Machine.execMailboxCommand die queue s
  | .tierMigrationComplete id => Sys2Proof.Machine.execTierMigrationComplete id s
  | .contextAreaClearDone die ctx => Sys2Proof.Machine.execContextAreaClearDone die ctx s
  | .kvwComplete die id => Sys2Proof.Machine.execKvwComplete die id s
  | .forkCopyDone die ctx => Sys2Proof.Machine.execForkCopyDone die ctx s
  | .kvCommandApply die id => Sys2Proof.Machine.execKvCommandApply die id s
  | .orreryReclaimStep die ctx => Sys2Proof.Machine.execOrreryReclaimStep die ctx s
  | .orreryReleaseStep die ctx => Sys2Proof.Machine.execOrreryReleaseStep die ctx s
  | .slabPageMove die ctx => Sys2Proof.Machine.execSlabPageMove die ctx s
  | .attnPageCompute die id => Sys2Proof.Machine.execAttnPageCompute die id s
  | .attnComplete die id => Sys2Proof.Machine.execAttnComplete die id s
  | .channelMatch die num => Sys2Proof.Machine.execChannelMatch die num s
  | .permitArrive die num => Sys2Proof.Machine.execPermitArrive die num s
  | .setArrived die num => Sys2Proof.Machine.execSetArrived die num s
  | .bridgeBeatReplay die num => Sys2Proof.Machine.execBridgeBeatReplay die num s
  | .bridgeRetrain adie fdie => Sys2Proof.Machine.execBridgeRetrain adie fdie s
  | .xcloseComplete die num => Sys2Proof.Machine.execXcloseComplete die num s
  | .panStoreObserve die => Sys2Proof.Machine.execPanStoreObserve die s
  | .launchTake die node => Sys2Proof.Machine.execLaunchTake die node s
  | .tailxWrite node value => Sys2Proof.Machine.execTailxWrite node value s
  | .gangPlace die => Sys2Proof.Machine.execGangPlace die s
  | .sliceEnd die => Sys2Proof.Machine.execSliceEnd die s
  | .preemptStop lrec gang => Sys2Proof.Machine.execPreemptStop lrec gang s
  | .gangSaveComplete lrec gang => Sys2Proof.Machine.execGangSaveComplete lrec gang s
  | .launchComplete lrec => Sys2Proof.Machine.execLaunchComplete lrec s
  | .powerGood => Sys2Proof.Machine.execPowerGood s
  | .phaseComplete failed refuse => Sys2Proof.Machine.execPhaseComplete failed refuse s
  | .phaseTimeout => Sys2Proof.Machine.execPhaseTimeout s
  | .deviceReset => Sys2Proof.Machine.execDeviceReset s
  | .firmwareUpdate image sig => Sys2Proof.Machine.execFirmwareUpdate image sig s
  | .cxlMemRead addr len => Sys2Proof.Machine.execCxlMemRead addr len s
  | .cxlMemWrite addr bytes => Sys2Proof.Machine.execCxlMemWrite addr bytes s
  | .ideEstablished => Sys2Proof.Machine.execIdeEstablished s
  | .ideKeyRefresh => Sys2Proof.Machine.execIdeKeyRefresh s
  | .ideIntegrityFail => Sys2Proof.Machine.execIdeIntegrityFail s
  | .ideerrClear value => Sys2Proof.Machine.execIdeerrClear value s
  | .registerWrite offset value => Sys2Proof.Machine.execRegisterWrite offset value s
  | .rootWrite offset value => Sys2Proof.Machine.execRootWrite offset value s
  | .preqGo offset value => Sys2Proof.Machine.execPreqGo offset value s
  | .preqCancel offset value => Sys2Proof.Machine.execPreqCancel offset value s
  | .preqResume offset value => Sys2Proof.Machine.execPreqResume offset value s
  | .tlbinvWrite value => Sys2Proof.Machine.execTlbinvWrite value s
  | .tlbinvComplete => Sys2Proof.Machine.execTlbinvComplete s
  | .faqPop => Sys2Proof.Machine.execFaqPop s
  | .hbmErrorReport dpa type => Sys2Proof.Machine.execHbmErrorReport dpa type s
  | .retireRemap value => Sys2Proof.Machine.execRetireRemap value s
  | .retireExclude value => Sys2Proof.Machine.execRetireExclude value s
  | .retireComplete => Sys2Proof.Machine.execRetireComplete s
  | .rowctlWrite value => Sys2Proof.Machine.execRowctlWrite value s
  | .rowActivation dpa => Sys2Proof.Machine.execRowActivation dpa s
  | .refreshManagement bank => Sys2Proof.Machine.execRefreshManagement bank s
  | .backoffEnd bank => Sys2Proof.Machine.execBackoffEnd bank s
  | .periodicRefresh bank row => Sys2Proof.Machine.execPeriodicRefresh bank row s
  | .flashRebuild page rebuilt => Sys2Proof.Machine.execFlashRebuild page rebuilt s
  | .watchdogWrite die => Sys2Proof.Machine.execWatchdogWrite die s
  | .watchdogExpire die => Sys2Proof.Machine.execWatchdogExpire die s
  | .cdisWrite die value => Sys2Proof.Machine.execCdisWrite die value s
  | .prepare die m => Sys2Proof.Machine.execPrepare die m s
  | .ack die iter => Sys2Proof.Machine.execAck die iter s
  | .nack die iter => Sys2Proof.Machine.execNack die iter s
  | .commit die m => Sys2Proof.Machine.execCommit die m s
  | .abort die m => Sys2Proof.Machine.execAbort die m s
  | .almanacAckTimeout => Sys2Proof.Machine.execAlmanacAckTimeout s
  | .flitReceive port flit => Sys2Proof.Machine.execFlitReceive port flit s
  | .nakReceive port seq => Sys2Proof.Machine.execNakReceive port seq s
  | .portRetrain port trained => Sys2Proof.Machine.execPortRetrain port trained s
  | .laneDrop port lane => Sys2Proof.Machine.execLaneDrop port lane s
  | .laneWidthSwitch port => Sys2Proof.Machine.execLaneWidthSwitch port s
  | .topoLoad value => Sys2Proof.Machine.execTopoLoad value s
  | .topoLoadComplete => Sys2Proof.Machine.execTopoLoadComplete s
  | .colqSubmit value => Sys2Proof.Machine.execColqSubmit value s
  | .ringStep item triple => Sys2Proof.Machine.execRingStep item triple s
  | .collectiveComplete => Sys2Proof.Machine.execCollectiveComplete s
  | .getVersion => Sys2Proof.Machine.execGetVersion s
  | .getCapabilities => Sys2Proof.Machine.execGetCapabilities s
  | .negotiateAlgorithms mldsa65 shake256 => Sys2Proof.Machine.execNegotiateAlgorithms mldsa65 shake256 s
  | .getDigests => Sys2Proof.Machine.execGetDigests s
  | .getCertificate slot => Sys2Proof.Machine.execGetCertificate slot s
  | .challenge nonce => Sys2Proof.Machine.execChallenge nonce s
  | .getMeasurements => Sys2Proof.Machine.execGetMeasurements s
  | .keyExchange share => Sys2Proof.Machine.execKeyExchange share s
  | .finish verified => Sys2Proof.Machine.execFinish verified s
  | .keyUpdate => Sys2Proof.Machine.execKeyUpdate s
  | .endSession => Sys2Proof.Machine.execEndSession s
  | .sharedInfrastructureMachineCheck die => Sys2Proof.Machine.execSharedInfrastructureMachineCheck die s
  | .tileImageLoadComplete id => Sys2Proof.Machine.execTileImageLoadComplete id s
  | .orreryBatchPerformed die id => Sys2Proof.Machine.execOrreryBatchPerformed die id s

end Sys2Proof.Machine
end

