-- ==== Sys2Proof/Machine/Step.lean ====
section
/-!
DEFINITION. One step of the machine: the head of the agenda, else the turn that stands (log entry 3); and the placing of one
word where the next step fetches.
-/

namespace Sys2Proof.Machine

/-- A stream issues the word at its pc (R166, R169, R174). -/
def State.issueWord (s : State) (k : Strm) : Host.Outcome State Fault Refusal :=
  match s.fetchInstr k with
  | .ok i => exec i { s with cur := k }
  | .error h => outcomeOf s k (.error h)

/-- A stream's turn: an event comes before the first word of a section it has entered (R198, R200). -/
def State.issue (s : State) (k : Strm) : Host.Outcome State Fault Refusal :=
  match s.issueKind k with
  | .idle => .next s
  | .event => execEventTaken k s
  | .watch => execSwwaitComplete { s with cur := k }
  | .enter =>
    match execSectionEntry k s with
    | .next t => if t.takeable k then execEventTaken k t else if t.inside k then t.issueWord k else .next t
    | o => o
  | .word => s.issueWord k

/-- One turn of the device with nothing on the agenda. -/
def State.turnStep (s : State) : Host.Outcome State Fault Refusal :=
  let s1 : State := { s with turn := s.turn.after }
  match s.turn with
  | .land => execResultLands s1
  | .issue k => s1.issue k
  | .served => .next s1.serveCore
  | .engine => (s.nextAct).getD (.next s1)
  | .rotate => .next s1.rotate

/-- One step: the next step the agenda names, or the turn's. -/
def step (s : State) : Host.Outcome State Fault Refusal :=
  match s.agenda with
  | i :: r => exec i { s with agenda := r }
  | [] => s.turnStep

/-- The stream a word is issued by: one it is legal in. -/
def streamFor (nbits w : Nat) : Strm :=
  match decodeTableWord nbits w with
  | some i => match instrShape i with | some h => h.streams.headD .a | none => .a
  | none => .a

/-- A running job whose stream `k` stands at a word in the scratchpad window, and its code there. -/
def Core.atWord (c : Core) (k : Strm) (w : Nat) : Core :=
  let va : Word := BitVec.ofNat 64 winLo
  let d := { c with running := true, stopReq := false, turnAt := 0, viewAt := 0, code := memWrite [] (scratchKey c.clusterIx (winLo + 8)) (leBytes 12 w) }
  d.setStrm k { (d.strm k) with
    pc := va + 8, atHdr := false, secBase := va, secLen := 1, entered := true, stopped := false, atRdz := false
    handler := false, held := [], nextIssue := 0, swwait := none, stepped := false, sent := none, desc := none }

/-- The state whose next step fetches and runs a given word (log entry 4). -/
def State.withFetchWord (s : State) (nbits w : Nat) : State :=
  { s with core := s.core.atWord (streamFor nbits w) (w % 2 ^ 96), agenda := [], turn := .issue (streamFor nbits w) }

end Sys2Proof.Machine
end

