-- ==== Sys2Proof/Safety.lean ====
section
/-!
DEFINITION. What counts as a safe run, and the terms the statements use: when a word may issue, what it takes and gives, what a
step leaves alone.
-/

namespace Sys2Proof.Machine

/-! ### Safe runs -/

/-- A step goes on: the machine neither stops with a fault of the model nor refuses. The device's own faults go on (R352). -/
def State.goesOn (s : State) : Prop := ∃ t, step s = .next t

/-- Memory stands in its canonical form (log entry 2). -/
def State.memOk (s : State) : Prop := Memory.wf s.mem = true

/-! ### A word issues -/

/-- Rows 2 to 6 of R174 pass and the await field is satisfied (R97, R174). -/
def State.legal (s : State) (h : Shape) : Prop := s.static h = .ok () ∧ s.await h.hd = .ok ()

/-- A word of shape `h` is legal, and its scalar and queue sources can be read: `a`, `b`, `c`, leaving `t` (R30, R174, R180). -/
def State.takes (s : State) (h : Shape) (a b c : Word) (t : State) : Prop :=
  s.legal h ∧ s.sources h = .ok ((a, b, c), t)

/-- As `takes`, where the word of shape `h` reads only the sources of shape `g` at once (R215, R216). -/
def State.takesOf (s : State) (h g : Shape) (a b c : Word) (t : State) : Prop :=
  s.legal h ∧ s.sources g = .ok ((a, b, c), t)

/-- The destination accepts `v`, readable `cost` cycles later, leaving `t` (R37, R38, R182). -/
def State.gives (s : State) (d : OpField) (v : Word) (cost : Nat) (t : State) : Prop := s.writeS d v cost = .ok t

/-- The value a scalar or queue gives, or the reason it gives none (R37, R38). -/
def State.readsAs (s : State) (f : OpField) : Res Word := (s.readS f).map fun r => r.1

/-- D and the sources are scalars or queues, or unused (R180). -/
def Shape.scalarOnly (h : Shape) : Prop :=
  (h.d = .sDst ∨ h.d = .sReg ∨ h.d = .qDst) ∧ ∀ k ∈ [h.a, h.b, h.c], k = .none ∨ k = .sSrc ∨ k = .sReg ∨ k = .qSrc

/-- A word of shape `h` has been sent to engine `e` and is accepted now: its sources give `a`, `b`, `c`, leaving `t`, in which the engine
takes its next command a cycle later (R283, R286). -/
def State.takesBy (s : State) (e : Engine) (h : Shape) (a b c : Word) (t : State) : Prop :=
  ∃ u n, s.takes h a b c u ∧ s.strm.sent = some n ∧ s.mayAccept e n = true ∧ t = u.updDie s.core.did fun d => d.accepts e (s.now + 1)

/-- The word's operation has a batch to join: it names no token, or fewer than 255 batches of it are outstanding (R40, R96). -/
def State.batchRoom (s : State) (w : Wm) : Prop := w.tke = true → (s.strm.token w.tk.toNat).room w.opn = true

/-- The batch an operation joins: none without a token, else one of the word's token in its stream (R96). -/
def State.joinsBatch (s : State) (w : Wm) (tok : Option TokRef) : Prop :=
  (w.tke = false → tok = none) ∧ (w.tke = true → ∃ r, tok = some r ∧ r.strm = s.cur ∧ r.tok = w.tk.toNat)

/-- A word of one scalar result: wherever it is legal, its sources can be read and its destination takes the value `f` gives, it
completes, the pc past it and the next word `1` cycle on (R174, R180, R182). -/
def ScalarResult (i : Instr) (h : Shape) (cost : Nat) (f : Word → Word → Word → Word) : Prop :=
  ∀ s a b c t u, s.takes h a b c t → t.gives h.hd.d (f a b c) cost u → exec i s = .next (u.retire 1)

/-- A word ends in `t`, the pc then past it and the next word `cost` cycles on; `P` says what `t` holds (R166, R182). -/
def Retires (i : Instr) (s : State) (cost : Nat) (P : State → Prop) : Prop := ∃ t, exec i s = .next (t.retire cost) ∧ P t

/-- A step ends in a state of which `P` holds. -/
def Ends (i : Instr) (s : State) (P : State → Prop) : Prop := ∃ t, exec i s = .next t ∧ P t

/-- A step ends with the fault `f` taken. -/
def Faults (i : Instr) (s : State) (f : FaultInfo) : Prop := exec i s = .next (s.raise f)

/-- A vector word of shape `h` is legal, its sources give `x`, leaving `t`, the vector unit is free and no shadow bit stops it (R9, R48, R174, R237
to R242). -/
def State.vready (s : State) (h : Shape) (x : VIn) (t : State) : Prop :=
  s.legal h ∧ s.vread h = .ok (x, t) ∧ s.core.vbusy ≤ s.now ∧ s.shadow h = .ok ()

/-- The vector unit held until a cycle (R242). -/
def State.holdV (t : State) (until_ : Nat) : State := t.updC fun c => { c with vbusy := until_ }

/-- A vector word of element results: wherever it is legal, its operands can be read, `ok` holds of them and the unit is free, it
completes, the elements `f` gives to land `lat` cycles later under the predicate, the unit held `occ` cycles (R238 to R242). -/
def VectorResult (i : Instr) (w : Wt) (h : Shape) (occ lat : Nat) (t : ETy) (ok : VIn → Prop)
    (f : State → VIn → Nat → Nat → Option Rounded) : Prop :=
  ∀ s x t1 u, s.vready h x t1 → ok x → (t1.holdV (s.now + occ)).putElems t w.d x.p lat (f s x) = .ok u → exec i s = .next (u.retire 1)

/-- An exact element without an event. -/
def exactly (b : Nat) : Option Rounded := some { bits := b, events := [] }

/-- A word of M of shape `h` is legal, its sources give `x`, no image is being loaded into a tile it names, and the unit it needs is free and
taken, leaving `u` (R9, R174, R260 to R264). -/
def State.mready (s : State) (h : Shape) (unit : MUnit) (x : VIn) (u : State) : Prop :=
  ∃ t, s.legal h ∧ s.vread h = .ok (x, t) ∧ s.shadow h = .ok () ∧ (∀ c ∈ h.tiles, s.tileLoading c = false) ∧
    t.takeUnit unit = .ok u

/-- A word of M ends with one write in flight, due `lat` cycles on. -/
def Lands (i : Instr) (s u : State) (lat : Nat) (e : PEff) (events : List Nat) : Prop :=
  exec i s = .next ((u.pend lat e events).retire 1)

/-- The floor of a finite value at the anchor's scale, as a number of 2^(a - 64) (R66). -/
def floorAt (a : Int) (v : FVal) : Int :=
  match v with
  | .fin neg m e => (if neg then -(m : Int) else m) * (2 ^ (e + 64 - a).toNat : Nat) / (2 ^ (a - 64 - e).toNat : Nat)
  | _ => 0

/-- D takes a result now: its scalar awaits none, its queue has room (R37, R38). -/
def State.open_ (s : State) (d : OpField) : Prop := ∃ t, s.writeS d 0 1 = .ok t

/-- The scalar a D field names holds a value; s0 and a queue aside (R37). -/
def State.gave (s t : State) (d : OpField) (v : Word) : Prop := isS d = true → d.toNat ≠ 696 → (t.core.strm s.cur).sreg (d.toNat - 696) = v

/-- The stream's earlier accesses of the word's class have performed (R103). -/
def State.classDone (s : State) (w : Wm) : Prop := ∀ o ∈ s.core.ops, o.strm = s.cur → o.cls ≠ w.cls.toNat

/-- The Orrery takes a command on context `c`: the contexts `cs` are swapped in, the word joins its batch, reserves its result and ends; the
command stands behind those that hold it back, or is applied at once. Where the maps do not fit, it ends with status 3 and swaps nothing in.
It completes wherever the contexts are there, its token has room for a batch and D can take a result (R141, R142, R145, R283). -/
def Accepts (i : Instr) (s t : State) (w : Wm) (c : Ctx) (cmd : DestRef → KCmd) (result : Bool) (cs : List Ctx) (counted : Bool) : Prop :=
  (∀ (tok : Option TokRef) (x u : State) (d : SDest) (v : State), x.joinW w = .ok (tok, u) →
    (if result then u.reserveS w.d = .ok (d, v) else d = .none ∧ v = u) →
    (t.mapFull cs = false → t.swapIn cs counted = .ok x → exec i s = .next ((v.addK w tok c.num (cmd (t.destRef d))).retire 1)) ∧
    (t.mapFull cs = true → x = t → exec i s = .next (((v.deliver (t.destRef d) (statusWord 3 0)).endOp tok none).retire 1))) ∧
  ((∀ y ∈ cs, y.hot = true) → t.batchRoom w → (result = true → t.open_ w.d) →
    ∃ (tok : Option TokRef) (d : SDest) (v : State), exec i s = .next ((v.addK w tok c.num (cmd (t.destRef d))).retire 1))

/-! ### What is left alone -/

/-- Everything outside the core under view is unchanged. -/
def State.sameOutside (s t : State) : Prop := { t with core := s.core } = s

/-- Every byte of memory reads as before. -/
def State.sameMemory (s t : State) : Prop := ∀ key, t.byte key = s.byte key

/-- Every byte outside `n` bytes at `lo` reads as before. -/
def State.sameMemoryBut (lo n : Nat) (s t : State) : Prop := ∀ key, key < lo ∨ lo + n ≤ key → t.byte key = s.byte key

/-- A core is unchanged but for its scalar queues and one stream. -/
def Core.sameBut (k : Strm) (c d : Core) : Prop := { d.setStrm k (c.strm k) with queues := c.queues } = c

/-- A stream is unchanged but for its scalars and where it stands: pc, section, the cycle it issues next, whether its word has been issued
under STEP, and what its word waited for. -/
def StrmSt.sameBut (x y : StrmSt) : Prop :=
  { y with sregs := x.sregs, ready := x.ready, pc := x.pc, atHdr := x.atHdr, entIdx := x.entIdx, entered := x.entered
           left := x.left, secDue := x.secDue, nextIssue := x.nextIssue, stepped := x.stepped, sent := x.sent, desc := x.desc } = x

/-- The other scalars of a stream read as before (R37). -/
def StrmSt.sameScalars (n : Nat) (x y : StrmSt) : Prop := ∀ m, m ≠ n → y.sreg m = x.sreg m

/-- Memory, vector registers, masks, tiles, the generator, the per-job registers, the other cores and the launches are as before. -/
def State.sameData (s t : State) : Prop :=
  t.mem = s.mem ∧ t.poison = s.poison ∧ t.core.vregs = s.core.vregs ∧ t.core.masks = s.core.masks ∧ t.core.tiles = s.core.tiles ∧
  t.core.rng = s.core.rng ∧ t.core.jobv = s.core.jobv ∧ t.parked = s.parked ∧ t.launches = s.launches ∧ t.host = s.host

/-- As `sameData`, the rows aside that the walks for some addresses open, whose alert may post a record (R323, R354). -/
def State.sameDataAt (s t : State) (vas : List Nat) : Prop := (s.fillTlbs vas).sameData t

/-- A row that a step opened has raised an alert, which may post a record (R323, R359). -/
def State.alerted (s t : State) : Prop := ∃ b, (Sparse.get s.banks b).alerts < (Sparse.get t.banks b).alerts

/-- Every scalar of every stream reads as before, but the one a field names in the issuing stream. -/
def State.sameScalarsBut (s t : State) (d : OpField) : Prop :=
  ∀ k n, (k ≠ s.cur ∨ 696 + n ≠ d.toNat) → (t.core.strm k).sreg n = (s.core.strm k).sreg n

/-- Every scalar of every stream reads as before. -/
def State.sameScalars (s t : State) : Prop := ∀ k, (t.core.strm k).sregs = (s.core.strm k).sregs

/-! ### Frames -/

/-- The gang of the core under view still runs: no fault, no stop. -/
def State.runsOn (s t : State) : Prop := t.core.inGang s.core.lrec s.core.gangNo = true ∧ t.core.stopReq = false

/-- The OP of an encoded instruction. -/
def opOf (i : Instr) : Option Nat := i.code.map (·.1)

/-- An instruction that a word encodes. -/
def isWord (i : Instr) : Prop := i.code.isSome = true

/-- The number of the scalar a D field names, if it names one other than s0. -/
def destScalar (i : Instr) (n : Nat) : Prop := ∃ h, instrShape i = some h ∧ h.hd.d.toNat = 696 + n

/-! ### Memory -/

/-- The memory port is free for a user for `n` cycles, and nobody who came before it waits for it (R9, R22; log entry 47). -/
def State.portOpen (s : State) (u : PortUser) (n : Nat) : Prop :=
  (s.core.portBusy ≤ s.now ∨ s.now + n ≤ s.core.portFrom) ∧ ∀ q, (s.core.portQ.filter fun q => decide (s.now ≤ q.2 + 1)).head? = some q → q.1 = u

/-- The number at a key is a little-endian image of `n` bytes. -/
def State.holds (s : State) (key : Nat) (bs : List Byte) : Prop := s.bytesAt key bs.length = bs

/-- A range of `n` bytes that writes reach: no byte of it lies in a fenced die or an excluded frame. -/
def State.alive (s : State) (key n : Nat) : Prop := ∀ i < n, s.hbmDead (key + i) = false

/-- The addresses of an access of `n` bytes lie in the map and do not straddle the window's end, and it is aligned to `al` (R82,
R86, R208). -/
def addrOk (ea n al : Nat) : Prop := ea < 2 ^ 52 ∧ (resHi ≤ ea ∨ ea + n ≤ winHi) ∧ ea % al = 0

/-- One access more stands in the core's list, issued by the stream `s` has under view; `vas` gives the address of each of its rows or
lanes. -/
def State.issuedAt (s t : State) (cls : Nat) (kinds : BitVec 6) (va : Nat) (vas : List (Nat × Nat)) (body : MBody) (tok : Option TokRef)
    (wait : Nat) : Prop :=
  ∃ id, t.core.ops = s.core.ops ++
    [{ id := id, strm := s.cur, cls := cls, kinds := kinds, va := va, vas := vas, body := body, tok := tok, notBefore := s.now + wait
       blocked := [], shd := s.keepsBits, pc := s.strm.pc }]

/-- The same, of an access at one address. -/
def State.issued (s t : State) (cls : Nat) (kinds : BitVec 6) (va : Nat) (body : MBody) (tok : Option TokRef) (wait : Nat) : Prop :=
  s.issuedAt t cls kinds va [(0, va)] body tok wait

/-- Nothing at a key holds an access back: the host link stands, no migration and no remap has its page, its stripe is free, its bank is in
no back-off (R84, R85, R324, R331, R357). -/
def State.flows (s : State) (key : Nat) : Prop :=
  s.linkDown key = false ∧ s.migHeld key = false ∧ s.stripeBusy key = false ∧ s.backedOff key = false

/-- An access stands in the list; of its parts that `pick` allows, `p` is the first that is the oldest of its stream and class, whose time has come
and that nothing at its keys holds back; no failed link refuses any of them (R84, R100, R324, R330, R331). -/
def State.performs (s : State) (o : MOp) (pick : Part → Bool) (p : Part) : Prop :=
  (s.core.ops.find? fun x => x.id == o.id) = some o ∧
  (∀ q ∈ o.body.parts, pick q = true → ∀ k ∈ q.reads ++ q.writes, s.linkFailed k = false) ∧
  (o.body.parts.find? fun q => pick q && s.canPerform o q && s.gate q.reads q.writes == .go) = some p

/-- An access of one part performs. -/
def State.performsWhole (s : State) (o : MOp) : Prop := ∃ p, s.performs o (fun _ => true) p

/-- An operation that carries a token has ended: its batch holds one operation less, with the error that ended it, if any (R96, R211). -/
def State.leaves (s t : State) (tok : Option TokRef) (err : Option FaultInfo) : Prop :=
  ∀ r, tok = some r → s.core.holds r.lrec r.job = true →
    (t.core.strm r.strm).token r.tok = ((s.core.strm r.strm).token r.tok).perform r.batch err

/-- An access leaves the list; memory but `n` bytes at `lo` is as the row's opening left it. -/
def State.performed (s t : State) (o : MOp) (key lo n : Nat) : Prop :=
  (s.touchRow key).sameMemoryBut lo n t ∧ ∀ x ∈ t.core.ops, x.id ≠ o.id

/-- The tile addresses of a tile access: sixteen rows a register, `stride` apart, each valid and translated (R208, R215). -/
def State.rowsAt (s : State) (acc : Acc) (ea stride : Word) (n : Nat) (rows : List (Nat × Nat)) : Prop :=
  rows.map (·.1) = List.range n ∧ ∀ p ∈ rows, let va := (ea + BitVec.ofNat 64 p.1 * stride).toNat
    va < 2 ^ 52 ∧ (resHi ≤ va ∨ va + 128 ≤ winHi) ∧ s.xlate va acc = .ok p.2

/-- The 64 bytes of a descriptor, read: its address is valid, aligned and translated, and the load the word issued for it has delivered
them (R100, R208, R210). -/
def State.descAt (s : State) (w : Wm) (a : Word) (bs : List Byte) : Prop :=
  let ea := (a + w.disp.signExtend 64).toNat
  ∃ key id, addrOk ea 64 64 ∧ s.xlate ea .rd = .ok key ∧ s.strm.desc = some { id := id, data := some (.ok bs) }

/-- The limits of a generator's descriptor (R223). -/
def pagLimits (bs : List Byte) : Prop :=
  fieldNat bs 0 8 % 128 = 0 ∧ fieldInt bs 8 8 % 128 = 0 ∧ fieldInt bs 32 8 % 128 = 0 ∧ fieldInt bs 40 8 % 128 = 0 ∧
  fieldInt bs 48 8 % 128 = 0 ∧ 0 < fieldNat bs 16 4 ∧ 0 < fieldNat bs 20 4 ∧ 0 < fieldNat bs 24 4 ∧
  fieldNat bs 16 4 * fieldNat bs 20 4 * fieldNat bs 24 4 < 2 ^ 32 ∧ fieldNat bs 28 4 = 0 ∧ fieldNat bs 56 8 = 0

/-- The limits of a window's descriptor (R91). -/
def winLimits (bs : List Byte) : Prop :=
  let ring := fieldNat bs 0 8
  let b := fieldNat bs 24 4
  let lk := fieldNat bs 36 1
  ring % 128 = 0 ∧ fieldNat bs 8 8 % 128 = 0 ∧ fieldInt bs 16 8 % 128 = 0 ∧ b % 128 = 0 ∧ 0 < b ∧ b ≤ 16384 ∧ 0 < lk ∧ lk ≤ 6 ∧
  2 ^ lk * b ≤ 2 ^ 20 ∧ winLo ≤ ring ∧ ring + 2 ^ lk * b ≤ winHi ∧ 0 < fieldNat bs 28 4 ∧ fieldNat bs 32 4 < fieldNat bs 28 4 ∧
  fieldNat bs 37 27 = 0

/-- A window as its descriptor gives it (R91). -/
def winSpec (bs : List Byte) : Win :=
  { ring := fieldNat bs 0 8, lk := fieldNat bs 36 1, bytes := fieldNat bs 24 4, tbase := fieldNat bs 8 8, stride := fieldInt bs 16 8
    rows := fieldNat bs 28 4, h := fieldNat bs 32 4 }

/-- The rows a window fetches: `n` tensor rows from `t`, each in 128-byte pieces, tensor row `r` in ring slot `r mod 2^lk`, from the
tensor, or zeros beyond its last row (R91). -/
def Win.fetches (w : Win) (t n : Nat) (l : List WPiece) : Prop :=
  l.map (·.ix) = List.range (n * (w.bytes / 128)) ∧ ∀ p ∈ l, ∃ r i, t ≤ r ∧ r < t + n ∧ i < w.bytes / 128 ∧
    p.dst = w.ring + r % 2 ^ w.lk * w.bytes + 128 * i ∧
    p.src = if r < w.rows then some (BitVec.ofInt 64 (w.tbase + r * w.stride + 128 * i)).toNat else none

/-! ### The spec's own arithmetic, in exact terms -/

/-- The exact value of a finite float. -/
def exactValue (v : FVal) : ℚ :=
  match v with
  | .fin neg m e => (if neg then -1 else 1) * (m : ℚ) * (2 : ℚ) ^ e
  | _ => 0

/-- The value a scalar load of `n` bytes delivers (R213). -/
def loadSpec (n : Nat) (signed : Bool) (v : Nat) : Word :=
  if signed then (BitVec.ofNat (8 * n) v).signExtend 64 else (BitVec.ofNat (8 * n) v).setWidth 64

/-- The value an atomic leaves in memory (R217). -/
def atomicSpec {w : Nat} (fn : Nat) (x b c : BitVec w) : BitVec w :=
  match fn with
  | 0 => x + b
  | 1 => x &&& b
  | 2 => x ||| b
  | 3 => x ^^^ b
  | 4 => if x.toInt ≤ b.toInt then x else b
  | 5 => if b.toInt ≤ x.toInt then x else b
  | 6 => if x.toNat ≤ b.toNat then x else b
  | 7 => if b.toNat ≤ x.toNat then x else b
  | 8 => b
  | _ => if x = c then b else x

/-- The order of a Pan shortlist: larger values first, equal ones by lower index (R300). -/
def shortBefore (p q : Nat × Nat) : Prop :=
  let o := cmpF (decodeFloat .fp32 p.2) (decodeFloat .fp32 q.2)
  o = some .gt ∨ (o = some .eq ∧ p.1 < q.1)

/-- Bit `n` of the carry-less product (R185). -/
def clmulBit (a b : Word) (n : Nat) : Bool :=
  (((List.range 64).filter fun i => decide (i ≤ n) && a.getLsbD i && b.getLsbD (n - i)).length % 2) == 1

end Sys2Proof.Machine
end

