-- ==== Sys2Proof/WellFormed.lean ====
section
/-!
DEFINITION. Which instructions are well formed: an encoded instruction some stream of some core may issue without a fault of
R174's rows 2 to 6, ports apart. A step of the device has no encoding to check.
-/

namespace Sys2Proof
open Machine

/-- Some stream on some kind of core, in the system view, accepts the word (R174). -/
def Instr.wellFormed (i : Instr) : Bool :=
  match instrShape i with
  | none => true
  | some h => allStrm.any fun k => h.legal k true true || h.legal k false true

end Sys2Proof
end

