-- ==== Sys2Proof/Certificates/Slice0/Obligations.lean ====
section
/-!
DEFINITION. The statements for the provers.
-/

open Sys2Proof Sys2Proof.Machine

/-! ### Encoding (07, R170 to R174) -/

/-- R170 to R172: the encoder gives every well-formed instruction twelve bytes, and the decoder reads them back as the instruction
they stand for, every operand at every value, whatever follows. -/
def Obligations.DecodeOfEncode : Prop := ∀ i : Instr, (instrShape i).isSome = true → i.wellFormed = true →
  ∃ bs, encode i = some bs ∧ bs.length = 12 ∧ ∀ rest, decodeBytes (bs ++ rest) = some (i, rest)

/-- R170 to R172: a word that decodes is the encoding of what it decodes to: no bit of it is lost. -/
def Obligations.EncodeOfDecode : Prop := ∀ (n : Nat) (i : Instr), n < 2 ^ 96 → decodeWord n = some i → encodeWord i = some n

/-- Words of the spec's own examples, written out, decode to the instructions they stand for; an unassigned OP or FN to none. -/
def Obligations.SpecWordsDecode : Prop :=
  (∃ w, decodeWord 0x05000AE80000000400000000 = some (.movi w) ∧ w.d = 698 ∧ w.imm.toNat = 0x400000000) ∧
  (∃ w, decodeWord 0x02000AEEBA00000000100000 = some (.addi w) ∧ w.d = 699 ∧ w.a = 698 ∧ w.imm = 0x100000) ∧
  (∃ w, decodeWord 0x0C100002B900000000000002 = some (.wrsr w) ∧ w.a = 697 ∧ w.imm = 2) ∧
  decodeWord (0x06 * 2 ^ 88) = none ∧ decodeWord (0x01 * 2 ^ 88 + 14 * 2 ^ 84) = none

/-! ### Steps -/

/-- A step runs the decoded instruction (R166, R169, R174): the agenda's head first; at a stream's turn the word at its pc, read
from the code as it stood when the job started or was last restored; bytes that decode to nothing raise the illegal-instruction fault. At a
boundary with an event the event is taken instead; a section entered in a turn takes an event that is held, else it may issue its first
word in the same turn (R16, R198). The order of turns is the model's own (log entry 3). -/
def Obligations.StepRunsTheWord : Prop :=
  (∀ s i r, s.agenda = i :: r → step s = exec i { s with agenda := r }) ∧
  (∀ s k n i, s.agenda = [] → s.turn = .issue k → s.issueKind k = .word → (s.core.strm k).pc.toNat % 4 = 0 →
    s.fetchNat (s.core.strm k) (s.core.strm k).pc.toNat 12 = .ok n → decodeWord n = some i →
    step s = exec i { s with turn := (Turn.issue k).after, cur := k }) ∧
  (∀ s k n, s.agenda = [] → s.turn = .issue k → s.issueKind k = .word → (s.core.strm k).pc.toNat % 4 = 0 →
    s.fetchNat (s.core.strm k) (s.core.strm k).pc.toNat 12 = .ok n → decodeWord n = none →
    step s = .next (State.raise { s with turn := (Turn.issue k).after, cur := k } (flt .illegalInstr))) ∧
  (∀ s k, s.agenda = [] → s.turn = .issue k → s.issueKind k = .event →
    step s = exec (.eventTaken k) { s with turn := (Turn.issue k).after }) ∧
  (∀ s k t, s.agenda = [] → s.turn = .issue k → s.issueKind k = .enter →
    exec (.sectionEntry k) { s with turn := (Turn.issue k).after } = .next t →
    step s = if t.takeable k then exec (.eventTaken k) t else if t.inside k then t.issueWord k else .next t)

/-- A step never refuses: every instruction and every step of the device has its meaning.
A step stops with a fault of the model only for a frame beyond the stacks; every fault of the device goes on (R352). -/
def Obligations.StopsAreNamed : Prop :=
  (∀ s r, step s ≠ .refused r) ∧
  (∀ s f, step s = .fault f → f = .noBacking)

/-! ### Memory's form, reset -/

/-- Memory keeps its canonical form in every step (log entry 2). -/
def Obligations.StepKeepsMemoryForm : Prop := ∀ s t, s.memOk → step s = .next t → t.memOk

/-- The machine right after power-good (R326, R332, R340, R359, R387): every die live with SCHED at 1,700,000, no HOLD,
ROOT 0, a row threshold of 2,048, no core disabled; ROWCTL at its reset value; DEVSTAT, TLBINV, RETIRE and TOPO at zero. The model's choices, no rule of
the spec: memory lists nothing, so that it reads zero (log entry 2), and there is no job and no launch yet (log entry 1). -/
def Obligations.ResetValues : Prop :=
  let s := State.reset
  s.memOk ∧ s.mem = [] ∧ s.core.running = false ∧ s.parked = [] ∧ s.launches = [] ∧ s.dies.length = 12 ∧
  (∀ d < 12, (s.die d).fenced = false ∧ (s.die d).sched = 1700000 ∧ (s.die d).root = 0 ∧ (s.die d).mth = 2048 ∧ (s.die d).cdis = 0) ∧
  s.regValue 0x320 = 0x100400800 ∧ s.regValue 0 = 0 ∧ s.regValue 0x200 = 0 ∧ s.regValue 0x310 = 0 ∧ s.regValue 0xA00 = 0 ∧ s.agenda = []

/-! ### Scalar words (08, R180 to R187, R205) -/

/-- R183: each member of OP 0x01 computes D := f(A, B) as the table says, modulo 2^64. -/
def Obligations.ThreeRegisterResults : Prop := ∀ w : Wz,
  ScalarResult (.add w) (shZ3 w) 1 (fun a b _ => BitVec.ofNat 64 (a.toNat + b.toNat)) ∧
  ScalarResult (.sub w) (shZ3 w) 1 (fun a b _ => BitVec.ofInt 64 ((a.toNat : Int) - b.toNat)) ∧
  ScalarResult (.and w) (shZ3 w) 1 (fun a b _ => a &&& b) ∧
  ScalarResult (.or w) (shZ3 w) 1 (fun a b _ => a ||| b) ∧
  ScalarResult (.xor w) (shZ3 w) 1 (fun a b _ => a ^^^ b) ∧
  ScalarResult (.shl w) (shZ3 w) 1 (fun a b _ => BitVec.ofNat 64 (a.toNat * 2 ^ (b.toNat % 64))) ∧
  ScalarResult (.shr w) (shZ3 w) 1 (fun a b _ => BitVec.ofNat 64 (a.toNat / 2 ^ (b.toNat % 64))) ∧
  ScalarResult (.sra w) (shZ3 w) 1 (fun a b _ => BitVec.ofInt 64 (a.toInt / 2 ^ (b.toNat % 64))) ∧
  ScalarResult (.slt w) (shZ3 w) 1 (fun a b _ => if a.toInt < b.toInt then 1 else 0) ∧
  ScalarResult (.sltu w) (shZ3 w) 1 (fun a b _ => if a.toNat < b.toNat then 1 else 0) ∧
  ScalarResult (.min w) (shZ3 w) 1 (fun a b _ => BitVec.ofInt 64 (min a.toInt b.toInt)) ∧
  ScalarResult (.max w) (shZ3 w) 1 (fun a b _ => BitVec.ofInt 64 (max a.toInt b.toInt)) ∧
  ScalarResult (.minu w) (shZ3 w) 1 (fun a b _ => BitVec.ofNat 64 (min a.toNat b.toNat)) ∧
  ScalarResult (.maxu w) (shZ3 w) 1 (fun a b _ => BitVec.ofNat 64 (max a.toNat b.toNat))

/-- R184: each member of OP 0x02 computes D := f(A, I) with the operation of the 0x01 member of the same FN, I the immediate
sign-extended, or IMM[5:0] for the shifts; a shift with a reserved bit set is an illegal instruction; FN 1, 14 and 15 decode to nothing. -/
def Obligations.ImmediateResults : Prop := ∀ w : Wi,
  let sh := shI w 36 .sDst .sSrc .none .none
  let sh6 := shI w 6 .sDst .sSrc .none .none
  let imm := w.imm.signExtend 64
  let n := w.imm.toNat % 64
  (ScalarResult (.addi w) sh 1 (fun a _ _ => BitVec.ofInt 64 ((a.toNat : Int) + w.imm.toInt)) ∧
  ScalarResult (.andi w) sh 1 (fun a _ _ => a &&& imm) ∧
  ScalarResult (.ori w) sh 1 (fun a _ _ => a ||| imm) ∧
  ScalarResult (.xori w) sh 1 (fun a _ _ => a ^^^ imm) ∧
  ScalarResult (.shli w) sh6 1 (fun a _ _ => BitVec.ofNat 64 (a.toNat * 2 ^ n)) ∧
  ScalarResult (.shri w) sh6 1 (fun a _ _ => BitVec.ofNat 64 (a.toNat / 2 ^ n)) ∧
  ScalarResult (.srai w) sh6 1 (fun a _ _ => BitVec.ofInt 64 (a.toInt / 2 ^ n)) ∧
  ScalarResult (.slti w) sh 1 (fun a _ _ => if a.toInt < w.imm.toInt then 1 else 0) ∧
  ScalarResult (.sltiu w) sh 1 (fun a _ _ => if a.toNat < imm.toNat then 1 else 0) ∧
  ScalarResult (.mini w) sh 1 (fun a _ _ => BitVec.ofInt 64 (min a.toInt w.imm.toInt)) ∧
  ScalarResult (.maxi w) sh 1 (fun a _ _ => BitVec.ofInt 64 (max a.toInt w.imm.toInt)) ∧
  ScalarResult (.minui w) sh 1 (fun a _ _ => BitVec.ofNat 64 (min a.toNat imm.toNat)) ∧
  ScalarResult (.maxui w) sh 1 (fun a _ _ => BitVec.ofNat 64 (max a.toNat imm.toNat))) ∧
  (w.imm.toNat / 64 ≠ 0 → ∀ i ∈ [Instr.shli w, Instr.shri w, Instr.srai w],
    ∀ s, exec i s = .next (s.raise (flt .illegalInstr))) ∧
  (∀ x < 2 ^ 96, x / 2 ^ 88 = 2 → x / 2 ^ 84 % 16 ∈ [1, 14, 15] → decodeWord x = none)

/-- R185: products, quotients and remainders, with the fixed results for B = 0 and the overflowing quotient; the carry-less
product bit by bit. A divide also needs the divider free and holds it (R182). -/
def Obligations.MultiplyDivideResults : Prop := ∀ w : Wz,
  ScalarResult (.mul w) (shZ3 w) 3 (fun a b _ => BitVec.ofNat 64 (a.toNat * b.toNat)) ∧
  ScalarResult (.mulh w) (shZ3 w) 3 (fun a b _ => BitVec.ofInt 64 (a.toInt * b.toInt / 2 ^ 64)) ∧
  ScalarResult (.mulhu w) (shZ3 w) 3 (fun a b _ => BitVec.ofNat 64 (a.toNat * b.toNat / 2 ^ 64)) ∧
  (∃ f g : Word → Word → Word, ScalarResult (.sclmul w) (shZ3 w) 3 (fun a b _ => f a b) ∧
    ScalarResult (.sclmulh w) (shZ3 w) 3 (fun a b _ => g a b) ∧
    ∀ a b n, n < 64 → (f a b).getLsbD n = clmulBit a b n ∧ (g a b).getLsbD n = clmulBit a b (n + 64)) ∧
  ∀ s a b c t u,
    let div := fun (i : Instr) (signed : Bool) (v : Word) => s.takes (shZ3 w) a b c t → s.strm.divBusy ≤ s.now →
      t.gives w.d v (divCost signed a b) u →
      exec i s = .next ((u.upd fun x => { x with divBusy := s.now + divCost signed a b }).retire 1)
    div (.div w) true (if b = 0 then BitVec.allOnes 64 else BitVec.ofInt 64 (a.toInt.tdiv b.toInt)) ∧
    div (.divu w) false (if b = 0 then BitVec.allOnes 64 else BitVec.ofNat 64 (a.toNat / b.toNat)) ∧
    div (.rem w) true (if b = 0 then a else BitVec.ofInt 64 (a.toInt.tmod b.toInt)) ∧
    div (.remu w) false (if b = 0 then a else BitVec.ofNat 64 (a.toNat % b.toNat))

/-- R186: the bit operations, each result fixed bit by bit or by its defining inequalities. -/
def Obligations.BitOperationResults : Prop := ∀ w : Wi,
  let sh := shI w 0 .sDst .sSrc .none .none
  let field := 1 ≤ fieldWid w ∧ fieldWid w ≤ 64 ∧ fieldPos w + fieldWid w ≤ 64
  (∃ f : Word → Word, ScalarResult (.clz w) sh 1 (fun a _ _ => f a) ∧
    ∀ a, (f a).toNat ≤ 64 ∧ a.toNat < 2 ^ (64 - (f a).toNat) ∧ ((f a).toNat < 64 → 2 ^ (63 - (f a).toNat) ≤ a.toNat)) ∧
  (∃ f : Word → Word, ScalarResult (.ctz w) sh 1 (fun a _ _ => f a) ∧
    ∀ a, (f a).toNat ≤ 64 ∧ (∀ i < (f a).toNat, a.getLsbD i = false) ∧ ((f a).toNat < 64 → a.getLsbD (f a).toNat = true)) ∧
  (∃ f : Word → Word, ScalarResult (.popc w) sh 1 (fun a _ _ => f a) ∧
    ∀ a, (f a).toNat = ((List.range 64).filter fun i => a.getLsbD i).length) ∧
  (∃ f : Word → Word, ScalarResult (.brev w) sh 1 (fun a _ _ => f a) ∧ ∀ a, ∀ i < 64, (f a).getLsbD i = a.getLsbD (63 - i)) ∧
  (∃ f : Word → Word, ScalarResult (.bswap w) sh 1 (fun a _ _ => f a) ∧
    ∀ a, ∀ i < 8, ∀ j < 8, (f a).getLsbD (8 * i + j) = a.getLsbD (8 * (7 - i) + j)) ∧
  (field →
    (∃ f : Word → Word, ScalarResult (.extr w) (shI w 13 .sDst .sSrc .none .none) 1 (fun a _ _ => f a) ∧
      ∀ a, ∀ i < 64, (f a).getLsbD i = (decide (i < fieldWid w) && a.getLsbD (i + fieldPos w))) ∧
    (∃ f : Word → Word → Word, ScalarResult (.ins w) (shI w 13 .sDst .sSrc .sSrc .none) 1 (fun a b _ => f a b) ∧
      ∀ a b, ∀ i < 64, (f a b).getLsbD i =
        if fieldPos w ≤ i ∧ i < fieldPos w + fieldWid w then a.getLsbD (i - fieldPos w) else b.getLsbD i) ∧
    (∃ f : Word → Word, ScalarResult (.extrs w) (shI w 13 .sDst .sSrc .none .none) 1 (fun a _ _ => f a) ∧
      ∀ a, ∀ i < 64, (f a).getLsbD i = a.getLsbD (min i (fieldWid w - 1) + fieldPos w))) ∧
  (¬ field → ∀ s, s.static (shI w 13 .sDst .sSrc .none .none) = .ok () → ∀ i ∈ [Instr.extr w, Instr.extrs w],
    exec i s = .next (s.raise (flt .illegalOperand)))

/-- R187 and R205: the moves, the select, and the scalar queues' push and pop. -/
def Obligations.MoveResults : Prop := ∀ (w : Wi) (z : Wz),
  ScalarResult (.movi w) (shI w 36 .sDst .none .none .none) 1 (fun _ _ _ => w.imm.signExtend 64) ∧
  (∃ f : Word → Word, ScalarResult (.movhi w) (shI w 28 .sDst .sSrc .none .none) 1 (fun a _ _ => f a) ∧
    ∀ a, ∀ i < 64, (f a).getLsbD i = if i < 36 then a.getLsbD i else w.imm.getLsbD (i - 36)) ∧
  ScalarResult (.mov w) (shI w 0 .sDst .sSrc .none .none) 1 (fun a _ _ => a) ∧
  ScalarResult (.sel w) (shI w 0 .sDst .sSrc .sSrc .sSrc) 1 (fun a b c => if c = 0 then b else a) ∧
  ScalarResult (.sqw z) (shZ z .qDst .sReg) 1 (fun a _ _ => a) ∧
  ScalarResult (.sqr z) (shZ z .sReg .qSrc) 1 (fun a _ _ => a)

/-- R37, R38, R182: s0 reads as zero and ignores writes; a written scalar reads as the value from the cycle its result is ready and makes a
reader wait before it, the others read as before; a queue of fewer than sixteen entries takes a value at its end, a full one waits,
and a pop gives the oldest, from the cycle its result is ready on; before it the reader waits. -/
def Obligations.ScalarsAndQueues : Prop := ∀ (s : State) (f : OpField) (v : Word) (cost : Nat),
  (f.toNat = 696 → s.writeS f v cost = .ok s ∧ s.readS f = .ok (0, s)) ∧
  (∀ t, isS f = true → f.toNat ≠ 696 → s.gives f v cost t → ∀ x : State, x.core = t.core → x.cur = s.cur →
    (x.now < s.now + cost → x.readS f = .error .wait) ∧
    (s.now + cost ≤ x.now → Sparse.get s.strm.ready (f.toNat - 696) ≤ x.now → x.readS f = .ok (v, x)) ∧
    ∀ g, isS g = true → g ≠ f → x.readsAs g = ({ s with dies := x.dies } : State).readsAs g) ∧
  (isQ f = true → s.writeS f v cost =
    if (s.core.queue (f.toNat - 728)).length < 16
      then .ok (s.updC fun c => c.setQueue (f.toNat - 728) (s.core.queue (f.toNat - 728) ++ [.val v (s.now + cost)])) else .error .wait) ∧
  (∀ r at_, isQ f = true → s.core.queue (f.toNat - 728) = .val v at_ :: r →
    s.readS f = if at_ ≤ s.now then .ok (v, s.updC fun c => c.setQueue (f.toNat - 728) r) else .error .wait) ∧
  (isQ f = true → s.core.queue (f.toNat - 728) = [] → s.readS f = .error .wait)

/-- What a word of one scalar result leaves alone: everything outside its core, the other streams, every register but the scalar or queue
D names and the popped queues, the pc and the section; memory whole (R37, R180). It covers every word of OP 0x01, 0x02, 0x04, 0x05 and
0x0D, RDSR and RDCYC. -/
def Obligations.ScalarResultFrame : Prop := ∀ (s t u : State) (h : Shape) (a b c v : Word) (cost : Nat), h.scalarOnly →
  s.takes h a b c t → t.gives h.hd.d v cost u →
  s.sameOutside (u.retire 1) ∧ s.sameMemory (u.retire 1) ∧ Core.sameBut s.cur s.core (u.retire 1).core ∧
  StrmSt.sameBut s.strm (u.retire 1).strm ∧
  (∀ n, 696 + n ≠ h.hd.d.toNat → (u.retire 1).strm.sreg n = s.strm.sreg n) ∧
  (∀ q, 728 + q ≠ h.hd.d.toNat → 728 + q ≠ h.hd.a.toNat → 728 + q ≠ h.hd.b.toNat → 728 + q ≠ h.hd.c.toNat →
    (u.retire 1).core.queue q = s.core.queue q)

/-! ### Control (08, R188 to R203) -/

/-- R189: the six branches compare A with B; the target is checked whether or not the branch is taken; a taken branch goes to the
target, 2 cycles on, an untaken one to the next word. -/
def Obligations.ConditionalBranches : Prop := ∀ (w : Wi) (s t : State) (a b c : Word) (x : StrmSt) (f : FaultInfo),
  let sh := shI w 36 .none .sSrc .sSrc .none
  let tgt := s.target s.cur s.strm (s.strm.pc + 4 * w.imm.signExtend 64)
  let goes := fun (i : Instr) (p : Bool) => exec i s = .next (if p then t.transfer x 2 else t.retire 1)
  (s.takes sh a b c t → tgt = .ok x →
    goes (.beq w) (decide (a = b)) ∧ goes (.bne w) (decide (a ≠ b)) ∧ goes (.blt w) (decide (a.toInt < b.toInt)) ∧
    goes (.bge w) (decide (b.toInt ≤ a.toInt)) ∧ goes (.bltu w) (decide (a.toNat < b.toNat)) ∧ goes (.bgeu w) (decide (b.toNat ≤ a.toNat))) ∧
  (s.static sh = .ok () → tgt = .error (.trap f) → f.code ≠ .noBacking →
    ∀ i ∈ [Instr.beq w, .bne w, .blt w, .bge w, .bltu w, .bgeu w], Faults i s f)

/-- R188, R190: jumps, calls and returns; BQ and BQZ pop their queue and branch on what they popped; CALL leaves the link of the next
word. A link value holds the word index in bits [63:52], the address in [51:2] and ENT in bit 0.
R166 and R167: a target that is a word of the section, but not its first, is the new pc; any other must follow a header of the
stream; a target off the 4-byte grid is an illegal target. -/
def Obligations.JumpsCallsReturnsTargets : Prop :=
  ((∀ (w : Wi) (s : State) (x : StrmSt), s.legal (shI w 36 .none .none .none .none) →
     s.target s.cur s.strm (s.strm.pc + 4 * w.imm.signExtend 64) = .ok x → exec (.br w) s = .next (s.transfer x 2)) ∧
   (∀ (w : Wi) (s t : State) (a b c : Word) (x : StrmSt), s.takes (shI w 36 .none .sSrc .none .none) a b c t →
     s.target s.cur s.strm (a + w.imm.signExtend 64) = .ok x → exec (.bri w) s = .next (t.transfer x 2)) ∧
   (∀ (w : Wi) (s t : State) (a b c : Word) (x : StrmSt), s.takes (shI w 36 .none .qSrc .none .none) a b c t →
     s.target s.cur s.strm (s.strm.pc + 4 * w.imm.signExtend 64) = .ok x →
     exec (.bq w) s = .next (if a ≠ 0 then t.transfer x 2 else t.retire 1) ∧
     exec (.bqz w) s = .next (if a = 0 then t.transfer x 2 else t.retire 1)) ∧
   (∀ (w : Wi) (s u : State) (x : StrmSt), s.legal (shI w 36 .sDst .none .none .none) →
     s.target s.cur s.strm (s.strm.pc + 4 * w.imm.signExtend 64) = .ok x → s.gives w.d (s.strm.linkNext true) 2 u →
     exec (.call w) s = .next (u.transfer { x with sregs := u.strm.sregs, ready := u.strm.ready } 2)) ∧
   (∀ (w : Wi) (s t : State) (a b c : Word) (x : StrmSt), s.takes (shI w 0 .none .sSrc .none .none) a b c t →
     t.comeBack s.cur t.strm a = .ok x → exec (.ret w) s = .next (t.transfer x 2)) ∧
   (∀ (i : Nat) (p : Word) (ent : Bool), i < 4096 → p.toNat < 2 ^ 52 → p.toNat % 4 = 0 →
     (linkOf i p ent).toNat / 2 ^ 52 = i ∧ (linkOf i p ent).toNat % 2 ^ 52 / 4 * 4 = p.toNat ∧ (linkOf i p ent).getLsbD 0 = ent ∧
     (linkOf i p ent).getLsbD 1 = false)) ∧
  (∀ (s : State) (k : Strm) (x : StrmSt) (t : Word),
   (t.toNat % 4 ≠ 0 → s.target k x t = .error (.trap (flt .illegalTarget))) ∧
   (t.toNat % 4 = 0 → x.inSection t = true → t ≠ x.secBase + 8 → s.target k x t = .ok { x with pc := t }) ∧
   (∀ y, t.toNat % 4 = 0 → x.inSection t = false → s.target k x t = .ok y →
     ∃ h, s.fetchHdr x (t - 8) = .ok h ∧ h.hk = 0xA ∧ h.len ≠ 0 ∧ h.sid = strmNum k ∧ y.pc = t - 8 ∧ y.atHdr = true ∧ y.entIdx = 0))

/-- R191 to R193: the loops. LOOP counts `lc` down, or D when `lc` is zero, rotates and sets the first window mask to all ones, or to
zeros once it counts D; with both zero it falls through. LOOPI counts `lc`, LOOPS counts D. RRBSET sets the rotation base and, with
PRIME, the window masks. -/
def Obligations.LoopsAndRotation : Prop :=
  (∀ (w : Wi) (s : State) (x : StrmSt) (n : Word), s.legal (shI w 36 .sReg .none .none .none) →
    s.target s.cur s.strm (s.strm.pc + 4 * w.imm.signExtend 64) = .ok x → s.loopCount w.d = .ok n →
    (s.strm.lc = 0 → n = 0 → exec (.loop w) s = .next (s.retire 1)) ∧
    (s.strm.lc ≠ 0 → exec (.loop w) s = .next ((s.setWindowMask (s.strm.rrb - 1).toNat 0 (BitVec.allOnes 1024)).transfer
      { x with sregs := s.strm.sregs, ready := s.strm.ready, lc := x.lc - 1, rrb := s.strm.rrb - 1 } 1)) ∧
    (∀ u, s.strm.lc = 0 → n ≠ 0 → s.gives w.d (n - 1) 1 u →
      exec (.loop w) s = .next ((u.setWindowMask (s.strm.rrb - 1).toNat 0 0).transfer
        { x with sregs := u.strm.sregs, ready := u.strm.ready, lc := x.lc, rrb := s.strm.rrb - 1 } 1)) ∧
    (n = 0 → exec (.loops w) s = .next (s.retire 1)) ∧
    (∀ u, n ≠ 0 → s.gives w.d (n - 1) 1 u →
      exec (.loops w) s = .next (u.transfer { x with sregs := u.strm.sregs, ready := u.strm.ready } 1))) ∧
  (∀ (w : Wi) (s : State) (x : StrmSt), s.legal (shI w 36 .none .none .none .none) →
    s.target s.cur s.strm (s.strm.pc + 4 * w.imm.signExtend 64) = .ok x →
    exec (.loopi w) s = .next (if s.strm.lc = 0 then s.retire 1 else s.transfer { x with lc := x.lc - 1 } 1)) ∧
  (∀ (w : Wi) (s : State), s.legal (shI w 7 .none .none .none .none) →
    (w.imm.getLsbD 6 = true → s.cur ≠ .a) → ∃ t, exec (.rrbset w) s = .next t ∧ t.strm.rrb.toNat = w.imm.toNat % 64 ∧
      (w.imm.getLsbD 6 = false → t.core.masks = s.core.masks) ∧
      (w.imm.getLsbD 6 = true → ∀ i < 4, t.core.mask (physM s.cur t.strm.rrb.toNat ((if s.cur = .v then 8 else 12) + i)) =
        if i = 0 then BitVec.allOnes 1024 else 0) ∧
      t.core.vregs = s.core.vregs ∧ t.core.tiles = s.core.tiles ∧ t.mem = s.mem)

/-- R195 to R203: RDZ waits at the rendezvous; YIELD is a stop point only for a stop that is asked for; END stops the stream; TRAP takes event 1
with its immediate; ERET comes back through `epc`; BKPT halts the job for a debugger where debugging is allowed, its gang issuing nothing
more, and faults elsewhere. -/
def Obligations.StreamControl : Prop := ∀ (w : Wi) (s : State),
  (s.legal (shI w 0 .none .none .none .none) →
    exec (.rdz w) s = .next (s.upd fun x => { x with atRdz := true }) ∧
    (s.core.stopReq = false → exec (.yield w) s = .next (s.retire 1)) ∧
    (s.core.stopReq = true → exec (.yield w) s = .next ((s.retire 1).haltGang s.core.lrec s.core.gangNo .save)) ∧
    (∃ t, exec (.endStream w) s = .next t ∧ t.strm.stopped = true ∧ t.strm.held = [] ∧ t.mem = s.mem ∧
      t.strm.sregs = s.strm.sregs) ∧
    (∀ x, s.strm.handler = true → s.comeBack s.cur { s.strm with handler := false } s.strm.epc = .ok x →
      exec (.eret w) s = .next (s.transfer x 1)) ∧
    (s.strm.handler = false → exec (.eret w) s = .next (s.raise (flt .illegalInstr)))) ∧
  (s.legal (shI w 16 .none .none .none .none) →
    (s.strm.handler = true → exec (.trap w) s = .next (s.raise (flt .nestedTrap))) ∧
    (s.strm.handler = false → s.strm.evh = 0 → exec (.trap w) s = .next (s.raise (flt .unhandledEvent))) ∧
    (∀ x, s.strm.handler = false → s.strm.evh ≠ 0 →
      s.target s.cur { s.strm with evc := 1, eva := BitVec.ofNat 64 w.imm.toNat, epc := s.strm.linkNext false, handler := true, swwait := none
                                   sent := none, desc := none } s.strm.evh = .ok x →
      ∃ t, exec (.trap w) s = .next t ∧ t.strm.handler = true ∧ t.strm.evc = 1 ∧ t.strm.eva.toNat = w.imm.toNat ∧
        t.strm.epc = s.strm.linkNext false ∧ t.strm.pc = x.pc ∧ t.strm.sregs = s.strm.sregs ∧ t.mem = s.mem) ∧
    (s.core.dbgOk = false → exec (.bkpt w) s = .next (s.raise { code := .breakpoint, info := w.imm.toNat })) ∧
    (s.core.dbgOk = true → s.core.running = true →
      ∃ t, exec (.bkpt w) s = .next t ∧ t.core.inGang s.core.lrec s.core.gangNo = true ∧
        ∀ c ∈ t.core :: t.parked, c.inGang s.core.lrec s.core.gangNo = true → c.stopReq = true ∧ (c.stopAs = .debug ∨ c.stopAs = .fail)))

/-! ### Special registers (02, R50 to R53, R204) -/

/-- R50, R51, R204: RDSR gives each register of the table, in the view that may name it; a reserved number is an illegal operand, a system
register in the user view a privilege fault; RDCYC gives the cycle count.
R51 to R53, R199, R204, R323: WRSR writes a register the view may write, with a value the register can hold; what it then reads as,
and that no other special register of the stream changes. `cnti` clears the bits written 1, `dbg` keeps HLT, `evc` keeps its defined bits
(log entry 24), the reserved link bit of `epc` reads zero (R6, R188). -/
def Obligations.SpecialRegisters : Prop :=
  (∀ (w : Wi) (s : State),
   let h := shI w 8 .sDst .none .none .none
   let n := w.imm.toNat
   let x := s.strm
   let c := s.core
   let reads := fun (m : Nat) (v : Word) => ∀ u, n = m → s.legal h → s.gives w.d v 1 u → exec (.rdsr w) s = .next (u.retire 1)
   (reads 0x00 x.lc ∧ reads 0x01 (x.rrb.setWidth 64) ∧ reads 0x02 x.evh ∧ reads 0x03 (x.evc.setWidth 64) ∧ reads 0x04 x.eva ∧
     reads 0x05 (x.epc &&& ~~~2#64) ∧ reads 0x08 (c.job.setWidth 64) ∧ reads 0x09 (c.njob.setWidth 64) ∧ reads 0x0A (c.rank.setWidth 64) ∧
     reads 0x0B (BitVec.ofNat 64 c.cid) ∧ reads 0x0C (BitVec.ofNat 64 c.did) ∧ reads 0x0D (x.view.rm.setWidth 64) ∧
     reads 0x0E x.view.fmtb ∧ reads 0x0F (BitVec.ofNat 64 s.now)) ∧
   (c.sys = true → reads 0x10 c.rcb ∧ reads 0x11 x.view.ptb ∧ reads 0x12 (x.view.dbg.setWidth 64) ∧
     reads 0x13 (BitVec.ofNat 64 (s.die c.did).mth) ∧ reads 0x14 (x.view.cntc.setWidth 64) ∧ reads 0x15 (x.view.cnti.setWidth 64)) ∧
   (s.static h = .ok () → (n = 6 ∨ n = 7 ∨ 0x15 < n) → exec (.rdsr w) s = .next (s.raise (flt .illegalOperand))) ∧
   (s.static h = .ok () → c.sys = false → 0x10 ≤ n → n ≤ 0x15 → exec (.rdsr w) s = .next (s.raise (flt .privilege))) ∧
   (∀ z u, s.legal (shI z 0 .sDst .none .none .none) → s.gives z.d (BitVec.ofNat 64 s.now) 1 u →
     exec (.rdcyc z) s = .next (u.retire 1))) ∧
  (∀ (w : Wi) (s t : State) (a b c : Word) (r : SReg),
   s.takes (shI w 8 .none .sSrc .none .none) a b c t → SReg.ofNum w.imm.toNat = some r →
   (r.sysOnly = true → s.core.sys = true) → r.writable s.core.sys = true → a.toNat < 2 ^ r.width → (r = .rm → a.toNat < 5) →
   (r = .fmtb → a.toNat % 64 = 0) → (r = .mth → a ≠ 0) →
   (r = .rm → s.cur = .m → s.core.pending = []) → s.core.did < s.dies.length →
   ∃ u, exec (.wrsr w) s = .next u ∧
     u.readSpecial r = (match r with
       | .evc => a &&& 0xFFFF
       | .epc => a &&& ~~~2#64
       | .dbg => (s.readSpecial .dbg &&& 4) ||| (a &&& 3)
       | .cnti => s.readSpecial .cnti &&& ~~~a
       | _ => a) ∧
     (∀ q, q ≠ r → u.readSpecial q = s.readSpecial q) ∧ u.mem = s.mem ∧ u.strm.sregs = s.strm.sregs ∧ u.core.vregs = s.core.vregs)

/-- R51: a user-view job cannot change a system register: no word of it changes `ptb`, `dbg`, `cntc`, `rcb`, its view or a die's row
threshold, as long as its gang runs on. -/
def Obligations.UserViewKeepsSystemRegisters : Prop := ∀ (i : Instr) (s t : State), isWord i → s.core.sys = false →
  s.core.running = true → exec i s = .next t → s.runsOn t →
  t.core.sys = false ∧ t.core.jobv.ptb = s.core.jobv.ptb ∧ t.core.jobv.cntc = s.core.jobv.cntc ∧ t.core.jobv.dbg = s.core.jobv.dbg ∧
  t.core.rcb = s.core.rcb ∧ ∀ d, (t.die d).mth = (s.die d).mth

/-! ### Faults (22, R350 to R352) -/

/-- R352: a precise fault stops its whole gang, which issues nothing more, to be saved for a debugger where its region allows debugging, else
to end; its launch is marked, so that no further gang of it is placed.
R350, R351: a record is written at BASE + 64 x (TAIL mod SIZE), then TAIL advances, then the vector is signalled; a full queue keeps
the record out, counts it in DROP and still signals; the sequence number advances either way; no other byte changes. A record waits behind
older writes of the device and for a frame locked by a remap (R357). -/
def Obligations.FaultsAreTakenAndRecorded : Prop :=
  (∀ (s : State) (f : FaultInfo), s.core.running = true →
   (s.raise f).core.inGang s.core.lrec s.core.gangNo = true ∧
   (∀ c ∈ (s.raise f).core :: (s.raise f).parked, c.inGang s.core.lrec s.core.gangNo = true →
     c.stopReq = true ∧ (c.stopAs = .fail ∨ (s.core.dbgOk = true ∧ c.stopAs = .debug))) ∧
   (∀ k, (s.raise f).issueKind k = .idle) ∧
   ((s.raise f).launches.map (·.lrec) = s.launches.map (·.lrec)) ∧
   (∀ l ∈ (s.raise f).launches, l.lrec = s.core.lrec → l.faulted = true)) ∧
  (∀ (s : State) (node : Nat) (r : FRec),
   let fq := s.natAt (node + 64) 8
   let base := s.natAt fq 8
   let size := s.natAt (fq + 8) 4
   let head := s.natAt (fq + 12) 4
   let tail := s.natAt (fq + 16) 4
   let slot := base + 64 * (tail % size)
   let v := s.natAt (fq + 20) 2
   let t := s.postRecord node r
   ((s.late ≠ [] ∨ s.recordHeld node = true) → t = { s with late := s.late ++ [.record node r] }) ∧
   (s.late = [] → s.recordHeld node = false →
   fq ≠ 0 → fq + 64 < cxlBase → slot + 64 < cxlBase → s.alive slot 64 → s.alive fq 64 → (slot + 64 ≤ fq ∨ fq + 64 ≤ slot) →
   t.host = s.host.signal (if v < 5 ∨ 63 < v then 5 else v) ∧
   Sparse.get t.rseqs node = (Sparse.get s.rseqs node + 1) % 2 ^ 32 ∧
   ((tail + 2 ^ 32 - head) % 2 ^ 32 ≠ size → t.holds slot (r.toBytes (Sparse.get s.rseqs node)) ∧
     t.natAt (fq + 16) 4 = (tail + 1) % 2 ^ 32 ∧
     ∀ k, (k < slot ∨ slot + 64 ≤ k) → (k < fq + 16 ∨ fq + 20 ≤ k) → t.byte k = s.byte k) ∧
   ((tail + 2 ^ 32 - head) % 2 ^ 32 = size → t.natAt (fq + 24) 4 = min (s.natAt (fq + 24) 4 + 1) (2 ^ 32 - 1) ∧
     ∀ k, (k < fq + 24 ∨ fq + 28 ≤ k) → t.byte k = s.byte k)))

/-! ### The streams' own steps (02, 07, R13 to R25, R43 to R46, R198) -/

/-- R16 to R18, R165: a stream enters the section whose header it has reached when the header is its own and its begin conditions hold: the
ordinal counts up and the first word is the one after the header; while they do not hold it waits; a header of length zero ends the
stream.
R17, R19: the oldest section a stream has left retires once every result of its words has landed: the retired count goes up by one,
modulo 2^32; otherwise nothing happens. -/
def Obligations.SectionsAreEnteredAndRetire : Prop :=
  (∀ (s : State) (k : Strm) (h : SecHdr),
   let x := s.core.strm k
   s.core.live k = true → x.atHdr = true → x.pc.toNat % 4 = 0 → s.fetchHdr x x.pc = .ok h → h.hk = 0xA →
   (h.len = 0 → ∃ t, exec (.sectionEntry k) s = .next t ∧ (t.core.strm k).stopped = true ∧ t.mem = s.mem) ∧
   (h.len ≠ 0 → hdrFields h k = true → x.handler = false → x.ord < 2 ^ 32 →
     (beginOk s.core k h x.ord = false → exec (.sectionEntry k) s = .next { s with cur := k }) ∧
     (beginOk s.core k h x.ord = true → ∃ t, exec (.sectionEntry k) s = .next t ∧
       t.core.strm k = { x with secBase := x.pc, secLen := h.len, pc := x.pc + 8 + BitVec.ofNat 64 (12 * x.entIdx), atHdr := false
                                ord := x.ord + 1, entered := true, secDue := 0 } ∧
       ∀ j, j ≠ k → t.core.strm j = s.core.strm j))) ∧
  (∀ (s : State) (k : Strm) (l : LeftSec) (r : List LeftSec),
   s.core.running = true → (s.core.strm k).left = l :: r →
   let lands := l.due ≤ s.now ∧ ∀ p ∈ s.core.pending, p.strm = k → l.due < p.due
   (lands → ∃ t, exec (.sectionRetire k) s = .next t ∧ (t.core.strm k).left = r ∧
     (t.core.strm k).ret = ((s.core.strm k).ret + 1) % 2 ^ 32 ∧ t.core.vregs = s.core.vregs ∧ t.mem = s.mem) ∧
   (¬ lands → exec (.sectionRetire k) s = .next s))

/-- R15: the join takes every waiting stream past its RDZ at once, with the per-job registers as they stand; until every stream waits or
has stopped and nothing is in flight it does nothing.
R25: where every stream has stopped or waits on another and nothing that could change this is outstanding, the deadlock fault stops the gang;
otherwise nothing happens.
R13: a job completes once its three streams have stopped, its results have landed and its tokens read zero: its core is freed
and its launch counts it; until then it does not.
R198, R200: the oldest held event of a stream outside its handler enters the handler at the next word: cause, detail and information in
`evc` and `eva`, the link of the word it interrupts in `epc`, and the word it interrupts issues again later. R102: RDZ waits until the job's accesses have performed.
The model's choices: that a ninth held event is a fault wherever the stream stands (log entry 45), and that a job's end also waits for its accesses
without a token (log entry 13). -/
def Obligations.StreamsJoinEndAndTakeEvents : Prop :=
  (∀ (s : State),
   let c := s.core
   let there := fun (x : StrmSt) => x.stopped = true ∨ x.atRdz = true
   let joins := c.running = true ∧ (c.sa.atRdz = true ∨ c.sv.atRdz = true ∨ c.sm.atRdz = true) ∧ there c.sa ∧ there c.sv ∧ there c.sm ∧
     c.pending = [] ∧ c.ops = []
   (joins → ∃ t, exec .rdzJoin s = .next t ∧ t.mem = s.mem ∧ ∀ k, (c.strm k).atRdz = true →
     (t.core.strm k).atRdz = false ∧ (t.core.strm k).rdz = (c.strm k).rdz + 1 ∧ (t.core.strm k).view = c.jobv ∧
     (t.core.strm k).sregs = (c.strm k).sregs) ∧
   (¬ joins → exec .rdzJoin s = .next s)) ∧
  (∀ (s : State),
   (s.deadlocked = false → exec .streamDeadlock s = .next s) ∧
   (s.deadlocked = true → ∃ t, exec .streamDeadlock s = .next t ∧
     ∀ c ∈ t.core :: t.parked, c.inGang s.core.lrec s.core.gangNo = true → c.stopReq = true ∧ c.stopAs ≠ .save)) ∧
  (∀ (s : State),
   (s.jobDone = false → exec .jobComplete s = .next s) ∧
   (s.jobDone = true → ∃ t, exec .jobComplete s = .next t ∧ t.core = s.core.cleared ∧ t.core.running = false ∧
     t.parked = s.parked ∧ t.orphans = s.orphans ++ s.core.rake ∧
     t.launches = s.launches.map fun (l : Launch) =>
       if l.lrec = s.core.lrec then { l with doneJobs := l.doneJobs ++ [s.core.job.toNat] } else l)) ∧
  (∀ (s : State) (k : Strm),
   let x := s.core.strm k
   s.core.live k = true →
   (8 < x.held.length → exec (.eventTaken k) s = .next (({ s with cur := k } : State).raise (flt .eventOverflow))) ∧
   (∀ e r y, x.held = e :: r → x.held.length ≤ 8 → x.handler = false → x.atHdr = false → x.atRdz = false → x.evh ≠ 0 →
     s.target k { x with held := r, evc := BitVec.ofNat 32 (e.cause + 256 * e.sub), eva := e.info, epc := x.linkHere, handler := true
                         swwait := none, sent := none, desc := none } x.evh = .ok y → ∃ t, exec (.eventTaken k) s = .next t ∧ t.core.strm k = y ∧ t.mem = s.mem) ∧
   (x.held.length ≤ 8 → (x.handler = true ∨ x.atHdr = true ∨ x.atRdz = true) → exec (.eventTaken k) s = .next s) ∧
   (x.held = [] → exec (.eventTaken k) s = .next s))

/-- R43, R44, R46: a fixed-latency result lands when its cycle comes: RESULT_LANDS lands every write due and leaves the others in flight; in a
gang that stops, those due after the cycle its streams would next have issued stay in flight.
R44, R46: the landing of an element write gives each predicated element its value and leaves every other bit of the register; no other
register changes. The element function says which elements are written. -/
def Obligations.ResultsLandUnderTheMask : Prop :=
  (∀ (s : State), let upTo := if s.core.stopReq then min s.now s.core.turnAt else s.now
   ∃ t, exec .resultLands s = .next t ∧
   (s.core.pending.filter fun p => !decide (p.due ≤ upTo)) = t.core.pending ∧
   ((∀ p ∈ s.core.pending, upTo < p.due) → t = s) ∧
   (∀ p, s.core.pending = [p] → p.due ≤ upTo → p.events = [] → t.core.vregs = ((p.eff.apply s.freeN s.core).vregs) ∧
     t.core.tiles = (p.eff.apply s.freeN s.core).tiles ∧ t.core.masks = (p.eff.apply s.freeN s.core).masks ∧ t.mem = s.mem)) ∧
  (∀ (c : Core) (t : ETy) (r : Nat) (pred : BitVec 1024)
     (f : Nat → Nat → Option Nat) (n : Nat),
   let d := (PEff.regs (elemParts t (if t.width = 32 then [r, r + 1] else [r]) pred f)).apply n c
   (∀ i j, i < 16 → j < t.perRow → pred.getLsbD (laneOf t i j) = true → ∀ v, f i j = some v →
     elemBits t [d.vreg r, d.vreg (r + 1)] i j = v % 2 ^ t.width) ∧
   (∀ i j, i < 16 → j < t.perRow → (pred.getLsbD (laneOf t i j) = false ∨ f i j = none) →
     elemBits t [d.vreg r, d.vreg (r + 1)] i j = elemBits t [c.vreg r, c.vreg (r + 1)] i j) ∧
   (∀ q, q ≠ r → (t.width = 32 → q ≠ r + 1) → d.vreg q = c.vreg q) ∧ d.tiles = c.tiles ∧ d.masks = c.masks)

/-! ### Memory accesses (09, R207 to R221) -/

/-- R208, R213, R214: a scalar load or store whose address is in the map, aligned and translated issues: one access more stands in the
list, D awaits it (a load), the data is read at issue (a store); a misaligned one faults. Memory does not change but by the alert of a row that the walk of
the address opens (R323).
R217: an atomic at a valid address of a page that takes it issues, its operands cut to its size; D awaits the old value.
R210: a word that takes a descriptor first issues the load of its 64 bytes, in its class, and stands at issue: it consumes nothing. -/
def Obligations.ScalarAccessesIssue : Prop :=
  (∀ (w : Wm) (s t : State) (a b c : Word) (n : Nat),
   let ea := (a + w.disp.signExtend 64).toNat
   (∀ i sg, (i, n, sg) ∈ [(Instr.ldB w, 1, true), (.ldBn w, 1, false), (.ldH w, 2, true), (.ldHn w, 2, false), (.ldW w, 4, true),
       (.ldWn w, 4, false), (.ldD w, 8, false)] → s.takes (shLd w) a b c t →
     (∀ key d u, addrOk ea n n → s.xlate ea .rd = .ok key → s.poisonedAt key n = false → t.reserveS w.d = .ok (d, u) →
       Retires i s 1 fun v => s.sameDataAt v [ea] ∧ s.sameScalars v ∧ v.strm.busy = u.strm.busy ∧ v.core.queues = u.core.queues ∧
         s.issued v w.cls.toNat 1 ea (.load key n sg d) none (s.accessWait key)) ∧
     (ea < 2 ^ 52 → (resHi ≤ ea ∨ ea + n ≤ winHi) → ea % n ≠ 0 → Faults i s { code := .alignment, addr := ea })) ∧
   (∀ i, (i, n) ∈ [(Instr.stB w, 1), (.stH w, 2), (.stW w, 4), (.stD w, 8)] → s.takes (shSt w) a b c t →
     (∀ key, addrOk ea n n → s.xlate ea .wr = .ok key → s.storesIn w.cls.toNat < 16 →
       Retires i s 1 fun v => s.sameDataAt v [ea] ∧ s.sameScalars v ∧
         s.issued v w.cls.toNat 2 ea (.store key (leBytes n b.toNat)) none (s.accessWait key)) ∧
     (ea < 2 ^ 52 → (resHi ≤ ea ∨ ea + n ≤ winHi) → ea % n ≠ 0 → Faults i s { code := .alignment, addr := ea }))) ∧
  (∀ (w : Wm) (s t u : State) (a b c : Word) (key fn : Nat) (d : SDest) (i : Instr),
   let ea := (a + w.disp.signExtend 64).toNat
   let n := 2 ^ w.sz.toNat
   (i, fn) ∈ [(Instr.aaddAtomic w, 0), (.aand w, 1), (.aor w, 2), (.axor w, 3), (.amin w, 4), (.amax w, 5), (.aminn w, 6), (.amaxn w, 7),
     (.aswp w, 8), (.acas w, 9)] →
   s.takes (shM w .none false 0xF 24 .sDst .sSrc .sSrc (if fn = 9 then .sSrc else .none)) a b c t →
   addrOk ea n n → s.xlate ea (.atom n) = .ok key → s.poisonedAt key n = false → t.reserveS w.d = .ok (d, u) →
   Retires i s 1 fun v => s.sameDataAt v [ea] ∧ s.sameScalars v ∧ v.strm.busy = u.strm.busy ∧ v.core.queues = u.core.queues ∧
     s.issued v w.cls.toNat 3 ea (.atomic fn key n (b.toNat % 2 ^ (8 * n)) (c.toNat % 2 ^ (8 * n)) d) none (s.accessWait key)) ∧
  (∀ (w : Wm) (s t : State) (a b c : Word) (key : Nat) (i : Instr) (h : Shape), let ea := (a + w.disp.signExtend 64).toNat
   (i, h) ∈ [(Instr.pgo w, shM w .opt true 1 24 .portAny .sSrc .none .none), (.wcfg w, shM w .req true 0xFF 24 .none .sSrc .none .none),
     (.cpy2 w, shM w .opt true 3 24 .sDst .sSrc .none .none), (.cpy3 w, shM w .opt true 3 24 .sDst .sSrc .none .none),
     (.enq w, shM w .opt true 3 24 .sDst .sSrc .sSrc .none), (.kvnew w, shK w .req 24 .sDst .sSrc .none .none),
     (.kvfork w, shK w .req 24 .sDst .sSrc .sSrc .sSrc), (.xopen w, shM w .req true 1 24 .sDst .sSrc .none .none)] →
   s.takes h a b c t → addrOk ea 64 64 → s.xlate ea .rd = .ok key → s.strm.desc = none →
   (i = .pgo w → (s.core.port (portIx w.d)).prod = 1 ∧ (s.core.port (portIx w.d)).gen = none) → (i = .enq w → b.toNat ≤ 3) →
   Ends i s fun v => s.sameDataAt v [ea] ∧ s.sameScalars v ∧
     v.strm.pc = s.strm.pc ∧ v.core.queues = s.core.queues ∧ v.core.ports = s.core.ports ∧
     s.issued v w.cls.toNat 1 ea (.desc key) none (s.accessWait key) ∧ ∃ d, v.strm.desc = some d ∧ d.data = none ∧ ∃ o ∈ v.core.ops, o.id = d.id)

/-- R100, R210, R213, R214, R217, R221: an access performs when it is the oldest of its stream and class, its time has come and nothing holds it
back: a load delivers the bytes, extended; the
load of a descriptor its 64 bytes; a store puts its bytes; an atomic delivers the old value and puts the new one in the same step, nothing for
a compare that fails; SWADD raises the sync word. No other byte of memory changes but by the row's own alert. -/
def Obligations.AccessesPerform : Prop := ∀ (s : State) (o : MOp) (key n : Nat), s.performsWhole o →
  (∀ sg k m, o.body = .load key n sg (.scal k m) → 0 < n → n ≤ 8 → 0 < m → Ends (.loadDataReturn o.id) s fun t =>
    s.performed t o key 0 0 ∧ (t.core.strm k).sreg m = loadSpec n sg (s.natAt key n) ∧
      (t.core.strm k).busy = (s.core.strm k).busy.erase m) ∧
  (∀ d, o.body = .desc key → (s.core.strm o.strm).desc = some d → d.id = o.id → Ends (.loadDataReturn o.id) s fun t =>
    s.performed t o key 0 0 ∧ (s.poisonedAt key 64 = false → (t.core.strm o.strm).desc = some { d with data := some (.ok (s.bytesAt key 64)) }) ∧
    (s.poisonedAt key 64 = true → (t.core.strm o.strm).desc = some { d with data := some (.error { code := .poison, addr := o.va }) })) ∧
  (∀ bs, o.body = .store key bs → s.hbmDead key = false → Ends (.storePerform o.id) s fun t =>
    s.performed t o key key bs.length ∧ t.holds key bs) ∧
  (∀ fn b c k m, o.body = .atomic fn key n b c (.scal k m) → 0 < n → n ≤ 8 → b < 2 ^ (8 * n) → c < 2 ^ (8 * n) → 0 < m →
    s.hbmDead key = false → (∀ x, (s.touchRow key).byte x = s.byte x) → Ends (.atomicPerform o.id) s fun t =>
      s.performed t o key key n ∧ (t.core.strm k).sreg m = BitVec.ofNat 64 (s.natAt key n) ∧
      t.natAt key n = (atomicSpec fn (BitVec.ofNat (8 * n) (s.natAt key n)) (BitVec.ofNat (8 * n) b) (BitVec.ofNat (8 * n) c)).toNat) ∧
  (∀ q, o.body = .swadd key q → s.hbmDead key = false → (∀ x, (s.touchRow key).byte x = s.byte x) →
    Ends (.atomicPerform o.id) s fun t => s.performed t o key key 16 ∧ t.natAt key 16 = syncUpdate (s.natAt key 16) q % 2 ^ 128)

/-- R9, R208, R215: LDV, LDVP, STV and STVP issue and complete at issue with every row's address checked and translated, the registers or tiles to store read
whole, the port's slots reserved, the operation in a batch of the word's token; a base or stride off the 128-byte grid faults. The memory
port is held eight cycles a register, and while it is not free the word waits for it. That those who wait for the port take it in the order in which they
came is the model's choice (log entry 47); R22 does not say it. -/
def Obligations.TileAccessesIssue : Prop := ∀ (w : Wm) (s t t1 : State) (a b c : Word) (rows : List (Nat × Nat)),
  let ea := a + w.disp.signExtend 64
  let stride := if w.b.toNat = 696 then 128 else b
  let n := 2 ^ w.sz.toNat
  let p := s.pred w.toHd
  let grid := ea.toNat % 128 = 0 ∧ stride.toNat % 128 = 0
  let vas := (List.range (16 * n)).map fun k => (k, (ea + BitVec.ofNat 64 k * stride).toNat)
  let free := s.portOpen (.strm .a) (8 * n)
  let ready := fun (h : Shape) => s.shadow h = .ok () ∧ free ∧ s.batchRoom w
  let issues := fun (i : Instr) (kinds : BitVec 6) (body : MBody) (also : State → Prop) => Retires i s 1 fun x =>
    s.sameDataAt x (vas.map (·.2)) ∧ s.sameScalars x ∧ (s.core.portBusy ≤ s.now → x.core.portBusy = s.now + 8 * n) ∧ also x ∧
    ∃ tok, s.joinsBatch w tok ∧ s.issuedAt x w.cls.toNat kinds ea.toNat vas body tok 0
  let ld := shTile w true (vr w) .sSrc .sSrc .none
  let ldp := shTile w false (.portOf true n) .sSrc .sSrc .none
  let store := fun (i : Instr) (o : OpK) => let h := shTile w false .none .sSrc .sSrc o
    s.takesOf h { h with c := .none } a b c t →
    ∀ v, grid → s.rowsAt .wr ea stride (16 * n) rows → ready h → t.readV w.c n = .ok (.tiles v, t1) →
      issues i 2 (.stv rows v p) fun x => x.core.ports = t1.core.ports
  (s.takes ld a b c t →
    (grid → s.rowsAt .rd ea stride (16 * n) rows → ready ld →
      issues (.ldv w) 1 (.ldv rows (s.physRange w.d.toNat n) p) fun x => x.core.ports = s.core.ports) ∧
    (grid → s.rowsAt .rd ea stride (16 * n) rows → ¬ free → exec (.ldv w) s = .next (s.standAtPort (.strm .a))) ∧
    (ea.toNat < 2 ^ 52 → (resHi ≤ ea.toNat ∨ ea.toNat + 128 ≤ winHi) → ¬ grid →
      Faults (.ldv w) s { code := .alignment, addr := ea.toNat })) ∧
  (s.takes ldp a b c t →
    grid → s.rowsAt .rd ea stride (16 * n) rows → ready ldp → (s.core.port (portIx w.d)).slots.length + n ≤ 4 →
      ∃ slots : List Nat, slots.length = n ∧ issues (.ldvp w) 1 (.ldvp rows (portIx w.d) slots p (List.replicate n [])) fun x =>
        (x.core.port (portIx w.d)).slots = (s.core.port (portIx w.d)).slots ++ slots.map .res ∧
        ∀ q, q ≠ portIx w.d → x.core.port q = s.core.port q) ∧
  store (.stv w) (vr w) ∧ store (.stvp w) (.portOf false n)

/-- R31, R36, R45, R96, R215, R274: a row of a tile load puts its 128 bytes into the predicated lanes of its row of its register and leaves every
other lane; a row of a tile store writes the predicated lanes' two bytes each and no other byte; a row of a matrix image its bytes of the
image. A register bound for a port enters it once its rows are in. The last row ends the access, whose batch then holds one operation less. -/
def Obligations.TileRowsPerform : Prop := ∀ (s : State) (o : MOp) (row key : Nat) (part : Part), s.performs o (fun q => q.ix == row) part →
  let ended := fun (t : State) => s.leaves t o.tok none ∧ ∀ x ∈ t.core.ops, x.id ≠ o.id
  (∀ todo regs pred r, o.body = .ldv todo regs pred → row < 128 → (todo.filter fun p => p.1 == row) = [(row, key)] → s.poisonedAt key 128 = false →
    regs[row / 16]? = some r → Ends (.tileLoadComplete o.id row) s fun t => (s.touchRow key).sameMemory t ∧
      (∀ i j, i < 16 → j < 64 → Sparse.get (t.core.vreg r) (64 * i + j) =
        if i = row % 16 ∧ pred.getLsbD (64 * i + j) = true then BitVec.ofNat 16 (s.natAt (key + 2 * j) 2)
        else Sparse.get (s.core.vreg r) (64 * i + j)) ∧ (∀ q, q ≠ r → t.core.vreg q = s.core.vreg q) ∧ (todo = [(row, key)] → ended t)) ∧
  (∀ todo regs pred, o.body = .ldv todo regs pred → (todo.filter fun p => p.1 == row) = [(row, key)] → s.poisonedAt key 128 = true →
    Ends (.tileLoadComplete o.id row) s fun t => t.mem = s.mem ∧ t.core.vregs = s.core.vregs ∧ (∀ x ∈ t.core.ops, x.id ≠ o.id) ∧
      s.leaves t o.tok (some { code := .poison, addr := o.vaOf row, info := o.vaOf row, eva := true })) ∧
  (∀ todo data pred v, o.body = .stv todo data pred → row < 128 → (todo.filter fun p => p.1 == row) = [(row, key)] → s.hbmDead key = false →
    key % 128 = 0 → data[row / 16]? = some v → Ends (.tileLoadComplete o.id row) s fun t => (todo = [(row, key)] → ended t) ∧ ∀ k, t.byte k =
      if key ≤ k ∧ k < key + 128 ∧ pred.getLsbD (64 * (row % 16) + (k - key) / 2) = true
        then BitVec.ofNat 8 ((Sparse.get v (64 * (row % 16) + (k - key) / 2)).toNat / 256 ^ ((k - key) % 2))
        else (s.touchRow key).byte k) ∧
  (∀ todo port slots pred acc, o.body = .ldvp todo port slots pred acc → row < 128 → (todo.filter fun p => p.1 == row) = [(row, key)] →
    s.poisonedAt key 128 = false → acc.length = slots.length → row / 16 < acc.length → Ends (.tileLoadComplete o.id row) s fun t =>
      (s.touchRow key).sameMemory t ∧ t.core.vregs = s.core.vregs ∧ (todo = [(row, key)] → ended t) ∧
      ((∀ p ∈ todo, p.1 ≠ row → p.1 / 16 ≠ row / 16) → ∀ id, slots[row / 16]? = some id → (PSlot.res id) ∉ (t.core.port port).slots)) ∧
  (∀ pages va bs left, o.body = .astr pages va bs left → row ∈ left → left.Nodup → va % 64 = 0 → s.hbmDead key = false →
    let lo := max va (128 * row)
    let n := min (va + bs.length) (128 * row + 128) - lo
    lo < va + bs.length → va ≤ lo → keyIn pages lo = key → lo < 2 ^ 52 → Ends (.tileLoadComplete o.id row) s fun t =>
      t.bytesAt key n = (bs.drop (lo - va)).take n ∧ (s.touchRow key).sameMemoryBut key n t ∧ (left = [row] → ended t))

/-- R45, R96, R216, R321: LDG and STG issue and complete at issue with the address of every predicated lane checked and translated: A plus the
displacement plus the lane's index scaled; with no such lane the operation has been performed at once. Each predicated lane receives its element, or
its element is stored, one at a time; the last one ends the operation. R216 leaves the order to the hardware: that the first lane that nothing holds back
goes first, and the cycles the memory port is held, are the model's choice (log entry 48). -/
def Obligations.GatherAndScatter : Prop :=
  (∀ (w : Wm) (s t : State) (a b c : Word) (l : List VReg) (x : State) (keys : List (Nat × Nat)),
    let p := s.pred w.toHd
    let n := if w.sz = 2 then 4 else 2
    let iw := bitsOf w.disp.toNat 23 22
    let addrs := fun (acc : Acc) => keys.map (·.1) = predLanes p ∧ ∀ e ∈ keys,
      addrOk (laneAddr w a l e.1) n n ∧ s.xlate (laneAddr w a l e.1) acc = .ok e.2
    let vas := keys.map fun e => (e.1, laneAddr w a l e.1)
    let issues := fun (i : Instr) (kinds : BitVec 6) (body : MBody) =>
      (keys ≠ [] → Retires i s 8 fun v => s.sameDataAt v (vas.map (·.2)) ∧ s.sameScalars v ∧
        ∃ tok, s.joinsBatch w tok ∧ s.issuedAt v w.cls.toNat kinds a.toNat vas body tok 0) ∧
      (keys = [] → Retires i s 8 fun v => s.sameData { v with parked := s.parked } ∧ s.sameScalars v ∧ v.core.ops = s.core.ops ∧
        (s.core.running = true → (s.strm.token w.tk.toNat).count = 0 → (v.strm.token w.tk.toNat).count = 0))
    let ready := fun (h : Shape) => s.shadow h = .ok () ∧ s.portOpen (.strm .a) (if keys.isEmpty then 0 else 4 * n) ∧ s.batchRoom w
    s.readV w.b (if iw = 2 then 2 else 1) = .ok (.tiles l, x) →
    (s.takesOf (shGather w true) { shGather w true with b := .none } a b c t → addrs .rd → ready (shGather w true) →
      issues (.ldg w) 1 (.ldg keys n (s.physRange w.d.toNat (n / 2)))) ∧
    (∀ d y, s.takesOf (shGather w false) { shGather w false with b := .none, c := .none } a b c t → addrs .wr → ready (shGather w false) →
      s.readV w.c (n / 2) = .ok (.tiles d, y) →
      issues (.stg w) 2 (.stg (keys.map fun e => (e.1, e.2, elemBits (if n = 4 then .n32 else .n16) d (e.1 / 64) (e.1 % 64))) n))) ∧
  (∀ (s : State) (o : MOp) (lane key : Nat) (part : Part), s.performs o (fun _ => true) part → part.ix = lane →
    let ended := fun (t : State) => s.leaves t o.tok none ∧ ∀ x ∈ t.core.ops, x.id ≠ o.id
    (∀ e n r h, o.body = .ldg e n (if n = 4 then [r, h] else [r]) → n = 2 ∨ n = 4 → r ≠ h → (e.find? fun x => x.1 == lane) = some (lane, key) →
      s.poisonedAt key n = false → Ends (.gatherComplete o.id) s fun t => (s.touchRow key).sameMemory t ∧
        Sparse.get (t.core.vreg r) lane = BitVec.ofNat 16 (s.natAt key n) ∧
        (n = 4 → Sparse.get (t.core.vreg h) lane = BitVec.ofNat 16 (s.natAt key 4 / 65536)) ∧
        (∀ q m, (q ≠ r ∧ (n = 4 → q ≠ h)) ∨ m ≠ lane → Sparse.get (t.core.vreg q) m = Sparse.get (s.core.vreg q) m) ∧
        (e = [(lane, key)] → ended t)) ∧
    (∀ e n v, o.body = .stg e n → (e.find? fun x => x.1 == lane) = some (lane, key, v) → s.hbmDead key = false → v < 2 ^ (8 * n) →
      Ends (.gatherComplete o.id) s fun t => t.natAt key n = v ∧ (s.touchRow key).sameMemoryBut key n t ∧ (e = [(lane, key, v)] → ended t)))

/-- R88, R101, R218 to R221: FENCE completes once no access of its earlier set is left: the stream's own of its kinds and classes and, with MR or MW a
predecessor at core scope or wider, M's matrix accesses; SWINIT puts target and generation into the sync word; SWADD
adds B; SWWAIT gives GEN, OVF and ERR once the word shows an advance past B or ERR, its abandon flag when it gives up, and else
watches, to complete later. -/
def Obligations.FenceAndSyncWords : Prop :=
  (∀ (w : Wf) (s : State), let earlier := fun (o : MOp) => (o.strm = s.cur ∧ o.kinds &&& w.pred ≠ 0 ∧ w.clm.getLsbD o.cls = true) ∨
      (1 ≤ w.scope.toNat ∧ w.pred &&& 0x30#6 ≠ 0 ∧ o.strm = .m ∧ o.kinds &&& 0x30#6 ≠ 0)
    s.legal (shFence w) → ((∀ o ∈ s.core.ops, ¬ earlier o) → s.copiesPending w = false → exec (.fence w) s = .next (s.retire 1)) ∧
    ((w.pred = 0 ∨ w.succ = 0 ∨ w.clm = 0) → exec (.fence w) s = .next (s.retire 1)) ∧
    (w.pred ≠ 0 → w.succ ≠ 0 → w.clm ≠ 0 → (∃ o ∈ s.core.ops, earlier o) → exec (.fence w) s = .next s)) ∧
  (∀ (w : Wm) (s t : State) (a b c : Word) (key : Nat), let ea := (a + w.disp.signExtend 64).toNat
    addrOk ea 16 16 → s.xlate ea .sync = .ok key →
    (s.takes (shM w .none false 1 24 .none .sSrc .sSrc .sSrc) a b c t → b.toNat < 2 ^ 32 → c.toNat < 2 ^ 32 → s.storesIn w.cls.toNat < 16 →
      Retires (.swinit w) s 1 fun v => s.sameDataAt v [ea] ∧ s.sameScalars v ∧
        s.issued v w.cls.toNat 2 ea (.store key (leBytes 16 (b.toNat + 2 ^ 64 * c.toNat))) none (s.accessWait key)) ∧
    (s.takes (shM w .none false 1 24 .none .sSrc .sSrc .none) a b c t → b.toNat < 2 ^ 32 → s.poisonedAt key 16 = false →
      Retires (.swadd w) s 1 fun v => s.sameDataAt v [ea] ∧ s.sameScalars v ∧
        s.issued v w.cls.toNat 3 ea (.swadd key b.toNat) none (s.accessWait key))) ∧
  (∀ (w : Wm) (s t : State) (a b c : Word) (key : Nat), let ea := (a + w.disp.signExtend 64).toNat
    let word := s.natAt key 16
    let past := (word / 2 ^ 64 % 2 ^ 32 + 2 ^ 32 - b.toNat % 2 ^ 32) % 2 ^ 32
    let shows := (1 ≤ past ∧ past < 2 ^ 31) ∨ word.testBit 97 = true
    let gives := fun (i : Instr) (flag : Nat) => ∀ u,
      (t.touchRow key).gives w.d (BitVec.ofNat 64 (word / 2 ^ 64 % 2 ^ 34 + flag)) 1 u →
      exec i s = .next ((u.upd fun x => { x with swwait := none }).retire 1)
    s.takes (shM w .none false 3 24 .sDst .sSrc .sSrc .none) a b c t → addrOk ea 16 16 → s.xlate ea .watch = .ok key →
    s.poisonedAt key 16 = false → s.classDone w → s.gate [key] [] = .go →
    (shows → gives (.swwait w) 0 ∧ (s.cur = .a → s.core.live .a = true → s.core.sa.swwait = some w → gives .swwaitComplete 0)) ∧
    (¬ shows → w.sz.getLsbD 0 = true → gives (.swwait w) (2 ^ 63)) ∧
    (¬ shows → w.sz.getLsbD 0 = false → (s.strm.swwait ≠ none → exec (.swwait w) s = .next s) ∧
      (s.strm.swwait = none → exec (.swwait w) s = .next (((s.touchRow key).fillTlb ea).upd fun x => { x with swwait := some w }))))

/-! ### Ports, windows, copies, batches and queues (09, R91 to R97, R222 to R233) -/

/-- R222 to R224: PCFG configures an empty port without a generator; one that holds a tile or a generator, or whose two sides are one
stream, faults. PGO starts the generator its descriptor gives; PSTOP ends it; PFLUSH empties and unconfigures the port.
R96, R212, R223: a generator with room in its port takes the memory port for eight cycles and reads the sixteen rows of its next tile, two a cycle; with
the sixteenth the tile is pushed, and the last tile ends the generator and its batch; a row that cannot be read marks the tile, which is the last. With
four tiles in the port it waits, and so it does while the memory port is not free; that those who wait for the port take it in the order in which they
came is the model's choice (log entry 47). -/
def Obligations.PortsAndGenerators : Prop :=
  (∀ (w : Wm) (s t : State) (a b c : Word) (bs : List Byte),
   let n := portIx w.d
   let p := s.core.port n
   let prod := w.disp.toNat % 4
   let cons := w.disp.toNat / 4 % 4
   let h := shM w .opt true 1 24 .portAny .sSrc .none .none
   (s.legal (shPcfg w) → (prod, cons) ∉ [(0, 0), (2, 1), (3, 2)] →
     (p.slots = [] → p.gen = none → Retires (.pcfg w) s 1 fun v => s.sameData v ∧ s.sameScalars v ∧
       v.core.port n = { configured := true, prod := prod, cons := cons, slots := [], gen := none } ∧
       ∀ q, q ≠ n → v.core.port q = s.core.port q) ∧
     ((p.slots ≠ [] ∨ p.gen ≠ none) → Faults (.pcfg w) s (fltS .illegalOperand 9))) ∧
   (s.legal (shPcfg w) → (prod, cons) ∈ [(0, 0), (2, 1), (3, 2)] → Faults (.pcfg w) s (flt .illegalOperand)) ∧
   (∀ key, s.static h = .ok () → s.sources h = .ok ((a, b, c), t) → addrOk (effAddr w a) 64 64 → s.xlate (effAddr w a) .rd = .ok key →
     (p.prod ≠ 1 ∨ p.gen ≠ none) → Faults (.pgo w) s (flt .illegalOperand)) ∧
   (s.takes h a b c t → s.descAt w a bs → pagLimits bs → s.batchRoom w →
     p.prod = 1 → p.gen = none → Retires (.pgo w) s 1 fun v => s.sameData v ∧ s.sameScalars v ∧ (v.core.port n).slots = p.slots ∧
       ∃ g, (v.core.port n).gen = some g ∧ s.joinsBatch w g.tok ∧ g.pos = 0 ∧ g.row = 0 ∧ g.start = none ∧ g.cls = w.cls.toNat ∧
         g.rstr = (if fieldInt bs 8 8 = 0 then 128 else fieldInt bs 8 8) ∧
         ∀ k, g.addr k = fieldNat bs 0 8 + (k % fieldNat bs 16 4 : Nat) * fieldInt bs 32 8 +
           (k / fieldNat bs 16 4 % fieldNat bs 20 4 : Nat) * fieldInt bs 40 8 +
           (k / (fieldNat bs 16 4 * fieldNat bs 20 4) : Nat) * fieldInt bs 48 8) ∧
   (s.legal (shM0 w .none 1 0 .portAny .none .none .none) →
     (Retires (.pstop w) s 1 fun v => s.sameData { v with parked := s.parked } ∧ s.sameScalars v ∧ (v.core.port n).gen = none ∧ (v.core.port n).slots = p.slots) ∧
     (Retires (.pflush w) s 1 fun v => s.sameData { v with parked := s.parked } ∧ s.sameScalars v ∧ v.core.port n = default ∧
       (∀ q, q ≠ n → v.core.port q = s.core.port q) ∧
       ∀ o ∈ v.core.ops, ∀ todo slots q acc, o.body ≠ .ldvp todo n slots q acc))) ∧
  (∀ (s : State) (n : Nat) (g : Pag), s.core.running = true → (s.core.port n).gen = some g →
   let p := s.core.port n
   let x : State := { s with cur := .a }
   let va := (BitVec.ofInt 64 (g.addr g.pos + g.row * g.rstr)).toNat
   let more := g.pos + 1 < g.n0 * g.n1 * g.n2
   let step := fun (t : State) => (t.core.port n).gen
   (g.start = none → 4 ≤ p.slots.length → exec (.pgenTilePush n) s = .next s) ∧
   (g.start = none → p.slots.length < 4 → ¬ s.portOpen (.gen n) 8 → exec (.pgenTilePush n) s = .next (s.standAtPort (.gen n))) ∧
   (g.start = none → p.slots.length < 4 → s.portOpen (.gen n) 8 → Ends (.pgenTilePush n) s fun t => s.sameData t ∧ s.sameScalars t ∧
     step t = some { g with start := some s.now } ∧ (t.core.port n).slots = p.slots ∧ (s.core.portBusy ≤ s.now → t.core.portBusy = s.now + 8)) ∧
   (∀ at_, g.start = some at_ → s.now < at_ + g.row / 2 → exec (.pgenTilePush n) s = .next s) ∧
   (∀ at_ f, g.start = some at_ → at_ + g.row / 2 ≤ s.now → va < 2 ^ 52 → (resHi ≤ va ∨ va + 128 ≤ winHi) → x.xlate va .rd = .error (.trap f) →
     Ends (.pgenTilePush n) s fun t => t.mem = s.mem ∧ step t = none ∧ s.leaves t g.tok none ∧
       (t.core.port n).slots = p.slots ++ [.tile { data := g.got, mark := some { f with addr := va, info := va, eva := true } }]) ∧
   (∀ at_ key, g.start = some at_ → at_ + g.row / 2 ≤ s.now → g.row < 16 → va < 2 ^ 52 → (resHi ≤ va ∨ va + 128 ≤ winHi) →
     x.xlate va .rd = .ok key → s.poisonedAt key 128 = false → s.pathHeld s.ids g.cls key false = false → s.gate [key] [] = .go →
     Ends (.pgenTilePush n) s fun t => ((x.fillTlb va).touchRow key).sameMemory t ∧ t.core.vregs = s.core.vregs ∧ s.sameScalars t ∧
       ∃ v : VReg, (∀ k j, k < 16 → j < 64 → Sparse.get v (64 * k + j) =
           if k = g.row then BitVec.ofNat 16 (s.natAt (key + 2 * j) 2) else Sparse.get g.got (64 * k + j)) ∧
         (g.row + 1 < 16 → step t = some { g with row := g.row + 1, got := v } ∧ (t.core.port n).slots = p.slots) ∧
         (g.row + 1 = 16 → (t.core.port n).slots = p.slots ++ [.tile ⟨v, none⟩] ∧
           (more → step t = some { g with pos := g.pos + 1, row := 0, start := none, got := [], blocked := [] }) ∧
           (¬ more → step t = none ∧ s.leaves t g.tok none))))

/-- R91, R92, R96, R225 to R227: WCFG fetches the first rows of a window its descriptor gives; WADV moves on by n rows and fetches as many; WREL
frees the window. A row that performs holds the tensor's 128 bytes, or zeros beyond its last row; the last one ends the fetch and its batch's
operation, and so does a row whose address does not translate, with the error. -/
def Obligations.Windows : Prop :=
  (∀ (w : Wm) (s t : State) (a b c : Word) (bs : List Byte),
    let n := w.sz.toNat
    let fetching := fun (v : State) (win : Win) (r k : Nat) => Sparse.get v.core.wins n = some win ∧
      ∃ id todo tok, v.core.fetches = s.core.fetches ++ [{ id := id, todo := todo, cls := w.cls.toNat, tok := tok, blocked := [] }] ∧
        s.joinsBatch w tok ∧ win.fetches r k todo
    s.batchRoom w →
    (s.takes (shM w .req true 0xFF 24 .none .sSrc .none .none) a b c t → s.descAt w a bs → winLimits bs →
      (Sparse.get s.core.wins n = none → Retires (.wcfg w) s 1 fun v => s.sameData v ∧ s.sameScalars v ∧
        fetching v (winSpec bs) (winSpec bs).h (2 ^ (winSpec bs).lk)) ∧
      (Sparse.get s.core.wins n ≠ none → Faults (.wcfg w) s (fltS .illegalOperand 11))) ∧
    (∀ win, Sparse.get s.core.wins n = some win → s.legal (shM w .req true 0xFF 7 .none .none .none .none) →
      0 < w.disp.toNat → w.disp.toNat ≤ 2 ^ win.lk → s.classDone w →
      Retires (.wadv w) s 1 fun v => s.sameData v ∧ s.sameScalars v ∧
        fetching v { win with h := win.h + w.disp.toNat } (win.h + 2 ^ win.lk) w.disp.toNat) ∧
    (s.legal (shM0 w .none 0xFF 0 .none .none .none .none) → Retires (.wrel w) s 1 fun v => s.sameData v ∧ s.sameScalars v ∧
      Sparse.get v.core.wins n = none ∧ v.core.fetches = s.core.fetches)) ∧
  (∀ (s : State) (f : WFetch) (p : WPiece) (r : List WFetch), s.core.running = true → s.core.fetches = f :: r →
    p ∈ f.todo → (f.todo.map (·.ix)).Nodup →
    let x : State := { s with cur := .a }
    let dst := scratchKey s.core.clusterIx p.dst
    let ended := fun (t : State) (err : Option FaultInfo) => s.leaves t f.tok err ∧ ∀ y ∈ t.core.fetches, y.id ≠ f.id
    let goes := fun (t : State) => (f.todo = [p] → ended t none) ∧
      (f.todo ≠ [p] → ∃ y ∈ t.core.fetches, y.id = f.id ∧ y.todo = f.todo.filter fun q => q.ix != p.ix)
    (s.flows dst → p.src = none → Ends (.windowFetchPerform f.id p.ix) s fun t =>
      (∀ k < 128, t.byte (dst + k) = 0) ∧ s.sameMemoryBut dst 128 t ∧ goes t) ∧
    (∀ va key, s.flows dst → p.src = some va → va < 2 ^ 52 → (resHi ≤ va ∨ va + 128 ≤ winHi) → x.xlate va .rd = .ok key →
      s.poisonedAt key 128 = false → s.pathHeld f.id f.cls key false = false → s.flows key → Ends (.windowFetchPerform f.id p.ix) s fun t =>
        (∀ k < 128, t.byte (dst + k) = s.byte (key + k)) ∧ ((x.fillTlbs [va]).touchRow key).sameMemoryBut dst 128 t ∧ goes t) ∧
    (∀ va e, p.src = some va → va < 2 ^ 52 → (resHi ≤ va ∨ va + 128 ≤ winHi) → x.xlate va .rd = .error (.trap e) →
      Ends (.windowFetchPerform f.id p.ix) s fun t => t.mem = s.mem ∧ ended t (some { e with addr := va, info := va, eva := true })))

/-- R94, R95, R228, R229: CPY, CPYSW, CPY2 and CPY3: a copy within its limits whose pages translate joins the Rake's queue and completes, D reading 0; a full
queue makes the word wait, or under `nb` gives D 1 and nothing else. CPYSW names a sync word. Overlapping ranges and lengths out of range
are illegal operands. That the word waits for its class before it looks at the queue is the model's choice (log entry 70).
R93: a row is begun only by the head of its core's queue, within the core's share of the round (512 bytes times its weight); without a
share left it waits while another core of the cluster can use its own, and then a new round begins.
R87, R89, R96, R304: the bytes that the copy's runs have in one destination row are read, and then written in one step, which changes no other byte;
then the sync word, if any, is raised by their number, and they are counted; the last row ends the copy and its batch's operation. -/
def Obligations.CopiesAreQueuedAndPerform : Prop :=
  (∀ (w : Wm) (s t t1 : State) (a b c d : Word) (pages : List (Nat × Nat)) (bs : List Byte) (key : Nat),
   let src := (a + w.disp.signExtend 64).toNat
   let one : Chunk := { src := src, dst := b.toNat, len := c.toNat }
   let sh := shM w .opt true 3 24 .sDst .sSrc .sSrc .sSrc
   let shd := shM w .opt true 3 24 .sDst .sSrc .none .none
   let waits := (s.rakeQueue s.core.did s.core.cid).length
   let added := fun (from_ v : State) (runs : List Chunk) (sw : Option Nat) => from_.sameDataAt v ((dedup pages).map (·.1)) ∧
     ∃ k, v.core.rake = s.core.rake ++ [k] ∧ k.todo = runs ∧ k.work = none ∧
     k.sw = sw ∧ k.send = none ∧ s.joinsBatch w k.tok ∧ k.cls = w.cls.toNat ∧ k.pages = dedup pages ∧ k.weight = s.core.rakeW
   let queued := fun (i : Instr) (runs : List Chunk) =>
     s.copyPages runs = .ok pages → s.classDone w → waits < 32 → s.batchRoom w → t.open_ w.d →
     Retires i s 1 fun v => added s v runs none ∧ s.sameScalarsBut v w.d ∧ s.gave v w.d 0
   let apart := b.toNat + c.toNat ≤ src ∨ src + c.toNat ≤ b.toNat
   (s.takes sh a b c t → 0 < c.toNat → c.toNat ≤ 2 ^ 24 → apart → queued (.cpy w) [one]) ∧
   (s.takes sh a b c t → 0 < c.toNat → c.toNat ≤ 2 ^ 24 → apart → s.copyPages [one] = .ok pages → s.classDone w → 32 ≤ waits →
     (w.sz.getLsbD 0 = false → exec (.cpy w) s = .next s) ∧
     (∀ y, w.sz.getLsbD 0 = true → t.gives w.d 1 1 y → exec (.cpy w) s = .next (y.retire 1))) ∧
   (s.takes sh a b c t → (c.toNat = 0 ∨ 2 ^ 24 < c.toNat) → Faults (.cpy w) s (flt .illegalOperand)) ∧
   (s.takes sh a b c t → 0 < c.toNat → c.toNat ≤ 2 ^ 24 → s.copyPages [one] = .ok pages → ¬ apart → Faults (.cpy w) s (fltS .illegalOperand 12)) ∧
   (s.takes (shM w .opt true 1 24 .sSrc .sSrc .sSrc .sSrc) a b c t → t.readS w.d = .ok (d, t1) → 0 < c.toNat → c.toNat ≤ 2 ^ 24 → apart →
     addrOk d.toNat 16 16 → s.xlate d.toNat .sync = .ok key → s.copyPages [one] = .ok pages → s.classDone w → waits < 32 → s.batchRoom w →
     Retires (.cpysw w) s 1 fun v => added (s.fillTlb d.toNat) v [one] (some key) ∧ s.sameScalars v) ∧
   (s.takes shd a b c t → s.descAt w a bs →
     (stridedLimits bs false = .ok () → queued (.cpy2 w) (copyRuns bs)) ∧
     (stridedLimits bs true = .ok () → queued (.cpy3 w) (copyRuns bs))) ∧
   (∀ y z, y < fieldNat bs 20 4 → z < fieldNat bs 24 4 → ({
       src := (BitVec.ofInt 64 (fieldNat bs 8 8 + y * fieldInt bs 32 8 + z * fieldInt bs 40 8)).toNat
       dst := (BitVec.ofInt 64 (fieldNat bs 0 8 + y * fieldInt bs 48 8 + z * fieldInt bs 56 8)).toNat
       len := fieldNat bs 16 4 } : Chunk) ∈ copyRuns bs)) ∧
  (∀ (row : Nat) (l : List Chunk),
    ((cutRow row l).1.length = (l.filter fun c => decide (c.dst < 128 * row + 128 ∧ 128 * row < c.dst + c.len ∧ 0 < c.len)).length) ∧
    (((cutRow row l).1 ++ (cutRow row l).2).map (·.len)).sum = (l.map (·.len)).sum ∧
    ∀ p ∈ (cutRow row l).1, (∃ c ∈ l, p.dst = max c.dst (128 * row) ∧ p.dst + p.len = min (c.dst + c.len) (128 * row + 128) ∧
        p.src + c.dst = c.src + p.dst) ∧
      (p.bySource.map (·.len)).sum = p.len ∧ ∀ q ∈ p.bySource, q.src % 128 + q.len ≤ 128 ∧ q.src + p.dst = p.src + q.dst) ∧
  (∀ (s : State) (k : Copy) (r : List Copy) (row : Nat), s.core.rake = k :: r →
   let ps := (cutRow row k.todo).1
   let rest := (cutRow row k.todo).2
   let n := pieceSum ps
   let left := s.rakeLeft k.die k.cid
   let now := fun (t : State) (w : RowWork) => t.core.rake = { k with work := some w } :: r
   (s.rakeHead k = false → exec (.rakeRowPerform k.id row) s = .next s) ∧
   (s.rakeHead k = true → (∀ x ∈ r, x.id ≠ k.id) →
     (k.work = none → (ps = [] ∨ (left < n ∧ s.rakeOthers k = true)) → exec (.rakeRowPerform k.id row) s = .next s) ∧
     (k.work = none → ps ≠ [] → (n ≤ left ∨ s.rakeOthers k = false) → Ends (.rakeRowPerform k.id row) s fun t => t.mem = s.mem ∧
       now t { row := row, reads := ps.flatMap Chunk.bySource, got := [], wrote := none } ∧
       (k.die < s.dies.length → t.rakeLeft k.die k.cid = (if n ≤ left then left else 512 * s.rakeWeight k.die k.cid) - n)) ∧
     (∀ p q got, k.work = some { row := row, reads := p :: q, got := got, wrote := none } → s.readError k p = none →
       let key := keyIn k.pages p.src
       s.pathHeld k.id k.cls key false = false → s.gate [key] [] = .go → Ends (.rakeRowPerform k.id row) s fun t => (s.touchRow key).sameMemory t ∧
         now t { row := row, reads := q, got := got ++ [(p.dst, s.bytesIn k.pages p.src p.len)], wrote := none }) ∧
     (∀ va bs, k.work = some { row := row, reads := [], got := [(va, bs)], wrote := none } → s.writeError k va = none → ∀ dst, s.copyDst k va = some [dst] →
       s.pathHeld k.id k.cls dst false = false → s.gate [] [dst] = .go → s.hbmDead dst = false → Ends (.rakeRowPerform k.id row) s fun t =>
         t.bytesAt dst bs.length = bs ∧ (s.touchRow dst).sameMemoryBut dst bs.length t ∧
         now t { row := row, reads := [], got := [(va, bs)], wrote := some bs.length }) ∧
     (∀ got m, k.work = some { row := row, reads := [], got := got, wrote := some m } →
       let done := fun (t : State) => Sparse.get t.core.pmc 10 = (Sparse.get s.core.pmc 10 + m) % 2 ^ 64 ∧
         (rest = [] → k.send = none → (∀ x ∈ t.core.rake, x.id ≠ k.id) ∧ s.leaves t k.tok none) ∧
         (rest ≠ [] → t.core.rake = { k with todo := rest, work := none, send := k.send.map fun x => { x with replays := 0 } } :: r)
       (k.sw = none → Ends (.rakeRowPerform k.id row) s fun t => t.mem = s.mem ∧ done t) ∧
       (∀ x, k.sw = some x → s.pathHeld k.id k.cls x false = false → s.gate [] [x] = .go → s.alive x 16 → Ends (.rakeRowPerform k.id row) s fun t =>
         t.natAt x 16 = syncUpdate ((s.touchRow x).natAt x 16) m % 2 ^ 128 ∧ (s.touchRow x).sameMemoryBut x 16 t ∧ done t))))

/-- R40, R96, R97, R211, R230: CBAT closes the token's open batch, unless 255 closed ones are outstanding; a token counts its closed batches and an
open one that is not empty; WAITN completes when the count is at most n, and raises the error of a batch whose end lets it complete. The end of an
operation takes it from its batch: an open batch that it empties counts no more; a closed one leaves, and with it the count falls, once no older batch is
outstanding; so a WAITN that waits for it completes.
R104, R231 to R233: PREF only fills TLBs; ENQ puts its record into a mailbox with room and gives D 0, or under `nb` gives 1 when the
mailbox is full; DEQ gives the oldest completion element, or under `nb` all ones when there is none. -/
def Obligations.BatchesHintsMailboxes : Prop :=
  (∀ (w : Wm) (s : State),
   let tk := w.tk.toNat
   let t := s.strm.token tk
   (s.legal { shM0 w .req 1 0 .none .none .none .none with streams := [.a, .m] } →
     ((t.openB = none ∨ t.closed.length < 255) → Retires (.cbat w) s 1 fun v =>
       s.sameData v ∧ s.sameScalars v ∧ (v.strm.token tk).openB = none ∧ (∀ n, n ≠ tk → v.strm.token n = s.strm.token n) ∧
       (∀ b, t.openB = some b → t.closed = [] → (v.strm.token tk).count = if b.left = 0 then 0 else 1)) ∧
     (∀ b, t.openB = some b → 255 ≤ t.closed.length → exec (.cbat w) s = .next s)) ∧
   (s.legal { shM0 w .req 1 8 .none .none .none .none with streams := [.a, .m] } →
     (t.count ≤ w.disp.toNat → t.raised w.disp.toNat = none → exec (.waitn w) s = .next (s.retire 1)) ∧
     (w.disp.toNat < t.count → exec (.waitn w) s = .next s) ∧
     (∀ f, t.count ≤ w.disp.toNat → t.raised w.disp.toNat = some f → f.code ≠ .noBacking →
       Faults (.waitn w) s { f with eva := true, tok := some (tk, w.disp.toNat) }))) ∧
  (∀ (t : Token) (n id : Nat) (e err : Option FaultInfo), (∀ b ∈ t.closed, b.left ≠ 0) →
    (t.openB = some { id := id, left := n + 1, err := e } → (∀ b ∈ t.closed, b.id ≠ id) → let u := t.perform id err
      u.closed = t.closed ∧ u.openB = some { id := id, left := n, err := if e.isSome then e else err } ∧
      t.count = t.closed.length + 1 ∧ u.count = t.closed.length + (if n = 0 then 0 else 1)) ∧
    (∀ l r, t.closed = l ++ { id := id, left := n + 1, err := e } :: r → (∀ b ∈ l ++ r, b.id ≠ id) → (∀ b, t.openB = some b → b.id ≠ id) →
      let u := t.perform id err
      u.openB = t.openB ∧ (n = 0 → l = [] → u.closed = r ∧ u.count + 1 = t.count) ∧
      ((n ≠ 0 ∨ l ≠ []) → u.closed = l ++ { id := id, left := n, err := if e.isSome then e else err } :: r ∧ u.count = t.count))) ∧
  (∀ (s : State) (r : TokRef) (err : Option FaultInfo), s.core.holds r.lrec r.job = true → let t := s.endOp (some r) err
    s.leaves t (some r) err ∧ t.mem = s.mem ∧ (∀ k, t.core.strm k = if k = r.strm then (s.core.strm k).setToken r.tok
      (((s.core.strm k).token r.tok).perform r.batch err) else s.core.strm k) ∧
    ∀ w : Wm, w.tk.toNat = r.tok → r.strm = s.cur → s.strm.token r.tok = { openB := none, closed := [{ id := r.batch, left := 1, err := none }], errs := [] } →
      let sh := { shM0 w .req 1 8 .none .none .none .none with streams := [.a, .m] }
      (s.legal sh → w.disp = 0 → exec (.waitn w) s = .next s) ∧
      (t.legal sh → err = none → exec (.waitn w) t = .next (t.retire 1)) ∧
      (∀ f, t.legal sh → err = some f → f.code ≠ .noBacking → w.disp = 0 → Faults (.waitn w) t { f with eva := true, tok := some (r.tok, 0) })) ∧
  (∀ (w : Wm) (s t y : State) (a b c : Word) (bs : List Byte),
   (s.takes (shM0 w .none 1 24 .none .sSrc .sSrc .none) a b c t → Retires (.pref w) s 1 fun v => (s.alerted v ∨ s.sameData v) ∧ s.sameScalars v ∧
     v.core.ops = s.core.ops ∧ v.core.tlb = s.core.tlb) ∧
   (let h := shM w .opt true 3 24 .sDst .sSrc .sSrc .none
    let box := Sparse.get (s.die s.core.did).mbox b.toNat
    (s.takes h a b c t → s.descAt w a bs → b.toNat ≤ 3 →
     (s.core.did < s.dies.length → box.length < 16 → s.batchRoom w → t.open_ w.d → Retires (.enq w) s 1 fun v =>
       s.sameData v ∧ s.sameScalarsBut v w.d ∧ s.gave v w.d 0 ∧ ∃ tok, s.joinsBatch w tok ∧ Sparse.get (v.die s.core.did).mbox b.toNat =
         box ++ [{ lrec := s.core.lrec, job := s.core.job.toNat, node := s.core.node, ptb := s.ptb, record := bs, tok := tok, until_ := none }]) ∧
     (16 ≤ box.length → w.sz.getLsbD 0 = true → t.gives w.d 1 1 y → exec (.enq w) s = .next (y.retire 1)) ∧
     (16 ≤ box.length → w.sz.getLsbD 0 = false → exec (.enq w) s = .next s)) ∧
    (∀ key, s.static h = .ok () → s.sources h = .ok ((a, b, c), t) → addrOk (effAddr w a) 64 64 → s.xlate (effAddr w a) .rd = .ok key →
      3 < b.toNat → Faults (.enq w) s (flt .illegalOperand))) ∧
   (s.legal (shM0 w .none 3 0 .sDst .none .none .none) →
     (∀ e r, s.core.cq = e :: r → s.gives w.d e 1 y → exec (.deq w) s = .next ((y.updC fun k => { k with cq := r }).retire 1)) ∧
     (s.core.cq = [] → w.sz.getLsbD 0 = true → s.gives w.d (BitVec.allOnes 64) 1 y → exec (.deq w) s = .next (y.retire 1)) ∧
     (s.core.cq = [] → w.sz.getLsbD 0 = false → exec (.deq w) s = .next s)))

/-! ### Vector words (10, R237 to R259) -/

/-- R62, R243: the ten arithmetic words: each element the exact result rounded once, for a float type, or reduced, for an integer type. -/
def Obligations.VectorArithmetic : Prop := ∀ w : Wt,
  let t := etOf w
  let does := fun (i : Instr) (h : Shape) (fi : Int → Int → Int → Int) (ff : FVal → FVal → FVal → FVal) =>
    VectorResult i w h (pairCost h) 4 t (fun _ => True) fun s x m n =>
      let e := fun (v : VSrc) => v.elem t m n
      some (if t.isFloat then roundFloat t (s.rmode w.rm.toNat) w.sat (ff (decodeFloat t (e x.a)) (decodeFloat t (e x.b)) (decodeFloat t (e x.c))).toX
        else narrowInt t w.sat (fi (decodeInt t (e x.a)) (decodeInt t (e x.b)) (decodeInt t (e x.c))))
  let two := shArith w true .none
  let exact := shArith w false .none
  does (.vadd w) two (fun a b _ => a + b) (fun a b _ => addExact a b) ∧
  does (.vsub w) two (fun a b _ => a - b) (fun a b _ => addExact a (negF b)) ∧
  does (.vmul w) two (fun a b _ => a * b) (fun a b _ => mulExact a b) ∧
  does (.vfma w) (shArith3 w) (fun a b c => a * b + c) (fun a b c => addExact (mulExact a b) c) ∧
  does (.vfms w) (shArith3 w) (fun a b c => a * b - c) (fun a b c => addExact (mulExact a b) (negF c)) ∧
  does (.vmin w) exact (fun a b _ => min a b) (fun a b _ => minF a b) ∧
  does (.vmax w) exact (fun a b _ => max a b) (fun a b _ => maxF a b) ∧
  does (.vabs w) (shArith1 w) (fun a _ _ => |a|) (fun a _ _ => absF a) ∧
  does (.vneg w) (shArith1 w) (fun a _ _ => -a) (fun a _ _ => negF a) ∧
  does (.vabd w) two (fun a b _ => |a - b|) (fun a b _ => absF (addExact a (negF b)))

/-- R54, R62: an integer result outside its type wraps modulo 2^w, or clamps to the nearest limit under SAT, counting one clamp; inside, it
is exact.
R58: the rounding of a positive rational to a multiple of 2^q: one of the two neighbours, as the mode says: nearest with ties to even or
away, toward zero, down or up by sign; an exact value is kept.
R55, R58: a finite float's own value rounds to its own bits, under every mode, with no event. -/
def Obligations.NarrowingAndRounding : Prop :=
  (∀ (t : ETy) (v : Int), t.isInt = true →
   (t.intMin ≤ v → v ≤ t.intMax → ∀ sat, decodeInt t (narrowInt t sat v).bits = v ∧ (narrowInt t sat v).events = []) ∧
   (decodeInt t (narrowInt t false v).bits % 2 ^ t.width = v % 2 ^ t.width ∧ (narrowInt t false v).events = []) ∧
   (v < t.intMin → decodeInt t (narrowInt t true v).bits = t.intMin ∧ (narrowInt t true v).events = [26]) ∧
   (t.intMax < v → decodeInt t (narrowInt t true v).bits = t.intMax ∧ (narrowInt t true v).events = [26])) ∧
  (∀ (rm : RMode) (neg : Bool) (num den : Nat) (q : Int), 0 < den →
   let n := if 0 ≤ q then num else num * 2 ^ (-q).toNat
   let d := if 0 ≤ q then den * 2 ^ q.toNat else den
   let k := (roundScaled rm neg num den q).1
   let down := k * d ≤ n ∧ n < (k + 1) * d
   let up := n ≤ k * d ∧ k * d < n + d
   ((roundScaled rm neg num den q).2 = true ↔ d ∣ n) ∧ (d ∣ n → k * d = n) ∧
   (match rm with
     | .rne => (2 * n ≤ (2 * k + 1) * d ∧ 2 * k * d ≤ 2 * n + d) ∧ (2 * n = (2 * k + 1) * d ∨ 2 * k * d = 2 * n + d → k % 2 = 0)
     | .rna => 2 * n < (2 * k + 1) * d ∧ 2 * k * d ≤ 2 * n + d
     | .rtz => down
     | .rdn => if neg then up else down
     | .rup => if neg then down else up)) ∧
  (∀ (t : ETy) (rm : RMode) (sat : Bool) (b : Nat), t.isFloat = true → b < 2 ^ t.width → ∀ neg m e, decodeFloat t b = .fin neg m e →
   roundFloat t rm sat (decodeFloat t b).toX = { bits := b, events := [] })

/-- R244, R245, R249: compares give their relation lane by lane, a NaN satisfying only NE; logic, moves and the select act on 16-bit lanes;
shifts on elements, by SH or by the low bits of B's element; SH past the width is an illegal operand. -/
def Obligations.CompareLogicShift : Prop := ∀ w : Wt,
  let t := etOf w
  let sh := shLane w (.vec 1 1 true true) .none
  let sh1 := shLane w .none .none
  let lane := fun (i : Instr) (h : Shape) (f : Nat → Nat → Nat) =>
    VectorResult i w h (pairCost h) 2 .n16 (fun _ => True) fun _ x m n => exactly (f (x.a.lane (64 * m + n)) (x.b.lane (64 * m + n)))
  let im := xb w 27 27 = 1
  let shift := fun (i : Instr) (f : Nat → Nat → Nat) =>
    VectorResult i w (shShift w) (pairCost (shShift w)) 2 t (fun _ => im → xb w 26 22 < t.width) fun _ x m n =>
      exactly (f (x.a.elem t m n) (if im then xb w 26 22 else x.b.elem t m n % t.width))
  lane (.vand w) sh (fun a b => a &&& b) ∧ lane (.vor w) sh (fun a b => a ||| b) ∧ lane (.vxor w) sh (fun a b => a ^^^ b) ∧
  lane (.vnot w) sh1 (fun a _ => a ^^^ 65535) ∧ lane (.vmov w) sh1 (fun a _ => a) ∧
  shift (.vshl w) (fun a n => a * 2 ^ n % 2 ^ t.width) ∧ shift (.vshr w) (fun a n => a / 2 ^ n) ∧
  shift (.vsra w) (fun a n => ((sextNat t.width a / 2 ^ n) % 2 ^ t.width).toNat) ∧
  (∀ s, s.static (shShift w) = .ok () → im → t.width ≤ xb w 26 22 → ∀ i ∈ [Instr.vshl w, .vshr w, .vsra w],
    Faults i s (flt .illegalOperand)) ∧
  (∀ s x t1, s.vready (shVcmp w) x t1 → ∃ m : BitVec 1024, exec (.vcmp w) s =
      .next (((t1.holdV (s.now + pairCost (shVcmp w))).pend 3 (.mask (s.maskIx w.d) x.p m) []).retire 1) ∧
    ∀ n < 1024, m.getLsbD n = relHolds (xb w 2 0)
      (if t.isFloat then cmpF (decodeFloat t (x.a.elem t (n / 64) (n % 64))) (decodeFloat t (x.b.elem t (n / 64) (n % 64)))
       else some (compare (decodeInt t (x.a.elem t (n / 64) (n % 64))) (decodeInt t (x.b.elem t (n / 64) (n % 64)))))) ∧
  (∀ s x t1 u, let h := shLane w (.vec 1 1 true true) .mask
    let m := s.readM w.c
    s.vready h x t1 →
    (t1.holdV (s.now + pairCost h)).putElems .n16 w.d x.p 2 (fun i j =>
      exactly (if m.getLsbD (64 * i + j) then x.a.lane (64 * i + j) else x.b.lane (64 * i + j))) = .ok u →
    exec (.vsel w) s = .next (u.retire 1))

/-- R57, R64, R246 to R248: conversions round the source element once, or the exact quotient by the row's scale; packing takes the low bytes of
two sources in turn, unpacking one byte of each lane; VQI4X quantises four elements to a lane. A group the pair of types does not have
is an illegal operand. That I4X to an integer type clamps always, and the events of VQI4X, are the model's choice (log entry 39). -/
def Obligations.ConversionsAndPacking : Prop := ∀ w : Wt,
  let t := etOf w
  let st := cvtSt w
  let g := cvtG w
  let inGroups := fun (_ : VIn) => g < cvtGroups st t
  let source := fun (x : VIn) (i j : Nat) => if st = .i4x then i4xElem (x.a.lane (64 * i + j / 4)) (j % 4) else (decodeElem st (x.a.elem st i j), [])
  VectorResult (.vcvt w) w (shCvt w false) (pairCost (shCvt w false)) 4 t inGroups (fun s x i j => (cvtMap st t g j).map fun e =>
    let v := source x i e.1
    let r := if t.isFloat then roundFloat t (s.rmode w.rm.toNat) w.sat v.1.toX
      else if st.isInt then narrowInt t w.sat (decodeInt st (x.a.elem st i e.1)) else floatToInt t (s.rmode w.rm.toNat) v.1.toX
    { bits := r.bits, events := v.2 ++ r.events }) ∧
  VectorResult (.vcvts w) w (shCvt w true) (pairCost (shCvt w true)) 4 t inGroups (fun s x i j => (cvtMap st t g j).map fun e =>
    let v := source x i e.1
    let q := (divExact v.1 (decodeFloat .fp32 (x.b.elem .fp32 i (64 * e.2 / min st.perRow t.perRow)))).1
    let r := if t.isFloat then roundFloat t (s.rmode w.rm.toNat) w.sat q else floatToInt t (s.rmode w.rm.toNat) q
    { bits := r.bits, events := v.2 ++ r.events }) ∧
  (∀ s, cvtGroups st t ≤ g → (s.static (shCvt w false) = .ok () → Faults (.vcvt w) s (flt .illegalOperand)) ∧
    (s.static (shCvt w true) = .ok () → Faults (.vcvts w) s (flt .illegalOperand))) ∧
  VectorResult (.vpack w) w (shPack w) 1 4 t (fun _ => True) (fun _ x i j =>
    let l := if j % 2 = 0 then x.a.lane (64 * i + j / 2) else x.b.lane (64 * i + j / 2)
    some (narrowInt t w.sat (if t = .i8 then sextNat 16 l else l))) ∧
  VectorResult (.vunpk w) w (shUnpk w) 1 4 t (fun _ => True) (fun _ x i j =>
    let b := x.a.lane (64 * i + j) / 256 ^ (xb w 22 22) % 256
    exactly (if t = .i16 then (sextNat 8 b % 2 ^ 16).toNat else b)) ∧
  (∃ q : State → VIn → Nat → Nat → Nat → XVal, VectorResult (.vqi4x w) w (shQi4x w) 4 4 .n16 (fun _ => True) (fun s x i l =>
      some (qLane (s.rmode w.rm.toNat) w.sat (q s x i l))) ∧
    ∀ s x i l k, q s x i l k = (divExact (decodeFloat t (elemBits t [x.a.images.getD ((4 * l + k) / 64) []] i ((4 * l + k) % 64)))
      (decodeFloat .fp32 (x.b.elem .fp32 0 0))).1)

/-- R249, R250, R252: broadcast, insert, extract and index; rotation and broadcast along rows and columns by k; transposition of 16 by 16
blocks; permutation within rows. An index past the register is an illegal operand with cause 13.
R251: a reduction combines the elements of its row or column whose predicate bits are 1: the exact sum rounded once, the exact maximum or
minimum, a NaN or opposite infinities giving NaN, -0 being less than +0 and a zero sum negative only where every element is; VREDR gives each element of a row the row's result, VREDC of a column the column's. -/
def Obligations.ElementsMoveAndReduce : Prop :=
  (∀ w : Wt,
   let t := etOf w
   let at_ := fun (i : Instr) (h : Shape) (lat : Nat) (ok : VIn → Prop) (f : VIn → Nat → Nat → Nat) =>
     VectorResult i w h (pairCost h) lat t ok fun _ x m n => exactly (f x m n)
   let k := fun (x : VIn) => if xb w 27 27 = 1 then xb w 26 21 else x.b.word.toNat
   let size := 16 * t.perRow
   let apart := fun (f : OpField) (n : Nat) => isV w.d = true → isV f = true → w.d.toNat + etRegs w ≤ f.toNat ∨ f.toNat + n ≤ w.d.toNat
   at_ (.vbcst w) (shElem w false .sSrc .none true isNumber) 2 (fun _ => True) (fun x i j => x.a.elem t i j) ∧
   at_ (.vidx w) (shElem w false .sSrc .none true isWideInt) 2 (fun _ => True)
     (fun x i j => (x.a.word.toNat + i * t.perRow + j) % 2 ^ t.width) ∧
   VectorResult (.vins w) w (shElem w false .sSrc .sSrc true isNumber) (pairCost (shElem w false .sSrc .sSrc true isNumber)) 2 t
     (fun x => x.b.word.toNat < size) (fun _ x i j => if i * t.perRow + j = x.b.word.toNat then exactly (x.a.elem t i j) else none) ∧
   (∀ s x t1 u, s.vready (shVext w) x t1 → x.b.word.toNat < size →
     let v := x.a.elem t (x.b.word.toNat / t.perRow) (x.b.word.toNat % t.perRow)
     (t1.holdV (s.now + 1)).gives w.d (if t.isSigned then BitVec.ofInt 64 (sextNat t.width v) else BitVec.ofNat 64 v) 3 u →
     exec (.vext w) s = .next (u.retire 1)) ∧
   (∀ s x t1, size ≤ x.b.word.toNat → (s.vready (shVext w) x t1 → Faults (.vext w) s (fltS .illegalOperand 13)) ∧
     (s.vready (shElem w false .sSrc .sSrc true isNumber) x t1 → Faults (.vins w) s (fltS .illegalOperand 13))) ∧
   at_ (.vrotr w) (shRot w) 3 (fun _ => True) (fun x i j => x.a.elem t i ((j + k x) % t.perRow)) ∧
   at_ (.vrotc w) (shRot w) 6 (fun _ => True) (fun x i j => x.a.elem t ((i + k x) % 16) j) ∧
   at_ (.vbcr w) (shRot w) 2 (fun x => k x < t.perRow) (fun x i _ => x.a.elem t i (k x)) ∧
   at_ (.vbcc w) (shRot w) 5 (fun x => k x < 16) (fun x _ j => x.a.elem t (k x) j) ∧
   at_ (.vtrn w) (shPerm w false) 6 (fun _ => apart w.a (etRegs w)) (fun x i j => x.a.elem t (j % 16) (16 * (j / 16) + i)) ∧
   at_ (.vperm w) (shPerm w true) 6 (fun _ => apart w.a (etRegs w) ∧ apart w.b 1)
     (fun x i j => x.a.elem t i (x.b.lane (64 * i + j) % 64))) ∧
  (∀ w : Wt,
   let t := etOf w
   let value := fun (s : State) (x : VIn) (line : List (Nat × Nat)) =>
     let l := (line.filter fun e => x.p.getLsbD (laneOf t e.1 e.2)).map fun e => x.a.elem t e.1 e.2
     reduce t (xb w 27 26) (s.rmode w.rm.toNat) w.sat l
   (∃ f, VectorResult (.vredr w) w (shRed w) (pairCost (shRed w)) 7 t (fun _ => True) f ∧
     ∀ s x i j, i < 16 → f s x i j = some (value s x ((List.range t.perRow).map fun n => (i, n)))) ∧
   (∃ f, VectorResult (.vredc w) w (shRed w) (pairCost (shRed w)) 9 t (fun _ => True) f ∧
     ∀ s x i j, j < t.perRow → f s x i j = some (value s x ((List.range 16).map fun m => (m, j)))) ∧
   (∀ rm sat (l : List Nat), t.isFloat = false → 0 < l.length →
     reduce t 0 rm sat l = narrowInt t sat ((l.map (decodeInt t)).sum) ∧
     (∃ a ∈ l, reduce t 1 rm sat l = narrowInt t false (decodeInt t a) ∧ ∀ b ∈ l, decodeInt t b ≤ decodeInt t a) ∧
     (∃ a ∈ l, reduce t 2 rm sat l = narrowInt t false (decodeInt t a) ∧ ∀ b ∈ l, decodeInt t a ≤ decodeInt t b)) ∧
   (∀ rm sat (l : List Nat), t.isFloat = true → l ≠ [] → let v := l.map (decodeFloat t)
     let best := fun (rop : Nat) (lose : Ordering) (last : Bool) => ∃ a ∈ v, reduce t rop rm sat l = roundFloat t .rne false a.toX ∧
       ∀ b ∈ v, cmpF b a = some lose ∨ (cmpF b a = some .eq ∧ (b.isNeg = last → a.isNeg = last))
     (.nan ∈ v → reduce t 0 rm sat l = roundFloat t rm sat .nan ∧ ∀ rop ∈ [1, 2], reduce t rop rm sat l = roundFloat t .rne false .nan) ∧
     (.nan ∉ v → best 1 .lt false ∧ best 2 .gt true ∧
       (.inf true ∈ v → .inf false ∈ v → reduce t 0 rm sat l = roundFloat t rm sat .nan) ∧
       (∀ s, .inf s ∈ v → .inf (!s) ∉ v → reduce t 0 rm sat l = roundFloat t rm sat (.inf s)) ∧
       ((∀ s, .inf s ∉ v) → ∃ neg m e, reduce t 0 rm sat l = roundFloat t rm sat (FVal.fin neg m e).toX ∧
         exactValue (.fin neg m e) = (v.map exactValue).sum ∧ (m = 0 → (neg = true ↔ ∀ x ∈ v, x.isNeg = true))))))

/-- R148, R253 to R255: the ten special functions give each element the function of it, rounded once: NaN, infinities and zeros as the table has them,
the exact values of reciprocals, of powers of two and their logarithms, and of the roots of squares (elsewhere the model's enclosure of the exact value, log
entry 7; that a pole counts no overflow and that the odd functions of -0 give -0 is the model's choice, log entry 72); VROPE rotates element pairs, adjacent or split, by
the given cosines and sines; VSMERGE merges two groups row by row: the larger m, and l and o weighted by the exponentials of the differences, each
rounded once. Of -0 and +0 either may be the larger m (log entry 20). -/
def Obligations.FunctionsAndMerges : Prop := ∀ w : Wt,
  let t := etOf w
  (∀ i fn, (i, fn) ∈ [(Instr.vexp2 w, SFun.exp2), (.vexp w, .exp), (.vlog2 w, .log2), (.vrcp w, .rcp), (.vrsq w, .rsq), (.vsqrt w, .sqrt),
      (.vtanh w, .tanh), (.vsigm w, .sigm), (.vsilu w, .silu), (.vgelu w, .gelu)] →
    VectorResult i w (shSpec w) (if t = .fp32 then 2 else 1) 12 t (fun _ => True) fun s x m n =>
      some (specFn fn t (s.rmode w.rm.toNat) w.sat (decodeFloat t (x.a.elem t m n)))) ∧
  (let h := shRope w
   let split := xb w 27 27 = 1
   VectorResult (.vrope w) w h (pairCost h) 6 t
    (fun _ => isV w.d = true → isV w.a = true → w.d.toNat + etRegs w ≤ w.a.toNat ∨ w.a.toNat + etRegs w ≤ w.d.toNat) fun s x i j =>
      let u := if split then j % 32 else j / 2 * 2
      let v := if split then j % 32 + 32 else j / 2 * 2 + 1
      let f := fun (y : VSrc) (n : Nat) => decodeFloat t (y.elem t i n)
      some (roundFloat t (s.rmode w.rm.toNat) false (if j = u
        then addExact (mulExact (f x.a u) (f x.b u)) (negF (mulExact (f x.a v) (f x.c u)))
        else addExact (mulExact (f x.a u) (f x.c u)) (mulExact (f x.a v) (f x.b u))).toX)) ∧
  (∀ s x t1, s.vready (shMerge w) x t1 → ∃ ev, exec (.vsmerge w) s = .next (((t1.holdV (s.now + 4)).pend 12 (.regs (imageParts x.p
      (t1.physRange w.d.toNat 4) (tripleImages ((List.range 16).map fun i =>
        mergeRow (tripleRow x.a.images i) (tripleRow x.b.images i)) 0 0))) ev).retire 1)) ∧
  (∀ x y : TRow, x.hasNaN = false → y.hasNaN = false → (x.m = negInf32 → mergeRow x y = y) ∧
    (x.m ≠ negInf32 → y.m = negInf32 → mergeRow x y = x) ∧ (∀ z, mergeRow nanRow z = nanRow) ∧
    (x.m ≠ negInf32 → y.m ≠ negInf32 → x.o.length = 64 → y.o.length = 64 → let z := mergeRow x y
      let val := decodeFloat .fp32
      let rnd := fun (v : FVal) => (roundFloat .fp32 .rne false v.toX).bits
      let weight := fun (m : Nat) => val (specFn .exp .fp32 .rne false (val (rnd (addExact (val m) (negF (val z.m)))))).bits
      let sum := fun (a b : Nat) => rnd (addExact (mulExact (val a) (weight x.m)) (mulExact (val b) (weight y.m)))
      (z.m = x.m ∨ z.m = y.m) ∧ cmpF (val x.m) (val z.m) ≠ some .gt ∧ cmpF (val y.m) (val z.m) ≠ some .gt ∧ z.l = sum x.l y.l ∧
        z.o.length = 64 ∧ ∀ j < 64, z.o.getD j 0 = sum (x.o.getD j 0) (y.o.getD j 0))) ∧
  (∀ (rm : RMode) (sat : Bool), t.isFloat = true → let f := fun (fn : SFun) => specFn fn t rm sat
    let rd := fun (v : XVal) => roundFloat t rm sat v
    (∀ fn, f fn .nan = rd .nan) ∧
    (∀ fn ∈ [SFun.exp2, .exp, .log2, .sqrt, .silu, .gelu], f fn (.inf false) = rd (.inf false)) ∧
    (∀ fn ∈ [SFun.rcp, .rsq], f fn (.inf false) = rd (.rat false 0 1)) ∧ (∀ fn ∈ [SFun.tanh, .sigm], f fn (.inf false) = rd (.rat false 1 1)) ∧
    (∀ fn ∈ [SFun.exp2, .exp, .sigm], f fn (.inf true) = rd (.rat false 0 1)) ∧ (∀ fn ∈ [SFun.rcp, .silu, .gelu], f fn (.inf true) = rd (.rat true 0 1)) ∧
    (∀ fn ∈ [SFun.log2, .rsq, .sqrt], f fn (.inf true) = rd .nan) ∧ f .tanh (.inf true) = rd (.rat true 1 1) ∧
    (∀ (neg : Bool) (e : Int), (∀ fn ∈ [SFun.exp2, .exp], f fn (.fin neg 0 e) = rd (.rat false 1 1)) ∧ f .sigm (.fin neg 0 e) = rd (.rat false 1 2) ∧
      f .log2 (.fin neg 0 e) = rd (.inf true) ∧ (∀ fn ∈ [SFun.rcp, .rsq], f fn (.fin neg 0 e) = rd (.inf neg)) ∧
      ∀ fn ∈ [SFun.sqrt, .tanh, .silu, .gelu], f fn (.fin neg 0 e) = rd (.rat neg 0 1)) ∧
    (∀ (m : Nat) (e : Int), m ≠ 0 → ∀ fn ∈ [SFun.log2, .rsq, .sqrt], f fn (.fin true m e) = rd .nan) ∧
    (∀ (neg : Bool) (m : Nat) (e : Int), m ≠ 0 → ∃ n d : Nat, 0 < d ∧ f .rcp (.fin neg m e) = rd (.rat neg n d) ∧ (n : ℚ) * m * (2 : ℚ) ^ e = d) ∧
    (∀ (neg : Bool) (m : Nat) (e : Int) (n : Nat), n < 2000 → (m : ℚ) * (2 : ℚ) ^ e = n →
      f .exp2 (.fin neg m e) = rd (if neg then .rat false 1 (2 ^ n) else .rat false (2 ^ n) 1)) ∧
    (∀ (k : Nat) (e : Int), f .log2 (.fin false (2 ^ k) e) = rd (.rat (decide ((k : Int) + e < 0)) ((k : Int) + e).natAbs 1)) ∧
    (∀ (r : Nat) (e : Int), 0 < r → f .sqrt (.fin false (r * r) (2 * e)) = rd (FVal.fin false r e).toX ∧
      ∃ n d : Nat, 0 < d ∧ f .rsq (.fin false (r * r) (2 * e)) = rd (.rat false n d) ∧ (n : ℚ) * r * (2 : ℚ) ^ e = d))

/-- R256 to R259: carry-less products bit by bit, bit counts, the random-number key and its use in ten rounds of Philox, the elements formed from a draw,
and the mask words. A lane index or block past its limit is the
exhaustion fault. -/
def Obligations.BitsRandomMasks : Prop := ∀ (w : Wt) (z : Wi),
  let t := etOf w
  let n := t.width
  let bits := fun (i : Instr) (mul : Bool) (lat : Nat) (f : Nat → Nat → Nat) => let h := shBits w mul
    VectorResult i w h (pairCost h) lat t (fun _ => True) fun _ x p q => exactly (f (x.a.elem t p q) (x.b.elem t p q))
  bits (.vclmulL w) true 5 (fun a b => clmulNat n a b % 2 ^ n) ∧ bits (.vclmulH w) true 5 (fun a b => clmulNat n a b / 2 ^ n) ∧
  bits (.vpopc w) false 2 (fun a _ => ((List.range n).filter fun k => a.testBit k).length) ∧
  (∃ f : Nat → Nat, bits (.vclz w) false 2 (fun a _ => f a) ∧ ∀ a < 2 ^ n, f a ≤ n ∧ a < 2 ^ (n - f a) ∧ (f a < n → 2 ^ (n - 1 - f a) ≤ a)) ∧
  (∀ s x t1, s.vready (shRngkey w) x t1 →
    exec (.rngkey w) s = .next (((t1.holdV (s.now + 1)).updC fun c => { c with rng := x.a.word }).retire 1)) ∧
  VectorResult (.vrand w) w (shRand w) (pairCost (shRand w)) 8 t (fun x => x.a.word.toNat < 2 ^ 26 ∧ x.c.word.toNat < 2 ^ 16)
    (fun s x i j => exactly (randElem t (randWord s.core.rng x.a.word x.b.word x.c.word (xb w 27 26) (64 * i + j)))) ∧
  (∀ s x t1, s.vready (shRand w) x t1 → (2 ^ 26 ≤ x.a.word.toNat ∨ 2 ^ 16 ≤ x.c.word.toNat) → Faults (.vrand w) s (flt .rngExhausted)) ∧
  (∀ w a b, w ≤ 32 → a < 2 ^ w → b < 2 ^ w → ∀ k, (clmulNat w a b).testBit k =
    decide (((List.range w).filter fun i => decide (i ≤ k) && b.testBit i && a.testBit (k - i)).length % 2 = 1)) ∧
  (∀ (key a b c : Word) (lane : Nat), lane < 1024 → ∃ x : Nat → Nat × Nat × Nat × Nat,
    x 0 = (a.toNat % 2 ^ 32, c.toNat % 2 ^ 16 * 2 ^ 16 + lane, b.toNat % 2 ^ 32, b.toNat / 2 ^ 32) ∧
    (∀ r < 10, let p0 := 0xD2511F53 * (x r).1; let p1 := 0xCD9E8D57 * (x r).2.2.1
      x (r + 1) = (p1 / 2 ^ 32 ^^^ (x r).2.1 ^^^ (key.toNat % 2 ^ 32 + r * 0x9E3779B9) % 2 ^ 32, p1 % 2 ^ 32,
        p0 / 2 ^ 32 ^^^ (x r).2.2.2 ^^^ (key.toNat / 2 ^ 32 + r * 0xBB67AE85) % 2 ^ 32, p0 % 2 ^ 32)) ∧
    randWord key a b c 0 lane = (x 10).1 ∧ randWord key a b c 1 lane = (x 10).2.1 ∧ randWord key a b c 2 lane = (x 10).2.2.1 ∧
    randWord key a b c 3 lane = (x 10).2.2.2) ∧
  (∀ x < 2 ^ 32, randElem .n16 x = x % 2 ^ 16 ∧ randElem .n32 x = x ∧ exactValue (decodeFloat .fp16 (randElem .fp16 x)) = (x / 2 ^ 21 : Nat) / 2 ^ 11 ∧
    exactValue (decodeFloat .bf16 (randElem .bf16 x)) = (x / 2 ^ 24 : Nat) / 2 ^ 8 ∧
    exactValue (decodeFloat .fp32 (randElem .fp32 x)) = (x / 2 ^ 8 : Nat) / 2 ^ 24) ∧
  (∀ (s : State), s.core.vbusy ≤ s.now → let p := s.pred z.toHd; let a := s.readM z.a; let b := s.readM z.b
    let lands := fun (i : Instr) (m : BitVec 1024) => exec i s = .next (((s.holdV (s.now + 1)).pend 2 (.mask (s.maskIx z.d) p m) []).retire 1)
    let ready := fun (h : Shape) => s.legal h ∧ s.shadow h = .ok ()
    (ready (shMask z 0 .mask .mask .mask true) →
      lands (.mand z) (a &&& b) ∧ lands (.mor z) (a ||| b) ∧ lands (.mxor z) (a ^^^ b)) ∧
    (ready (shMask z 0 .mask .mask .none true) → lands (.mnot z) (~~~a)) ∧
    (ready (shMask z 13 .mask .none .none true) →
      let k := z.imm.toNat % 2 ^ 11
      let pat := z.imm.toNat / 2 ^ 11 % 4
      k ≤ (if pat = 0 then 1024 else if pat = 1 then 64 else 16) → ∃ m : BitVec 1024, lands (.mset z) m ∧
        ∀ l < 1024, m.getLsbD l = decide ((if pat = 0 then l else if pat = 1 then l % 64 else l / 64) < k)) ∧
    (∀ u v, ready (shMask z 0 .sDst .mask .none false) →
      ((s.holdV (s.now + 1)).gives z.d v 3 u → v = BitVec.ofNat 64 ((List.range 1024).filter fun l => a.getLsbD l).length →
        exec (.mcnt z) s = .next (u.retire 1)) ∧
      ((s.holdV (s.now + 1)).gives z.d v 3 u → v.toNat ≤ 1024 → (∀ l < v.toNat, a.getLsbD l = false) →
        (v.toNat < 1024 → a.getLsbD v.toNat = true) → exec (.mfirst z) s = .next (u.retire 1))))

/-! ### Matrix words and the accumulator (04, 11, R65 to R78, R260 to R276) -/

/-- R265 to R269: the multiplies deliver, in every predicated lane (i, j), the products of row i of A and column j of B, each alone, twelve cycles
later: dense, with B transposed, 2:4-sparse by the metadata mask, or with types and anchor from the format table. An illegal group of
the metadata is an illegal operand when it is checked; else it contributes zero, every other group delivers, and one sparsity event is counted for it.
R81: where the residue check of the core's matrix unit fails, the word changes no tile and its stream takes the machine check with the tile's
number. -/
def Obligations.MatrixProducts : Prop := ∀ (w : Wt) (s u : State) (x : VIn),
  let c := tileIx w.d
  let a := s.landingAnchor c 12
  let sound := (s.die s.core.did).badArr.getLsbD s.core.cid = false
  let check : FaultInfo := { code := .machineCheck, info := c, eva := true }
  let at_ := etOf w
  let bt := btOf w
  let reg := x.a.images.getD 0 []
  let b := x.b.images
  let dense := fun (i : Instr) (f : Nat → Nat → FVal) => ∃ ev, Lands i s u 12 (.contrib c ((predLanes x.p).map fun n =>
    (n, addendOf a ((List.range at_.perRow).map fun k => mulExact (mmaElem at_ reg (n / 64) k) (f k (n % 64))))) none) ev
  (s.mready (shMma w false) (.matrix s.mmaCost) x u → ¬ sound → Faults (.mma w) s check ∧ Faults (.mmat w) s check) ∧
  (s.mready (shMma w false) (.matrix s.mmaCost) x u → sound →
    dense (.mma w) (fun k n => mmaElem bt (b.getD (k / 16 % 4) []) (k % 16) (perLane bt * n + k / 64)) ∧
    dense (.mmat w) (fun k n => mmaElem bt (b.getD (n / 16) []) (n % 16) k)) ∧
  (s.mready (shMma w true) (.matrix s.mmaCost) x u →
    let m := s.readM w.c
    let pos := fun (g h : Nat) => m.toNat / 2 ^ (4 * g + 2 * h) % 4
    let bad := fun (g : Nat) => decide (pos g 1 ≤ pos g 0)
    let groups := List.range (at_.perRow / 2)
    (groups.any bad = true → xb w 23 23 = 1 → Faults (.mmas w) s (fltS .illegalOperand 14)) ∧
    ((xb w 23 23 = 1 → groups.any bad = false) → (¬ sound → Faults (.mmas w) s check) ∧ (sound → ∃ ev : List Nat,
      Lands (.mmas w) s u 12 (.contrib c ((predLanes x.p).map fun n =>
        (n, addendOf a ((groups.filter fun g => !bad g).flatMap fun g => [0, 1].map fun k =>
          mulExact (mmaElem at_ reg (n / 64) (2 * g + k)) (mmasB bt b (4 * g + pos g k) (n % 64))))) none) ev ∧
      ev.count 1 = (groups.filter bad).length))) ∧
  (∀ v, s.mready (shMmaf w) (.matrix s.mmaCost) x u →
    s.fmtEntry (if xb w 23 23 = 1 then xb w 22 19 else s.strm.lc.toNat % 16) = .ok v →
    let ft := fmtType v 3 0
    let anchor := sextNat 12 (v / 2 ^ 8 % 2 ^ 12)
    (anchor ≠ a → s.tileBusy c = false) → (¬ sound → Faults (.mmaf w) s check) ∧ (sound → ∃ ev, Lands (.mmaf w) s u 12 (.contrib c ((predLanes x.p).map fun n =>
      (n, addendOf anchor ((List.range ft.perRow).map fun k => mulExact (mmaElem ft reg (n / 64) k) (mmaB (fmtType v 7 4) b k (n % 64)))))
      (if anchor = a then none else some anchor)) ev))

/-- R65, R66, R67: the addend of finite products is the exact sum of their floors at the anchor, modulo 2^96, in any order; a NaN sets NV, infinities PI or NI.
R65, R68, R71: a tile moved to a lower anchor keeps every value exactly, a negated lane negates its value, a canonical one keeps it. -/
def Obligations.AddendsAndLanesAreExact : Prop :=
  (∀ (a : Int) (ps : List FVal),
   ((∀ p ∈ ps, ∃ n m e, p = FVal.fin n m e) → (addendOf a ps).t = BitVec.ofInt 96 ((ps.map (floorAt a)).sum) ∧
     (addendOf a ps).nv = false ∧ (addendOf a ps).pi = false ∧ (addendOf a ps).ni = false) ∧
   ((addendOf a ps).nv = true ↔ FVal.nan ∈ ps) ∧ ((addendOf a ps).pi = true ↔ FVal.inf false ∈ ps) ∧
   ((addendOf a ps).ni = true ↔ FVal.inf true ∈ ps) ∧ (∀ qs, ps.Perm qs → addendOf a qs = addendOf a ps)) ∧
  (∀ (l : Lane) (a b : Int), l.special = false →
   (b ≤ a → -2 ^ 95 ≤ l.t.toInt * 2 ^ (a - b).toNat → l.t.toInt * 2 ^ (a - b).toNat < 2 ^ 95 →
     (l.reanchor a b).t.toInt = l.t.toInt * 2 ^ (a - b).toNat ∧ (l.reanchor a b).ix = l.ix) ∧
   (a ≤ b → (l.reanchor a b).t.toInt = l.t.toInt / 2 ^ (b - a).toNat ∧
     ((l.reanchor a b).ix = true ↔ l.ix = true ∨ ¬ (2 ^ (b - a).toNat : Int) ∣ l.t.toInt)) ∧
   l.negate.t = -l.t ∧ l.canon.t = l.t ∧ l.canon.c = 0 ∧ (l.ov = true ↔ ¬ (-2 ^ 91 ≤ l.t.toInt ∧ l.t.toInt < 2 ^ 91)))

/-- R42, R66 to R68: the landing of a contribution adds each addend to its lane's T modulo 2^96 and ORs the flags, PI with NI giving NV; other lanes
and tiles do not change. Two contributions leave the same T and flags in either order; the split between S and C is left open (log
entry 10). -/
def Obligations.ContributionsAreOrderFree : Prop := ∀ (core : Core) (c m n : Nat) (l1 l2 : Sparse Lane),
  let value := fun (l : Lane) => (l.t, l.ix, l.nv, l.pi, l.ni)
  let land := fun (k : Nat) (l : Sparse Lane) (x : Core) => (PEff.contrib c l none).apply k x
  (∀ i, i < 1024 → value (((land n l2 (land m l1 core)).tile c).lane i) = value (((land m l1 (land n l2 core)).tile c).lane i)) ∧
  (∀ i, i < 1024 → (∀ p ∈ l1, p.1 ≠ i) → ((land m l1 core).tile c).lane i = (core.tile c).lane i) ∧
  (∀ i d, i < 1024 → (l1.find? fun p => p.1 == i) = some (i, d) → d.special = false → ((core.tile c).lane i).special = false →
    (((land m l1 core).tile c).lane i).t = ((core.tile c).lane i).t + d.t) ∧
  (∀ t, t ≠ c → (land m l1 core).tile t = core.tile t) ∧ (land m l1 core).vregs = core.vregs ∧ (land m l1 core).masks = core.masks

/-- R41, R68, R71, R262, R270: the tile words, each with the anchor in force where its result lands: MCLR clears the predicated lanes, ANCH and ASHF change the anchor within its twelve bits, AADDV
delivers each element, AADD and ASUB another tile's lanes or their negations re-anchored, AMOV copies, ACAN canonicalises.
R78, R275, R276: SETRM sets the rounding mode of the job and of M at once, code 5 being an illegal operand; FMTT fills M's copy of the format
table from the sixteen entries at `fmtb`. -/
def Obligations.TileWordsAndModes : Prop :=
  (∀ (w : Wt) (s u : State) (x : VIn),
   let c := tileIx w.d
   let a := (s.core.tile c).anchor
   let src := s.core.tile (tileIx w.a)
   let t := etOf w
   let shift := sextNat 12 (xb w 11 0)
   (s.mready (shAcc w true 0 .tile .none) (.acc 1) x u → Lands (.mclr w) s u 2 (.clear c x.p) []) ∧
   (s.mready (shAcc w false 12 .tile .none) (.acc 1) x u →
     (s.tileBusy c = false → Lands (.anch w) s u 8 (.anchor c shift) []) ∧
     (s.tileBusy c = false → -2048 ≤ a + shift → a + shift ≤ 2047 → Lands (.ashf w) s u 8 (.anchor c (a + shift)) []) ∧
     (s.tileBusy c = false → (a + shift < -2048 ∨ 2047 < a + shift) → Faults (.ashf w) s (flt .illegalOperand)) ∧
     (s.tileBusy c = true → exec (.anch w) s = .next s ∧ exec (.ashf w) s = .next s)) ∧
   (s.mready (shAaddv w) (.acc t.regs) x u → Lands (.aaddv w) s u 12 (.contrib c ((predLanes x.p).map fun n =>
     (n, addendOf (s.landingAnchor c 12) [decodeElem t (x.a.elem t (n / 64) (n % 64))])) none) []) ∧
   (s.mready (shAcc w true 0 .tile .tile) (.acc 1) x u →
     let then_ := fun (lat : Nat) => s.landingAnchor c lat
     Lands (.aaddAcc w) s u 8 (.contrib c ((predLanes x.p).map fun n => (n, (src.lane n).reanchor src.anchor (then_ 8))) none) [] ∧
     Lands (.asub w) s u 8 (.contrib c ((predLanes x.p).map fun n => (n, ((src.lane n).reanchor src.anchor (then_ 8)).negate)) none) [] ∧
     (src.anchor = then_ 4 → Lands (.amov w) s u 4 (.copy c x.p src.lanes (if w.pm = 0 then some src.anchor else none)) []) ∧
     (src.anchor ≠ then_ 4 → w.pm = 0 → s.tileBusy c = false → Lands (.amov w) s u 4 (.copy c x.p src.lanes (some src.anchor)) []) ∧
     (src.anchor ≠ then_ 4 → w.pm ≠ 0 → s.tileBusy c = false → Faults (.amov w) s (flt .illegalOperand)) ∧
     (src.anchor ≠ then_ 4 → s.tileBusy c = true → exec (.amov w) s = .next s)) ∧
   (s.mready (shAcc w false 0 .tile .none) (.acc 1) x u → Lands (.acan w) s u 8 (.canon c) [])) ∧
  (∀ (w : Wt) (s u : State) (x : VIn),
   (s.mready (shSetrm w) .none x u → w.rm ≠ 5 → Retires (.setrm w) s 1 fun t => s.sameData { t with core := { t.core with jobv := s.core.jobv } } ∧
     t.strm.view.rm = w.rm ∧ t.core.jobv.rm = w.rm ∧ s.sameScalars t) ∧
   (s.static (shSetrm w) = .ok () → w.rm = 5 → Faults (.setrm w) s (flt .illegalOperand)) ∧
   (∀ pages, let base := s.strm.view.fmtb.toNat
     s.legal (shAcc w false 0 .none .none) → s.xlateRange .rd base 128 = .ok pages → s.poisonIn pages base 128 = false →
     (∀ o ∈ s.core.ops, o.strm = s.cur → o.cls ≠ 0) → s.gate [keyIn pages base] [] = .go →
     Retires (.fmtt w) s 1 fun t => (s.touchRow (keyIn pages base)).sameData t ∧ s.sameScalars t ∧
       t.core.fmt.unfilled = none ∧ ∀ i < 16, Sparse.get t.core.fmt.entries i =
         BitVec.ofNat 64 (leNat (((s.bytesIn pages base 128).drop (8 * i)).take 8))))

/-- R70, R71, R271 to R273: RSLV gives each predicated lane's value rounded once into its type, the group's for a narrow type, from the word or the
format table; ACMP compares exact values; AEXN gives the five flags. Each result lands sixteen or eight cycles later. -/
def Obligations.TilesAreRead : Prop := ∀ (w : Wt) (s u v : State) (x : VIn) (f : RslvForm),
  let c := s.core.tile (tileIx w.a)
  let t := etOf w
  (s.legal (shRslv w) → x.p = s.pred w.toHd → s.shadow (shRslv w) = .ok () → s.rslvForm w = .ok f →
    (isV w.d = true → vecOk w.d f.t.regs f.t.regs = true) → s.tileLoading (tileIx w.a) = false →
    let g := xb w 21 20
    (f.t.width ≠ 8 → g ≠ 0 → Faults (.rslv w) s (flt .illegalOperand)) ∧
    (s.takeUnit (.acc f.t.regs) = .ok u → (if f.t.width = 8 then g ≤ 1 else g = 0) →
      u.putElems f.t w.d x.p 16 (fun i j => if f.t.width = 8
        then (if j / 64 = g then some ((c.lane (64 * i + j % 64)).resolve f.t f.rm f.sat c.anchor) else none)
        else some ((c.lane (64 * i + j)).resolve f.t f.rm f.sat c.anchor)) = .ok v → exec (.rslv w) s = .next (v.retire 1))) ∧
  (s.mready (shAcmp w) (.acc 1) x u → ∃ m : BitVec 1024, Lands (.acmp w) s u 16 (.mask (s.maskIx w.d) x.p m) [] ∧
    ∀ n < 1024, m.getLsbD n =
      relHolds (xb w 2 0) (cmpF ((c.lane n).cmpVal c.anchor) (decodeElem t (x.b.elem t (n / 64) (n % 64))))) ∧
  (s.mready (shAcc w true 0 (.vdst 1 1 true) .tile) (.acc 1) x u →
    u.putElems .n16 w.d x.p 8 (fun i j => let l := c.lane (64 * i + j)
      exactly (l.ix.toNat + 2 * l.nv.toNat + 4 * l.pi.toNat + 8 * l.ni.toNat + 16 * l.ov.toNat)) = .ok v →
    exec (.aexn w) s = .next (v.retire 1)) ∧
  (∀ (l : Lane) (ty : ETy) (rm : RMode) (sat : Bool) (a : Int), (l.nv = true → (l.resolve ty rm sat a).bits = producedNaN ty) ∧
    (l.special = false → l.ov = false → (l.resolve ty rm sat a).bits = (roundFloat ty rm sat
      (FVal.fin (decide (l.t.toInt < 0)) l.t.toInt.natAbs (a - 64)).toX).bits))

/-- R72 to R75, R274: ASTR and ASTC issue and complete at issue, the tile's image, raw or canonical, to be stored, a canonical one 8 cycles later; ALDR
and ALDC, the load into a tile with nothing in flight. Each row of an image is read alone; the last one puts the tile its bytes give and ends the batch;
an error leaves every lane NV and goes to the batch. The image of a tile of normal lanes reads back as that tile. That a word which finds the port
taken stands in its queue, and that the port is held from issue or from the end of the 8 cycles on, is the model's choice (log entry 47). -/
def Obligations.TileImages : Prop :=
  (∀ (w : Wm) (s t : State) (a b c : Word) (pages : List (Nat × Nat)) (canon : Bool), let ea := (a + w.disp.signExtend 64).toNat
    let issues := fun (i : Instr) (kinds : BitVec 6) (body : MBody) (wait : Nat) =>
      let use := wait + imageCycles canon
      (¬ s.portOpen (.strm .m) use → exec i s = .next (s.standAtPort (.strm .m))) ∧
      (s.portOpen (.strm .m) use → s.batchRoom w → Retires i s 1 fun x => s.sameDataAt x (pages.map (·.1)) ∧ s.sameScalars x ∧
        (s.core.portBusy ≤ s.now → x.core.portBusy = s.now + use) ∧ ∃ tok, s.joinsBatch w tok ∧
        s.issuedAt x w.cls.toNat kinds ea (pages.map fun p => (p.1, p.1)) body tok wait)
    imageCycles canon = (if canon then 64 else 128) ∧
    (addrOk ea (imageBytes canon) 64 →
      (let h := { shM w .req true 1 24 .none .sSrc .none .tile with streams := [.m] }
       s.takesOf h { h with c := .none } a b c t → s.shadow h = .ok () → s.tileLoading (tileIx w.c) = false →
         s.xlateRange .wr ea (imageBytes canon) = .ok pages → issues (if canon then .astc w else .astr w) 32
           (.astr pages ea ((s.core.tile (tileIx w.c)).image canon) (imageRows ea (imageBytes canon))) (if canon then 8 else 0)) ∧
      (let h := { shM w .req true 1 24 .tile .sSrc .none .none with streams := [.m] }
       s.takes h a b c t → s.tileBusy (tileIx w.d) = false → s.xlateRange .rd ea (imageBytes canon) = .ok pages →
         issues (if canon then .aldc w else .aldr w) 16 (.aldr pages ea (tileIx w.d) canon (imageRows ea (imageBytes canon)) []) 0))) ∧
  (∀ (s : State) (o : MOp) (pages : List (Nat × Nat)) (va c row : Nat) (canon : Bool) (left : List Nat) (got : List (Nat × List Byte)) (part : Part),
    o.body = .aldr pages va c canon left got → s.performs o (fun _ => true) part → part.ix = row →
    let lo := max va (128 * row)
    let n := min (va + imageBytes canon) (128 * row + 128) - lo
    let rows := got ++ [(row, s.bytesIn pages lo n)]
    let others := fun (t : State) => ∀ k, k ≠ c → t.core.tile k = s.core.tile k
    let opened := s.touchRow (keyIn pages lo)
    (∀ a, s.firstPoison pages lo n = some a → Ends (.tileImageLoadComplete o.id) s fun t => t.core.tile c = Tile.malformed ∧ others t ∧ t.mem = s.mem ∧
      (∀ x ∈ t.core.ops, x.id ≠ o.id) ∧ s.leaves t o.tok (some { code := .poison, addr := a, info := a, eva := true })) ∧
    (s.poisonIn pages lo n = false → (∃ r ∈ left, r ≠ row) → Ends (.tileImageLoadComplete o.id) s fun t => t.core.tiles = s.core.tiles ∧
      opened.sameMemory t ∧ ∃ x ∈ t.core.ops, x.id = o.id ∧ x.body = .aldr pages va c canon (left.filter (· != row)) rows) ∧
    (s.poisonIn pages lo n = false → left = [row] → Ends (.tileImageLoadComplete o.id) s fun t => t.core.tile c = (rowsTile canon va rows).1 ∧
      others t ∧ opened.sameMemory t ∧ (∀ x ∈ t.core.ops, x.id ≠ o.id) ∧ s.leaves t o.tok none)) ∧
  (∀ (canon : Bool) (va : Nat) (bs : List Byte) (rows : List (Nat × List Byte)), bs.length = imageBytes canon →
    (∀ r ∈ imageRows va bs.length, let lo := max va (128 * r)
      (rows.find? fun x => x.1 == r) = some (r, (bs.drop (lo - va)).take (min (va + bs.length) (128 * r + 128) - lo))) →
    rowsTile canon va rows = tileOfImage canon fun off n => leNat ((bs.drop off).take n)) ∧
  (∀ (t : Tile) (canon : Bool), -2048 ≤ t.anchor → t.anchor ≤ 2047 → (∀ n < 1024, (t.lane n).c.getLsbD 0 = false ∧ (t.lane n).norm = t.lane n) →
    let u := (tileOfImage canon fun off n => leNat (((t.image canon).drop off).take n)).1
    u.anchor = t.anchor ∧ ∀ n < 1024, (u.lane n).t = (t.lane n).t ∧ (u.lane n).flags = (t.lane n).flags ∧
      (canon = false → u.lane n = t.lane n))

/-! ### Tiers (03, 12, R83, R84, R234 to R236, R361) -/

/-- R84, R234 to R236, R361: TIERQ reports the page's tier, held token, origin, size and poison. TIERIN and TIEREV give D 1 when a token of the range is
held, 2 when a quota or a pool does not allow it, else 0 with a migration of the range's pages, those already there held with it; EA must begin a page.
A migration copies its first page 1 KiB at a time, then retags its leaf, the accesses in flight following it and the old frame going back to its pool,
and goes on to the next page; the last one performs the batch. That tokens are looked at before quotas and pools, and that a migration goes 1 KiB at a
time, is the model's choice (log entry 53). -/
def Obligations.TierWords : Prop :=
  (∀ (w : Wm) (s t u : State) (a b c : Word),
   let ea := (a + w.disp.signExtend 64).toNat
   let path := s.nodePath treeDepth s.core.node
   let pool := s.inherit 56 8 path
   let moves := fun (i : Instr) (ps : List TPage) (tier : Nat) (go copied : TPage → Bool) => s.open_ w.d → t.open_ w.d → s.batchRoom w →
     ∃ v m, exec i s = .next (v.retire 1) ∧ v.migs = s.migs ++ [m] ∧
       (m.pages.map fun p => (p.va, p.entry, p.src, p.bytes, p.copy, leafTier p.newLeaf)) = (ps.map fun p => (p.va, p.leaf.entry, leafKey p.leaf.leaf,
         p.leaf.bytes, copied p, if go p then tier else leafTier p.leaf.leaf)) ∧
       m.at_ = 0 ∧ m.read = false ∧ m.pool = pool ∧ m.lrec = s.core.lrec ∧ s.gave v w.d 0 ∧ (w.tke = false → m.tok = none)
   let answers := fun (i : Instr) (x : Word) => ∀ y, t.gives w.d x 1 y → exec i s = .next (y.retire 1)
   (s.takes (shM0 w .none 1 24 .sDst .sSrc .none .none) a b c t → ea < 2 ^ 52 → (resHi ≤ ea ∨ ea < winLo) → ∀ l, s.walk s.ptb ea = .ok l →
     t.gives w.d (BitVec.ofNat 64 (leafTier l.leaf + 4 * (s.tokensHeld [{ va := 0, leaf := l }]).toNat + 8 * (leafOrig l.leaf).toNat +
       16 * l.big.toNat + 32 * (s.leafPoisoned l).toNat)) 1 u → exec (.tierq w) s = .next (u.retire 1)) ∧
   (∀ i h, (i, h) ∈ [(Instr.tierin w, shM w .opt true 1 24 .sDst .sSrc .sSrc .none), (.tierev w, shM w .opt true 6 24 .sDst .sSrc .sSrc .none)] →
     s.takes h a b c t → ea < 2 ^ 52 → (resHi ≤ ea ∨ ea < winLo) → ∀ l, s.walk s.ptb ea = .ok l → ea % l.bytes ≠ 0 →
     Faults i s (flt .illegalOperand)) ∧
   (∀ ps, s.classDone w → s.host.ide = true → s.poolFree pool = true →
     (let h := shM w .opt true 1 24 .sDst .sSrc .sSrc .none
      let go := fun (p : TPage) => leafTier p.leaf.leaf != 0
      let mv := ps.filter go
      let cxl := mv.filter fun p => leafTier p.leaf.leaf == 1
      let fits := s.quotaOk 24 96 (totalBytes mv) path = true ∧
        s.poolOk pool (countList mv fun p => some (poolList 0 p.leaf.big)) (countList cxl fun p => some (poolList 1 p.leaf.big)) = true
      s.await w.toHd = .ok () → s.tierRange w h = .ok (ps, t) →
       (s.tokensHeld ps = true → answers (.tierin w) 1) ∧ (s.tokensHeld ps = false → ¬ fits → answers (.tierin w) 2) ∧
       (s.tokensHeld ps = false → fits → moves (.tierin w) ps 0 go go)) ∧
     (let h := shM w .opt true 6 24 .sDst .sSrc .sSrc .none
      let go := fun (p : TPage) => leafTier p.leaf.leaf == 0
      let mv := ps.filter go
      let give := countList mv fun p => some (poolList 0 p.leaf.big)
      let fits := if w.sz = 2 then s.poolOk pool (fun _ => 0) give = true
        else s.quotaOk 32 104 (totalBytes mv) path = true ∧ s.poolOk pool (countList mv fun p => some (poolList 1 p.leaf.big)) give = true
      let known := ∀ p ∈ mv, leafOrig p.leaf.leaf = true ∧ (s.originOf (leafKey p.leaf.leaf)).isSome = true
      s.await w.toHd = .ok () → s.tierRange w h = .ok (ps, t) →
       (w.sz = 2 → ¬ known → Faults (.tierev w) s (flt .illegalOperand)) ∧
       ((w.sz = 2 → known) →
         (s.tokensHeld ps = true → answers (.tierev w) 1) ∧ (s.tokensHeld ps = false → ¬ fits → answers (.tierev w) 2) ∧
         (s.tokensHeld ps = false → fits → moves (.tierev w) ps (if w.sz = 2 then 2 else 1) go fun p => go p && w.sz != 2))))) ∧
  (∀ (s : State) (id : Nat), (∀ m ∈ s.migs, m.id ≠ id) → exec (.tierMigrationComplete id) s = .next s) ∧
  (∀ (s : State) (m : Mig) (p : MigPage) (r : List MigPage), (s.migs.find? fun x => x.id == m.id) = some m → m.pages = p :: r →
    let now := fun (v : State) (n : Mig) => v.migs = s.migs.map fun x => if x.id = m.id then n else x
    let ended := fun (v : State) (err : Option FaultInfo) => (∀ x ∈ v.migs, x.id ≠ m.id) ∧ s.leaves v m.tok err
    let src := p.src + m.at_
    let dst := p.dst + m.at_
    let piece := [((p.va + m.at_) / 65536 * 65536, p.src + m.at_ / 65536 * 65536)]
    (p.copy = true → m.at_ < p.bytes → s.linkDown p.src = false → s.linkDown p.dst = false →
      (∀ a, m.read = false → s.firstPoison piece (p.va + m.at_) 1024 = some a → s.poolFree m.pool = true →
        Ends (.tierMigrationComplete m.id) s fun v => ended v (some { code := .poison, addr := a, info := a, eva := true })) ∧
      (m.read = false → s.firstPoison piece (p.va + m.at_) 1024 = none → s.gate [src] [] = .go →
        Ends (.tierMigrationComplete m.id) s fun v => now v { m with read := true } ∧ (s.touchRow src).sameMemory v) ∧
      (m.read = true → s.gate [] [dst] = .go → (s.touchRow dst).memOk → (src + 1024 ≤ dst ∨ dst + 1024 ≤ src) → (s.touchRow dst).hbmDead dst = false →
        Ends (.tierMigrationComplete m.id) s fun v => now v { m with at_ := m.at_ + 1024, read := false } ∧
          (∀ i < 1024, v.byte (dst + i) = (s.touchRow dst).byte (src + i)) ∧ (s.touchRow dst).sameMemoryBut dst 1024 v)) ∧
    (p.stays = true → p.copy = false → Ends (.tierMigrationComplete m.id) s fun v => v.mem = s.mem ∧
      (r = [] → ended v none) ∧ (r ≠ [] → now v { m with pages := r, at_ := 0, read := false })) ∧
    (p.stays = false → (p.copy = true → p.bytes ≤ m.at_ ∧ s.linkDown p.src = false ∧ s.linkDown p.dst = false) → s.frameLocked p.entry = false →
      s.poolFree m.pool = true → Ends (.tierMigrationComplete m.id) s fun v =>
        let u := (s.writeMem p.entry (leBytes 8 p.newLeaf)).movePage p
        let path := u.nodePath treeDepth m.node
        let moved := fun (k : Nat) => if p.src ≤ k ∧ k < p.src + p.bytes then k - p.src + p.dst else k
        (r = [] → ended v none) ∧ (r ≠ [] → now v { m with pages := r, at_ := 0, read := false }) ∧
        (p.freed = none → s.hbmDead p.entry = false → v.natAt p.entry 8 = p.newLeaf % 2 ^ 64 ∧ s.sameMemoryBut p.entry 8 v) ∧
        (∀ k, p.freed = some k → v.mem = ((u.addUse (if keyTier p.src = 0 then 96 else 104) (-(p.bytes : Int)) path).pushFrame m.pool k
          (p.src - if keyTier p.src = 1 then cxlBase else 0)).mem) ∧
        (keyTier p.src = 2 → (p.dst, (p.src - flashBase) / 65536) ∈ v.origins) ∧
        (v.core.ops = s.core.ops.map fun o => { o with body := o.body.rekey moved }) ∧ ∀ x ∈ v.core.tlb, x.leaf ≠ p.leaf))

/-! ### The Orrery (05, 13, R120 to R145, R281 to R295) -/

/-- R283, R286 to R295: a word the Orrery accepts, its operands within the context's limits and the granules of its area that it uses mapped, completes
with the command it stands for; KVNEW makes the context and gives its handle, or 3 where the map memory and 4 where the numbers are used up; a position
past the limit, or past the next one to write, is a gap. That KVSHARE needs equal cell bytes and groups and a range in the target's slab, and tests the
accepted watermarks, is the model's choice (log entry 17); so is that KVW takes its cell's bytes at acceptance (log entry 55), and that SLABGR swaps its
context in (log entry 18). -/
def Obligations.OrreryWords : Prop := ∀ (w : Wm) (s t : State) (a b x : Word) (c : Ctx) (bs : List Byte),
  let ea := effAddr w a
  let d := s.die s.core.did
  let g := b.toNat / 2 ^ 32
  let ok := t.acceptCtx b.toNat = .ok c
  let okg := t.acceptCtx (b.toNat % 2 ^ 32) = .ok c ∧ b.toNat < 2 ^ 38
  let b32 := b.toNat < 2 ^ 32
  let x32 := x.toNat < 2 ^ 32
  let field := fun (o n : Nat) => fieldNat bs o n
  let area := fun (y : Ctx) (grs : List Nat) => ∀ i ∈ grs, (Sparse.get y.amap i).v = true
  (s.takesBy .orrery (shK w .req 24 .sDst .sSrc .none .none) a b x t → s.descAt w a bs → field 21 43 = 0 →
    t.ctxLimits (field 16 1) (field 17 1) (field 18 1) (field 19 1) (field 20 1) (field 0 8) (field 8 8) = .ok () →
    s.batchRoom w → t.open_ w.d → s.core.did < s.dies.length → s.core.running = true →
    let fresh := fun (num : Nat) =>
      { s.makeCtx s.core.did num (field 16 1) (field 17 1) (field 18 1) (field 19 1) (field 20 1) (field 0 8) (field 8 8) s.ptb
        with clearing := true }
    let answers := fun (cs : List Ctx) (v : Nat) => Retires (.kvnew w) s 1 fun y => y.mem = s.mem ∧
      (y.die s.core.did).ctxs = d.ctxs ++ cs ∧ s.gave y w.d (BitVec.ofNat 64 v)
    (d.freeNum = none → answers [] (4 * 2 ^ 32)) ∧
    (∀ num, d.freeNum = some num → let n := fresh num
      (d.mapUse + n.entries ≤ mapCapacity → answers [n] (n.handle s.core.did)) ∧
      (mapCapacity < d.mapUse + n.entries → answers [] (3 * 2 ^ 32)))) ∧
  (s.classDone w →
    (s.takesBy .orrery (shK w .req 0 .sDst .none .sSrc .none) a b x t → b32 → ok →
      (area c c.headGrs → Accepts (.kvfree w) s t w c (fun r => .free r) true [c] true) ∧
      Accepts (.smin w) s t w c (fun r => .smin r) true [] false ∧ Accepts (.sminv w) s t w c (fun r => .sminv r) true [c] false) ∧
    (∀ src, s.takesBy .orrery (shK w .req 0 .sDst .sSrc .sSrc .sSrc) a b x t → a.toNat < 2 ^ 32 → b32 → t.acceptCtx a.toNat = .ok src → ok →
      src.lc = c.lc → src.gp = c.gp → let lo := x.toNat % 2 ^ 32; let n := x.toNat / 2 ^ 32
      lo % c.unit = 0 → n % c.unit = 0 → (lo : Int) ≤ d.accepted c + 1 → (lo + n : Int) - 1 ≤ d.accepted src → lo + n ≤ c.limit →
      area src (src.headGrs ++ src.nodeGrs (lo * src.gp) (n * src.gp)) → area c (c.headGrs ++ c.nodeGrs (lo * c.gp) (n * c.gp)) →
      Accepts (.kvshare w) s t w c (fun r => .share src.num lo n r) true (if src.num = c.num then [c] else [src, c]) true) ∧
    (∀ key, s.takesBy .orrery (shK w .req 24 .sDst .sSrc .sSrc .sSrc) a b x t → addrOk ea 64 64 → t.xlate ea .wr = .ok key → b32 →
      x.toNat < 2 ^ 20 → ok → Accepts (.kvstat w) s (t.fillTlbs [ea]) w c (fun r => .stat key x.toNat r) true [] false) ∧
    (∀ pages, s.takesBy .orrery (shK w .opt 24 .none .sSrc .sSrc .sSrc) a b x t → okg → x.toNat < 2 ^ 56 → let p : Nat := x.toNat % 2 ^ 32
      ((d.accepted c + 1 < p ∨ c.limit ≤ p) → Faults (.kvw w) s (flt .gap)) ∧
      ((p : Int) ≤ d.accepted c + 1 → p < c.limit → g < c.g → let unit := c.unitGranules (p / c.unit)
        (∀ o ∈ d.kops, o.mayLend c (p / c.unit) = false) → (∀ i ∈ unit, (Sparse.get c.map i).lend = 0 ∧
          ((Sparse.get c.map i).brw = true → entOk (Sparse.get c.map i) (c.slab + 65536 * i) false = .ok () ∧
            ∀ e ∈ t.ownEnts c i, entOk e.2 e.1 true = .ok ())) → area c (c.headGrs ++ c.nodeGrs (c.nodeIx p g) 1) →
        (¬ (c.cellOff p g / 65536 ∈ unit ∧ (Sparse.get c.map (c.cellOff p g / 65536)).brw = true) →
          entOk (c.slabEnt (c.cellOff p g)) (c.slab + c.cellOff p g) true = .ok ()) → t.xlateRange .rd ea c.cellBytes = .ok pages →
        let keys := kibKeys pages ea c.cellBytes
        (∀ k ∈ keys, t.flows k) → t.firstPoison pages ea c.cellBytes = none →
        Accepts (.kvw w) s ((t.fillTlbs (pages.map (·.1))).touchRows keys) w c
          (fun _ => .kvw p g (x.toNat / 2 ^ 32) (t.bytesIn pages ea c.cellBytes)) false [c] true)) ∧
    (s.takesBy .orrery (shK w .none 0 .sDst .none .sSrc .sSrc) a b x t → okg → g < c.g →
      (x.toNat < 2 ^ 56 → area c (c.entryGrs (x.toNat % 2 ^ 32) g) →
        Accepts (.kvrnw w) s t w c (fun r => .renew (x.toNat % 2 ^ 32) g (x.toNat / 2 ^ 32) r) true [c] true) ∧
      (x32 → area c (c.entryGrs x.toNat g) → Accepts (.kvexp w) s t w c (fun r => .expire x.toNat g r) true [c] true)) ∧
    (s.takesBy .orrery (shK w .opt 0 .none .none .sSrc .sSrc) a b x t → b32 → x32 → ok →
      (x.toNat < c.limit → area c c.headGrs → Accepts (.kvadv w) s t w c (fun _ => .adv x.toNat) false [c] true ∧
        Accepts (.kvcmt w) s t w c (fun _ => .commit x.toNat) false [c] true ∧
        Accepts (.kvrwd w) s t w c (fun _ => .rewind x.toNat) false [c] true) ∧
      (c.limit ≤ x.toNat → ∀ i ∈ [Instr.kvadv w, .kvcmt w, .kvrwd w], Faults i s (flt .gap))) ∧
    (∀ pages, s.takesBy .orrery (shK w .req 24 .sDst .sSrc .sSrc .none) a b x t → b32 → ok →
      (addrOk ea c.imageLen 4096 → inWindow ea = false → t.xlateRange .sync ea c.imageLen = .ok pages → area c c.headGrs →
        Accepts (.smout w) s (t.fillTlbs (pages.map (·.1))) w c (fun r => .smout pages ea r) true [] false) ∧
      (addrOk ea 1 65536 → d.growing c.num = false → c.k + 1 ≤ c.kmax → area c c.headGrs → t.growGap c ea = none →
        Accepts (.slabgr w) s t w c (fun r => .grow ea r) true [c] false))) ∧
  (s.takesBy .orrery (shK w .req 24 .sDst .sSrc .sSrc .sSrc) a b x t → s.descAt w a bs → b32 → x32 → ok → field 16 3 = 0 → field 21 43 = 0 →
    let p := x.toNat
    let k := field 19 1
    t.ctxLimits c.lw c.g c.lc k (field 20 1) (field 0 8) (field 8 8) = .ok () → (p : Int) ≤ d.accepted c → p + 1 < 64 * 2 ^ k →
    area c (c.headGrs ++ c.nodeGrs 0 ((p + 1) * c.gp)) → t.forkGap c { c with k := k, slab := field 0 8 } p = none →
    Accepts (.kvfork w) s t w c (fun r => .fork (field 0 8) (field 8 8) k (field 20 1) s.ptb p r) true [c] true)

/-- R125, R128 to R145: what the Orrery's commands and background steps do to a context: positions advance, commit and rewind; an entry is renewed or
expires; a written cell lies in the slab and its node is filed; reclamation advances one position at a time and never past H, a splice or a node moved
a step; release empties one node; an area is cleared; a slab's page moves; a command held back stays. That release skips the nodes an ATTN has in view is
the model's choice (log entry 55), and so is what holds a command back beyond R145 (log entry 15). -/
def Obligations.OrrerySteps : Prop := ∀ (s : State) (die : Nat) (o : KOp) (c : Ctx),
  let d := s.die die
  die < s.dies.length → d.kop o.id = some o → d.ctx o.ctx = some c →
  let after := fun (t : State) => (t.die die).ctx o.ctx
  let gone := fun (t : State) => (t.die die).kop o.id = none
  let free := fun (keys : List Nat) => ∀ k ∈ keys, s.flows k ∧ isScratchKey k = false
  let becomes := fun (x : Ctx) => Ends (.kvCommandApply die o.id) s fun t => after t = some x ∧ gone t ∧ t.mem = s.mem
  (d.canApply o = false → exec (.kvCommandApply die o.id) s = .next s) ∧
  (d.canApply o = true → o.applied = false →
    (∀ q, o.cmd = .adv q → becomes { c with qp := q }) ∧
    (∀ p, o.cmd = .commit p → becomes { c with cp := p, h := max c.h p, qp := max c.qp p }) ∧
    (∀ q, o.cmd = .rewind q → becomes { c with qp := q, cp := min c.cp q, ww := c.ww.map fun x => min x q }) ∧
    (∀ p g l dst, o.cmd = .renew p g l dst → becomes (c.renew p g l).1) ∧
    (∀ p g dst, o.cmd = .expire p g dst → becomes (c.expire p g).1) ∧
    (∀ p g l cell, o.cmd = .kvw p g l cell → let off := c.cellOff p g; let ent := c.slabEnt off; let key := ent.key off
      (∀ i ∈ c.unitGranules (p / c.unit), (Sparse.get c.map i).brw = false) → s.entError ent (c.slab + off) off = none →
      free (ent.keys off c.cellBytes) → s.alive key cell.length →
      Ends (.kvwComplete die o.id) s fun t => after t = some (c.publish p g l) ∧ gone t ∧ t.holds key cell ∧
        (s.touchRows (ent.keys off c.cellBytes)).sameMemoryBut key cell.length t)) ∧
  (∀ p g l, let x := c.publish p g l; let n := Sparse.get x.nodes (c.nodeIx p g)
    x.ww = some (match c.ww with | none => p | some q => max q p) ∧ n.tag = p ∧ n.grp = g ∧
      n.e = if l = 0 then 2 ^ 32 - 1 else p + l) ∧
  (∀ p g l, let n := Sparse.get c.nodes (c.nodeIx p g); let e := if l = 0 then 2 ^ 32 - 1 else c.qp + l
    let there := p < c.limit ∧ n.tag = p ∧ (∃ q, c.ww = some q ∧ p ≤ q) ∧ c.h < n.e ∧ n.e ≠ 0
    let y := c.renew p g l; let z := c.expire p g
    (¬ there → y = (c, 1) ∧ z = (c, 1)) ∧
    (there → (Sparse.get y.1.nodes (c.nodeIx p g)).e = (if e ≤ c.h then 0 else e) ∧ y.2 = (if e ≤ c.h then 2 else 0) ∧
      (Sparse.get z.1.nodes (c.nodeIx p g)).e = 0 ∧ z.2 = 0)) ∧
  (∀ ix n, let y := c.file ix n
    (Sparse.get y.nodes ix).e = n.e ∧ (Sparse.get y.nodes ix).flg =
      if n.e = neverExpiry then 4 else if n.e ≤ c.h then 5 else if n.e / 2 ^ c.lw ≤ (c.rp + 1) / 2 ^ c.lw + 1 then 1
      else if n.e / 2 ^ c.lw ≤ (c.rp + 1) / 2 ^ c.lw + 2 ^ c.lw + 1 then 2 else 3) ∧
  (d.nextWork ≠ some o.ctx → exec (.orreryReclaimStep die o.ctx) s = .next s ∧ exec (.orreryReleaseStep die o.ctx) s = .next s) ∧
  (d.nextWork = some o.ctx → d.orrStep ≤ d.cyc →
    (c.dead = false → let step := fun (p : Ctx → Prop) => Ends (.orreryReclaimStep die o.ctx) s fun t => t.mem = s.mem ∧ ∃ x, after t = some x ∧
       x.h = c.h ∧ x.ww = c.ww ∧ p x
     (c.due = [] → c.rp < c.h → let q := c.rp + 1
       step fun x => x.rp = q ∧ x.release = c.release ++ c.listAt 1 (2 * (q % c.w) + c.block q % 2) ∧ (q % c.w ≠ c.w - 1 → x.steps = [])) ∧
     (∀ b r, c.due = .splice b :: r → step fun x => x.rp = c.rp ∧ x.steps = r ∧
       x.release = c.release ++ (c.listAt 2 (b % c.w)).filter fun j => c.block (Sparse.get c.nodes j).e == b) ∧
     (∀ j r, c.due = .move j :: r → step fun x => x.rp = c.rp ∧ x.steps = r ∧ let n := Sparse.get c.nodes j
       Sparse.get x.nodes j = { n with flg := (c.place n.e).1 } ∧ ∀ k, k ≠ j → Sparse.get x.nodes k = Sparse.get c.nodes k)) ∧
    (∀ ix, (c.release.find? fun j => !d.inView c j) = some ix → Ends (.orreryReleaseStep die o.ctx) s fun t => ∃ x, after t = some x ∧
      (∀ j, j ∈ x.release ↔ j ∈ c.release ∧ j ≠ ix) ∧ Sparse.get x.nodes ix = default ∧
      ∀ j, j ≠ ix → Sparse.get x.nodes j = Sparse.get c.nodes j)) ∧
  ((d.kops.find? fun x => x.ctx == o.ctx && x.cmd == .new) = some o → free (c.amap.flatMap fun e => e.2.keys 0 65536) →
    Ends (.contextAreaClearDone die o.ctx) s fun t => after t = some { c with clearing := false } ∧ gone t ∧
      ∀ e ∈ c.amap, s.hbmDead (e.2.key 0) = false → ∀ i < 65536, t.byte (e.2.key 0 + i) = 0) ∧
  (∀ child cc, (d.kops.find? fun x => x.cmd == .forked child) = some o → d.ctx child = some cc → Ends (.forkCopyDone die child) s fun t =>
    (t.die die).ctx child = some { cc with copying := false } ∧ gone t) ∧
  (∀ f base dst, c.fwd = some f → o.cmd = .grow base dst → o.applied = true →
    (d.kops.find? fun x => x.ctx == o.ctx && x.applied && (match x.cmd with | .grow _ _ => true | _ => false)) = some o →
    let mv := c.pageMoves f
    mv.findSome? s.moveError = none → free (moveReads mv ++ moveWrites mv) →
    Ends (.slabPageMove die o.ctx) s fun t => t.mem = ((s.touchRows (moveReads mv ++ moveWrites mv)).makeMoves mv).mem ∧
      (f.wm + 1 < 2 ^ c.k → after t = some { c with fwd := some { f with wm := f.wm + 1 } }) ∧
      (2 ^ c.k ≤ f.wm + 1 → after t = some { c with slab := f.base, k := c.k + 1, map := f.map, fwd := none } ∧ gone t)) ∧
  (o.applied = true →
    (∀ src a n dst, o.cmd = .share src a n dst → Ends (.orreryBatchPerformed die o.id) s fun t => gone t ∧ after t = some c ∧ t.mem = s.mem) ∧
    (∀ dst, o.cmd = .free dst → (c.release ≠ [] → exec (.orreryBatchPerformed die o.id) s = .next s) ∧
      (c.release = [] → Ends (.orreryBatchPerformed die o.id) s fun t => gone t ∧ after t = none)) ∧
    (∀ pa bytes, o.cmd = .put [(pa / 65536 * 65536, pa / 65536 * 65536)] pa bytes → pa % 65536 + bytes.length ≤ 65536 → bytes ≠ [] →
      s.linkFailed pa = false → free (kibKeys [(pa / 65536 * 65536, pa / 65536 * 65536)] pa bytes.length) → s.alive pa bytes.length →
      Ends (.orreryBatchPerformed die o.id) s fun t => gone t ∧ after t = some c ∧ t.holds pa bytes))

/-! ### Attention (06, 12, R126, R146 to R149, R277 to R280) -/

/-- R126, R127, R146, R277 to R280, R314: an accepted ATTN or ATTNM joins the engine's list with H and ww as they stand (one sample for all its pages:
log entry 19); each page's triples over the visible cells are folded in turn, a page with a granule outside HBM is a miss of ATTNM; the end writes the
group's registers under the mask row by row and ends the batch. An entry is visible when its position is not after the query, has been written, and its
expiry lies after the query and after H. -/
def Obligations.Attention : Prop :=
  (∀ (w : Wt) (s u : State) (x : VIn) (c : Ctx) (sent : Nat) (i : Instr) (multi : Bool), (i, multi) ∈ [(Instr.attn w, false), (.attnm w, true)] →
    let b := x.b.word.toNat
    let cw := x.c.word.toNat
    let page := cw % 2 ^ 20
    let grp := cw / 2 ^ 20 % 64
    let count := cw / 2 ^ 26 % 64 + 1
    let t := u.updDie s.core.did fun d => d.accepts .orrery (s.now + 1)
    s.legal (shAttn w multi) → s.vread (shAttn w multi) = .ok (x, u) → s.shadow (shAttn w multi) = .ok () → s.strm.sent = some sent → s.mayAccept .orrery sent = true →
    t.acceptCtx (b % 2 ^ 32) = .ok c → c.hot = true → c.clearing = false → c.copying = false → grp < c.g → page + count ≤ 2 ^ c.k →
    c.cellBytes = 16 * (etOf w).width → (multi = false → count = 1) → c.unmapped page count grp = none → c.unbacked page count grp = false →
    (∀ n ∈ c.headGrs ++ c.nodeGrs (64 * page * c.gp) (64 * count * c.gp), (Sparse.get c.amap n).v = true) →
    (s.strm.token (xb w 22 20)).room false = true → s.core.did < s.dies.length →
    Retires i s 1 fun v => s.sameData v ∧ s.sameScalars v ∧ ∃ e r, (v.die s.core.did).attns = (s.die s.core.did).attns ++ [e] ∧
      e.ctx = c.num ∧ e.page = page ∧ e.grp = grp ∧ e.count = count ∧ e.q0 = b / 2 ^ 32 ∧ e.scale = cw / 2 ^ 32 ∧ e.h = c.h ∧ e.ww = c.ww ∧
      e.regs = s.physRange w.d.toNat 4 ∧ e.pred = x.p ∧ e.next = 0 ∧ e.done = 0 ∧ e.tok = some r ∧ r.strm = s.cur ∧ r.tok = xb w 22 20) ∧
  (∀ (pos q h : Nat) (n : Node) (ww : Option Nat), visibleAt pos q n h ww = true ↔
    n.tag = pos ∧ pos ≤ q ∧ (∃ p, ww = some p ∧ pos ≤ p) ∧ q < n.e ∧ h < n.e ∧ q ≤ 0xFFFFFFFE) ∧
  (∀ scale q, scale ≠ .nan → attnRow scale q [] = emptyRow) ∧
  (∀ (s : State) (die : Nat) (a : Attn) (c : Ctx), die < s.dies.length →
    ((s.die die).attns.find? fun x => x.id == a.id) = some a → (s.die die).ctx a.ctx = some c →
    let page := a.page + a.next
    let keys := c.runKeys page a.grp
    let cells := s.attnCells c a page
    let still := fun (t : State) => (t.die die).attns.find? fun x => x.id == a.id
    (a.next < a.count → (a.multi = true → ∀ gr ∈ c.pageGranules page, (c.pageEnt page gr).tier = 0) →
      (∀ k, s.jobCore a.lrec a.job = some k → k.mbusy ≤ (s.die die).cyc) → s.pageError c keys a.grp page cells = none → (∀ k ∈ keys, s.flows k) →
      Ends (.attnPageCompute die a.id) s fun t =>
        ∃ y, still t = some y ∧ y.next = a.next + 1 ∧ y.miss = a.miss ∧ y.rows = List.zipWith mergeRow a.rows (attnPage a cells)) ∧
    (a.next < a.count → a.multi = true → (∃ gr ∈ c.pageGranules page, (c.pageEnt page gr).tier ≠ 0) →
      Ends (.attnPageCompute die a.id) s fun t => ∃ y, still t = some y ∧ y.next = a.next + 1 ∧ y.miss = a.miss + 2 ^ a.next ∧ y.rows = a.rows) ∧
    (a.count ≤ a.next → s.core.holds a.lrec a.job = true → Ends (.attnComplete die a.id) s fun t =>
      (a.done < 15 → ∃ y, still t = some y ∧ y.done = a.done + 1 ∧ y.next = a.next) ∧ (15 ≤ a.done → still t = none) ∧
      t.core.vregs = (applyParts s.core (imageParts (rowPred a.pred a.done) a.regs
        (tripleImages a.rows (a.miss % 2 ^ 32) (a.miss / 2 ^ 32)))).vregs))

/-! ### The Sluice (06, 12, R150 to R160, R284, R296 to R298) -/

/-- R150, R151, R153 to R159, R296 to R298: XOPEN allots the least free end under the limits of its descriptor; XGRANT marks the next buffers and sends
their permits once its reads have performed; XSEND consumes a permit, joins the sender's Rake queue and fills the buffer the permit stands for; XRECV takes buffers in arrival order;
XCLOSE marks its end; XSTAT reads an end. A word on an end that is closed, mismatched or failed answers the status, with an event where the end asks
for one. Each completes, where the Sluice accepts it. That XCLOSE and XSTAT accept an opening end, and what a second XCLOSE and an XSEND that finds the
queue full answer, and that XRECV after the job's own XCLOSE answers 2 of a FAILED end too, are the model's choices (log entries 40, 26, 27). -/
def Obligations.ChannelWords : Prop := ∀ (w : Wm) (s t : State) (a b c : Word) (e : ChEnd) (tok : Option TokRef) (u : State),
  let me := s.core.did
  let now := fun (v : State) => (v.die me).chEnd e.num
  let word := fun (st : Nat) => statusWord st 0
  let shut := fun (i : Instr) (x : State) (out : Nat → Word) (st : Nat) => ∀ v, x.gives w.d (out st) 1 v →
    ((e.eve = false ∨ (st ≠ 2 ∧ st ≠ 3)) → exec i s = .next (v.retire 1)) ∧
    (e.eve = true → (st = 2 ∨ st = 3) →
      exec i s = .next ((v.raiseEvent e.lrec e.job .a { cause := 3, sub := 0, info := statusWord st (e.handle me) }).retire 1))
  me < s.dies.length → b.toNat < 2 ^ 32 → t.open_ w.d →
  (∀ bs, xopenLimits bs = .ok () ↔ (let role := fieldNat bs 3 1; let tiles := fieldNat bs 4 1; let nb := fieldNat bs 5 1
      let buf := fieldNat bs 8 8; let sw := fieldNat bs 16 8
      role ≤ 1 ∧ 0 < tiles ∧ tiles ≤ 64 ∧ fieldNat bs 6 1 ≤ 1 ∧ fieldNat bs 7 1 = 0 ∧ fieldNat bs 24 40 = 0 ∧
      (role = 0 → nb = 0 ∧ buf = 0 ∧ sw = 0) ∧
      (role = 1 → 0 < nb ∧ nb ≤ 16 ∧ buf % 128 = 0 ∧ sw % 16 = 0 ∧ winLo ≤ buf ∧ buf + nb * tiles * 2048 ≤ winHi ∧
        (sw = 0 ∨ (winLo ≤ sw ∧ sw < winHi))))) ∧
  (∀ bs n, s.takesBy .sluice (shM w .req true 1 24 .sDst .sSrc .none .none) a b c t → s.descAt w a bs → xopenLimits bs = .ok () →
    t.joinW w = .ok (tok, u) → bridged me (fieldNat bs 2 1) = true → (s.die (fieldNat bs 2 1)).fenced = false →
    (s.die me).freeEnd (if isAttnDie me then 128 else 64) = some n →
    Retires (.xopen w) s 1 fun v => ∃ x, (v.die me).ends = (s.die me).ends ++ [x] ∧ x.num = n ∧ x.gen = Sparse.get (s.die me).endGens n ∧
      x.key = fieldNat bs 0 2 ∧ x.peer = fieldNat bs 2 1 ∧ x.role = fieldNat bs 3 1 ∧ x.t = fieldNat bs 4 1 ∧ x.nb = fieldNat bs 5 1 ∧
      x.buf = fieldNat bs 8 8 ∧ x.sw = fieldNat bs 16 8 ∧ (x.eve = true ↔ fieldNat bs 6 1 = 1) ∧ x.lrec = s.core.lrec ∧
      x.job = s.core.job.toNat ∧ x.st = .opening ∧ x.bufs = List.replicate x.nb .free ∧ x.permits = 0 ∧ x.sent = 0 ∧ x.popped = 0 ∧
      x.openTok = tok ∧ s.gave v w.d (statusWord 0 (x.gen * 2 ^ 24 + me * 2 ^ 8 + n)) ∧ v.mem = s.mem) ∧
  (∀ bs st v, s.takesBy .sluice (shM w .req true 1 24 .sDst .sSrc .none .none) a b c t → s.descAt w a bs → xopenLimits bs = .ok () →
    t.joinW w = .ok (tok, u) → st = (if bridged me (fieldNat bs 2 1) = true ∧ (s.die (fieldNat bs 2 1)).fenced = false then 5 else 4) →
    (st = 5 → (s.die me).freeEnd (if isAttnDie me then 128 else 64) = none) → u.gives w.d (word st) 1 v →
    exec (.xopen w) s = .next ((v.endOp tok none).retire 1)) ∧
  (s.takesBy .sluice (shM w .none false 1 5 .sDst .none .sSrc .none) a b c t → t.endOf b.toNat (some 1) = .ok e → let n := w.disp.toNat % 32
    0 < n → n ≤ 16 →
    (s.chStatus e ≠ 0 → shut (.xgrant w) t word (s.chStatus e)) ∧
    (s.chStatus e = 0 → e.st ≠ .opening → n ≤ e.count BufSt.isFree → e.bufs.length = e.nb →
      Retires (.xgrant w) s 1 fun v => s.gave v w.d 0 ∧ v.mem = s.mem ∧ ∃ bufs, now v = some { e with
        bufs := bufs, grants := e.grants + n, held := e.held ++ [s.readsBefore w.cls.toNat n] } ∧ bufs.length = e.nb ∧
        ∀ i < e.nb, ((∃ j < n, (e.grants + j) % e.nb = i) → bufs.getD i .free = .granted) ∧
          ((∀ j < n, (e.grants + j) % e.nb ≠ i) → bufs.getD i .free = e.bufs.getD i .free))) ∧
  (∀ pages, s.takesBy .sluice (shM w .opt true 3 24 .sDst .sSrc .sSrc .sSrc) a b c t → c.toNat < 2 ^ 32 → t.endOf b.toNat (some 0) = .ok e →
    let ea := effAddr w a
    addrOk ea (e.t * 2048) 128 → t.xlateRange .crd ea (e.t * 2048) = .ok pages → s.classDone w → t.joinW w = .ok (tok, u) →
    (s.chStatus e ≠ 0 → shut (.xsend w) (u.endOp tok none) word (s.chStatus e)) ∧
    (s.chStatus e = 0 → e.st ≠ .opening → (e.permits = 0 ∨ s.rakeFull = true) → (w.sz.getLsbD 0 = true → shut (.xsend w) (u.endOp tok none) word 1) ∧
      (w.sz.getLsbD 0 = false → exec (.xsend w) s = .next s)) ∧
    (∀ p, s.chStatus e = 0 → e.st ≠ .opening → 0 < e.permits → s.rakeFull = false → s.partner e = some p → e.peer ≠ me →
      e.peer < s.dies.length → let buf := e.sent % p.nb; let n := e.t * 2048
      Retires (.xsend w) s 1 fun v => s.gave v w.d 0 ∧ v.mem = s.mem ∧ now v = some { e with permits := e.permits - 1, sent := e.sent + 1 } ∧
        (∃ k x, v.core.rake = s.core.rake ++ [k] ∧ k.todo = [{ src := ea, dst := p.buf + buf * n, len := n }] ∧ k.pages = dedup pages ∧
          k.cls = w.cls.toNat ∧ k.tok = tok ∧ k.sw = none ∧ k.send = some x ∧ x.num = e.num ∧ x.seq = e.sent ∧ x.buf = buf ∧ x.user = c) ∧
        (v.die e.peer).chEnd p.num = some { p with bufs := p.bufs.set (e.sent % p.nb) (.filling e.sent) })) ∧
  (s.takesBy .sluice (shM0 w .none 3 0 .sDst .none .sSrc .none) a b c t → t.endOf b.toNat (some 1) = .ok e → w.d ≠ 696 →
    let slot := e.bufs.getD (e.popped % e.nb) .free
    let out := fun (st : Nat) => recvWord st 0 0 0
    ((e.selfClosed = true ∨ s.chStatus e = 3 ∨ s.chStatus e = 4) → shut (.xrecv w) t out (if e.selfClosed then 2 else s.chStatus e)) ∧
    (e.selfClosed = false → s.chStatus e ≠ 3 → s.chStatus e ≠ 4 → e.st ≠ .opening →
      (∀ seq user, slot = .arrived seq user → Retires (.xrecv w) s 1 fun v => v.mem = s.mem ∧
        s.gave v w.d (BitVec.ofNat 64 (e.popped % e.nb * 2 ^ 52 + seq % 2 ^ 16 * 2 ^ 32 + user.toNat)) ∧
        now v = some { e with bufs := e.bufs.set (e.popped % e.nb) .free, popped := e.popped + 1 }) ∧
      (slot.isArrived = false → let none_ := ∀ y ∈ e.bufs, y.isFilling = false ∧ y.isArrived = false
        (s.chStatus e = 2 → none_ → shut (.xrecv w) t out 2) ∧
        ((s.chStatus e ≠ 2 ∨ ¬ none_) → (w.sz.getLsbD 0 = true → shut (.xrecv w) t out 1) ∧
          (w.sz.getLsbD 0 = false → exec (.xrecv w) s = .next s))))) ∧
  (s.takesBy .sluice { shM w .req true 1 0 .sDst .none .sSrc .none with
      xok := w.cls == 0 && (shM w .req true 1 0 .none .none .none .none).xok } a b c t → t.endOf b.toNat none = .ok e → t.joinW w = .ok (tok, u) →
    (e.selfClosed = true → shut (.xclose w) (u.endOp tok none) word (if e.st = .failed then 3 else 2)) ∧
    (e.selfClosed = false → e.st ≠ .failed → Retires (.xclose w) s 1 fun v => s.gave v w.d 0 ∧ v.mem = s.mem ∧
      now v = some { e with selfClosed := true, closeTok := tok, openTok := none }) ∧
    (e.selfClosed = false → e.st = .failed → e.eve = false → Retires (.xclose w) s 1 fun v => s.gave v w.d (word 3) ∧ v.mem = s.mem ∧
      now v = some { e with selfClosed := true, closeTok := none, openTok := none })) ∧
  (∀ v, s.takesBy .sluice (shM0 w .none 1 0 .sDst .none .sSrc .none) a b c t → t.endOf b.toNat none = .ok e →
    (e.mismatch = true → shut (.xstat w) t word 4) ∧
    (e.mismatch = false → t.gives w.d (s.endRecord e) 1 v → exec (.xstat w) s = .next (v.retire 1)) ∧
    (e.role ≤ 1 → e.permits < 256 → (s.sendsOf e).length < 256 → e.bufs.length ≤ 16 → let r := (s.endRecord e).toNat
      r / 2 ^ 48 = (if e.role = 0 then e.sent else e.popped) % 2 ^ 16 ∧ r / 2 ^ 32 % 2 ^ 16 = min e.rpl 65535 ∧ r / 2 ^ 27 % 32 = e.role ∧
      r / 2 ^ 24 % 8 = s.endCode e ∧ r / 2 ^ 16 % 256 = (if e.role = 0 then 0 else e.count BufSt.isFree) ∧
      r / 2 ^ 8 % 256 = (if e.role = 0 then (s.sendsOf e).length else e.count BufSt.isArrived) ∧
      r % 256 = if e.role = 0 then e.permits else e.count BufSt.isGranted))

/-- R151, R153 to R155, R158, R160: ends of one key are matched in order, and unequal `t` leaves both mismatched; a grant reaches its sender once its
reads have performed; a tile set is written whole, its arrival queued, the sync word raised by its bytes; a close frees a matched pair when both are
done; a beat's replays are counted, and retraining fails the channels that were filling. Whether retraining succeeds is free (log entry 5). -/
def Obligations.ChannelSteps : Prop := ∀ (s : State) (die num : Nat) (e : ChEnd),
  let mine := fun (t : State) => (t.die die).chEnd num
  let other := fun (t : State) (n : Nat) => (t.die e.peer).chEnd n
  die < s.dies.length → e.peer < s.dies.length → e.peer ≠ die → mine s = some e →
  (∀ y, (s.die die).nextOpen e.peer e.key e.role = some e → (s.die e.peer).nextOpen die e.key (1 - e.role) = some y → other s y.num = some y →
    Ends (.channelMatch die num) s fun t => t.mem = s.mem ∧
      (e.t = y.t → mine t = some { e with st := .opened, openTok := none, peerEnd := some y.num } ∧
        other t y.num = some { y with st := .opened, openTok := none, peerEnd := some num }) ∧
      (e.t ≠ y.t → mine t = some { e with mismatch := true, openTok := none, peerEnd := none } ∧
        other t y.num = some { y with mismatch := true, openTok := none, peerEnd := none })) ∧
  (∀ p g r, e.held = g :: r → s.partner e = some p → e.role = 1 →
    (g.clear s (s.jobCore e.lrec e.job) = false → exec (.permitArrive die num) s = .next s) ∧
    (g.clear s (s.jobCore e.lrec e.job) = true → Ends (.permitArrive die num) s fun t => t.mem = s.mem ∧
      mine t = some { e with held := r } ∧ other t p.num = some { p with permits := p.permits + g.n })) ∧
  (∀ p x k, oldestSend (s.sends die num) = some k → k.send = some x → s.partner e = some p → k.todo = [] → x.from_ ≤ (s.die die).cyc →
    s.jobSaved p.lrec p.job = false → (∀ q, s.recvSync k = some q → s.flows q) →
    Ends (.setArrived die num) s fun t => other t p.num = some { p with bufs := p.bufs.set x.buf (.arrived x.seq x.user) } ∧ mine t = some e ∧
      (∀ y ∈ t.sends die num, y.id ≠ k.id) ∧ (s.recvSync k = none → t.mem = s.mem) ∧
      ∀ q, s.recvSync k = some q → s.alive q 16 → t.natAt q 16 = syncUpdate ((s.touchRow q).natAt q 16) (p.t * 2048) ∧
        (s.touchRow q).sameMemoryBut q 16 t) ∧
  (∀ x k, oldestSend ((s.sends die num).filter fun k => !k.todo.isEmpty) = some k → k.send = some x → x.replays ≤ 16 →
    let again := decide (x.replays < 16)
    Ends (.bridgeBeatReplay die num) s fun t => mine t = some (if again then { e with rpl := min (e.rpl + 1) 65535 } else e) ∧
      (∀ y ∈ t.sends die num, y.id = k.id → y.send = some { x with replays := x.replays + 1 }) ∧
      ∀ p, s.partner e = some p → other t p.num = some (if again then { p with rpl := min (p.rpl + 1) 65535 } else p)) ∧
  (bridged die e.peer = true → s.retrainDue die e.peer = true → e ∈ s.fillingTo die e.peer → Ends (.bridgeRetrain die e.peer) s fun t =>
    let u := ({ s with freeN := s.freeN + 1 } : State).failBridge die e.peer
    (t = u ∨ t = u.loseBridge die e.peer) ∧ ∃ x, mine u = some x ∧ x.st = .failed ∧ u.sends die num = []) ∧
  (s.closeReady e = false → exec (.xcloseComplete die num) s = .next s) ∧
  (s.closeReady e = true →
    (s.partner e = none → Ends (.xcloseComplete die num) s fun t => mine t = none ∧ Sparse.get (t.die die).endGens num = (e.gen + 1) % 256) ∧
    (∀ p, s.partner e = some p → p.done = true → Ends (.xcloseComplete die num) s fun t => mine t = none ∧ other t p.num = none ∧
      Sparse.get (t.die die).endGens num = (e.gen + 1) % 256 ∧ Sparse.get (t.die e.peer).endGens p.num = (p.gen + 1) % 256) ∧
    (∀ p, s.partner e = some p → p.done = false → e.st = .opened → let back := fun (b : BufSt) => if b.isGranted then BufSt.free else b
      Ends (.xcloseComplete die num) s fun t => t.mem = s.mem ∧
        (e.role = 0 → mine t = some { e with done := true, closeTok := none, permits := 0 } ∧
          other t p.num = some { p with bufs := p.bufs.map back, held := [] }) ∧
        (e.role ≠ 0 → mine t = some { e with done := true, closeTok := none, bufs := e.bufs.map fun _ => .free, held := [] } ∧
          other t p.num = some { p with permits := 0 })))

/-! ### The Pan filter and the system words (12, R299 to R304) -/

/-- R299 to R304: PANCFG takes the least free slot under the limits of its descriptor, its release ends the waiting reads and advances the generation;
PANRD records a full row and waits otherwise; a performed store's elements count once each, in SUM and the shortlist; CNTRD and CNTCLR act on the
launch's counters and leave cnti; INVTLB, its stream's accesses translated, drops entries of the job's own page table; PMCRD reads the counters. A handle, a row or an address outside its
bounds is an illegal operand. That CNTCLR forgets the crossing, so that a job placed later gets no bit of it, is the model's choice (log entry 69). -/
def Obligations.PanAndSystem : Prop := ∀ (s t u : State) (w : Wm) (v : Wi) (a b c : Word),
  let me := s.core.did
  let d := s.die me
  me < s.dies.length →
  (∀ bs, panLimits bs = .ok () ↔ (let rows := fieldNat bs 8 4; let len := fieldNat bs 12 4; let et := fieldNat bs 16 1
      fieldNat bs 0 8 % 0x200000 = 0 ∧ 0 < rows ∧ rows ≤ 4096 ∧ 64 ≤ len ∧ len ≤ 2 ^ 20 ∧ len % 64 = 0 ∧ (et = 9 ∨ et = 10 ∨ et = 11) ∧
      rows * len * (if et = 11 then 4 else 2) ≤ 2 ^ 30 ∧ 0 < fieldNat bs 17 1 ∧ fieldNat bs 17 1 ≤ 64 ∧ fieldNat bs 18 2 = 0 ∧
      finite32 (fieldNat bs 20 4) = true ∧ posNormal32 (fieldNat bs 24 4) = true ∧ fieldNat bs 28 36 = 0)) ∧
  (∀ bs pages, s.takesBy .pan { shM w .none false 1 24 .sDst .sSrc .none .none with die := some false } a b c t → s.descAt w a bs → panLimits bs = .ok () →
    s.xlateRange .crd (fieldNat bs 0 8) (fieldNat bs 8 4 * fieldNat bs 12 4 * (if fieldNat bs 16 1 = 11 then 4 else 2)) = .ok pages →
    (∀ g ∈ pages, isHbmKey g.2 = true ∧ dieOfDpa g.2 = me) → (∀ p ∈ d.pans, p.2.used = true → sharesFrame p.2.pages pages = false) → d.panq = [] →
    (d.freePan = none → t.gives w.d (BitVec.ofNat 64 (2 ^ 32)) 1 u → exec (.pancfg w) s = .next (u.retire 1)) ∧
    (∀ n, d.freePan = some n → t.open_ w.d → let gen := (d.pan n).gen
      Retires (.pancfg w) s 1 fun x => x.mem = (s.fillTlbs (pages.map (·.1))).mem ∧ s.gave x w.d (BitVec.ofNat 64 (gen * 2 ^ 24 + me * 2 ^ 8 + n)) ∧
        (x.die me).pan n = { used := true, gen := gen, pages := pages, va := fieldNat bs 0 8, rows := fieldNat bs 8 4, len := fieldNat bs 12 4
                             et := fieldNat bs 16 1, ks := fieldNat bs 17 1, cap := fieldNat bs 20 4, temp := fieldNat bs 24 4, state := [], reads := [] } ∧
        ∀ m, m ≠ n → (x.die me).pan m = d.pan m)) ∧
  (∀ n p, s.takesBy .pan { shM w .none false 2 0 .sDst .none .sSrc .none with die := some false } a b c t → b.toNat < 2 ^ 32 →
    s.panOf b.toNat = .ok (n, p) → s.classDone w → d.panq = [] → (∀ r ∈ p.reads, s.panGate me n r = .go) → t.open_ w.d →
    Retires (.pancfgRel w) s 1 fun x => s.gave x w.d 0 ∧ (x.die me).pan n = { (default : PanSlot) with gen := (p.gen + 1) % 256 } ∧
      (p.reads = [] → x.mem = s.mem) ∧ ∀ m, m ≠ n → (x.die me).pan m = d.pan m) ∧
  (∀ n p pages tok, s.takesBy .pan { shM w .req true 3 24 .none .sSrc .sSrc .sSrc with die := some false } a b c t → b.toNat < 2 ^ 32 →
    c.toNat < 2 ^ 12 → s.panOf b.toNat = .ok (n, p) → s.classDone w → let ea := effAddr w a; let len := 64 + 8 * p.ks
    (p.rows ≤ c.toNat → Faults (.panrd w) s (flt .illegalOperand)) ∧
    (c.toNat < p.rows → addrOk ea len 64 → s.xlateRange .wr ea len = .ok pages → d.panq = [] → t.joinW w = .ok (tok, u) →
      let row := Sparse.get p.state c.toNat; let clr := w.sz.getLsbD 0; let keys := kibKeys pages ea len
      let walked := s.fillTlbs (pages.map (·.1))
      (row.cnt ≠ p.len → Retires (.panrd w) s 1 fun x => x.mem = walked.mem ∧
        (x.die me).pan n = { p with reads := p.reads ++ [{ row := c.toNat, pages := pages, va := ea, clr := clr, tok := tok, blocked := [] }] }) ∧
      (row.cnt = p.len → ea % 65536 + len ≤ 65536 → s.alive (keyIn pages ea) len → (∀ k ∈ keys, s.flows k ∧ isScratchKey k = false) →
        Retires (.panrd w) s 1 fun x =>
        x.holds (keyIn pages ea) (p.record row) ∧ (walked.touchRows keys).sameMemoryBut (keyIn pages ea) len x ∧
        Sparse.get ((x.die me).pan n).state c.toNat = (if clr then default else row) ∧
        ∀ r, r ≠ c.toNat → Sparse.get ((x.die me).pan n).state r = Sparse.get p.state r))) ∧
  (∀ (p : PanSlot) (r : PanRow), r.sum < 2 ^ 96 → r.cnt < 2 ^ 32 → p.ks < 256 → let bs := p.record r
    bs.length = 64 + 8 * p.ks ∧ fieldNat bs 0 12 = r.sum ∧ fieldNat bs 12 4 = r.cnt ∧ fieldNat bs 17 1 = p.ks ∧
    fieldNat bs 16 1 = r.dup.toNat + 2 * r.nan.toNat + 4 * r.above.toNat + 8 * r.sat.toNat + 16 * (decide (r.cnt ≠ p.len)).toNat ∧ fieldNat bs 18 46 = 0 ∧
    ∀ i < p.ks, (r.short[i]? = none → fieldNat bs (64 + 8 * i) 4 = 0xFFFFFFFF ∧ fieldNat bs (68 + 8 * i) 4 = 0) ∧
      ∀ x y, r.short[i]? = some (x, y) → x < 2 ^ 32 → y < 2 ^ 32 → fieldNat bs (64 + 8 * i) 4 = x ∧ fieldNat bs (68 + 8 * i) 4 = y) ∧
  (∀ die key bs r, die < s.dies.length → (s.die die).panq = (key, bs) :: r → (∀ n, ((s.die die).pan n).reads = []) →
    Ends (.panStoreObserve die) s fun x => (x.die die).panq = r ∧ x.mem = s.mem ∧ ∀ n, let p := (s.die die).pan n
      (x.die die).pan n = if p.used then p.meet key bs p.pages else p) ∧
  (∀ (p : PanSlot) (g : Nat × Nat) (key i : Nat) (bs : List Byte), bs.length = panWidth p.et → g.2 ≤ key → key + bs.length ≤ g.2 + 65536 →
    p.va ≤ g.1 + (key - g.2) → g.1 + (key - g.2) - p.va = i * panWidth p.et → i < p.rows * p.len →
    p.meet key bs [g] = { p with state := Sparse.set p.state (i / p.len) (p.observe (i % p.len) (leNat bs) (Sparse.get p.state (i / p.len))) }) ∧
  (∀ (p : PanSlot) (r : PanRow) (x bits : Nat), let l := decodeFloat p.ty bits; let y := p.observe x bits r
    (r.seen.contains x = true → y = { r with dup := true }) ∧
    (r.seen.contains x = false → y.cnt = r.cnt + 1 ∧ y.seen = r.seen ++ [x] ∧ y.dup = r.dup ∧
      (l = .nan → y = { r with cnt := r.cnt + 1, seen := r.seen ++ [x], nan := true }) ∧
      (l ≠ .nan → y.nan = r.nan ∧ (y.above = true ↔ r.above = true ∨ cmpF l (decodeFloat .fp32 p.cap) = some .gt) ∧ y.sum < 2 ^ 96 ∧
        let sum := r.sum + panTerm (decodeFloat .fp32 (specFn .exp .fp32 .rne false (decodeFloat .fp32 (panZ l p.cap p.temp))).bits)
        (sum < 2 ^ 96 → y.sum = sum ∧ y.sat = r.sat) ∧ (2 ^ 96 ≤ sum → y.sum = 2 ^ 96 - 1 ∧ y.sat = true)))) ∧
  (∀ (l : List (Nat × Nat)) (x y : Nat), l.Pairwise shortBefore → (∀ p ∈ l, p.1 ≠ x ∧ decodeFloat .fp32 p.2 ≠ .nan) → decodeFloat .fp32 y ≠ .nan →
    (shortIns x y l).Perm ((x, y) :: l) ∧ (shortIns x y l).Pairwise shortBefore) ∧
  (∀ l, s.legal (shSys v 5 .sDst .none) → s.launch = some l → s.gives v.d (BitVec.ofNat 64 (Sparse.get l.counters (v.imm.toNat % 32))) 1 u →
    exec (.cntrd v) s = .next (u.retire 1)) ∧
  (s.legal (shSys v 6 .none .none) → Retires (.cntclr v) s 1 fun x => x.core = s.core ∧ x.mem = s.mem ∧ x.launches.length = s.launches.length ∧
    ∀ (i : Nat) (l : Launch), s.launches[i]? = some l → ∃ y : Launch, x.launches[i]? = some y ∧ { y with counters := l.counters, crossed := l.crossed } = l ∧
      ∀ n < 32, let hit := l.lrec = s.core.lrec ∧ (v.imm.getLsbD 5 = true ∨ n = v.imm.toNat % 32)
        (hit → Sparse.get y.counters n = 0 ∧ y.crossed.getLsbD n = false) ∧
        (¬ hit → Sparse.get y.counters n = Sparse.get l.counters n ∧ y.crossed.getLsbD n = l.crossed.getLsbD n)) ∧
  (s.takes (shSys v 2 .none (if v.imm.toNat = 1 then .none else .sSrc)) a b c t →
    let page := fun (e : TlbEnt) => e.hits s.ptb a.toNat
    let near := fun (x : State) (hit : TlbEnt → Bool) => x.core.tlb = s.core.tlb.filter (fun e => !hit e) ∧ x.parked = s.parked ∧ x.mem = s.mem ∧
      ∀ n, Sparse.get (x.die me).tlbs n = if n = s.core.cid / 4 then (Sparse.get d.tlbs n).filter (fun e => !hit e) else Sparse.get d.tlbs n
    (v.imm.toNat % 4 = 3 → Faults (.invtlb v) s (flt .illegalOperand)) ∧
    (s.translated = true →
      (v.imm.toNat % 4 = 0 → Retires (.invtlb v) s 1 fun x => near x page) ∧
      (v.imm.toNat % 4 = 1 → Retires (.invtlb v) s 1 fun x => near x fun e => e.ptb == s.ptb) ∧
      (v.imm.toNat % 4 = 2 → Retires (.invtlb v) s 1 fun x => x.mem = s.mem ∧ (∀ k ∈ x.core :: x.parked, ∀ e ∈ k.tlb, page e = false) ∧
        ∀ die n, ∀ e ∈ Sparse.get (x.die die).tlbs n, page e = false))) ∧
  (let n := v.imm.toNat % 256
   s.takes (shSys v 8 .sDst (if 16 ≤ v.imm.toNat ∧ v.imm.toNat ≤ 18 then .sSrc else .none)) a b c t →
    (n ≤ 10 → t.gives v.d (BitVec.ofNat 64 (Sparse.get s.core.pmc n)) 1 u → exec (.pmcrd v) s = .next (u.retire 1)) ∧
    (∀ key, 16 ≤ n → n ≤ 18 → s.hbmAddr a.toNat = .ok key → let bank := Sparse.get s.banks (bankOf key)
      t.gives v.d (BitVec.ofNat 64 (if n = 16 then Sparse.get bank.counts (rowOf key) else if n = 17 then bank.alerts else bank.cmds)) 400 u →
      exec (.pmcrd v) s = .next ((u.fillTlb a.toNat).retire 1)) ∧
    ((10 < n ∧ n < 16) ∨ 18 < n → Faults (.pmcrd v) s (flt .illegalOperand)))

/-! ### Scheduling, pre-emption and save images (01, 21, R10 to R13, R47, R333 to R349, R352, R389, R390) -/

/-- R11, R12, R333 to R344, R352, R390: launches are taken from rings and refused by the table's limits; a placed gang takes the first free cluster,
core by core, with its image's state and its region's view; a request stops a gang, whose images are then written; the last gang gone, a launch ends with
its record; PREQ and ROOT act on the dies a write reaches. A walk lists each well-formed queue node once, and none at or below a malformed node. That
the excess of an overrun is its oldest entries, so that HEADX becomes TAILX less the ring's size, is the model's choice (log entry 56), and so is that PTB
is the region's at each use (log entry 59). -/
def Obligations.Scheduling : Prop := ∀ (s : State) (die node lrec g : Nat) (v : Word) (l : Launch),
  let head := s.natAt (node + 84) 4
  let tail := s.natAt (node + 88) 4
  let size := s.natAt (node + 80) 4
  let n := fun (off k : Nat) => s.natAt (lrec + off) k
  let flowing := s.host.ide = true ∧ s.host.rdy = true
  let seen := fun (t : State) => t.core :: t.parked
  s.dies.length = 12 → s.alive (node + 84) 8 →
  (s.recordOk l = true ↔ l.lrec % 64 = 0 ∧ 1 ≤ l.gang ∧ l.gang ≤ 4 ∧ l.jobs ≠ 0 ∧ l.jobs % l.gang = 0 ∧ 1 ≤ l.rakeW ∧ l.rakeW ≤ 15 ∧
    s.natAt (l.lrec + 6) 1 ≤ 1 ∧ l.chunk ≤ 15 ∧ l.image % 4096 = 0 ∧ l.spx % l.gang = 0 ∧ l.spx / l.gang % 65536 = 0 ∧ l.spx / l.gang ≤ 851968 ∧
    l.dies < 4096 ∧ l.dies &&& (if s.regionFlag 5 (s.nodePath treeDepth l.node) then 0xF else 0xFF0) = 0 ∧ s.natAt (l.lrec + 42) 6 = 0 ∧
    s.natAt (l.lrec + 72) 56 = 0 ∧ l.cpl % 64 = 0 ∧ l.savesz % 4096 = 0 ∧ 2771488 + l.spx / l.gang ≤ l.savesz ∧ l.gang ≤ l.saven) ∧
  (s.host.rdy = false → ∀ x, exec (.tailxWrite node x) s = .next s) ∧
  (isHbmKey node = true → s.host.rdy = true → s.holdsLate (node + 84) = false → s.holdsLate (node + 88) = false → ∀ x < 2 ^ 32,
    ((∀ d < 12, s.servesNode d node = false) ∨ (x + 2 ^ 32 - head) % 2 ^ 32 ≤ size → Ends (.tailxWrite node x) s fun t =>
      t.natAt (node + 88) 4 = x ∧ s.sameMemoryBut (node + 88) 4 t) ∧
    (∀ d < 12, s.servesNode d node = true → (∀ e < d, s.servesNode e node = false) → size < (x + 2 ^ 32 - head) % 2 ^ 32 →
      Ends (.tailxWrite node x) s fun t => ∃ u, u.natAt (node + 88) 4 = x ∧ u.natAt (node + 84) 4 = (x + 2 ^ 32 - size) % 2 ^ 32 ∧
        s.sameMemoryBut (node + 84) 8 u ∧
        t = u.postRecord (u.faultDomain treeDepth node) { code := 0x21, die := d, addr := node, cyc := (s.die d).cyc })) ∧
  (∀ l, s.launchPtb l = s.inherit 48 8 (s.nodePath treeDepth l.node)) ∧
  (die < 12 → s.servesNode die node = true → s.host.rdy = true → s.holdsLate (node + 84) = false → (tail + 2 ^ 32 - head) % 2 ^ 32 ≤ size →
    (head = tail → exec (.launchTake die node) s = .next s) ∧
    (head ≠ tail → size ≠ 0 → head + 1 < 2 ^ 32 → lrec = s.natAt (s.natAt (node + 72) 8 + 8 * (head % size)) 8 →
      let r := s.readLaunch lrec node
      r.lrec = lrec ∧ r.node = node ∧ r.jobs = n 0 4 ∧ r.gang = n 4 1 ∧ r.rakeW = n 5 1 ∧ (r.reiss = true ↔ n 6 1 % 2 = 1) ∧ r.chunk = n 7 1 ∧
        r.image = n 8 8 ∧ r.fmtb = n 16 8 ∧ r.cnten = n 24 4 ∧ r.spx = n 28 4 ∧ r.cpl = n 32 8 ∧ r.dies = n 40 2 ∧ r.save = n 48 8 ∧
        r.savesz = n 56 4 ∧ r.saven = n 60 4 ∧ r.cntb = n 64 8 ∧ (∀ i < 32, r.thr.getD i 0 = n (128 + 4 * i) 4) ∧
      (lrec + 256 ≤ hbmBytes → s.recordOk r = true → Ends (.launchTake die node) s fun t => t.launches = s.launches ++ [r] ∧ t.natAt (node + 84) 4 = head + 1 ∧
        s.sameMemoryBut (node + 84) 4 t) ∧
      (lrec + 256 ≤ hbmBytes → s.recordOk r = false → Ends (.launchTake die node) s fun t => t.launches = s.launches ∧ ∃ u, u.natAt (node + 84) 4 = head + 1 ∧
        s.sameMemoryBut (node + 84) 4 u ∧ t = u.writeCpl r 1))) ∧
  (die < 12 → let z := s.noteRunnable die
    (pickBy candLt (z.waiting die) = none → exec (.gangPlace die) s = .next z) ∧
    ∀ p f (c : Cand), pickBy candLt (z.waiting die) = some (p, f, c) → z.launches.find? (fun x => x.lrec == c.lrec) = some l →
    ((List.range (clustersOf die)).find? (z.clusterFree die) = none → Ends (.gangPlace die) s fun t => t.mem = s.mem ∧ t.launches = s.launches) ∧
    (∀ cl bs y, c.saved = false → (List.range (clustersOf die)).find? (z.clusterFree die) = some cl → l.gang ≤ 4 →
      (∀ k ∈ s.parked, k.running = true) →
      let given : State := { z with launches := z.launches.map fun x => if x.lrec == l.lrec then l.takeGang die c else x }
      given.readImages (z.launchPtb l) (l.spx / l.gang) [l.image] = .ok ([bs], y) →
      let path := y.nodePath treeDepth l.node; let img := loadCore bs
      Ends (.gangPlace die) s fun t => ∀ i < l.gang, ∃ k ∈ seen t, k.running = true ∧ k.did = die ∧ k.cid = 4 * cl + i ∧ k.lrec = l.lrec ∧
        k.gangNo = c.gang ∧ k.job = BitVec.ofNat 32 (c.gang * l.gang + i) ∧ k.njob = BitVec.ofNat 32 l.jobs ∧ k.rank = BitVec.ofNat 2 i ∧
        k.sys = y.regionFlag 2 path ∧ k.dbgOk = y.regionFlag 3 path ∧ k.pre = y.regionFlag 1 path ∧ k.canon = y.regionFlag 4 path ∧
        k.vbank = y.regionFlag 6 path ∧ k.spx = l.spx ∧ k.jobv.ptb = BitVec.ofNat 64 (y.launchPtb l) ∧ k.jobv.fmtb = BitVec.ofNat 64 l.fmtb ∧
        k.jobv.cnti = img.jobv.cnti ||| l.crossed ∧ k.vregs = img.vregs ∧ k.masks = img.masks ∧ k.tiles = img.tiles ∧ k.queues = img.queues ∧
        k.ports = img.ports ∧ ∀ x, (k.strm x).sregs = (img.strm x).sregs ∧ (k.strm x).pc = (img.strm x).pc ∧ (k.strm x).ord = 0 ∧
          (k.strm x).ret = 0 ∧ (k.strm x).nextIssue = (s.die die).cyc + 1)) ∧
  (die < 12 → let d := s.die die
    (d.cyc % (max 10000 d.slice) ≠ 0 ∨ d.walked = d.cyc ∨ d.fenced = true → exec (.sliceEnd die) s = .next s) ∧
    (d.cyc % (max 10000 d.slice) = 0 → d.walked ≠ d.cyc → d.fenced = false → Ends (.sliceEnd die) s fun t => (t.die die).walked = d.cyc ∧
      (t.die die).queues = (s.tree d.root).queues)) ∧
  (∀ root, let q := (s.tree root).queues
    q.Nodup ∧ ∀ a ∈ q, (∀ b ∈ (s.tree root).bad, b.2 ∉ s.nodePath treeDepth a) ∧ a % 256 = 0 ∧ s.natAt (a + 8) 1 = 2 ∧ s.natAt a 8 ≠ 0 ∧ s.natAt (a + 128) 8 = 0 ∧ s.nodeClean a = true) ∧
  (let cs := s.gangCores lrec g;
    (((∀ k ∈ cs, k.stopReq = false) ∨ ∃ k ∈ cs, k.ops ≠ []) → exec (.preemptStop lrec g) s = .next s) ∧
    ((∃ k ∈ cs, k.stopReq = true) → (∀ k ∈ cs, k.ops = []) → ((s.completeJobs cs).gangCores lrec g).isEmpty = false →
      Ends (.preemptStop lrec g) s fun t => (∀ k ∈ seen t, k.inGang lrec g = false) ∧
        (stopKindOf cs ≠ .fail → ∃ x ∈ t.saved, x.lrec = lrec ∧ x.gang = g ∧ x.valid = false ∧ (x.debug = true ↔ stopKindOf cs = .debug)))) ∧
  (∀ x u, (s.saved.find? fun v => v.lrec == lrec && v.gang == g && !v.valid) = some x → s.launches.find? (fun y => y.lrec == lrec) = some l →
    ((s.arriving x = true ∨ ∃ k ∈ x.cores, k.resultsIn = false) → exec (.gangSaveComplete lrec g) s = .next s) ∧
    (s.arriving x = false → (∀ k ∈ x.cores, k.resultsIn = true ∧ k.canon = false) → s.writeImages l x.stopCyc s.freeN x.cores = .ok u →
      Ends (.gangSaveComplete lrec g) s fun t => (∃ y ∈ t.saved, y.lrec = lrec ∧ y.gang = g ∧ y.valid = true ∧ y.cores = x.cores) ∧
        ∃ y ∈ t.launches, y.lrec = lrec ∧ y.pre = (if x.debug then l.pre else l.pre + 1))) ∧
  (s.launches.find? (fun y => y.lrec == lrec) = some l → (s.endCondition l = none → exec (.launchComplete lrec) s = .next s) ∧
    (∀ st, s.endCondition l = some st → Ends (.launchComplete lrec) s fun t => (∀ y ∈ t.launches, y.lrec ≠ lrec) ∧ ∀ y ∈ t.saved, y.lrec ≠ lrec) ∧
    (∀ st, s.endCondition l = some st → (∀ x ∈ s.saved, x.lrec ≠ lrec) → let u := s.writeVa l l.cntb l.counterBytes
      (∀ k, s.devKey (s.launchPtb l) l.cntb .wr = .ok k → s.holdsLate k = false → l.cntb % 65536 + 256 ≤ 65536 → s.alive k 256 →
        u.holds k l.counterBytes ∧ s.sameMemoryBut k 256 u) ∧
      (∀ k, u.devKey (u.launchPtb l) l.cpl .wr = .ok k → u.holdsLate k = false → l.cpl % 64 = 0 → u.alive k 64 →
        Ends (.launchComplete lrec) s fun t => u.sameMemoryBut k 64 t ∧
          t.holds k (leBytes 1 st ++ leBytes 3 0 ++ leBytes 4 l.doneJobs.dedup.length ++ leBytes 4 l.reis ++ leBytes 4 l.pre ++ leBytes 48 0))) ∧
    (((∃ k ∈ seen s, k.running = true ∧ k.lrec = l.lrec) → s.endCondition l = none) ∧
     ((∀ k ∈ seen s, k.running = true → k.lrec ≠ l.lrec) → (l.cancelled = true → s.endCondition l = some 4) ∧
      (l.cancelled = false → l.lost = true → s.endCondition l = some 3) ∧
      (l.cancelled = false → l.lost = false → (∀ x ∈ s.saved, x.lrec ≠ l.lrec) →
        (l.faulted = true → s.endCondition l = some 2) ∧ (l.faulted = false → (s.endCondition l = some 0 ↔ l.doneJobs.dedup.length = l.jobs)))))) ∧
  (s.host.ide = false → Ends (.preqGo node v) s (fun t => t.core = s.core ∧ t.host.held = s.host.held ++ [.preqGo node v]) ∧
    Ends (.preqCancel node v) s (fun t => t.core = s.core ∧ t.host.held = s.host.held ++ [.preqCancel node v]) ∧
    Ends (.preqResume node v) s (fun t => t.saved = s.saved ∧ t.host.held = s.host.held ++ [.preqResume node v]) ∧
    Ends (.rootWrite node v) s (fun t => t.dies = s.dies ∧ t.host.held = s.host.held ++ [.root node v])) ∧
  (flowing → let ds := s.diesAt node 0x110; let rec_ := bitsOf v.toNat 51 6 * 64
    (v.getLsbD 0 = true → v.getLsbD 1 = false → Ends (.preqGo node v) s fun t => t.mem = s.mem ∧
      ∀ k ∈ seen t, k.running = true → k.lrec = rec_ → k.pre = true → k.did ∈ ds → k.stopReq = true) ∧
    (v.getLsbD 1 = true → ds ≠ [] → Ends (.preqCancel node v) s fun t => (∀ k ∈ seen t, k.running = true → k.lrec = rec_ → k.stopReq = true ∧
      k.stopAs = .fail) ∧ (∀ x ∈ t.saved, x.lrec ≠ rec_) ∧ ∀ y ∈ t.launches, y.lrec = rec_ → y.cancelled = true) ∧
    (v.getLsbD 2 = true → v.getLsbD 1 = false → Ends (.preqResume node v) s fun t => t.mem = s.mem ∧ t.saved.length = s.saved.length ∧
      ∀ x ∈ t.saved, x.lrec = rec_ → x.debug = true → x.valid = true → x.die ∈ ds → x.resume = true) ∧
    Ends (.rootWrite node v) s fun t => ∀ d ∈ s.diesAt node 0x108, (t.die d).root = bitsOf v.toNat 51 8 * 256)

/-- R44, R47, R345, R346, R389: an image's header as its table lays it out, the sections packed after it in order; a job restored from the image it was
saved to has its registers, masks, tiles, queues, events, tokens and pending writes as they were, each write due as many cycles on as it was. -/
def Obligations.SavedJobsComeBack : Prop := ∀ (c w : Core) (gsz stop f start : Nat) (scratch : List Byte),
  (let bs := c.imageBytes gsz stop f scratch
   let secs := c.sections f scratch
   bs.length < 2 ^ 32 → gsz < 256 → c.did < 256 → c.cid < 256 → c.lrec < 2 ^ 64 → stop < 2 ^ 64 →
    fieldNat bs 0 2 = 1 ∧ fieldNat bs 2 2 = 256 ∧ fieldNat bs 4 4 = bs.length ∧ fieldNat bs 8 4 = c.job.toNat ∧ fieldNat bs 12 1 = c.rank.toNat ∧
    fieldNat bs 13 1 = gsz ∧ fieldNat bs 14 1 = c.did ∧ fieldNat bs 15 1 = c.cid ∧ fieldNat bs 16 4 = 1 + 2 * c.canon.toNat + 4 * c.vbank.toNat ∧
    fieldNat bs 24 8 = c.lrec ∧ fieldNat bs 32 8 = stop ∧ secs.length = 11 ∧ bs.drop 256 = secs.flatten ∧
    ∀ i < 11, imgDir bs i = (256 + ((secs.take i).map List.length).sum, (secs.getD i []).length)) ∧
  (let r := Core.restore w w c start
   (∀ n < 640, r.vreg n = c.vreg n) ∧ (∀ n, 0 < n → n < 16 → r.mask n = c.mask n) ∧ (∀ n < 32, r.tile n = c.tile n) ∧ 
   (∀ n < 4, r.queue n = (c.queue n).map (QSlot.later fun t => t + start - c.turnAt)) ∧
   (∀ n < 8, r.port n = c.port n) ∧ r.rng = c.rng ∧ r.cq = c.cq ∧ r.ops = c.ops ∧ r.rake = c.rake ∧ r.wins = c.wins ∧
   ((∀ p ∈ c.pending, c.turnAt ≤ p.due) → r.pending = c.pending.map fun p => { p with due := start + (p.due - c.turnAt) }) ∧
   ∀ k, let x := r.strm k; let y := c.strm k
     (∀ n < 32, x.sreg n = y.sreg n) ∧ x.pc = y.pc ∧ x.atHdr = y.atHdr ∧ x.handler = y.handler ∧ x.held = y.held ∧ x.lc = y.lc ∧ x.rrb = y.rrb ∧
     x.evh = y.evh ∧ x.evc = y.evc ∧ x.eva = y.eva ∧ x.epc = y.epc ∧ x.ord = y.ord ∧ x.ret = y.ret ∧ x.tokens = y.tokens ∧ x.busy = y.busy)

/-! ### Bring-up, the host link and SPDM (20, 22, 25, R325 to R332, R355, R356, R364, R385, R386) -/

/-- R325 to R332, R340, R355, R356, R385, R386: the phases of bring-up with their failure codes and effects; a reset keeps flash and the bad-page list
and starts again; DEVSTAT's fields; CXL.mem before and after READY; IDE; the register writes; the fault-address queue; the SPDM responder's answers. Which
dies fail a phase is an input; host traffic held until IDE stands is carried out in order (log entry 41). The model's choices among these: POWER_GOOD on a
device that runs is a loss of power (log entry 32); SPDM's answers to errors, to slots other than 0 and about a session (log entry 62) and vector 1 at
once; a merged queue entry keeps the graver type (log entry 63); what FIRMWARE loads into a Meridian besides its image (log entry 31). -/
def Obligations.BringUpAndHost : Prop := ∀ (s : State) (failed : List Nat) (x : Bool) (a n : Nat) (bs : List Byte) (v : Word),
  let up := s.booting = true ∧ s.phaseLate = false
  let told := fun (t : State) (v : Nat) => t.host.msix = (if s.host.ide = true then s.host.msix ++ [v] else s.host.msix) ∧
    t.host.msixHeld = if s.host.ide = true then s.host.msixHeld else s.host.msixHeld ++ [v]
  let quiet := fun (t : State) => t.host.msix = s.host.msix ∧ t.host.msixHeld = s.host.msixHeld
  let fails := fun (i : Instr) (code : Nat) => Ends i s fun t => t.host.fail = true ∧ t.host.fcode = code ∧ t.host.phase = s.host.phase ∧
    t.host.rdy = s.host.rdy ∧ told t 0 ∧ t.mem = s.mem
  let next := fun (t : State) => t.host.phase = s.host.phase + 1 ∧ t.host.phaseAt = (s.die 0).cyc ∧ t.host.fail = s.host.fail
  let fenced := fun (t : State) => ∀ i < 12, ((t.die i).fenced = true ↔ (s.die i).fenced = true ∨ i ∈ failed)
  let i := Instr.phaseComplete failed x
  let flowing := s.host.ide = true ∧ s.host.rdy = true
  s.dies.length = 12 →
  (s.host.phase = 0 → Ends .powerGood s fun t => t.host.phase = 1 ∧ t.host.phaseAt = (s.die 0).cyc ∧ t.mem = s.mem ∧ t.core = s.core) ∧
  (s.host.phase ≠ 0 → Ends .powerGood s fun t => t.host.phase = 1 ∧ t.host.rdy = false ∧ t.core.running = false ∧ (∀ d < 12, (t.die d).cyc = 0) ∧
    ∀ key, (isFlashKey key = true → t.byte key = s.byte key) ∧ (isHbmKey key = true ∨ isScratchKey key = true → t.byte key = 0)) ∧
  (s.booting = false → exec i s = .next s ∧ exec .phaseTimeout s = .next s) ∧
  (s.booting = true → s.phaseLate = true → exec i s = .next s ∧ fails .phaseTimeout 3) ∧
  (up → s.host.phase = 1 → (x = true → fails i 1) ∧ (x = false → let img := s.host.fwImage.getD Config.bootImage
    Ends i s fun t => next t ∧ t.mem = s.mem ∧ Sparse.get t.host.spdm.meas 2 = Config.shake256 img ∧
      ∀ d < 12, { t.die d with mer := (s.die d).mer } = s.die d ∧ ∀ b < 524288, Sparse.get (t.die d).mer.tcm b = img.getD b 0)) ∧
  (up → s.host.phase = 2 → (0 ∈ failed → fails i 2) ∧ (0 ∉ failed → Ends i s fun t => next t ∧ fenced t ∧ t.mem = s.mem)) ∧
  (up → s.host.phase = 3 → (x = true ∨ s.host.loadBad = none → fails i 5) ∧ ∀ h, s.host.loadBad = some h → x = false → (0 ∈ failed → fails i 2) ∧
    (0 ∉ failed → Ends i s fun t => next t ∧ fenced t ∧ t.poison = [] ∧ t.flashBad = s.flashBad ∧ t.host.badList = h.badList ∧
      (∀ key, (key < cxlBase ∨ scratchBase ≤ key) → t.byte key = 0) ∧ ∀ key, cxlBase ≤ key → key < scratchBase → t.byte key = s.byte key)) ∧
  (up → s.host.phase = 4 → (0 ∈ failed → fails i 2) ∧
    (0 ∉ failed → (∀ d < 12, 4 ≤ d → (s.die d).fenced = true ∨ d ∈ failed) → Ends i s fun t => t.host.fail = true ∧ t.host.fcode = 4) ∧
    (0 ∉ failed → (∃ d < 12, 4 ≤ d ∧ (s.die d).fenced = false ∧ d ∉ failed) → Ends i s fun t => next t ∧ fenced t ∧
      ∀ d < 12, ((t.die d).ok = true ↔ (t.die d).fenced = false))) ∧
  (up → s.host.phase = 5 → Ends i s fun t => t.host.rdy = true ∧ t.host.phase = 5 ∧ told t 0 ∧
    (t.host.degr = true ↔ ∃ d < 12, (s.die d).fenced = true) ∧ ∀ d < 12, (t.die d).fenced = (s.die d).fenced) ∧
  (∀ j ∈ [Instr.deviceReset, .firmwareUpdate bs n], (j = .deviceReset ∨ s.host.fail = true) → Ends j s fun t => t.host.phase = 1 ∧ t.host.rdy = false ∧
    t.host.fail = false ∧ t.host.ide = false ∧ t.host.badList = s.host.badList ∧ t.flashBad = s.flashBad ∧ t.core.running = false ∧ t.parked = [] ∧
    t.launches = [] ∧ t.saved = [] ∧ (∀ key, isFlashKey key = true → t.byte key = s.byte key) ∧ (∀ d < 12, (t.die d).cyc = (s.die d).cyc) ∧
    t.host.fwImage = if j = .deviceReset then s.host.fwImage else some bs) ∧
  (s.host.fail = false → exec (.firmwareUpdate bs n) s = .next s) ∧
  (s.dieOk < 2 ^ 12 → s.host.fcode < 256 → s.host.phase < 16 → let r := s.devstat.toNat
    r / 2 ^ 52 = s.dieOk ∧ r / 2 ^ 40 % 2 ^ 12 = s.host.fcode ∧ r / 2 ^ 24 % 2 ^ 16 = min ((s.die 0).cyc / 850000) 65535 ∧ r / 2 ^ 8 % 2 ^ 16 = 0 ∧
    r / 16 % 16 = s.host.phase ∧ s.devstat.getLsbD 3 = s.host.ideerr ∧ s.devstat.getLsbD 2 = s.host.degr ∧ s.devstat.getLsbD 1 = s.host.fail ∧
    s.devstat.getLsbD 0 = s.host.rdy ∧ ∀ d < 12, s.dieOk.testBit d = (s.die d).ok) ∧
  (s.host.ide = false → (Ends (.cxlMemRead a n) s fun t => t.mem = s.mem ∧ t.host.held = s.host.held ++ [.read a n]) ∧
    (Ends (.cxlMemWrite a bs) s fun t => t.mem = s.mem ∧ t.host.held = s.host.held ++ [.write a bs]) ∧
    (∀ j q, (j, q) ∈ [(Instr.registerWrite a v, HostReq.reg a v), (.ideerrClear v, .ideerr v), (.tlbinvWrite v, .tlbinv v), (.faqPop, .faq)] →
      Ends j s fun t => t.core = s.core ∧ t.mem = s.mem ∧ t.host.held = s.host.held ++ [q])) ∧
  (s.host.ide = true → s.host.rdy = false → (s.host.fail = false → Ends (.cxlMemRead a n) s fun t => t.host.readPoison = true ∧ t.mem = s.mem) ∧
    (∀ j ∈ [Instr.cxlMemWrite a bs, .registerWrite a v, .tlbinvWrite v, .faqPop], exec j s = .next s)) ∧
  (s.readReg 0 = some s.devstat ∧ ∀ o, o ≠ 0 → (s.host.ide = false ∨ s.host.fail = true → s.readReg o = none) ∧
    (s.host.ide = true → s.host.fail = false → s.readReg o = some (s.regValue o))) ∧
  (flowing → s.host.fail = false → a + n ≤ hbmBytes → (∀ k ∈ kibsOf a n, s.backedOff k = false ∧ s.engineOwned k = false) →
    Ends (.cxlMemRead a n) s fun t => t.mem = (s.touchRows (kibsOf a n)).mem ∧
    ((∃ l ∈ linesOf a n, s.poisonedAt (l * 64) 64 = true) → t.host.readPoison = true) ∧
    ((∀ l ∈ linesOf a n, s.poisonedAt (l * 64) 64 = false) → t.host.readPoison = false ∧ t.host.readData = s.bytesAt a n)) ∧
  (flowing → a + bs.length ≤ hbmBytes → s.alive a bs.length → (∀ k ∈ kibsOf a bs.length, s.migHeld k = false ∧ s.backedOff k = false) →
    let y := s.touchRows ((kibsOf a bs.length).filter fun k => !s.hbmDead k)
    Ends (.cxlMemWrite a bs) s fun t => t.holds a bs ∧ y.sameMemoryBut a bs.length t ∧
      ∀ l, l ∈ t.poison ↔ l ∈ y.poison ∧ ¬(a ≤ l * 64 ∧ (l + 1) * 64 ≤ a + bs.length)) ∧
  (flowing → s.diesAt a 0x100 ≠ [] → Ends (.registerWrite a v) s fun t => t.mem = s.mem ∧ t.core = s.core ∧ ∀ d < 12, (t.die d) =
    if d ∈ s.diesAt a 0x100 then { s.die d with hold := v.getLsbD 32, slice := max 10000 (v.toNat % 2 ^ 32) } else s.die d) ∧
  (s.host.ide = true → Ends (.ideerrClear v) s fun t => t.host.ideerr = (s.host.ideerr && !v.getLsbD 3) ∧ t.mem = s.mem) ∧
  (flowing → (Ends (.tlbinvWrite v) s fun t => t.mem = s.mem ∧
      t.host.tlbinv = if s.host.tlbinv.isSome ∨ v.getLsbD 1 = true then s.host.tlbinv else some v.toNat)) ∧
  (∀ q, s.host.tlbinv = some q → Ends .tlbinvComplete s fun t => t.host.tlbinv = none ∧ t.mem = s.mem ∧
    let gone := fun (e : TlbEnt) => q % 2 = 1 ∨ e.hits e.ptb (bitsOf q 51 16 * 65536) = true
    (∀ k ∈ t.core :: t.parked, ∀ e ∈ k.tlb, ¬ gone e) ∧ (∀ d m, ∀ e ∈ Sparse.get (t.die d).tlbs m, ¬ gone e) ∧
    ∀ e ∈ s.core.tlb, ¬ gone e → e ∈ t.core.tlb) ∧
  (flowing → (s.host.faq = [] → Ends .faqPop s fun t => t.host.popped = 0 ∧ t.host.faq = []) ∧
    ∀ e r, s.host.faq = e :: r → e.type < 4 → e.ecnt < 256 → e.line * 64 < 2 ^ 52 → Ends .faqPop s fun t => t.host.faq = r ∧
      let p := t.host.popped
      p.getLsbD 63 = true ∧ p.toNat / 2 ^ 61 % 4 = e.type ∧ p.getLsbD 60 = e.ovf ∧ p.toNat / 2 ^ 52 % 256 = e.ecnt ∧ p.toNat % 2 ^ 52 = e.line * 64) ∧
  (∀ ty, a < hbmBytes → ty < 3 → Ends (.hbmErrorReport a ty) s fun t => t.mem = s.mem ∧
    (s.host.faq = [] → told t 3) ∧ (s.host.faq ≠ [] → quiet t) ∧
    (∀ l, l ∈ t.poison ↔ l ∈ s.poison ∨ (ty = 2 ∧ l = a / 64)) ∧
    ((∀ e ∈ s.host.faq, e.line ≠ a / 64) → s.host.faq.length < 1024 → t.host.faqOvf = false ∧
      t.host.faq = s.host.faq ++ [{ type := ty, ovf := s.host.faqOvf, ecnt := 1, line := a / 64 }]) ∧
    ((∀ e ∈ s.host.faq, e.line ≠ a / 64) → 1024 ≤ s.host.faq.length → t.host.faqOvf = true ∧ t.host.faq = s.host.faq) ∧
    ((∃ e ∈ s.host.faq, e.line = a / 64) → t.host.faq = s.host.faq.map fun e =>
      if e.line = a / 64 then { e with ecnt := min (e.ecnt + 1) 255, type := max e.type ty } else e)) ∧
  (s.host.spdm.session = true → s.host.ide = false → s.host.held = [] → Ends .ideEstablished s fun t => t.host.ide = true ∧
    t.host.ideGen = s.host.ideGen + 1 ∧ t.host.msix = s.host.msix ++ s.host.msixHeld ∧ t.host.msixHeld = [] ∧ t.mem = s.mem) ∧
  (s.host.ide = true → (Ends .ideKeyRefresh s fun t => { t with host := { t.host with ideGen := s.host.ideGen } } = s ∧
      t.host.ideGen = s.host.ideGen + 1) ∧
    Ends .ideIntegrityFail s fun t => t.host.ideerr = true ∧ t.host.ide = false ∧ t.host.held = [] ∧ t.host.msix = s.host.msix ++ [1] ∧ t.mem = s.mem ∧
      ((∃ q ∈ s.host.held, q.isRead = true) → t.host.readPoison = true)) ∧
  (∀ (m : MboxCmd) (r : List MboxCmd) (q : Nat), a < 12 → q < 4 → (s.die a).fenced = false → Sparse.get (s.die a).mbox q = m :: r →
    s.core.holds m.lrec m.job = true → (q = 2 → ∀ x ∈ m :: r, x.until_.isSome = true) → (s.gen.stopped = true → q = 2) →
    (s.core.cq.length = 32 → exec (.mailboxCommand a q) s = .next s) ∧
    (s.core.cq.length < 32 → s.mailReady a q m = true → Ends (.mailboxCommand a q) s fun t => Sparse.get (t.die a).mbox q = r ∧
      ∃ e : Word, t.core.cq = s.core.cq ++ [e] ∧ e.toNat / 2 ^ 56 ≠ 0xFF ∧ (q = 3 → e.toNat / 2 ^ 56 = 0xFE) ∧
        e.toNat / 2 ^ 48 % 256 = q ∧ e.toNat % 2 ^ 48 = fieldNat m.record 0 6)) ∧
  (let p := s.host.spdm
   let asks := [Instr.getVersion, .getCapabilities, .negotiateAlgorithms x true, .getDigests, .getCertificate a, .challenge n, .getMeasurements,
     .keyExchange n, .finish x, .keyUpdate, .endSession]
   (s.host.fail = true → ∀ j ∈ asks, exec j s = .next s) ∧
   (s.host.fail = false → s.host.restart = true → ∀ j ∈ asks, Ends j s fun t => t.host.spdm = { p with reply := .error, session := false, handshake := false }) ∧
   (s.host.fail = false → s.host.restart = false → ∀ (j : Instr) (y : Spdm), (j, y) ∈
    [(Instr.getVersion, { p with reply := .version 1 3 }), (.getCapabilities, { p with reply := .capabilities }),
     (.negotiateAlgorithms true true, { p with algs := true, reply := .algorithms true true }),
     (.negotiateAlgorithms x false, { p with algs := false, session := false, handshake := false, reply := .error }),
     (.getDigests, { p with reply := .digests (Config.shake256 Config.certChain) }),
     (.getCertificate a, { p with reply := if a = 0 then .certificate Config.certChain else .error }),
     (.challenge n, { p with reply := .challengeAuth n (Config.sign (Config.shake256 (leBytes 32 n))) }),
     (.getMeasurements, { p with reply := .measurements p.meas }),
     (.keyExchange n, if p.algs then { p with handshake := true, session := false, reply := .keyExchange } else { p with reply := .error }),
     (.finish x, if p.algs && p.handshake && x then { p with handshake := false, session := true, keyGen := p.keyGen + 1, reply := .finish }
       else { p with handshake := false, reply := .error }),
     (.keyUpdate, if p.session then { p with keyGen := p.keyGen + 1, reply := .keyUpdate } else { p with reply := .error }),
     (.endSession, if p.session then { p with session := false, reply := .endSession } else { p with reply := .error })] →
    Ends j s fun t => t.host.spdm = y ∧ t.mem = s.mem ∧ t.core = s.core))

/-! ### HBM rows, retirement, flash, and the loss of a die (19, 20, 22, R322 to R324, R342, R357 to R363, R387) -/

/-- R322 to R324, R342, R357, R359, R360, R362, R363, R387: a row's count and its alert; refresh management and the back-off with what it charges; the
order of a retirement's refusals and its effects; ROWCTL and CDIS; a flash page that cannot be rebuilt; a die that is fenced stops serving, and its gangs
are reissued or their launches lost. That a retirement takes effect at its write is the model's choice (log entry 42), and so is that the watchdog runs
from READY and that a write which comes too late finds its die fenced (log entry 60). -/
def Obligations.MemoryHealthAndFencing : Prop := ∀ (s : State) (die a bank row : Nat) (v : Word) (x : Bool),
  let flowing := s.host.ide = true ∧ s.host.rdy = true
  let b := Sparse.get s.banks bank
  let frame := bitsOf v.toNat 51 16
  s.dies.length = 12 →
  (a < hbmBytes → s.backedOff a = false → let k := Sparse.get s.banks (bankOf a); let r := rowOf a; let n := Sparse.get k.counts r + 1
    Ends (.rowActivation a) s fun t => let y := Sparse.get t.banks (bankOf a)
      (k.openRow = some r → y = k ∧ t.mem = s.mem) ∧
      (k.openRow ≠ some r → y.openRow = some r ∧ Sparse.get y.counts r = n ∧ (∀ q, q ≠ r → Sparse.get y.counts q = Sparse.get k.counts q) ∧
        (∀ q, q ≠ bankOf a → Sparse.get t.banks q = Sparse.get s.banks q) ∧
        (n < (s.die (dieOfDpa a)).mth → y.pend = k.pend ∧ y.alerts = k.alerts ∧ t.mem = s.mem) ∧
        ((s.die (dieOfDpa a)).mth ≤ n → y.pend = k.pend ++ [r] ∧ y.alerts = k.alerts + 1 ∧ y.cmds = k.cmds + 1))) ∧
  ((b.pend = [] ∨ b.backoff ≠ none) → exec (.refreshManagement bank) s = .next s) ∧
  (∀ r q, b.pend = r :: q → b.backoff = none → Ends (.refreshManagement bank) s fun t => let y := Sparse.get t.banks bank
    y.openRow = none ∧ y.pend = q ∧ y.backoff = some ((s.die (dieOfBank bank)).ctl + 238) ∧ y.alerts = b.alerts ∧ t.mem = s.mem ∧
    ∀ j, Sparse.get y.counts j = if j = r ∨ j + 1 = r ∨ (j = r + 1 ∧ r < 65535) then 0 else Sparse.get b.counts j) ∧
  (bank < 16384 → row < 65536 → Ends (.periodicRefresh bank row) s fun t => let y := Sparse.get t.banks bank
    t.mem = s.mem ∧ (row ∈ b.done → y = b) ∧ (row ∉ b.done → y.openRow = none ∧ y.pend = b.pend ∧ y.done = row :: b.done ∧
      ∀ j, Sparse.get y.counts j = if j = row then 0 else Sparse.get b.counts j)) ∧
  ((b.backoff = none ∨ ∃ e, b.backoff = some e ∧ (s.die (dieOfBank bank)).ctl < e) → exec (.backoffEnd bank) s = .next s) ∧
  (∀ e, b.backoff = some e → e ≤ (s.die (dieOfBank bank)).ctl → s.host.held = [] → (∀ w ∈ s.dies.flatMap Die.waiters, w.2.2 = []) →
    (∀ m ∈ s.migs, m.blocked = []) →
    let waits := s.core.stalls ++ s.core.ops.flatMap (·.blocked) ++ s.core.rake.flatMap (·.blocked) ++ s.core.fetches.flatMap (·.blocked) ++
      s.core.ports.flatMap fun p => p.2.gen.toList.flatMap (·.blocked)
    let here := (waits.filter fun z => z.bank == bank).map fun z => min ((s.die s.core.did).cyc - z.since) 238
    Ends (.backoffEnd bank) s fun t => (Sparse.get t.banks bank).backoff = none ∧ t.mem = s.mem ∧
      (Sparse.get s.core.pmc 4 < 2 ^ 64 → Sparse.get t.core.pmc 4 = (Sparse.get s.core.pmc 4 + here.sum) % 2 ^ 64) ∧
      (Sparse.get s.core.pmc 5 < 2 ^ 64 → Sparse.get t.core.pmc 5 = (Sparse.get s.core.pmc 5 + here.length) % 2 ^ 64) ∧
      t.core.ops.length = s.core.ops.length ∧ ∀ o ∈ t.core.ops, ∀ z ∈ o.blocked, z.bank ≠ bank) ∧
  (flowing → ∀ (i : Instr) (excl : Bool), (i, excl) ∈ [(Instr.retireRemap v, false), (.retireExclude v, true)] →
    (s.host.retBusy = true ∨ v.getLsbD 0 ≠ excl → exec i s = .next s) ∧
    (s.host.retBusy = false → v.getLsbD 0 = excl → let st := s.retireStatus frame excl; let stack := frame * 65536 / stackBytes
      let h := { s.host with retBusy := true, retStatus := st, retFrame := frame, retExcl := excl }
      (st ≠ 0 → Ends i s fun t => t = { s with host := h }) ∧
      let spare := if excl then 0x1FF else Sparse.get s.host.spares stack
      let l := s.host.badList ++ [(frame, spare, excl)]; let copy := some (badCopyOf l)
      let log := s.flashLog ++ [.badEntry 0 frame spare excl, .badEntry 2 frame spare excl]
      (st = 0 → excl = true → Ends i s fun t => t = { s with flashLog := log, host := { h with
        badList := l, badA := copy, badB := copy, excluded := frame :: s.host.excluded } }) ∧
      (st = 0 → excl = false → Ends i s fun t => t = { s with flashLog := log, host := { h with
        badList := l, badA := copy, badB := copy, spares := Sparse.set s.host.spares stack (spare + 1) } })) ∧
    (let st := s.retireStatus frame excl; let absent := hbmBytes ≤ frame * 65536 ∨ (s.die (dieOfDpa (frame * 65536))).fenced = true
     let known := ∃ y ∈ s.host.badList, y.1 = frame
     (absent → st = 4) ∧ (¬absent → known → st = 2) ∧ (¬absent → ¬known → 16384 ≤ s.host.badList.length → st = 3) ∧
     (¬absent → ¬known → s.host.badList.length < 16384 →
       st = if excl = false ∧ 512 ≤ Sparse.get s.host.spares (frame * 65536 / stackBytes) then 1 else 0))) ∧
  (s.host.ide = false → Ends (.retireRemap v) s (fun t => t.host.held = s.host.held ++ [.remap v]) ∧
    Ends (.retireExclude v) s (fun t => t.host.held = s.host.held ++ [.exclude v]) ∧ Ends (.rowctlWrite v) s (fun t => t.host.held = s.host.held ++ [.rowctl v]) ∧
    Ends (.cdisWrite die v) s fun t => t.host.held = s.host.held ++ [.cdis die v]) ∧
  (s.host.retBusy = false → exec .retireComplete s = .next s) ∧
  (s.host.retBusy = true → s.host.held = [] → Ends .retireComplete s fun t => t.host.retBusy = false ∧
    (s.host.ide = true → (s.host.msix ++ [4]) <+: t.host.msix) ∧ (s.host.ide = false → (s.host.msixHeld ++ [4]) <+: t.host.msixHeld) ∧
    (s.host.retStatus ≠ 0 → t.mem = s.mem ∧ (s.host.ide = true → t.host.msix = s.host.msix ++ [4]))) ∧
  (flowing → (Ends (.rowctlWrite v) s fun t => let m := bitsOf v.toNat 15 0
      t.host.note = v.getLsbD 32 ∧ t.host.alim = max 1 (bitsOf v.toNat 31 16) ∧ t.host.mthd = (if m = 0 then s.host.mthd else m) ∧ t.mem = s.mem ∧
      ∀ d < 12, (t.die d).mth = if m = 0 then (s.die d).mth else m) ∧
    (die < 12 → (s.die die).fenced = false → Ends (.cdisWrite die v) s fun t =>
      (t.die die).cdis.toNat = v.toNat % 2 ^ (if die < 4 then 32 else 48) ∧ ∀ d, d ≠ die → t.die d = s.die d) ∧
    ((12 ≤ die ∨ (s.die die).fenced = true) → exec (.cdisWrite die v) s = .next s)) ∧
  (a ∈ s.flashBad → exec (.flashRebuild a x) s = .next s) ∧
  (x = true → a ∉ s.flashBad → exec (.flashRebuild a x) s = .next { s with flashLog := s.flashLog ++ [.page a] }) ∧
  (x = false → a < 2 ^ 36 → a ∉ s.flashBad → Ends (.flashRebuild a x) s fun t => t.flashBad = a :: s.flashBad ∧
    (s.rootOf s.master = 0 → t.mem = s.mem) ∧ s.poisonedAt (flashBase + a * 65536) 1 = false ∧ t.poisonedAt (flashBase + a * 65536) 1 = true) ∧
  (die < 12 → (s.die die).fenced = false → s.watchdogDue die = false →
    Ends (.watchdogWrite die) s fun t => (t.die die).watchdog = (s.die die).cyc ∧ t.mem = s.mem) ∧
  (s.watchdogDue die = ((decide (die < 12) && s.host.rdy && !(s.die die).fenced) && decide ((s.die die).watchdog + 85000000 < (s.die die).cyc))) ∧
  (s.watchdogDue die = false → exec (.watchdogExpire die) s = .next s) ∧
  (s.host.rdy = false → exec (.sharedInfrastructureMachineCheck die) s = .next s) ∧
  (∀ i ∈ [Instr.sharedInfrastructureMachineCheck die, .watchdogExpire die, .watchdogWrite die], die < 12 → s.host.rdy = true →
    (s.die die).fenced = false → (i ≠ .sharedInfrastructureMachineCheck die → s.watchdogDue die = true) → (s.launches.map (·.lrec)).Nodup →
    Ends i s fun t => (t.die die).fenced = true ∧ (t.die die).ok = false ∧ (t.die die).ctxs = [] ∧ (t.die die).ends = [] ∧ t.host.degr = true ∧
      (∀ k ∈ t.core :: t.parked, k.running = true → k.did ≠ die) ∧ (∀ y ∈ t.saved, y.die ≠ die) ∧ (∀ key, isHbmKey key = true →
        dieOfDpa key = die → t.poisonedAt key 1 = true) ∧
      ∀ l ∈ s.launches, l.dies.testBit die = true → ∃ y ∈ t.launches, y.lrec = l.lrec ∧ (l.reiss = false → y.lost = true ∧
          (∀ k ∈ t.core :: t.parked, k.running = true → k.lrec = l.lrec → k.stopReq = true) ∧ ∀ v ∈ t.saved, v.lrec ≠ l.lrec) ∧
        (l.reiss = true → y.again = l.again ++ s.lostGangs l.lrec die))

/-! ### The Almanac and the fabric (23, 24, R367 to R370, R374 to R381) -/

/-- R367 to R370, R374 to R381: a PREPARE is stored apart from the replica and answered by its digest; the last ACK sends the COMMIT, which writes the
slots and ends the iteration; a failed round is tried again once, with the same ITER; messages and flits are laid out as their tables say; flits are taken in
order and refused with a NAK; lanes that correct too much are dropped and ports go down; a topology is loaded whole or rejected with each entry's error;
collectives take their items, on time, late or early, forward what others await and write their result. How a retry is formed is the model's reading
(log entries 43 and 61), and so are what a failed port does to its collective, idle and NAK flits outside the sequence, the window in which corrected symbols
are counted and what happens to an early item (log entry 44). -/
def Obligations.AlmanacAndFabric : Prop := ∀ (s : State) (die port seq : Nat) (iter : BitVec 32) (m : AlmMsg) (q : AlmEnd) (item : FabItem) (v : Word)
    (x : Bool) (bs : List Byte),
  let took := fun (q : AlmStep) (t : State) => t = { s with msgs := s.msgs.erase q }
  let p := s.wport port
  let now := fun (t : State) => t.wport port
  let lead := s.master
  s.dies.length = 12 →
  (let head := fun (bs : List Byte) (ty die dn : Nat) (iter : BitVec 32) (mask dig : Nat) => fieldNat bs 0 1 = ty ∧ fieldNat bs 1 1 = die ∧
     fieldNat bs 2 2 = dn ∧ fieldNat bs 4 4 = iter.toNat ∧ fieldNat bs 8 8 = mask ∧ fieldNat bs 16 32 = dig ∧ fieldNat bs 48 16 = 0
   (m.sender < 256 → m.delta.length < 65536 → m.mask < 2 ^ 64 → let h := (AlmStep.prepare die m).bytes
     head h 1 m.sender m.delta.length m.iter m.mask m.digest.toNat ∧ h.drop 64 = m.delta.flatMap fun z => leBytes 2 z.1 ++ z.2) ∧
   (die < 256 → head (AlmStep.ack die iter).bytes 2 die 0 iter 0 0 ∧ head (AlmStep.nack die iter).bytes 5 die 0 iter 0 0) ∧
   (q.sender < 256 → head (AlmStep.commit die q).bytes 3 q.sender 0 q.iter 0 0 ∧ head (AlmStep.abort die q).bytes 4 q.sender 0 q.iter 0 0)) ∧
  (s.prepareOk die m = false → Ends (.prepare die m) s (took (.prepare die m))) ∧
  (s.prepareOk die m = true → Ends (.prepare die m) s fun t => t.mem = s.mem ∧ (t.die die).almDelta = some m ∧ (t.die die).almState = 1 ∧
    t.msgs = (s.msgs.filter fun y => match y with | .prepare d _ => d != die | _ => true) ++
      [if Config.shake256 (m.delta.flatMap fun z => leBytes 2 z.1 ++ z.2) = m.digest then .ack die m.iter else .nack die m.iter]) ∧
  (s.answerOk die iter true = false → Ends (.ack die iter) s (took (.ack die iter))) ∧
  (s.answerOk die iter true = true → Ends (.ack die iter) s fun t => t.mem = s.mem ∧ die ∈ (t.die lead).almAcks ∧
    t.msgs = s.msgs.erase (.ack die iter) ++
      (if (t.die lead).committed then s.liveDies.map fun d => AlmStep.commit d { sender := lead, iter := iter } else [])) ∧
  (s.answerOk die iter false = false → Ends (.nack die iter) s (took (.nack die iter))) ∧ (s.ackDue = false → exec .almanacAckTimeout s = .next s) ∧
  (∀ o, s.almRound = some (lead, o) → (s.die lead).almRetry = 0 → o.iter = (s.die lead).almIter + 1 → ∀ i ∈ [Instr.nack die iter, .almanacAckTimeout],
    (i = .nack die iter → s.answerOk die iter false = true) → (i = .almanacAckTimeout → s.ackDue = true) → Ends i s fun t => t.mem = s.mem ∧
      (t.die lead).almRetry = 1 ∧ (t.die lead).almAcks = [] ∧ (∀ d < 12, d ≠ lead → (t.die d).almOut = none) ∧
      ∃ n : AlmMsg, (t.die lead).almOut = some n ∧ n.sender = lead ∧ n.iter = o.iter ∧ n.mask = s.liveMask ∧ n.delta = s.collected o.iter ∧
        almDigestOk n = true ∧ t.msgs = (s.liveDies.map fun d => AlmStep.abort d { sender := lead, iter := o.iter }) ++
          s.liveDies.map fun d => AlmStep.prepare d n) ∧
  (s.commitOk die q.iter = false → Ends (.commit die q) s (took (.commit die q))) ∧
  (∀ d, s.commitOk die q.iter = true → (s.die die).almDelta = some d → let base := (s.die die).almBase
    (s.replicaHeld die = true → Ends (.commit die q) s fun t => (t.die die).almState = 2 ∧ (t.die die).almIter = (s.die die).almIter) ∧
    (s.late = [] → (d.delta.map (·.1)).Nodup → (∀ z ∈ d.delta, z.1 < 4096 ∧ z.2.length = 64 ∧ let k := base + 64 * z.1
      s.alive k 64 ∧ (∀ j < 64, s.migHeld (k + j) = false) ∧ k + 64 ≤ hbmBytes) → Ends (.commit die q) s fun t =>
        (∀ z ∈ d.delta, t.holds (base + 64 * z.1) z.2) ∧ (t.die die).almIter = q.iter ∧ (t.die die).almState = 0 ∧
        (t.die die).almDelta = none ∧ s.sameMemoryBut base 262144 t)) ∧
  ((die ≥ 12 ∨ s.dies.any Die.committed = true) → Ends (.abort die q) s (took (.abort die q))) ∧
  (∀ d, die < 12 → s.dies.any Die.committed = false → (s.die die).almDelta = some d → Ends (.abort die q) s fun t => t.mem = s.mem ∧
    (d.iter = q.iter → (s.die die).almState = 1 → (t.die die).almDelta = none ∧ (t.die die).almState = 0) ∧
    (d.iter ≠ q.iter → (t.die die).almDelta = some d)) ∧
  (let f := Config.fecCorrects bs
   let good := fieldNat f 240 4 = crc32 (f.take 240)
   let data := fieldNat f 4 1 ≠ 0 ∧ fieldNat f 4 1 ≠ 2
   let fixed := (p.countFixed bs).fixed
   let rest := fun (t : State) => { now t with seen := p.seen, fixed := p.fixed }
   (port ≥ 48 ∨ p.up = false → exec (.flitReceive port bs) s = .next s ∧ exec (.nakReceive port seq) s = .next s) ∧
   (fieldNat p.nakFlit 4 1 = 2 ∧ fieldNat p.nakFlit 8 2 = p.rxSeq % 65536 ∧
     ∀ j < 4, Sparse.get fixed j = (if p.seen % 2 ^ 20 = 0 then 0 else Sparse.get p.fixed j) + Config.fecFixed bs j) ∧
   (port < 48 → p.up = true → Ends (.flitReceive port bs) s fun t => t.mem = s.mem ∧
    (¬good → 2 < laneCount p.lanes → ∀ j < 4, p.lanes.getLsbD j = true → j ∉ p.dropQ → 4096 < Sparse.get fixed j →
      (now t).st = 3 ∧ j ∈ (now t).dropQ) ∧
    ((∀ j < 4, Sparse.get fixed j ≤ 4096) →
      (¬good → rest t = { p with nak := p.nak ++ [p.nakFlit], crce := min (p.crce + 1) 65535 }) ∧
      (good → data → fieldNat f 0 2 ≠ p.rxSeq → rest t = { p with nak := p.nak ++ [p.nakFlit] }) ∧
      (good → ¬data → (now t).rxSeq = p.rxSeq ∧ (now t).rx = p.rx ∧ (now t).nak = p.nak) ∧
      (good → data → fieldNat f 0 2 = p.rxSeq → (now t).rxSeq = (p.rxSeq + 1) % 65536 ∧ (now t).nak = p.nak ∧
        (now t).rx = if fieldNat f 4 1 = 1 ∨ fieldNat f 4 1 = 3 then p.rx ++ [(f.drop 8).take 232] else p.rx)))) ∧
  (port < 48 → p.up = true → Ends (.nakReceive port seq) s fun t => t.mem = s.mem ∧
    ((∀ z ∈ p.replay, z.1 ≠ seq) → now t = p) ∧
    ((∃ z ∈ p.replay, z.1 = seq) → let n := if p.nakSeq = some seq then p.fails + 1 else 0
      now t = { p with replay := p.replay.dropWhile fun z => z.1 != seq, rply := min (p.rply + 1) 65535, fails := n, nakSeq := some seq
                       st := if 16 ≤ n then 1 else p.st })) ∧
  ((port ≥ 48 ∨ p.st ≠ 1) → exec (.portRetrain port x) s = .next s) ∧
  (port < 48 → p.st = 1 → Ends (.portRetrain port x) s fun t => t.mem = s.mem ∧ (x = false → (now t).st = 0 ∧ (now t).lanes = 0) ∧
    (x = true → (now t).st = (if p.dropQ = [] then 2 else 3) ∧ (now t).fails = 0 ∧ (now t).lanes = p.lanes)) ∧
  ((port ≥ 48 ∨ p.up = false ∨ p.lanes.getLsbD seq = false ∨ seq ∈ p.dropQ) → exec (.laneDrop port seq) s = .next s) ∧
  (port < 48 → p.up = true → p.lanes.getLsbD seq = true → seq ∉ p.dropQ → Ends (.laneDrop port seq) s fun t => t.mem = s.mem ∧
    (laneCount p.lanes ≤ 2 → (now t).st = 0 ∧ (now t).lanes = 0) ∧ (2 < laneCount p.lanes → now t = { p with st := 3, dropQ := p.dropQ ++ [seq] })) ∧
  ((port ≥ 48 ∨ p.st ≠ 3 ∨ p.replay ≠ []) → exec (.laneWidthSwitch port) s = .next s) ∧
  (∀ l r, port < 48 → p.st = 3 → p.replay = [] → p.dropQ = l :: r → 2 < laneCount p.lanes → Ends (.laneWidthSwitch port) s fun t => t.mem = s.mem ∧
    (now t).dropQ = r ∧ (now t).st = (if r = [] then 2 else 3) ∧ (now t).rpr = min (p.rpr + 1) 255 ∧
    ∀ j < 4, (now t).lanes.getLsbD j = (p.lanes.getLsbD j && j != l)) ∧
  (s.host.rdy = false → exec (.topoLoad v) s = .next s ∧ exec (.colqSubmit v) s = .next s) ∧
  (s.host.rdy = true → Ends (.topoLoad v) s fun t => t.mem = s.mem ∧ t.host.topo = s.host.topo ∧
    (v.getLsbD 0 = true → s.host.topoBusy = false → t.host.topoBusy = true ∧ t.host.topoAddr = bitsOf v.toNat 51 6 * 64)) ∧
  (s.host.topoBusy = false ∨ s.topoHeld = true → exec .topoLoadComplete s = .next s) ∧
  (s.host.topoBusy = true → s.topoHeld = false → let at_ := s.host.topoAddr; let count := s.natAt at_ 2; let self := s.natAt (at_ + 2) 2
    let ent := fun (i : Nat) => (s.natAt (at_ + 64 + 16 * i) 2, s.natAt (at_ + 64 + 16 * i + 2) 1, s.natAt (at_ + 64 + 16 * i + 4) 8)
    let err := fun (i : Nat) => topoErr i self (ent i).1 (ent i).2.1 (s.wport (ent i).2.1).up
    (count = 0 ∨ 4096 < count ∨ count ≤ self → Ends .topoLoadComplete s fun t => t.host.topoStatus = 2 ∧ t.host.topoBusy = false ∧
      t.host.topo = s.host.topo ∧ t.mem = s.mem) ∧
    (0 < count → count ≤ 4096 → self < count → s.alive at_ (64 + 16 * count) → Ends .topoLoadComplete s fun t => t.host.topoBusy = false ∧
      (∀ i < count, t.natAt (at_ + 64 + 16 * i + 3) 1 = err i) ∧
      ((∃ i < count, err i ≠ 0) → t.host.topoStatus = 1 ∧ t.host.topo = s.host.topo) ∧
      ((∀ i < count, err i = 0) → t.host.topoStatus = 0 ∧ t.host.topoSelf = self ∧ t.host.topo = (List.range count).map ent))) ∧
  (s.host.rdy = true → let c := s.readColl (bitsOf v.toNat 51 6 * 64)
    (16 ≤ s.host.colq.length → exec (.colqSubmit v) s = .next s) ∧
    (s.host.colq.length < 16 → s.host.coll ≠ none → Ends (.colqSubmit v) s fun t => t.mem = s.mem ∧ t.host.coll = s.host.coll ∧
      t.host.colq = s.host.colq ++ [bitsOf v.toNat 51 6 * 64]) ∧
    (s.host.colq = [] → s.host.coll = none → s.host.early = [] → Ends (.colqSubmit v) s fun t => t.mem = s.mem ∧ t.host.colq = [] ∧
      (c.formed = false → t.host.coll = none) ∧
      (c.formed = true → let top := if c.op = 3 then 0 else c.root
        ∃ d, t.host.coll = some d ∧ { d with upSent := c.upSent } = { c with miss := s.lostPeers c } ∧
        (c.op = 4 → 1 < s.host.topo.length → (s.host.topoSelf, s.bytesAt c.src c.bytes) ∈ t.host.fabOut) ∧
        ∀ up, c.op = 2 ∨ c.op = 3 → s.host.hop top = some up → s.host.childrenFrom top = [] →
          d.upSent = true ∧ (up, s.bytesAt c.src c.bytes) ∈ t.host.fabOut))) ∧
  (let h := s.host
   (h.topo.length ≤ item.origin ∨ item.origin = h.topoSelf → exec (.ringStep item bs) s = .next s) ∧
   (item.origin < h.topo.length → item.origin ≠ h.topoSelf → Ends (.ringStep item bs) s fun t =>
     t.host.ringSteps = h.ringSteps + item.ring.toNat ∧
     (item.ring = true → h.distance item.origin + 1 < h.topo.length → (item.origin, bs) ∈ t.host.fabOut) ∧
     (h.awaits item = false → t.mem = s.mem ∧ t.host.coll = h.coll ∧ t.host.early = h.early ++ [(item, bs)]) ∧
     (∀ c, h.coll = some c → h.awaits item = true → ∃ d, t.host.coll = some d ∧ d.arrived = c.arrived ++ [item.origin] ∧ t.host.early = h.early ∧
       (h.passedOver c item.origin = false → d.items = c.items ++ [(item.origin, bs)] ∧ d.lateItems = c.lateItems ∧ t.mem = s.mem) ∧
       (h.passedOver c item.origin = true → d.items = c.items ∧ d.lateItems = c.lateItems ++ [(item.origin, bs)])))) ∧
  (∀ c, s.host.coll = some c →
    (s.host.collDone = false ∨ s.collHeld = true → exec .collectiveComplete s = .next s) ∧
    (∀ data, s.host.collDone = true → s.collHeld = false → s.host.colq = [] → s.collResult c = some data → s.alive c.dst (data.take c.bytes).length →
      (c.op ≠ 4 ∨ c.late = 0) → (c.sw = 0 ∨ c.sw + 16 ≤ c.dst ∨ c.dst + (data.take c.bytes).length ≤ c.sw) → s.alive c.sw 16 →
      Ends .collectiveComplete s fun t => t.host.coll = none ∧ t.holds c.dst (data.take c.bytes) ∧
        (c.sw = 0 → s.sameMemoryBut c.dst (data.take c.bytes).length t) ∧ (c.sw ≠ 0 → t.natAt c.sw 16 = syncUpdate (s.natAt c.sw 16) c.bytes))) ∧
  (s.host.coll = none → exec .collectiveComplete s = .next s) ∧
  (∀ l, (sortItems l).Perm l ∧ (sortItems l).Pairwise fun y z => y.1 ≤ z.1)

/-! ### What a word leaves alone -/

/-- A word that issues, and whose gang runs on, changes no byte of memory and posts nothing to the host, unless a row that its walks or reads open raises
an alert, whose record is posted (R323): stores, copies and engine writes perform later. What writes as it issues: TIERIN and TIEREV (quota use
and frame pools), the words that end Pan reads, and commands that the Orrery applies as it accepts them: KVFORK's copy, SMOUT's image, and any word that names
a context while one of the die is swapped out. -/
def Obligations.IssueKeepsMemory : Prop := ∀ (i : Instr) (s t : State), isWord i → s.core.running = true →
  (∀ w : Wm, i ∉ [Instr.tierin w, .tierev w, .pancfgRel w, .panrd w, .kvfork w, .smout w]) →
  (opOf i ∈ [some 0x75, some 0x80, some 0x81, some 0x82, some 0x83] → ∀ c ∈ (s.die s.core.did).ctxs, c.hot = true) → exec i s = .next t → s.runsOn t →
  t.flashBad = s.flashBad ∧ (s.alerted t ∨ t.mem = s.mem ∧ t.poison = s.poison ∧ t.host = s.host)
end

