-- ==== Sys2Proof/Laws/Encode.lean ====
section
/-!
SUPPORT. The layout of a word: every field is read back from where it was packed (R170, R171).
-/

namespace Sys2Proof
open Machine

theorem packHd_lt (h : Hd) : packHd h < 2 ^ 84 := by
  have := h.pm.isLt; have := h.awk.isLt; have := h.d.isLt; have := h.a.isLt; have := h.b.isLt; have := h.c.isLt
  have : h.awe.toNat ≤ 1 := by cases h.awe <;> decide
  unfold packHd; omega

/-- The fields of the head survive any bits above and any X field below. -/
theorem unpackHd_pack (h : Hd) (q x : Nat) (hx : x < 2 ^ 36) : unpackHd (q * 2 ^ 84 + (packHd h + x)) = h := by
  rcases h with ⟨pm, awe, awk, d, a, b, c⟩
  have := pm.isLt; have := awk.isLt; have := d.isLt; have := a.isLt; have := b.isLt; have := c.isLt
  have h3 : awe.toNat ≤ 1 := by cases awe <;> decide
  unfold unpackHd packHd
  simp only [Hd.mk.injEq]
  refine ⟨?_, ?_, ?_, ?_, ?_, ?_, ?_⟩
  · apply BitVec.eq_of_toNat_eq; simp only [BitVec.toNat_ofNat]; omega
  · cases awe <;> simp only [Bool.toNat_false, Bool.toNat_true, beq_iff_eq, beq_eq_false_iff_ne, ne_eq] at * <;> omega
  all_goals apply BitVec.eq_of_toNat_eq; simp only [BitVec.toNat_ofNat]; omega

theorem unpackZ_pack (w : Wz) (q : Nat) : unpackZ (q * 2 ^ 84 + packPayload (.z w)) = w := by
  have h := unpackHd_pack w.toHd q w.x.toNat w.x.isLt
  have := w.x.isLt
  rcases w with ⟨hd, x⟩
  unfold unpackZ packPayload
  simp only [Wz.mk.injEq]
  refine ⟨h, ?_⟩
  apply BitVec.eq_of_toNat_eq; simp only [BitVec.toNat_ofNat]; unfold packHd; omega

theorem unpackI_pack (w : Wi) (q : Nat) : unpackI (q * 2 ^ 84 + packPayload (.i w)) = w := by
  have h := unpackHd_pack w.toHd q w.imm.toNat w.imm.isLt
  have := w.imm.isLt
  rcases w with ⟨hd, x⟩
  unfold unpackI packPayload
  simp only [Wi.mk.injEq]
  refine ⟨h, ?_⟩
  apply BitVec.eq_of_toNat_eq; simp only [BitVec.toNat_ofNat]; unfold packHd; omega

theorem unpackT_pack (w : Wt) (q : Nat) : unpackT (q * 2 ^ 84 + packPayload (.t w)) = w := by
  have h1 := w.et.isLt
  have h2 := w.rm.isLt
  have h3 : w.sat.toNat ≤ 1 := by cases w.sat <;> decide
  have h4 := w.ext.isLt
  have h := unpackHd_pack w.toHd q (w.et.toNat * 2 ^ 32 + w.rm.toNat * 2 ^ 29 + w.sat.toNat * 2 ^ 28 + w.ext.toNat) (by omega)
  rcases w with ⟨hd, et, rm, sat, ext⟩
  dsimp only at h1 h2 h3 h4 h
  unfold unpackT packPayload
  simp only [Wt.mk.injEq]
  refine ⟨h, ?_, ?_, ?_, ?_⟩
  · apply BitVec.eq_of_toNat_eq; simp only [BitVec.toNat_ofNat]; unfold packHd; omega
  · apply BitVec.eq_of_toNat_eq; simp only [BitVec.toNat_ofNat]; unfold packHd; omega
  · unfold packHd
    cases sat <;> simp only [Bool.toNat_false, Bool.toNat_true, beq_iff_eq, beq_eq_false_iff_ne, ne_eq] at * <;> omega
  · apply BitVec.eq_of_toNat_eq; simp only [BitVec.toNat_ofNat]; unfold packHd; omega

theorem unpackM_pack (w : Wm) (q : Nat) : unpackM (q * 2 ^ 84 + packPayload (.m w)) = w := by
  have h1 := w.cls.isLt
  have h2 : w.tke.toNat ≤ 1 := by cases w.tke <;> decide
  have h3 := w.tk.isLt
  have h4 : w.opn.toNat ≤ 1 := by cases w.opn <;> decide
  have h5 := w.sz.isLt
  have h6 := w.disp.isLt
  have h := unpackHd_pack w.toHd q (w.cls.toNat * 2 ^ 32 + w.tke.toNat * 2 ^ 31 + w.tk.toNat * 2 ^ 28 + w.opn.toNat * 2 ^ 27
      + w.sz.toNat * 2 ^ 24 + w.disp.toNat) (by omega)
  rcases w with ⟨hd, cls, tke, tk, opn, sz, disp⟩
  dsimp only at h1 h2 h3 h4 h5 h6 h
  unfold unpackM packPayload
  simp only [Wm.mk.injEq]
  refine ⟨h, ?_, ?_, ?_, ?_, ?_, ?_⟩
  · apply BitVec.eq_of_toNat_eq; simp only [BitVec.toNat_ofNat]; unfold packHd; omega
  · unfold packHd
    cases tke <;> simp only [Bool.toNat_false, Bool.toNat_true, beq_iff_eq, beq_eq_false_iff_ne, ne_eq] at * <;> omega
  · apply BitVec.eq_of_toNat_eq; simp only [BitVec.toNat_ofNat]; unfold packHd; omega
  · unfold packHd
    cases opn <;> simp only [Bool.toNat_false, Bool.toNat_true, beq_iff_eq, beq_eq_false_iff_ne, ne_eq] at * <;> omega
  · apply BitVec.eq_of_toNat_eq; simp only [BitVec.toNat_ofNat]; unfold packHd; omega
  · apply BitVec.eq_of_toNat_eq; simp only [BitVec.toNat_ofNat]; unfold packHd; omega

theorem unpackF_pack (w : Wf) (q : Nat) : unpackF (q * 2 ^ 84 + packPayload (.f w)) = w := by
  have h1 := w.res.isLt
  have h2 := w.scope.isLt
  have h3 := w.pred.isLt
  have h4 := w.succ.isLt
  have h5 := w.clm.isLt
  have h := unpackHd_pack w.toHd q (w.res.toNat * 2 ^ 31 + w.scope.toNat * 2 ^ 28 + w.pred.toNat * 2 ^ 22
      + w.succ.toNat * 2 ^ 16 + w.clm.toNat) (by omega)
  rcases w with ⟨hd, res, scope, pred, succ, clm⟩
  unfold unpackF packPayload
  simp only [Wf.mk.injEq]
  refine ⟨h, ?_, ?_, ?_, ?_, ?_⟩
  all_goals apply BitVec.eq_of_toNat_eq; simp only [BitVec.toNat_ofNat]; unfold packHd; omega

/-- A packed payload fits below FN. -/
theorem packPayload_lt (p : Payload) : packPayload p < 2 ^ 84 := by
  have key : ∀ (h : Hd) (x : Nat), x < 2 ^ 36 → packHd h + x < 2 ^ 84 := by
    intro h x hx
    have := h.pm.isLt; have := h.awk.isLt; have := h.d.isLt; have := h.a.isLt; have := h.b.isLt; have := h.c.isLt
    have : h.awe.toNat ≤ 1 := by cases h.awe <;> decide
    unfold packHd; omega
  cases p with
  | z w => exact key _ _ w.x.isLt
  | i w => exact key _ _ w.imm.isLt
  | t w =>
    have := w.et.isLt; have := w.rm.isLt; have := w.ext.isLt
    have : w.sat.toNat ≤ 1 := by cases w.sat <;> decide
    exact key _ _ (by omega)
  | m w =>
    have := w.cls.isLt; have := w.tk.isLt; have := w.sz.isLt; have := w.disp.isLt
    have : w.tke.toNat ≤ 1 := by cases w.tke <;> decide
    have : w.opn.toNat ≤ 1 := by cases w.opn <;> decide
    exact key _ _ (by omega)
  | f w =>
    have := w.res.isLt; have := w.scope.isLt; have := w.pred.isLt; have := w.succ.isLt; have := w.clm.isLt
    exact key _ _ (by omega)

theorem leBytes_length (n x : Nat) : (leBytes n x).length = n := by
  induction n generalizing x with
  | zero => rfl
  | succ n ih => simp [leBytes, ih]

theorem leNat_leBytes (n x : Nat) : leNat (leBytes n x) = x % 256 ^ n := by
  induction n generalizing x with
  | zero => simp [leBytes, leNat, Nat.mod_one]
  | succ n ih =>
    simp only [leBytes, leNat, ih, BitVec.toNat_ofNat]
    rw [show x % 256 ^ (n + 1) = x % (256 * 256 ^ n) by rw [Nat.pow_succ, Nat.mul_comm], Nat.mod_mul]

end Sys2Proof
end

