-- ==== Sys2Proof/Laws/Sparse.lean ====
section
/-!
SUPPORT. Sparse tables: a read after a write, the canonical form, and that every table operation keeps it.
-/

namespace Sys2Proof.Machine

section
variable {V : Type} [Inhabited V] [DecidableEq V]

/-- The canonical form: keys rise, and no entry is the default. -/
theorem sparse_wf_iff (m : Sparse V) : Sparse.wf m = true ↔ m.Pairwise (fun p q => p.1 < q.1) ∧ ∀ p ∈ m, p.2 ≠ default := by
  induction m with
  | nil => simp [Sparse.wf]
  | cons p r ih =>
    obtain ⟨a, v⟩ := p
    cases r with
    | nil => simp [Sparse.wf]
    | cons q r =>
      obtain ⟨b, w⟩ := q
      simp only [Sparse.wf, Bool.and_eq_true, bne_iff_ne, ne_eq, decide_eq_true_eq, ih, List.pairwise_cons, List.mem_cons,
        forall_eq_or_imp]
      constructor
      · rintro ⟨⟨hv, hab⟩, ⟨hb, hr⟩, hw, hd⟩
        exact ⟨⟨⟨hab, fun x hx => Nat.lt_trans hab (hb x hx)⟩, hb, hr⟩, hv, hw, hd⟩
      · rintro ⟨⟨⟨hab, -⟩, hb, hr⟩, hv, hw, hd⟩
        exact ⟨⟨hv, hab⟩, ⟨hb, hr⟩, hw, hd⟩

@[simp] theorem sparse_wf_nil : Sparse.wf ([] : Sparse V) = true := rfl
omit [DecidableEq V] in
@[simp] theorem sparse_get_nil (k : Nat) : Sparse.get ([] : Sparse V) k = default := rfl

/-- Dropping entries keeps the canonical form. -/
theorem sparse_wf_filter {m : Sparse V} (p : Nat × V → Bool) (h : Sparse.wf m = true) : Sparse.wf (List.filter p m) = true := by
  rw [sparse_wf_iff] at *
  exact ⟨h.1.filter p, fun x hx => h.2 x (List.mem_filter.1 hx).1⟩

theorem sparse_wf_erase {m : Sparse V} (k : Nat) (h : Sparse.wf m = true) : Sparse.wf (Sparse.erase m k) = true :=
  sparse_wf_filter _ h

omit [Inhabited V] [DecidableEq V] in
theorem sparse_mem_ins {m : Sparse V} {k : Nat} {v : V} {x : Nat × V} : x ∈ Sparse.ins m k v ↔ x = (k, v) ∨ x ∈ m := by
  induction m with
  | nil => exact List.mem_cons
  | cons p r ih =>
    unfold Sparse.ins
    split
    · simp only [List.mem_cons, ih, Prod.eta]; exact or_left_comm
    · simp only [List.mem_cons, Prod.eta]

omit [Inhabited V] [DecidableEq V] in
/-- Inserting an absent key keeps the keys rising. -/
theorem sparse_pairwise_ins {m : Sparse V} {k : Nat} {v : V} (h : m.Pairwise fun p q => p.1 < q.1) (hk : ∀ p ∈ m, p.1 ≠ k) :
    (Sparse.ins m k v).Pairwise fun p q => p.1 < q.1 := by
  induction m with
  | nil => simp [Sparse.ins]
  | cons p r ih =>
    obtain ⟨a, w⟩ := p
    rw [List.pairwise_cons] at h
    have hne : a ≠ k := hk (a, w) (by simp)
    by_cases hl : a < k
    · simp only [Sparse.ins, hl, if_true, List.pairwise_cons]
      refine ⟨fun x hx => ?_, ih h.2 fun p hp => hk p (by simp [hp])⟩
      rcases sparse_mem_ins.1 hx with rfl | hx
      · exact hl
      · exact h.1 x hx
    · simp only [Sparse.ins, hl, if_false, List.pairwise_cons]
      have : k < a := by omega
      refine ⟨fun x hx => ?_, h.1, h.2⟩
      rcases List.mem_cons.1 hx with rfl | hx
      · exact this
      · exact Nat.lt_trans this (h.1 x hx)

/-- A write keeps the canonical form. -/
theorem sparse_wf_set {m : Sparse V} (k : Nat) (v : V) (h : Sparse.wf m = true) : Sparse.wf (Sparse.set m k v) = true := by
  unfold Sparse.set
  split
  · exact sparse_wf_erase k h
  · next hv =>
    have he := sparse_wf_erase k h
    rw [sparse_wf_iff] at he ⊢
    refine ⟨sparse_pairwise_ins he.1 fun p hp => ?_, fun x hx => ?_⟩
    · have := (List.mem_filter.1 hp).2; simpa using this
    · rcases sparse_mem_ins.1 hx with rfl | hx
      · exact hv
      · exact he.2 x hx

omit [DecidableEq V] in
theorem sparse_get_erase (m : Sparse V) (k j : Nat) : Sparse.get (Sparse.erase m k) j = if j = k then default else Sparse.get m j := by
  induction m with
  | nil => simp [Sparse.erase]
  | cons p r ih =>
    obtain ⟨a, w⟩ := p
    unfold Sparse.erase at ih ⊢
    by_cases h : a = k
    · subst h
      rw [List.filter_cons_of_neg (by simp), ih]
      split
      · rfl
      · next hj => simp [Sparse.get, Ne.symm hj]
    · rw [List.filter_cons_of_pos (by simpa using h)]
      by_cases hj : a = j
      · subst hj; simp [Sparse.get, h]
      · simp [Sparse.get, hj, ih]

omit [DecidableEq V] in
theorem sparse_get_ins (m : Sparse V) (k : Nat) (v : V) (j : Nat) (hk : ∀ p ∈ m, p.1 ≠ k) :
    Sparse.get (Sparse.ins m k v) j = if j = k then v else Sparse.get m j := by
  induction m with
  | nil => simp [Sparse.ins, Sparse.get, eq_comm]
  | cons p r ih =>
    obtain ⟨a, w⟩ := p
    have hne : a ≠ k := hk (a, w) (by simp)
    by_cases hl : a < k
    · simp only [Sparse.ins, hl, if_true, Sparse.get]
      rw [ih fun p hp => hk p (by simp [hp])]
      by_cases hj : a = j
      · subst hj; simp [hne]
      · simp [hj]
    · simp only [Sparse.ins, hl, if_false, Sparse.get]
      by_cases hj : j = k
      · subst hj; simp
      · simp [hj, Ne.symm hj]

/-- A read after a write: the value written at its key, every other key as before. -/
theorem sparse_get_set (m : Sparse V) (k : Nat) (v : V) (j : Nat) :
    Sparse.get (Sparse.set m k v) j = if j = k then v else Sparse.get m j := by
  unfold Sparse.set
  split
  · next h => subst h; rw [sparse_get_erase]
  · rw [sparse_get_ins _ _ _ _ fun p hp => by have := (List.mem_filter.1 hp).2; simpa using this, sparse_get_erase]
    split <;> rfl

@[simp] theorem sparse_get_set_same (m : Sparse V) (k : Nat) (v : V) : Sparse.get (Sparse.set m k v) k = v := by
  simp [sparse_get_set]

theorem sparse_get_set_other (m : Sparse V) {k j : Nat} (v : V) (h : j ≠ k) : Sparse.get (Sparse.set m k v) j = Sparse.get m j := by
  simp [sparse_get_set, h]

omit [DecidableEq V] in
/-- A filter on keys alone: a kept key reads as before, a dropped one as the default. -/
theorem sparse_get_filter (m : Sparse V) (p : Nat → Bool) (k : Nat) :
    Sparse.get (List.filter (fun x => p x.1) m) k = if p k then Sparse.get m k else default := by
  induction m with
  | nil => simp
  | cons q r ih =>
    obtain ⟨a, w⟩ := q
    cases h : p a <;> by_cases e : a = k <;> simp_all [Sparse.get]

theorem sparse_get_build (f : Nat → V) (n k j : Nat) :
    Sparse.get (Sparse.build f k n) j = if k ≤ j ∧ j < k + n then f j else default := by
  induction n generalizing k with
  | zero => simp [Sparse.build]
  | succ n ih =>
    unfold Sparse.build
    by_cases h : f k = default
    · rw [if_pos h, ih]
      by_cases hj : j = k
      · subst hj; simp [h]
      · congr 1; ext; omega
    · rw [if_neg h]
      by_cases hj : k = j
      · subst hj; simp [Sparse.get]
      · simp only [Sparse.get, hj, if_false, ih]
        congr 1; ext; omega

/-- The table of a function reads as the function within its range, as the default beyond it. -/
theorem sparse_get_ofFn (n : Nat) (f : Nat → V) (j : Nat) : Sparse.get (Sparse.ofFn n f) j = if j < n then f j else default := by
  simp [Sparse.ofFn, sparse_get_build]

/-- What the table of a function holds: keys from the first on, and no default. -/
theorem sparse_mem_build {f : Nat → V} {n k : Nat} {p : Nat × V} (h : p ∈ Sparse.build f k n) : k ≤ p.1 ∧ p.2 ≠ default := by
  induction n generalizing k with
  | zero => cases h
  | succ n ih =>
    have later : p ∈ Sparse.build f (k + 1) n → k ≤ p.1 ∧ p.2 ≠ default := fun h => ⟨Nat.le_of_succ_le (ih h).1, (ih h).2⟩
    by_cases d : f k = default <;> simp only [Sparse.build, d, if_true, if_false] at h
    · exact later h
    · exact (List.mem_cons.1 h).elim (fun e => e ▸ ⟨Nat.le_refl _, d⟩) later

theorem sparse_wf_build (f : Nat → V) (n k : Nat) : Sparse.wf (Sparse.build f k n) = true := by
  refine (sparse_wf_iff _).2 ⟨?_, fun p hp => (sparse_mem_build hp).2⟩
  induction n generalizing k with
  | zero => exact .nil
  | succ n ih => by_cases d : f k = default <;> simp [Sparse.build, d, ih]; exact fun a v h => (sparse_mem_build h).1

theorem sparse_wf_ofFn (n : Nat) (f : Nat → V) : Sparse.wf (Sparse.ofFn n f) = true := sparse_wf_build f n 0

end

end Sys2Proof.Machine
end

