-- ==== Sys2Proof/Laws/Memory.lean ====
section
/-!
SUPPORT. Memory: a read after a write, and that every operation over memory keeps its canonical form (log entry 2).
-/

namespace Sys2Proof.Machine

/-- The state's memory stands in its canonical form. -/
def State.memForm (s : State) : Prop := Memory.wf s.mem = true

/-- What holds of both branches holds of the choice. -/
theorem ite_both {α : Type} {c : Prop} [Decidable c] {P : α → Prop} {a b : α} (ha : P a) (hb : P b) : P (if c then a else b) := by
  split <;> assumption

theorem memForm_ite {c : Prop} [Decidable c] {s t : State} (hs : s.memForm) (ht : t.memForm) : (if c then s else t).memForm :=
  ite_both hs ht

theorem memWf_set {m : List Host.Cell} (k : Nat) (v : Byte) (h : Memory.wf m = true) : Memory.wf (Sparse.set m k v) = true :=
  sparse_wf_set k v h

theorem memWf_filter {m : List Host.Cell} (p : Host.Cell → Bool) (h : Memory.wf m = true) : Memory.wf (m.filter p) = true :=
  sparse_wf_filter p h

theorem memWf_memWrite {m : List Host.Cell} (key : Nat) (bs : List Byte) (h : Memory.wf m = true) :
    Memory.wf (memWrite m key bs) = true := by
  induction bs generalizing m key with
  | nil => exact h
  | cons b r ih => exact ih _ (memWf_set _ _ h)

/-- What a key holds after consecutive bytes are written. -/
theorem get_memWrite (m : List Host.Cell) (key : Nat) (bs : List Byte) (j : Nat) :
    Sparse.get (memWrite m key bs) j = if key ≤ j ∧ j < key + bs.length then bs.getD (j - key) 0 else Sparse.get m j := by
  induction bs generalizing m key with
  | nil => simp [memWrite]
  | cons b r ih =>
    simp only [memWrite, ih, sparse_get_set, List.length_cons]
    by_cases hj : j = key
    · subst hj
      rw [if_neg (by omega), if_pos rfl, if_pos (by omega)]
      simp
    · by_cases hi : key + 1 ≤ j ∧ j < key + 1 + r.length
      · rw [if_pos hi, if_pos (by omega), show j - key = (j - (key + 1)) + 1 by omega]
        rfl
      · rw [if_neg hi, if_neg hj, if_neg (by omega)]

theorem bytesAt_length (s : State) (key n : Nat) : (s.bytesAt key n).length = n := by
  induction n generalizing key with
  | zero => rfl
  | succ n ih => simp [State.bytesAt, ih]

theorem bytesAt_getD (s : State) (key n i : Nat) (h : i < n) : (s.bytesAt key n).getD i 0 = s.byte (key + i) := by
  induction n generalizing key i with
  | zero => omega
  | succ n ih =>
    cases i with
    | zero => simp [State.bytesAt]
    | succ i =>
      simp only [State.bytesAt, List.getD_cons_succ]
      rw [ih _ _ (by omega)]
      congr 1; omega

/-- Bytes at a key depend on memory alone, byte by byte. -/
theorem bytesAt_congr {s t : State} {key n : Nat} (h : ∀ i < n, t.byte (key + i) = s.byte (key + i)) : t.bytesAt key n = s.bytesAt key n := by
  induction n generalizing key with
  | zero => rfl
  | succ n ih =>
    simp only [State.bytesAt]
    rw [show t.byte key = s.byte key from h 0 (by omega), ih fun i hi => by
      rw [show key + 1 + i = key + (i + 1) by omega]; exact h (i + 1) (by omega)]

theorem natAt_congr {s t : State} {key n : Nat} (h : ∀ i < n, t.byte (key + i) = s.byte (key + i)) : t.natAt key n = s.natAt key n := by
  unfold State.natAt; rw [bytesAt_congr h]

/-- The bytes just written read back. -/
theorem bytesAt_written {s : State} {m : List Host.Cell} {key : Nat} {bs : List Byte} (h : s.mem = memWrite m key bs) :
    s.bytesAt key bs.length = bs := by
  apply List.ext_getElem (bytesAt_length ..)
  intro i h1 h2
  have := bytesAt_getD s key bs.length i h2
  rw [List.getD_eq_getElem _ _ h1] at this
  rw [this]
  unfold State.byte
  rw [h, get_memWrite, if_pos (by omega)]
  simp [List.getD_eq_getElem?_getD, h2]

/-! ### Writes -/

/-- Everything a write can do: in a dead frame nothing; else the bytes go to memory, and only poison marks and one die's Pan queue change besides. -/
theorem writeMem_cases (s : State) (key : Nat) (bs : List Byte) :
    (s.hbmDead key = true ∧ s.writeMem key bs = s) ∨
    (s.hbmDead key = false ∧ ∃ p ds, s.writeMem key bs = { s with mem := memWrite s.mem key bs, poison := p, dies := ds }) := by
  unfold State.writeMem
  by_cases h : s.hbmDead key = true
  · exact .inl ⟨h, by simp [h]⟩
  · refine .inr ⟨by simpa using h, ?_⟩
    rw [if_neg h]
    exact ite_both (P := fun t => ∃ p ds, t = ({ s with mem := memWrite s.mem key bs, poison := p, dies := ds } : State))
      ⟨_, _, rfl⟩ ⟨_, _, rfl⟩

theorem writeMem_mem {s : State} {key : Nat} (bs : List Byte) (h : s.hbmDead key = false) : (s.writeMem key bs).mem = memWrite s.mem key bs := by
  obtain ⟨h1, -⟩ | ⟨-, p, ds, e⟩ := writeMem_cases s key bs
  · simp [h] at h1
  · rw [e]

theorem memForm_writeMem {s : State} (key : Nat) (bs : List Byte) (h : s.memForm) : (s.writeMem key bs).memForm := by
  obtain ⟨-, e⟩ | ⟨-, p, ds, e⟩ := writeMem_cases s key bs
  · rwa [e]
  · rw [e]; exact memWf_memWrite key bs h

/-- A byte outside the run reads as before. -/
theorem byte_writeMem_other {s : State} {key j : Nat} {bs : List Byte} (h : j < key ∨ key + bs.length ≤ j) :
    (s.writeMem key bs).byte j = s.byte j := by
  obtain ⟨-, e⟩ | ⟨-, p, ds, e⟩ := writeMem_cases s key bs
  · rw [e]
  · rw [e]; unfold State.byte; rw [get_memWrite, if_neg (by omega)]

/-- The bytes written to a live frame read back. -/
theorem bytesAt_writeMem {s : State} {key : Nat} {bs : List Byte} (h : s.hbmDead key = false) :
    (s.writeMem key bs).bytesAt key bs.length = bs := bytesAt_written (writeMem_mem bs h)

@[simp] theorem writeMem_core (s : State) (key : Nat) (bs : List Byte) : (s.writeMem key bs).core = s.core := by
  obtain ⟨-, e⟩ | ⟨-, p, ds, e⟩ := writeMem_cases s key bs <;> rw [e]
@[simp] theorem writeMem_parked (s : State) (key : Nat) (bs : List Byte) : (s.writeMem key bs).parked = s.parked := by
  obtain ⟨-, e⟩ | ⟨-, p, ds, e⟩ := writeMem_cases s key bs <;> rw [e]
@[simp] theorem writeMem_saved (s : State) (key : Nat) (bs : List Byte) : (s.writeMem key bs).saved = s.saved := by
  obtain ⟨-, e⟩ | ⟨-, p, ds, e⟩ := writeMem_cases s key bs <;> rw [e]
@[simp] theorem writeMem_launches (s : State) (key : Nat) (bs : List Byte) : (s.writeMem key bs).launches = s.launches := by
  obtain ⟨-, e⟩ | ⟨-, p, ds, e⟩ := writeMem_cases s key bs <;> rw [e]
@[simp] theorem writeMem_host (s : State) (key : Nat) (bs : List Byte) : (s.writeMem key bs).host = s.host := by
  obtain ⟨-, e⟩ | ⟨-, p, ds, e⟩ := writeMem_cases s key bs <;> rw [e]

theorem memForm_writeRuns {s : State} (l : List (Nat × List Byte)) (h : s.memForm) : (s.writeRuns l).memForm := by
  induction l generalizing s with
  | nil => exact h
  | cons p r ih => exact ih (memForm_writeMem _ _ h)

theorem memForm_writeIn {s : State} (pages : List (Nat × Nat)) (va : Nat) (bs : List Byte) (h : s.memForm) :
    (s.writeIn pages va bs).memForm := memForm_writeRuns _ h

theorem memForm_raiseSync {s : State} (key n : Nat) (h : s.memForm) : (s.raiseSync key n).memForm := memForm_writeMem _ _ h

theorem memForm_syncErr {s : State} (key : Nat) (h : s.memForm) : (s.syncErr key).memForm := by
  unfold State.syncErr; dsimp only; split
  · exact h
  · exact memForm_writeMem _ _ h

theorem memForm_changeUse {s : State} (at_ : Nat) (d : Int) (h : s.memForm) : (s.changeUse at_ d).memForm := memForm_writeMem _ _ h

theorem memForm_addUse {s : State} (use : Nat) (d : Int) (l : List Nat) (h : s.memForm) : (s.addUse use d l).memForm := by
  induction l generalizing s with
  | nil => exact h
  | cons x r ih => exact ih (ite_both (P := State.memForm) h (memForm_changeUse _ _ h))

theorem memForm_giveCores {s : State} (node : Nat) (h : s.memForm) : (s.giveCores node).memForm := memForm_addUse _ _ _ h

/-- A write of the device's own, made or held back. -/
theorem memForm_devWrite {s : State} (key : Nat) (bs : List Byte) (h : s.memForm) : (s.devWrite key bs).memForm :=
  ite_both (P := State.memForm) h (memForm_writeMem _ _ h)

/-! ### Records -/

theorem msix_mem (s : State) (v : Nat) : (s.msix v).mem = s.mem := rfl

theorem memForm_rseqs {s : State} (x : Sparse Nat) (h : s.memForm) : ({ s with rseqs := x } : State).memForm := h

theorem memForm_writeRecord {s : State} (node : Nat) (r : FRec) (h : s.memForm) : (s.writeRecord node r).memForm := by
  unfold State.writeRecord
  dsimp only
  generalize s.natAt (node + 64) 8 = fq
  generalize Sparse.set s.rseqs node _ = x
  have h1 := memForm_rseqs x h
  revert h1
  generalize ({ s with rseqs := x } : State) = s1
  intro h1
  split
  · exact h1
  · unfold State.memForm
    rw [msix_mem]
    split
    · exact memForm_writeMem _ _ h1
    · exact memForm_writeMem _ _ (memForm_writeMem _ _ h1)

theorem memForm_postRecord {s : State} (node : Nat) (r : FRec) (h : s.memForm) : (s.postRecord node r).memForm :=
  ite_both (P := State.memForm) h (memForm_writeRecord _ _ h)

theorem memForm_postRoot {s : State} (d : Nat) (r : FRec) (h : s.memForm) : (s.postRoot d r).memForm :=
  memForm_ite h (memForm_postRecord _ _ h)

theorem memForm_postJob {s : State} (c : Core) (r : FRec) (h : s.memForm) : (s.postJob c r).memForm := by
  unfold State.postJob
  generalize s.faultDomain treeDepth c.node = node
  exact memForm_ite h (memForm_postRecord _ _ h)

theorem memForm_writeRefused {s : State} (lrec node : Nat) (f : FaultInfo) (h : s.memForm) : (s.writeRefused lrec node f).memForm :=
  memForm_postRecord _ _ h

theorem memForm_writeVa {s : State} (l : Launch) (va : Nat) (bs : List Byte) (h : s.memForm) : (s.writeVa l va bs).memForm := by
  unfold State.writeVa
  extract_lets ptb
  clear_value ptb
  generalize splitAt64K va bs = runs
  induction runs generalizing s with
  | nil => exact h
  | cons x r ih =>
    have hh : ∀ y, ({ s with late := y } : State).memForm := fun _ => h
    refine ih ?_
    dsimp only
    split
    · exact hh _
    · split
      · exact memForm_ite (hh _) (memForm_writeMem _ _ h)
      · exact memForm_writeRefused _ _ _ h
      · exact hh _

theorem memForm_msixAfter {s : State} (v : Nat) (h : s.memForm) : (s.msixAfter v).memForm := ite_both (P := State.memForm) h h

/-- A write that was held back. -/
theorem memForm_makeLate {s : State} (w : Late) (h : s.memForm) : (s.makeLate w).memForm := by
  cases w with
  | bytes key bs => simp only [State.makeLate, memForm_writeMem key bs h]
  | use at_ d => simp only [State.makeLate, memForm_changeUse at_ d h]
  | record node r => simp only [State.makeLate, memForm_writeRecord node r h]
  | msix v => exact h
  | va lrec node ptb va bs =>
    simp only [State.makeLate]; split
    · exact memForm_writeMem _ _ h
    · exact memForm_writeRefused _ _ _ h
    · exact h

theorem memForm_flushLate {s : State} (h : s.memForm) : s.flushLate.memForm := by
  unfold State.flushLate
  split
  · exact h
  · have h1 : ∀ x, ({ s with late := x } : State).memForm := fun _ => h
    exact memForm_ite (memForm_makeLate _ (h1 _)) h

/-! ### Rows, counters -/

theorem memForm_banks {s : State} (b : Sparse Bank) (h : s.memForm) : ({ s with banks := b } : State).memForm := h

theorem memForm_rowAlert {s : State} (key r : Nat) (h : s.memForm) : (s.rowAlert key r).memForm := by
  unfold State.rowAlert
  extract_lets b d w k fresh wa noticed notice k1 s1
  have h1 : s1.memForm := h
  clear_value s1
  exact memForm_ite (memForm_postRoot _ _ h1) h1

theorem memForm_useStripe {s : State} (key : Nat) (h : s.memForm) : (s.useStripe key).memForm := ite_both (P := State.memForm) h h

theorem memForm_touchRow {s : State} (key : Nat) (h : s.memForm) : (s.touchRow key).memForm := by
  unfold State.touchRow
  extract_lets b r k n s1
  have h1 : s1.memForm := h
  clear_value s1
  exact memForm_ite (memForm_useStripe _ h) (memForm_ite h (memForm_ite h (memForm_ite (memForm_rowAlert _ _ h1) h1)))

theorem memForm_touchRows {s : State} (l : List Nat) (h : s.memForm) : (s.touchRows l).memForm := by
  induction l generalizing s with
  | nil => exact h
  | cons k r ih => exact ih (memForm_touchRow _ h)

/-- What serving an access to a row can change: the bank and the stripe, and what an alert's record writes (R85, R323, R351). -/
def State.served (s t : State) : Prop :=
  ∃ m p ds h r l b st, t = { s with mem := m, poison := p, dies := ds, host := h, rseqs := r, late := l, banks := b, stripes := st }

theorem served_refl (s : State) : s.served s := ⟨_, _, _, _, _, _, _, _, rfl⟩

theorem served_trans {s t u : State} (h : s.served t) (g : t.served u) : s.served u := by
  obtain ⟨_, _, _, _, _, _, _, _, rfl⟩ := h
  obtain ⟨m, p, ds, h, r, l, b, st, rfl⟩ := g
  exact ⟨m, p, ds, h, r, l, b, st, rfl⟩

theorem served_writeMem (s : State) (key : Nat) (bs : List Byte) : s.served (s.writeMem key bs) := by
  obtain ⟨-, e⟩ | ⟨-, p, ds, e⟩ := writeMem_cases s key bs <;> rw [e] <;> exact ⟨_, _, _, _, _, _, _, _, rfl⟩

theorem served_postRecord (s : State) (node : Nat) (r : FRec) : s.served (s.postRecord node r) := by
  refine ite_both (P := s.served) ⟨_, _, _, _, _, _, _, _, rfl⟩ ?_
  unfold State.writeRecord
  dsimp only
  refine served_trans (t := { s with rseqs := _ }) ⟨_, _, _, _, _, _, _, _, rfl⟩ (ite_both (P := State.served _) (served_refl _) ?_)
  refine served_trans (ite_both (P := State.served _) (served_writeMem _ _ _) (served_trans (served_writeMem _ _ _) (served_writeMem _ _ _)))
    ⟨_, _, _, _, _, _, _, _, rfl⟩

theorem served_touchRow (s : State) (key : Nat) : s.served (s.touchRow key) := by
  unfold State.touchRow
  extract_lets b r k n s1
  have h1 : s.served s1 := ⟨_, _, _, _, _, _, _, _, rfl⟩
  clear_value s1
  refine ite_both (P := s.served) (ite_both (P := s.served) ⟨_, _, _, _, _, _, _, _, rfl⟩ (served_refl s)) ?_
  refine ite_both (P := s.served) (served_refl s) (ite_both (P := s.served) (served_refl s) (ite_both (P := s.served) (served_trans h1 ?_) h1))
  unfold State.rowAlert
  extract_lets d w k2 fresh wa noticed notice k1 s2
  have h2 : s1.served s2 := ⟨_, _, _, _, _, _, _, _, rfl⟩
  clear_value s2
  exact ite_both (P := s1.served) (served_trans h2 (ite_both (P := s2.served) (served_refl _) (served_postRecord _ _ _))) h2

theorem served_touchRows (s : State) (l : List Nat) : s.served (s.touchRows l) := by
  induction l generalizing s with
  | nil => exact served_refl s
  | cons k r ih => exact served_trans (served_touchRow s k) (ih _)

theorem memForm_countEvent {s : State} (c : Core) (k : Strm) (n : Nat) (h : s.memForm) : (s.countEvent c k n).memForm := by
  unfold State.countEvent
  split
  · exact h
  · extract_lets v thr cross l1 s1 up s2
    have h2 : s2.memForm := h
    clear_value s2
    exact ite_both (P := State.memForm) h (ite_both (P := State.memForm) h (memForm_msixAfter _ (memForm_writeVa _ _ _ h2)))

theorem memForm_countEvents {s : State} (c : Core) (k : Strm) (l : List Nat) (h : s.memForm) : (s.countEvents c k l).memForm := by
  induction l generalizing s with
  | nil => exact h
  | cons n r ih => exact ih (memForm_countEvent _ _ _ h)

/-! ### Jobs wherever they are -/

@[simp] theorem updJob_mem (s : State) (lrec job : Nat) (f : Core → Core) : (s.updJob lrec job f).mem = s.mem := by
  unfold State.updJob; split <;> rfl

@[simp] theorem endOp_mem (s : State) (r : Option TokRef) (e : Option FaultInfo) : (s.endOp r e).mem = s.mem := by
  cases r <;> simp [State.endOp]

@[simp] theorem deliver_mem (s : State) (d : DestRef) (v : Word) : (s.deliver d v).mem = s.mem := by simp [State.deliver]
@[simp] theorem raiseEvent_mem (s : State) (l j : Nat) (k : Strm) (e : Event) : (s.raiseEvent l j k e).mem = s.mem := by simp [State.raiseEvent]
@[simp] theorem endMop_mem (s : State) (o : MOp) (e : Option FaultInfo) : (s.endMop o e).mem = s.mem := by
  simp [State.endMop, State.dropOp, State.updC]
@[simp] theorem goOn_mem (s : State) (o : MOp) (e : Bool) (b : MBody) : (s.goOn o e b).mem = s.mem := by
  unfold State.goOn; split
  · exact endMop_mem ..
  · rfl

theorem memForm_of_mem {s t : State} (e : t.mem = s.mem) (h : s.memForm) : t.memForm := by unfold State.memForm; rwa [e]

theorem memForm_updC {s : State} (f : Core → Core) (h : s.memForm) : (s.updC f).memForm := h
theorem memForm_updK {s : State} (k : Strm) (f : StrmSt → StrmSt) (h : s.memForm) : (s.updK k f).memForm := h
theorem memForm_endOp {s : State} (r : Option TokRef) (e : Option FaultInfo) (h : s.memForm) : (s.endOp r e).memForm :=
  memForm_of_mem (endOp_mem ..) h
theorem memForm_updJob {s : State} (l j : Nat) (f : Core → Core) (h : s.memForm) : (s.updJob l j f).memForm :=
  memForm_of_mem (updJob_mem ..) h
theorem memForm_endMop {s : State} (o : MOp) (e : Option FaultInfo) (h : s.memForm) : (s.endMop o e).memForm :=
  memForm_of_mem (endMop_mem ..) h
theorem memForm_goOn {s : State} (o : MOp) (e : Bool) (b : MBody) (h : s.memForm) : (s.goOn o e b).memForm :=
  memForm_of_mem (goOn_mem ..) h

/-! ### Accesses -/

theorem memForm_writeRow {s : State} (key i : Nat) (v : VReg) (p : BitVec 1024) (h : s.memForm) : (s.writeRow key i v p).memForm :=
  memForm_writeRuns _ h

/-- Every part of an access that performs keeps memory's form. -/
theorem memForm_performPart {s : State} (o : MOp) (ix : Nat) (h : s.memForm) : (s.performPart o ix).memForm := by
  have hr : ∀ k, (s.touchRow k).memForm := fun k => memForm_touchRow k h
  unfold State.performPart
  split
  · exact memForm_endMop _ _ (memForm_updK _ _ (hr _))
  · exact memForm_endMop _ _ (memForm_updC _ (hr _))
  · exact memForm_endMop _ _ (memForm_writeMem _ _ (hr _))
  · exact memForm_endMop _ _ (memForm_updC _ (memForm_ite (hr _) (memForm_writeMem _ _ (hr _))))
  · exact memForm_endMop _ _ (memForm_raiseSync _ _ (hr _))
  · split
    · exact h
    · exact memForm_ite (memForm_endMop _ _ h) (memForm_goOn _ _ _ (memForm_updC _ (hr _)))
  · split
    · exact h
    · exact memForm_ite (memForm_endMop _ _ h) (memForm_goOn _ _ _ (memForm_ite (hr _) (memForm_updC _ (hr _))))
  · split
    · exact h
    · exact memForm_goOn _ _ _ (memForm_writeRow _ _ _ _ (hr _))
  · split
    · exact h
    · exact memForm_ite (memForm_endMop _ _ h)
        (memForm_goOn _ _ _ (memForm_ite (memForm_updC _ (memForm_updC _ (hr _))) (memForm_updC _ (hr _))))
  · split
    · exact h
    · exact memForm_goOn _ _ _ (memForm_writeMem _ _ (hr _))
  · exact memForm_goOn _ _ _ (memForm_writeIn _ _ _ (hr _))
  · dsimp only
    split
    · exact memForm_endMop _ _ (memForm_updC _ h)
    · exact memForm_ite (memForm_endMop _ _ (memForm_countEvents _ _ _ (memForm_updC _ (hr _)))) (memForm_goOn _ _ _ (hr _))

/-- An access that a failed link refuses writes nothing. -/
theorem memForm_refusePart {s : State} (o : MOp) (ix : Nat) (h : s.memForm) : (s.refusePart o ix).memForm := by
  unfold State.refusePart
  split
  · exact memForm_endMop _ _ (memForm_updK _ _ h)
  · exact memForm_endMop _ _ (memForm_updC _ h)
  all_goals exact memForm_endMop _ _ h

theorem memForm_landAll {s : State} (l : List Pending) (h : s.memForm) : (s.landAll l).memForm := by
  induction l generalizing s with
  | nil => exact h
  | cons p r ih =>
    have h1 : ∀ c n, ({ s with core := c, freeN := n } : State).memForm := fun _ _ => h
    exact ih (memForm_countEvents _ _ _ (h1 _ _))

theorem memForm_landDue {s : State} (n : Nat) (h : s.memForm) : (s.landDue n).memForm := memForm_landAll _ (memForm_updC _ h)
theorem memForm_landPorts {s : State} (h : s.memForm) : s.landPorts.memForm := memForm_landAll _ (memForm_updC _ h)

/-! ### Stopping a gang, faults -/

@[simp] theorem focus_mem (s : State) (c : Core) : (s.focus c).mem = s.mem := by
  unfold State.focus; split
  · rfl
  · dsimp only; split <;> rfl

theorem memForm_focus {s : State} (c : Core) (h : s.memForm) : (s.focus c).memForm := memForm_of_mem (focus_mem s c) h

theorem memForm_settleCores {s : State} (l : List Core) (h : s.memForm) : (s.settleCores l).memForm := by
  induction l generalizing s with
  | nil => exact h
  | cons c r ih => exact ih (memForm_landPorts (memForm_landDue _ (memForm_focus c h)))

theorem memForm_settleGang {s : State} (l : List Core) (h : s.memForm) : (s.settleGang l).memForm :=
  memForm_ite (memForm_focus _ (memForm_settleCores _ h)) (memForm_settleCores _ h)

@[simp] theorem closeAll_mem (s : State) (l : List Core) : (s.closeAll l).mem = s.mem := by
  induction l generalizing s with
  | nil => rfl
  | cons c r ih => simp [State.closeAll, ih, State.closeEnds]

theorem memForm_stopGang {s : State} (l g : Nat) (d : Bool) (h : s.memForm) : (s.stopGang l g d).memForm :=
  memForm_ite h (memForm_of_mem (s := s.settleGang (s.gangCores l g)) rfl (memForm_settleGang _ h))

theorem memForm_endGang {s : State} (l g : Nat) (h : s.memForm) : (s.endGang l g).memForm := by
  have key : ∀ cs x, ((({ s with orphans := x } : State).dropGang l g).closeAll cs).memForm := fun cs x =>
    memForm_of_mem (s := s) (by simp [State.dropGang]) h
  unfold State.endGang; dsimp only; split
  · exact key _ _
  · exact memForm_giveCores _ (key _ _)

/-- Taking a fault keeps memory's form. -/
theorem memForm_raise {s : State} (f : FaultInfo) (h : s.memForm) : (s.raise f).memForm := by
  unfold State.raise
  refine memForm_postJob _ _ (?_ : State.memForm _)
  refine ite_both (P := State.memForm) ?_ ?_ <;> (split <;> exact h)

/-! ### Page copies, reset -/

theorem memWf_foldl_set {l : List Host.Cell} (f : Host.Cell → Nat) {m : List Host.Cell} (h : Memory.wf m = true) :
    Memory.wf (l.foldl (fun k c => Sparse.set k (f c) c.2) m) = true := by
  induction l generalizing m with
  | nil => exact h
  | cons c r ih => exact ih (memWf_set _ _ h)

theorem memWf_copyCells {m : List Host.Cell} (src dst n : Nat) (h : Memory.wf m = true) : Memory.wf (copyCells m src dst n) = true :=
  memWf_foldl_set _ (memWf_filter _ h)

theorem memForm_copyFrame {s : State} (src dst n : Nat) (h : s.memForm) : (s.copyFrame src dst n).memForm :=
  ite_both (P := State.memForm) h (memWf_copyCells src dst n h)

theorem memForm_reset : State.reset.memForm := rfl

end Sys2Proof.Machine
end

