-- ==== Sys2Proof/Laws/Res.lean ====
section
/-!
SUPPORT. How an attempt to issue a word runs on: the binds of `Res`, its checks, the outcome of an attempt.
-/

namespace Sys2Proof.Machine

@[simp] theorem res_ok_bind {α β : Type} (a : α) (f : α → Res β) : ((Except.ok a : Res α) >>= f) = f a := rfl
@[simp] theorem res_error_bind {α β : Type} (e : Halt) (f : α → Res β) : ((Except.error e : Res α) >>= f) = .error e := rfl
@[simp] theorem res_pure {α : Type} (a : α) : (pure a : Res α) = .ok a := rfl
@[simp] theorem res_trapR_bind {α β : Type} (e : FaultInfo) (f : α → Res β) : ((trapR e : Res α) >>= f) = .error (.trap e) := rfl

/-- Where an attempt of two stages answers, its second stage answered on what the first handed over. -/
theorem res_stages {α β : Type} {out : β} {next : α → Res β} : {first : Res α} → (do let v ← first; next v) = Except.ok out →
    ∃ v, next v = Except.ok out ∧ first = Except.ok v
  | .ok v, h => ⟨v, h, rfl⟩
  | .error _, h => nomatch h

@[simp] theorem waitUnless_true : waitUnless true = .ok () := rfl
@[simp] theorem waitUnless_false : waitUnless false = .error .wait := rfl
@[simp] theorem trapIf_true (f : FaultInfo) : trapIf true f = .error (.trap f) := rfl
@[simp] theorem trapIf_false (f : FaultInfo) : trapIf false f = .ok () := rfl

theorem waitUnless_ok {b : Bool} : waitUnless b = .ok () ↔ b = true := by cases b <;> simp
theorem trapIf_ok {b : Bool} {f : FaultInfo} : trapIf b f = .ok () ↔ b = false := by cases b <;> simp

@[simp] theorem outcome_ok (s t : State) : outcome s (.ok t) = .next t := rfl
@[simp] theorem outcome_wait (s : State) : outcome s (.error .wait) = .next s := rfl
@[simp] theorem outcome_bank (s : State) (keys : List Nat) : outcome s (.error (.bank keys)) = .next (s.stall keys) := rfl
@[simp] theorem outcome_trap (s : State) (f : FaultInfo) : outcome s (.error (.trap f)) = takeFault f s := rfl

/-- A fault of the device goes on; only `noBacking` stops the model. -/
theorem takeFault_next {f : FaultInfo} (h : f.code ≠ .noBacking) (s : State) : takeFault f s = .next (s.raise f) := by
  simp [takeFault, h]

/-- An attempt is never refused. -/
theorem outcome_ne_refused (s : State) (r : Res State) (x : Refusal) : outcome s r ≠ .refused x := by
  cases r with
  | ok t => simp
  | error e =>
    cases e with
    | wait => simp
    | bank keys => simp
    | trap f => by_cases h : f.code = .noBacking <;> simp [takeFault, h]

end Sys2Proof.Machine
end

