-- ==== Sys2Proof/Laws/State.lean ====
section
/-!
SUPPORT. What each update of the state leaves in each field: one lemma a field, so that no proof unfolds a record update.
-/

namespace Sys2Proof.Machine

/-! ### State: the issuing stream, the core under view, one named stream -/

@[simp] theorem State.setStrm_core (s : State) (x : StrmSt) : (s.setStrm x).core = s.core.setStrm s.cur x := rfl
@[simp] theorem State.setStrm_parked (s : State) (x : StrmSt) : (s.setStrm x).parked = s.parked := rfl
@[simp] theorem State.setStrm_cur (s : State) (x : StrmSt) : (s.setStrm x).cur = s.cur := rfl
@[simp] theorem State.setStrm_turn (s : State) (x : StrmSt) : (s.setStrm x).turn = s.turn := rfl
@[simp] theorem State.setStrm_agenda (s : State) (x : StrmSt) : (s.setStrm x).agenda = s.agenda := rfl
@[simp] theorem State.setStrm_msgs (s : State) (x : StrmSt) : (s.setStrm x).msgs = s.msgs := rfl
@[simp] theorem State.setStrm_gen (s : State) (x : StrmSt) : (s.setStrm x).gen = s.gen := rfl
@[simp] theorem State.setStrm_mem (s : State) (x : StrmSt) : (s.setStrm x).mem = s.mem := rfl
@[simp] theorem State.setStrm_poison (s : State) (x : StrmSt) : (s.setStrm x).poison = s.poison := rfl
@[simp] theorem State.setStrm_flashBad (s : State) (x : StrmSt) : (s.setStrm x).flashBad = s.flashBad := rfl
@[simp] theorem State.setStrm_flashLog (s : State) (x : StrmSt) : (s.setStrm x).flashLog = s.flashLog := rfl
@[simp] theorem State.setStrm_late (s : State) (x : StrmSt) : (s.setStrm x).late = s.late := rfl
@[simp] theorem State.setStrm_stripes (s : State) (x : StrmSt) : (s.setStrm x).stripes = s.stripes := rfl
@[simp] theorem State.setStrm_origins (s : State) (x : StrmSt) : (s.setStrm x).origins = s.origins := rfl
@[simp] theorem State.setStrm_migs (s : State) (x : StrmSt) : (s.setStrm x).migs = s.migs := rfl
@[simp] theorem State.setStrm_dies (s : State) (x : StrmSt) : (s.setStrm x).dies = s.dies := rfl
@[simp] theorem State.setStrm_launches (s : State) (x : StrmSt) : (s.setStrm x).launches = s.launches := rfl
@[simp] theorem State.setStrm_saved (s : State) (x : StrmSt) : (s.setStrm x).saved = s.saved := rfl
@[simp] theorem State.setStrm_banks (s : State) (x : StrmSt) : (s.setStrm x).banks = s.banks := rfl
@[simp] theorem State.setStrm_orphans (s : State) (x : StrmSt) : (s.setStrm x).orphans = s.orphans := rfl
@[simp] theorem State.setStrm_rseqs (s : State) (x : StrmSt) : (s.setStrm x).rseqs = s.rseqs := rfl
@[simp] theorem State.setStrm_host (s : State) (x : StrmSt) : (s.setStrm x).host = s.host := rfl
@[simp] theorem State.setStrm_ids (s : State) (x : StrmSt) : (s.setStrm x).ids = s.ids := rfl
@[simp] theorem State.setStrm_freeN (s : State) (x : StrmSt) : (s.setStrm x).freeN = s.freeN := rfl
@[simp] theorem State.upd_core (s : State) (f : StrmSt → StrmSt) : (s.upd f).core = s.core.setStrm s.cur (f s.strm) := rfl
@[simp] theorem State.upd_parked (s : State) (f : StrmSt → StrmSt) : (s.upd f).parked = s.parked := rfl
@[simp] theorem State.upd_cur (s : State) (f : StrmSt → StrmSt) : (s.upd f).cur = s.cur := rfl
@[simp] theorem State.upd_turn (s : State) (f : StrmSt → StrmSt) : (s.upd f).turn = s.turn := rfl
@[simp] theorem State.upd_agenda (s : State) (f : StrmSt → StrmSt) : (s.upd f).agenda = s.agenda := rfl
@[simp] theorem State.upd_msgs (s : State) (f : StrmSt → StrmSt) : (s.upd f).msgs = s.msgs := rfl
@[simp] theorem State.upd_gen (s : State) (f : StrmSt → StrmSt) : (s.upd f).gen = s.gen := rfl
@[simp] theorem State.upd_mem (s : State) (f : StrmSt → StrmSt) : (s.upd f).mem = s.mem := rfl
@[simp] theorem State.upd_poison (s : State) (f : StrmSt → StrmSt) : (s.upd f).poison = s.poison := rfl
@[simp] theorem State.upd_flashBad (s : State) (f : StrmSt → StrmSt) : (s.upd f).flashBad = s.flashBad := rfl
@[simp] theorem State.upd_flashLog (s : State) (f : StrmSt → StrmSt) : (s.upd f).flashLog = s.flashLog := rfl
@[simp] theorem State.upd_late (s : State) (f : StrmSt → StrmSt) : (s.upd f).late = s.late := rfl
@[simp] theorem State.upd_stripes (s : State) (f : StrmSt → StrmSt) : (s.upd f).stripes = s.stripes := rfl
@[simp] theorem State.upd_origins (s : State) (f : StrmSt → StrmSt) : (s.upd f).origins = s.origins := rfl
@[simp] theorem State.upd_migs (s : State) (f : StrmSt → StrmSt) : (s.upd f).migs = s.migs := rfl
@[simp] theorem State.upd_dies (s : State) (f : StrmSt → StrmSt) : (s.upd f).dies = s.dies := rfl
@[simp] theorem State.upd_launches (s : State) (f : StrmSt → StrmSt) : (s.upd f).launches = s.launches := rfl
@[simp] theorem State.upd_saved (s : State) (f : StrmSt → StrmSt) : (s.upd f).saved = s.saved := rfl
@[simp] theorem State.upd_banks (s : State) (f : StrmSt → StrmSt) : (s.upd f).banks = s.banks := rfl
@[simp] theorem State.upd_orphans (s : State) (f : StrmSt → StrmSt) : (s.upd f).orphans = s.orphans := rfl
@[simp] theorem State.upd_rseqs (s : State) (f : StrmSt → StrmSt) : (s.upd f).rseqs = s.rseqs := rfl
@[simp] theorem State.upd_host (s : State) (f : StrmSt → StrmSt) : (s.upd f).host = s.host := rfl
@[simp] theorem State.upd_ids (s : State) (f : StrmSt → StrmSt) : (s.upd f).ids = s.ids := rfl
@[simp] theorem State.upd_freeN (s : State) (f : StrmSt → StrmSt) : (s.upd f).freeN = s.freeN := rfl
@[simp] theorem State.updC_core (s : State) (f : Core → Core) : (s.updC f).core = f s.core := rfl
@[simp] theorem State.updC_parked (s : State) (f : Core → Core) : (s.updC f).parked = s.parked := rfl
@[simp] theorem State.updC_cur (s : State) (f : Core → Core) : (s.updC f).cur = s.cur := rfl
@[simp] theorem State.updC_turn (s : State) (f : Core → Core) : (s.updC f).turn = s.turn := rfl
@[simp] theorem State.updC_agenda (s : State) (f : Core → Core) : (s.updC f).agenda = s.agenda := rfl
@[simp] theorem State.updC_msgs (s : State) (f : Core → Core) : (s.updC f).msgs = s.msgs := rfl
@[simp] theorem State.updC_gen (s : State) (f : Core → Core) : (s.updC f).gen = s.gen := rfl
@[simp] theorem State.updC_mem (s : State) (f : Core → Core) : (s.updC f).mem = s.mem := rfl
@[simp] theorem State.updC_poison (s : State) (f : Core → Core) : (s.updC f).poison = s.poison := rfl
@[simp] theorem State.updC_flashBad (s : State) (f : Core → Core) : (s.updC f).flashBad = s.flashBad := rfl
@[simp] theorem State.updC_flashLog (s : State) (f : Core → Core) : (s.updC f).flashLog = s.flashLog := rfl
@[simp] theorem State.updC_late (s : State) (f : Core → Core) : (s.updC f).late = s.late := rfl
@[simp] theorem State.updC_stripes (s : State) (f : Core → Core) : (s.updC f).stripes = s.stripes := rfl
@[simp] theorem State.updC_origins (s : State) (f : Core → Core) : (s.updC f).origins = s.origins := rfl
@[simp] theorem State.updC_migs (s : State) (f : Core → Core) : (s.updC f).migs = s.migs := rfl
@[simp] theorem State.updC_dies (s : State) (f : Core → Core) : (s.updC f).dies = s.dies := rfl
@[simp] theorem State.updC_launches (s : State) (f : Core → Core) : (s.updC f).launches = s.launches := rfl
@[simp] theorem State.updC_saved (s : State) (f : Core → Core) : (s.updC f).saved = s.saved := rfl
@[simp] theorem State.updC_banks (s : State) (f : Core → Core) : (s.updC f).banks = s.banks := rfl
@[simp] theorem State.updC_orphans (s : State) (f : Core → Core) : (s.updC f).orphans = s.orphans := rfl
@[simp] theorem State.updC_rseqs (s : State) (f : Core → Core) : (s.updC f).rseqs = s.rseqs := rfl
@[simp] theorem State.updC_host (s : State) (f : Core → Core) : (s.updC f).host = s.host := rfl
@[simp] theorem State.updC_ids (s : State) (f : Core → Core) : (s.updC f).ids = s.ids := rfl
@[simp] theorem State.updC_freeN (s : State) (f : Core → Core) : (s.updC f).freeN = s.freeN := rfl
@[simp] theorem State.updK_core (s : State) (k : Strm) (f : StrmSt → StrmSt) : (s.updK k f).core = s.core.setStrm k (f (s.core.strm k)) := rfl
@[simp] theorem State.updK_parked (s : State) (k : Strm) (f : StrmSt → StrmSt) : (s.updK k f).parked = s.parked := rfl
@[simp] theorem State.updK_cur (s : State) (k : Strm) (f : StrmSt → StrmSt) : (s.updK k f).cur = s.cur := rfl
@[simp] theorem State.updK_turn (s : State) (k : Strm) (f : StrmSt → StrmSt) : (s.updK k f).turn = s.turn := rfl
@[simp] theorem State.updK_agenda (s : State) (k : Strm) (f : StrmSt → StrmSt) : (s.updK k f).agenda = s.agenda := rfl
@[simp] theorem State.updK_msgs (s : State) (k : Strm) (f : StrmSt → StrmSt) : (s.updK k f).msgs = s.msgs := rfl
@[simp] theorem State.updK_gen (s : State) (k : Strm) (f : StrmSt → StrmSt) : (s.updK k f).gen = s.gen := rfl
@[simp] theorem State.updK_mem (s : State) (k : Strm) (f : StrmSt → StrmSt) : (s.updK k f).mem = s.mem := rfl
@[simp] theorem State.updK_poison (s : State) (k : Strm) (f : StrmSt → StrmSt) : (s.updK k f).poison = s.poison := rfl
@[simp] theorem State.updK_flashBad (s : State) (k : Strm) (f : StrmSt → StrmSt) : (s.updK k f).flashBad = s.flashBad := rfl
@[simp] theorem State.updK_flashLog (s : State) (k : Strm) (f : StrmSt → StrmSt) : (s.updK k f).flashLog = s.flashLog := rfl
@[simp] theorem State.updK_late (s : State) (k : Strm) (f : StrmSt → StrmSt) : (s.updK k f).late = s.late := rfl
@[simp] theorem State.updK_stripes (s : State) (k : Strm) (f : StrmSt → StrmSt) : (s.updK k f).stripes = s.stripes := rfl
@[simp] theorem State.updK_origins (s : State) (k : Strm) (f : StrmSt → StrmSt) : (s.updK k f).origins = s.origins := rfl
@[simp] theorem State.updK_migs (s : State) (k : Strm) (f : StrmSt → StrmSt) : (s.updK k f).migs = s.migs := rfl
@[simp] theorem State.updK_dies (s : State) (k : Strm) (f : StrmSt → StrmSt) : (s.updK k f).dies = s.dies := rfl
@[simp] theorem State.updK_launches (s : State) (k : Strm) (f : StrmSt → StrmSt) : (s.updK k f).launches = s.launches := rfl
@[simp] theorem State.updK_saved (s : State) (k : Strm) (f : StrmSt → StrmSt) : (s.updK k f).saved = s.saved := rfl
@[simp] theorem State.updK_banks (s : State) (k : Strm) (f : StrmSt → StrmSt) : (s.updK k f).banks = s.banks := rfl
@[simp] theorem State.updK_orphans (s : State) (k : Strm) (f : StrmSt → StrmSt) : (s.updK k f).orphans = s.orphans := rfl
@[simp] theorem State.updK_rseqs (s : State) (k : Strm) (f : StrmSt → StrmSt) : (s.updK k f).rseqs = s.rseqs := rfl
@[simp] theorem State.updK_host (s : State) (k : Strm) (f : StrmSt → StrmSt) : (s.updK k f).host = s.host := rfl
@[simp] theorem State.updK_ids (s : State) (k : Strm) (f : StrmSt → StrmSt) : (s.updK k f).ids = s.ids := rfl
@[simp] theorem State.updK_freeN (s : State) (k : Strm) (f : StrmSt → StrmSt) : (s.updK k f).freeN = s.freeN := rfl

/-! ### State: dies, the host's side, identities -/

@[simp] theorem State.setDie_core (s : State) (d : Nat) (x : Die) : (s.setDie d x).core = s.core := rfl
@[simp] theorem State.setDie_parked (s : State) (d : Nat) (x : Die) : (s.setDie d x).parked = s.parked := rfl
@[simp] theorem State.setDie_cur (s : State) (d : Nat) (x : Die) : (s.setDie d x).cur = s.cur := rfl
@[simp] theorem State.setDie_turn (s : State) (d : Nat) (x : Die) : (s.setDie d x).turn = s.turn := rfl
@[simp] theorem State.setDie_agenda (s : State) (d : Nat) (x : Die) : (s.setDie d x).agenda = s.agenda := rfl
@[simp] theorem State.setDie_msgs (s : State) (d : Nat) (x : Die) : (s.setDie d x).msgs = s.msgs := rfl
@[simp] theorem State.setDie_gen (s : State) (d : Nat) (x : Die) : (s.setDie d x).gen = s.gen := rfl
@[simp] theorem State.setDie_mem (s : State) (d : Nat) (x : Die) : (s.setDie d x).mem = s.mem := rfl
@[simp] theorem State.setDie_poison (s : State) (d : Nat) (x : Die) : (s.setDie d x).poison = s.poison := rfl
@[simp] theorem State.setDie_flashBad (s : State) (d : Nat) (x : Die) : (s.setDie d x).flashBad = s.flashBad := rfl
@[simp] theorem State.setDie_flashLog (s : State) (d : Nat) (x : Die) : (s.setDie d x).flashLog = s.flashLog := rfl
@[simp] theorem State.setDie_late (s : State) (d : Nat) (x : Die) : (s.setDie d x).late = s.late := rfl
@[simp] theorem State.setDie_stripes (s : State) (d : Nat) (x : Die) : (s.setDie d x).stripes = s.stripes := rfl
@[simp] theorem State.setDie_origins (s : State) (d : Nat) (x : Die) : (s.setDie d x).origins = s.origins := rfl
@[simp] theorem State.setDie_migs (s : State) (d : Nat) (x : Die) : (s.setDie d x).migs = s.migs := rfl
@[simp] theorem State.setDie_dies (s : State) (d : Nat) (x : Die) : (s.setDie d x).dies = s.dies.set d x := rfl
@[simp] theorem State.setDie_launches (s : State) (d : Nat) (x : Die) : (s.setDie d x).launches = s.launches := rfl
@[simp] theorem State.setDie_saved (s : State) (d : Nat) (x : Die) : (s.setDie d x).saved = s.saved := rfl
@[simp] theorem State.setDie_banks (s : State) (d : Nat) (x : Die) : (s.setDie d x).banks = s.banks := rfl
@[simp] theorem State.setDie_orphans (s : State) (d : Nat) (x : Die) : (s.setDie d x).orphans = s.orphans := rfl
@[simp] theorem State.setDie_rseqs (s : State) (d : Nat) (x : Die) : (s.setDie d x).rseqs = s.rseqs := rfl
@[simp] theorem State.setDie_host (s : State) (d : Nat) (x : Die) : (s.setDie d x).host = s.host := rfl
@[simp] theorem State.setDie_ids (s : State) (d : Nat) (x : Die) : (s.setDie d x).ids = s.ids := rfl
@[simp] theorem State.setDie_freeN (s : State) (d : Nat) (x : Die) : (s.setDie d x).freeN = s.freeN := rfl
@[simp] theorem State.updDie_core (s : State) (d : Nat) (f : Die → Die) : (s.updDie d f).core = s.core := rfl
@[simp] theorem State.updDie_parked (s : State) (d : Nat) (f : Die → Die) : (s.updDie d f).parked = s.parked := rfl
@[simp] theorem State.updDie_cur (s : State) (d : Nat) (f : Die → Die) : (s.updDie d f).cur = s.cur := rfl
@[simp] theorem State.updDie_turn (s : State) (d : Nat) (f : Die → Die) : (s.updDie d f).turn = s.turn := rfl
@[simp] theorem State.updDie_agenda (s : State) (d : Nat) (f : Die → Die) : (s.updDie d f).agenda = s.agenda := rfl
@[simp] theorem State.updDie_msgs (s : State) (d : Nat) (f : Die → Die) : (s.updDie d f).msgs = s.msgs := rfl
@[simp] theorem State.updDie_gen (s : State) (d : Nat) (f : Die → Die) : (s.updDie d f).gen = s.gen := rfl
@[simp] theorem State.updDie_mem (s : State) (d : Nat) (f : Die → Die) : (s.updDie d f).mem = s.mem := rfl
@[simp] theorem State.updDie_poison (s : State) (d : Nat) (f : Die → Die) : (s.updDie d f).poison = s.poison := rfl
@[simp] theorem State.updDie_flashBad (s : State) (d : Nat) (f : Die → Die) : (s.updDie d f).flashBad = s.flashBad := rfl
@[simp] theorem State.updDie_flashLog (s : State) (d : Nat) (f : Die → Die) : (s.updDie d f).flashLog = s.flashLog := rfl
@[simp] theorem State.updDie_late (s : State) (d : Nat) (f : Die → Die) : (s.updDie d f).late = s.late := rfl
@[simp] theorem State.updDie_stripes (s : State) (d : Nat) (f : Die → Die) : (s.updDie d f).stripes = s.stripes := rfl
@[simp] theorem State.updDie_origins (s : State) (d : Nat) (f : Die → Die) : (s.updDie d f).origins = s.origins := rfl
@[simp] theorem State.updDie_migs (s : State) (d : Nat) (f : Die → Die) : (s.updDie d f).migs = s.migs := rfl
@[simp] theorem State.updDie_dies (s : State) (d : Nat) (f : Die → Die) : (s.updDie d f).dies = s.dies.set d (f (s.die d)) := rfl
@[simp] theorem State.updDie_launches (s : State) (d : Nat) (f : Die → Die) : (s.updDie d f).launches = s.launches := rfl
@[simp] theorem State.updDie_saved (s : State) (d : Nat) (f : Die → Die) : (s.updDie d f).saved = s.saved := rfl
@[simp] theorem State.updDie_banks (s : State) (d : Nat) (f : Die → Die) : (s.updDie d f).banks = s.banks := rfl
@[simp] theorem State.updDie_orphans (s : State) (d : Nat) (f : Die → Die) : (s.updDie d f).orphans = s.orphans := rfl
@[simp] theorem State.updDie_rseqs (s : State) (d : Nat) (f : Die → Die) : (s.updDie d f).rseqs = s.rseqs := rfl
@[simp] theorem State.updDie_host (s : State) (d : Nat) (f : Die → Die) : (s.updDie d f).host = s.host := rfl
@[simp] theorem State.updDie_ids (s : State) (d : Nat) (f : Die → Die) : (s.updDie d f).ids = s.ids := rfl
@[simp] theorem State.updDie_freeN (s : State) (d : Nat) (f : Die → Die) : (s.updDie d f).freeN = s.freeN := rfl
@[simp] theorem State.updHost_core (s : State) (f : HostSt → HostSt) : (s.updHost f).core = s.core := rfl
@[simp] theorem State.updHost_parked (s : State) (f : HostSt → HostSt) : (s.updHost f).parked = s.parked := rfl
@[simp] theorem State.updHost_cur (s : State) (f : HostSt → HostSt) : (s.updHost f).cur = s.cur := rfl
@[simp] theorem State.updHost_turn (s : State) (f : HostSt → HostSt) : (s.updHost f).turn = s.turn := rfl
@[simp] theorem State.updHost_agenda (s : State) (f : HostSt → HostSt) : (s.updHost f).agenda = s.agenda := rfl
@[simp] theorem State.updHost_msgs (s : State) (f : HostSt → HostSt) : (s.updHost f).msgs = s.msgs := rfl
@[simp] theorem State.updHost_gen (s : State) (f : HostSt → HostSt) : (s.updHost f).gen = s.gen := rfl
@[simp] theorem State.updHost_mem (s : State) (f : HostSt → HostSt) : (s.updHost f).mem = s.mem := rfl
@[simp] theorem State.updHost_poison (s : State) (f : HostSt → HostSt) : (s.updHost f).poison = s.poison := rfl
@[simp] theorem State.updHost_flashBad (s : State) (f : HostSt → HostSt) : (s.updHost f).flashBad = s.flashBad := rfl
@[simp] theorem State.updHost_flashLog (s : State) (f : HostSt → HostSt) : (s.updHost f).flashLog = s.flashLog := rfl
@[simp] theorem State.updHost_late (s : State) (f : HostSt → HostSt) : (s.updHost f).late = s.late := rfl
@[simp] theorem State.updHost_stripes (s : State) (f : HostSt → HostSt) : (s.updHost f).stripes = s.stripes := rfl
@[simp] theorem State.updHost_origins (s : State) (f : HostSt → HostSt) : (s.updHost f).origins = s.origins := rfl
@[simp] theorem State.updHost_migs (s : State) (f : HostSt → HostSt) : (s.updHost f).migs = s.migs := rfl
@[simp] theorem State.updHost_dies (s : State) (f : HostSt → HostSt) : (s.updHost f).dies = s.dies := rfl
@[simp] theorem State.updHost_launches (s : State) (f : HostSt → HostSt) : (s.updHost f).launches = s.launches := rfl
@[simp] theorem State.updHost_saved (s : State) (f : HostSt → HostSt) : (s.updHost f).saved = s.saved := rfl
@[simp] theorem State.updHost_banks (s : State) (f : HostSt → HostSt) : (s.updHost f).banks = s.banks := rfl
@[simp] theorem State.updHost_orphans (s : State) (f : HostSt → HostSt) : (s.updHost f).orphans = s.orphans := rfl
@[simp] theorem State.updHost_rseqs (s : State) (f : HostSt → HostSt) : (s.updHost f).rseqs = s.rseqs := rfl
@[simp] theorem State.updHost_host (s : State) (f : HostSt → HostSt) : (s.updHost f).host = f s.host := rfl
@[simp] theorem State.updHost_ids (s : State) (f : HostSt → HostSt) : (s.updHost f).ids = s.ids := rfl
@[simp] theorem State.updHost_freeN (s : State) (f : HostSt → HostSt) : (s.updHost f).freeN = s.freeN := rfl
@[simp] theorem State.msix_core (s : State) (v : Nat) : (s.msix v).core = s.core := rfl
@[simp] theorem State.msix_parked (s : State) (v : Nat) : (s.msix v).parked = s.parked := rfl
@[simp] theorem State.msix_cur (s : State) (v : Nat) : (s.msix v).cur = s.cur := rfl
@[simp] theorem State.msix_turn (s : State) (v : Nat) : (s.msix v).turn = s.turn := rfl
@[simp] theorem State.msix_agenda (s : State) (v : Nat) : (s.msix v).agenda = s.agenda := rfl
@[simp] theorem State.msix_msgs (s : State) (v : Nat) : (s.msix v).msgs = s.msgs := rfl
@[simp] theorem State.msix_gen (s : State) (v : Nat) : (s.msix v).gen = s.gen := rfl
@[simp] theorem State.msix_mem (s : State) (v : Nat) : (s.msix v).mem = s.mem := rfl
@[simp] theorem State.msix_poison (s : State) (v : Nat) : (s.msix v).poison = s.poison := rfl
@[simp] theorem State.msix_flashBad (s : State) (v : Nat) : (s.msix v).flashBad = s.flashBad := rfl
@[simp] theorem State.msix_flashLog (s : State) (v : Nat) : (s.msix v).flashLog = s.flashLog := rfl
@[simp] theorem State.msix_late (s : State) (v : Nat) : (s.msix v).late = s.late := rfl
@[simp] theorem State.msix_stripes (s : State) (v : Nat) : (s.msix v).stripes = s.stripes := rfl
@[simp] theorem State.msix_origins (s : State) (v : Nat) : (s.msix v).origins = s.origins := rfl
@[simp] theorem State.msix_migs (s : State) (v : Nat) : (s.msix v).migs = s.migs := rfl
@[simp] theorem State.msix_dies (s : State) (v : Nat) : (s.msix v).dies = s.dies := rfl
@[simp] theorem State.msix_launches (s : State) (v : Nat) : (s.msix v).launches = s.launches := rfl
@[simp] theorem State.msix_saved (s : State) (v : Nat) : (s.msix v).saved = s.saved := rfl
@[simp] theorem State.msix_banks (s : State) (v : Nat) : (s.msix v).banks = s.banks := rfl
@[simp] theorem State.msix_orphans (s : State) (v : Nat) : (s.msix v).orphans = s.orphans := rfl
@[simp] theorem State.msix_rseqs (s : State) (v : Nat) : (s.msix v).rseqs = s.rseqs := rfl
@[simp] theorem State.msix_ids (s : State) (v : Nat) : (s.msix v).ids = s.ids := rfl
@[simp] theorem State.msix_freeN (s : State) (v : Nat) : (s.msix v).freeN = s.freeN := rfl
@[simp] theorem State.fresh_core (s : State) : (s.fresh.2).core = s.core := rfl
@[simp] theorem State.fresh_parked (s : State) : (s.fresh.2).parked = s.parked := rfl
@[simp] theorem State.fresh_cur (s : State) : (s.fresh.2).cur = s.cur := rfl
@[simp] theorem State.fresh_turn (s : State) : (s.fresh.2).turn = s.turn := rfl
@[simp] theorem State.fresh_agenda (s : State) : (s.fresh.2).agenda = s.agenda := rfl
@[simp] theorem State.fresh_msgs (s : State) : (s.fresh.2).msgs = s.msgs := rfl
@[simp] theorem State.fresh_gen (s : State) : (s.fresh.2).gen = s.gen := rfl
@[simp] theorem State.fresh_mem (s : State) : (s.fresh.2).mem = s.mem := rfl
@[simp] theorem State.fresh_poison (s : State) : (s.fresh.2).poison = s.poison := rfl
@[simp] theorem State.fresh_flashBad (s : State) : (s.fresh.2).flashBad = s.flashBad := rfl
@[simp] theorem State.fresh_flashLog (s : State) : (s.fresh.2).flashLog = s.flashLog := rfl
@[simp] theorem State.fresh_late (s : State) : (s.fresh.2).late = s.late := rfl
@[simp] theorem State.fresh_stripes (s : State) : (s.fresh.2).stripes = s.stripes := rfl
@[simp] theorem State.fresh_origins (s : State) : (s.fresh.2).origins = s.origins := rfl
@[simp] theorem State.fresh_migs (s : State) : (s.fresh.2).migs = s.migs := rfl
@[simp] theorem State.fresh_dies (s : State) : (s.fresh.2).dies = s.dies := rfl
@[simp] theorem State.fresh_launches (s : State) : (s.fresh.2).launches = s.launches := rfl
@[simp] theorem State.fresh_saved (s : State) : (s.fresh.2).saved = s.saved := rfl
@[simp] theorem State.fresh_banks (s : State) : (s.fresh.2).banks = s.banks := rfl
@[simp] theorem State.fresh_orphans (s : State) : (s.fresh.2).orphans = s.orphans := rfl
@[simp] theorem State.fresh_rseqs (s : State) : (s.fresh.2).rseqs = s.rseqs := rfl
@[simp] theorem State.fresh_host (s : State) : (s.fresh.2).host = s.host := rfl
@[simp] theorem State.fresh_ids (s : State) : (s.fresh.2).ids = s.ids + 1 := rfl
@[simp] theorem State.fresh_freeN (s : State) : (s.fresh.2).freeN = s.freeN := rfl
@[simp] theorem State.updCtx_core (s : State) (d n : Nat) (f : Ctx → Ctx) : (s.updCtx d n f).core = s.core := rfl
@[simp] theorem State.updCtx_parked (s : State) (d n : Nat) (f : Ctx → Ctx) : (s.updCtx d n f).parked = s.parked := rfl
@[simp] theorem State.updCtx_cur (s : State) (d n : Nat) (f : Ctx → Ctx) : (s.updCtx d n f).cur = s.cur := rfl
@[simp] theorem State.updCtx_turn (s : State) (d n : Nat) (f : Ctx → Ctx) : (s.updCtx d n f).turn = s.turn := rfl
@[simp] theorem State.updCtx_agenda (s : State) (d n : Nat) (f : Ctx → Ctx) : (s.updCtx d n f).agenda = s.agenda := rfl
@[simp] theorem State.updCtx_msgs (s : State) (d n : Nat) (f : Ctx → Ctx) : (s.updCtx d n f).msgs = s.msgs := rfl
@[simp] theorem State.updCtx_gen (s : State) (d n : Nat) (f : Ctx → Ctx) : (s.updCtx d n f).gen = s.gen := rfl
@[simp] theorem State.updCtx_mem (s : State) (d n : Nat) (f : Ctx → Ctx) : (s.updCtx d n f).mem = s.mem := rfl
@[simp] theorem State.updCtx_poison (s : State) (d n : Nat) (f : Ctx → Ctx) : (s.updCtx d n f).poison = s.poison := rfl
@[simp] theorem State.updCtx_flashBad (s : State) (d n : Nat) (f : Ctx → Ctx) : (s.updCtx d n f).flashBad = s.flashBad := rfl
@[simp] theorem State.updCtx_flashLog (s : State) (d n : Nat) (f : Ctx → Ctx) : (s.updCtx d n f).flashLog = s.flashLog := rfl
@[simp] theorem State.updCtx_late (s : State) (d n : Nat) (f : Ctx → Ctx) : (s.updCtx d n f).late = s.late := rfl
@[simp] theorem State.updCtx_stripes (s : State) (d n : Nat) (f : Ctx → Ctx) : (s.updCtx d n f).stripes = s.stripes := rfl
@[simp] theorem State.updCtx_origins (s : State) (d n : Nat) (f : Ctx → Ctx) : (s.updCtx d n f).origins = s.origins := rfl
@[simp] theorem State.updCtx_migs (s : State) (d n : Nat) (f : Ctx → Ctx) : (s.updCtx d n f).migs = s.migs := rfl
@[simp] theorem State.updCtx_launches (s : State) (d n : Nat) (f : Ctx → Ctx) : (s.updCtx d n f).launches = s.launches := rfl
@[simp] theorem State.updCtx_saved (s : State) (d n : Nat) (f : Ctx → Ctx) : (s.updCtx d n f).saved = s.saved := rfl
@[simp] theorem State.updCtx_banks (s : State) (d n : Nat) (f : Ctx → Ctx) : (s.updCtx d n f).banks = s.banks := rfl
@[simp] theorem State.updCtx_orphans (s : State) (d n : Nat) (f : Ctx → Ctx) : (s.updCtx d n f).orphans = s.orphans := rfl
@[simp] theorem State.updCtx_rseqs (s : State) (d n : Nat) (f : Ctx → Ctx) : (s.updCtx d n f).rseqs = s.rseqs := rfl
@[simp] theorem State.updCtx_host (s : State) (d n : Nat) (f : Ctx → Ctx) : (s.updCtx d n f).host = s.host := rfl
@[simp] theorem State.updCtx_ids (s : State) (d n : Nat) (f : Ctx → Ctx) : (s.updCtx d n f).ids = s.ids := rfl
@[simp] theorem State.updCtx_freeN (s : State) (d n : Nat) (f : Ctx → Ctx) : (s.updCtx d n f).freeN = s.freeN := rfl
@[simp] theorem State.updAttn_core (s : State) (d n : Nat) (f : Attn → Attn) : (s.updAttn d n f).core = s.core := rfl
@[simp] theorem State.updAttn_parked (s : State) (d n : Nat) (f : Attn → Attn) : (s.updAttn d n f).parked = s.parked := rfl
@[simp] theorem State.updAttn_cur (s : State) (d n : Nat) (f : Attn → Attn) : (s.updAttn d n f).cur = s.cur := rfl
@[simp] theorem State.updAttn_turn (s : State) (d n : Nat) (f : Attn → Attn) : (s.updAttn d n f).turn = s.turn := rfl
@[simp] theorem State.updAttn_agenda (s : State) (d n : Nat) (f : Attn → Attn) : (s.updAttn d n f).agenda = s.agenda := rfl
@[simp] theorem State.updAttn_msgs (s : State) (d n : Nat) (f : Attn → Attn) : (s.updAttn d n f).msgs = s.msgs := rfl
@[simp] theorem State.updAttn_gen (s : State) (d n : Nat) (f : Attn → Attn) : (s.updAttn d n f).gen = s.gen := rfl
@[simp] theorem State.updAttn_mem (s : State) (d n : Nat) (f : Attn → Attn) : (s.updAttn d n f).mem = s.mem := rfl
@[simp] theorem State.updAttn_poison (s : State) (d n : Nat) (f : Attn → Attn) : (s.updAttn d n f).poison = s.poison := rfl
@[simp] theorem State.updAttn_flashBad (s : State) (d n : Nat) (f : Attn → Attn) : (s.updAttn d n f).flashBad = s.flashBad := rfl
@[simp] theorem State.updAttn_flashLog (s : State) (d n : Nat) (f : Attn → Attn) : (s.updAttn d n f).flashLog = s.flashLog := rfl
@[simp] theorem State.updAttn_late (s : State) (d n : Nat) (f : Attn → Attn) : (s.updAttn d n f).late = s.late := rfl
@[simp] theorem State.updAttn_stripes (s : State) (d n : Nat) (f : Attn → Attn) : (s.updAttn d n f).stripes = s.stripes := rfl
@[simp] theorem State.updAttn_origins (s : State) (d n : Nat) (f : Attn → Attn) : (s.updAttn d n f).origins = s.origins := rfl
@[simp] theorem State.updAttn_migs (s : State) (d n : Nat) (f : Attn → Attn) : (s.updAttn d n f).migs = s.migs := rfl
@[simp] theorem State.updAttn_launches (s : State) (d n : Nat) (f : Attn → Attn) : (s.updAttn d n f).launches = s.launches := rfl
@[simp] theorem State.updAttn_saved (s : State) (d n : Nat) (f : Attn → Attn) : (s.updAttn d n f).saved = s.saved := rfl
@[simp] theorem State.updAttn_banks (s : State) (d n : Nat) (f : Attn → Attn) : (s.updAttn d n f).banks = s.banks := rfl
@[simp] theorem State.updAttn_orphans (s : State) (d n : Nat) (f : Attn → Attn) : (s.updAttn d n f).orphans = s.orphans := rfl
@[simp] theorem State.updAttn_rseqs (s : State) (d n : Nat) (f : Attn → Attn) : (s.updAttn d n f).rseqs = s.rseqs := rfl
@[simp] theorem State.updAttn_host (s : State) (d n : Nat) (f : Attn → Attn) : (s.updAttn d n f).host = s.host := rfl
@[simp] theorem State.updAttn_ids (s : State) (d n : Nat) (f : Attn → Attn) : (s.updAttn d n f).ids = s.ids := rfl
@[simp] theorem State.updAttn_freeN (s : State) (d n : Nat) (f : Attn → Attn) : (s.updAttn d n f).freeN = s.freeN := rfl
@[simp] theorem State.setPan_core (s : State) (d n : Nat) (p : PanSlot) : (s.setPan d n p).core = s.core := rfl
@[simp] theorem State.setPan_parked (s : State) (d n : Nat) (p : PanSlot) : (s.setPan d n p).parked = s.parked := rfl
@[simp] theorem State.setPan_cur (s : State) (d n : Nat) (p : PanSlot) : (s.setPan d n p).cur = s.cur := rfl
@[simp] theorem State.setPan_turn (s : State) (d n : Nat) (p : PanSlot) : (s.setPan d n p).turn = s.turn := rfl
@[simp] theorem State.setPan_agenda (s : State) (d n : Nat) (p : PanSlot) : (s.setPan d n p).agenda = s.agenda := rfl
@[simp] theorem State.setPan_msgs (s : State) (d n : Nat) (p : PanSlot) : (s.setPan d n p).msgs = s.msgs := rfl
@[simp] theorem State.setPan_gen (s : State) (d n : Nat) (p : PanSlot) : (s.setPan d n p).gen = s.gen := rfl
@[simp] theorem State.setPan_mem (s : State) (d n : Nat) (p : PanSlot) : (s.setPan d n p).mem = s.mem := rfl
@[simp] theorem State.setPan_poison (s : State) (d n : Nat) (p : PanSlot) : (s.setPan d n p).poison = s.poison := rfl
@[simp] theorem State.setPan_flashBad (s : State) (d n : Nat) (p : PanSlot) : (s.setPan d n p).flashBad = s.flashBad := rfl
@[simp] theorem State.setPan_flashLog (s : State) (d n : Nat) (p : PanSlot) : (s.setPan d n p).flashLog = s.flashLog := rfl
@[simp] theorem State.setPan_late (s : State) (d n : Nat) (p : PanSlot) : (s.setPan d n p).late = s.late := rfl
@[simp] theorem State.setPan_stripes (s : State) (d n : Nat) (p : PanSlot) : (s.setPan d n p).stripes = s.stripes := rfl
@[simp] theorem State.setPan_origins (s : State) (d n : Nat) (p : PanSlot) : (s.setPan d n p).origins = s.origins := rfl
@[simp] theorem State.setPan_migs (s : State) (d n : Nat) (p : PanSlot) : (s.setPan d n p).migs = s.migs := rfl
@[simp] theorem State.setPan_launches (s : State) (d n : Nat) (p : PanSlot) : (s.setPan d n p).launches = s.launches := rfl
@[simp] theorem State.setPan_saved (s : State) (d n : Nat) (p : PanSlot) : (s.setPan d n p).saved = s.saved := rfl
@[simp] theorem State.setPan_banks (s : State) (d n : Nat) (p : PanSlot) : (s.setPan d n p).banks = s.banks := rfl
@[simp] theorem State.setPan_orphans (s : State) (d n : Nat) (p : PanSlot) : (s.setPan d n p).orphans = s.orphans := rfl
@[simp] theorem State.setPan_rseqs (s : State) (d n : Nat) (p : PanSlot) : (s.setPan d n p).rseqs = s.rseqs := rfl
@[simp] theorem State.setPan_host (s : State) (d n : Nat) (p : PanSlot) : (s.setPan d n p).host = s.host := rfl
@[simp] theorem State.setPan_ids (s : State) (d n : Nat) (p : PanSlot) : (s.setPan d n p).ids = s.ids := rfl
@[simp] theorem State.setPan_freeN (s : State) (d n : Nat) (p : PanSlot) : (s.setPan d n p).freeN = s.freeN := rfl
@[simp] theorem State.updEnd_core (s : State) (d n : Nat) (f : ChEnd → ChEnd) : (s.updEnd d n f).core = s.core := rfl
@[simp] theorem State.updEnd_parked (s : State) (d n : Nat) (f : ChEnd → ChEnd) : (s.updEnd d n f).parked = s.parked := rfl
@[simp] theorem State.updEnd_cur (s : State) (d n : Nat) (f : ChEnd → ChEnd) : (s.updEnd d n f).cur = s.cur := rfl
@[simp] theorem State.updEnd_turn (s : State) (d n : Nat) (f : ChEnd → ChEnd) : (s.updEnd d n f).turn = s.turn := rfl
@[simp] theorem State.updEnd_agenda (s : State) (d n : Nat) (f : ChEnd → ChEnd) : (s.updEnd d n f).agenda = s.agenda := rfl
@[simp] theorem State.updEnd_msgs (s : State) (d n : Nat) (f : ChEnd → ChEnd) : (s.updEnd d n f).msgs = s.msgs := rfl
@[simp] theorem State.updEnd_gen (s : State) (d n : Nat) (f : ChEnd → ChEnd) : (s.updEnd d n f).gen = s.gen := rfl
@[simp] theorem State.updEnd_mem (s : State) (d n : Nat) (f : ChEnd → ChEnd) : (s.updEnd d n f).mem = s.mem := rfl
@[simp] theorem State.updEnd_poison (s : State) (d n : Nat) (f : ChEnd → ChEnd) : (s.updEnd d n f).poison = s.poison := rfl
@[simp] theorem State.updEnd_flashBad (s : State) (d n : Nat) (f : ChEnd → ChEnd) : (s.updEnd d n f).flashBad = s.flashBad := rfl
@[simp] theorem State.updEnd_flashLog (s : State) (d n : Nat) (f : ChEnd → ChEnd) : (s.updEnd d n f).flashLog = s.flashLog := rfl
@[simp] theorem State.updEnd_late (s : State) (d n : Nat) (f : ChEnd → ChEnd) : (s.updEnd d n f).late = s.late := rfl
@[simp] theorem State.updEnd_stripes (s : State) (d n : Nat) (f : ChEnd → ChEnd) : (s.updEnd d n f).stripes = s.stripes := rfl
@[simp] theorem State.updEnd_origins (s : State) (d n : Nat) (f : ChEnd → ChEnd) : (s.updEnd d n f).origins = s.origins := rfl
@[simp] theorem State.updEnd_migs (s : State) (d n : Nat) (f : ChEnd → ChEnd) : (s.updEnd d n f).migs = s.migs := rfl
@[simp] theorem State.updEnd_launches (s : State) (d n : Nat) (f : ChEnd → ChEnd) : (s.updEnd d n f).launches = s.launches := rfl
@[simp] theorem State.updEnd_saved (s : State) (d n : Nat) (f : ChEnd → ChEnd) : (s.updEnd d n f).saved = s.saved := rfl
@[simp] theorem State.updEnd_banks (s : State) (d n : Nat) (f : ChEnd → ChEnd) : (s.updEnd d n f).banks = s.banks := rfl
@[simp] theorem State.updEnd_orphans (s : State) (d n : Nat) (f : ChEnd → ChEnd) : (s.updEnd d n f).orphans = s.orphans := rfl
@[simp] theorem State.updEnd_rseqs (s : State) (d n : Nat) (f : ChEnd → ChEnd) : (s.updEnd d n f).rseqs = s.rseqs := rfl
@[simp] theorem State.updEnd_host (s : State) (d n : Nat) (f : ChEnd → ChEnd) : (s.updEnd d n f).host = s.host := rfl
@[simp] theorem State.updEnd_ids (s : State) (d n : Nat) (f : ChEnd → ChEnd) : (s.updEnd d n f).ids = s.ids := rfl
@[simp] theorem State.updEnd_freeN (s : State) (d n : Nat) (f : ChEnd → ChEnd) : (s.updEnd d n f).freeN = s.freeN := rfl
@[simp] theorem State.updPort_core (s : State) (n : Nat) (f : WPort → WPort) : (s.updPort n f).core = s.core := rfl
@[simp] theorem State.updPort_parked (s : State) (n : Nat) (f : WPort → WPort) : (s.updPort n f).parked = s.parked := rfl
@[simp] theorem State.updPort_cur (s : State) (n : Nat) (f : WPort → WPort) : (s.updPort n f).cur = s.cur := rfl
@[simp] theorem State.updPort_turn (s : State) (n : Nat) (f : WPort → WPort) : (s.updPort n f).turn = s.turn := rfl
@[simp] theorem State.updPort_agenda (s : State) (n : Nat) (f : WPort → WPort) : (s.updPort n f).agenda = s.agenda := rfl
@[simp] theorem State.updPort_msgs (s : State) (n : Nat) (f : WPort → WPort) : (s.updPort n f).msgs = s.msgs := rfl
@[simp] theorem State.updPort_gen (s : State) (n : Nat) (f : WPort → WPort) : (s.updPort n f).gen = s.gen := rfl
@[simp] theorem State.updPort_mem (s : State) (n : Nat) (f : WPort → WPort) : (s.updPort n f).mem = s.mem := rfl
@[simp] theorem State.updPort_poison (s : State) (n : Nat) (f : WPort → WPort) : (s.updPort n f).poison = s.poison := rfl
@[simp] theorem State.updPort_flashBad (s : State) (n : Nat) (f : WPort → WPort) : (s.updPort n f).flashBad = s.flashBad := rfl
@[simp] theorem State.updPort_flashLog (s : State) (n : Nat) (f : WPort → WPort) : (s.updPort n f).flashLog = s.flashLog := rfl
@[simp] theorem State.updPort_late (s : State) (n : Nat) (f : WPort → WPort) : (s.updPort n f).late = s.late := rfl
@[simp] theorem State.updPort_stripes (s : State) (n : Nat) (f : WPort → WPort) : (s.updPort n f).stripes = s.stripes := rfl
@[simp] theorem State.updPort_origins (s : State) (n : Nat) (f : WPort → WPort) : (s.updPort n f).origins = s.origins := rfl
@[simp] theorem State.updPort_migs (s : State) (n : Nat) (f : WPort → WPort) : (s.updPort n f).migs = s.migs := rfl
@[simp] theorem State.updPort_dies (s : State) (n : Nat) (f : WPort → WPort) : (s.updPort n f).dies = s.dies := rfl
@[simp] theorem State.updPort_launches (s : State) (n : Nat) (f : WPort → WPort) : (s.updPort n f).launches = s.launches := rfl
@[simp] theorem State.updPort_saved (s : State) (n : Nat) (f : WPort → WPort) : (s.updPort n f).saved = s.saved := rfl
@[simp] theorem State.updPort_banks (s : State) (n : Nat) (f : WPort → WPort) : (s.updPort n f).banks = s.banks := rfl
@[simp] theorem State.updPort_orphans (s : State) (n : Nat) (f : WPort → WPort) : (s.updPort n f).orphans = s.orphans := rfl
@[simp] theorem State.updPort_rseqs (s : State) (n : Nat) (f : WPort → WPort) : (s.updPort n f).rseqs = s.rseqs := rfl
@[simp] theorem State.updPort_ids (s : State) (n : Nat) (f : WPort → WPort) : (s.updPort n f).ids = s.ids := rfl
@[simp] theorem State.updPort_freeN (s : State) (n : Nat) (f : WPort → WPort) : (s.updPort n f).freeN = s.freeN := rfl
@[simp] theorem State.updJob_cur (s : State) (l j : Nat) (f : Core → Core) : (s.updJob l j f).cur = s.cur := by
  unfold State.updJob; split <;> rfl
@[simp] theorem State.updJob_turn (s : State) (l j : Nat) (f : Core → Core) : (s.updJob l j f).turn = s.turn := by
  unfold State.updJob; split <;> rfl
@[simp] theorem State.updJob_agenda (s : State) (l j : Nat) (f : Core → Core) : (s.updJob l j f).agenda = s.agenda := by
  unfold State.updJob; split <;> rfl
@[simp] theorem State.updJob_msgs (s : State) (l j : Nat) (f : Core → Core) : (s.updJob l j f).msgs = s.msgs := by
  unfold State.updJob; split <;> rfl
@[simp] theorem State.updJob_gen (s : State) (l j : Nat) (f : Core → Core) : (s.updJob l j f).gen = s.gen := by
  unfold State.updJob; split <;> rfl
@[simp] theorem State.updJob_mem (s : State) (l j : Nat) (f : Core → Core) : (s.updJob l j f).mem = s.mem := by
  unfold State.updJob; split <;> rfl
@[simp] theorem State.updJob_poison (s : State) (l j : Nat) (f : Core → Core) : (s.updJob l j f).poison = s.poison := by
  unfold State.updJob; split <;> rfl
@[simp] theorem State.updJob_flashBad (s : State) (l j : Nat) (f : Core → Core) : (s.updJob l j f).flashBad = s.flashBad := by
  unfold State.updJob; split <;> rfl
@[simp] theorem State.updJob_flashLog (s : State) (l j : Nat) (f : Core → Core) : (s.updJob l j f).flashLog = s.flashLog := by
  unfold State.updJob; split <;> rfl
@[simp] theorem State.updJob_late (s : State) (l j : Nat) (f : Core → Core) : (s.updJob l j f).late = s.late := by
  unfold State.updJob; split <;> rfl
@[simp] theorem State.updJob_stripes (s : State) (l j : Nat) (f : Core → Core) : (s.updJob l j f).stripes = s.stripes := by
  unfold State.updJob; split <;> rfl
@[simp] theorem State.updJob_origins (s : State) (l j : Nat) (f : Core → Core) : (s.updJob l j f).origins = s.origins := by
  unfold State.updJob; split <;> rfl
@[simp] theorem State.updJob_migs (s : State) (l j : Nat) (f : Core → Core) : (s.updJob l j f).migs = s.migs := by
  unfold State.updJob; split <;> rfl
@[simp] theorem State.updJob_dies (s : State) (l j : Nat) (f : Core → Core) : (s.updJob l j f).dies = s.dies := by
  unfold State.updJob; split <;> rfl
@[simp] theorem State.updJob_launches (s : State) (l j : Nat) (f : Core → Core) : (s.updJob l j f).launches = s.launches := by
  unfold State.updJob; split <;> rfl
@[simp] theorem State.updJob_banks (s : State) (l j : Nat) (f : Core → Core) : (s.updJob l j f).banks = s.banks := by
  unfold State.updJob; split <;> rfl
@[simp] theorem State.updJob_orphans (s : State) (l j : Nat) (f : Core → Core) : (s.updJob l j f).orphans = s.orphans := by
  unfold State.updJob; split <;> rfl
@[simp] theorem State.updJob_rseqs (s : State) (l j : Nat) (f : Core → Core) : (s.updJob l j f).rseqs = s.rseqs := by
  unfold State.updJob; split <;> rfl
@[simp] theorem State.updJob_host (s : State) (l j : Nat) (f : Core → Core) : (s.updJob l j f).host = s.host := by
  unfold State.updJob; split <;> rfl
@[simp] theorem State.updJob_ids (s : State) (l j : Nat) (f : Core → Core) : (s.updJob l j f).ids = s.ids := by
  unfold State.updJob; split <;> rfl
@[simp] theorem State.updJob_freeN (s : State) (l j : Nat) (f : Core → Core) : (s.updJob l j f).freeN = s.freeN := by
  unfold State.updJob; split <;> rfl

/-! ### Core: a stream, registers, queues, ports, counters -/

@[simp] theorem Core.setStrm_did (c : Core) (k : Strm) (x : StrmSt) : (c.setStrm k x).did = c.did := by cases k <;> rfl
@[simp] theorem Core.setStrm_cid (c : Core) (k : Strm) (x : StrmSt) : (c.setStrm k x).cid = c.cid := by cases k <;> rfl
@[simp] theorem Core.setStrm_running (c : Core) (k : Strm) (x : StrmSt) : (c.setStrm k x).running = c.running := by cases k <;> rfl
@[simp] theorem Core.setStrm_lrec (c : Core) (k : Strm) (x : StrmSt) : (c.setStrm k x).lrec = c.lrec := by cases k <;> rfl
@[simp] theorem Core.setStrm_gangNo (c : Core) (k : Strm) (x : StrmSt) : (c.setStrm k x).gangNo = c.gangNo := by cases k <;> rfl
@[simp] theorem Core.setStrm_node (c : Core) (k : Strm) (x : StrmSt) : (c.setStrm k x).node = c.node := by cases k <;> rfl
@[simp] theorem Core.setStrm_job (c : Core) (k : Strm) (x : StrmSt) : (c.setStrm k x).job = c.job := by cases k <;> rfl
@[simp] theorem Core.setStrm_njob (c : Core) (k : Strm) (x : StrmSt) : (c.setStrm k x).njob = c.njob := by cases k <;> rfl
@[simp] theorem Core.setStrm_rank (c : Core) (k : Strm) (x : StrmSt) : (c.setStrm k x).rank = c.rank := by cases k <;> rfl
@[simp] theorem Core.setStrm_sys (c : Core) (k : Strm) (x : StrmSt) : (c.setStrm k x).sys = c.sys := by cases k <;> rfl
@[simp] theorem Core.setStrm_dbgOk (c : Core) (k : Strm) (x : StrmSt) : (c.setStrm k x).dbgOk = c.dbgOk := by cases k <;> rfl
@[simp] theorem Core.setStrm_pre (c : Core) (k : Strm) (x : StrmSt) : (c.setStrm k x).pre = c.pre := by cases k <;> rfl
@[simp] theorem Core.setStrm_canon (c : Core) (k : Strm) (x : StrmSt) : (c.setStrm k x).canon = c.canon := by cases k <;> rfl
@[simp] theorem Core.setStrm_vbank (c : Core) (k : Strm) (x : StrmSt) : (c.setStrm k x).vbank = c.vbank := by cases k <;> rfl
@[simp] theorem Core.setStrm_rakeW (c : Core) (k : Strm) (x : StrmSt) : (c.setStrm k x).rakeW = c.rakeW := by cases k <;> rfl
@[simp] theorem Core.setStrm_spx (c : Core) (k : Strm) (x : StrmSt) : (c.setStrm k x).spx = c.spx := by cases k <;> rfl
@[simp] theorem Core.setStrm_slot (c : Core) (k : Strm) (x : StrmSt) : (c.setStrm k x).slot = c.slot := by cases k <;> rfl
@[simp] theorem Core.setStrm_stopReq (c : Core) (k : Strm) (x : StrmSt) : (c.setStrm k x).stopReq = c.stopReq := by cases k <;> rfl
@[simp] theorem Core.setStrm_stopAs (c : Core) (k : Strm) (x : StrmSt) : (c.setStrm k x).stopAs = c.stopAs := by cases k <;> rfl
@[simp] theorem Core.setStrm_halted (c : Core) (k : Strm) (x : StrmSt) : (c.setStrm k x).halted = c.halted := by cases k <;> rfl
@[simp] theorem Core.setStrm_rcb (c : Core) (k : Strm) (x : StrmSt) : (c.setStrm k x).rcb = c.rcb := by cases k <;> rfl
@[simp] theorem Core.setStrm_jobv (c : Core) (k : Strm) (x : StrmSt) : (c.setStrm k x).jobv = c.jobv := by cases k <;> rfl
@[simp] theorem Core.setStrm_vregs (c : Core) (k : Strm) (x : StrmSt) : (c.setStrm k x).vregs = c.vregs := by cases k <;> rfl
@[simp] theorem Core.setStrm_banks (c : Core) (k : Strm) (x : StrmSt) : (c.setStrm k x).banks = c.banks := by cases k <;> rfl
@[simp] theorem Core.setStrm_masks (c : Core) (k : Strm) (x : StrmSt) : (c.setStrm k x).masks = c.masks := by cases k <;> rfl
@[simp] theorem Core.setStrm_tiles (c : Core) (k : Strm) (x : StrmSt) : (c.setStrm k x).tiles = c.tiles := by cases k <;> rfl
@[simp] theorem Core.setStrm_queues (c : Core) (k : Strm) (x : StrmSt) : (c.setStrm k x).queues = c.queues := by cases k <;> rfl
@[simp] theorem Core.setStrm_ports (c : Core) (k : Strm) (x : StrmSt) : (c.setStrm k x).ports = c.ports := by cases k <;> rfl
@[simp] theorem Core.setStrm_fmt (c : Core) (k : Strm) (x : StrmSt) : (c.setStrm k x).fmt = c.fmt := by cases k <;> rfl
@[simp] theorem Core.setStrm_rng (c : Core) (k : Strm) (x : StrmSt) : (c.setStrm k x).rng = c.rng := by cases k <;> rfl
@[simp] theorem Core.setStrm_pending (c : Core) (k : Strm) (x : StrmSt) : (c.setStrm k x).pending = c.pending := by cases k <;> rfl
@[simp] theorem Core.setStrm_ops (c : Core) (k : Strm) (x : StrmSt) : (c.setStrm k x).ops = c.ops := by cases k <;> rfl
@[simp] theorem Core.setStrm_rake (c : Core) (k : Strm) (x : StrmSt) : (c.setStrm k x).rake = c.rake := by cases k <;> rfl
@[simp] theorem Core.setStrm_wins (c : Core) (k : Strm) (x : StrmSt) : (c.setStrm k x).wins = c.wins := by cases k <;> rfl
@[simp] theorem Core.setStrm_fetches (c : Core) (k : Strm) (x : StrmSt) : (c.setStrm k x).fetches = c.fetches := by cases k <;> rfl
@[simp] theorem Core.setStrm_cq (c : Core) (k : Strm) (x : StrmSt) : (c.setStrm k x).cq = c.cq := by cases k <;> rfl
@[simp] theorem Core.setStrm_pmc (c : Core) (k : Strm) (x : StrmSt) : (c.setStrm k x).pmc = c.pmc := by cases k <;> rfl
@[simp] theorem Core.setStrm_vbusy (c : Core) (k : Strm) (x : StrmSt) : (c.setStrm k x).vbusy = c.vbusy := by cases k <;> rfl
@[simp] theorem Core.setStrm_mbusy (c : Core) (k : Strm) (x : StrmSt) : (c.setStrm k x).mbusy = c.mbusy := by cases k <;> rfl
@[simp] theorem Core.setStrm_abusy (c : Core) (k : Strm) (x : StrmSt) : (c.setStrm k x).abusy = c.abusy := by cases k <;> rfl
@[simp] theorem Core.setStrm_portFrom (c : Core) (k : Strm) (x : StrmSt) : (c.setStrm k x).portFrom = c.portFrom := by cases k <;> rfl
@[simp] theorem Core.setStrm_portBusy (c : Core) (k : Strm) (x : StrmSt) : (c.setStrm k x).portBusy = c.portBusy := by cases k <;> rfl
@[simp] theorem Core.setStrm_portQ (c : Core) (k : Strm) (x : StrmSt) : (c.setStrm k x).portQ = c.portQ := by cases k <;> rfl
@[simp] theorem Core.setStrm_stalls (c : Core) (k : Strm) (x : StrmSt) : (c.setStrm k x).stalls = c.stalls := by cases k <;> rfl
@[simp] theorem Core.setStrm_turnAt (c : Core) (k : Strm) (x : StrmSt) : (c.setStrm k x).turnAt = c.turnAt := by cases k <;> rfl
@[simp] theorem Core.setStrm_viewAt (c : Core) (k : Strm) (x : StrmSt) : (c.setStrm k x).viewAt = c.viewAt := by cases k <;> rfl
@[simp] theorem Core.setStrm_tlb (c : Core) (k : Strm) (x : StrmSt) : (c.setStrm k x).tlb = c.tlb := by cases k <;> rfl
@[simp] theorem Core.setStrm_code (c : Core) (k : Strm) (x : StrmSt) : (c.setStrm k x).code = c.code := by cases k <;> rfl
@[simp] theorem Core.strm_setStrm (c : Core) (k : Strm) (x : StrmSt) : (c.setStrm k x).strm k = x := by cases k <;> rfl
theorem Core.strm_setStrm_other (c : Core) {k l : Strm} (x : StrmSt) (h : l ≠ k) : (c.setStrm k x).strm l = c.strm l := by
  cases k <;> cases l <;> first | rfl | exact absurd rfl h
@[simp] theorem Core.setMask_did (c : Core) (n : Nat) (v : BitVec 1024) : (c.setMask n v).did = c.did := by
  unfold Core.setMask; split <;> rfl
@[simp] theorem Core.setMask_cid (c : Core) (n : Nat) (v : BitVec 1024) : (c.setMask n v).cid = c.cid := by
  unfold Core.setMask; split <;> rfl
@[simp] theorem Core.setMask_running (c : Core) (n : Nat) (v : BitVec 1024) : (c.setMask n v).running = c.running := by
  unfold Core.setMask; split <;> rfl
@[simp] theorem Core.setMask_lrec (c : Core) (n : Nat) (v : BitVec 1024) : (c.setMask n v).lrec = c.lrec := by
  unfold Core.setMask; split <;> rfl
@[simp] theorem Core.setMask_gangNo (c : Core) (n : Nat) (v : BitVec 1024) : (c.setMask n v).gangNo = c.gangNo := by
  unfold Core.setMask; split <;> rfl
@[simp] theorem Core.setMask_node (c : Core) (n : Nat) (v : BitVec 1024) : (c.setMask n v).node = c.node := by
  unfold Core.setMask; split <;> rfl
@[simp] theorem Core.setMask_job (c : Core) (n : Nat) (v : BitVec 1024) : (c.setMask n v).job = c.job := by
  unfold Core.setMask; split <;> rfl
@[simp] theorem Core.setMask_njob (c : Core) (n : Nat) (v : BitVec 1024) : (c.setMask n v).njob = c.njob := by
  unfold Core.setMask; split <;> rfl
@[simp] theorem Core.setMask_rank (c : Core) (n : Nat) (v : BitVec 1024) : (c.setMask n v).rank = c.rank := by
  unfold Core.setMask; split <;> rfl
@[simp] theorem Core.setMask_sys (c : Core) (n : Nat) (v : BitVec 1024) : (c.setMask n v).sys = c.sys := by
  unfold Core.setMask; split <;> rfl
@[simp] theorem Core.setMask_dbgOk (c : Core) (n : Nat) (v : BitVec 1024) : (c.setMask n v).dbgOk = c.dbgOk := by
  unfold Core.setMask; split <;> rfl
@[simp] theorem Core.setMask_pre (c : Core) (n : Nat) (v : BitVec 1024) : (c.setMask n v).pre = c.pre := by
  unfold Core.setMask; split <;> rfl
@[simp] theorem Core.setMask_canon (c : Core) (n : Nat) (v : BitVec 1024) : (c.setMask n v).canon = c.canon := by
  unfold Core.setMask; split <;> rfl
@[simp] theorem Core.setMask_vbank (c : Core) (n : Nat) (v : BitVec 1024) : (c.setMask n v).vbank = c.vbank := by
  unfold Core.setMask; split <;> rfl
@[simp] theorem Core.setMask_rakeW (c : Core) (n : Nat) (v : BitVec 1024) : (c.setMask n v).rakeW = c.rakeW := by
  unfold Core.setMask; split <;> rfl
@[simp] theorem Core.setMask_spx (c : Core) (n : Nat) (v : BitVec 1024) : (c.setMask n v).spx = c.spx := by
  unfold Core.setMask; split <;> rfl
@[simp] theorem Core.setMask_slot (c : Core) (n : Nat) (v : BitVec 1024) : (c.setMask n v).slot = c.slot := by
  unfold Core.setMask; split <;> rfl
@[simp] theorem Core.setMask_stopReq (c : Core) (n : Nat) (v : BitVec 1024) : (c.setMask n v).stopReq = c.stopReq := by
  unfold Core.setMask; split <;> rfl
@[simp] theorem Core.setMask_stopAs (c : Core) (n : Nat) (v : BitVec 1024) : (c.setMask n v).stopAs = c.stopAs := by
  unfold Core.setMask; split <;> rfl
@[simp] theorem Core.setMask_halted (c : Core) (n : Nat) (v : BitVec 1024) : (c.setMask n v).halted = c.halted := by
  unfold Core.setMask; split <;> rfl
@[simp] theorem Core.setMask_rcb (c : Core) (n : Nat) (v : BitVec 1024) : (c.setMask n v).rcb = c.rcb := by
  unfold Core.setMask; split <;> rfl
@[simp] theorem Core.setMask_jobv (c : Core) (n : Nat) (v : BitVec 1024) : (c.setMask n v).jobv = c.jobv := by
  unfold Core.setMask; split <;> rfl
@[simp] theorem Core.setMask_sa (c : Core) (n : Nat) (v : BitVec 1024) : (c.setMask n v).sa = c.sa := by
  unfold Core.setMask; split <;> rfl
@[simp] theorem Core.setMask_sv (c : Core) (n : Nat) (v : BitVec 1024) : (c.setMask n v).sv = c.sv := by
  unfold Core.setMask; split <;> rfl
@[simp] theorem Core.setMask_sm (c : Core) (n : Nat) (v : BitVec 1024) : (c.setMask n v).sm = c.sm := by
  unfold Core.setMask; split <;> rfl
@[simp] theorem Core.setMask_vregs (c : Core) (n : Nat) (v : BitVec 1024) : (c.setMask n v).vregs = c.vregs := by
  unfold Core.setMask; split <;> rfl
@[simp] theorem Core.setMask_banks (c : Core) (n : Nat) (v : BitVec 1024) : (c.setMask n v).banks = c.banks := by
  unfold Core.setMask; split <;> rfl
@[simp] theorem Core.setMask_tiles (c : Core) (n : Nat) (v : BitVec 1024) : (c.setMask n v).tiles = c.tiles := by
  unfold Core.setMask; split <;> rfl
@[simp] theorem Core.setMask_queues (c : Core) (n : Nat) (v : BitVec 1024) : (c.setMask n v).queues = c.queues := by
  unfold Core.setMask; split <;> rfl
@[simp] theorem Core.setMask_ports (c : Core) (n : Nat) (v : BitVec 1024) : (c.setMask n v).ports = c.ports := by
  unfold Core.setMask; split <;> rfl
@[simp] theorem Core.setMask_fmt (c : Core) (n : Nat) (v : BitVec 1024) : (c.setMask n v).fmt = c.fmt := by
  unfold Core.setMask; split <;> rfl
@[simp] theorem Core.setMask_rng (c : Core) (n : Nat) (v : BitVec 1024) : (c.setMask n v).rng = c.rng := by
  unfold Core.setMask; split <;> rfl
@[simp] theorem Core.setMask_pending (c : Core) (n : Nat) (v : BitVec 1024) : (c.setMask n v).pending = c.pending := by
  unfold Core.setMask; split <;> rfl
@[simp] theorem Core.setMask_ops (c : Core) (n : Nat) (v : BitVec 1024) : (c.setMask n v).ops = c.ops := by
  unfold Core.setMask; split <;> rfl
@[simp] theorem Core.setMask_rake (c : Core) (n : Nat) (v : BitVec 1024) : (c.setMask n v).rake = c.rake := by
  unfold Core.setMask; split <;> rfl
@[simp] theorem Core.setMask_wins (c : Core) (n : Nat) (v : BitVec 1024) : (c.setMask n v).wins = c.wins := by
  unfold Core.setMask; split <;> rfl
@[simp] theorem Core.setMask_fetches (c : Core) (n : Nat) (v : BitVec 1024) : (c.setMask n v).fetches = c.fetches := by
  unfold Core.setMask; split <;> rfl
@[simp] theorem Core.setMask_cq (c : Core) (n : Nat) (v : BitVec 1024) : (c.setMask n v).cq = c.cq := by
  unfold Core.setMask; split <;> rfl
@[simp] theorem Core.setMask_pmc (c : Core) (n : Nat) (v : BitVec 1024) : (c.setMask n v).pmc = c.pmc := by
  unfold Core.setMask; split <;> rfl
@[simp] theorem Core.setMask_vbusy (c : Core) (n : Nat) (v : BitVec 1024) : (c.setMask n v).vbusy = c.vbusy := by
  unfold Core.setMask; split <;> rfl
@[simp] theorem Core.setMask_mbusy (c : Core) (n : Nat) (v : BitVec 1024) : (c.setMask n v).mbusy = c.mbusy := by
  unfold Core.setMask; split <;> rfl
@[simp] theorem Core.setMask_abusy (c : Core) (n : Nat) (v : BitVec 1024) : (c.setMask n v).abusy = c.abusy := by
  unfold Core.setMask; split <;> rfl
@[simp] theorem Core.setMask_portFrom (c : Core) (n : Nat) (v : BitVec 1024) : (c.setMask n v).portFrom = c.portFrom := by
  unfold Core.setMask; split <;> rfl
@[simp] theorem Core.setMask_portBusy (c : Core) (n : Nat) (v : BitVec 1024) : (c.setMask n v).portBusy = c.portBusy := by
  unfold Core.setMask; split <;> rfl
@[simp] theorem Core.setMask_portQ (c : Core) (n : Nat) (v : BitVec 1024) : (c.setMask n v).portQ = c.portQ := by
  unfold Core.setMask; split <;> rfl
@[simp] theorem Core.setMask_stalls (c : Core) (n : Nat) (v : BitVec 1024) : (c.setMask n v).stalls = c.stalls := by
  unfold Core.setMask; split <;> rfl
@[simp] theorem Core.setMask_turnAt (c : Core) (n : Nat) (v : BitVec 1024) : (c.setMask n v).turnAt = c.turnAt := by
  unfold Core.setMask; split <;> rfl
@[simp] theorem Core.setMask_viewAt (c : Core) (n : Nat) (v : BitVec 1024) : (c.setMask n v).viewAt = c.viewAt := by
  unfold Core.setMask; split <;> rfl
@[simp] theorem Core.setMask_tlb (c : Core) (n : Nat) (v : BitVec 1024) : (c.setMask n v).tlb = c.tlb := by
  unfold Core.setMask; split <;> rfl
@[simp] theorem Core.setMask_code (c : Core) (n : Nat) (v : BitVec 1024) : (c.setMask n v).code = c.code := by
  unfold Core.setMask; split <;> rfl
@[simp] theorem Core.setVreg_did (c : Core) (n : Nat) (v : VReg) : (c.setVreg n v).did = c.did := rfl
@[simp] theorem Core.setVreg_cid (c : Core) (n : Nat) (v : VReg) : (c.setVreg n v).cid = c.cid := rfl
@[simp] theorem Core.setVreg_running (c : Core) (n : Nat) (v : VReg) : (c.setVreg n v).running = c.running := rfl
@[simp] theorem Core.setVreg_lrec (c : Core) (n : Nat) (v : VReg) : (c.setVreg n v).lrec = c.lrec := rfl
@[simp] theorem Core.setVreg_gangNo (c : Core) (n : Nat) (v : VReg) : (c.setVreg n v).gangNo = c.gangNo := rfl
@[simp] theorem Core.setVreg_node (c : Core) (n : Nat) (v : VReg) : (c.setVreg n v).node = c.node := rfl
@[simp] theorem Core.setVreg_job (c : Core) (n : Nat) (v : VReg) : (c.setVreg n v).job = c.job := rfl
@[simp] theorem Core.setVreg_njob (c : Core) (n : Nat) (v : VReg) : (c.setVreg n v).njob = c.njob := rfl
@[simp] theorem Core.setVreg_rank (c : Core) (n : Nat) (v : VReg) : (c.setVreg n v).rank = c.rank := rfl
@[simp] theorem Core.setVreg_sys (c : Core) (n : Nat) (v : VReg) : (c.setVreg n v).sys = c.sys := rfl
@[simp] theorem Core.setVreg_dbgOk (c : Core) (n : Nat) (v : VReg) : (c.setVreg n v).dbgOk = c.dbgOk := rfl
@[simp] theorem Core.setVreg_pre (c : Core) (n : Nat) (v : VReg) : (c.setVreg n v).pre = c.pre := rfl
@[simp] theorem Core.setVreg_canon (c : Core) (n : Nat) (v : VReg) : (c.setVreg n v).canon = c.canon := rfl
@[simp] theorem Core.setVreg_vbank (c : Core) (n : Nat) (v : VReg) : (c.setVreg n v).vbank = c.vbank := rfl
@[simp] theorem Core.setVreg_rakeW (c : Core) (n : Nat) (v : VReg) : (c.setVreg n v).rakeW = c.rakeW := rfl
@[simp] theorem Core.setVreg_spx (c : Core) (n : Nat) (v : VReg) : (c.setVreg n v).spx = c.spx := rfl
@[simp] theorem Core.setVreg_slot (c : Core) (n : Nat) (v : VReg) : (c.setVreg n v).slot = c.slot := rfl
@[simp] theorem Core.setVreg_stopReq (c : Core) (n : Nat) (v : VReg) : (c.setVreg n v).stopReq = c.stopReq := rfl
@[simp] theorem Core.setVreg_stopAs (c : Core) (n : Nat) (v : VReg) : (c.setVreg n v).stopAs = c.stopAs := rfl
@[simp] theorem Core.setVreg_halted (c : Core) (n : Nat) (v : VReg) : (c.setVreg n v).halted = c.halted := rfl
@[simp] theorem Core.setVreg_rcb (c : Core) (n : Nat) (v : VReg) : (c.setVreg n v).rcb = c.rcb := rfl
@[simp] theorem Core.setVreg_jobv (c : Core) (n : Nat) (v : VReg) : (c.setVreg n v).jobv = c.jobv := rfl
@[simp] theorem Core.setVreg_sa (c : Core) (n : Nat) (v : VReg) : (c.setVreg n v).sa = c.sa := rfl
@[simp] theorem Core.setVreg_sv (c : Core) (n : Nat) (v : VReg) : (c.setVreg n v).sv = c.sv := rfl
@[simp] theorem Core.setVreg_sm (c : Core) (n : Nat) (v : VReg) : (c.setVreg n v).sm = c.sm := rfl
@[simp] theorem Core.setVreg_vregs (c : Core) (n : Nat) (v : VReg) : (c.setVreg n v).vregs = Sparse.set c.vregs n v := rfl
@[simp] theorem Core.setVreg_banks (c : Core) (n : Nat) (v : VReg) : (c.setVreg n v).banks = c.banks ||| (1#20 <<< (n / 32)) := rfl
@[simp] theorem Core.setVreg_masks (c : Core) (n : Nat) (v : VReg) : (c.setVreg n v).masks = c.masks := rfl
@[simp] theorem Core.setVreg_tiles (c : Core) (n : Nat) (v : VReg) : (c.setVreg n v).tiles = c.tiles := rfl
@[simp] theorem Core.setVreg_queues (c : Core) (n : Nat) (v : VReg) : (c.setVreg n v).queues = c.queues := rfl
@[simp] theorem Core.setVreg_ports (c : Core) (n : Nat) (v : VReg) : (c.setVreg n v).ports = c.ports := rfl
@[simp] theorem Core.setVreg_fmt (c : Core) (n : Nat) (v : VReg) : (c.setVreg n v).fmt = c.fmt := rfl
@[simp] theorem Core.setVreg_rng (c : Core) (n : Nat) (v : VReg) : (c.setVreg n v).rng = c.rng := rfl
@[simp] theorem Core.setVreg_pending (c : Core) (n : Nat) (v : VReg) : (c.setVreg n v).pending = c.pending := rfl
@[simp] theorem Core.setVreg_ops (c : Core) (n : Nat) (v : VReg) : (c.setVreg n v).ops = c.ops := rfl
@[simp] theorem Core.setVreg_rake (c : Core) (n : Nat) (v : VReg) : (c.setVreg n v).rake = c.rake := rfl
@[simp] theorem Core.setVreg_wins (c : Core) (n : Nat) (v : VReg) : (c.setVreg n v).wins = c.wins := rfl
@[simp] theorem Core.setVreg_fetches (c : Core) (n : Nat) (v : VReg) : (c.setVreg n v).fetches = c.fetches := rfl
@[simp] theorem Core.setVreg_cq (c : Core) (n : Nat) (v : VReg) : (c.setVreg n v).cq = c.cq := rfl
@[simp] theorem Core.setVreg_pmc (c : Core) (n : Nat) (v : VReg) : (c.setVreg n v).pmc = c.pmc := rfl
@[simp] theorem Core.setVreg_vbusy (c : Core) (n : Nat) (v : VReg) : (c.setVreg n v).vbusy = c.vbusy := rfl
@[simp] theorem Core.setVreg_mbusy (c : Core) (n : Nat) (v : VReg) : (c.setVreg n v).mbusy = c.mbusy := rfl
@[simp] theorem Core.setVreg_abusy (c : Core) (n : Nat) (v : VReg) : (c.setVreg n v).abusy = c.abusy := rfl
@[simp] theorem Core.setVreg_portFrom (c : Core) (n : Nat) (v : VReg) : (c.setVreg n v).portFrom = c.portFrom := rfl
@[simp] theorem Core.setVreg_portBusy (c : Core) (n : Nat) (v : VReg) : (c.setVreg n v).portBusy = c.portBusy := rfl
@[simp] theorem Core.setVreg_portQ (c : Core) (n : Nat) (v : VReg) : (c.setVreg n v).portQ = c.portQ := rfl
@[simp] theorem Core.setVreg_stalls (c : Core) (n : Nat) (v : VReg) : (c.setVreg n v).stalls = c.stalls := rfl
@[simp] theorem Core.setVreg_turnAt (c : Core) (n : Nat) (v : VReg) : (c.setVreg n v).turnAt = c.turnAt := rfl
@[simp] theorem Core.setVreg_viewAt (c : Core) (n : Nat) (v : VReg) : (c.setVreg n v).viewAt = c.viewAt := rfl
@[simp] theorem Core.setVreg_tlb (c : Core) (n : Nat) (v : VReg) : (c.setVreg n v).tlb = c.tlb := rfl
@[simp] theorem Core.setVreg_code (c : Core) (n : Nat) (v : VReg) : (c.setVreg n v).code = c.code := rfl
@[simp] theorem Core.setTile_did (c : Core) (n : Nat) (t : Tile) : (c.setTile n t).did = c.did := rfl
@[simp] theorem Core.setTile_cid (c : Core) (n : Nat) (t : Tile) : (c.setTile n t).cid = c.cid := rfl
@[simp] theorem Core.setTile_running (c : Core) (n : Nat) (t : Tile) : (c.setTile n t).running = c.running := rfl
@[simp] theorem Core.setTile_lrec (c : Core) (n : Nat) (t : Tile) : (c.setTile n t).lrec = c.lrec := rfl
@[simp] theorem Core.setTile_gangNo (c : Core) (n : Nat) (t : Tile) : (c.setTile n t).gangNo = c.gangNo := rfl
@[simp] theorem Core.setTile_node (c : Core) (n : Nat) (t : Tile) : (c.setTile n t).node = c.node := rfl
@[simp] theorem Core.setTile_job (c : Core) (n : Nat) (t : Tile) : (c.setTile n t).job = c.job := rfl
@[simp] theorem Core.setTile_njob (c : Core) (n : Nat) (t : Tile) : (c.setTile n t).njob = c.njob := rfl
@[simp] theorem Core.setTile_rank (c : Core) (n : Nat) (t : Tile) : (c.setTile n t).rank = c.rank := rfl
@[simp] theorem Core.setTile_sys (c : Core) (n : Nat) (t : Tile) : (c.setTile n t).sys = c.sys := rfl
@[simp] theorem Core.setTile_dbgOk (c : Core) (n : Nat) (t : Tile) : (c.setTile n t).dbgOk = c.dbgOk := rfl
@[simp] theorem Core.setTile_pre (c : Core) (n : Nat) (t : Tile) : (c.setTile n t).pre = c.pre := rfl
@[simp] theorem Core.setTile_canon (c : Core) (n : Nat) (t : Tile) : (c.setTile n t).canon = c.canon := rfl
@[simp] theorem Core.setTile_vbank (c : Core) (n : Nat) (t : Tile) : (c.setTile n t).vbank = c.vbank := rfl
@[simp] theorem Core.setTile_rakeW (c : Core) (n : Nat) (t : Tile) : (c.setTile n t).rakeW = c.rakeW := rfl
@[simp] theorem Core.setTile_spx (c : Core) (n : Nat) (t : Tile) : (c.setTile n t).spx = c.spx := rfl
@[simp] theorem Core.setTile_slot (c : Core) (n : Nat) (t : Tile) : (c.setTile n t).slot = c.slot := rfl
@[simp] theorem Core.setTile_stopReq (c : Core) (n : Nat) (t : Tile) : (c.setTile n t).stopReq = c.stopReq := rfl
@[simp] theorem Core.setTile_stopAs (c : Core) (n : Nat) (t : Tile) : (c.setTile n t).stopAs = c.stopAs := rfl
@[simp] theorem Core.setTile_halted (c : Core) (n : Nat) (t : Tile) : (c.setTile n t).halted = c.halted := rfl
@[simp] theorem Core.setTile_rcb (c : Core) (n : Nat) (t : Tile) : (c.setTile n t).rcb = c.rcb := rfl
@[simp] theorem Core.setTile_jobv (c : Core) (n : Nat) (t : Tile) : (c.setTile n t).jobv = c.jobv := rfl
@[simp] theorem Core.setTile_sa (c : Core) (n : Nat) (t : Tile) : (c.setTile n t).sa = c.sa := rfl
@[simp] theorem Core.setTile_sv (c : Core) (n : Nat) (t : Tile) : (c.setTile n t).sv = c.sv := rfl
@[simp] theorem Core.setTile_sm (c : Core) (n : Nat) (t : Tile) : (c.setTile n t).sm = c.sm := rfl
@[simp] theorem Core.setTile_vregs (c : Core) (n : Nat) (t : Tile) : (c.setTile n t).vregs = c.vregs := rfl
@[simp] theorem Core.setTile_banks (c : Core) (n : Nat) (t : Tile) : (c.setTile n t).banks = c.banks := rfl
@[simp] theorem Core.setTile_masks (c : Core) (n : Nat) (t : Tile) : (c.setTile n t).masks = c.masks := rfl
@[simp] theorem Core.setTile_tiles (c : Core) (n : Nat) (t : Tile) : (c.setTile n t).tiles = Sparse.set c.tiles n t := rfl
@[simp] theorem Core.setTile_queues (c : Core) (n : Nat) (t : Tile) : (c.setTile n t).queues = c.queues := rfl
@[simp] theorem Core.setTile_ports (c : Core) (n : Nat) (t : Tile) : (c.setTile n t).ports = c.ports := rfl
@[simp] theorem Core.setTile_fmt (c : Core) (n : Nat) (t : Tile) : (c.setTile n t).fmt = c.fmt := rfl
@[simp] theorem Core.setTile_rng (c : Core) (n : Nat) (t : Tile) : (c.setTile n t).rng = c.rng := rfl
@[simp] theorem Core.setTile_pending (c : Core) (n : Nat) (t : Tile) : (c.setTile n t).pending = c.pending := rfl
@[simp] theorem Core.setTile_ops (c : Core) (n : Nat) (t : Tile) : (c.setTile n t).ops = c.ops := rfl
@[simp] theorem Core.setTile_rake (c : Core) (n : Nat) (t : Tile) : (c.setTile n t).rake = c.rake := rfl
@[simp] theorem Core.setTile_wins (c : Core) (n : Nat) (t : Tile) : (c.setTile n t).wins = c.wins := rfl
@[simp] theorem Core.setTile_fetches (c : Core) (n : Nat) (t : Tile) : (c.setTile n t).fetches = c.fetches := rfl
@[simp] theorem Core.setTile_cq (c : Core) (n : Nat) (t : Tile) : (c.setTile n t).cq = c.cq := rfl
@[simp] theorem Core.setTile_pmc (c : Core) (n : Nat) (t : Tile) : (c.setTile n t).pmc = c.pmc := rfl
@[simp] theorem Core.setTile_vbusy (c : Core) (n : Nat) (t : Tile) : (c.setTile n t).vbusy = c.vbusy := rfl
@[simp] theorem Core.setTile_mbusy (c : Core) (n : Nat) (t : Tile) : (c.setTile n t).mbusy = c.mbusy := rfl
@[simp] theorem Core.setTile_abusy (c : Core) (n : Nat) (t : Tile) : (c.setTile n t).abusy = c.abusy := rfl
@[simp] theorem Core.setTile_portFrom (c : Core) (n : Nat) (t : Tile) : (c.setTile n t).portFrom = c.portFrom := rfl
@[simp] theorem Core.setTile_portBusy (c : Core) (n : Nat) (t : Tile) : (c.setTile n t).portBusy = c.portBusy := rfl
@[simp] theorem Core.setTile_portQ (c : Core) (n : Nat) (t : Tile) : (c.setTile n t).portQ = c.portQ := rfl
@[simp] theorem Core.setTile_stalls (c : Core) (n : Nat) (t : Tile) : (c.setTile n t).stalls = c.stalls := rfl
@[simp] theorem Core.setTile_turnAt (c : Core) (n : Nat) (t : Tile) : (c.setTile n t).turnAt = c.turnAt := rfl
@[simp] theorem Core.setTile_viewAt (c : Core) (n : Nat) (t : Tile) : (c.setTile n t).viewAt = c.viewAt := rfl
@[simp] theorem Core.setTile_tlb (c : Core) (n : Nat) (t : Tile) : (c.setTile n t).tlb = c.tlb := rfl
@[simp] theorem Core.setTile_code (c : Core) (n : Nat) (t : Tile) : (c.setTile n t).code = c.code := rfl
@[simp] theorem Core.setQueue_did (c : Core) (n : Nat) (q : List QSlot) : (c.setQueue n q).did = c.did := rfl
@[simp] theorem Core.setQueue_cid (c : Core) (n : Nat) (q : List QSlot) : (c.setQueue n q).cid = c.cid := rfl
@[simp] theorem Core.setQueue_running (c : Core) (n : Nat) (q : List QSlot) : (c.setQueue n q).running = c.running := rfl
@[simp] theorem Core.setQueue_lrec (c : Core) (n : Nat) (q : List QSlot) : (c.setQueue n q).lrec = c.lrec := rfl
@[simp] theorem Core.setQueue_gangNo (c : Core) (n : Nat) (q : List QSlot) : (c.setQueue n q).gangNo = c.gangNo := rfl
@[simp] theorem Core.setQueue_node (c : Core) (n : Nat) (q : List QSlot) : (c.setQueue n q).node = c.node := rfl
@[simp] theorem Core.setQueue_job (c : Core) (n : Nat) (q : List QSlot) : (c.setQueue n q).job = c.job := rfl
@[simp] theorem Core.setQueue_njob (c : Core) (n : Nat) (q : List QSlot) : (c.setQueue n q).njob = c.njob := rfl
@[simp] theorem Core.setQueue_rank (c : Core) (n : Nat) (q : List QSlot) : (c.setQueue n q).rank = c.rank := rfl
@[simp] theorem Core.setQueue_sys (c : Core) (n : Nat) (q : List QSlot) : (c.setQueue n q).sys = c.sys := rfl
@[simp] theorem Core.setQueue_dbgOk (c : Core) (n : Nat) (q : List QSlot) : (c.setQueue n q).dbgOk = c.dbgOk := rfl
@[simp] theorem Core.setQueue_pre (c : Core) (n : Nat) (q : List QSlot) : (c.setQueue n q).pre = c.pre := rfl
@[simp] theorem Core.setQueue_canon (c : Core) (n : Nat) (q : List QSlot) : (c.setQueue n q).canon = c.canon := rfl
@[simp] theorem Core.setQueue_vbank (c : Core) (n : Nat) (q : List QSlot) : (c.setQueue n q).vbank = c.vbank := rfl
@[simp] theorem Core.setQueue_rakeW (c : Core) (n : Nat) (q : List QSlot) : (c.setQueue n q).rakeW = c.rakeW := rfl
@[simp] theorem Core.setQueue_spx (c : Core) (n : Nat) (q : List QSlot) : (c.setQueue n q).spx = c.spx := rfl
@[simp] theorem Core.setQueue_slot (c : Core) (n : Nat) (q : List QSlot) : (c.setQueue n q).slot = c.slot := rfl
@[simp] theorem Core.setQueue_stopReq (c : Core) (n : Nat) (q : List QSlot) : (c.setQueue n q).stopReq = c.stopReq := rfl
@[simp] theorem Core.setQueue_stopAs (c : Core) (n : Nat) (q : List QSlot) : (c.setQueue n q).stopAs = c.stopAs := rfl
@[simp] theorem Core.setQueue_halted (c : Core) (n : Nat) (q : List QSlot) : (c.setQueue n q).halted = c.halted := rfl
@[simp] theorem Core.setQueue_rcb (c : Core) (n : Nat) (q : List QSlot) : (c.setQueue n q).rcb = c.rcb := rfl
@[simp] theorem Core.setQueue_jobv (c : Core) (n : Nat) (q : List QSlot) : (c.setQueue n q).jobv = c.jobv := rfl
@[simp] theorem Core.setQueue_sa (c : Core) (n : Nat) (q : List QSlot) : (c.setQueue n q).sa = c.sa := rfl
@[simp] theorem Core.setQueue_sv (c : Core) (n : Nat) (q : List QSlot) : (c.setQueue n q).sv = c.sv := rfl
@[simp] theorem Core.setQueue_sm (c : Core) (n : Nat) (q : List QSlot) : (c.setQueue n q).sm = c.sm := rfl
@[simp] theorem Core.setQueue_vregs (c : Core) (n : Nat) (q : List QSlot) : (c.setQueue n q).vregs = c.vregs := rfl
@[simp] theorem Core.setQueue_banks (c : Core) (n : Nat) (q : List QSlot) : (c.setQueue n q).banks = c.banks := rfl
@[simp] theorem Core.setQueue_masks (c : Core) (n : Nat) (q : List QSlot) : (c.setQueue n q).masks = c.masks := rfl
@[simp] theorem Core.setQueue_tiles (c : Core) (n : Nat) (q : List QSlot) : (c.setQueue n q).tiles = c.tiles := rfl
@[simp] theorem Core.setQueue_queues (c : Core) (n : Nat) (q : List QSlot) : (c.setQueue n q).queues = Sparse.set c.queues n q := rfl
@[simp] theorem Core.setQueue_ports (c : Core) (n : Nat) (q : List QSlot) : (c.setQueue n q).ports = c.ports := rfl
@[simp] theorem Core.setQueue_fmt (c : Core) (n : Nat) (q : List QSlot) : (c.setQueue n q).fmt = c.fmt := rfl
@[simp] theorem Core.setQueue_rng (c : Core) (n : Nat) (q : List QSlot) : (c.setQueue n q).rng = c.rng := rfl
@[simp] theorem Core.setQueue_pending (c : Core) (n : Nat) (q : List QSlot) : (c.setQueue n q).pending = c.pending := rfl
@[simp] theorem Core.setQueue_ops (c : Core) (n : Nat) (q : List QSlot) : (c.setQueue n q).ops = c.ops := rfl
@[simp] theorem Core.setQueue_rake (c : Core) (n : Nat) (q : List QSlot) : (c.setQueue n q).rake = c.rake := rfl
@[simp] theorem Core.setQueue_wins (c : Core) (n : Nat) (q : List QSlot) : (c.setQueue n q).wins = c.wins := rfl
@[simp] theorem Core.setQueue_fetches (c : Core) (n : Nat) (q : List QSlot) : (c.setQueue n q).fetches = c.fetches := rfl
@[simp] theorem Core.setQueue_cq (c : Core) (n : Nat) (q : List QSlot) : (c.setQueue n q).cq = c.cq := rfl
@[simp] theorem Core.setQueue_pmc (c : Core) (n : Nat) (q : List QSlot) : (c.setQueue n q).pmc = c.pmc := rfl
@[simp] theorem Core.setQueue_vbusy (c : Core) (n : Nat) (q : List QSlot) : (c.setQueue n q).vbusy = c.vbusy := rfl
@[simp] theorem Core.setQueue_mbusy (c : Core) (n : Nat) (q : List QSlot) : (c.setQueue n q).mbusy = c.mbusy := rfl
@[simp] theorem Core.setQueue_abusy (c : Core) (n : Nat) (q : List QSlot) : (c.setQueue n q).abusy = c.abusy := rfl
@[simp] theorem Core.setQueue_portFrom (c : Core) (n : Nat) (q : List QSlot) : (c.setQueue n q).portFrom = c.portFrom := rfl
@[simp] theorem Core.setQueue_portBusy (c : Core) (n : Nat) (q : List QSlot) : (c.setQueue n q).portBusy = c.portBusy := rfl
@[simp] theorem Core.setQueue_portQ (c : Core) (n : Nat) (q : List QSlot) : (c.setQueue n q).portQ = c.portQ := rfl
@[simp] theorem Core.setQueue_stalls (c : Core) (n : Nat) (q : List QSlot) : (c.setQueue n q).stalls = c.stalls := rfl
@[simp] theorem Core.setQueue_turnAt (c : Core) (n : Nat) (q : List QSlot) : (c.setQueue n q).turnAt = c.turnAt := rfl
@[simp] theorem Core.setQueue_viewAt (c : Core) (n : Nat) (q : List QSlot) : (c.setQueue n q).viewAt = c.viewAt := rfl
@[simp] theorem Core.setQueue_tlb (c : Core) (n : Nat) (q : List QSlot) : (c.setQueue n q).tlb = c.tlb := rfl
@[simp] theorem Core.setQueue_code (c : Core) (n : Nat) (q : List QSlot) : (c.setQueue n q).code = c.code := rfl
@[simp] theorem Core.setPort_did (c : Core) (n : Nat) (p : Port) : (c.setPort n p).did = c.did := rfl
@[simp] theorem Core.setPort_cid (c : Core) (n : Nat) (p : Port) : (c.setPort n p).cid = c.cid := rfl
@[simp] theorem Core.setPort_running (c : Core) (n : Nat) (p : Port) : (c.setPort n p).running = c.running := rfl
@[simp] theorem Core.setPort_lrec (c : Core) (n : Nat) (p : Port) : (c.setPort n p).lrec = c.lrec := rfl
@[simp] theorem Core.setPort_gangNo (c : Core) (n : Nat) (p : Port) : (c.setPort n p).gangNo = c.gangNo := rfl
@[simp] theorem Core.setPort_node (c : Core) (n : Nat) (p : Port) : (c.setPort n p).node = c.node := rfl
@[simp] theorem Core.setPort_job (c : Core) (n : Nat) (p : Port) : (c.setPort n p).job = c.job := rfl
@[simp] theorem Core.setPort_njob (c : Core) (n : Nat) (p : Port) : (c.setPort n p).njob = c.njob := rfl
@[simp] theorem Core.setPort_rank (c : Core) (n : Nat) (p : Port) : (c.setPort n p).rank = c.rank := rfl
@[simp] theorem Core.setPort_sys (c : Core) (n : Nat) (p : Port) : (c.setPort n p).sys = c.sys := rfl
@[simp] theorem Core.setPort_dbgOk (c : Core) (n : Nat) (p : Port) : (c.setPort n p).dbgOk = c.dbgOk := rfl
@[simp] theorem Core.setPort_pre (c : Core) (n : Nat) (p : Port) : (c.setPort n p).pre = c.pre := rfl
@[simp] theorem Core.setPort_canon (c : Core) (n : Nat) (p : Port) : (c.setPort n p).canon = c.canon := rfl
@[simp] theorem Core.setPort_vbank (c : Core) (n : Nat) (p : Port) : (c.setPort n p).vbank = c.vbank := rfl
@[simp] theorem Core.setPort_rakeW (c : Core) (n : Nat) (p : Port) : (c.setPort n p).rakeW = c.rakeW := rfl
@[simp] theorem Core.setPort_spx (c : Core) (n : Nat) (p : Port) : (c.setPort n p).spx = c.spx := rfl
@[simp] theorem Core.setPort_slot (c : Core) (n : Nat) (p : Port) : (c.setPort n p).slot = c.slot := rfl
@[simp] theorem Core.setPort_stopReq (c : Core) (n : Nat) (p : Port) : (c.setPort n p).stopReq = c.stopReq := rfl
@[simp] theorem Core.setPort_stopAs (c : Core) (n : Nat) (p : Port) : (c.setPort n p).stopAs = c.stopAs := rfl
@[simp] theorem Core.setPort_halted (c : Core) (n : Nat) (p : Port) : (c.setPort n p).halted = c.halted := rfl
@[simp] theorem Core.setPort_rcb (c : Core) (n : Nat) (p : Port) : (c.setPort n p).rcb = c.rcb := rfl
@[simp] theorem Core.setPort_jobv (c : Core) (n : Nat) (p : Port) : (c.setPort n p).jobv = c.jobv := rfl
@[simp] theorem Core.setPort_sa (c : Core) (n : Nat) (p : Port) : (c.setPort n p).sa = c.sa := rfl
@[simp] theorem Core.setPort_sv (c : Core) (n : Nat) (p : Port) : (c.setPort n p).sv = c.sv := rfl
@[simp] theorem Core.setPort_sm (c : Core) (n : Nat) (p : Port) : (c.setPort n p).sm = c.sm := rfl
@[simp] theorem Core.setPort_vregs (c : Core) (n : Nat) (p : Port) : (c.setPort n p).vregs = c.vregs := rfl
@[simp] theorem Core.setPort_banks (c : Core) (n : Nat) (p : Port) : (c.setPort n p).banks = c.banks := rfl
@[simp] theorem Core.setPort_masks (c : Core) (n : Nat) (p : Port) : (c.setPort n p).masks = c.masks := rfl
@[simp] theorem Core.setPort_tiles (c : Core) (n : Nat) (p : Port) : (c.setPort n p).tiles = c.tiles := rfl
@[simp] theorem Core.setPort_queues (c : Core) (n : Nat) (p : Port) : (c.setPort n p).queues = c.queues := rfl
@[simp] theorem Core.setPort_ports (c : Core) (n : Nat) (p : Port) : (c.setPort n p).ports = Sparse.set c.ports n p := rfl
@[simp] theorem Core.setPort_fmt (c : Core) (n : Nat) (p : Port) : (c.setPort n p).fmt = c.fmt := rfl
@[simp] theorem Core.setPort_rng (c : Core) (n : Nat) (p : Port) : (c.setPort n p).rng = c.rng := rfl
@[simp] theorem Core.setPort_pending (c : Core) (n : Nat) (p : Port) : (c.setPort n p).pending = c.pending := rfl
@[simp] theorem Core.setPort_ops (c : Core) (n : Nat) (p : Port) : (c.setPort n p).ops = c.ops := rfl
@[simp] theorem Core.setPort_rake (c : Core) (n : Nat) (p : Port) : (c.setPort n p).rake = c.rake := rfl
@[simp] theorem Core.setPort_wins (c : Core) (n : Nat) (p : Port) : (c.setPort n p).wins = c.wins := rfl
@[simp] theorem Core.setPort_fetches (c : Core) (n : Nat) (p : Port) : (c.setPort n p).fetches = c.fetches := rfl
@[simp] theorem Core.setPort_cq (c : Core) (n : Nat) (p : Port) : (c.setPort n p).cq = c.cq := rfl
@[simp] theorem Core.setPort_pmc (c : Core) (n : Nat) (p : Port) : (c.setPort n p).pmc = c.pmc := rfl
@[simp] theorem Core.setPort_vbusy (c : Core) (n : Nat) (p : Port) : (c.setPort n p).vbusy = c.vbusy := rfl
@[simp] theorem Core.setPort_mbusy (c : Core) (n : Nat) (p : Port) : (c.setPort n p).mbusy = c.mbusy := rfl
@[simp] theorem Core.setPort_abusy (c : Core) (n : Nat) (p : Port) : (c.setPort n p).abusy = c.abusy := rfl
@[simp] theorem Core.setPort_portFrom (c : Core) (n : Nat) (p : Port) : (c.setPort n p).portFrom = c.portFrom := rfl
@[simp] theorem Core.setPort_portBusy (c : Core) (n : Nat) (p : Port) : (c.setPort n p).portBusy = c.portBusy := rfl
@[simp] theorem Core.setPort_portQ (c : Core) (n : Nat) (p : Port) : (c.setPort n p).portQ = c.portQ := rfl
@[simp] theorem Core.setPort_stalls (c : Core) (n : Nat) (p : Port) : (c.setPort n p).stalls = c.stalls := rfl
@[simp] theorem Core.setPort_turnAt (c : Core) (n : Nat) (p : Port) : (c.setPort n p).turnAt = c.turnAt := rfl
@[simp] theorem Core.setPort_viewAt (c : Core) (n : Nat) (p : Port) : (c.setPort n p).viewAt = c.viewAt := rfl
@[simp] theorem Core.setPort_tlb (c : Core) (n : Nat) (p : Port) : (c.setPort n p).tlb = c.tlb := rfl
@[simp] theorem Core.setPort_code (c : Core) (n : Nat) (p : Port) : (c.setPort n p).code = c.code := rfl
@[simp] theorem Core.count_did (c : Core) (n k : Nat) : (c.count n k).did = c.did := rfl
@[simp] theorem Core.count_cid (c : Core) (n k : Nat) : (c.count n k).cid = c.cid := rfl
@[simp] theorem Core.count_running (c : Core) (n k : Nat) : (c.count n k).running = c.running := rfl
@[simp] theorem Core.count_lrec (c : Core) (n k : Nat) : (c.count n k).lrec = c.lrec := rfl
@[simp] theorem Core.count_gangNo (c : Core) (n k : Nat) : (c.count n k).gangNo = c.gangNo := rfl
@[simp] theorem Core.count_node (c : Core) (n k : Nat) : (c.count n k).node = c.node := rfl
@[simp] theorem Core.count_job (c : Core) (n k : Nat) : (c.count n k).job = c.job := rfl
@[simp] theorem Core.count_njob (c : Core) (n k : Nat) : (c.count n k).njob = c.njob := rfl
@[simp] theorem Core.count_rank (c : Core) (n k : Nat) : (c.count n k).rank = c.rank := rfl
@[simp] theorem Core.count_sys (c : Core) (n k : Nat) : (c.count n k).sys = c.sys := rfl
@[simp] theorem Core.count_dbgOk (c : Core) (n k : Nat) : (c.count n k).dbgOk = c.dbgOk := rfl
@[simp] theorem Core.count_pre (c : Core) (n k : Nat) : (c.count n k).pre = c.pre := rfl
@[simp] theorem Core.count_canon (c : Core) (n k : Nat) : (c.count n k).canon = c.canon := rfl
@[simp] theorem Core.count_vbank (c : Core) (n k : Nat) : (c.count n k).vbank = c.vbank := rfl
@[simp] theorem Core.count_rakeW (c : Core) (n k : Nat) : (c.count n k).rakeW = c.rakeW := rfl
@[simp] theorem Core.count_spx (c : Core) (n k : Nat) : (c.count n k).spx = c.spx := rfl
@[simp] theorem Core.count_slot (c : Core) (n k : Nat) : (c.count n k).slot = c.slot := rfl
@[simp] theorem Core.count_stopReq (c : Core) (n k : Nat) : (c.count n k).stopReq = c.stopReq := rfl
@[simp] theorem Core.count_stopAs (c : Core) (n k : Nat) : (c.count n k).stopAs = c.stopAs := rfl
@[simp] theorem Core.count_halted (c : Core) (n k : Nat) : (c.count n k).halted = c.halted := rfl
@[simp] theorem Core.count_rcb (c : Core) (n k : Nat) : (c.count n k).rcb = c.rcb := rfl
@[simp] theorem Core.count_jobv (c : Core) (n k : Nat) : (c.count n k).jobv = c.jobv := rfl
@[simp] theorem Core.count_sa (c : Core) (n k : Nat) : (c.count n k).sa = c.sa := rfl
@[simp] theorem Core.count_sv (c : Core) (n k : Nat) : (c.count n k).sv = c.sv := rfl
@[simp] theorem Core.count_sm (c : Core) (n k : Nat) : (c.count n k).sm = c.sm := rfl
@[simp] theorem Core.count_vregs (c : Core) (n k : Nat) : (c.count n k).vregs = c.vregs := rfl
@[simp] theorem Core.count_banks (c : Core) (n k : Nat) : (c.count n k).banks = c.banks := rfl
@[simp] theorem Core.count_masks (c : Core) (n k : Nat) : (c.count n k).masks = c.masks := rfl
@[simp] theorem Core.count_tiles (c : Core) (n k : Nat) : (c.count n k).tiles = c.tiles := rfl
@[simp] theorem Core.count_queues (c : Core) (n k : Nat) : (c.count n k).queues = c.queues := rfl
@[simp] theorem Core.count_ports (c : Core) (n k : Nat) : (c.count n k).ports = c.ports := rfl
@[simp] theorem Core.count_fmt (c : Core) (n k : Nat) : (c.count n k).fmt = c.fmt := rfl
@[simp] theorem Core.count_rng (c : Core) (n k : Nat) : (c.count n k).rng = c.rng := rfl
@[simp] theorem Core.count_pending (c : Core) (n k : Nat) : (c.count n k).pending = c.pending := rfl
@[simp] theorem Core.count_ops (c : Core) (n k : Nat) : (c.count n k).ops = c.ops := rfl
@[simp] theorem Core.count_rake (c : Core) (n k : Nat) : (c.count n k).rake = c.rake := rfl
@[simp] theorem Core.count_wins (c : Core) (n k : Nat) : (c.count n k).wins = c.wins := rfl
@[simp] theorem Core.count_fetches (c : Core) (n k : Nat) : (c.count n k).fetches = c.fetches := rfl
@[simp] theorem Core.count_cq (c : Core) (n k : Nat) : (c.count n k).cq = c.cq := rfl
@[simp] theorem Core.count_pmc (c : Core) (n k : Nat) : (c.count n k).pmc = Sparse.set c.pmc n ((Sparse.get c.pmc n + k) % 2 ^ 64) := rfl
@[simp] theorem Core.count_vbusy (c : Core) (n k : Nat) : (c.count n k).vbusy = c.vbusy := rfl
@[simp] theorem Core.count_mbusy (c : Core) (n k : Nat) : (c.count n k).mbusy = c.mbusy := rfl
@[simp] theorem Core.count_abusy (c : Core) (n k : Nat) : (c.count n k).abusy = c.abusy := rfl
@[simp] theorem Core.count_portFrom (c : Core) (n k : Nat) : (c.count n k).portFrom = c.portFrom := rfl
@[simp] theorem Core.count_portBusy (c : Core) (n k : Nat) : (c.count n k).portBusy = c.portBusy := rfl
@[simp] theorem Core.count_portQ (c : Core) (n k : Nat) : (c.count n k).portQ = c.portQ := rfl
@[simp] theorem Core.count_stalls (c : Core) (n k : Nat) : (c.count n k).stalls = c.stalls := rfl
@[simp] theorem Core.count_turnAt (c : Core) (n k : Nat) : (c.count n k).turnAt = c.turnAt := rfl
@[simp] theorem Core.count_viewAt (c : Core) (n k : Nat) : (c.count n k).viewAt = c.viewAt := rfl
@[simp] theorem Core.count_tlb (c : Core) (n k : Nat) : (c.count n k).tlb = c.tlb := rfl
@[simp] theorem Core.count_code (c : Core) (n k : Nat) : (c.count n k).code = c.code := rfl

/-! ### A stream: scalars, tokens -/

@[simp] theorem StrmSt.setSreg_ready (x : StrmSt) (n : Nat) (v : Word) : (x.setSreg n v).ready = x.ready := by
  unfold StrmSt.setSreg; split <;> rfl
@[simp] theorem StrmSt.setSreg_busy (x : StrmSt) (n : Nat) (v : Word) : (x.setSreg n v).busy = x.busy := by
  unfold StrmSt.setSreg; split <;> rfl
@[simp] theorem StrmSt.setSreg_pc (x : StrmSt) (n : Nat) (v : Word) : (x.setSreg n v).pc = x.pc := by
  unfold StrmSt.setSreg; split <;> rfl
@[simp] theorem StrmSt.setSreg_atHdr (x : StrmSt) (n : Nat) (v : Word) : (x.setSreg n v).atHdr = x.atHdr := by
  unfold StrmSt.setSreg; split <;> rfl
@[simp] theorem StrmSt.setSreg_entIdx (x : StrmSt) (n : Nat) (v : Word) : (x.setSreg n v).entIdx = x.entIdx := by
  unfold StrmSt.setSreg; split <;> rfl
@[simp] theorem StrmSt.setSreg_secBase (x : StrmSt) (n : Nat) (v : Word) : (x.setSreg n v).secBase = x.secBase := by
  unfold StrmSt.setSreg; split <;> rfl
@[simp] theorem StrmSt.setSreg_secLen (x : StrmSt) (n : Nat) (v : Word) : (x.setSreg n v).secLen = x.secLen := by
  unfold StrmSt.setSreg; split <;> rfl
@[simp] theorem StrmSt.setSreg_entered (x : StrmSt) (n : Nat) (v : Word) : (x.setSreg n v).entered = x.entered := by
  unfold StrmSt.setSreg; split <;> rfl
@[simp] theorem StrmSt.setSreg_ord (x : StrmSt) (n : Nat) (v : Word) : (x.setSreg n v).ord = x.ord := by
  unfold StrmSt.setSreg; split <;> rfl
@[simp] theorem StrmSt.setSreg_ret (x : StrmSt) (n : Nat) (v : Word) : (x.setSreg n v).ret = x.ret := by
  unfold StrmSt.setSreg; split <;> rfl
@[simp] theorem StrmSt.setSreg_left (x : StrmSt) (n : Nat) (v : Word) : (x.setSreg n v).left = x.left := by
  unfold StrmSt.setSreg; split <;> rfl
@[simp] theorem StrmSt.setSreg_secDue (x : StrmSt) (n : Nat) (v : Word) : (x.setSreg n v).secDue = x.secDue := by
  unfold StrmSt.setSreg; split <;> rfl
@[simp] theorem StrmSt.setSreg_stopped (x : StrmSt) (n : Nat) (v : Word) : (x.setSreg n v).stopped = x.stopped := by
  unfold StrmSt.setSreg; split <;> rfl
@[simp] theorem StrmSt.setSreg_rdz (x : StrmSt) (n : Nat) (v : Word) : (x.setSreg n v).rdz = x.rdz := by
  unfold StrmSt.setSreg; split <;> rfl
@[simp] theorem StrmSt.setSreg_atRdz (x : StrmSt) (n : Nat) (v : Word) : (x.setSreg n v).atRdz = x.atRdz := by
  unfold StrmSt.setSreg; split <;> rfl
@[simp] theorem StrmSt.setSreg_handler (x : StrmSt) (n : Nat) (v : Word) : (x.setSreg n v).handler = x.handler := by
  unfold StrmSt.setSreg; split <;> rfl
@[simp] theorem StrmSt.setSreg_held (x : StrmSt) (n : Nat) (v : Word) : (x.setSreg n v).held = x.held := by
  unfold StrmSt.setSreg; split <;> rfl
@[simp] theorem StrmSt.setSreg_lc (x : StrmSt) (n : Nat) (v : Word) : (x.setSreg n v).lc = x.lc := by
  unfold StrmSt.setSreg; split <;> rfl
@[simp] theorem StrmSt.setSreg_rrb (x : StrmSt) (n : Nat) (v : Word) : (x.setSreg n v).rrb = x.rrb := by
  unfold StrmSt.setSreg; split <;> rfl
@[simp] theorem StrmSt.setSreg_evh (x : StrmSt) (n : Nat) (v : Word) : (x.setSreg n v).evh = x.evh := by
  unfold StrmSt.setSreg; split <;> rfl
@[simp] theorem StrmSt.setSreg_evc (x : StrmSt) (n : Nat) (v : Word) : (x.setSreg n v).evc = x.evc := by
  unfold StrmSt.setSreg; split <;> rfl
@[simp] theorem StrmSt.setSreg_eva (x : StrmSt) (n : Nat) (v : Word) : (x.setSreg n v).eva = x.eva := by
  unfold StrmSt.setSreg; split <;> rfl
@[simp] theorem StrmSt.setSreg_epc (x : StrmSt) (n : Nat) (v : Word) : (x.setSreg n v).epc = x.epc := by
  unfold StrmSt.setSreg; split <;> rfl
@[simp] theorem StrmSt.setSreg_tokens (x : StrmSt) (n : Nat) (v : Word) : (x.setSreg n v).tokens = x.tokens := by
  unfold StrmSt.setSreg; split <;> rfl
@[simp] theorem StrmSt.setSreg_view (x : StrmSt) (n : Nat) (v : Word) : (x.setSreg n v).view = x.view := by
  unfold StrmSt.setSreg; split <;> rfl
@[simp] theorem StrmSt.setSreg_nextIssue (x : StrmSt) (n : Nat) (v : Word) : (x.setSreg n v).nextIssue = x.nextIssue := by
  unfold StrmSt.setSreg; split <;> rfl
@[simp] theorem StrmSt.setSreg_divBusy (x : StrmSt) (n : Nat) (v : Word) : (x.setSreg n v).divBusy = x.divBusy := by
  unfold StrmSt.setSreg; split <;> rfl
@[simp] theorem StrmSt.setSreg_swwait (x : StrmSt) (n : Nat) (v : Word) : (x.setSreg n v).swwait = x.swwait := by
  unfold StrmSt.setSreg; split <;> rfl
@[simp] theorem StrmSt.setSreg_stepped (x : StrmSt) (n : Nat) (v : Word) : (x.setSreg n v).stepped = x.stepped := by
  unfold StrmSt.setSreg; split <;> rfl
@[simp] theorem StrmSt.setSreg_sent (x : StrmSt) (n : Nat) (v : Word) : (x.setSreg n v).sent = x.sent := by
  unfold StrmSt.setSreg; split <;> rfl
@[simp] theorem StrmSt.setSreg_desc (x : StrmSt) (n : Nat) (v : Word) : (x.setSreg n v).desc = x.desc := by
  unfold StrmSt.setSreg; split <;> rfl
@[simp] theorem StrmSt.setToken_sregs (x : StrmSt) (n : Nat) (t : Token) : (x.setToken n t).sregs = x.sregs := rfl
@[simp] theorem StrmSt.setToken_ready (x : StrmSt) (n : Nat) (t : Token) : (x.setToken n t).ready = x.ready := rfl
@[simp] theorem StrmSt.setToken_busy (x : StrmSt) (n : Nat) (t : Token) : (x.setToken n t).busy = x.busy := rfl
@[simp] theorem StrmSt.setToken_pc (x : StrmSt) (n : Nat) (t : Token) : (x.setToken n t).pc = x.pc := rfl
@[simp] theorem StrmSt.setToken_atHdr (x : StrmSt) (n : Nat) (t : Token) : (x.setToken n t).atHdr = x.atHdr := rfl
@[simp] theorem StrmSt.setToken_entIdx (x : StrmSt) (n : Nat) (t : Token) : (x.setToken n t).entIdx = x.entIdx := rfl
@[simp] theorem StrmSt.setToken_secBase (x : StrmSt) (n : Nat) (t : Token) : (x.setToken n t).secBase = x.secBase := rfl
@[simp] theorem StrmSt.setToken_secLen (x : StrmSt) (n : Nat) (t : Token) : (x.setToken n t).secLen = x.secLen := rfl
@[simp] theorem StrmSt.setToken_entered (x : StrmSt) (n : Nat) (t : Token) : (x.setToken n t).entered = x.entered := rfl
@[simp] theorem StrmSt.setToken_ord (x : StrmSt) (n : Nat) (t : Token) : (x.setToken n t).ord = x.ord := rfl
@[simp] theorem StrmSt.setToken_ret (x : StrmSt) (n : Nat) (t : Token) : (x.setToken n t).ret = x.ret := rfl
@[simp] theorem StrmSt.setToken_left (x : StrmSt) (n : Nat) (t : Token) : (x.setToken n t).left = x.left := rfl
@[simp] theorem StrmSt.setToken_secDue (x : StrmSt) (n : Nat) (t : Token) : (x.setToken n t).secDue = x.secDue := rfl
@[simp] theorem StrmSt.setToken_stopped (x : StrmSt) (n : Nat) (t : Token) : (x.setToken n t).stopped = x.stopped := rfl
@[simp] theorem StrmSt.setToken_rdz (x : StrmSt) (n : Nat) (t : Token) : (x.setToken n t).rdz = x.rdz := rfl
@[simp] theorem StrmSt.setToken_atRdz (x : StrmSt) (n : Nat) (t : Token) : (x.setToken n t).atRdz = x.atRdz := rfl
@[simp] theorem StrmSt.setToken_handler (x : StrmSt) (n : Nat) (t : Token) : (x.setToken n t).handler = x.handler := rfl
@[simp] theorem StrmSt.setToken_held (x : StrmSt) (n : Nat) (t : Token) : (x.setToken n t).held = x.held := rfl
@[simp] theorem StrmSt.setToken_lc (x : StrmSt) (n : Nat) (t : Token) : (x.setToken n t).lc = x.lc := rfl
@[simp] theorem StrmSt.setToken_rrb (x : StrmSt) (n : Nat) (t : Token) : (x.setToken n t).rrb = x.rrb := rfl
@[simp] theorem StrmSt.setToken_evh (x : StrmSt) (n : Nat) (t : Token) : (x.setToken n t).evh = x.evh := rfl
@[simp] theorem StrmSt.setToken_evc (x : StrmSt) (n : Nat) (t : Token) : (x.setToken n t).evc = x.evc := rfl
@[simp] theorem StrmSt.setToken_eva (x : StrmSt) (n : Nat) (t : Token) : (x.setToken n t).eva = x.eva := rfl
@[simp] theorem StrmSt.setToken_epc (x : StrmSt) (n : Nat) (t : Token) : (x.setToken n t).epc = x.epc := rfl
@[simp] theorem StrmSt.setToken_tokens (x : StrmSt) (n : Nat) (t : Token) : (x.setToken n t).tokens = Sparse.set x.tokens n t := rfl
@[simp] theorem StrmSt.setToken_view (x : StrmSt) (n : Nat) (t : Token) : (x.setToken n t).view = x.view := rfl
@[simp] theorem StrmSt.setToken_nextIssue (x : StrmSt) (n : Nat) (t : Token) : (x.setToken n t).nextIssue = x.nextIssue := rfl
@[simp] theorem StrmSt.setToken_divBusy (x : StrmSt) (n : Nat) (t : Token) : (x.setToken n t).divBusy = x.divBusy := rfl
@[simp] theorem StrmSt.setToken_swwait (x : StrmSt) (n : Nat) (t : Token) : (x.setToken n t).swwait = x.swwait := rfl
@[simp] theorem StrmSt.setToken_stepped (x : StrmSt) (n : Nat) (t : Token) : (x.setToken n t).stepped = x.stepped := rfl
@[simp] theorem StrmSt.setToken_sent (x : StrmSt) (n : Nat) (t : Token) : (x.setToken n t).sent = x.sent := rfl
@[simp] theorem StrmSt.setToken_desc (x : StrmSt) (n : Nat) (t : Token) : (x.setToken n t).desc = x.desc := rfl

/-! ### Reads of what was written -/

theorem sregs_get (x : StrmSt) (n : Nat) (h : n ≠ 0) : x.sreg n = Sparse.get x.sregs n := if_neg h

/-- s0 reads as zero whatever is written (R37). -/
@[simp] theorem StrmSt.sreg_zero (x : StrmSt) : x.sreg 0 = 0 := rfl
@[simp] theorem StrmSt.setSreg_zero (x : StrmSt) (v : Word) : x.setSreg 0 v = x := rfl

theorem StrmSt.sreg_setSreg (x : StrmSt) (n j : Nat) (v : Word) (h : n ≠ 0) :
    (x.setSreg n v).sreg j = if j = n then v else x.sreg j := by
  unfold StrmSt.sreg StrmSt.setSreg
  rw [if_neg h]
  by_cases hj : j = 0
  · subst hj; rw [if_pos rfl, if_neg fun e => h e.symm, if_pos rfl]
  · rw [if_neg hj, if_neg hj]; exact sparse_get_set ..

/-- m0 reads as all ones whatever is written (R36). -/
@[simp] theorem Core.mask_zero (c : Core) : c.mask 0 = BitVec.allOnes 1024 := rfl
@[simp] theorem Core.setMask_zero (c : Core) (v : BitVec 1024) : c.setMask 0 v = c := rfl

theorem Core.mask_setMask (c : Core) (n j : Nat) (v : BitVec 1024) (h : n ≠ 0) :
    (c.setMask n v).mask j = if j = n then v else c.mask j := by
  unfold Core.mask Core.setMask
  rw [if_neg h]
  by_cases hj : j = 0
  · subst hj; rw [if_pos rfl, if_neg fun e => h e.symm, if_pos rfl]
  · rw [if_neg hj, if_neg hj]; exact sparse_get_set ..

theorem Core.vreg_setVreg (c : Core) (n j : Nat) (v : VReg) : (c.setVreg n v).vreg j = if j = n then v else c.vreg j := sparse_get_set ..
theorem Core.tile_setTile (c : Core) (n j : Nat) (t : Tile) : (c.setTile n t).tile j = if j = n then t else c.tile j := sparse_get_set ..
theorem Core.queue_setQueue (c : Core) (n j : Nat) (q : List QSlot) : (c.setQueue n q).queue j = if j = n then q else c.queue j := sparse_get_set ..
theorem Core.port_setPort (c : Core) (n j : Nat) (p : Port) : (c.setPort n p).port j = if j = n then p else c.port j := sparse_get_set ..
theorem StrmSt.token_setToken (x : StrmSt) (n j : Nat) (t : Token) : (x.setToken n t).token j = if j = n then t else x.token j := sparse_get_set ..

@[simp] theorem State.strm_setStrm (s : State) (x : StrmSt) : (s.setStrm x).strm = x := by simp [State.strm]
@[simp] theorem State.strm_upd (s : State) (f : StrmSt → StrmSt) : (s.upd f).strm = f s.strm := State.strm_setStrm ..

end Sys2Proof.Machine
end

