-- ==== Sys2Proof/Laws/Ops.lean ====
section
/-!
SUPPORT. The shared operations over operands, tokens, results and the end of a word: one lemma each, saying everything it can do.
-/

namespace Sys2Proof.Machine

/-! ### Scalars and queues -/

/-- A read of a scalar or a queue: the scalar as it stands, or the queue's oldest value, popped (R37, R38). -/
theorem readS_cases {s t : State} {f : OpField} {v : Word} (h : s.readS f = .ok (v, t)) :
    (isS f = true ∧ s.strm.ready? (scalIx f) s.now = true ∧ v = s.strm.sreg (scalIx f) ∧ t = s) ∨
    (isS f = false ∧ ∃ at_ r, s.core.queue (queueIx f) = .val v at_ :: r ∧ at_ ≤ s.now ∧ t = s.updC fun c => c.setQueue (queueIx f) r) := by
  unfold State.readS at h
  by_cases hs : isS f = true
  · rw [if_pos hs] at h
    split at h
    · rename_i hr; obtain ⟨ev, et⟩ := Prod.mk.inj (Except.ok.inj h); exact .inl ⟨hs, hr, ev.symm, et.symm⟩
    · cases h
  · rw [if_neg hs] at h
    split at h
    · rename_i hq
      by_cases ht : ‹Nat› ≤ s.now
      · rw [if_pos ht] at h; cases h; exact .inr ⟨Bool.eq_false_iff.2 hs, _, _, hq, ht, rfl⟩
      · rw [if_neg ht] at h; cases h
    · cases h

/-- A read changes the core's queues alone. -/
theorem readS_frame {s t : State} {f : OpField} {v : Word} (h : s.readS f = .ok (v, t)) :
    ∃ q, t = { s with core := { s.core with queues := q } } := by
  obtain ⟨-, -, -, e⟩ | ⟨-, -, r, -, -, e⟩ := readS_cases h
  · exact ⟨s.core.queues, e⟩
  · exact ⟨_, e⟩

theorem srcIf_frame {s t : State} {k : OpK} {f : OpField} {v : Word} (h : s.srcIf k f = .ok (v, t)) :
    ∃ q, t = { s with core := { s.core with queues := q } } := by
  unfold State.srcIf at h
  split at h
  · obtain ⟨-, rfl⟩ := Prod.mk.inj (Except.ok.inj h); exact ⟨s.core.queues, rfl⟩
  · exact readS_frame h

/-- The three sources are read in field order, each from what the reads before left (R30, R180). -/
theorem sources_cases {s t : State} {h : Shape} {a b c : Word} (e : s.sources h = .ok ((a, b, c), t)) :
    ∃ s1 s2, s.srcIf h.a h.hd.a = .ok (a, s1) ∧ s1.srcIf h.b h.hd.b = .ok (b, s2) ∧ s2.srcIf h.c h.hd.c = .ok (c, t) := by
  unfold State.sources at e
  split at e
  · cases e
  · split at e
    · cases e
    · split at e
      · cases e
      · cases e; exact ⟨_, _, ‹_›, ‹_›, ‹_›⟩

/-- Reading the sources changes the core's queues alone. -/
theorem sources_frame {s t : State} {h : Shape} {a b c : Word} (e : s.sources h = .ok ((a, b, c), t)) :
    ∃ q, t = { s with core := { s.core with queues := q } } := by
  obtain ⟨s1, s2, e1, e2, e3⟩ := sources_cases e
  obtain ⟨q1, rfl⟩ := srcIf_frame e1
  obtain ⟨q2, rfl⟩ := srcIf_frame e2
  obtain ⟨q3, rfl⟩ := srcIf_frame e3
  exact ⟨q3, rfl⟩

/-- A result now: s0 discards it; another scalar that awaits none takes it; a queue with room takes it (R37, R38, R182). -/
theorem writeS_cases {s t : State} {f : OpField} {v : Word} {cost : Nat} (h : s.writeS f v cost = .ok t) :
    (isS f = true ∧ scalIx f = 0 ∧ t = s) ∨
    (isS f = true ∧ scalIx f ≠ 0 ∧ s.strm.busy.contains (scalIx f) = false ∧
      t = s.upd fun x => { x.setSreg (scalIx f) v with
        ready := Sparse.set x.ready (scalIx f) (max (Sparse.get x.ready (scalIx f)) (s.now + cost)) }) ∨
    (isS f = false ∧ (s.core.queue (queueIx f)).length < 16 ∧
      t = s.updC fun c => c.setQueue (queueIx f) (s.core.queue (queueIx f) ++ [.val v (s.now + cost)])) := by
  unfold State.writeS at h
  by_cases hs : isS f = true
  · rw [if_pos hs] at h
    dsimp only at h
    split at h
    · rename_i h0; cases h; exact .inl ⟨hs, h0, rfl⟩
    · split at h
      · cases h
      · rename_i h0 hb; cases h; exact .inr (.inl ⟨hs, h0, Bool.eq_false_iff.2 hb, rfl⟩)
  · rw [if_neg hs] at h
    dsimp only at h
    split at h
    · rename_i hl; cases h; exact .inr (.inr ⟨Bool.eq_false_iff.2 hs, hl, rfl⟩)
    · cases h

/-- A result now leaves memory, the other cores and the dies as they were. -/
theorem writeS_mem {s t : State} {f : OpField} {v : Word} {cost : Nat} (h : s.writeS f v cost = .ok t) : t.mem = s.mem := by
  obtain ⟨-, -, rfl⟩ | ⟨-, -, -, rfl⟩ | ⟨-, -, rfl⟩ := writeS_cases h <;> rfl

/-- Whether a destination accepts does not depend on the value. -/
theorem writeS_open {s t : State} {f : OpField} {v : Word} {cost : Nat} (h : s.writeS f v cost = .ok t) (v' : Word) (cost' : Nat) :
    ∃ u, s.writeS f v' cost' = .ok u := by
  obtain ⟨hs, h0, -⟩ | ⟨hs, h0, hb, -⟩ | ⟨hs, hl, -⟩ := writeS_cases h
  · exact ⟨s, by simp [State.writeS, hs, h0]⟩
  · exact ⟨_, by simp only [State.writeS]; rw [if_pos hs, if_neg h0, if_neg (by simpa using hb)]⟩
  · exact ⟨_, by simp only [State.writeS]; rw [if_neg (by simp [hs]), if_pos hl]⟩

/-- The place of a late result: none for s0, a scalar marked, or a slot at a queue's end (R37, R207). -/
theorem reserveS_cases {s t : State} {f : OpField} {d : SDest} (h : s.reserveS f = .ok (d, t)) :
    (isS f = true ∧ scalIx f = 0 ∧ d = .none ∧ t = s) ∨
    (isS f = true ∧ scalIx f ≠ 0 ∧ s.strm.busy.contains (scalIx f) = false ∧ d = .scal s.cur (scalIx f) ∧
      t = s.upd fun x => { x with busy := x.busy ++ [scalIx f] }) ∨
    (isS f = false ∧ (s.core.queue (queueIx f)).length < 16 ∧ d = .queue (queueIx f) s.ids ∧
      t = s.fresh.2.updC fun c => c.setQueue (queueIx f) (s.core.queue (queueIx f) ++ [.res s.ids])) := by
  unfold State.reserveS at h
  by_cases hs : isS f = true
  · rw [if_pos hs] at h
    dsimp only at h
    split at h
    · rename_i h0; cases h; exact .inl ⟨hs, h0, rfl, rfl⟩
    · split at h
      · cases h
      · rename_i h0 hb; cases h; exact .inr (.inl ⟨hs, h0, Bool.eq_false_iff.2 hb, rfl, rfl⟩)
  · rw [if_neg hs] at h
    dsimp only [State.fresh] at h
    split at h
    · rename_i hl; cases h; exact .inr (.inr ⟨Bool.eq_false_iff.2 hs, hl, rfl, rfl⟩)
    · cases h

theorem reserveS_mem {s t : State} {f : OpField} {d : SDest} (h : s.reserveS f = .ok (d, t)) : t.mem = s.mem := by
  obtain ⟨-, -, -, rfl⟩ | ⟨-, -, -, -, rfl⟩ | ⟨-, -, -, rfl⟩ := reserveS_cases h <;> rfl

/-- A late result on a core: nothing for s0; the scalar, no longer awaited; the slot reserved (R37, R207). -/
theorem deliver_scal (c : Core) (k : Strm) (n : Nat) (v : Word) (h : n ≠ 0) : ((c.deliver (.scal k n) v).strm k).sreg n = v := by
  simp [Core.deliver, StrmSt.sreg, StrmSt.setSreg, h, sparse_get_set_same]

/-! ### Ports, vector operands -/

/-- One tile popped: the port's oldest, unmarked, and the rest from what is left of the port (R30, R223). -/
theorem popPort_succ {s t : State} {p n : Nat} {l : List VReg} (h : s.popPort p (n + 1) = .ok (l, t)) :
    ∃ x r m, (s.core.port p).slots = .tile x :: r ∧ x.mark = none ∧ l = x.data :: m ∧
      (s.updC fun c => c.setPort p { c.port p with slots := r }).popPort p n = .ok (m, t) := by
  simp only [State.popPort] at h
  match hs : (s.core.port p).slots with
  | [] => simp [hs] at h
  | .res _ :: _ => simp [hs] at h
  | .tile x :: r =>
    match hm : x.mark with
    | some _ => simp [hs, hm] at h
    | none =>
      simp only [hs, hm] at h
      match hp : (s.updC fun c => c.setPort p { c.port p with slots := r }).popPort p n with
      | .error _ => simp [hp] at h
      | .ok (m, u) => simp only [hp] at h; cases h; exact ⟨x, r, m, rfl, hm, rfl, hp⟩

/-- Popping tiles changes the core's ports alone (R30, R39). -/
theorem popPort_frame {s t : State} {p n : Nat} {l : List VReg} (h : s.popPort p n = .ok (l, t)) :
    l.length = n ∧ ∃ q, t = { s with core := { s.core with ports := q } } := by
  induction n generalizing s l with
  | zero => cases h; exact ⟨rfl, t.core.ports, rfl⟩
  | succ n ih =>
    obtain ⟨x, r, m, -, -, rfl, hp⟩ := popPort_succ h
    obtain ⟨hl, q, rfl⟩ := ih hp
    exact ⟨congrArg Nat.succ hl, q, rfl⟩

/-- Reserving slots changes the core's ports and the next identity alone (R30). -/
theorem reservePort_frame {s t : State} {p n : Nat} {l : List Nat} (h : s.reservePort p n = .ok (l, t)) :
    l.length = n ∧ ∃ q m, t = { s with core := { s.core with ports := q }, ids := m } := by
  induction n generalizing s l with
  | zero => cases h; exact ⟨rfl, t.core.ports, t.ids, rfl⟩
  | succ n ih =>
    unfold State.reservePort at h
    dsimp only [State.fresh] at h
    split at h
    · cases h
    · split at h
      · cases h
      · cases h
        obtain ⟨hl, q, m, rfl⟩ := ih ‹_›
        exact ⟨by simp [hl], q, m, rfl⟩

/-- A vector source: registers as they stand, tiles popped, or a scalar for every element; only ports and queues change (R30, R238). -/
theorem readV_frame {s t : State} {f : OpField} {n : Nat} {x : VSrc} (h : s.readV f n = .ok (x, t)) :
    ∃ p q, t = { s with core := { s.core with ports := p, queues := q } } := by
  unfold State.readV at h
  split at h
  · obtain ⟨-, rfl⟩ := Prod.mk.inj (Except.ok.inj h); exact ⟨s.core.ports, s.core.queues, rfl⟩
  · split at h
    · split at h
      · cases h
      · cases h
        obtain ⟨-, q, rfl⟩ := popPort_frame ‹_›
        exact ⟨q, s.core.queues, rfl⟩
    · split at h
      · cases h
      · cases h
        obtain ⟨q, rfl⟩ := readS_frame ‹_›
        exact ⟨s.core.ports, q, rfl⟩

/-- A register source gives the registers as they stand. -/
theorem readV_reg {s t : State} {f : OpField} {n : Nat} {x : VSrc} (hv : isV f = true) (h : s.readV f n = .ok (x, t)) :
    x = .tiles ((s.physRange f.toNat n).map s.core.vreg) ∧ t = s := by
  unfold State.readV at h
  rw [if_pos hv] at h
  cases h; exact ⟨rfl, rfl⟩

/-- A write in flight stands among the core's; identities and the section's end move with it (R17, R43). -/
theorem pend_core (s : State) (lat : Nat) (e : PEff) (ev : List Nat) :
    (s.pend lat e ev).core.pending =
      insertPending { due := s.now + lat, ord := s.ids, strm := s.cur, eff := e, events := ev, shd := s.keepsBits } s.core.pending := by
  simp [State.pend, State.fresh, State.now, State.die, Core.useBanks]

@[simp] theorem pend_mem (s : State) (lat : Nat) (e : PEff) (ev : List Nat) : (s.pend lat e ev).mem = s.mem := rfl
@[simp] theorem pend_cur (s : State) (lat : Nat) (e : PEff) (ev : List Nat) : (s.pend lat e ev).cur = s.cur := rfl
@[simp] theorem pend_dies (s : State) (lat : Nat) (e : PEff) (ev : List Nat) : (s.pend lat e ev).dies = s.dies := rfl
@[simp] theorem pend_parked (s : State) (lat : Nat) (e : PEff) (ev : List Nat) : (s.pend lat e ev).parked = s.parked := rfl
@[simp] theorem pend_host (s : State) (lat : Nat) (e : PEff) (ev : List Nat) : (s.pend lat e ev).host = s.host := rfl

/-- A register destination always accepts: its parts land later. -/
theorem writeV_reg (s : State) {f : OpField} (lat : Nat) (parts : List RegPart) (ev : List Nat) (h : isV f = true) :
    s.writeV f lat parts ev = .ok (s.pend lat (.regs parts) ev) := if_pos h

theorem pend_foldl_mem {p lat : Nat} (l : List (Nat × RegPart)) (a : State × List Nat) :
    (l.foldl (fun (acc : State × List Nat) x => (acc.1.pend lat (.port p x.1 x.2.val) acc.2, [])) a).1.mem = a.1.mem := by
  induction l generalizing a with
  | nil => rfl
  | cons x r ih => rw [List.foldl_cons, ih]; rfl

theorem writeV_mem {s t : State} {f : OpField} {lat : Nat} {parts : List RegPart} {ev : List Nat}
    (h : s.writeV f lat parts ev = .ok t) : t.mem = s.mem := by
  unfold State.writeV at h
  split at h
  · cases h; rfl
  · split at h
    · cases h
    · cases h
      obtain ⟨-, q, m, rfl⟩ := reservePort_frame ‹_›
      exact pend_foldl_mem ..

/-! ### Tokens, accesses -/

/-- A word joins its token: one batch more, or one operation more in the open batch; nothing else changes but the next identity (R96). -/
theorem joinTok_frame (s : State) (n : Nat) (opn : Bool) :
    ∃ t, (s.joinTok n opn).2 = { (s.upd fun x => x.setToken n t) with ids := s.ids + 1 } := ⟨_, rfl⟩

/-- A word joins its token, or has none; with 255 batches outstanding it waits (R40, R96). -/
theorem joinWord_cases {s t : State} {tke opn : Bool} {n : Nat} {r : Option TokRef} (h : s.joinWord tke n opn = .ok (r, t)) :
    (tke = false ∧ r = none ∧ t = s) ∨
    (tke = true ∧ (s.strm.token n).room opn = true ∧ r = some (s.joinTok n opn).1 ∧ t = (s.joinTok n opn).2) := by
  unfold State.joinWord State.joinIf at h
  cases tke with
  | false => exact .inl ⟨rfl, by cases h; exact ⟨rfl, rfl⟩⟩
  | true =>
    cases hr : (s.strm.token n).room opn with
    | false => simp [hr] at h
    | true =>
      simp only [hr, Bool.true_and, Bool.not_true, if_true, Bool.false_eq_true, if_false] at h
      cases h
      exact .inr ⟨rfl, rfl, rfl, rfl⟩

theorem joinWord_mem {s t : State} {tke opn : Bool} {n : Nat} {r : Option TokRef} (h : s.joinWord tke n opn = .ok (r, t)) :
    t.mem = s.mem := by
  obtain ⟨-, -, rfl⟩ | ⟨-, -, -, rfl⟩ := joinWord_cases h <;> rfl

theorem countIf_frame (b : Bool) (n : Nat) (c : Core) : ∃ p, (if b = true then c.count n 1 else c) = { c with pmc := p } := by
  cases b
  · exact ⟨c.pmc, rfl⟩
  · exact ⟨(c.count n 1).pmc, rfl⟩

/-- Keeping a translation changes translation buffers, the counters of misses and what a walk's reads change (R323, R354). -/
theorem fillTlb_frame (s : State) (va : Nat) :
    ∃ c p t, s.served t ∧ s.fillTlb va = { t with core := { s.core with tlb := c, pmc := p } } := by
  unfold State.fillTlb
  extract_lets ptb
  split
  · exact ⟨s.core.tlb, s.core.pmc, s, served_refl s, rfl⟩
  · split
    · exact ⟨s.core.tlb, s.core.pmc, s, served_refl s, rfl⟩
    · extract_lets u add miss walked s0 s1
      have e0 : s.served s0 := ite_both (P := s.served) (served_touchRows s _) (served_refl s)
      have e1 : s.served s1 := served_trans e0 ⟨_, _, _, _, _, _, _, _, rfl⟩
      have ec : s1.core = s.core := by obtain ⟨_, _, _, _, _, _, _, _, e⟩ := e1; rw [e]
      clear_value s1 miss walked add
      obtain ⟨p1, p1e⟩ := countIf_frame miss 8 s.core
      obtain ⟨p2, p2e⟩ := countIf_frame walked 9 { s.core with pmc := p1 }
      refine ⟨add 64 s.core.tlb, p2, s1, e1, ?_⟩
      unfold State.updC
      dsimp only
      rw [ec, p1e, p2e]

theorem fillTlbs_frame (s : State) (vas : List Nat) :
    ∃ c p t, s.served t ∧ s.fillTlbs vas = { t with core := { s.core with tlb := c, pmc := p } } := by
  unfold State.fillTlbs
  generalize (vas.map (· / 65536)).dedup = pages
  induction pages generalizing s with
  | nil => exact ⟨s.core.tlb, s.core.pmc, s, served_refl s, rfl⟩
  | cons a r ih =>
    obtain ⟨_, _, t, ht, e⟩ := fillTlb_frame s (a * 65536)
    rw [List.foldl_cons, e]
    obtain ⟨c, p, u, hu, eu⟩ := ih { t with core := _ }
    obtain ⟨_, _, _, _, _, _, _, _, rfl⟩ := ht
    obtain ⟨_, _, _, _, _, _, _, _, rfl⟩ := hu
    exact ⟨c, p, _, ⟨_, _, _, _, _, _, _, _, rfl⟩, eu⟩

theorem memForm_fillTlb {s : State} (va : Nat) (h : s.memForm) : (s.fillTlb va).memForm := by
  unfold State.fillTlb
  extract_lets ptb
  split
  · exact h
  · split
    · exact h
    · extract_lets u add miss walked s0 s1
      have h0 : s0.memForm := memForm_ite (memForm_touchRows _ h) h
      exact h0

theorem memForm_fillTlbs {s : State} (vas : List Nat) (h : s.memForm) : (s.fillTlbs vas).memForm := by
  unfold State.fillTlbs
  generalize (vas.map (· / 65536)).dedup = pages
  induction pages generalizing s with
  | nil => exact h
  | cons a r ih => exact ih (memForm_fillTlb _ h)

/-- An access stands at the end of the core's list (R100). -/
theorem addOpAt_ops (s : State) (cls : Nat) (kinds : BitVec 6) (va : Nat) (vas : List (Nat × Nat)) (b : MBody) (tok : Option TokRef) (wait : Nat) :
    (s.addOpAt cls kinds va vas b tok wait).core.ops = s.core.ops ++
      [{ id := s.ids, strm := s.cur, cls := cls, kinds := kinds, va := va, vas := vas, body := b, tok := tok, notBefore := s.now + wait
         blocked := [], shd := s.keepsBits, pc := s.strm.pc }] := by
  unfold State.addOpAt
  dsimp only [State.fresh]
  generalize vas.map (·.2) = pages
  generalize hx : State.updC { s with ids := s.ids + 1 } _ = x
  obtain ⟨c, p, t, -, e⟩ := fillTlbs_frame x pages
  rw [e, ← hx]; rfl

theorem memForm_addOpAt {s : State} (cls : Nat) (kinds : BitVec 6) (va : Nat) (vas : List (Nat × Nat)) (b : MBody) (tok : Option TokRef)
    (wait : Nat) (h : s.memForm) : (s.addOpAt cls kinds va vas b tok wait).memForm := memForm_fillTlbs _ h

/-! ### The end of a word -/

/-- A word's end moves its stream on and nothing else (R182). -/
@[simp] theorem retire_mem (s : State) (cost : Nat) : (s.retire cost).mem = s.mem := rfl
@[simp] theorem transfer_mem (s : State) (x : StrmSt) (cost : Nat) : (s.transfer x cost).mem = s.mem := rfl

theorem memForm_stepHalt {s : State} (h : s.memForm) : s.stepHalt.memForm := ite_both (P := State.memForm) h h
theorem memForm_retire {s : State} (cost : Nat) (h : s.memForm) : (s.retire cost).memForm := h
theorem memForm_transfer {s : State} {x : StrmSt} (cost : Nat) (h : s.memForm) : (s.transfer x cost).memForm := h

theorem memForm_stall {s : State} (keys : List Nat) (h : s.memForm) : (s.stall keys).memForm := ite_both (P := State.memForm) h h

/-- Memory keeps its form over an attempt if it does where the attempt succeeds. -/
theorem memForm_outcome {s t : State} {r : Res State} (h : s.memForm) (hr : ∀ u, r = .ok u → u.memForm) (e : outcome s r = .next t) :
    t.memForm := by
  unfold outcome at e
  split at e
  · cases e; exact hr _ rfl
  · cases e; exact h
  · cases e; exact memForm_stall _ h
  · unfold takeFault at e
    split at e
    · cases e
    · cases e; exact memForm_raise _ h

/-- A stream moves to the next word of its section, or to the next header (R166). -/
theorem advance_cases (x : StrmSt) :
    (x.wordIdx + 1 < x.secLen ∧ x.advance = { x with pc := x.pc + 12 }) ∨
    (¬ x.wordIdx + 1 < x.secLen ∧ x.advance = x.toHdr (x.pc + 12) 0) := by
  unfold StrmSt.advance
  split
  · exact .inl ⟨‹_›, rfl⟩
  · exact .inr ⟨‹_›, rfl⟩

/-- Moving on leaves a stream's scalars, masks of readiness, tokens, events and view alone. -/
theorem advance_sameBut (x : StrmSt) : x.sameBut x.advance := by
  obtain ⟨-, e⟩ | ⟨-, e⟩ := advance_cases x
  · rw [e]; rfl
  · rw [e]; unfold StrmSt.sameBut StrmSt.toHdr StrmSt.leave
    split <;> rfl

/-! ### Words of one scalar result -/

/-- A word of one scalar result: it completes where it is legal, its sources can be read and its destination accepts. -/
theorem alu_next {s t u : State} {h : Shape} {a b c : Word} {cost : Nat} {f : Word → Word → Word → Word}
    (ht : s.takes h a b c t) (hg : t.gives h.hd.d (f a b c) cost u) :
    outcome s (s.alu h cost f) = .next (u.retire 1) := by
  obtain ⟨⟨h1, h2⟩, h3⟩ := ht
  unfold State.gives at hg
  simp [State.alu, State.aluIf, h1, h2, h3, hg]

/-- A meaning that is one scalar result, by the function it computes. -/
theorem scalarResult_of {i : Instr} {h : Shape} {cost : Nat} {f g : Word → Word → Word → Word}
    (hx : ∀ s, exec i s = outcome s (s.alu h cost g)) (hf : ∀ a b c, f a b c = g a b c) : ScalarResult i h cost f := by
  intro s a b c t u ht hg
  rw [hx]; exact alu_next ht (by rw [← hf]; exact hg)

/-! ### Completion -/

/-- Whether D takes a result depends on the scalars awaited and the queues alone (R37, R38). -/
theorem open_iff {s : State} {f : OpField} : s.open_ f ↔
    if isS f then scalIx f = 0 ∨ s.strm.busy.contains (scalIx f) = false else (s.core.queue (queueIx f)).length < 16 := by
  unfold State.open_ State.writeS
  by_cases h : isS f = true <;> by_cases g : scalIx f = 0 <;> simp [h, g] <;> split <;> simp_all

/-- Where D takes a result it can be reserved (R37, R207). -/
theorem reserveS_open {s : State} {f : OpField} (h : s.open_ f) : ∃ d v, s.reserveS f = .ok (d, v) := by
  rw [open_iff] at h
  unfold State.reserveS
  by_cases e : isS f = true <;> by_cases g : scalIx f = 0 <;> simp_all

/-- A command the Orrery takes whose contexts are there: it joins its batch, its result is reserved, it stands or is applied (R142, R145, R283). -/
theorem submitK_lands {s : State} {w : Wm} {c : Ctx} {cmd : DestRef → KCmd} {result : Bool} {cs : List Ctx} {counted : Bool}
    (hot : ∀ y ∈ cs, y.hot = true) (room : s.batchRoom w) (takes : result = true → s.open_ w.d) :
    ∃ (tok : Option TokRef) (d : SDest) (v : State), s.submitK w c cmd result cs counted = .ok ((v.addK w tok c.num (cmd (s.destRef d))).retire 1) := by
  have cold : cs.filter (fun y => !y.hot) = [] := List.filter_eq_nil_iff.2 fun y hy => by simp [hot y hy]
  have full : s.mapFull cs = false := by simp [State.mapFull, cold]
  obtain ⟨x, hx, tk, op⟩ : ∃ x, s.swapIn cs counted = .ok x ∧ (∀ k, x.strm.token k = s.strm.token k) ∧ (s.open_ w.d → x.open_ w.d) := by
    refine ⟨if counted then s.updC fun k => k.count 6 0 else s, ?_, ?_, ?_⟩
    · simp [State.swapIn, cold, State.readGate, State.gate, State.touchRows]
    · intro k; cases counted <;> cases h : s.cur <;> simp [State.strm, State.updC, Core.count, Core.strm, h]
    · simp only [open_iff]; cases counted <;> cases h : s.cur <;> simp [State.strm, State.updC, Core.count, Core.strm, Core.queue, h]
  have room' : (w.tke && !(x.strm.token w.tk.toNat).room w.opn) = false := by
    rw [tk]; cases e : w.tke
    · rfl
    · simp [room e]
  have op2 : s.open_ w.d → (x.joinIf w.tke w.tk.toNat w.opn).2.open_ w.d := by
    intro o; have o := op o
    rw [open_iff] at o ⊢
    cases e : w.tke <;> cases h : x.cur <;> simp_all [State.joinIf, State.joinTok, State.fresh, State.strm, State.upd, Core.strm, Core.setStrm, Core.queue, StrmSt.setToken]
  generalize hj : x.joinIf w.tke w.tk.toNat w.opn = j at op2
  have jw : x.joinW w = .ok j := by simp only [State.joinW, State.joinWord, room', Bool.false_eq_true, if_false, hj]
  unfold State.submitK
  cases result
  · exact ⟨j.1, .none, j.2, by simp [full, hx, jw, bind, Except.bind]⟩
  · obtain ⟨d, v, hd⟩ := reserveS_open (op2 (takes rfl))
    exact ⟨j.1, d, v, by simp [full, hx, jw, hd, bind, Except.bind]⟩
end Sys2Proof.Machine
end

