-- ==== Sys2Proof/Tests/Slice0.lean ====
section
/-!
SUPPORT. Tests: ill-formed terms refused, words of the spec decoded, single steps, and a witness for every statement's hypotheses. Expected
values come from the spec's tables and examples, or from counting by hand; a witness shows only that hypotheses can be met.
-/

namespace Sys2Proof.Tests
open Sys2Proof Sys2Proof.Machine

-- one theorem at a time: the proofs evaluate the machine, and side by side they need too many threads
set_option Elab.async false

/-! ### Helpers -/

def okB {α : Type} (r : Res α) : Bool := match r with | .ok _ => true | .error _ => false
def val {α : Type} [Inhabited α] (r : Res α) : α := match r with | .ok a => a | .error _ => default
theorem got {α : Type} [Inhabited α] {r : Res α} (h : okB r = true) : r = .ok (val r) := by cases r <;> trivial
/-- The fault of an attempt that traps. -/
def trapOf {α : Type} (r : Res α) : Option FaultInfo := match r with | .error (.trap f) => some f | _ => none
theorem trapped {α : Type} {r : Res α} {f : FaultInfo} (h : trapOf r = some f) : r = .error (.trap f) := by
  unfold trapOf at h; split at h <;> simp_all
/-- The state a step goes on to. -/
def nextOf (o : Out) : State := match o with | .next t => t | _ => default
def goes (o : Out) : Bool := match o with | .next _ => true | _ => false
theorem goes_next {o : Out} (h : goes o = true) : o = .next (nextOf o) := by cases o <;> trivial

/-- What the sources of a word give. -/
def srcs (s : State) (h : Shape) : (Word × Word × Word) × State := val (s.sources h)
def takesB (s : State) (h : Shape) : Bool := okB (s.static h) && okB (s.await h.hd) && okB (s.sources h)
def legalB (s : State) (h : Shape) : Bool := okB (s.static h) && okB (s.await h.hd)
theorem legal_of {s : State} {h : Shape} (e : legalB s h = true) : s.legal h := by
  simp only [legalB, Bool.and_eq_true] at e
  exact ⟨got e.1, got e.2⟩
theorem takesOf_of {s : State} {h g : Shape} (e : legalB s h = true) (e2 : okB (s.sources g) = true) :
    s.takesOf h g (srcs s g).1.1 (srcs s g).1.2.1 (srcs s g).1.2.2 (srcs s g).2 := ⟨legal_of e, got e2⟩
theorem takes_of {s : State} {h : Shape} (e : takesB s h = true) :
    s.takes h (srcs s h).1.1 (srcs s h).1.2.1 (srcs s h).1.2.2 (srcs s h).2 := by
  simp only [takesB, Bool.and_eq_true] at e
  exact ⟨⟨got e.1.1, got e.1.2⟩, got e.2⟩

/-- A live stream at the first word of a section of three words in the scratchpad window. -/
def strmAt (regs : Sparse Word) : StrmSt :=
  { (default : StrmSt) with sregs := regs, pc := 0x10000008, secBase := 0x10000000, secLen := 3, entered := true }

/-- The key of an address of the window, for cluster 0 of die 0. -/
def winKey (off : Nat) : Nat := scratchBase + off

/-- A page of HBM at 0x40000000, frame 1; one beyond the stacks at 0x50000000. -/
def pages : List TlbEnt :=
  [{ ptb := 0, page := 0x4000, big := false, leaf := 2 ^ 59 + 65536 + 3 }, { ptb := 0, page := 0x5000, big := false, leaf := 2 ^ 59 + 0xC000000000 + 3 }]

def bedCore : Core :=
  { (default : Core) with
    running := true, lrec := 0x4000, node := 0x8000, sys := true, njob := 1, rakeW := 1, tlb := pages
    sa := strmAt [(1, 0x10001000), (2, 7), (3, 5), (4, 0x40000000)], sv := strmAt [(1, 3), (2, 7)], sm := strmAt [(1, 0x10001000), (2, 7)] }

/-- A running job on core 0 of die 0, one stream of it issuing; host traffic flows. -/
def bed (k : Strm) : State := { State.reset with core := bedCore, cur := k, host := { HostSt.reset with ide := true, rdy := true } }

/-- The bed with bytes of memory. -/
def bedM (k : Strm) (key : Nat) (bs : List Byte) : State := { bed k with mem := memWrite [] key bs }

def hd (d a b c : OpField) : Hd := { pm := 0, awe := false, awk := 0, d := d, a := a, b := b, c := c }
def wz (d a b : OpField) : Wz := { hd d a b 0 with x := 0 }
def wi (d a b c : OpField) (imm : BitVec 36) : Wi := { hd d a b c with imm := imm }
def wt (d a b c : OpField) (et : BitVec 4) (ext : BitVec 28) : Wt := { hd d a b c with et := et, rm := 0, sat := false, ext := ext }
def wm (d a b c : OpField) (tke : Bool) (sz : BitVec 3) (disp : BitVec 24) : Wm :=
  { hd d a b c with cls := 0, tke := tke, tk := 0, opn := false, sz := sz, disp := disp }

/-! ### Well-formedness: one ill-formed term for each check -/

theorem test_wf_good : (Instr.add (wz 698 699 700)).wellFormed = true := by decide
/-- D must be a scalar or a queue (R29, R180). -/
theorem test_wf_d : (Instr.add (wz 5 699 700)).wellFormed = false := by decide
theorem test_wf_a : (Instr.add (wz 698 5 700)).wellFormed = false := by decide
theorem test_wf_b : (Instr.add (wz 698 699 1000)).wellFormed = false := by decide
/-- An unused field must be zero (R29). -/
theorem test_wf_c : (Instr.add { wz 698 699 700 with c := 1 }).wellFormed = false := by decide
/-- Reserved X bits must be zero (R171). -/
theorem test_wf_x : (Instr.add { wz 698 699 700 with x := 1 }).wellFormed = false := by decide
/-- A shift uses IMM[5:0] alone (R184). -/
theorem test_wf_imm : (Instr.shli (wi 698 699 0 0 64)).wellFormed = false := by decide
/-- AWK without AWE, PM in a word without lanes (R170). -/
theorem test_wf_awk : (Instr.add { wz 698 699 700 with awk := 1 }).wellFormed = false := by decide
theorem test_wf_pm : (Instr.add { wz 698 699 700 with pm := 1 }).wellFormed = false := by decide
/-- A source of an four-register store may not straddle a window (R34). -/
theorem test_wf_window : (Instr.stv (wm 0 697 696 510 false 2 0)).wellFormed = false ∧ (Instr.stv (wm 0 697 696 508 false 2 0)).wellFormed = true := by decide
/-- FP32 registers come in even pairs (R31). -/
theorem test_wf_pair : (Instr.vadd (wt 1 2 4 0 11 0)).wellFormed = false ∧ (Instr.vadd (wt 0 2 4 0 11 0)).wellFormed = true := by decide
/-- A reserved element type (R56). -/
theorem test_wf_type : (Instr.vadd (wt 0 2 4 0 13 0)).wellFormed = false := by decide
/-- A word that requires a token (R209). -/
theorem test_wf_token : (Instr.ldv (wm 0 697 696 0 false 0 0)).wellFormed = false ∧ (Instr.ldv (wm 0 697 696 0 true 0 0)).wellFormed = true := by decide
/-- A tile operand is a tile of stream M (R35, R260). -/
theorem test_wf_tile : (Instr.mclr (wt 5 0 0 0 0 0)).wellFormed = false ∧ (Instr.mclr (wt 650 0 0 0 0 0)).wellFormed = true := by decide

/-! ### Decoding: words of the spec, bit by bit -/

/-- The words of the examples of the spec, their three dwords high first (07 to 13). -/
theorem test_decode_movi : ∃ w, decodeWord 0x05000AE40000000300000268 = some (.movi w) ∧ w.d = 697 ∧ w.imm.toNat = 0x300000268 := ⟨_, rfl, rfl, rfl⟩
theorem test_decode_mma : ∃ w, decodeWord 0x70000A2A5897000708000000 = some (.mma w) ∧ w.d = 650 ∧ w.a = 600 ∧ w.b = 604 ∧ w.et = 7 ∧
    w.ext = 0x8000000 := ⟨_, rfl, by decide, by decide, by decide, by decide, by decide⟩
theorem test_decode_vcvts : ∃ w, decodeWord 0x4310007814AEC00719000000 = some (.vcvts w) ∧ w.d = 30 ∧ w.a = 20 ∧ w.b = 699 := ⟨_, rfl, by decide, by decide, by decide⟩
theorem test_decode_kvw : ∃ w, decodeWord 0x81000002BCAF6BE1A0000000 = some (.kvw w) ∧ w.tke = true ∧ w.a = 700 := ⟨_, rfl, by decide, by decide⟩
theorem test_decode_pmcrd : ∃ w, decodeWord 0x86300AF2BA00000000000011 = some (.pmcrd w) ∧ w.d = 700 ∧ w.a = 698 ∧ w.imm = 17 := ⟨_, rfl, by decide, by decide, by decide⟩

/-- One body under every OP and FN of the opcode map (R170 to R172): PM 5, AWE 1, AWK 3, D 0x155, A 0x0AA, B 0x133, C 0x2CC, X 0x9A6544321. -/
def body : Nat := 0x5B554AA4CECC9A6544321
def row (op : Nat) (fns : List Nat) : List (Option Instr) := fns.map fun fn => decodeWord (op * 2 ^ 88 + fn * 2 ^ 84 + body)
def zh : Hd := { pm := 5, awe := 1, awk := 3, d := 0x155, a := 0x0AA, b := 0x133, c := 0x2CC }
def zz : Wz := { zh with x := 0x9A6544321 }
def zi : Wi := { zh with imm := 0x9A6544321 }
def zt : Wt := { zh with et := 9, rm := 5, sat := false, ext := 0x6544321 }
def zm : Wm := { zh with cls := 9, tke := true, tk := 2, opn := false, sz := 6, disp := 0x544321 }
def zf : Wf := { zh with res := 19, scope := 2, pred := 25, succ := 20, clm := 0x4321 }
theorem test_op01 : row 0x01 [0, 1, 2, 3, 4, 5, 6, 7, 8, 9, 10, 11, 12, 13] =
    [some (.add zz), some (.sub zz), some (.and zz), some (.or zz), some (.xor zz), some (.shl zz), some (.shr zz), some (.sra zz), some (.slt zz), some (.sltu zz), some (.min zz), some (.max zz), some (.minu zz), some (.maxu zz)] := rfl
theorem test_op02 : row 0x02 [0, 2, 3, 4, 5, 6, 7, 8, 9, 10, 11, 12, 13] =
    [some (.addi zi), some (.andi zi), some (.ori zi), some (.xori zi), some (.shli zi), some (.shri zi), some (.srai zi), some (.slti zi), some (.sltiu zi), some (.mini zi), some (.maxi zi), some (.minui zi), some (.maxui zi)] := rfl
theorem test_op03 : row 0x03 [0, 1, 2, 3, 4, 5, 6, 7, 8] =
    [some (.mul zz), some (.mulh zz), some (.mulhu zz), some (.div zz), some (.divu zz), some (.rem zz), some (.remu zz), some (.sclmul zz), some (.sclmulh zz)] := rfl
theorem test_op04 : row 0x04 [0, 1, 2, 3, 4, 5, 6, 7] =
    [some (.clz zi), some (.ctz zi), some (.popc zi), some (.brev zi), some (.bswap zi), some (.extr zi), some (.ins zi), some (.extrs zi)] := rfl
theorem test_op05 : row 0x05 [0, 1, 2, 3] =
    [some (.movi zi), some (.movhi zi), some (.mov zi), some (.sel zi)] := rfl
theorem test_op08 : row 0x08 [0, 1, 2, 3, 4, 5] =
    [some (.beq zi), some (.bne zi), some (.blt zi), some (.bge zi), some (.bltu zi), some (.bgeu zi)] := rfl
theorem test_op09 : row 0x09 [0, 1, 2, 3, 4, 5] =
    [some (.br zi), some (.bri zi), some (.call zi), some (.ret zi), some (.bq zi), some (.bqz zi)] := rfl
theorem test_op0A : row 0x0A [0, 1, 2, 3] =
    [some (.loop zi), some (.loopi zi), some (.loops zi), some (.rrbset zi)] := rfl
theorem test_op0B : row 0x0B [0, 1, 2, 3, 4, 5] =
    [some (.rdz zi), some (.yield zi), some (.endStream zi), some (.trap zi), some (.eret zi), some (.bkpt zi)] := rfl
theorem test_op0C : row 0x0C [0, 1, 2] =
    [some (.rdsr zi), some (.wrsr zi), some (.rdcyc zi)] := rfl
theorem test_op0D : row 0x0D [0, 1] =
    [some (.sqw zz), some (.sqr zz)] := rfl
theorem test_op10 : row 0x10 [0, 1, 2, 3, 4, 5, 6] =
    [some (.ldB zm), some (.ldBn zm), some (.ldH zm), some (.ldHn zm), some (.ldW zm), some (.ldWn zm), some (.ldD zm)] := rfl
theorem test_op11 : row 0x11 [0, 1, 2, 3] =
    [some (.stB zm), some (.stH zm), some (.stW zm), some (.stD zm)] := rfl
theorem test_op12 : row 0x12 [0, 1] =
    [some (.ldv zm), some (.ldvp zm)] := rfl
theorem test_op13 : row 0x13 [0, 1] =
    [some (.stv zm), some (.stvp zm)] := rfl
theorem test_op14 : row 0x14 [0] =
    [some (.ldg zm)] := rfl
theorem test_op15 : row 0x15 [0] =
    [some (.stg zm)] := rfl
theorem test_op16 : row 0x16 [0, 1, 2, 3, 4, 5, 6, 7, 8, 9] =
    [some (.aaddAtomic zm), some (.aand zm), some (.aor zm), some (.axor zm), some (.amin zm), some (.amax zm), some (.aminn zm), some (.amaxn zm), some (.aswp zm), some (.acas zm)] := rfl
theorem test_op17 : row 0x17 [0] =
    [some (.fence zf)] := rfl
theorem test_op18 : row 0x18 [0, 1, 2] =
    [some (.swinit zm), some (.swwait zm), some (.swadd zm)] := rfl
theorem test_op19 : row 0x19 [0, 1, 2, 3] =
    [some (.pcfg zm), some (.pgo zm), some (.pstop zm), some (.pflush zm)] := rfl
theorem test_op1A : row 0x1A [0, 1, 2] =
    [some (.wcfg zm), some (.wadv zm), some (.wrel zm)] := rfl
theorem test_op1B : row 0x1B [0, 1, 2, 3, 4, 5, 6] =
    [some (.cpy zm), some (.cpy2 zm), some (.cpy3 zm), some (.cpysw zm), some (.cbat zm), some (.waitn zm), some (.pref zm)] := rfl
theorem test_op1C : row 0x1C [0, 1] =
    [some (.enq zm), some (.deq zm)] := rfl
theorem test_op1D : row 0x1D [0, 1, 2] =
    [some (.tierin zm), some (.tierq zm), some (.tierev zm)] := rfl
theorem test_op40 : row 0x40 [0, 1, 2, 3, 4, 5, 6, 7, 8, 9] =
    [some (.vadd zt), some (.vsub zt), some (.vmul zt), some (.vfma zt), some (.vfms zt), some (.vmin zt), some (.vmax zt), some (.vabs zt), some (.vneg zt), some (.vabd zt)] := rfl
theorem test_op41 : row 0x41 [0] =
    [some (.vcmp zt)] := rfl
theorem test_op42 : row 0x42 [0, 1, 2, 3, 4, 5, 6, 7] =
    [some (.vand zt), some (.vor zt), some (.vxor zt), some (.vnot zt), some (.vshl zt), some (.vshr zt), some (.vsra zt), some (.vsel zt)] := rfl
theorem test_op43 : row 0x43 [0, 1, 2, 3, 4] =
    [some (.vcvt zt), some (.vcvts zt), some (.vpack zt), some (.vunpk zt), some (.vqi4x zt)] := rfl
theorem test_op44 : row 0x44 [0, 1, 2, 3, 4] =
    [some (.vmov zt), some (.vbcst zt), some (.vins zt), some (.vext zt), some (.vidx zt)] := rfl
theorem test_op45 : row 0x45 [0, 1, 2, 3, 4, 5, 6, 7] =
    [some (.vrotr zt), some (.vrotc zt), some (.vbcr zt), some (.vbcc zt), some (.vredr zt), some (.vredc zt), some (.vtrn zt), some (.vperm zt)] := rfl
theorem test_op46 : row 0x46 [0, 1, 2, 3, 4, 5, 6, 7, 8, 9] =
    [some (.vexp2 zt), some (.vexp zt), some (.vlog2 zt), some (.vrcp zt), some (.vrsq zt), some (.vsqrt zt), some (.vtanh zt), some (.vsigm zt), some (.vsilu zt), some (.vgelu zt)] := rfl
theorem test_op47 : row 0x47 [0, 1] =
    [some (.vrope zt), some (.vsmerge zt)] := rfl
theorem test_op48 : row 0x48 [0, 1, 2, 3] =
    [some (.vclmulL zt), some (.vclmulH zt), some (.vpopc zt), some (.vclz zt)] := rfl
theorem test_op49 : row 0x49 [0, 1] =
    [some (.vrand zt), some (.rngkey zt)] := rfl
theorem test_op4A : row 0x4A [0, 1, 2, 3, 4, 5, 6] =
    [some (.mand zi), some (.mor zi), some (.mxor zi), some (.mnot zi), some (.mset zi), some (.mcnt zi), some (.mfirst zi)] := rfl
theorem test_op70 : row 0x70 [0, 1, 2, 3] =
    [some (.mma zt), some (.mmas zt), some (.mmaf zt), some (.mmat zt)] := rfl
theorem test_op71 : row 0x71 [0, 1, 2, 3, 4, 5, 6, 7] =
    [some (.mclr zt), some (.anch zt), some (.ashf zt), some (.aaddv zt), some (.aaddAcc zt), some (.asub zt), some (.amov zt), some (.acan zt)] := rfl
theorem test_op72 : row 0x72 [0, 1, 2] =
    [some (.rslv zt), some (.acmp zt), some (.aexn zt)] := rfl
theorem test_op73 : row 0x73 [0, 1, 2, 3] =
    [some (.astr zm), some (.astc zm), some (.aldr zm), some (.aldc zm)] := rfl
theorem test_op74 : row 0x74 [0, 1] =
    [some (.setrm zt), some (.fmtt zt)] := rfl
theorem test_op75 : row 0x75 [0, 1] =
    [some (.attn zt), some (.attnm zt)] := rfl
theorem test_op80 : row 0x80 [0, 1, 2, 3, 4] =
    [some (.kvnew zm), some (.kvfree zm), some (.kvfork zm), some (.kvshare zm), some (.kvstat zm)] := rfl
theorem test_op81 : row 0x81 [0, 1, 2] =
    [some (.kvw zm), some (.kvrnw zm), some (.kvexp zm)] := rfl
theorem test_op82 : row 0x82 [0, 1, 2] =
    [some (.kvadv zm), some (.kvcmt zm), some (.kvrwd zm)] := rfl
theorem test_op83 : row 0x83 [0, 1, 2, 3] =
    [some (.smin zm), some (.smout zm), some (.sminv zm), some (.slabgr zm)] := rfl
theorem test_op84 : row 0x84 [0, 1, 2, 3, 4, 5] =
    [some (.xopen zm), some (.xgrant zm), some (.xsend zm), some (.xrecv zm), some (.xclose zm), some (.xstat zm)] := rfl
theorem test_op85 : row 0x85 [0, 1] =
    [some (.pancfg zm), some (.panrd zm)] := rfl
theorem test_op86 : row 0x86 [0, 1, 2, 3] =
    [some (.cntrd zi), some (.cntclr zi), some (.invtlb zi), some (.pmcrd zi)] := rfl
/-- PANCFG with SZ[0] set releases a slot (R299). -/
theorem test_op85rel : decodeWord (0x85 * 2 ^ 88 + body + 2 ^ 24) = some (.pancfgRel { zm with sz := 7 }) := rfl
/-- An FN past a row's last, the FN 0x02 leaves out, an OP in no row (R172). -/
theorem test_unassigned : row 0x01 [14, 15] = [none, none] ∧ row 0x02 [1, 14] = [none, none] ∧ row 0x1D [3] = [none] ∧ row 0x06 [0] = [none] ∧ row 0x87 [0] = [none] := ⟨rfl, rfl, rfl, rfl, rfl⟩

/-! ### Steps and witnesses: the statements in their order -/

/-- DecodeOfEncode, EncodeOfDecode: one instruction of each layout meets the hypotheses. -/
theorem wit_DecodeOfEncode : ∀ i ∈ [Instr.add (wz 698 699 700), .addi (wi 698 699 0 0 5), .vadd (wt 0 2 4 0 11 0), .ldv (wm 0 697 696 0 true 0 0),
    .fence { hd 0 0 0 0 with res := 0, scope := 0, pred := 1, succ := 1, clm := 1 }], (instrShape i).isSome = true ∧ i.wellFormed = true := by decide
theorem wit_EncodeOfDecode : ∃ n i, n < 2 ^ 96 ∧ decodeWord n = some i := ⟨0x4310007814AEC00719000000, _, by decide, rfl⟩

/-- ADD s4, s2, s3 (R170, R172): OP 0x01, FN 0. -/
def addWord : Nat := 0x01 * 2 ^ 88 + 700 * 2 ^ 66 + 698 * 2 ^ 56 + 699 * 2 ^ 46
def fetched : State := (bed .a).withFetchWord 96 addWord
/-- The bed about to enter the section of three words whose header stands at the stream's pc. -/
def hdrA : Nat := encodeHdr { hk := 0xA, len := 3, d1 := 0, d2 := 0, v1 := false, v2 := false, sid := 0, res := 0, tag := 0 }
def atHdrA : State := (bed .a).updC fun c => { c with
  code := memWrite [] (winKey 0) (leBytes 8 hdrA), sa := { c.sa with pc := 0x10000000, atHdr := true, entered := false } }

/-- The word that was placed runs: s4 becomes 7 + 5. -/
theorem test_step_add : (nextOf (step fetched)).core.sa.sreg 4 = 12 := by decide

/-- LD.D through a leaf beyond the stacks stops the model. -/
def beyond : State := (bed .a).upd fun x => { x with sregs := [(1, 0x50000000)] }
theorem wit_StopsAreNamed : ∃ s f, step s = .fault f := by
  refine ⟨{ beyond with agenda := [.ldD (wm 698 697 0 0 false 0 0)] }, .noBacking, ?_⟩
  rfl
theorem wit_StepKeepsMemoryForm : ∃ s t, s.memOk ∧ step s = .next t := ⟨fetched, _, rfl, goes_next (by decide)⟩

/-- ThreeRegisterResults, and every word of that shape: the sources can be read and the destination accepts. -/
theorem wit_ThreeRegisterResults : ∃ s a b c t u, State.takes s (shZ3 (wz 700 698 699)) a b c t ∧ t.gives 700 (a + b) 1 u :=
  ⟨bed .a, _, _, _, _, _, takes_of (by decide), got (by decide)⟩
theorem wit_ImmediateResults : (∃ s a b c t u, State.takes s (shI (wi 700 698 0 0 5) 36 .sDst .sSrc .none .none) a b c t ∧ t.gives 700 a 1 u) ∧
    (∃ s a b c t u, State.takes s (shI (wi 700 698 0 0 63) 6 .sDst .sSrc .none .none) a b c t ∧ t.gives 700 a 1 u) ∧
    (wi 700 698 0 0 64).imm.toNat / 64 ≠ 0 ∧ (∃ x : Nat, x < 2 ^ 96 ∧ x / 2 ^ 88 = 2 ∧ x / 2 ^ 84 % 16 = 15) :=
  ⟨⟨bed .a, _, _, _, _, _, takes_of (by decide), got (by decide)⟩, ⟨bed .a, _, _, _, _, _, takes_of (by decide), got (by decide)⟩,
   by decide, ⟨2 * 2 ^ 88 + 15 * 2 ^ 84, by decide⟩⟩
theorem wit_MultiplyDivideResults : ∃ s a b c t u, State.takes s (shZ3 (wz 700 698 699)) a b c t ∧ s.strm.divBusy ≤ s.now ∧
    t.gives 700 (BitVec.ofInt 64 (a.toInt.tdiv b.toInt)) (divCost true a b) u :=
  ⟨bed .a, _, _, _, _, _, takes_of (by decide), by decide, got (by decide)⟩
/-- 7 / 5 = 1, 7 rem 5 = 2; a quotient by s0 is all ones, the remainder the dividend (R185). -/
theorem test_divide : (nextOf (exec (.div (wz 700 698 699)) (bed .a))).core.sa.sreg 4 = 1 ∧
    (nextOf (exec (.rem (wz 700 698 699)) (bed .a))).core.sa.sreg 4 = 2 ∧
    (nextOf (exec (.divu (wz 700 698 696)) (bed .a))).core.sa.sreg 4 = 0xFFFFFFFFFFFFFFFF ∧
    (nextOf (exec (.remu (wz 700 698 696)) (bed .a))).core.sa.sreg 4 = 7 := by decide
/-- The field of width 64 at 0, and one past the scalar's end: POS 1 with WID 64. -/
theorem wit_BitOperationResults : (∃ s a b c t u, State.takes s (shI (wi 700 698 0 0 0) 0 .sDst .sSrc .none .none) a b c t ∧ t.gives 700 a 1 u) ∧
    (let w := wi 700 698 699 0 (64 * 64); 1 ≤ fieldWid w ∧ fieldWid w ≤ 64 ∧ fieldPos w + fieldWid w ≤ 64) ∧
    (∃ s a b c t u, State.takes s (shI (wi 700 698 699 0 (64 * 64)) 13 .sDst .sSrc .sSrc .none) a b c t ∧ t.gives 700 a 1 u) ∧
    (let w := wi 700 698 0 0 (64 * 64 + 1); ¬ (1 ≤ fieldWid w ∧ fieldWid w ≤ 64 ∧ fieldPos w + fieldWid w ≤ 64) ∧
      (bed .a).static (shI w 13 .sDst .sSrc .none .none) = .ok ()) :=
  ⟨⟨bed .a, _, _, _, _, _, takes_of (by decide), got (by decide)⟩, by decide, ⟨bed .a, _, _, _, _, _, takes_of (by decide), got (by decide)⟩, by decide⟩

/-! ### Control -/

/-- A branch of three words, to the last word of the section; one of one 4-byte unit, to no word and no header. -/
def tgt12 (s : State) : Res StrmSt := s.target s.cur s.strm (s.strm.pc + 4 * (3 : BitVec 36).signExtend 64)
theorem wit_ConditionalBranches :
    (∃ (w : Wi) (s t : State) (a b c : Word) (x : StrmSt), s.takes (shI w 36 .none .sSrc .sSrc .none) a b c t ∧
      s.target s.cur s.strm (s.strm.pc + 4 * w.imm.signExtend 64) = .ok x) ∧
    (∃ (w : Wi) (s : State) (f : FaultInfo), s.static (shI w 36 .none .sSrc .sSrc .none) = .ok () ∧
      s.target s.cur s.strm (s.strm.pc + 4 * w.imm.signExtend 64) = .error (.trap f) ∧ f.code ≠ .noBacking) :=
  ⟨⟨wi 0 698 699 0 3, bed .a, _, _, _, _, val (tgt12 (bed .a)), takes_of (by decide), got (by decide)⟩,
   ⟨wi 0 698 699 0 1, bed .a, flt .illegalTarget, by decide, trapped (by decide), by decide⟩⟩
/-- 7 ≠ 5: BNE goes three words of four bytes on, BEQ to the next word; 2 cycles and 1 (R168, R182, R189). -/
theorem test_branch : (nextOf (exec (.bne (wi 0 698 699 0 3)) (bed .a))).core.sa.pc = 0x10000014 ∧
    (nextOf (exec (.bne (wi 0 698 699 0 3)) (bed .a))).core.sa.nextIssue = 2 ∧
    (nextOf (exec (.beq (wi 0 698 699 0 6)) (bed .a))).core.sa.pc = 0x10000014 ∧
    (nextOf (exec (.beq (wi 0 698 699 0 6)) (bed .a))).core.sa.nextIssue = 1 := by decide

/-- A link to word 1 of the section whose header stands at the window's start, without entry (R188). -/
def link1 : Word := linkOf 1 0x10000014 false
def withLink : State := { atHdrA with core := { atHdrA.core with sa := strmAt [(1, link1)] } }
/-- RET comes back to word 1, still inside the section (R188). -/
theorem test_ret : (nextOf (exec (.ret (wi 0 697 0 0 0)) withLink)).core.sa.pc = 0x10000014 ∧
    (nextOf (exec (.ret (wi 0 697 0 0 0)) withLink)).core.sa.atHdr = false := by decide

def withLc (n : Word) : State := (bed .v).upd fun x => { x with lc := n }
/-- LOOP with lc = 2: lc becomes 1, the base steps down to 63, the loop mask is all ones (R191). -/
theorem test_loop : let t := nextOf (exec (.loop (wi 697 0 0 0 3)) (withLc 2))
    t.core.sv.lc = 1 ∧ t.core.sv.rrb = 63 ∧ t.core.mask 11 = BitVec.allOnes 1024 ∧ t.core.sv.pc = 0x10000014 := by decide +kernel

/-- The bed in a handler, and with a handler at the first word after the header. -/
def inHandler : State := { atHdrA with core := { atHdrA.core with sa := { strmAt [] with handler := true, epc := link1 } } }
def withEvh : State := { atHdrA with core := { atHdrA.core with sa := { strmAt [] with secBase := 0x20000000, pc := 0x20000008, evh := 0x10000008 } } }
/-- TRAP: cause 1, the immediate in eva, the link of the next word in epc, control at the handler's header (R198, R200). -/
theorem test_trap : let t := nextOf (exec (.trap (wi 0 0 0 0 5)) withEvh)
    t.core.sa.evc = 1 ∧ t.core.sa.eva = 5 ∧ t.core.sa.handler = true ∧ t.core.sa.pc = 0x10000000 ∧ t.core.sa.epc = linkOf 1 0x20000014 false := by decide

/-- RDSR of the largest number, 0x15; of 0x16; in the user view of 0x10. WRSR of each kind of register at the largest value it holds. -/
def user (k : Strm) : State := (bed k).updC fun c => { c with sys := false }
def srVal (v : Word) : State := (bed .a).upd fun x => { x with sregs := [(1, v)] }
/-- WRSR to evh, then RDSR of a value (R50, R204). -/
theorem test_wrsr : (nextOf (exec (.wrsr (wi 0 697 0 0 2)) (srVal 9))).core.sa.evh = 9 ∧
    (nextOf (exec (.rdsr (wi 700 0 0 0 0x09)) (bed .a))).core.sa.sreg 4 = 1 := by decide
theorem wit_UserViewKeepsSystemRegisters : ∃ (i : Instr) (s t : State), isWord i ∧ s.core.sys = false ∧ s.core.running = true ∧
    exec i s = .next t ∧ s.runsOn t :=
  ⟨.add (wz 700 698 699), user .a, _, by unfold isWord; decide, by decide, by decide, goes_next (by decide), by unfold State.runsOn; decide⟩

/-! ### Faults, sections, events, results -/

/-- A region node at 0x8000 whose fault queue at 0x8100 has a ring of four records at 0x9000 and the given TAIL; MSI-X vector 6. -/
def nodeMem (tail : Nat) : List Host.Cell :=
  memWrite (memWrite [] (0x8000 + 64) (leBytes 8 0x8100)) 0x8100 (leBytes 8 0x9000 ++ leBytes 4 4 ++ leBytes 4 0 ++ leBytes 4 tail ++ leBytes 2 6)
def faulty (tail : Nat) : State := { bed .a with mem := nodeMem tail, launches := [{ (default : Launch) with lrec := 0x4000, node := 0x8000, gang := 1, jobs := 1 }] }
/-- Room at TAIL 3, the last slot; none at TAIL 4. -/
theorem wit_FaultsAreTakenAndRecorded :
    (∃ s : State, s.core.running = true ∧ s.core.dbgOk = true) ∧
    (∀ tail ∈ [3, 4], let s := faulty tail
      let fq := s.natAt (0x8000 + 64) 8
      let slot := s.natAt fq 8 + 64 * (s.natAt (fq + 16) 4 % s.natAt (fq + 8) 4)
      fq ≠ 0 ∧ fq + 64 < cxlBase ∧ slot + 64 < cxlBase ∧ s.alive slot 64 ∧ s.alive fq 64 ∧ (slot + 64 ≤ fq ∨ fq + 64 ≤ slot) ∧
      ((s.natAt (fq + 16) 4 + 2 ^ 32 - s.natAt (fq + 12) 4) % 2 ^ 32 = s.natAt (fq + 8) 4 ↔ tail = 4)) :=
  ⟨⟨(bed .a).updC fun c => { c with dbgOk := true }, rfl, rfl⟩, by unfold State.alive; decide⟩
def hdrOf (len sid : Nat) (v1 : Bool) (d1 : Nat) : Nat :=
  encodeHdr { hk := 0xA, len := len, d1 := d1, d2 := 0, v1 := v1, v2 := false, sid := sid, res := 0, tag := 0 }
def enters (h : Nat) : State := (bed .a).updC fun c => { c with
  code := memWrite [] (winKey 0) (leBytes 8 h), sa := { c.sa with pc := 0x10000000, atHdr := true, entered := false } }
/-- The section is entered at the word after its header, and counted (R16, R17). -/
theorem test_entry : let t := nextOf (exec (.sectionEntry .a) (enters (hdrOf 3 0 false 0)))
    t.core.sa.pc = 0x10000008 ∧ t.core.sa.ord = 1 ∧ t.core.sa.secLen = 3 ∧ t.core.sa.atHdr = false := by decide

/-- Every stream at its RDZ; every stream but V stopped, V with an empty queue to pop; every stream stopped. -/
def allRdz : State := (bed .a).updC fun c => { c with sa := { c.sa with atRdz := true }, sv := { c.sv with atRdz := true }, sm := { c.sm with stopped := true } }
def allStopped : State := (bed .a).updC fun c => { c with sa := c.sa.stop, sv := c.sv.stop, sm := c.sm.stop }
/-- SQR s4, q0 in V (R205): OP 0x0D, FN 1. -/
def stuck : State := ((bed .v).withFetchWord 96 (0x0D * 2 ^ 88 + 2 ^ 84 + 700 * 2 ^ 66 + 728 * 2 ^ 56)).updC fun c => { c with
  sa := StrmSt.idle, sm := StrmSt.idle, sv := c.sa }
def heldEvents (n : Nat) (h : Bool) : State := { withEvh with core := { withEvh.core with
  sa := { withEvh.core.sa with held := List.replicate n { cause := 2, sub := 1, info := 5 }, handler := h } } }
/-- The oldest event is taken: cause 2 and detail 1 in evc, its value in eva (R198). -/
theorem test_event : let t := nextOf (exec (.eventTaken .a) (heldEvents 1 false))
    t.core.sa.evc = 258 ∧ t.core.sa.eva = 5 ∧ t.core.sa.handler = true ∧ t.core.sa.held = [] := by decide

/-- A write of one lane of v3 due now: the value 0x1234 at lane 64 × 1 + 2. -/
def onePart : PEff := .regs (elemParts .n16 [3] (BitVec.ofNat 1024 (2 ^ 66)) fun i j => if i = 1 ∧ j = 2 then some 0x1234 else none)
/-! ### Memory accesses -/

theorem addr_of {ea n al : Nat} (h : decide (ea < 2 ^ 52) && (decide (resHi ≤ ea) || decide (ea + n ≤ winHi)) && decide (ea % al = 0) = true) :
    addrOk ea n al := by
  simp only [Bool.and_eq_true, Bool.or_eq_true, decide_eq_true_eq] at h
  exact ⟨h.1.1, h.1.2, h.2⟩

/-- The last eight bytes of the window for LD.D; a page of HBM; an address one past the grid. -/
def topRegs (v : Word) : State := (bed .a).upd fun x => { x with sregs := [(1, v), (2, 0x1122334455667788), (3, 5)] }
theorem wit_ScalarAccessesIssue :
    (∃ (w : Wm) (s t : State) (a b c : Word) (key : Nat) (d : SDest) (u : State), let ea := (a + w.disp.signExtend 64).toNat
      ea = 0x103FFFF8 ∧ s.takes (shLd w) a b c t ∧ addrOk ea 8 8 ∧ s.xlate ea .rd = .ok key ∧ s.poisonedAt key 8 = false ∧ t.reserveS w.d = .ok (d, u)) ∧
    (∃ (w : Wm) (s t : State) (a b c : Word) (key : Nat) (d : SDest) (u : State), let ea := (a + w.disp.signExtend 64).toNat
      ea = 0x40000000 ∧ s.takes (shLd w) a b c t ∧ addrOk ea 8 8 ∧ s.xlate ea .rd = .ok key ∧ s.poisonedAt key 8 = false ∧ t.reserveS w.d = .ok (d, u)) ∧
    (∃ (w : Wm) (s t : State) (a b c : Word), let ea := (a + w.disp.signExtend 64).toNat
      s.takes (shLd w) a b c t ∧ ea < 2 ^ 52 ∧ resHi ≤ ea ∧ ea % 8 ≠ 0) ∧
    (∃ (w : Wm) (s t : State) (a b c : Word) (key : Nat), let ea := (a + w.disp.signExtend 64).toNat
      s.takes (shSt w) a b c t ∧ addrOk ea 8 8 ∧ s.xlate ea .wr = .ok key ∧ s.storesIn w.cls.toNat < 16) ∧
    (∃ (w : Wm) (s t : State) (a b c : Word), let ea := (a + w.disp.signExtend 64).toNat
      s.takes (shSt w) a b c t ∧ ea < 2 ^ 52 ∧ ea + 8 ≤ winHi ∧ ea % 8 ≠ 0) ∧
    (∀ k ∈ [OpK.none, .sSrc], ∃ (w : Wm) (s t u : State) (a b c : Word) (key : Nat) (d : SDest),
      let ea := (a + w.disp.signExtend 64).toNat
      let n := 2 ^ w.sz.toNat
      s.takes (shM w .none false 0xF 24 .sDst .sSrc .sSrc k) a b c t ∧ addrOk ea n n ∧ s.xlate ea (.atom n) = .ok key ∧ s.poisonedAt key n = false ∧
      t.reserveS w.d = .ok (d, u)) := by
  refine ⟨⟨wm 700 697 0 0 false 0 0, topRegs 0x103FFFF8, _, _, _, _, _, _, _, by decide, takes_of (by decide), addr_of (by decide), got (by decide), by decide, got (by decide)⟩,
    ⟨wm 700 697 0 0 false 0 0, topRegs 0x40000000, _, _, _, _, _, _, _, by decide, takes_of (by decide), addr_of (by decide), got (by decide), by decide, got (by decide)⟩,
    ⟨wm 700 697 0 0 false 0 1, topRegs 0x40000000, _, _, _, _, takes_of (by decide), by decide, by decide, by decide⟩,
    ⟨wm 0 697 698 0 false 0 0, topRegs 0x40000000, _, _, _, _, _, takes_of (by decide), addr_of (by decide), got (by decide), by decide⟩,
    ⟨wm 0 697 698 0 false 0 0xFFFFFF, topRegs 0x10001000, _, _, _, _, takes_of (by decide), by decide, by decide, by decide⟩, fun k h => ?_⟩
  · rcases List.mem_cons.1 h with rfl | h
    · exact ⟨wm 700 697 698 0 false 3 0, topRegs 0x40000000, _, _, _, _, _, _, _, takes_of (by decide), addr_of (by decide), got (by decide), by decide, got (by decide)⟩
    · rw [List.mem_singleton.1 h]
      exact ⟨wm 700 697 698 699 false 2 0, topRegs 0x40000000, _, _, _, _, _, _, _, takes_of (by decide), addr_of (by decide), got (by decide), by decide, got (by decide)⟩

def withOp (s : State) (o : MOp) : State := s.updC fun c => { c with ops := [o] }
/-- A tile access of one register at a base in the window, its rows 128 bytes apart; with port 0 configured for A to consume or produce. -/
def rows16 : List (Nat × Nat) := (List.range 16).map fun i => (i, winKey (0x1000 + 128 * i))
def portOf (prod cons : Nat) (slots : List PSlot) : Port := { configured := true, prod := prod, cons := cons, slots := slots, gen := none }
def withPort (k : Strm) (p : Port) : State := (bed k).updC fun c => { c with ports := [(0, p)] }
theorem rows16_at (s : State) (acc : Acc) (h : ∀ p ∈ rows16, okB (s.xlate ((0x10001000 : Word) + BitVec.ofNat 64 p.1 * 128).toNat acc) = true ∧
    val (s.xlate ((0x10001000 : Word) + BitVec.ofNat 64 p.1 * 128).toNat acc) = p.2) : s.rowsAt acc 0x10001000 128 16 rows16 := by
  refine ⟨by decide, fun p hp => ?_⟩
  have a : ∀ p ∈ rows16, ((0x10001000 : Word) + BitVec.ofNat 64 p.1 * 128).toNat < 2 ^ 52 ∧
      ((0x10001000 : Word) + BitVec.ofNat 64 p.1 * 128).toNat + 128 ≤ winHi := by decide
  exact ⟨(a p hp).1, .inr (a p hp).2, (h p hp).2 ▸ got (h p hp).1⟩
/-- The bed with mask m1 holding lane 0 alone. -/
def lane0 (k : Strm) : State := (bed k).updC fun c => { c with masks := [(1, 1)] }
def gw (d c : OpField) (tke : Bool) : Wm := { wm d 697 20 c tke 1 0 with pm := 1 }
def lane0Keys : List (Nat × Nat) := [(0, winKey 0x1000)]
def wf (pred succ : BitVec 6) (clm : BitVec 16) : Wf := { hd 0 0 0 0 with res := 0, scope := 0, pred := pred, succ := succ, clm := clm }
/-- The bed with a sync word in HBM at 0x40000000: target 64, the generation and flags given. -/
def synced (gen flags : Nat) : State := { bedM .a 0x10000 (leBytes 16 (64 + gen * 2 ^ 64 + flags * 2 ^ 96)) with
  core := { bedCore with sa := { strmAt [(1, 0x40000000), (2, 7), (3, 5)] with swwait := some (wm 700 697 698 0 false 0 0) } } }
/-- Generation 8 after 7: SWWAIT gives GEN 8 with no flag; at 7 it watches (R220). -/
theorem test_swwait : (nextOf (exec (.swwait (wm 700 697 698 0 false 0 0)) (synced 8 0))).core.sa.sreg 4 = 8 ∧
    (nextOf (exec (.swwait (wm 700 697 698 0 false 0 0)) (synced 7 0))).core.sa.pc = 0x10000008 ∧
    (nextOf (exec (.swwait (wm 700 697 698 0 false 1 0)) (synced 7 0))).core.sa.sreg 4 = 0x8000000000000007 := by decide

/-! ### Ports, windows, copies, batches, mailboxes -/

/-- The bed with a 64-byte record at 0x10001000, where s1 points. -/
def withRec (bs : List Byte) : State := bedM .a (winKey 0x1000) bs
/-- The bytes of a record's fields: their widths and values. -/
def recBytes (l : List (Nat × Nat)) : List Byte := l.flatMap fun p => leBytes p.1 p.2
/-- A generator of one tile at 0x10002000; one that has made its tile; a port with a tile. -/
def pagRec : List Byte := recBytes [(8, 0x10002000), (8, 0), (4, 1), (4, 1), (4, 1), (4, 0), (8, 0), (8, 0), (8, 0), (8, 0)]
def pgoState : State := (withRec pagRec).updC fun c => { c with ports := [(0, portOf 1 0 [])] }
def emptyTile : PSlot := .tile ⟨[], none⟩
/-- A window of two ring slots of 128 bytes over a tensor of two rows, from its first. -/
def winRec : List Byte := recBytes [(8, 0x10004000), (8, 0x10008000), (8, 128), (4, 128), (4, 2), (4, 0), (1, 1), (8, 0), (8, 0), (8, 0), (3, 0)]
def win0 : Win := { ring := 0x10004000, lk := 1, bytes := 128, tbase := 0x10008000, stride := 128, rows := 2, h := 0 }
def withWin : State := (withRec winRec).updC fun c => { c with wins := [(0, some win0)] }
/-- A copy of `n` bytes from 0x10001000 to 0x10010000, and one of its bytes to themselves; a queue with `q` copies. -/
def copies (dst n : Word) (q : Nat) : State := (bed .a).updC fun c => { c with
  sa := strmAt [(1, 0x10001000), (2, dst), (3, n), (5, 0x10020000)], rake := List.replicate q { (default : Copy) with todo := [⟨0, 0, 1⟩] } }
def c2Rec : List Byte := recBytes [(8, 0x10010000), (8, 0x10001000), (4, 128), (4, 2), (4, 1), (4, 0), (8, 128), (8, 0), (8, 128), (8, 0)]
def oneCopy : Copy :=
  { (default : Copy) with id := 1, todo := [⟨0x10001004, 0x10010000, 4⟩], pages := [(0x10000000, winKey 0), (0x10010000, winKey 0x10000)] }
/-- A command of another core of the cluster, one that stood in core 0's queue before its job. -/
def otherCopy : Copy := { oneCopy with id := 2, cid := 1, weight := 1 }
def firstCopy : Copy := { oneCopy with id := 2 }
/-- Core 0 has a copy of 4 bytes and `left` bytes of its share; core 1 has 128. -/
def turns (left : Nat) (orphans : List Copy) : State :=
  let b := (bed .a).updC fun c => { c with rake := [oneCopy] }
  { b.updDie 0 fun d => { d with rakeLeft := Sparse.ofFn 2 fun i => if i = 0 then left else 128 } with orphans := orphans }
/-- The copy's row can move: nothing holds it; `n` commands are queued. -/
def rowBed (s : State) (n : Nat) : Bool :=
  let src := keyIn oneCopy.pages 0x10001004
  let dst := keyIn oneCopy.pages 0x10010000
  s.core.rake.map (·.id) == [1] && (s.rakeQueue 0 0).length == n && !s.poisonIn oneCopy.pages 0x10001004 4 && !s.linkDown src && !s.linkDown dst &&
    !s.migHeld dst && !s.backedOff src && !s.backedOff dst && !s.hbmDead dst
/-- A copy queued by CPY: D reads 0, the queue holds it (R94, R228). -/
theorem test_cpy : let t := nextOf (exec (.cpy (wm 700 697 698 699 false 0 0)) (copies 0x10010000 256 0))
    t.core.sa.sreg 4 = 0 ∧ (t.core.rake.map (·.todo)) = [[⟨0x10001000, 0x10010000, 256⟩]] := by decide

/-- A token with one operation outstanding; one with a held error; one with an open batch. -/
def withTok (t : Token) : State := (bed .a).upd fun x => { x with tokens := [(0, t)] }
/-! ### Vector words -/

/-- The sources of a vector word. -/
def vins (s : State) (h : Shape) : VIn × State := match s.vread h with | .ok r => r | .error _ => ({ a := .all 0, b := .all 0, c := .all 0, p := 0 }, s)
def vreadyB (s : State) (h : Shape) : Bool := legalB s h && okB (s.vread h) && decide (s.core.vbusy ≤ s.now) && okB (s.shadow h)
theorem vread_of {s : State} {h : Shape} (e : okB (s.vread h) = true) : s.vread h = .ok ((vins s h).1, (vins s h).2) := by
  unfold vins; cases hr : s.vread h with
  | ok r => rfl
  | error x => rw [hr] at e; cases e
theorem vready_of {s : State} {h : Shape} (e : vreadyB s h = true) : s.vready h (vins s h).1 (vins s h).2 := by
  simp only [vreadyB, Bool.and_eq_true, decide_eq_true_eq] at e
  exact ⟨legal_of e.1.1.1, vread_of e.1.1.2, e.1.2, got e.2⟩
/-- A register destination always accepts. -/
theorem put_ok {s : State} {t : ETy} {d : OpField} (p : BitVec 1024) (lat : Nat) (f : Nat → Nat → Option Rounded) (h : isV d = true) :
    ∃ u, s.putElems t d p lat f = .ok u := ⟨_, if_pos h⟩

/-- V's bed: mask m1 holds lane 0, s1 is 3, s2 is 7; each shape at which a word's hypotheses are met. -/
def vbed : State := lane0 .v
/-- FP32 pairs, FP16 registers, a scalar source (R31, R238). -/
theorem wit_VectorArithmetic : ∀ h ∈ [shArith (wt 0 2 4 0 11 0) true .none, shArith (wt 0 2 697 0 9 0) true .none, shArith (wt 0 2 4 0 4 0) false .none,
    shArith3 (wt 0 2 4 6 11 0), shArith1 (wt 0 2 0 0 11 0)], ∃ x t1, vbed.vready h x t1 ∧ isV h.hd.d = true := by
  have h : ∀ h ∈ [shArith (wt 0 2 4 0 11 0) true .none, shArith (wt 0 2 697 0 9 0) true .none, shArith (wt 0 2 4 0 4 0) false .none,
    shArith3 (wt 0 2 4 6 11 0), shArith1 (wt 0 2 0 0 11 0)], vreadyB vbed h = true ∧ isV h.hd.d = true := by decide +kernel
  exact fun x hx => ⟨_, _, vready_of (h x hx).1, (h x hx).2⟩
/-- The limits of I8, one past each; a scale between two multiples and on one. -/
theorem wit_NarrowingAndRounding : (ETy.i8.isInt = true ∧ ETy.i8.intMin ≤ -128 ∧ (-129 : Int) < ETy.i8.intMin ∧ ETy.i8.intMax < 128 ∧ (127 : Int) ≤ ETy.i8.intMax) ∧
    (0 < 3 ∧ ¬ 3 ∣ 7 ∧ 3 ∣ 6) ∧ (ETy.fp16.isFloat = true ∧ ∃ neg m e, decodeFloat .fp16 0x3C00 = .fin neg m e) :=
  ⟨by decide, by decide, by decide, _, _, _, rfl⟩
/-- 2.5 rounded to an integer: 2 to even, 3 away, 2 toward zero and down, 3 up (R58). -/
theorem test_round : [RMode.rne, .rna, .rtz, .rdn, .rup].map (fun m => (roundScaled m false 5 2 0).1) = [2, 3, 2, 2, 3] := by decide
/-- 300 into N8: 44 wrapped, 255 saturated (R62). -/
theorem test_narrow : (narrowInt .n8 false 300).bits = 44 ∧ (narrowInt .n8 true 300).bits = 255 ∧ (narrowInt .n8 true 300).events = [26] := by decide
/-- 1.0 + 1.0 in FP16 is 0x4000 (R61, R243). -/
theorem test_vadd_elem : (VArith.add.elem .fp16 .rne false 0x3C00 0x3C00 0).bits = 0x4000 := by decide

/-- A shift by 15, the last below the width of N16, and by 16; a comparison; a select. -/
theorem wit_CompareLogicShift :
    (∀ h ∈ [shLane (wt 0 1 2 0 0 0) (.vec 1 1 true true) .none, shLane (wt 0 1 0 0 0 0) .none .none, shShift (wt 0 1 0 0 4 0xBC00000), shShift (wt 0 1 2 0 4 0),
      shVcmp (wt 681 2 4 0 11 5)], ∃ x t1, vbed.vready h x t1) ∧
    (let w := wt 0 1 0 0 4 0xBC00000; xb w 27 27 = 1 ∧ xb w 26 22 = 15 ∧ (etOf w).width = 16) ∧
    (let w := wt 0 1 0 0 4 0xC000000; (∃ x t1, vbed.vready (shShift w) x t1) ∧ xb w 27 27 = 1 ∧ (etOf w).width ≤ xb w 26 22) ∧
    (∃ (w : Wt) (s t1 : State) (x : VIn) (u : State), s.vready (shLane w (.vec 1 1 true true) .mask) x t1 ∧
      (t1.holdV (s.now + 1)).putElems .n16 w.d x.p 2 (fun _ _ => none) = .ok u) := by
  have h : ∀ h ∈ [shLane (wt 0 1 2 0 0 0) (.vec 1 1 true true) .none, shLane (wt 0 1 0 0 0 0) .none .none, shShift (wt 0 1 0 0 4 0xBC00000), shShift (wt 0 1 2 0 4 0),
      shVcmp (wt 681 2 4 0 11 5)], vreadyB vbed h = true := by decide +kernel
  exact ⟨fun x hx => ⟨_, _, vready_of (h x hx)⟩, by decide, ⟨⟨_, _, vready_of (by decide +kernel)⟩, by decide⟩,
    ⟨wt 0 1 2 681 0 0, vbed, _, _, _, vready_of (by decide +kernel), (put_ok _ _ _ rfl).choose_spec⟩⟩
/-- VCMP writes the relation into a mask: v1 and v2 empty, EQ holds at lane 0 (R245). -/
theorem test_vcmp : ((nextOf (exec .resultLands ((nextOf (exec (.vcmp (wt 682 1 2 0 4 0)) vbed)).updDie 0 fun d => { d with cyc := 3 }))).core.mask 2).getLsbD 0 = true := by
  decide +kernel

/-- FP8 to FP16 has two groups; I4X to FP16; scaled; packing, unpacking, quantising. -/
theorem wit_ConversionsAndPacking :
    (∀ h ∈ [shCvt (wt 0 1 0 0 9 0x7400000) false, shCvt (wt 0 1 2 0 9 0x7000000) true, shPack (wt 0 1 2 0 2 0), shUnpk (wt 0 1 0 0 4 0x400000),
      shQi4x (wt 0 4 697 0 9 0)], ∃ x t1, vbed.vready h x t1) ∧
    (cvtG (wt 0 1 0 0 9 0x7400000) = 1 ∧ cvtGroups .e4m3 .fp16 = 2) ∧
    (let w := wt 0 1 0 0 9 0x7800000; (∃ x t1, vbed.vready (shCvt w false) x t1) ∧ cvtGroups (cvtSt w) (etOf w) ≤ cvtG w) := by
  have h : ∀ h ∈ [shCvt (wt 0 1 0 0 9 0x7400000) false, shCvt (wt 0 1 2 0 9 0x7000000) true, shPack (wt 0 1 2 0 2 0), shUnpk (wt 0 1 0 0 4 0x400000),
      shQi4x (wt 0 4 697 0 9 0)], vreadyB vbed h = true := by decide +kernel
  exact ⟨fun x hx => ⟨_, _, vready_of (h x hx)⟩, by decide, ⟨_, _, vready_of (by decide +kernel)⟩, by decide⟩

/-- Index 1,023, the last element of N16, and 1,024; the last row and column; disjoint registers. -/
def vIdx (n : Word) : State := vbed.upd fun x => { x with sregs := [(1, 3), (2, n)] }
theorem wit_ElementsMoveAndReduce :
    (∀ h ∈ [shElem (wt 0 697 0 0 4 0) false .sSrc .none true isNumber, shElem (wt 0 697 0 0 4 0) false .sSrc .none true isWideInt,
      shRot (wt 0 1 698 0 4 0), shRot (wt 0 1 0 0 4 0x9E00000), shPerm (wt 0 1 0 0 4 0) false, shPerm (wt 0 1 2 0 4 0) true, shRed (wt 0 1 0 0 4 0), shRed (wt 0 2 0 0 11 0x8000000)],
      ∃ x t1, (vIdx 63).vready h x t1) ∧
    (∀ n ∈ [(1023 : Word), 1024], let s := vIdx n
      (∃ x t1, s.vready (shElem (wt 0 697 698 0 4 0) false .sSrc .sSrc true isNumber) x t1 ∧ x.b.word = n) ∧
      (∃ x t1 u, s.vready (shVext (wt 700 1 698 0 4 0)) x t1 ∧ x.b.word = n ∧ (t1.holdV (s.now + 1)).gives 700 5 3 u)) ∧
    (let w := wt 0 1 2 0 4 0; w.d.toNat + etRegs w ≤ w.a.toNat ∧ w.d.toNat + etRegs w ≤ w.b.toNat) ∧ (ETy.i8.isFloat = false ∧ 0 < [1, 255].length) := by
  have h : ∀ h ∈ [shElem (wt 0 697 0 0 4 0) false .sSrc .none true isNumber, shElem (wt 0 697 0 0 4 0) false .sSrc .none true isWideInt,
      shRot (wt 0 1 698 0 4 0), shRot (wt 0 1 0 0 4 0x9E00000), shPerm (wt 0 1 0 0 4 0) false, shPerm (wt 0 1 2 0 4 0) true, shRed (wt 0 1 0 0 4 0), shRed (wt 0 2 0 0 11 0x8000000)],
      vreadyB (vIdx 63) h = true := by decide +kernel
  refine ⟨fun x hx => ⟨_, _, vready_of (h x hx)⟩, fun n hn => ?_, by decide, by decide⟩
  simp only [List.mem_cons, List.not_mem_nil, or_false] at hn
  rcases hn with rfl | rfl <;>
  exact ⟨⟨_, _, vready_of (by decide +kernel), by decide +kernel⟩, ⟨_, _, _, vready_of (by decide +kernel), by decide +kernel, got (by decide +kernel)⟩⟩
/-- The sum of -1 and 3 in I8 is 2; the maximum 3, the minimum -1 (R251). -/
theorem test_reduce : [0, 1, 2].map (fun k => (reduce .i8 k .rne false [255, 3]).bits) = [2, 3, 255] := by decide

theorem wit_FunctionsAndMerges :
    (∀ h ∈ [shSpec (wt 0 1 0 0 9 0), shSpec (wt 0 2 0 0 11 0), shRope (wt 0 1 2 3 9 0x8000000), shMerge (wt 0 4 8 0 11 0)], ∃ x t1, vbed.vready h x t1) ∧
    (let w := wt 0 1 2 3 9 0x8000000; w.d.toNat + etRegs w ≤ w.a.toNat) ∧
    (∃ x y : TRow, x.hasNaN = false ∧ y.hasNaN = false ∧ x.m = negInf32) ∧ (∃ x y : TRow, x.hasNaN = false ∧ y.hasNaN = false ∧ x.m ≠ negInf32 ∧ y.m = negInf32) := by
  have h : ∀ h ∈ [shSpec (wt 0 1 0 0 9 0), shSpec (wt 0 2 0 0 11 0), shRope (wt 0 1 2 3 9 0x8000000), shMerge (wt 0 4 8 0 11 0)], vreadyB vbed h = true := by decide +kernel
  exact ⟨fun x hx => ⟨_, _, vready_of (h x hx)⟩, by decide,
    ⟨{ m := negInf32, l := 0, o := [], ev := [] }, { m := 0, l := 0, o := [], ev := [] }, by decide, by decide, rfl⟩,
    ⟨{ m := 0, l := 0, o := [], ev := [] }, { m := negInf32, l := 0, o := [], ev := [] }, by decide, by decide, by decide, rfl⟩⟩

/-- The last draw and layer index, 2^26 - 1, and one past it; a mask set whole, of 1,024 lanes; an empty mask and a full one. -/
def vRand (n : Word) : State := vbed.upd fun x => { x with sregs := [(1, n), (2, 7), (3, 65535)] }
theorem wit_BitsRandomMasks :
    (∀ h ∈ [shBits (wt 0 1 2 0 4 0) true, shBits (wt 0 1 0 0 3 0) false, shRngkey (wt 0 697 0 0 0 0)], ∃ x t1, vbed.vready h x t1) ∧
    (∃ x t1, (vRand (2 ^ 26 - 1)).vready (shRand (wt 0 697 698 699 4 0)) x t1 ∧ x.a.word.toNat < 2 ^ 26 ∧ x.c.word.toNat < 2 ^ 16) ∧
    (∃ x t1, (vRand (2 ^ 26)).vready (shRand (wt 0 697 698 699 4 0)) x t1 ∧ 2 ^ 26 ≤ x.a.word.toNat) ∧
    (∃ z : Wi, vbed.core.vbusy ≤ vbed.now ∧ vbed.legal (shMask z 0 .mask .mask .mask true) ∧ vbed.shadow (shMask z 0 .mask .mask .mask true) = .ok ()) ∧
    (∃ z : Wi, vbed.legal (shMask z 0 .mask .mask .none true) ∧ vbed.shadow (shMask z 0 .mask .mask .none true) = .ok ()) ∧
    (∀ p ∈ [(0, 1024), (1, 64), (2, 16)], let z := wi 682 0 0 0 (BitVec.ofNat 36 (p.1 * 2 ^ 11 + p.2))
      legalB vbed (shMask z 13 .mask .none .none true) = true ∧ okB (vbed.shadow (shMask z 13 .mask .none .none true)) = true ∧ z.imm.toNat % 2 ^ 11 = p.2 ∧ z.imm.toNat / 2 ^ 11 % 4 = p.1) ∧
    (∀ m ∈ [681, 682], let h := shMask (wi 700 m 0 0 0) 0 .sDst .mask .none false
      ∃ (u : State) (v : Word), vbed.legal h ∧ vbed.shadow h = .ok () ∧ (vbed.holdV (vbed.now + 1)).gives 700 v 3 u) := by
  have h : ∀ h ∈ [shBits (wt 0 1 2 0 4 0) true, shBits (wt 0 1 0 0 3 0) false, shRngkey (wt 0 697 0 0 0 0)], vreadyB vbed h = true := by decide +kernel
  refine ⟨fun x hx => ⟨_, _, vready_of (h x hx)⟩, ⟨_, _, vready_of (by decide +kernel), by decide +kernel⟩, ⟨_, _, vready_of (by decide +kernel), by decide +kernel⟩,
    ⟨wi 682 681 681 0 0, by decide, legal_of (by decide +kernel), got (by decide +kernel)⟩, ⟨wi 682 681 0 0 0, legal_of (by decide +kernel), got (by decide +kernel)⟩,
    by decide +kernel, fun m hm => ?_⟩
  simp only [List.mem_cons, List.not_mem_nil, or_false] at hm
  rcases hm with rfl | rfl <;> exact ⟨_, 0, legal_of (by decide +kernel), got (by decide +kernel), got (by decide +kernel)⟩
/-- One lane is set in m1: MCNT 1, MFIRST 0 (R259). -/
theorem test_mask : (nextOf (exec (.mcnt (wi 700 681 0 0 0)) vbed)).core.sv.sreg 4 = 1 ∧ (nextOf (exec (.mfirst (wi 700 681 0 0 0)) vbed)).core.sv.sreg 4 = 0 ∧
    (nextOf (exec (.mfirst (wi 700 682 0 0 0)) vbed)).core.sv.sreg 4 = 1024 := by decide +kernel

/-! ### Matrix words -/

/-- M's bed: masks of one lane, of pairs (0, 1) and of no pair; one entry of the format table, FP16 by FP16 into FP32. -/
def mbed : State := (bed .m).updC fun c =>
  { c with masks := [(1, 1), (2, BitVec.ofNat 1024 (leNat (List.replicate 16 0x44)))], fmt := { c.fmt with unfilled := none, entries := [(5, 0xB000099)] } }
def unitOk (s : State) (m : MUnit) : Bool := okB (s.takeUnit m)
def mreadyB (s : State) (h : Shape) (m : MUnit) : Bool :=
  legalB s h && okB (s.vread h) && okB (s.shadow h) && h.tiles.all (fun c => !s.tileLoading c) && okB ((vins s h).2.takeUnit m)
theorem mready_of {s : State} {h : Shape} {m : MUnit} (e : mreadyB s h m = true) : s.mready h m (vins s h).1 (val ((vins s h).2.takeUnit m)) := by
  simp only [mreadyB, Bool.and_eq_true, List.all_eq_true, Bool.not_eq_true'] at e
  exact ⟨_, legal_of e.1.1.1.1, vread_of e.1.1.1.2, got e.1.1.2, e.1.2, got e.2⟩

/-- FP16 and I8 tiles; 2:4 metadata legal and not, checked and not; an entry of the format table. -/
theorem wit_MatrixProducts :
    (∀ w ∈ [wt 650 0 4 0 9 0x9000000, wt 650 0 4 0 1 0x1000000], ∃ x u, mbed.mready (shMma w false) (.matrix mbed.mmaCost) x u) ∧
    (∀ p ∈ [(682, 0x9800000, false), (683, 0x9800000, true), (683, 0x9000000, true)], let w := wt 650 0 8 (p.1 : OpField) 9 (p.2.1 : BitVec 28)
      let m := mbed.readM w.c
      ∃ x u, mbed.mready (shMma w true) (.matrix mbed.mmaCost) x u ∧
        (List.range (ETy.fp16.perRow / 2)).any (fun g => decide (m.toNat / 2 ^ (4 * g + 2) % 4 ≤ m.toNat / 2 ^ (4 * g) % 4)) = p.2.2) ∧
    (∃ x u v, let w := wt 650 0 4 0 0 0xA80000; mbed.mready (shMmaf w) (.matrix mbed.mmaCost) x u ∧
      mbed.fmtEntry (if xb w 23 23 = 1 then xb w 22 19 else mbed.strm.lc.toNat % 16) = .ok v ∧ mbed.tileBusy 2 = false) := by
  refine ⟨fun w h => ?_, fun p h => ?_, _, _, _, mready_of (by decide +kernel), got (by decide +kernel), by decide +kernel⟩ <;>
    simp only [List.mem_cons, List.not_mem_nil, or_false] at h
  · rcases h with rfl | rfl <;> exact ⟨_, _, mready_of (by decide +kernel)⟩
  · rcases h with rfl | rfl | rfl <;> exact ⟨_, _, mready_of (by decide +kernel), by decide +kernel⟩
/-- The residue check of core 0's matrix unit fails, or does not. -/
theorem wit_MatrixCheck : ((mbed.die mbed.core.did).badArr.getLsbD mbed.core.cid = false) ∧ (∃ x u, let s := mbed.updDie 0 fun d => { d with badArr := 1 }
    (s.die s.core.did).badArr.getLsbD s.core.cid = true ∧ s.mready (shMma (wt 650 0 4 0 9 0x9000000) false) (.matrix s.mmaCost) x u) :=
  ⟨by decide +kernel, _, _, by decide +kernel, mready_of (by decide +kernel)⟩
/-- 1.0 times 1.0 at anchor 0 adds 2^64; an infinity sets PI alone (R66). -/
theorem test_addend : (addendOf 0 [mulExact (decodeFloat .fp16 0x3C00) (decodeFloat .fp16 0x3C00)] |>.t) = 2 ^ 64 ∧
    (addendOf 0 [.inf false]).pi = true := by decide +kernel
/-- A lane whose value times 2^3 still fits, and one at the limit of OV; a plain step down and up of the anchor. -/
theorem wit_AddendsAndLanesAreExact : ∃ (l : Lane) (a b : Int), l.special = false ∧ b ≤ a ∧ -2 ^ 95 ≤ l.t.toInt * 2 ^ (a - b).toNat ∧
    l.t.toInt * 2 ^ (a - b).toNat < 2 ^ 95 ∧ l.t.toInt = 2 ^ 91 ∧ l.ov = true :=
  ⟨{ (default : Lane) with s := 2 ^ 91 }, 3, 0, by decide +kernel⟩
/-- The last lane, 1,023, of a contribution that names it, and one it does not. -/
theorem wit_ContributionsAreOrderFree : ∃ (core : Core) (c i : Nat) (d : Lane) (l1 : Sparse Lane), i = 1023 ∧
    (l1.find? fun p => p.1 == i) = some (i, d) ∧ d.special = false ∧ ((core.tile c).lane i).special = false ∧ (∀ p ∈ l1, p.1 ≠ 1022) :=
  ⟨mbed.core, 2, 1023, { (default : Lane) with s := 5 }, [(1023, { (default : Lane) with s := 5 })], rfl, rfl, by decide +kernel⟩

/-- The anchor's limits; tiles of one anchor and of two; a tile with a write in flight. -/
def tiles2 : State := mbed.updC fun c => { c with tiles := [(3, { (default : Tile) with anchor := 7 })] }
def landing2 : State := mbed.pend 8 (.anchor 2 3) []
/-- Anchor 2047 is bits 0x7FF, -2048 is 0x800 (R41). -/
theorem test_anchor : (nextOf (exec (.anch (wt 650 0 0 0 0 0x800)) mbed)).core.pending.map (fun p => (p.due, p.eff)) = [(8, .anchor 2 (-2048))] := by decide +kernel

/-- RSLV into FP32 and group 1 of E4M3, into a type that has no group 1; ACMP; AEXN. -/
def formOf (s : State) (w : Wt) : RslvForm := match s.rslvForm w with | .ok f => f | .error _ => { t := .fp32, rm := .rne, sat := false }
theorem form_of {s : State} {w : Wt} (h : okB (s.rslvForm w) = true) : s.rslvForm w = .ok (formOf s w) := by
  unfold formOf; cases e : s.rslvForm w with
  | ok f => rfl
  | error x => rw [e] at h; cases h
theorem wit_TilesAreRead :
    (∀ w ∈ [wt 0 650 0 0 11 0, wt 0 650 0 0 7 0x100000, wt 0 650 0 0 9 0x100000, wt 0 650 0 0 0 0xD400000], ∃ f u v, mbed.legal (shRslv w) ∧
      mbed.shadow (shRslv w) = .ok () ∧ mbed.rslvForm w = .ok f ∧ vecOk w.d f.t.regs f.t.regs = true ∧ mbed.tileLoading 2 = false ∧
      mbed.takeUnit (.acc f.t.regs) = .ok u ∧ u.putElems f.t w.d (mbed.pred w.toHd) 16 (fun _ _ => none) = .ok v) ∧
    (∃ x u, mbed.mready (shAcmp (wt 682 650 4 0 11 5)) (.acc 1) x u) ∧
    (∃ x u v, mbed.mready (shAcc (wt 0 650 0 0 0 0) true 0 (.vdst 1 1 true) .tile) (.acc 1) x u ∧ u.putElems .n16 0 x.p 8 (fun _ _ => none) = .ok v) ∧
    (∃ l : Lane, l.special = false ∧ l.ov = false) ∧ (∃ l : Lane, l.nv = true) := by
  refine ⟨fun w h => ?_, ⟨_, _, mready_of (by decide +kernel)⟩, ⟨_, _, _, mready_of (by decide +kernel), (put_ok _ _ _ rfl).choose_spec⟩,
    ⟨default, by decide⟩, ⟨{ (default : Lane) with nv := true }, rfl⟩⟩
  simp only [List.mem_cons, List.not_mem_nil, or_false] at h
  rcases h with rfl | rfl | rfl | rfl <;> exact ⟨formOf mbed _, _, _, legal_of (by decide +kernel), got (by decide +kernel), form_of (by decide +kernel), by decide +kernel,
    by decide +kernel, got (by decide +kernel), (put_ok _ _ _ rfl).choose_spec⟩

def imgBed : State := mbed.upd fun x => { x with sregs := [(1, 0x10002000)] }
/-! ### Tiers -/

/-- Memory of numbers: key, bytes, value. -/
def place (l : List (Nat × Nat × Nat)) : List Host.Cell := l.foldl (fun m p => memWrite m p.1 (leBytes p.2.1 p.2.2)) []
/-- Page tables with one leaf, at 0x3000, for 0x40000000; a node at 0x8000 with a pool at 0x9000 of `n` HBM frames, one at 0x50000, room for one more. -/
def tierMem (leaf n : Nat) : List (Nat × Nat × Nat) :=
  [(0, 8, 0x1001), (0x1008, 8, 0x2001), (0x2000, 8, 0x3001), (0x3000, 8, leaf), (0x8038, 8, 0x9000), (0x9000, 8, 0xA000), (0x9008, 4, 2), (0x900C, 4, n),
   (0x9040, 8, 0xB000), (0x9048, 4, 2), (0x904C, 4, n), (0xA000, 8, 0x50000), (0xB000, 8, 0x60000)]
def hbmLeaf : Nat := 2 ^ 59 + 0x10003
def cxlLeaf : Nat := 2 ^ 62 + 2 ^ 59 + 0x30003
def flashBorn : Nat := 2 ^ 61 + 0x10003
def tbed (leaf n : Nat) (migs : List Mig) : State :=
  { ((bed .a).upd fun x => { x with sregs := [(1, 0x40000000), (2, 65536)] }) with mem := place (tierMem leaf n), migs := migs, origins := [(0x10000, 7)] }
def heldMig : Mig := { (default : Mig) with id := 4, pages := [{ (default : MigPage) with entry := 0x3000 }] }
/-- The bed with the second 64 bytes of the page for EA. -/
def tierOff : State := (tbed cxlLeaf 1 []).upd fun x => { x with sregs := [(1, 0x40000040), (2, 65536)] }
theorem got2 {α β : Type} [Inhabited α] [Inhabited β] {r : Res (α × β)} (h : okB r = true) : r = .ok ((val r).1, (val r).2) := got h
def leafAt (s : State) (va : Nat) : Leaf := match s.walk s.ptb va with | .ok l => l | .error _ => { entry := 0, leaf := 0, big := false }
theorem leaf_of {s : State} {va : Nat} (h : (match s.walk s.ptb va with | .ok _ => true | .error _ => false) = true) : s.walk s.ptb va = .ok (leafAt s va) := by
  unfold leafAt; cases e : s.walk s.ptb va with
  | ok f => rfl
  | error x => rw [e] at h; cases h
theorem wit_TierWords :
    (∀ p ∈ [hbmLeaf, cxlLeaf, flashBorn], ∃ t u a b c l, let s := tbed p 1 []; let w := wm 700 697 0 0 false 0 0
      s.takes (shM0 w .none 1 24 .sDst .sSrc .none .none) a b c t ∧ (a + w.disp.signExtend 64).toNat = 0x40000000 ∧ s.walk s.ptb 0x40000000 = .ok l ∧ l.leaf = p ∧
      t.gives w.d 5 1 u) ∧
    (∀ p ∈ [(1, ([] : List Mig), false, true), (0, [], false, false), (1, [heldMig], true, true)], ∃ t ps, let s := tbed cxlLeaf p.1 p.2.1; let w := wm 700 697 698 0 false 0 0
      let path := s.nodePath treeDepth s.core.node
      s.core.ops = [] ∧ s.host.ide = true ∧ s.await w.toHd = .ok () ∧ s.tierRange w (shM w .opt true 1 24 .sDst .sSrc .sSrc .none) = .ok (ps, t) ∧
      (ps.map fun p => p.leaf.leaf) = [cxlLeaf] ∧ s.tokensHeld ps = p.2.2.1 ∧ s.quotaOk 24 96 (totalBytes ps) path = true ∧
      s.poolOk (s.inherit 56 8 path) (countList ps fun p => some (poolList 0 p.leaf.big)) (countList ps fun p => some (poolList 1 p.leaf.big)) = p.2.2.2) ∧
    (∀ p ∈ [(1, ([] : List Mig), false, true), (0, [], false, false), (1, [heldMig], true, true)], ∃ t ps, let s := tbed hbmLeaf p.1 p.2.1; let w := wm 700 697 698 0 false 1 0
      let path := s.nodePath treeDepth s.core.node
      s.await w.toHd = .ok () ∧ s.tierRange w (shM w .opt true 6 24 .sDst .sSrc .sSrc .none) = .ok (ps, t) ∧ s.tokensHeld ps = p.2.2.1 ∧
      s.poolOk (s.inherit 56 8 path) (countList ps fun p => some (poolList 1 p.leaf.big)) (countList ps fun p => some (poolList 0 p.leaf.big)) = p.2.2.2) ∧
    (∃ t ps, let s := tbed flashBorn 1 []; let w := wm 700 697 698 0 false 2 0
      s.await w.toHd = .ok () ∧ s.tierRange w (shM w .opt true 6 24 .sDst .sSrc .sSrc .none) = .ok (ps, t) ∧
      ∀ p ∈ ps, leafOrig p.leaf.leaf = true ∧ (s.originOf (leafKey p.leaf.leaf)).isSome = true) ∧
    (∃ t, (tbed cxlLeaf 1 []).writeS 700 0 1 = .ok t) ∧ (((tbed cxlLeaf 1 []).strm.token 0).room false = true) ∧
    (∀ h ∈ [shM (wm 700 697 698 0 false 0 0) .opt true 1 24 .sDst .sSrc .sSrc .none, shM (wm 700 697 698 0 false 2 0) .opt true 6 24 .sDst .sSrc .sSrc .none], ∃ t a b c l,
      let s := tierOff; s.takes h a b c t ∧ s.walk s.ptb 0x40000040 = .ok l ∧ (a + (0 : BitVec 24).signExtend 64).toNat = 0x40000040 ∧ 0x40000040 % l.bytes ≠ 0) := by
  refine ⟨fun p h => ?_, fun p h => ?_, fun p h => ?_, ⟨_, _, got (by decide), got2 (by decide +kernel), by decide +kernel⟩, ⟨_, got (by decide)⟩, by decide, fun h hh => ?_⟩ <;> simp only [List.mem_cons, List.not_mem_nil, or_false] at *
  · rcases h with rfl | rfl | rfl <;> exact ⟨_, _, _, _, _, leafAt _ _, takes_of (by decide +kernel), by decide +kernel, leaf_of (by decide +kernel), by decide +kernel, got (by decide)⟩
  · rcases h with rfl | rfl | rfl <;> exact ⟨_, _, by decide, by decide, got (by decide), got2 (by decide +kernel), by decide +kernel, by decide +kernel, by decide +kernel, by decide +kernel⟩
  · rcases h with rfl | rfl | rfl <;> exact ⟨_, _, got (by decide), got2 (by decide +kernel), by decide +kernel, by decide +kernel⟩
  · rcases hh with rfl | rfl <;> exact ⟨_, _, _, _, leafAt _ _, takes_of (by decide +kernel), leaf_of (by decide +kernel), by decide +kernel, by decide +kernel⟩
/-- TIERIN of a CXL page starts a migration into the popped frame; TIERQ reads tier 1 (R234, R236). -/
theorem test_tier : (nextOf (exec (.tierin (wm 700 697 698 0 false 0 0)) (tbed cxlLeaf 1 []))).migs.map (fun m => m.pages.map fun p => (p.src, p.dst)) =
    [[(cxlBase + 0x30000, 0x50000)]] ∧ (nextOf (exec (.tierq (wm 700 697 0 0 false 0 0)) (tbed cxlLeaf 1 []))).core.sa.sreg 4 = 1 := by decide +kernel

/-! ### The Orrery -/

/-- Page tables of ten pages at 0x40000000, frames 1 to 10. -/
def kMem : List Host.Cell := place ([(0, 8, 0x1001), (0x1008, 8, 0x2001), (0x2000, 8, 0x3001)] ++ (List.range 10).map fun i => (0x3000 + 8 * i, 8, 2 ^ 59 + 0x10003 + 0x10000 * i))
def kEnt (f : Nat) : MapEnt := { tier := 0, v := true, brw := false, lend := 0, frame := 65536 * f }
/-- A context of 1 KiB cells, one group, two pages of 64 positions written up to 63; another of its shape, empty. -/
def kctx (n : Nat) (ww : Option Nat) : Ctx :=
  { (default : Ctx) with num := n, lw := 3, g := 1, lc := 10, k := 1, kmax := 2, slab := 0x40000000, area := 0x40020000, hot := true, ww := ww, map := [(0, kEnt 1), (1, kEnt 2)], amap := (List.range 3).map fun i => (i, kEnt (3 + i)) }
/-- The bed of A with those contexts, `l` its scalars. -/
def kbed (l : Sparse Word) : State :=
  ({ ((bed .a).upd fun x => { x with sregs := l }) with mem := memWrite kMem (winKey 0x1000) (recBytes [(8, 0x40040000), (8, 0x40060000), (3, 0), (1, 1), (1, 2), (43, 0)]) }).updDie 0 fun d => { d with ctxs := [kctx 0 (some 63), kctx 1 none] }
def knew : State := { withRec [] with mem := memWrite kMem (winKey 0x1000) (recBytes [(8, 0x40040000), (8, 0x40060000), (1, 3), (1, 1), (1, 10), (1, 1), (1, 2), (43, 0)]) }
def wNew : Wm := wm 700 697 0 0 true 0 0
def knewT : State := (srcs knew (shK wNew .req 24 .sDst .sSrc .none .none)).2
def knewBs : List Byte := knew.bytesAt (winKey 0x1000) 64
/-- The operands of an Orrery word: the address or source, the handle and group, the third; what the word's shape takes of them. -/
def kops (a b x : Word) : State := kbed [(1, a), (2, b), (3, x)]
def wFork : Wm := wm 700 697 698 699 true 0 0
def forkBs : List Byte := (kops 0x10001000 0 63).bytesAt (winKey 0x1000) 64
/-- A command on context 0. -/
def kop (cmd : KCmd) (applied : Bool) : KOp := { (default : KOp) with id := 9, ctx := 0, cmd := cmd, applied := applied }
/-- The bed with one command and its context changed by `f`. -/
def kopBed (o : KOp) (f : Ctx → Ctx) : State := ((kops 0 0 0).updDie 0 fun d => { d with kops := [o], ctxs := [f (kctx 0 (some 63)), kctx 1 none] })
def stands (s : State) (o : KOp) (c : Ctx) : Bool := decide (0 < s.dies.length) && decide ((s.die 0).kop o.id = some o) && decide ((s.die 0).ctx o.ctx = some c)
/-- A granted lifetime past the front block is filed FAR; zero never expires: kinds 3 and 4 (R129). -/
theorem test_file : (Sparse.get ((kctx 0 none).file 0 { (default : Node) with e := 1000 }).nodes 0).flg = 3 ∧
    (Sparse.get ((kctx 0 none).file 0 { (default : Node) with e := neverExpiry }).nodes 0).flg = 4 := by decide +kernel

/-! ### Attention -/

/-- M's bed with two contexts whose cells hold one FP16 row of 256 bytes, v0 the queries. -/
def actx : Ctx := { kctx 0 (some 63) with lc := 8, map := [(0, kEnt 1)] }
def abed (a : List Attn) (v : Word) : State :=
  ((bed .m).upd fun x => { x with sregs := [(1, v), (2, 1)] }).updDie 0 fun d => { d with ctxs := [actx], attns := a }
def att (multi : Bool) (next : Nat) : Attn := { (default : Attn) with id := 5, ctx := 0, multi := multi, kt := 9, qt := 9, count := 1, next := next, lrec := 0x4000, job := 0 }
/-! ### The Sluice -/

/-- An end of die 0, or its partner on die 4: sets of one tile, the receiver with two buffers at 0x10010000. -/
def chEnd (num peer role : Nat) (st : EndSt) : ChEnd :=
  { (default : ChEnd) with num := num, key := 9, peer := peer, role := role, t := 1, nb := 2 * role, buf := 0x10010000 * role, lrec := 0x4000, st := st, peerEnd := some (3 - num), bufs := List.replicate (2 * role) .free }
/-- Those ends, the handle of end 0 in s2. -/
def xbed (x : Word) (e y : ChEnd) (bs : List Byte) : State :=
  ((((bedM .a (winKey 0x1000) bs).upd fun z => { z with sregs := [(1, 0x10001000), (2, 0), (3, x)] }).updDie 0 fun d => { d with ends := [e] }).updDie 4 fun d => { d with ends := [y] })
def sendEnd : ChEnd := { chEnd 0 4 0 .opened with permits := 1 }
def recvEnd : ChEnd := chEnd 3 0 1 .opened
def openRec (role nb buf sw : Nat) : List Byte := recBytes [(2, 9), (1, 4), (1, role), (1, 64), (1, nb), (1, 1), (1, 0), (8, buf), (8, sw), (8, 0), (8, 0), (8, 0), (8, 0), (8, 0)]
def wOpen : Wm := wm 700 697 0 0 true 0 0
def obed (bs : List Byte) (ends : List ChEnd) : State := (xbed 0 sendEnd recvEnd bs).updDie 0 fun d => { d with ends := ends }
def obedT (bs : List Byte) (ends : List ChEnd) : State := (srcs (obed bs ends) (shM wOpen .req true 1 24 .sDst .sSrc .none .none)).2
def opens (bs : List Byte) (ends : List ChEnd) : Bool :=
  let s := obed bs ends
  takesB s (shM wOpen .req true 1 24 .sDst .sSrc .none .none) && okB (s.xlate 0x10001000 .rd) && okB (xopenLimits bs) && decide (s.bytesAt (winKey 0x1000) 64 = bs) &&
    okB ((obedT bs ends).joinW wOpen) && okB ((obedT bs ends).writeS 700 0 1)
/-- The bed with an end of die 0 and one of die 4. -/
def ebed (e y : ChEnd) : State := xbed 0 e y []
/-- A close of a sender whose partner has closed frees both ends (R158). -/
theorem test_close : let t := nextOf (exec (.xcloseComplete 0 0) (ebed { sendEnd with selfClosed := true } { recvEnd with selfClosed := true, done := true }))
    (t.die 0).ends = [] ∧ (t.die 4).ends = [] := by decide +kernel

/-! ### The Pan filter and the system words -/

/-- A core of die 4, with a page of its own die at 0x40000000; a descriptor of 1 row of 64 FP16 elements, temperature 1; a row of it. -/
def pentry : TlbEnt := { ptb := 0, page := 0x4000, big := false, leaf := 2 ^ 59 + 0x6000010000 + 3 }
def pslot (cnt : Nat) : PanSlot :=
  { (default : PanSlot) with used := true, pages := [(0x40000000, 0x6000010000)], va := 0x40000000, rows := 1, len := 64, et := 9, ks := 64, temp := 0x3F800000, state := [(0, { (default : PanRow) with cnt := cnt })] }
def pbed (x : Word) (pans : Sparse PanSlot) (bs : List Byte) : State :=
  ((({ bed .a with mem := memWrite [] (scratchKey 64 0x10001000) bs }).updC fun c => { c with did := 4, tlb := [pentry] }).upd fun z =>
    { z with sregs := [(1, 0x10001000), (2, 0x400), (3, x)] }).updDie 4 fun d => { d with pans := pans }
def panRec : List Byte := recBytes [(8, 0x40000000), (4, 1), (4, 64), (1, 9), (1, 64), (2, 0), (4, 0), (4, 0x3F800000), (8, 0), (8, 0), (8, 0), (8, 0), (4, 0)]
def wPan : Wm := wm 700 697 0 0 false 0 0
def fullPans : Sparse PanSlot := (List.range 8).map fun n => (n, { pslot 0 with pages := [] })
def configures (pans : Sparse PanSlot) : Bool :=
  let s := pbed 0 pans panRec
  let h := { shM wPan .none false 1 24 .sDst .sSrc .none .none with die := some false }
  takesB s h && okB (s.xlate 0x10001000 .rd) && okB (panLimits panRec) && decide (s.bytesAt (scratchKey 64 0x10001000) 64 = panRec) &&
    okB (s.xlateRange .crd 0x40000000 128) && (val (s.xlateRange .crd 0x40000000 128)).all (fun g => isHbmKey g.2 && dieOfDpa g.2 == 4) && okB ((srcs s h).2.writeS 700 0 1)
/-! ### Scheduling and save images -/

/-- A queue node at 0x8000 whose ring of four has one entry, the launch record at 0x4000, and the start image at 0x40000000. -/
def schedMem : List (Nat × Nat × Nat) :=
  [(0, 8, 0x1001), (0x1008, 8, 0x2001), (0x2000, 8, 0x3001), (0x3000, 8, hbmLeaf), (0x4000, 4, 2), (0x4004, 1, 1), (0x4005, 1, 1), (0x4008, 8, 0x40000000), (0x4028, 2, 1), (0x4038, 4, 2772992),
   (0x403C, 4, 1), (0x800C, 2, 0xFFFF), (0x8048, 8, 0x8400), (0x8050, 4, 4), (0x8058, 4, 1), (0x8400, 8, 0x4000), (0x10000, 2, 1), (0x10002, 2, 256), (0x10004, 4, 256), (0x10010, 4, 8)] ++
  (List.range 11).map fun i => (0x10028 + 8 * i, 4, 256)
def lch : Launch := { (default : Launch) with lrec := 0x4000, node := 0x8000, jobs := 2, gang := 1, rakeW := 1, dies := 1, image := 0x40000000, savesz := 2772992, saven := 2 }
def schedBed (l : Launch) : State :=
  { (bed .a).updDie 0 fun d => { d with queues := [0x8000], root := 0x8100, cyc := 20000, slice := 10000 } with mem := place schedMem, launches := [l], core := { bedCore with job := 1, gangNo := 1, pre := true } }
def stopped (v : Bool) (cs : List Core) : SavedGang := { (default : SavedGang) with lrec := 0x4000, gang := 0, die := 0, valid := v, cores := cs }
/-- The job placed in cluster 1 is job 0 of its launch, at core 4 (R11, R335). -/
theorem test_place : ((nextOf (exec (.gangPlace 0) (schedBed lch))).parked ++ [(nextOf (exec (.gangPlace 0) (schedBed lch))).core]).any (fun k => k.cid == 4 && k.job == 0 && k.njob == 2) = true := by decide +kernel
theorem wit_SavedJobsComeBack : ∃ (c : Core) (gsz stop now : Nat), gsz < 256 ∧ c.did < 256 ∧ c.cid < 256 ∧ c.lrec < 2 ^ 64 ∧ stop < 2 ^ 64 ∧ stop ≤ now ∧ c.pending ≠ [] ∧ (∀ p ∈ c.pending, stop ≤ p.due) :=
  ⟨landing2.core, 4, 8, 9, by decide +kernel⟩

/-! ### Bring-up and the host link -/

/-- The package in a phase; with the host link up; with a request queued. -/
def boot (p : Nat) : State := { State.reset with host := { HostSt.reset with phase := p } }
def up1 (f : HostSt → HostSt) : State := { bed .a with host := f { HostSt.reset with ide := true, rdy := true } }
def faqE : FaqEnt := { (default : FaqEnt) with type := 3, ecnt := 255, line := 5 }
/-- The DEVSTAT of the spec's example: die 9 fenced, booted in 9,016 ms (R326). -/
theorem test_devstat : ((({ State.reset with host := { HostSt.reset with phase := 5, rdy := true, degr := true } } : State).updDie 0 fun d => { d with cyc := 9016 * 850000 }).devstat).toNat / 2 ^ 24 % 2 ^ 16 = 9016 := by
  decide +kernel

/-! ### Memory health, fencing, the Almanac, the fabric -/

def banked (k : Bank) : State := { up1 id with banks := [(0, k)] }
def bank0 : Bank := { (default : Bank) with openRow := some 4, counts := [(5, 7)] }
def fbed (die : Nat) (wd : Nat) : State :=
  { (up1 id).updDie die fun d => { d with cyc := wd, watchdog := 0 } with launches := [{ lch with reiss := true }], core := { bedCore with did := die } }
/-- A delta of slot 3 with its digest, sent by die 0 to all; a port that is up; a broadcast from entry 0 to entry 1. -/
def delta3 : List (Nat × List Byte) := [(3, List.replicate 64 1)]
def almMsg : AlmMsg := { sender := 0, iter := 1, mask := 4095, digest := Config.shake256 (deltaBytes delta3), delta := delta3 }
/-- The same with another digest. -/
def almBad : AlmMsg := { almMsg with digest := ~~~ almMsg.digest }
/-- The PREPARE stands at die 0, with its answers so far; die 1 holds `m`. -/
def almBedOf (m : AlmMsg) (acks : List Nat) (cyc : Nat) : State :=
  let s := (up1 id).updDie 0 fun d => { d with almOut := some almMsg, almAcks := acks, cyc := cyc }
  (s.updDie 1 fun d => { d with almDelta := some m, almState := 1 })
def almBed (acks : List Nat) (cyc : Nat) : State := almBedOf almMsg acks cyc
def endOf0 : AlmEnd := { sender := 0, iter := 1 }
def wp (st : Nat) (lanes : BitVec 4) (q : List Nat) : WPort := { (default : WPort) with st := st, lanes := lanes, dropQ := q }
def ported (p : WPort) : State := up1 fun h => { h with ports := [(47, p)] }
def coll1 : Coll := { (default : Coll) with op := 1, kind := 0, root := 0, dst := 0x2000, bytes := 4 }
def colled (arrived : List Nat) : State :=
  up1 fun h => { h with topo := [(0xFFFF, 0, 0), (0, 0, 0)], topoSelf := 1, coll := some { coll1 with arrived := arrived, items := arrived.map fun i => (i, [1, 2, 3, 4]) } }
theorem almGood : almDigestOk almMsg = true := by simp [almDigestOk, almMsg]
theorem almWrong : almDigestOk almBad = false := by
  have h : ∀ d : BitVec 256, d ≠ ~~~ d := fun d e => by have := congrArg (·.getLsbD 0) e; simp at this
  simp [almDigestOk, almBad, almMsg, h]
theorem wit_Almanac :
    (almMsg.sender < 256 ∧ almMsg.delta.length < 65536 ∧ almMsg.mask < 2 ^ 64 ∧ endOf0.sender < 256 ∧ (up1 id).dies.length = 12) ∧
    ((almBed [] 0).prepareOk 2 almMsg = true ∧ (almBed [] 0).prepareOk 1 almMsg = false) ∧
    ((almBed [] 0).answerOk 1 1 true = true ∧ (almBed [] 0).answerOk 2 1 true = false ∧ (almBedOf almBad [] 0).answerOk 1 1 false = true ∧
      (almBed [] 0).answerOk 2 1 false = false) ∧
    (∀ s ∈ [almBed [] (2 ^ 40), almBedOf almBad [] 0], s.almRound = some (s.master, almMsg) ∧ (s.die s.master).almRetry = 0 ∧ almMsg.iter = (s.die s.master).almIter + 1) ∧
    ((almBed [] (2 ^ 40)).ackDue = true ∧ (almBed [] 0).ackDue = false) ∧
    (let s := almBed (List.range 12) 0; s.commitOk 1 1 = true ∧ (s.die 1).almDelta = some almMsg ∧ s.dies.any Die.committed = true ∧ s.late = [] ∧
      s.replicaHeld 1 = false ∧ (almMsg.delta.map (·.1)).Nodup ∧ ∀ z ∈ almMsg.delta, z.1 < 4096 ∧ z.2.length = 64 ∧ let k := (s.die 1).almBase + 64 * z.1
        s.alive k 64 ∧ (∀ j < 64, s.migHeld (k + j) = false) ∧ k + 64 ≤ hbmBytes) ∧
    (let s : State := { almBed (List.range 12) 0 with late := [.bytes 64 []] }; s.commitOk 1 1 = true ∧ s.replicaHeld 1 = true) ∧
    ((almBed [] 0).commitOk 1 1 = false ∧ (almBed [] 0).dies.any Die.committed = false ∧ ((almBed [] 0).die 1).almDelta = some almMsg ∧
      ((almBed [] 0).die 1).almState = 1) := by
  have ans : ∀ m b, m.iter = 1 → almDigestOk m = b → (almBedOf m [] 0).answerOk 1 1 b = true := fun m b h1 h2 => by
    have e : (((almBedOf m [] 0).die 1).almDelta) = some m := rfl
    have c : ((almBedOf m [] 0).die 0).committed = false := by unfold Die.committed; rfl
    have z : (almBedOf m [] 0).master = 0 := rfl
    simp only [State.answerOk, e, z, c, h1, h2]
    cases b <;> rfl
  refine ⟨by decide, ⟨?_, by decide +kernel⟩, ⟨ans _ _ rfl almGood, by decide +kernel, ans _ _ rfl almWrong, by decide +kernel⟩, ?_, ⟨by decide +kernel, by decide +kernel⟩,
    ⟨by decide +kernel, rfl, by decide +kernel, rfl, by decide +kernel, by decide, ?_⟩, by decide +kernel, by decide +kernel, by decide +kernel, rfl, rfl⟩
  · have h : (some almMsg == some almMsg) = true := beq_self_eq_true _
    have e : ((almBed [] 0).die (almBed [] 0).master).almOut = some almMsg := rfl
    simp only [State.prepareOk, Bool.and_eq_true, e]
    exact ⟨by decide +kernel, h⟩
  · intro s h
    simp only [List.mem_cons, List.not_mem_nil, or_false] at h
    rcases h with rfl | rfl <;> exact ⟨rfl, rfl, rfl⟩
  · unfold State.alive; decide +kernel
/-- What a flit's bytes are corrected to is the hardware's own; of the other hypotheses. -/
theorem wit_Fabric :
    (∀ st ∈ [2, 3], ((ported (wp st 15 [])).wport 47).up = true) ∧ ((ported (wp 1 15 [])).wport 47).st = 1 ∧ ((ported (wp 0 15 [])).wport 47).up = false ∧
    (∀ l ∈ [(3 : BitVec 4), 15], let p := (ported (wp 2 l [])).wport 47; p.up = true ∧ p.lanes.getLsbD 1 = true ∧ 1 ∉ p.dropQ ∧ decide (laneCount p.lanes ≤ 2) = decide (l = 3)) ∧
    (let p := (ported (wp 3 15 [2])).wport 47; p.st = 3 ∧ p.replay = [] ∧ p.dropQ = [2] ∧ 2 < laneCount p.lanes) ∧
    (let p := (ported { wp 2 15 [] with replay := [(5, []), (6, [])], nakSeq := some 6, fails := 15 }).wport 47; (∃ z ∈ p.replay, z.1 = 6) ∧ (∀ z ∈ p.replay, z.1 ≠ 7)) ∧
    (let s := up1 fun h => { h with topoBusy := true, topoAddr := 0x2000 }; s.host.topoBusy = true ∧ s.topoHeld = false ∧ s.natAt 0x2000 2 = 0) ∧
    (let s := { up1 (fun h => { h with topoBusy := true, topoAddr := 0x2000 }) with mem := place [(0x2000, 2, 1), (0x2002, 2, 0)] }
     s.topoHeld = false ∧ 0 < s.natAt 0x2000 2 ∧ s.natAt 0x2000 2 ≤ 4096 ∧ s.natAt 0x2002 2 < s.natAt 0x2000 2 ∧ s.alive 0x2000 (64 + 16 * 1)) ∧
    (∀ n ∈ [0, 15, 16], (up1 fun h => { h with colq := List.replicate n 0, coll := if n = 15 then some coll1 else none }).host.colq.length = n) ∧
    (let s := { (colled []) with mem := place [(0x3000, 1, 3), (0x3001, 1, 1)] }; (s.readColl 0x3000).formed = true ∧ (s.readColl 0x3000).op = 3 ∧
      s.host.hop 0 = some 0 ∧ s.host.childrenFrom 0 = []) ∧
    (let s := { (colled []) with mem := place [(0x3000, 1, 3)] }; (s.readColl 0x3000).formed = false) ∧
    (let h := (colled []).host; h.awaits { ring := false, origin := 0 } = true ∧ h.awaits { ring := true, origin := 0 } = false ∧ 0 < h.topo.length ∧ 0 ≠ h.topoSelf) ∧
    (∀ c ∈ (colled []).host.coll, (colled []).host.collDone = false ∧ (colled []).host.passedOver c 0 = false) ∧
    (∀ c ∈ (colled [0]).host.coll, let s := colled [0]; s.host.collDone = true ∧ s.collHeld = false ∧ s.host.colq = [] ∧ s.collResult c = some [1, 2, 3, 4] ∧ c.op ≠ 4 ∧
      c.sw = 0 ∧ s.alive c.dst 4 ∧ s.alive c.sw 16) := by
  unfold State.alive
  decide +kernel

theorem wit_IssueKeepsMemory : let i := Instr.add (wz 700 697 698)
    ∃ t, isWord i ∧ (bed .a).core.running = true ∧ (∀ w : Wm, i ∉ [Instr.tierin w, .tierev w, .pancfgRel w, .panrd w, .kvfork w, .smout w]) ∧
      opOf i ∉ [some 0x75, some 0x80, some 0x81, some 0x82, some 0x83] ∧ exec i (bed .a) = .next t ∧ (bed .a).runsOn t :=
  ⟨_, rfl, rfl, by simp, by decide, goes_next (by decide), by unfold State.runsOn; decide +kernel⟩
/-! ### Witnesses of the longer statements, and single steps beside them -/

theorem wit_StepRunsTheWord :
    (∃ s : State, ∃ i r, s.agenda = i :: r) ∧
    (∃ s : State, ∃ k n i, s.agenda = [] ∧ s.turn = .issue k ∧ s.issueKind k = .word ∧ (s.core.strm k).pc.toNat % 4 = 0 ∧
      s.fetchNat (s.core.strm k) (s.core.strm k).pc.toNat 12 = .ok n ∧ decodeWord n = some i) ∧
    (∃ s : State, ∃ k n, s.agenda = [] ∧ s.turn = .issue k ∧ s.issueKind k = .word ∧ (s.core.strm k).pc.toNat % 4 = 0 ∧
      s.fetchNat (s.core.strm k) (s.core.strm k).pc.toNat 12 = .ok n ∧ decodeWord n = none) ∧
    (∃ s : State, ∃ k, s.agenda = [] ∧ s.turn = .issue k ∧ s.issueKind k = .event) ∧
    (∃ s : State, ∃ k t, s.agenda = [] ∧ s.turn = .issue k ∧ s.issueKind k = .enter ∧
      exec (.sectionEntry k) { s with turn := (Turn.issue k).after } = .next t) :=
  ⟨⟨{ bed .a with agenda := [.rdzJoin] }, _, _, rfl⟩,
   ⟨fetched, .a, addWord, .add (wz 700 698 699), by decide, by decide, by decide, by decide, by decide, by decide⟩,
   ⟨(bed .a).withFetchWord 96 0, .a, 0, by decide, by decide, by decide, by decide, by decide, by decide⟩,
   ⟨{ heldEvents 1 false with turn := .issue .a }, .a, by decide, by decide, by decide⟩,
   ⟨{ atHdrA with turn := .issue .a }, .a, _, by decide, by decide, by decide, goes_next (by decide)⟩⟩

/-- The bed with a value in queues 0 to 3. -/
def withQueues (k : Strm) : State := (bed k).updC fun c => { c with queues := [(0, [.val 9 0]), (1, [.val 9 0]), (2, [.val 9 0]), (3, [.val 9 0])] }
theorem wit_MoveResults : (∃ s a b c t u, State.takes s (shI (wi 700 698 699 697 0) 0 .sDst .sSrc .sSrc .sSrc) a b c t ∧ t.gives 700 a 1 u) ∧
    (∃ s a b c t u, State.takes s (shZ (wz 728 698 0) .qDst .sReg) a b c t ∧ t.gives 728 a 1 u) ∧
    (∃ s a b c t u, State.takes s (shZ (wz 700 730 0) .sReg .qSrc) a b c t ∧ t.gives 700 a 1 u) :=
  ⟨⟨bed .a, _, _, _, _, _, takes_of (by decide), got (by decide)⟩, ⟨bed .a, _, _, _, _, _, takes_of (by decide), got (by decide)⟩,
   ⟨withQueues .a, _, _, _, _, _, takes_of (by decide), got (by decide)⟩⟩
/-- A pop gives the oldest value and takes it off the queue (R38). -/
theorem test_queue : (nextOf (exec (.sqr (wz 700 730 0)) (withQueues .a))).core.sa.sreg 4 = 9 ∧
    (nextOf (exec (.sqr (wz 700 730 0)) (withQueues .a))).core.queue 2 = [] ∧
    (nextOf (exec (.sqw (wz 729 698 0)) (withQueues .a))).core.queue 1 = [.val 9 0, .val 7 1] := by decide
theorem wit_ScalarsAndQueues : (∃ f : OpField, f.toNat = 696) ∧
    (∃ (s t x y : State) (f g : OpField) (v : Word) (cost : Nat), isS f = true ∧ f.toNat ≠ 696 ∧ s.gives f v cost t ∧ x.core = t.core ∧
      x.cur = s.cur ∧ x.now < s.now + cost ∧ y.core = t.core ∧ y.cur = s.cur ∧ s.now + cost ≤ y.now ∧
      Sparse.get s.strm.ready (f.toNat - 696) ≤ y.now ∧ isS g = true ∧ g ≠ f) ∧
    (∃ (s : State) (f : OpField) (v : Word) (at_ : Nat) (r : List QSlot), isQ f = true ∧ s.core.queue (f.toNat - 728) = .val v at_ :: r ∧ at_ ≤ s.now) ∧
    (∃ (s : State) (f : OpField), isQ f = true ∧ s.core.queue (f.toNat - 728) = []) :=
  ⟨⟨696, rfl⟩,
   ⟨bed .a, val ((bed .a).writeS 700 5 3), val ((bed .a).writeS 700 5 3), (val ((bed .a).writeS 700 5 3)).updDie 0 fun d => { d with cyc := 3 }, 700, 701, 5, 3,
     by decide, by decide, got (by decide), rfl, by decide, by decide, rfl, by decide, by decide, by decide, by decide, by decide⟩,
   ⟨withQueues .a, 730, 9, 0, [], by decide, by decide, by decide⟩, ⟨bed .a, 730, by decide, by decide⟩⟩
theorem wit_ScalarResultFrame : ∃ (s t u : State) (h : Shape) (a b c v : Word) (cost : Nat), h.scalarOnly ∧ s.takes h a b c t ∧
    t.gives h.hd.d v cost u :=
  ⟨bed .a, _, _, shZ3 (wz 700 698 699), _, _, _, 12, 1, by unfold Shape.scalarOnly; decide, takes_of (by decide), got (by decide)⟩

theorem wit_JumpsCallsReturnsTargets :
    (∃ (w : Wi) (s : State) (x : StrmSt), s.legal (shI w 36 .none .none .none .none) ∧
      s.target s.cur s.strm (s.strm.pc + 4 * w.imm.signExtend 64) = .ok x) ∧
    (∃ (w : Wi) (s t : State) (a b c : Word) (x : StrmSt), s.takes (shI w 36 .none .sSrc .none .none) a b c t ∧
      s.target s.cur s.strm (a + w.imm.signExtend 64) = .ok x) ∧
    (∃ (w : Wi) (s t : State) (a b c : Word) (x : StrmSt), s.takes (shI w 36 .none .qSrc .none .none) a b c t ∧
      s.target s.cur s.strm (s.strm.pc + 4 * w.imm.signExtend 64) = .ok x) ∧
    (∃ (w : Wi) (s u : State) (x : StrmSt), s.legal (shI w 36 .sDst .none .none .none) ∧
      s.target s.cur s.strm (s.strm.pc + 4 * w.imm.signExtend 64) = .ok x ∧ s.gives w.d (s.strm.linkNext true) 2 u) ∧
    (∃ (w : Wi) (s t : State) (a b c : Word) (x : StrmSt), s.takes (shI w 0 .none .sSrc .none .none) a b c t ∧ t.comeBack s.cur t.strm a = .ok x) ∧
    (∃ (i : Nat) (p : Word), i < 4096 ∧ p.toNat < 2 ^ 52 ∧ p.toNat % 4 = 0) ∧
    (∃ (s : State) (k : Strm) (x : StrmSt) (t : Word) (y : StrmSt), t.toNat % 4 = 0 ∧ x.inSection t = false ∧ s.target k x t = .ok y) ∧
    (∃ (x : StrmSt) (t : Word), t.toNat % 4 = 0 ∧ x.inSection t = true ∧ t ≠ x.secBase + 8) :=
  ⟨⟨wi 0 0 0 0 3, bed .a, _, legal_of (by decide), got (by decide)⟩,
   ⟨wi 0 698 0 0 0x1000000D, bed .a, _, _, _, _, _, takes_of (by decide), got (by decide)⟩,
   ⟨wi 0 730 0 0 3, withQueues .a, _, _, _, _, _, takes_of (by decide), got (by decide)⟩,
   ⟨wi 700 0 0 0 3, bed .a, _, _, legal_of (by decide), got (by decide), got (by decide)⟩,
   ⟨wi 0 697 0 0 0, withLink, _, _, _, _, _, takes_of (by decide), got (by decide)⟩,
   ⟨4095, 0xFFFFFFFFFFFFC, by decide⟩,
   ⟨atHdrA, .a, { strmAt [] with secBase := 0x20000000 }, 0x10000008, _, by decide, by decide, got (by decide)⟩,
   ⟨strmAt [], 0x10000014, by decide⟩⟩
theorem wit_LoopsAndRotation :
    (∀ n ∈ [(0 : Word), 2], ∃ (w : Wi) (s : State) (x : StrmSt) (d : Word) (u : State), s.legal (shI w 36 .sReg .none .none .none) ∧
      s.target s.cur s.strm (s.strm.pc + 4 * w.imm.signExtend 64) = .ok x ∧ s.loopCount w.d = .ok d ∧ s.strm.lc = n ∧ d ≠ 0 ∧ s.gives w.d (d - 1) 1 u) ∧
    (∃ (w : Wi) (s : State) (x : StrmSt), s.legal (shI w 36 .sReg .none .none .none) ∧
      s.target s.cur s.strm (s.strm.pc + 4 * w.imm.signExtend 64) = .ok x ∧ s.loopCount w.d = .ok 0 ∧ s.strm.lc = 0) ∧
    (∃ (w : Wi) (s : State) (x : StrmSt), s.legal (shI w 36 .none .none .none .none) ∧
      s.target s.cur s.strm (s.strm.pc + 4 * w.imm.signExtend 64) = .ok x) ∧
    (∃ (w : Wi) (s : State), s.legal (shI w 7 .none .none .none .none) ∧ w.imm.getLsbD 6 = true ∧ s.cur ≠ .a) := by
  refine ⟨fun n h => ?_, ⟨wi 696 0 0 0 3, withLc 0, _, legal_of (by decide), got (by decide), by decide, by decide⟩,
    ⟨wi 0 0 0 0 3, withLc 1, _, legal_of (by decide), got (by decide)⟩, ⟨wi 0 0 0 0 127, bed .v, legal_of (by decide), by decide, by decide⟩⟩
  rcases List.mem_cons.1 h with rfl | h
  · exact ⟨wi 697 0 0 0 3, withLc 0, _, _, _, legal_of (by decide), got (by decide), got (by decide), by decide, by decide, got (by decide)⟩
  · rw [List.mem_singleton.1 h]
    exact ⟨wi 697 0 0 0 3, withLc 2, _, _, _, legal_of (by decide), got (by decide), got (by decide), by decide, by decide, got (by decide)⟩
theorem wit_StreamControl :
    (∃ (w : Wi) (s : State), s.legal (shI w 0 .none .none .none .none) ∧ s.core.stopReq = false ∧ s.strm.handler = false) ∧
    (∃ (w : Wi) (s : State), s.legal (shI w 0 .none .none .none .none) ∧ s.core.stopReq = true) ∧
    (∃ (w : Wi) (s : State) (x : StrmSt), s.legal (shI w 0 .none .none .none .none) ∧ s.strm.handler = true ∧
      s.comeBack s.cur { s.strm with handler := false } s.strm.epc = .ok x) ∧
    (∃ (w : Wi) (s : State), s.legal (shI w 16 .none .none .none .none) ∧ s.strm.handler = true) ∧
    (∃ (w : Wi) (s : State), s.legal (shI w 16 .none .none .none .none) ∧ s.strm.handler = false ∧ s.strm.evh = 0 ∧ s.core.dbgOk = false) ∧
    (∃ (w : Wi) (s : State) (x : StrmSt), s.legal (shI w 16 .none .none .none .none) ∧ s.strm.handler = false ∧ s.strm.evh ≠ 0 ∧
      s.target s.cur { s.strm with evc := 1, eva := BitVec.ofNat 64 w.imm.toNat, epc := s.strm.linkNext false, handler := true, swwait := none, sent := none, desc := none } s.strm.evh = .ok x) ∧
    (∃ (w : Wi) (s : State), s.legal (shI w 16 .none .none .none .none) ∧ s.core.dbgOk = true ∧ s.core.running = true) :=
  ⟨⟨wi 0 0 0 0 0, bed .a, legal_of (by decide), by decide, by decide⟩,
   ⟨wi 0 0 0 0 0, (bed .a).updC fun c => { c with stopReq := true }, legal_of (by decide), by decide⟩,
   ⟨wi 0 0 0 0 0, inHandler, _, legal_of (by decide), by decide, got (by decide)⟩,
   ⟨wi 0 0 0 0 5, inHandler, legal_of (by decide), by decide⟩,
   ⟨wi 0 0 0 0 5, bed .a, legal_of (by decide), by decide, by decide, by decide⟩,
   ⟨wi 0 0 0 0 65535, withEvh, _, legal_of (by decide), by decide, by decide, got (by decide)⟩,
   ⟨wi 0 0 0 0 5, (bed .a).updC fun c => { c with dbgOk := true }, legal_of (by decide), by decide, by decide⟩⟩
theorem wit_SpecialRegisters :
    (∃ (w : Wi) (s u : State) (v : Word), w.imm.toNat = 0x15 ∧ s.legal (shI w 8 .sDst .none .none .none) ∧ s.gives w.d v 1 u ∧ s.core.sys = true) ∧
    (∃ (w : Wi) (s : State), s.static (shI w 8 .sDst .none .none .none) = .ok () ∧ w.imm.toNat = 0x16) ∧
    (∃ (w : Wi) (s : State), s.static (shI w 8 .sDst .none .none .none) = .ok () ∧ s.core.sys = false ∧ w.imm.toNat = 0x10) ∧
    (∃ (z : Wi) (s u : State), s.legal (shI z 0 .sDst .none .none .none) ∧ s.gives z.d (BitVec.ofNat 64 s.now) 1 u) ∧
    (∀ p ∈ [((0x0D : BitVec 36), (4 : Word)), (0x0E, 0xFFFFFFFFFFFFFFC0), (0x13, 65535), (0x12, 0xFFFFFFFD), (0x15, 0xFFFFFFFF), (0x01, 63)],
      ∃ (w : Wi) (s t : State) (a b c : Word) (r : SReg), w.imm = p.1 ∧ s.takes (shI w 8 .none .sSrc .none .none) a b c t ∧
        SReg.ofNum w.imm.toNat = some r ∧ (r.sysOnly = true → s.core.sys = true) ∧ r.writable s.core.sys = true ∧
        a.toNat < 2 ^ r.width ∧ (r = .rm → a.toNat < 5) ∧ (r = .fmtb → a.toNat % 64 = 0) ∧ (r = .mth → a ≠ 0) ∧
        (r = .rm → s.cur = .m → s.core.pending = []) ∧ s.core.did < s.dies.length) := by
  refine ⟨⟨wi 700 0 0 0 0x15, bed .a, _, 0, by decide, legal_of (by decide), got (by decide), by decide⟩,
    ⟨wi 700 0 0 0 0x16, bed .a, by decide, by decide⟩, ⟨wi 700 0 0 0 0x10, user .a, by decide, by decide, by decide⟩,
    ⟨wi 700 0 0 0 0, bed .a, _, legal_of (by decide), got (by decide)⟩, fun p h => ?_⟩
  simp only [List.mem_cons, List.not_mem_nil, or_false] at h
  have mk : ∀ (n : BitVec 36) (v : Word) (r : SReg), takesB (srVal v) (shI (wi 0 697 0 0 n) 8 .none .sSrc .none .none) = true →
      SReg.ofNum n.toNat = some r → r.writable true = true → (srcs (srVal v) (shI (wi 0 697 0 0 n) 8 .none .sSrc .none .none)).1.1.toNat < 2 ^ r.width →
      (srcs (srVal v) (shI (wi 0 697 0 0 n) 8 .none .sSrc .none .none)).1.1 = v →
      (r = .rm → v.toNat < 5) → (r = .fmtb → v.toNat % 64 = 0) → (r = .mth → v ≠ 0) →
      ∃ (w : Wi) (s t : State) (a b c : Word) (r : SReg), w.imm = n ∧ s.takes (shI w 8 .none .sSrc .none .none) a b c t ∧
        SReg.ofNum w.imm.toNat = some r ∧ (r.sysOnly = true → s.core.sys = true) ∧ r.writable s.core.sys = true ∧
        a.toNat < 2 ^ r.width ∧ (r = .rm → a.toNat < 5) ∧ (r = .fmtb → a.toNat % 64 = 0) ∧ (r = .mth → a ≠ 0) ∧
        (r = .rm → s.cur = .m → s.core.pending = []) ∧ s.core.did < s.dies.length := by
    intro n v r h1 h2 h3 h4 h5 h6 h7 h8
    refine ⟨wi 0 697 0 0 n, srVal v, _, _, _, _, r, rfl, takes_of h1, h2, fun _ => rfl, h3, h4, ?_, ?_, ?_, fun _ _ => rfl, ?_⟩
    · rwa [h5]
    · rwa [h5]
    · rwa [h5]
    · show 0 < 12; omega
  rcases h with rfl | rfl | rfl | rfl | rfl | rfl
  · exact mk 0x0D 4 .rm (by decide) rfl (by decide) (by decide) (by decide) (by decide) (by decide) (by decide)
  · exact mk 0x0E 0xFFFFFFFFFFFFFFC0 .fmtb (by decide) rfl (by decide) (by decide) (by decide) (by decide) (by decide) (by decide)
  · exact mk 0x13 65535 .mth (by decide) rfl (by decide) (by decide) (by decide) (by decide) (by decide) (by decide)
  · exact mk 0x12 0xFFFFFFFD .dbg (by decide) rfl (by decide) (by decide) (by decide) (by decide) (by decide) (by decide)
  · exact mk 0x15 0xFFFFFFFF .cnti (by decide) rfl (by decide) (by decide) (by decide) (by decide) (by decide) (by decide)
  · exact mk 0x01 63 .rrb (by decide) rfl (by decide) (by decide) (by decide) (by decide) (by decide) (by decide)
/-- An illegal operand on core 0: the record goes to slot 3, TAIL becomes 4, vector 6 is signalled, the job issues nothing more (R350 to R352). -/
theorem test_fault : let t := (faulty 3).raise (flt .illegalOperand)
    t.natAt 0x8110 4 = 4 ∧ t.host.msix = [6] ∧ t.core.stopReq = true ∧ (t.launches.map (·.faulted)) = [true] := by decide

theorem wit_SectionsAreEnteredAndRetire :
    (∃ (s : State) (k : Strm) (h : SecHdr), let x := s.core.strm k
      s.core.live k = true ∧ x.atHdr = true ∧ x.pc.toNat % 4 = 0 ∧ s.fetchHdr x x.pc = .ok h ∧ h.hk = 0xA ∧ h.len = 0) ∧
    (∀ v ∈ [false, true], ∃ (s : State) (k : Strm) (h : SecHdr), let x := s.core.strm k
      s.core.live k = true ∧ x.atHdr = true ∧ x.pc.toNat % 4 = 0 ∧ s.fetchHdr x x.pc = .ok h ∧ h.hk = 0xA ∧ h.len ≠ 0 ∧ hdrFields h k = true ∧
      x.handler = false ∧ x.ord < 2 ^ 32 ∧ beginOk s.core k h x.ord = !v) ∧
    (∃ (s : State) (k : Strm) (l : LeftSec) (r : List LeftSec), s.core.running = true ∧ (s.core.strm k).left = l :: r ∧ l.due ≤ s.now ∧
      ∀ p ∈ s.core.pending, p.strm = k → l.due < p.due) ∧
    (∃ (s : State) (k : Strm) (l : LeftSec) (r : List LeftSec), s.core.running = true ∧ (s.core.strm k).left = l :: r ∧ ¬ l.due ≤ s.now) := by
  refine ⟨⟨enters (hdrOf 0 0 false 0), .a, decodeHdr (hdrOf 0 0 false 0), by decide⟩, fun v _ => ?_,
    ⟨(bed .a).updK .v fun x => { x with left := [⟨0⟩] }, .v, ⟨0⟩, [], by decide, by decide, by decide, by decide⟩,
    ⟨(bed .a).updK .v fun x => { x with left := [⟨9⟩] }, .v, ⟨9⟩, [], by decide⟩⟩
  cases v
  · exact ⟨enters (hdrOf 3 0 false 0), .a, decodeHdr (hdrOf 3 0 false 0), by decide⟩
  · exact ⟨enters (hdrOf 3 0 true 0), .a, decodeHdr (hdrOf 3 0 true 0), by decide⟩
theorem wit_StreamsJoinEndAndTakeEvents :
    (∃ s : State, s.core.running = true ∧ s.core.sa.atRdz = true ∧ s.core.sv.atRdz = true ∧ s.core.sm.stopped = true ∧ s.core.pending = [] ∧
      s.core.ops = []) ∧
    (∃ s : State, s.core.sa.stopped = false ∧ s.core.sa.atRdz = false) ∧
    (∃ s : State, s.deadlocked = true) ∧ (∃ s : State, s.deadlocked = false) ∧
    (∃ s : State, s.jobDone = true ∧ s.core.ops = []) ∧ (∃ s : State, s.jobDone = false) ∧
    (∀ n ∈ [1, 8, 9], (heldEvents n false).core.live .a = true ∧ (heldEvents n false).core.sa.held.length = n ∧ (heldEvents n false).core.sa.atHdr = false ∧
      (heldEvents n false).core.sa.atRdz = false) ∧
    (∃ (s : State) (k : Strm) (e : Event) (r : List Event) (y : StrmSt), let x := s.core.strm k
      s.core.live k = true ∧ x.atHdr = false ∧ x.atRdz = false ∧ x.held = e :: r ∧ x.held.length ≤ 8 ∧ x.handler = false ∧ x.evh ≠ 0 ∧
      s.target k { x with held := r, evc := BitVec.ofNat 32 (e.cause + 256 * e.sub), eva := e.info, epc := x.linkHere, handler := true, swwait := none, sent := none, desc := none } x.evh = .ok y) ∧
    (heldEvents 8 true).core.sa.handler = true ∧ (heldEvents 0 false).core.sa.held = [] :=
  ⟨⟨allRdz, by decide⟩, ⟨bed .a, by decide⟩, ⟨stuck, by decide⟩, ⟨bed .a, by decide⟩,
   ⟨allStopped, by decide⟩, ⟨bed .a, by decide⟩, by decide,
   ⟨heldEvents 8 false, .a, { cause := 2, sub := 1, info := 5 }, List.replicate 7 { cause := 2, sub := 1, info := 5 }, _,
     by decide, by decide, by decide, by decide, by decide, by decide, by decide, got (by decide)⟩, by decide, by decide⟩
def landing : State := (bed .v).updC fun c => { c with pending := [{ due := 0, ord := 0, strm := .v, shd := false, eff := onePart, events := [] }] }
theorem wit_ResultsLandUnderTheMask : (∃ (s : State) (p : Pending), s.core.pending = [p] ∧ s.core.stopReq = false ∧ s.now < p.due) ∧
    (∃ (s : State) (p : Pending), s.core.pending = [p] ∧ s.core.stopReq = false ∧ p.due ≤ s.now ∧ p.events = []) ∧
    (∃ (t : ETy) (pred : BitVec 1024) (f : Nat → Nat → Option Nat), t.width = 32 ∧ 63 < t.perRow ∧ pred.getLsbD (laneOf t 15 63) = true ∧ f 15 63 = some 1) ∧
    (∃ (t : ETy) (pred : BitVec 1024), pred.getLsbD (laneOf t 0 0) = false) :=
  ⟨⟨(bed .v).updC fun c => { c with pending := [{ due := 5, ord := 0, strm := .v, shd := false, eff := .canon 0, events := [] }] },
      { due := 5, ord := 0, strm := .v, shd := false, eff := .canon 0, events := [] }, by decide, by decide, by decide⟩,
   ⟨landing, { due := 0, ord := 0, strm := .v, shd := false, eff := onePart, events := [] }, rfl, rfl, by decide, rfl⟩, ⟨.n32, BitVec.allOnes 1024, fun _ _ => some 1, rfl, by decide, by decide +kernel, rfl⟩,
   ⟨.n16, 0, by decide +kernel⟩⟩

/-- A key nothing holds back; an access about to perform; a state some cycles on; a descriptor that has been read. -/
def flowsB (s : State) (k : Nat) : Bool := !s.linkDown k && !s.migHeld k && !s.stripeBusy k && !s.backedOff k
theorem flows_of {s : State} {k : Nat} (h : flowsB s k = true) : s.flows k := by
  simp only [flowsB, Bool.and_eq_true, Bool.not_eq_true'] at h
  exact ⟨h.1.1.1, h.1.1.2, h.1.2, h.2⟩
/-- The part of an access that performs. -/
def partOf (s : State) (o : MOp) (pick : Part → Bool) : Option Part :=
  o.body.parts.find? fun q => pick q && s.canPerform o q && s.gate q.reads q.writes == .go
def performsB (s : State) (o : MOp) (pick : Part → Bool) : Bool :=
  decide ((s.core.ops.find? fun x => x.id == o.id) = some o) &&
    o.body.parts.all (fun q => !pick q || (q.reads ++ q.writes).all fun k => !s.linkFailed k) && (partOf s o pick).isSome
theorem performs_of {s : State} {o : MOp} {pick : Part → Bool} (h : performsB s o pick = true) :
    s.performs o pick ((partOf s o pick).getD default) := by
  simp only [performsB, Bool.and_eq_true, decide_eq_true_eq, List.all_eq_true, Bool.or_eq_true, Bool.not_eq_true'] at h
  obtain ⟨p, hp⟩ := Option.isSome_iff_exists.1 h.2
  refine ⟨h.1.1, fun q hq hk k hm => ?_, ?_⟩
  · rcases h.1.2 q hq with e | e
    · rw [hk] at e; cases e
    · exact e k hm
  · rw [hp]; exact hp
theorem whole_of {s : State} {o : MOp} (h : performsB s o (fun _ => true) = true) : s.performsWhole o := ⟨_, performs_of h⟩
/-- The memory port is free and nobody waits for it. -/
theorem portOpen_of {s : State} {u : PortUser} {n : Nat} (h : (decide (s.core.portBusy ≤ s.now) && s.core.portQ.isEmpty) = true) : s.portOpen u n := by
  simp only [Bool.and_eq_true, decide_eq_true_eq, List.isEmpty_iff] at h
  exact ⟨.inl h.1, by simp [h.2]⟩
theorem room_of {s : State} {w : Wm} (h : (!w.tke || (s.strm.token w.tk.toNat).room w.opn) = true) : s.batchRoom w := by
  intro e; simpa [e] using h
def later (s : State) : State := s.updDie 0 fun d => { d with cyc := 20 }
def withDesc (s : State) (bs : List Byte) : State := s.upd fun x => { x with desc := some { id := 3, data := some (.ok bs) } }
theorem desc_of {s : State} {w : Wm} {a : Word} {bs : List Byte} (h1 : addrOk (a + w.disp.signExtend 64).toNat 64 64)
    (h2 : okB (s.xlate (a + w.disp.signExtend 64).toNat .rd) = true) (h3 : s.strm.desc = some { id := 3, data := some (.ok bs) }) : s.descAt w a bs :=
  ⟨_, 3, h1, got h2, h3⟩
/-- One access waits in the core's list; its token's reference is of the job that runs. -/
def tok0 : TokRef := { lrec := 0x4000, job := 0, strm := .a, tok := 0, batch := 1 }
theorem wit_tokens : (bed .a).core.holds tok0.lrec tok0.job = true := by decide
def waiting (kinds : BitVec 6) (body : MBody) : MOp :=
  { id := 7, strm := .a, cls := 0, kinds := kinds, va := 0x10001000, vas := [(0, 0x10001000)], body := body, tok := some tok0, notBefore := 0, blocked := [], shd := false, pc := 0 }
def ldOp : MOp := waiting 1 (.load (winKey 0x1000) 2 true (.scal .a 4))
/-- LD.H of the bytes FE FF gives -2, LD.HN 65534 (R213); ACAS puts B where the old value is C (R217). -/
theorem test_load : (nextOf (exec (.loadDataReturn 7) (withOp (bedM .a (winKey 0x1000) [0xFE, 0xFF]) ldOp))).core.sa.sreg 4 = 0xFFFFFFFFFFFFFFFE := by decide
theorem test_store : (nextOf (exec (.storePerform 7) (withOp (bed .a) (waiting 2 (.store 0x10000 [1, 2]))))).natAt 0x10000 2 = 513 := by decide
theorem test_acas : (nextOf (exec (.atomicPerform 7) (withOp (bed .a) (waiting 3 (.atomic 9 0x10000 8 5 0 (.scal .a 4)))))).natAt 0x10000 8 = 5 ∧
    (nextOf (exec (.atomicPerform 7) (withOp (bed .a) (waiting 3 (.atomic 9 0x10000 8 5 1 (.scal .a 4)))))).natAt 0x10000 8 = 0 := by decide
/-- A sync word of target 64 raised by 64 bytes: the count is 0 again, the generation 1 (R88, R89). -/
theorem test_swadd : let t := nextOf (exec (.atomicPerform 7) (withOp (bedM .a 0x10000 [64]) (waiting 3 (.swadd 0x10000 64))))
    t.natAt 0x10000 4 = 64 ∧ t.natAt 0x10004 4 = 0 ∧ t.natAt 0x10008 4 = 1 := by decide

theorem wit_AccessesPerform :
    (∃ (s : State) (o : MOp), s.performsWhole o ∧ o.body = .load (winKey 0x1000) 2 true (.scal .a 4)) ∧
    (∃ (s : State) (o : MOp) (d : DescRead), s.performsWhole o ∧ o.body = .desc (winKey 0x1000) ∧
      (s.core.strm o.strm).desc = some d ∧ d.id = o.id ∧ s.poisonedAt (winKey 0x1000) 64 = false) ∧
    (∃ (s : State) (o : MOp) (bs : List Byte), s.performsWhole o ∧ o.body = .store 0x10000 bs ∧ s.hbmDead 0x10000 = false) ∧
    (∃ (s : State) (o : MOp), s.performsWhole o ∧ o.body = .atomic 9 0x10000 8 5 0 (.scal .a 4) ∧ s.hbmDead 0x10000 = false ∧
      ∀ x, (s.touchRow 0x10000).byte x = s.byte x) ∧
    (∃ (s : State) (o : MOp) (q : Nat), s.performsWhole o ∧ o.body = .swadd 0x10000 q ∧ s.hbmDead 0x10000 = false ∧
      ∀ x, (s.touchRow 0x10000).byte x = s.byte x) :=
  ⟨⟨withOp (bedM .a (winKey 0x1000) [0xFE, 0xFF]) ldOp, ldOp, whole_of (by decide), rfl⟩,
   ⟨(later (withOp (bed .a) (waiting 1 (.desc (winKey 0x1000))))).upd fun x => { x with desc := some { id := 7, data := none } }, waiting 1 (.desc (winKey 0x1000)),
     { id := 7, data := none }, whole_of (by decide), rfl, rfl, rfl, by decide⟩,
   ⟨withOp (bed .a) (waiting 2 (.store 0x10000 [1, 2])), waiting 2 (.store 0x10000 [1, 2]), [1, 2], whole_of (by decide), rfl, by decide⟩,
   ⟨withOp (bed .a) (waiting 3 (.atomic 9 0x10000 8 5 0 (.scal .a 4))), waiting 3 (.atomic 9 0x10000 8 5 0 (.scal .a 4)), whole_of (by decide), rfl,
     by decide, fun x => congrArg (Sparse.get · x) (show (State.touchRow _ 0x10000).mem = State.mem _ by decide)⟩,
   ⟨withOp (bed .a) (waiting 3 (.swadd 0x10000 64)), waiting 3 (.swadd 0x10000 64), 64, whole_of (by decide), rfl, by decide,
     fun x => congrArg (Sparse.get · x) (show (State.touchRow _ 0x10000).mem = State.mem _ by decide)⟩⟩
/-- The port busy for four cycles more. -/
def portTaken (s : State) : State := s.updC fun c => { c with portBusy := 4 }
theorem wit_TileAccessesIssue :
    (∃ (w : Wm) (s t : State) (a b c : Word), let h := shTile w true (vr w) .sSrc .sSrc .none
      s.takes h a b c t ∧ a + w.disp.signExtend 64 = 0x10001000 ∧ w.b.toNat = 696 ∧ w.sz = 0 ∧
      s.rowsAt .rd 0x10001000 128 16 rows16 ∧ s.shadow h = .ok () ∧ s.portOpen (.strm .a) 8 ∧ s.batchRoom w) ∧
    (∃ (w : Wm) (s t : State) (a b c : Word), let h := shTile w true (vr w) .sSrc .sSrc .none
      s.takes h a b c t ∧ a + w.disp.signExtend 64 = 0x10001000 ∧ w.b.toNat = 696 ∧ w.sz = 0 ∧
      s.rowsAt .rd 0x10001000 128 16 rows16 ∧ ¬ s.portOpen (.strm .a) 8) ∧
    (∃ (w : Wm) (s t : State) (a b c : Word), let ea := a + w.disp.signExtend 64
      s.takes (shTile w true (vr w) .sSrc .sSrc .none) a b c t ∧ ea.toNat < 2 ^ 52 ∧ ea.toNat + 128 ≤ winHi ∧ ¬ ea.toNat % 128 = 0) ∧
    (∃ (w : Wm) (s t : State) (a b c : Word), let h := shTile w false (.portOf true 1) .sSrc .sSrc .none
      s.takes h a b c t ∧ a + w.disp.signExtend 64 = 0x10001000 ∧ w.b.toNat = 696 ∧ w.sz = 0 ∧
      s.rowsAt .rd 0x10001000 128 16 rows16 ∧ s.shadow h = .ok () ∧ s.portOpen (.strm .a) 8 ∧ s.batchRoom w ∧
      (s.core.port (portIx w.d)).slots.length + 1 = 4) ∧
    (∀ p ∈ [((5 : OpField), false), (640, true)], ∃ (s t t1 : State) (a b c : Word) (v : List VReg), let w := wm 0 697 696 p.1 false 0 0
      let h := shTile w false .none .sSrc .sSrc (if p.2 then .portOf false 1 else vr w)
      s.takesOf h { h with c := .none } a b c t ∧ a + w.disp.signExtend 64 = 0x10001000 ∧ w.b.toNat = 696 ∧ w.sz = 0 ∧
      s.rowsAt .wr 0x10001000 128 16 rows16 ∧ t.readV w.c 1 = .ok (.tiles v, t1) ∧ s.shadow h = .ok () ∧ s.portOpen (.strm .a) 8 ∧ s.batchRoom w) := by
  refine ⟨⟨wm 5 697 696 0 true 0 0, bed .a, _, _, _, _, takes_of (by decide), by decide, by decide, by decide, rows16_at _ _ (by decide), got (by decide),
      portOpen_of (by decide), room_of (by decide)⟩,
    ⟨wm 5 697 696 0 true 0 0, portTaken (bed .a), _, _, _, _, takes_of (by decide), by decide, by decide, by decide,
      rows16_at _ _ (by decide), fun h => absurd h.1 (by decide)⟩,
    ⟨wm 5 697 696 0 true 0 64, bed .a, _, _, _, _, takes_of (by decide), by decide, by decide, by decide⟩,
    ⟨wm 640 697 696 0 false 0 0, withPort .a (portOf 0 1 [emptyTile, emptyTile, emptyTile]), _, _, _, _, takes_of (by decide), by decide, by decide, by decide,
      rows16_at _ _ (by decide), got (by decide), portOpen_of (by decide), room_of (by decide), by decide⟩, fun p h => ?_⟩
  simp only [List.mem_cons, List.not_mem_nil, or_false] at h
  rcases h with rfl | rfl
  · exact ⟨bed .a, _, _, _, _, _, [[]], takesOf_of (by decide) (by decide), by decide, by decide, by decide, rows16_at _ _ (by decide), by rfl, got (by decide),
      portOpen_of (by decide), room_of (by decide)⟩
  · exact ⟨withPort .a (portOf 2 0 [emptyTile]), _, _, _, _, _, [[]], takesOf_of (by decide) (by decide), by decide, by decide, by decide, rows16_at _ _ (by decide), by rfl,
      got (by decide), portOpen_of (by decide), room_of (by decide)⟩
/-- An access of rows under way: its row `n` performs now. -/
def under (s : State) (o : MOp) : State := later (withOp s o)
def rowsAt15 (s : State) (o : MOp) : Prop := ∃ part, (under s o).performs o (fun q => q.ix == 15) part
def ldvOp : MOp := waiting 1 (.ldv [(15, 0x10000)] [9] (BitVec.allOnes 1024))
def stvOp : MOp := waiting 2 (.stv [(15, 0x10000)] [[(5, 7)]] 1)
def ldvpOp : MOp := waiting 1 (.ldvp [(15, 0x10000)] 0 [3] 1 [[]])
def astrOp : MOp := waiting 32 (.astr [(0x10000000, winKey 0)] 0x10001040 [1] [0x200020])
theorem wit_TileRowsPerform :
    (rowsAt15 (bed .a) ldvOp ∧ ([(15, 0x10000)].filter fun p : Nat × Nat => p.1 == 15) = [(15, 0x10000)] ∧ [9][15 / 16]? = some 9 ∧
      (under (bed .a) ldvOp).poisonedAt 0x10000 128 = false) ∧
    (let s := { bed .a with poison := [1] }; rowsAt15 s (waiting 1 (.ldv [(15, 64)] [9] 1)) ∧ (under s ldvOp).poisonedAt 64 128 = true) ∧
    (rowsAt15 (bed .a) stvOp ∧ (under (bed .a) stvOp).hbmDead 0x10000 = false ∧ 0x10000 % 128 = 0 ∧ [([(5, 7)] : VReg)][15 / 16]? = some [(5, 7)]) ∧
    (let s := withPort .a (portOf 0 1 [.res 3]); rowsAt15 s ldvpOp ∧ (under s ldvpOp).poisonedAt 0x10000 128 = false ∧
      (∀ p ∈ [((15 : Nat), 0x10000)], p.1 ≠ 15 → p.1 / 16 ≠ 15 / 16) ∧ [3][15 / 16]? = some 3) ∧
    ((∃ part, (under (bed .m) astrOp).performs astrOp (fun q => q.ix == 0x200020) part) ∧ 0x10001040 % 64 = 0 ∧ (under (bed .m) astrOp).hbmDead (winKey 0x1040) = false ∧
      max 0x10001040 (128 * 0x200020) = 0x10001040 ∧ keyIn [(0x10000000, winKey 0)] 0x10001040 = winKey 0x1040) :=
  ⟨⟨⟨_, performs_of (by decide +kernel)⟩, by decide, by decide, by decide⟩, ⟨⟨_, performs_of (by decide +kernel)⟩, by decide +kernel⟩,
   ⟨⟨_, performs_of (by decide +kernel)⟩, by decide, by decide, by decide⟩, ⟨⟨_, performs_of (by decide +kernel)⟩, by decide, by decide, by decide⟩,
   ⟨⟨_, performs_of (by decide +kernel)⟩, by decide, by decide, by decide, by decide⟩⟩
/-- Row 15 of a load: element (15, 1) of v9 is bytes 2 and 3 of the row (R31, R215). -/
theorem test_tileRow : (Sparse.get ((nextOf (exec (.tileLoadComplete 7 15) (later (withOp (bedM .a 0x10000 [1, 2, 3, 4])
    (waiting 1 (.ldv [(15, 0x10000)] [9] (BitVec.allOnes 1024))))))).core.vreg 9) (64 * 15 + 1)) = 0x0403 := by decide +kernel

def ldgOp : MOp := waiting 1 (.ldg [(1023, 0x10002), (0, 0x10000)] 2 [4])
def ldg4Op : MOp := waiting 1 (.ldg [(1023, 0x10004)] 4 [4, 5])
def stgOp : MOp := waiting 2 (.stg [(1023, 0x10000, 65535)] 2)
/-- A gather or scatter of lane 0, and of no lane. -/
theorem wit_GatherAndScatter :
    (∀ p ∈ [(lane0 .a, lane0Keys), (bed .a, [])], ∃ (t : State) (a b c : Word) (l : List VReg) (x : State), let s := p.1; let w := gw 5 0 true
      s.readV w.b 1 = .ok (.tiles l, x) ∧ s.shadow (shGather w true) = .ok () ∧ s.portOpen (.strm .a) (if p.2.isEmpty then 0 else 8) ∧ s.batchRoom w ∧
      s.takesOf (shGather w true) { shGather w true with b := .none } a b c t ∧
      p.2.map (·.1) = predLanes (s.pred w.toHd) ∧ ∀ e ∈ p.2, addrOk (laneAddr w a l e.1) 2 2 ∧ s.xlate (laneAddr w a l e.1) .rd = .ok e.2) ∧
    (∃ (t : State) (a b c : Word) (l : List VReg) (x : State) (d : List VReg) (y : State), let s := lane0 .a; let w := gw 0 5 false
      s.readV w.b 1 = .ok (.tiles l, x) ∧ s.shadow (shGather w false) = .ok () ∧ s.portOpen (.strm .a) 8 ∧ s.batchRoom w ∧
      s.takesOf (shGather w false) { shGather w false with b := .none, c := .none } a b c t ∧ lane0Keys.map (·.1) = predLanes (s.pred w.toHd) ∧
      (∀ e ∈ lane0Keys, addrOk (laneAddr w a l e.1) 2 2 ∧ s.xlate (laneAddr w a l e.1) .wr = .ok e.2) ∧ s.readV w.c 1 = .ok (.tiles d, y)) ∧
    ((∃ part, (under (bed .a) ldgOp).performs ldgOp (fun _ => true) part ∧ part.ix = 1023) ∧
      ([(1023, 0x10002), (0, 0x10000)].find? fun x : Nat × Nat => x.1 == 1023) = some (1023, 0x10002) ∧ (under (bed .a) ldgOp).poisonedAt 0x10002 2 = false) ∧
    (∃ part, (under (bed .a) ldg4Op).performs ldg4Op (fun _ => true) part ∧ part.ix = 1023) ∧
    ((∃ part, (under (bed .a) stgOp).performs stgOp (fun _ => true) part ∧ part.ix = 1023) ∧ (under (bed .a) stgOp).hbmDead 0x10000 = false ∧ 65535 < 2 ^ (8 * 2)) := by
  refine ⟨fun p h => ?_, ⟨_, _, _, _, [[]], _, [[]], _, by rfl, got (by decide), portOpen_of (by decide), room_of (by decide), takesOf_of (by decide) (by decide),
      by decide +kernel, ?_, by rfl⟩,
    ⟨⟨_, performs_of (by decide +kernel), by decide +kernel⟩, by decide, by decide⟩, ⟨_, performs_of (by decide +kernel), by decide +kernel⟩,
    ⟨⟨_, performs_of (by decide +kernel), by decide +kernel⟩, by decide, by decide⟩⟩
  · simp only [List.mem_cons, List.not_mem_nil, or_false] at h
    rcases h with rfl | rfl
    · refine ⟨_, _, _, _, [[]], _, by rfl, got (by decide), portOpen_of (by decide), room_of (by decide), takesOf_of (by decide) (by decide), by decide +kernel, ?_⟩
      intro e he
      rw [List.mem_singleton.1 he]
      exact ⟨addr_of (by decide), by rfl⟩
    · exact ⟨_, _, _, _, [[]], _, by rfl, got (by decide), portOpen_of (by decide), room_of (by decide), takesOf_of (by decide) (by decide), by decide +kernel, nofun⟩
  · intro e he
    rw [List.mem_singleton.1 he]
    exact ⟨addr_of (by decide), by rfl⟩

theorem wit_FenceAndSyncWords :
    (∃ (w : Wf) (s : State), s.legal (shFence w) ∧ s.core.ops = [] ∧ s.copiesPending w = false) ∧ (∃ w : Wf, (bed .a).legal (shFence w) ∧ w.pred = 0) ∧
    (∃ (w : Wf) (s : State), s.legal (shFence w) ∧ w.pred ≠ 0 ∧ w.succ ≠ 0 ∧ w.clm ≠ 0 ∧
      ∃ o ∈ s.core.ops, o.strm = s.cur ∧ o.kinds &&& w.pred ≠ 0 ∧ w.clm.getLsbD o.cls = true) ∧
    (∃ (w : Wf) (s : State), s.legal (shFence w) ∧ w.succ ≠ 0 ∧ w.clm ≠ 0 ∧
      ∃ o ∈ s.core.ops, 1 ≤ w.scope.toNat ∧ w.pred &&& 0x30#6 ≠ 0 ∧ o.strm = .m ∧ o.kinds &&& 0x30#6 ≠ 0) ∧
    (∃ (w : Wm) (s t : State) (a b c : Word) (key : Nat), let ea := (a + w.disp.signExtend 64).toNat
      addrOk ea 16 16 ∧ s.xlate ea .sync = .ok key ∧ s.takes (shM w .none false 1 24 .none .sSrc .sSrc .sSrc) a b c t ∧ b.toNat < 2 ^ 32 ∧ c.toNat < 2 ^ 32 ∧
      s.storesIn w.cls.toNat < 16) ∧
    (∃ (w : Wm) (s t : State) (a b c : Word) (key : Nat), let ea := (a + w.disp.signExtend 64).toNat
      addrOk ea 16 16 ∧ s.xlate ea .sync = .ok key ∧ s.takes (shM w .none false 1 24 .none .sSrc .sSrc .none) a b c t ∧ b.toNat < 2 ^ 32 ∧
      s.poisonedAt key 16 = false) ∧
    (∀ p ∈ [(8, 0, true), (7, 2, true), (7, 0, false), (7 + 2 ^ 31, 0, false)], let s := synced p.1 p.2.1
      let w := wm 700 697 698 0 false 0 0
      (∃ (t : State) (a b c : Word) (key : Nat), let ea := (a + w.disp.signExtend 64).toNat
        s.takes (shM w .none false 3 24 .sDst .sSrc .sSrc .none) a b c t ∧ addrOk ea 16 16 ∧ s.xlate ea .watch = .ok key ∧ s.poisonedAt key 16 = false ∧ s.gate [key] [] = .go) ∧
      s.core.ops = [] ∧ s.core.sa.swwait = some w ∧ (let past := (s.natAt 0x10000 16 / 2 ^ 64 % 2 ^ 32 + 2 ^ 32 - 7) % 2 ^ 32
        ((1 ≤ past ∧ past < 2 ^ 31) ∨ (s.natAt 0x10000 16).testBit 97 = true) ↔ p.2.2 = true)) := by
  refine ⟨⟨wf 3 3 1, bed .a, legal_of (by decide), by decide, by decide⟩, ⟨wf 0 3 1, legal_of (by decide), by decide⟩,
    ⟨wf 3 3 1, withOp (bed .a) ldOp, legal_of (by decide), by decide, by decide, by decide, ldOp, by decide, by decide⟩,
    ⟨{ wf 32 3 1 with scope := 1 }, withOp (bed .a) { astrOp with strm := .m }, legal_of (by decide), by decide, by decide, { astrOp with strm := .m }, by decide, by decide⟩,
    ⟨wm 0 697 698 699 false 0 0, synced 0 0, _, _, _, _, _, addr_of (by decide), got (by decide), takes_of (by decide), by decide, by decide, by decide⟩,
    ⟨wm 0 697 698 0 false 0 0, synced 0 0, _, _, _, _, _, addr_of (by decide), got (by decide), takes_of (by decide), by decide, by decide⟩, fun p h => ?_⟩
  simp only [List.mem_cons, List.not_mem_nil, or_false] at h
  rcases h with rfl | rfl | rfl | rfl
  all_goals exact ⟨⟨_, _, _, _, _, takes_of (by decide), addr_of (by decide), got (by decide), by decide, by decide⟩, by decide, by decide, by decide⟩
def pag0 : Pag := { base := 0x10002000, rstr := 128, n0 := 1, n1 := 1, n2 := 1, s0 := 0, s1 := 0, s2 := 0, pos := 0, cls := 0, tok := none, blocked := [] }
def genState (slots : List PSlot) : State := withPort .a { portOf 1 0 slots with gen := some pag0 }
/-- Its generator has `row` rows of the next tile and took the port at a cycle; the state at cycle 20. -/
def pagAt (row at_ : Nat) : Pag := { pag0 with row := row, start := some at_ }
def rowState (g : Pag) : State := later (withPort .a { portOf 1 0 [] with gen := some g })
theorem wit_PortsAndGenerators :
    (∃ (w : Wm) (s : State), s.legal (shPcfg w) ∧ (w.disp.toNat % 4, w.disp.toNat / 4 % 4) ∉ [(0, 0), (2, 1), (3, 2)] ∧
      (s.core.port (portIx w.d)).slots = [] ∧ (s.core.port (portIx w.d)).gen = none) ∧
    (∃ (w : Wm) (s : State), s.legal (shPcfg w) ∧ (w.disp.toNat % 4, w.disp.toNat / 4 % 4) ∉ [(0, 0), (2, 1), (3, 2)] ∧ (s.core.port (portIx w.d)).slots ≠ []) ∧
    (∃ (w : Wm) (s : State), s.legal (shPcfg w) ∧ (w.disp.toNat % 4, w.disp.toNat / 4 % 4) ∈ [(0, 0), (2, 1), (3, 2)]) ∧
    (∃ (w : Wm) (s t : State) (a b c : Word) (bs : List Byte), let p := s.core.port (portIx w.d)
      s.takes (shM w .opt true 1 24 .portAny .sSrc .none .none) a b c t ∧ s.descAt w a bs ∧ p.prod = 1 ∧ p.gen = none ∧ pagLimits bs ∧ s.batchRoom w) ∧
    (∀ s ∈ [withPort .a (portOf 2 0 []), genState []], ∃ t a b c key, let w := wm 640 697 0 0 false 0 0; let h := shM w .opt true 1 24 .portAny .sSrc .none .none
      s.static h = .ok () ∧ s.sources h = .ok ((a, b, c), t) ∧ addrOk (effAddr w a) 64 64 ∧ s.xlate (effAddr w a) .rd = .ok key ∧
      ((s.core.port 0).prod ≠ 1 ∨ (s.core.port 0).gen ≠ none)) ∧
    (∃ (w : Wm) (s : State), s.legal (shM0 w .none 1 0 .portAny .none .none .none)) ∧
    (∀ n ∈ [3, 4], ∃ (s : State) (g : Pag), s.core.running = true ∧ (s.core.port 0).gen = some g ∧ g.start = none ∧ (s.core.port 0).slots.length = n ∧
      s.portOpen (.gen 0) 8) ∧
    (∃ (s : State) (g : Pag), s.core.running = true ∧ (s.core.port 0).gen = some g ∧ g.start = none ∧ (s.core.port 0).slots.length < 4 ∧ ¬ s.portOpen (.gen 0) 8) ∧
    (∀ p ∈ [(2, 20), (0, 0), (14, 0), (15, 0)], let s := rowState (pagAt p.1 p.2); let g := pagAt p.1 p.2; let x : State := { s with cur := .a }
      let va := (BitVec.ofInt 64 (g.addr g.pos + g.row * g.rstr)).toNat; let key := winKey (0x2000 + 128 * g.row)
      s.core.running = true ∧ (s.core.port 0).gen = some g ∧ g.start = some p.2 ∧ g.row < 16 ∧ (p.2 = 20 ↔ s.now < p.2 + g.row / 2) ∧
      va < 2 ^ 52 ∧ va + 128 ≤ winHi ∧ okB (x.xlate va .rd) = true ∧ val (x.xlate va .rd) = key ∧ s.poisonedAt key 128 = false ∧
      s.pathHeld s.ids g.cls key false = false ∧ s.gate [key] [] = .go) ∧
    (let g := { pagAt 0 0 with base := 0x20000000 }; let s := rowState g; (trapOf (({ s with cur := .a } : State).xlate 0x20000000 .rd)).isSome = true ∧
      (BitVec.ofInt 64 (g.addr g.pos + g.row * g.rstr)).toNat = 0x20000000 ∧ resHi ≤ 0x20000000) := by
  refine ⟨⟨wm 640 0 0 0 false 0 3, bed .a, legal_of (by decide), by decide, by decide, by decide⟩,
    ⟨wm 640 0 0 0 false 0 1, withPort .a (portOf 1 0 [emptyTile]), legal_of (by decide), by decide, by decide⟩,
    ⟨wm 640 0 0 0 false 0 11, bed .a, legal_of (by decide), by decide⟩,
    ⟨wm 640 697 0 0 false 0 0, withDesc pgoState pagRec, _, _, _, _, _, takes_of (by decide), desc_of (addr_of (by decide)) (by decide) rfl, by decide, by decide,
      by unfold pagLimits; decide, room_of (by decide)⟩, fun s h => ?_,
    ⟨wm 640 0 0 0 false 0 0, genState [emptyTile], legal_of (by decide)⟩,
    fun n h => ⟨genState (List.replicate n emptyTile), pag0, rfl, rfl, rfl, ?_, portOpen_of (s := genState _) (by rfl)⟩,
    ⟨(genState []).updC fun c => { c with portBusy := 8 }, pag0, by decide, by decide, rfl, by decide, fun h => absurd h.1 (by decide)⟩, by decide +kernel,
    by decide +kernel, by decide, by decide⟩
  · simp only [List.mem_cons, List.not_mem_nil, or_false] at h
    rcases h with rfl | rfl <;> exact ⟨_, _, _, _, _, got (by decide), got (by decide), addr_of (by decide), got (by decide), by decide⟩
  · exact List.length_replicate

def fetching (src : Option Nat) : State := (bed .a).updC fun c => { c with
  fetches := [{ id := 3, todo := [{ ix := 0, dst := 0x10004000, src := src }], cls := 0, tok := some tok0, blocked := [] }] }
theorem wit_Windows :
    (∃ (w : Wm) (s t : State) (a b c : Word) (bs : List Byte), s.takes (shM w .req true 0xFF 24 .none .sSrc .none .none) a b c t ∧
      s.descAt w a bs ∧ winLimits bs ∧ s.batchRoom w ∧ Sparse.get s.core.wins w.sz.toNat = none) ∧
    (∃ (w : Wm) (s t : State) (a b c : Word) (bs : List Byte), s.takes (shM w .req true 0xFF 24 .none .sSrc .none .none) a b c t ∧
      s.descAt w a bs ∧ winLimits bs ∧ s.batchRoom w ∧ Sparse.get s.core.wins w.sz.toNat ≠ none) ∧
    (∃ (w : Wm) (s : State) (win : Win), Sparse.get s.core.wins w.sz.toNat = some win ∧
      s.legal (shM w .req true 0xFF 7 .none .none .none .none) ∧ 0 < w.disp.toNat ∧ w.disp.toNat = 2 ^ win.lk ∧ s.core.ops = [] ∧ s.batchRoom w) ∧
    (∃ (w : Wm) (s : State), s.legal (shM0 w .none 0xFF 0 .none .none .none .none)) ∧
    (∀ src ∈ [none, some 0x10008000], let s := fetching src; s.core.running = true ∧ (∀ f ∈ s.core.fetches, (f.todo.map (·.ix)).Nodup) ∧
      flowsB s (scratchKey s.core.clusterIx 0x10004000) = true ∧
      ∀ va ∈ src, va < 2 ^ 52 ∧ va + 128 ≤ winHi ∧ okB (({ s with cur := .a } : State).xlate va .rd) = true ∧
        let key := val (({ s with cur := .a } : State).xlate va .rd)
        s.poisonedAt key 128 = false ∧ s.pathHeld 3 0 key false = false ∧ flowsB s key = true) ∧
    (trapOf (({ fetching (some 0x20000000) with cur := .a } : State).xlate 0x20000000 .rd)).isSome = true :=
  ⟨⟨wm 0 697 0 0 true 0 0, withDesc (withRec winRec) winRec, _, _, _, _, _, takes_of (by decide), desc_of (addr_of (by decide)) (by decide) rfl,
     by unfold winLimits; decide, room_of (by decide), by decide⟩,
   ⟨wm 0 697 0 0 true 0 0, withDesc withWin winRec, _, _, _, _, _, takes_of (by decide), desc_of (addr_of (by decide)) (by decide) rfl,
     by unfold winLimits; decide, room_of (by decide), by decide⟩,
   ⟨wm 0 0 0 0 true 0 2, withWin, win0, by decide, legal_of (by decide), by decide, by decide, by decide, room_of (by decide)⟩,
   ⟨wm 0 0 0 0 false 7 0, withWin, legal_of (by decide)⟩, by decide, by decide +kernel⟩

def busyTok : Token := { openB := none, closed := [{ id := 1, left := 1, err := none }], errs := [] }
def openTok : Token := { openB := some { id := 1, left := 1, err := none }, closed := [], errs := [] }
/-- The bed with a descriptor read for an ENQ to mailbox `q`, `n` commands in mailbox 3. -/
def enqBed (q : Word) (n : Nat) : State :=
  (withDesc ((bed .a).upd fun x => { x with sregs := [(1, 0x10001000), (2, q)] }) []).updDie 0 fun d => { d with mbox := [(3, List.replicate n default)] }
theorem wit_BatchesHintsMailboxes :
    (∃ (w : Wm) (s : State) (b : Batch), s.legal { shM0 w .req 1 0 .none .none .none .none with streams := [.a, .m] } ∧
      (s.strm.token w.tk.toNat).openB = some b ∧ (s.strm.token w.tk.toNat).closed = []) ∧
    (∃ (w : Wm) (s : State) (b : Batch), s.legal { shM0 w .req 1 0 .none .none .none .none with streams := [.a, .m] } ∧
      (s.strm.token w.tk.toNat).openB = some b ∧ (s.strm.token w.tk.toNat).closed.length = 255) ∧
    (∀ p ∈ [((1 : BitVec 24), true), (0, false)], ∃ (s : State), let w := wm 0 0 0 0 true 0 p.1
      s.legal { shM0 w .req 1 8 .none .none .none .none with streams := [.a, .m] } ∧ (decide ((s.strm.token 0).count ≤ w.disp.toNat) = p.2) ∧
      (s.strm.token 0).raised w.disp.toNat = none) ∧
    (∃ (w : Wm) (s : State) (f : FaultInfo), s.legal { shM0 w .req 1 8 .none .none .none .none with streams := [.a, .m] } ∧
      (s.strm.token w.tk.toNat).count ≤ w.disp.toNat ∧ (s.strm.token w.tk.toNat).raised w.disp.toNat = some f ∧ f.code ≠ .noBacking) ∧
    (∃ (w : Wm) (s t : State) (a b c : Word), s.takes (shM0 w .none 1 24 .none .sSrc .sSrc .none) a b c t) ∧
    (∃ (w : Wm) (s t : State) (a b c : Word) (bs : List Byte), s.takes (shM w .opt true 3 24 .sDst .sSrc .sSrc .none) a b c t ∧ s.descAt w a bs ∧
      b.toNat = 3 ∧ s.core.did < s.dies.length ∧ (Sparse.get (s.die s.core.did).mbox b.toNat).length = 15 ∧ s.batchRoom w ∧ t.open_ w.d) ∧
    (∀ sz ∈ [(0 : BitVec 3), 1], ∃ (s t y : State) (a b c : Word) (bs : List Byte), let w := wm 700 697 698 0 false sz 0
      s.takes (shM w .opt true 3 24 .sDst .sSrc .sSrc .none) a b c t ∧ s.descAt w a bs ∧
      b.toNat = 3 ∧ 16 ≤ (Sparse.get (s.die s.core.did).mbox b.toNat).length ∧ t.gives w.d 1 1 y) ∧
    (∃ (w : Wm) (s t : State) (a b c : Word), s.static (shM w .opt true 3 24 .sDst .sSrc .sSrc .none) = .ok () ∧
      s.sources (shM w .opt true 3 24 .sDst .sSrc .sSrc .none) = .ok ((a, b, c), t) ∧ addrOk (effAddr w a) 64 64 ∧ okB (s.xlate (effAddr w a) .rd) = true ∧ b.toNat = 4) ∧
    (∃ (w : Wm) (s y : State) (e : Word) (r : List Word), s.legal (shM0 w .none 3 0 .sDst .none .none .none) ∧ s.core.cq = e :: r ∧ s.gives w.d e 1 y) ∧
    (∀ sz ∈ [(0 : BitVec 3), 1], ∃ (s y : State), s.legal (shM0 (wm 700 0 0 0 false sz 0) .none 3 0 .sDst .none .none .none) ∧ s.core.cq = [] ∧
      s.gives 700 (BitVec.allOnes 64) 1 y) := by
  refine ⟨⟨wm 0 0 0 0 true 0 0, withTok openTok, _, legal_of (by decide), rfl, rfl⟩,
    ⟨wm 0 0 0 0 true 0 0, withTok { openTok with closed := List.replicate 255 { id := 1, left := 1, err := none } }, { id := 1, left := 1, err := none },
      legal_of (by decide +kernel), by decide +kernel, by decide +kernel⟩, fun p h => ?_,
    ⟨wm 0 0 0 0 true 0 0, withTok { openB := none, closed := [], errs := [(flt .poison, 0)] }, flt .poison, legal_of (by decide), by decide, by decide, by decide⟩,
    ⟨wm 0 697 698 0 false 0 0, bed .a, _, _, _, _, takes_of (by decide)⟩,
    ⟨wm 700 697 698 0 false 0 0, enqBed 3 15, _, _, _, _, _, takes_of (by decide), desc_of (addr_of (by decide)) (by decide) rfl, by decide, by decide, by decide,
      room_of (by decide), _, got (by decide)⟩, fun sz h => ?_,
    ⟨wm 700 697 698 0 false 0 0, enqBed 4 0, _, _, _, _, got (by decide), got (by decide), addr_of (by decide), by decide, by decide⟩,
    ⟨wm 700 0 0 0 false 0 0, (bed .a).updC fun c => { c with cq := [8, 9] }, _, _, _, legal_of (by decide), rfl, got (by decide)⟩, fun sz h => ?_⟩
  · simp only [List.mem_cons, List.not_mem_nil, or_false] at h
    rcases h with rfl | rfl <;> exact ⟨withTok busyTok, legal_of (by decide), by decide, by decide⟩
  · simp only [List.mem_cons, List.not_mem_nil, or_false] at h
    rcases h with rfl | rfl <;> exact ⟨enqBed 3 16, _, _, _, _, _, _, takes_of (by decide), desc_of (addr_of (by decide)) (by decide) rfl, by decide, by decide, got (by decide)⟩
  · simp only [List.mem_cons, List.not_mem_nil, or_false] at h
    rcases h with rfl | rfl <;> exact ⟨bed .a, _, legal_of (by decide), by decide, got (by decide)⟩

/-- Batches: the last operation of the open batch, of the first and of a later closed one; a job whose token waits for one operation. -/
theorem wit_Batches_perform :
    (let t : Token := { openTok with closed := [{ id := 2, left := 1, err := none }] };
      (∀ b ∈ t.closed, b.left ≠ 0) ∧ t.openB = some { id := 1, left := 0 + 1, err := none } ∧ ∀ b ∈ t.closed, b.id ≠ 1) ∧
    (∀ l ∈ [([] : List Batch), [{ id := 2, left := 3, err := none }]], let t : Token := { busyTok with closed := l ++ busyTok.closed };
      (∀ b ∈ t.closed, b.left ≠ 0) ∧ t.closed = l ++ { id := 1, left := 0 + 1, err := none } :: [] ∧ (∀ b ∈ l ++ [], b.id ≠ 1) ∧ ∀ b, t.openB = some b → b.id ≠ 1) ∧
    (let s := withTok busyTok; let w := wm 0 0 0 0 true 0 0; let sh := { shM0 w .req 1 8 .none .none .none .none with streams := [.a, .m] }
      s.core.holds tok0.lrec tok0.job = true ∧ w.tk.toNat = tok0.tok ∧ tok0.strm = s.cur ∧ s.strm.token 0 = { openB := none, closed := [{ id := 1, left := 1, err := none }], errs := [] } ∧
      s.legal sh ∧ ∀ err : Option FaultInfo, (s.endOp (some tok0) err).legal sh) := by
  refine ⟨by decide, by simp [busyTok], by decide, by decide, by decide, rfl, legal_of (by decide), fun err => ⟨by rfl, by rfl⟩⟩

theorem wit_TileWordsAndModes :
    (∃ x u, mbed.mready (shAcc (wt 650 0 0 0 0 0) true 0 .tile .none) (.acc 1) x u) ∧
    (∀ p ∈ [(0x7FF, 2047), (0x800, -2048)], let w := wt 650 0 0 0 0 (p.1 : BitVec 28)
      (∃ x u, mbed.mready (shAcc w false 12 .tile .none) (.acc 1) x u) ∧ mbed.tileBusy 2 = false ∧ (mbed.core.tile 2).anchor + sextNat 12 (xb w 11 0) = p.2) ∧
    (let w := wt 651 0 0 0 0 0x7FF; (∃ x u, tiles2.mready (shAcc w false 12 .tile .none) (.acc 1) x u) ∧ tiles2.tileBusy 3 = false ∧
      2047 < (tiles2.core.tile 3).anchor + sextNat 12 (xb w 11 0)) ∧
    ((∃ x u, landing2.mready (shAcc (wt 650 0 0 0 0 0) false 12 .tile .none) (.acc 1) x u) ∧ landing2.tileBusy 2 = true) ∧
    (∀ w ∈ [wt 650 0 0 0 9 0, wt 650 2 0 0 11 0], ∃ x u, mbed.mready (shAaddv w) (.acc (etOf w).regs) x u) ∧
    (∀ a ∈ [652, 651], ∃ x u, tiles2.mready (shAcc (wt 650 a 0 0 0 0) true 0 .tile .tile) (.acc 1) x u ∧ tiles2.tileBusy 2 = false ∧
      decide ((tiles2.core.tile (tileIx a)).anchor = tiles2.landingAnchor 2 4) = decide (a = 652)) ∧
    ((∃ x u, tiles2.mready (shAcc { wt 650 651 0 0 0 0 with pm := 1 } true 0 .tile .tile) (.acc 1) x u) ∧ (tiles2.core.tile 3).anchor ≠ tiles2.landingAnchor 2 4) ∧
    (let s := tiles2.pend 8 (.anchor 2 3) []; (∃ x u, s.mready (shAcc (wt 650 651 0 0 0 0) true 0 .tile .tile) (.acc 1) x u) ∧ (s.core.tile 3).anchor ≠ s.landingAnchor 2 4 ∧
      s.tileBusy 2 = true) ∧
    (∃ x u, mbed.mready (shAcc (wt 650 0 0 0 0 0) false 0 .tile .none) (.acc 1) x u) ∧
    (∀ r ∈ [(2 : BitVec 3), 5], ∃ x u, mbed.mready (shSetrm { wt 0 0 0 0 0 0 with rm := r }) .none x u) ∧
    (∃ pages, let s := mbed.upd fun x => { x with view := { x.view with fmtb := 0x10002000 } }
      s.legal (shAcc (wt 0 0 0 0 0 0) false 0 .none .none) ∧ s.xlateRange .rd 0x10002000 128 = .ok pages ∧ s.poisonIn pages 0x10002000 128 = false ∧ s.core.ops = [] ∧
        s.gate [keyIn pages 0x10002000] [] = .go) := by
  refine ⟨⟨_, _, mready_of (by decide +kernel)⟩, fun p h => ?_, ⟨⟨_, _, mready_of (by decide +kernel)⟩, by decide +kernel, by decide +kernel⟩,
    ⟨⟨_, _, mready_of (by decide +kernel)⟩, by decide +kernel⟩, fun w h => ?_, fun a h => ?_, ⟨⟨_, _, mready_of (by decide +kernel)⟩, by decide +kernel⟩,
    ⟨⟨_, _, mready_of (by decide +kernel)⟩, by decide +kernel, by decide +kernel⟩, ⟨_, _, mready_of (by decide +kernel)⟩, fun r h => ?_,
    _, legal_of (by decide +kernel), got (by decide +kernel), by decide +kernel, rfl, by decide +kernel⟩ <;> simp only [List.mem_cons, List.not_mem_nil, or_false] at h
  · rcases h with rfl | rfl <;> exact ⟨⟨_, _, mready_of (by decide +kernel)⟩, by decide +kernel, by decide +kernel⟩
  · rcases h with rfl | rfl <;> exact ⟨_, _, mready_of (by decide +kernel)⟩
  · rcases h with rfl | rfl <;> exact ⟨_, _, mready_of (by decide +kernel), by decide +kernel, by decide +kernel⟩
  · rcases h with rfl | rfl <;> exact ⟨_, _, mready_of (by decide +kernel)⟩
/-- An image at 0x10002000, raw and canonical, stored and loaded; a load about to perform; a tile of one normal lane. -/
def loadT (canon : Bool) (pages : List (Nat × Nat)) (va : Nat) (left : List Nat) : MOp :=
  { id := 3, strm := .m, cls := 0, kinds := 16, va := va, vas := [], body := .aldr pages va 2 canon left [], tok := some { tok0 with strm := .m }, notBefore := 0,
    blocked := [], shd := false, pc := 0 }
def loads (o : MOp) (bad : List Nat) : State := { later (mbed.updC fun c => { c with ops := [o] }) with poison := bad }
def loadW (canon : Bool) (left : List Nat) : MOp := loadT canon [(0x10000000, winKey 0)] 0x10002000 left
def loadH (canon : Bool) : MOp := loadT canon [(0x40000000, 0x10000)] 0x40000000 [0x800000]
theorem find_mapped {f : Nat → List Byte} {r : Nat} : ∀ {l : List Nat}, r ∈ l → ((l.map fun n => (n, f n)).find? fun x => x.1 == r) = some (r, f r)
  | a :: l, h => by
    by_cases e : a = r
    · simp [e]
    · rw [List.map_cons, List.find?_cons_of_neg (by simpa using e)]
      exact find_mapped ((List.mem_cons.1 h).resolve_left (Ne.symm e))
theorem wit_TileImages :
    (∀ canon : Bool, ∃ t a b c pages, let w := wm 0 697 0 650 true 0 0
      let h := { shM w .req true 1 24 .none .sSrc .none .tile with streams := [.m] }
      imgBed.takesOf h { h with c := .none } a b c t ∧ imgBed.shadow h = .ok () ∧ imgBed.tileLoading 2 = false ∧ addrOk 0x10002000 (imageBytes canon) 64 ∧
      imgBed.xlateRange .wr 0x10002000 (imageBytes canon) = .ok pages ∧ imgBed.portOpen (.strm .m) 136 ∧ imgBed.batchRoom w) ∧
    (∀ canon : Bool, ∃ t a b c pages, let w := wm 650 697 0 0 true 0 0
      imgBed.takes { shM w .req true 1 24 .tile .sSrc .none .none with streams := [.m] } a b c t ∧ imgBed.tileBusy 2 = false ∧ addrOk 0x10002000 (imageBytes canon) 64 ∧
      imgBed.xlateRange .rd 0x10002000 (imageBytes canon) = .ok pages ∧ imgBed.portOpen (.strm .m) 128 ∧ imgBed.batchRoom w) ∧
    (¬ (portTaken imgBed).portOpen (.strm .m) 64) ∧
    (∀ canon : Bool, ∀ left ∈ [[0x200040], [0x200040, 0x200041]], let o := loadW canon left; let s := loads o []
      (∃ part, s.performs o (fun _ => true) part ∧ part.ix = 0x200040) ∧ s.poisonIn [(0x10000000, winKey 0)] 0x10002000 128 = false) ∧
    (∀ canon : Bool, let o := loadH canon; let s := loads o [1024]
      (∃ part, s.performs o (fun _ => true) part ∧ part.ix = 0x800000) ∧ s.firstPoison [(0x40000000, 0x10000)] 0x40000000 128 = some 0x40000000) ∧
    (∀ (canon : Bool) (va : Nat), let bs := List.replicate (imageBytes canon) (0 : Byte)
      let f := fun (r : Nat) => (bs.drop (max va (128 * r) - va)).take (min (va + bs.length) (128 * r + 128) - max va (128 * r))
      let rows := (imageRows va bs.length).map fun r => (r, f r)
      bs.length = imageBytes canon ∧ ∀ r ∈ imageRows va bs.length, (rows.find? fun x => x.1 == r) = some (r, f r)) ∧
    (∃ t : Tile, t.anchor = 2047 ∧ ∀ n < 1024, (t.lane n).c.getLsbD 0 = false ∧ (t.lane n).norm = t.lane n) := by
  refine ⟨fun canon => ?_, fun canon => ?_, fun h => absurd h.1 (by decide), fun canon left h => ?_, fun canon => ?_, fun canon va => ⟨List.length_replicate, fun r h => find_mapped h⟩,
    ⟨{ (default : Tile) with anchor := 2047 }, rfl, by decide +kernel⟩⟩
  · cases canon <;> exact ⟨_, _, _, _, _, takesOf_of (by decide) (by decide), got (by decide), by decide, addr_of (by decide), got (by decide +kernel), portOpen_of (by decide),
      room_of (by decide)⟩
  · cases canon <;> exact ⟨_, _, _, _, _, takes_of (by decide), by decide, addr_of (by decide), got (by decide +kernel), portOpen_of (by decide), room_of (by decide)⟩
  · simp only [List.mem_cons, List.not_mem_nil, or_false] at h
    rcases h with rfl | rfl <;> cases canon <;> exact ⟨⟨_, performs_of (by decide +kernel), by decide +kernel⟩, by decide +kernel⟩
  · cases canon <;> exact ⟨⟨_, performs_of (by decide +kernel), by decide +kernel⟩, by decide +kernel⟩

/-- A word that its engine accepts now: sent at cycle 0, the engine free. -/
def sentBy (s : State) : State := s.upd fun x => { x with sent := some 0 }
def byT (s : State) (e : Engine) (h : Shape) : State := (srcs s h).2.updDie s.core.did fun d => d.accepts e (s.now + 1)
def takesByB (s : State) (e : Engine) (h : Shape) : Bool := takesB s h && decide (s.strm.sent = some 0) && s.mayAccept e 0
theorem takesBy_of {s : State} {e : Engine} {h : Shape} (q : takesByB s e h = true) :
    s.takesBy e h (srcs s h).1.1 (srcs s h).1.2.1 (srcs s h).1.2.2 (byT s e h) := by
  simp only [takesByB, Bool.and_eq_true, decide_eq_true_eq] at q
  exact ⟨_, 0, takes_of q.1.1, q.1.2, q.2, rfl⟩

def knewS : State := sentBy (withDesc knew knewBs)
theorem gotU {r : Res Unit} (h : okB r = true) : r = .ok () := by cases r <;> trivial
theorem wit_kvnew : ∃ (a b x : Word) (t : State), knewS.takesBy .orrery (shK wNew .req 24 .sDst .sSrc .none .none) a b x t ∧
      knewS.descAt wNew a knewBs ∧ fieldNat knewBs 21 43 = 0 ∧ t.ctxLimits (fieldNat knewBs 16 1) (fieldNat knewBs 17 1) (fieldNat knewBs 18 1) (fieldNat knewBs 19 1)
        (fieldNat knewBs 20 1) (fieldNat knewBs 0 8) (fieldNat knewBs 8 8) = .ok () ∧
      knewS.batchRoom wNew ∧ t.open_ wNew.d ∧ (knewS.die 0).freeNum = some 0 ∧ (knewS.die 0).mapUse + 4 ≤ mapCapacity :=
  ⟨_, _, _, _, takesBy_of (by decide +kernel), desc_of (addr_of (by decide +kernel)) (by decide +kernel) (by decide +kernel), by decide +kernel, gotU (by decide +kernel), room_of (by decide +kernel),
    ⟨_, got (by decide +kernel)⟩, by decide +kernel, by decide +kernel⟩
theorem wit_kvfork : ∃ t a b x c, let s := sentBy (withDesc (kops 0x10001000 0 63) forkBs); s.takesBy .orrery (shK wFork .req 24 .sDst .sSrc .sSrc .sSrc) a b x t ∧ s.descAt wFork a forkBs ∧
    t.acceptCtx b.toNat = .ok c ∧ fieldNat forkBs 16 3 = 0 ∧ fieldNat forkBs 21 43 = 0 ∧
    t.ctxLimits c.lw c.g c.lc (fieldNat forkBs 19 1) (fieldNat forkBs 20 1) (fieldNat forkBs 0 8) (fieldNat forkBs 8 8) = .ok () ∧ x.toNat = 63 ∧ (63 : Int) ≤ (s.die 0).accepted c ∧
    63 + 1 < 64 * 2 ^ fieldNat forkBs 19 1 ∧ (∀ i ∈ c.headGrs ++ c.nodeGrs 0 ((63 + 1) * c.gp), (Sparse.get c.amap i).v = true) ∧
    t.forkGap c { c with k := fieldNat forkBs 19 1, slab := fieldNat forkBs 0 8 } 63 = none :=
  ⟨_, _, _, _, _, takesBy_of (by decide +kernel), desc_of (addr_of (by decide +kernel)) (by decide +kernel) (by decide +kernel), got (by decide +kernel), by decide +kernel, by decide +kernel,
    gotU (by decide +kernel), by decide +kernel, by decide +kernel, by decide +kernel, by decide +kernel, by decide +kernel⟩

/-- A context of every number; KVNEW with those, and with the whole map memory in use by two contexts of a million granules. -/
def everyCtx : List Ctx := (List.range 16384).map fun n => kctx n none
def bigCtxs : List Ctx := [{ kctx 0 none with k := 20 }, { kctx 1 none with k := 20 }]
def newWith (cs : List Ctx) : State := knewS.updDie 0 fun d => { d with ctxs := cs }
def newTaken (s : State) : Prop := ∃ t a b x, s.takesBy .orrery (shK wNew .req 24 .sDst .sSrc .none .none) a b x t ∧ s.descAt wNew a knewBs ∧
  t.ctxLimits (fieldNat knewBs 16 1) (fieldNat knewBs 17 1) (fieldNat knewBs 18 1) (fieldNat knewBs 19 1) (fieldNat knewBs 20 1) (fieldNat knewBs 0 8)
    (fieldNat knewBs 8 8) = .ok () ∧ s.batchRoom wNew ∧ t.open_ wNew.d
theorem freeNum_full {d : Die} {f : Nat → Ctx} (h : d.ctxs = (List.range 16384).map f) (hf : ∀ n, (f n).num = n) : d.freeNum = none := by
  refine List.find?_eq_none.2 fun n hn => ?_
  simp only [Die.ctx, h, Option.isNone_iff_eq_none, List.find?_eq_none, List.mem_map]
  exact fun q => absurd (q _ ⟨n, hn, rfl⟩) (by simp [hf])
theorem newWith_ctxs (cs : List Ctx) : ((newWith cs).die 0).ctxs = cs := rfl
theorem wit_kvnew_full : (newTaken (newWith bigCtxs) ∧ ((newWith bigCtxs).die 0).freeNum = some 2 ∧ mapCapacity < ((newWith bigCtxs).die 0).mapUse + 4) ∧
    newTaken (newWith everyCtx) ∧ ((newWith everyCtx).die 0).freeNum = none := by
  refine ⟨⟨⟨_, _, _, _, takesBy_of ?_, desc_of (addr_of ?_) ?_ ?_, gotU ?_, room_of ?_, ⟨_, got ?_⟩⟩, ?_⟩,
    ⟨_, _, _, _, takesBy_of ?_, desc_of (addr_of ?_) ?_ ?_, gotU ?_, room_of ?_, ⟨_, got ?_⟩⟩, freeNum_full (f := fun n => kctx n none) ((newWith_ctxs everyCtx).trans everyCtx.eq_1) fun _ => rfl⟩
  all_goals decide +kernel

/-- What `Accepts` asks for: the maps fit, the contexts come in, the word joins a batch and reserves its result. -/
def landsB (t : State) (w : Wm) (cs : List Ctx) (counted result : Bool) : Bool :=
  !t.mapFull cs && okB (t.swapIn cs counted) && okB ((val (t.swapIn cs counted)).joinW w) && (!result || okB ((val ((val (t.swapIn cs counted)).joinW w)).2.reserveS w.d))
/-- Position 64, the next to write, and 65; the last position, 127, and 128; a share of a whole unit. -/
theorem wit_OrreryWords :
    (∃ t a b x c, let s := sentBy (kops 0 0 0); let w := wm 700 0 698 0 true 0 0
      s.core.ops = [] ∧ s.takesBy .orrery (shK w .req 0 .sDst .none .sSrc .none) a b x t ∧ b.toNat < 2 ^ 32 ∧ t.acceptCtx b.toNat = .ok c ∧
      (∀ i ∈ c.headGrs, (Sparse.get c.amap i).v = true) ∧ landsB t w [c] true true = true) ∧
    (∃ t a b x c k, let s := sentBy (kops 0 1 (64 * 2 ^ 32)); let d := s.die 0; let w := wm 700 697 698 699 true 0 0
      s.takesBy .orrery (shK w .req 0 .sDst .sSrc .sSrc .sSrc) a b x t ∧ t.acceptCtx a.toNat = .ok k ∧ t.acceptCtx b.toNat = .ok c ∧
      k.lc = c.lc ∧ k.gp = c.gp ∧ x.toNat % 2 ^ 32 = 0 ∧ x.toNat / 2 ^ 32 = c.unit ∧ (0 : Int) ≤ d.accepted c + 1 ∧ (c.unit : Int) - 1 ≤ d.accepted k ∧ c.unit ≤ c.limit ∧
      (∀ i ∈ k.headGrs ++ k.nodeGrs 0 (c.unit * k.gp), (Sparse.get k.amap i).v = true) ∧ (∀ i ∈ c.headGrs ++ c.nodeGrs 0 (c.unit * c.gp), (Sparse.get c.amap i).v = true) ∧
      landsB t w [k, c] true true = true) ∧
    (∃ t a b x c key, let s := sentBy (kops 0x10002000 0 (2 ^ 20 - 1)); s.takesBy .orrery (shK (wm 700 697 698 699 true 0 0) .req 24 .sDst .sSrc .sSrc .sSrc) a b x t ∧
      addrOk 0x10002000 64 64 ∧ t.xlate 0x10002000 .wr = .ok key ∧ t.acceptCtx b.toNat = .ok c ∧ x.toNat < 2 ^ 20) ∧
    (∃ t a b x c, let s := sentBy (kops 0x10002000 0 (64 + 7 * 2 ^ 32)); let w := wm 0 697 698 699 false 0 0
      s.takesBy .orrery (shK w .opt 24 .none .sSrc .sSrc .sSrc) a b x t ∧
      t.acceptCtx (b.toNat % 2 ^ 32) = .ok c ∧ entOk (c.slabEnt 65536) (c.slab + 65536) true = .ok () ∧ (64 : Int) = (s.die 0).accepted c + 1 ∧ x.toNat < 2 ^ 56 ∧ x.toNat % 2 ^ 32 = 64 ∧ 64 < c.limit ∧ b.toNat / 2 ^ 32 < c.g ∧ (∀ o ∈ (s.die 0).kops, o.mayLend c 1 = false) ∧
      (∀ i ∈ c.unitGranules (64 / c.unit), (Sparse.get c.map i).lend = 0 ∧ (Sparse.get c.map i).brw = false) ∧ c.cellOff 64 0 = 65536 ∧
      (∀ i ∈ c.headGrs ++ c.nodeGrs (c.nodeIx 64 0) 1, (Sparse.get c.amap i).v = true) ∧ okB (t.xlateRange .rd 0x10002000 c.cellBytes) = true ∧
      (let pages := val (t.xlateRange .rd 0x10002000 c.cellBytes); t.firstPoison pages 0x10002000 c.cellBytes = none ∧
        (∀ k ∈ kibKeys pages 0x10002000 c.cellBytes, flowsB t k = true) ∧ landsB t w [c] true false = true)) ∧
    (∃ t a b x c, let s := sentBy (kops 0x10002000 0 65); s.takesBy .orrery (shK (wm 0 697 698 699 false 0 0) .opt 24 .none .sSrc .sSrc .sSrc) a b x t ∧
      t.acceptCtx (b.toNat % 2 ^ 32) = .ok c ∧ (s.die 0).accepted c + 1 < 65) ∧
    (∃ t a b x c, let s := sentBy (kops 0 0 127); s.takesBy .orrery (shK (wm 700 0 698 699 false 0 0) .none 0 .sDst .none .sSrc .sSrc) a b x t ∧ t.acceptCtx (b.toNat % 2 ^ 32) = .ok c ∧
      b.toNat / 2 ^ 32 < c.g ∧ x.toNat < 2 ^ 32 ∧ (∀ i ∈ c.entryGrs 127 0, (Sparse.get c.amap i).v = true)) ∧
    (∀ p ∈ [((127 : Word), true), (128, false)], ∃ t a b x c, let s := sentBy (kops 0 0 p.1); s.takesBy .orrery (shK (wm 0 0 698 699 false 0 0) .opt 0 .none .none .sSrc .sSrc) a b x t ∧
      t.acceptCtx b.toNat = .ok c ∧ decide (x.toNat < c.limit) = p.2 ∧ ∀ i ∈ c.headGrs, (Sparse.get c.amap i).v = true) ∧
    (∃ t a b x c pages, let s := sentBy (kops 0x40080000 0 0); s.takesBy .orrery (shK (wm 700 697 698 0 true 0 0) .req 24 .sDst .sSrc .sSrc .none) a b x t ∧ t.acceptCtx b.toNat = .ok c ∧
      addrOk 0x40080000 c.imageLen 4096 ∧ inWindow 0x40080000 = false ∧ t.xlateRange .sync 0x40080000 c.imageLen = .ok pages ∧ ∀ i ∈ c.headGrs, (Sparse.get c.amap i).v = true) ∧
    (∃ t a b x c, let s := sentBy (kops 0x40040000 0 0); s.takesBy .orrery (shK (wm 700 697 698 0 true 0 0) .req 24 .sDst .sSrc .sSrc .none) a b x t ∧ t.acceptCtx b.toNat = .ok c ∧
      addrOk 0x40040000 1 65536 ∧ c.k + 1 ≤ c.kmax ∧ (s.die 0).growing c.num = false ∧ t.growGap c 0x40040000 = none ∧ ∀ i ∈ c.headGrs, (Sparse.get c.amap i).v = true) := by
  have d {p : Prop} [Decidable p] (h : decide p = true) : p := of_decide_eq_true h
  refine ⟨⟨_, _, _, _, _, d ?_, takesBy_of ?_, d ?_, got ?_, d ?_⟩, ⟨_, _, _, _, _, _, takesBy_of ?_, got ?_, got ?_, d ?_⟩,
    ⟨_, _, _, _, _, _, takesBy_of ?_, addr_of ?_, got ?_, got ?_, d ?_⟩, ⟨_, _, _, _, _, takesBy_of ?_, got ?_, gotU ?_, d ?_⟩,
    ⟨_, _, _, _, _, takesBy_of ?_, got ?_, d ?_⟩, ⟨_, _, _, _, _, takesBy_of ?_, got ?_, d ?_⟩, fun p h => ?q,
    ⟨_, _, _, _, _, _, takesBy_of ?_, got ?_, addr_of ?_, d ?_, got ?_, d ?_⟩, ⟨_, _, _, _, _, takesBy_of ?_, got ?_, addr_of ?_, d ?_⟩⟩
  case q =>
    simp only [List.mem_cons, List.not_mem_nil, or_false] at h
    rcases h with rfl | rfl <;> exact ⟨_, _, _, _, _, takesBy_of (by decide +kernel), got (by decide +kernel), by decide +kernel, by decide +kernel⟩
  all_goals decide +kernel

/-- A context being cleared holds a command back; else it is applied; reclaim at its limit and before; the last page to move and one before. -/
theorem wit_OrrerySteps :
    (let s := kopBed (kop (.adv 5) false) fun c => { c with clearing := true }
     stands s (kop (.adv 5) false) { kctx 0 (some 63) with clearing := true } = true ∧ (s.die 0).canApply (kop (.adv 5) false) = false) ∧
    (∀ cmd ∈ [KCmd.adv 5, .commit 6, .rewind 7, .renew 1 0 0 default, .expire 1 0 default, .kvw 64 0 0 [1, 2]], let s := kopBed (kop cmd false) id
      stands s (kop cmd false) (kctx 0 (some 63)) = true ∧ (s.die 0).canApply (kop cmd false) = true) ∧
    (let s := kopBed (kop (.kvw 64 0 0 [1, 2]) false) id; let ent := (kctx 0 (some 63)).slabEnt 65536; let keys := ent.keys 65536 (kctx 0 (some 63)).cellBytes
     (∀ i ∈ (kctx 0 (some 63)).unitGranules 1, (Sparse.get (kctx 0 (some 63)).map i).brw = false) ∧ s.entError ent (0x40000000 + 65536) 65536 = none ∧
     (∀ k ∈ keys, flowsB s k = true ∧ isScratchKey k = false) ∧ ∀ i < 2, s.hbmDead (ent.key 65536 + i) = false) ∧
    (∀ h ∈ [1, 5], let s := kopBed (kop (.adv 5) false) fun c => { c with h := h, rp := 0 }; (s.die 0).nextWork = some 0 ∧ (s.die 0).orrStep ≤ (s.die 0).cyc) ∧
    ((kopBed (kop (.adv 5) false) id).die 0).nextWork ≠ some 0 ∧
    (∀ p ∈ [([EngStep.splice 1], [(1, [0])]), ([.move 9, .move 0], [(2, [0])])], let f := fun (c : Ctx) =>
        { c with steps := p.1, outer := p.2, nodes := [(0, { (default : Node) with flg := 2, e := 9 })] }
      ((kopBed (kop (.adv 5) false) f).die 0).nextWork = some 0 ∧ (f (kctx 0 (some 63))).due = p.1.reverse.take 1) ∧
    (let s := kopBed (kop (.adv 5) false) fun c => { c with release := [3, 4] }; (s.die 0).nextWork = some 0 ∧
      ({ kctx 0 (some 63) with release := [3, 4] } : Ctx).release.find? (fun j => !(s.die 0).inView { kctx 0 (some 63) with release := [3, 4] } j) = some 3) ∧
    (let c := { kctx 0 (some 63) with clearing := true }; let s := kopBed (kop .new true) fun _ => c; stands s (kop .new true) c = true ∧
      ((s.die 0).kops.find? fun x => x.ctx == 0 && x.cmd == .new) = some (kop .new true) ∧ ∀ k ∈ c.amap.flatMap fun e => e.2.keys 0 65536, flowsB s k = true ∧ isScratchKey k = false) ∧
    (let s := kopBed (kop (.forked 1) true) id; stands s (kop (.forked 1) true) (kctx 0 (some 63)) = true ∧
      ((s.die 0).kops.find? fun x => x.cmd == .forked 1) = some (kop (.forked 1) true) ∧ (s.die 0).ctx 1 = some (kctx 1 none)) ∧
    (∀ wm ∈ [0, 1], let f : Fwd := { base := 0x40040000, map := [(0, kEnt 5), (1, kEnt 6)], wm := wm, err := none }; let c := { kctx 0 (some 63) with fwd := some f }
      let s := kopBed (kop (.grow 0x40040000 default) true) fun _ => c; stands s (kop (.grow 0x40040000 default) true) c = true ∧
      (c.pageMoves f).findSome? s.moveError = none ∧ (∀ k ∈ moveReads (c.pageMoves f) ++ moveWrites (c.pageMoves f), flowsB s k = true ∧ isScratchKey k = false) ∧
      decide (f.wm + 1 < 2 ^ c.k) = decide (wm = 0)) ∧
    (∀ cmd ∈ [KCmd.share 1 0 64 default, .free default], stands (kopBed (kop cmd true) id) (kop cmd true) (kctx 0 (some 63)) = true) ∧
    (let s := kopBed (kop (.put [(0x20000, 0x20000)] 0x20000 [1, 2]) true) id; stands s (kop (.put [(0x20000, 0x20000)] 0x20000 [1, 2]) true) (kctx 0 (some 63)) = true ∧
      s.linkFailed 0x20000 = false ∧ (∀ k ∈ kibKeys [(0x20000, 0x20000)] 0x20000 2, flowsB s k = true ∧ isScratchKey k = false) ∧ ∀ i < 2, s.hbmDead (0x20000 + i) = false) := by
  decide +kernel

theorem wit_Attention :
    (∀ multi : Bool, ∃ x u c, let w := wt 0 4 697 698 9 0x9800000; let s := sentBy (abed [] 0); let t := u.updDie 0 fun d => d.accepts .orrery (s.now + 1)
      s.legal (shAttn w multi) ∧ s.vread (shAttn w multi) = .ok (x, u) ∧ okB (s.shadow (shAttn w multi)) = true ∧ s.strm.sent = some 0 ∧ s.mayAccept .orrery 0 = true ∧
      t.acceptCtx (x.b.word.toNat % 2 ^ 32) = .ok c ∧ c.hot = true ∧ c.clearing = false ∧ c.copying = false ∧ x.c.word.toNat / 2 ^ 20 % 64 < c.g ∧
      x.c.word.toNat % 2 ^ 20 = 1 ∧ x.c.word.toNat / 2 ^ 26 % 64 = 0 ∧ c.k = 1 ∧
      c.cellBytes = 16 * (etOf w).width ∧ c.unmapped 1 1 0 = none ∧ c.unbacked 1 1 0 = false ∧
      (∀ n ∈ c.headGrs ++ c.nodeGrs (64 * c.gp) (64 * c.gp), (Sparse.get c.amap n).v = true) ∧ (s.strm.token (xb w 22 20)).room false = true) ∧
    (∀ multi : Bool, let s := abed [att multi 0] 0; ((s.die 0).attns.find? fun x => x.id == 5) = some (att multi 0) ∧ (s.die 0).ctx 0 = some actx ∧
      (∀ gr ∈ actx.pageGranules 0, (actx.pageEnt 0 gr).tier = 0) ∧ (∀ k ∈ s.allCores, k.mbusy ≤ (s.die 0).cyc) ∧ (∀ k ∈ actx.runKeys 0 0, flowsB s k = true) ∧
      s.pageError actx (actx.runKeys 0 0) 0 0 (s.attnCells actx (att multi 0) 0) = none) ∧
    (let far : Ctx := { actx with map := [(0, { kEnt 1 with tier := 1 })] }; ∃ gr ∈ far.pageGranules 0, (far.pageEnt 0 gr).tier ≠ 0) ∧
    (∀ n ∈ [14, 15], let a := { att true 1 with done := n }; let s := abed [a] 0; ((s.die 0).attns.find? fun x => x.id == 5) = some a ∧ a.count ≤ a.next ∧
      s.core.holds 0x4000 0 = true) ∧
    (visibleAt 5 5 { (default : Node) with tag := 5, e := 6 } 4 (some 5) = true ∧ visibleAt 5 5 { (default : Node) with tag := 5, e := 5 } 4 (some 5) = false ∧
      visibleAt 5 4 { (default : Node) with tag := 5, e := 6 } 4 (some 5) = false) := by
  refine ⟨fun m => ?_, by decide +kernel, ⟨0, by decide +kernel, by decide +kernel⟩, by decide +kernel, by decide +kernel⟩
  cases m <;> exact ⟨_, _, _, legal_of (by decide +kernel), vread_of (by decide +kernel), by decide +kernel, rfl, by decide +kernel, got (by decide +kernel), by decide +kernel⟩

/-- The bed about to open an end with a descriptor, the numbers of `ends` taken. -/
def oBed (bs : List Byte) (ends : List ChEnd) : State := sentBy (withDesc (obed [] ends) bs)
def xsBed (x : Word) (e y : ChEnd) : State := sentBy (xbed x e y [])
/-- A sender and a receiver that opens, with 16 buffers of 64 tiles; every number taken: status 5; no bridge: status 4. Words on ends of each status. -/
theorem wit_ChannelWords :
    (∀ bs ∈ [openRec 0 0 0 0, openRec 1 16 0x10010000 0x10002000], ∃ t a b c tok u, let s := oBed bs []
      s.takesBy .sluice (shM wOpen .req true 1 24 .sDst .sSrc .none .none) a b c t ∧ s.descAt wOpen a bs ∧ xopenLimits bs = .ok () ∧ t.joinW wOpen = .ok (tok, u) ∧
      t.open_ wOpen.d ∧ bridged 0 (fieldNat bs 2 1) = true ∧ (s.die (fieldNat bs 2 1)).fenced = false ∧ (s.die 0).freeEnd 128 = some 0) ∧
    (∃ t a b c tok u v, let bs := openRec 0 0 0 0; let s := oBed bs ((List.range 128).map fun n => chEnd n 4 0 .opened)
      s.takesBy .sluice (shM wOpen .req true 1 24 .sDst .sSrc .none .none) a b c t ∧ s.descAt wOpen a bs ∧ xopenLimits bs = .ok () ∧ t.joinW wOpen = .ok (tok, u) ∧
      bridged 0 (fieldNat bs 2 1) = true ∧ (s.die (fieldNat bs 2 1)).fenced = false ∧ (s.die 0).freeEnd 128 = none ∧ u.gives wOpen.d (statusWord 5 0) 1 v) ∧
    (bridged 0 0 = false ∧ bridged 0 1 = false) ∧
    (∀ n ∈ [(1 : BitVec 24), 16], ∃ t a b c e, let r := { chEnd 0 4 1 .opened with nb := 16, bufs := List.replicate 16 .free }; let s := xsBed 0 r (chEnd 3 0 0 .opened)
      let w := wm 700 0 698 0 false 0 n
      s.takesBy .sluice (shM w .none false 1 5 .sDst .none .sSrc .none) a b c t ∧ t.endOf b.toNat (some 1) = .ok e ∧ s.chStatus e = 0 ∧ e.st ≠ .opening ∧
      w.disp.toNat % 32 ≤ e.count BufSt.isFree ∧ e.bufs.length = e.nb) ∧
    (∀ p ∈ [({ chEnd 0 4 1 .opened with selfClosed := true }, 2), ({ chEnd 0 4 1 .failed with eve := true }, 3), ({ chEnd 0 4 1 .opening with mismatch := true }, 4)],
      ∃ t a b c e v, let s := xsBed 0 p.1 (chEnd 3 0 0 .opened); s.takesBy .sluice (shM (wm 700 0 698 0 false 0 1) .none false 1 5 .sDst .none .sSrc .none) a b c t ∧
        t.endOf b.toNat (some 1) = .ok e ∧ s.chStatus e = p.2 ∧ t.gives 700 (statusWord p.2 0) 1 v) ∧
    (∀ p ∈ [(sendEnd, false), (chEnd 0 4 0 .opened, false), (chEnd 0 4 0 .opened, true)], ∃ t a b c pages e tok u, let s := xsBed (2 ^ 32 - 1) p.1 recvEnd
      let w := wm 700 697 698 699 false (if p.2 then 1 else 0) 0
      s.takesBy .sluice (shM w .opt true 3 24 .sDst .sSrc .sSrc .sSrc) a b c t ∧ c.toNat = 2 ^ 32 - 1 ∧ t.endOf b.toNat (some 0) = .ok e ∧ e = p.1 ∧ addrOk 0x10001000 (e.t * 2048) 128 ∧
      t.xlateRange .crd 0x10001000 (e.t * 2048) = .ok pages ∧ s.core.ops = [] ∧ t.joinW w = .ok (tok, u) ∧ s.chStatus e = 0 ∧ s.partner e = some recvEnd ∧ s.rakeFull = false ∧
      e.peer ≠ s.core.did ∧ e.peer < s.dies.length) ∧
    (∀ p ∈ [([BufSt.arrived 7 5, .free], false), ([.free, .free], false), ([.free, .free], true)], ∃ t a b c e, let s := xsBed 0 { chEnd 0 4 1 .opened with bufs := p.1 } (chEnd 3 0 0 .opened)
      s.takesBy .sluice (shM0 (wm 700 0 698 0 false (if p.2 then 1 else 0) 0) .none 3 0 .sDst .none .sSrc .none) a b c t ∧ t.endOf b.toNat (some 1) = .ok e ∧ e.selfClosed = false ∧
      s.chStatus e = 0 ∧ e.st = .opened ∧ e.bufs.getD 0 .free = p.1.getD 0 .free) ∧
    (∀ bufs ∈ [[BufSt.free, .granted], [.filling 7, .free]], ∃ t a b c e, let s := xsBed 0 { chEnd 0 4 1 .opened with bufs := bufs } { chEnd 3 0 0 .opened with selfClosed := true }
      s.takesBy .sluice (shM0 (wm 700 0 698 0 false 1 0) .none 3 0 .sDst .none .sSrc .none) a b c t ∧ t.endOf b.toNat (some 1) = .ok e ∧ e.selfClosed = false ∧
      s.chStatus e = 2 ∧ e.bufs = bufs) ∧
    (∀ x ∈ [false, true], ∃ t a b c e tok u, let s := xsBed 0 { sendEnd with selfClosed := x } recvEnd; let w := wm 700 0 698 0 true 0 0
      s.takesBy .sluice { shM w .req true 1 0 .sDst .none .sSrc .none with xok := w.cls == 0 && (shM w .req true 1 0 .none .none .none .none).xok } a b c t ∧
      t.endOf b.toNat none = .ok e ∧ t.joinW w = .ok (tok, u) ∧ e.selfClosed = x ∧ e.st ≠ .failed) ∧
    (∃ t a b c e tok u, let s := xsBed 0 { sendEnd with st := .failed } recvEnd; let w := wm 700 0 698 0 true 0 0
      s.takesBy .sluice { shM w .req true 1 0 .sDst .none .sSrc .none with xok := w.cls == 0 && (shM w .req true 1 0 .none .none .none .none).xok } a b c t ∧
      t.endOf b.toNat none = .ok e ∧ t.joinW w = .ok (tok, u) ∧ e.selfClosed = false ∧ e.st = .failed ∧ e.eve = false) ∧
    (∀ x ∈ [false, true], ∃ t a b c e v, let s := xsBed 0 { sendEnd with mismatch := x } recvEnd
      s.takesBy .sluice (shM0 (wm 700 0 698 0 false 0 0) .none 1 0 .sDst .none .sSrc .none) a b c t ∧ t.endOf b.toNat none = .ok e ∧ e.mismatch = x ∧ t.gives 700 (s.endRecord e) 1 v) := by
  refine ⟨?_, ⟨_, _, _, _, _, _, _, takesBy_of (by decide +kernel), desc_of (addr_of (by decide +kernel)) (by decide +kernel) rfl, gotU (by decide +kernel), got2 (by decide +kernel),
      by decide +kernel, by decide +kernel, by decide +kernel, got (by decide +kernel)⟩, by decide +kernel, ?_, ?_, ?_, ?_, ?_, ?_,
      ⟨_, _, _, _, _, _, _, takesBy_of (by decide +kernel), got (by decide +kernel), got2 (by decide +kernel), by decide +kernel, by decide +kernel, by decide +kernel⟩, ?_⟩ <;>
    intro p h <;> simp only [List.mem_cons, List.not_mem_nil, or_false] at h
  · rcases h with rfl | rfl <;> exact ⟨_, _, _, _, _, _, takesBy_of (by decide +kernel), desc_of (addr_of (by decide +kernel)) (by decide +kernel) rfl, gotU (by decide +kernel),
      got2 (by decide +kernel), ⟨_, got (by decide +kernel)⟩, by decide +kernel, by decide +kernel, by decide +kernel⟩
  · rcases h with rfl | rfl <;> exact ⟨_, _, _, _, _, takesBy_of (by decide +kernel), got (by decide +kernel), by decide +kernel, by decide +kernel, by decide +kernel, by decide +kernel⟩
  · rcases h with rfl | rfl | rfl <;> exact ⟨_, _, _, _, _, _, takesBy_of (by decide +kernel), got (by decide +kernel), by decide +kernel, got (by decide +kernel)⟩
  · rcases h with rfl | rfl | rfl <;> exact ⟨_, _, _, _, _, _, _, _, takesBy_of (by decide +kernel), by decide +kernel, got (by decide +kernel), by decide +kernel, addr_of (by decide +kernel),
      got (by decide +kernel), by decide +kernel, got2 (by decide +kernel), by decide +kernel, by decide +kernel, by decide +kernel, by decide +kernel, by decide +kernel⟩
  · rcases h with rfl | rfl | rfl <;> exact ⟨_, _, _, _, _, takesBy_of (by decide +kernel), got (by decide +kernel), by decide +kernel, by decide +kernel, by decide +kernel, by decide +kernel⟩
  · rcases h with rfl | rfl <;> exact ⟨_, _, _, _, _, takesBy_of (by decide +kernel), got (by decide +kernel), by decide +kernel, by decide +kernel, by decide +kernel⟩
  · rcases h with rfl | rfl <;> exact ⟨_, _, _, _, _, _, _, takesBy_of (by decide +kernel), got (by decide +kernel), got2 (by decide +kernel), by decide +kernel, by decide +kernel⟩
  · rcases h with rfl | rfl <;> exact ⟨_, _, _, _, _, _, takesBy_of (by decide +kernel), got (by decide +kernel), by decide +kernel, got (by decide +kernel)⟩

/-- A transfer of end 0: what is left of it, the failed replays of its beat; the bed that holds it. -/
def sendK (todo : List Chunk) (n : Nat) : Copy :=
  { (default : Copy) with id := 1, todo := todo, send := some { (default : SendTo) with seq := 0, buf := 0, user := 5, replays := n } }
def sendBed (e y : ChEnd) (k : Copy) : State := (ebed e y).updC fun c => { c with rake := [k] }
/-- Ends that match, of one `t` and of two; a grant whose reads have ended and one whose have not; a set on its way; a last replay; closes. -/
theorem wit_ChannelSteps :
    (∀ n ∈ [1, 2], let e := { chEnd 0 4 0 .opening with peerEnd := none }; let y := { chEnd 3 0 1 .opening with peerEnd := none, t := n }; let s := ebed e y
      (s.die 0).chEnd 0 = some e ∧ (s.die 0).nextOpen 4 9 0 = some e ∧ (s.die 4).nextOpen 0 9 1 = some y ∧ (s.die 4).chEnd 3 = some y) ∧
    (∀ p ∈ [(([] : List Nat), true), ([3], false)], let g : HeldGrant := { (default : HeldGrant) with n := 1, ops := p.1 }; let e := { chEnd 0 4 1 .opened with held := [g] }
      let s := (ebed e { sendEnd with num := 3, peer := 0, peerEnd := some 0 }).updC fun c => { c with ops := [loadW true [0]] }
      (s.die 0).chEnd 0 = some e ∧ (s.partner e).isSome = true ∧ e.role = 1 ∧ g.clear s (s.jobCore e.lrec e.job) = p.2) ∧
    (∀ q ∈ [0, 0x10002000], let p := { recvEnd with sw := q }; let k := sendK [] 0; let s := sendBed sendEnd p k; (s.die 0).chEnd 0 = some sendEnd ∧
      oldestSend (s.sends 0 0) = some k ∧ s.partner sendEnd = some p ∧ s.jobSaved p.lrec p.job = false ∧ (s.recvSync k).isSome = decide (q ≠ 0) ∧
      ∀ x ∈ s.recvSync k, flowsB s x = true ∧ ∀ i < 16, s.hbmDead (x + i) = false) ∧
    (∀ n ∈ [0, 15, 16], let k := sendK [⟨0x10001000, 0x10010000, 2048⟩] n; let s := sendBed sendEnd recvEnd k
      (s.die 0).chEnd 0 = some sendEnd ∧ oldestSend ((s.sends 0 0).filter fun k => !k.todo.isEmpty) = some k ∧ n ≤ 16) ∧
    (let s := sendBed sendEnd recvEnd (sendK [⟨0x10001000, 0x10010000, 2048⟩] 17); bridged 0 4 = true ∧ s.retrainDue 0 4 = true ∧ sendEnd ∈ s.fillingTo 0 4) ∧
    (let e := { sendEnd with selfClosed := true }; (sendBed e recvEnd (sendK [] 0)).closeReady e = false) ∧
    (∀ p ∈ [(recvEnd, false), ({ recvEnd with selfClosed := true, done := true }, true)], let e := { sendEnd with selfClosed := true }; let s := ebed e p.1
      (s.die 0).chEnd 0 = some e ∧ s.closeReady e = true ∧ s.partner e = some p.1 ∧ p.1.done = p.2 ∧ e.st = .opened) ∧
    (let e := { chEnd 0 4 1 .opened with selfClosed := true }; let y := chEnd 3 0 0 .opened; let s := ebed e y
      (s.die 0).chEnd 0 = some e ∧ s.closeReady e = true ∧ s.partner e = some y ∧ y.done = false ∧ e.role ≠ 0) ∧
    (let e := { sendEnd with selfClosed := true, peerEnd := none }; (ebed e recvEnd).closeReady e = true ∧ (ebed e recvEnd).partner e = none) := by
  decide +kernel

/-- The bed of the Pan filter, its word sent; a descriptor read. -/
def pBed (x : Word) (pans : Sparse PanSlot) : State := sentBy (pbed x pans [])
def pcfgBed (pans : Sparse PanSlot) : State := withDesc (pBed 0 pans) panRec
def configuresB (pans : Sparse PanSlot) : Bool :=
  let s := pcfgBed pans
  let h := { shM wPan .none false 1 24 .sDst .sSrc .none .none with die := some false }
  let pages := val (s.xlateRange .crd 0x40000000 128)
  takesByB s .pan h && okB (s.xlate 0x10001000 .rd) && okB (panLimits panRec) && okB (s.xlateRange .crd 0x40000000 128) &&
    pages.all (fun g => isHbmKey g.2 && dieOfDpa g.2 == 4) && okB ((byT s .pan h).writeS 700 0 1) && decide ((s.die 4).panq = []) &&
    (s.die 4).pans.all (fun p => !p.2.used || !sharesFrame p.2.pages pages)
/-- A slot free and none; the last row and one past it, full and not; an observation of a new element and a seen one; each system word. -/
theorem wit_PanAndSystem :
    (configuresB [] = true ∧ ((pcfgBed []).die 4).freePan = some 0 ∧ configuresB fullPans = true ∧ ((pcfgBed fullPans).die 4).freePan = none) ∧
    (∃ t a b c n p, let s := pBed 0 [(0, pslot 64)]; s.takesBy .pan { shM (wm 700 0 698 0 false 1 0) .none false 2 0 .sDst .none .sSrc .none with die := some false } a b c t ∧
      s.panOf b.toNat = .ok (n, p) ∧ (s.die 4).panq = [] ∧ s.core.ops = [] ∧ p.reads = [] ∧ t.open_ 700) ∧
    (∀ q ∈ [((0 : Word), 64, true), (0, 63, true), (1, 64, false)], ∃ t a b c n p tok u pages, let s := pBed q.1 [(0, pslot q.2.1)]; let w := wm 0 697 698 699 true 1 0
      s.takesBy .pan { shM w .req true 3 24 .none .sSrc .sSrc .sSrc with die := some false } a b c t ∧ s.panOf b.toNat = .ok (n, p) ∧ decide (c.toNat < p.rows) = q.2.2 ∧
      addrOk 0x10001000 (64 + 8 * p.ks) 64 ∧ s.xlateRange .wr 0x10001000 (64 + 8 * p.ks) = .ok pages ∧ t.joinW w = .ok (tok, u) ∧ (Sparse.get p.state 0).cnt = q.2.1) ∧
    (∃ pages, let s := pBed 0 [(0, pslot 64)]; s.xlateRange .wr 0x40000000 576 = .ok pages ∧ 0x40000000 % 65536 + 576 ≤ 65536 ∧
      (∀ k ∈ kibKeys pages 0x40000000 576, flowsB s k = true ∧ isScratchKey k = false) ∧ ∀ i < 576, s.hbmDead (keyIn pages 0x40000000 + i) = false) ∧
    (let s := (pbed 0 [(0, pslot 0)] []).updDie 4 fun d => { d with panq := [(0x6000010000, [0, 0x3C])] }
     (s.die 4).panq = [(0x6000010000, [0, 0x3C])] ∧ ∀ n < 8, ((s.die 4).pan n).reads = []) ∧
    (let p := pslot 0; let i := 63; (0x6000010000 : Nat) + 126 + 2 ≤ 0x6000010000 + 65536 ∧ p.va + 126 - p.va = i * panWidth p.et ∧ i < p.rows * p.len) ∧
    ([(3, 0x40000000), (5, 0x3F800000)].Pairwise shortBefore ∧ decodeFloat .fp32 0x40000000 ≠ .nan ∧ decodeFloat .fp32 0x3F800000 ≠ .nan) ∧
    (∀ n ∈ [(0 : BitVec 36), 31], ∃ l u, let s : State := { bed .a with launches := [{ (default : Launch) with lrec := 0x4000 }] }; let v := wi 700 0 0 0 n
      s.legal (shSys v 5 .sDst .none) ∧ s.launch = some l ∧ s.gives 700 (BitVec.ofNat 64 (Sparse.get l.counters (v.imm.toNat % 32))) 1 u) ∧
    (∀ n ∈ [(31 : BitVec 36), 32], (bed .a).legal (shSys (wi 0 0 0 0 n) 6 .none .none)) ∧
    (∀ p ∈ [((0 : BitVec 36), (700 : OpField)), (1, 0), (2, 700), (3, 700)], ∃ t a b c, let v := wi 0 p.2 0 0 p.1
      (bed .a).takes (shSys v 2 .none (if v.imm.toNat = 1 then .none else .sSrc)) a b c t ∧ (bed .a).translated = true) ∧
    (∀ p ∈ [((10 : BitVec 36), (0 : OpField)), (11, 0), (16, 700), (18, 700), (19, 0)], ∃ t a b c u, let v := wi 701 p.2 0 0 p.1
      (bed .a).takes (shSys v 8 .sDst (if 16 ≤ v.imm.toNat ∧ v.imm.toNat ≤ 18 then .sSrc else .none)) a b c t ∧ t.gives 701 5 400 u) ∧
    (∃ key, (bed .a).hbmAddr 0x40000000 = .ok key) := by
  refine ⟨by decide +kernel, ⟨_, _, _, _, _, _, takesBy_of (by decide +kernel), got2 (by decide +kernel), by decide +kernel, by decide +kernel, by decide +kernel, _, got (by decide +kernel)⟩,
    fun q h => ?_, ⟨_, got (by decide +kernel), by decide, by decide +kernel, by decide +kernel⟩, by decide +kernel, by decide +kernel,
    by unfold shortBefore; decide +kernel, fun n h => ?_, fun n h => ?_, fun p h => ?_, fun p h => ?_, ⟨_, got (by decide +kernel)⟩⟩ <;> simp only [List.mem_cons, List.not_mem_nil, or_false] at h
  · rcases h with rfl | rfl | rfl <;> exact ⟨_, _, _, _, _, _, _, _, _, takesBy_of (by decide +kernel), got2 (by decide +kernel), by decide +kernel, addr_of (by decide +kernel),
      got (by decide +kernel), got2 (by decide +kernel), by decide +kernel⟩
  · rcases h with rfl | rfl <;> exact ⟨_, _, legal_of (by decide +kernel), rfl, got (by decide +kernel)⟩
  · rcases h with rfl | rfl <;> exact legal_of (by decide +kernel)
  · rcases h with rfl | rfl | rfl | rfl <;> exact ⟨_, _, _, _, takes_of (by decide +kernel), by decide +kernel⟩
  · rcases h with rfl | rfl | rfl | rfl | rfl <;> exact ⟨_, _, _, _, _, takes_of (by decide +kernel), got (by decide +kernel)⟩

/-- A full ring's tail and one past it; a cluster free and none; a slice's end and the cycle after; requests; the end of a launch by each status. -/
theorem wit_Scheduling :
    (let s := schedBed lch; s.dies.length = 12 ∧ (∀ i < 8, s.hbmDead (0x8054 + i) = false) ∧ s.servesNode 0 0x8000 = true ∧ s.holdsLate 0x8054 = false ∧ s.holdsLate 0x8058 = false ∧
      s.natAt 0x8054 4 = 0 ∧ s.natAt 0x8050 4 = 4 ∧ s.natAt 0x8058 4 = 1 ∧ s.natAt (s.natAt 0x8048 8) 8 = 0x4000) ∧
    (∀ p ∈ [(4, true), (5, false)], decide ((p.1 + 2 ^ 32 - 0) % 2 ^ 32 ≤ 4) = p.2) ∧
    (let s := schedBed lch; s.recordOk (s.readLaunch 0x4000 0x8000) = true ∧ s.recordOk { lch with gang := 5 } = false) ∧
    (let s := (schedBed lch).noteRunnable 0; (pickBy candLt (s.waiting 0)).map (fun x => (x.2.2.lrec, x.2.2.gang, x.2.2.saved)) = some (0x4000, 0, false) ∧
      (List.range (clustersOf 0)).find? (s.clusterFree 0) = some 1 ∧ s.parked = [] ∧ (match s.readImages 0 0 [0x40000000] with | .ok ([bs], _) => decide (bs.length = 256) | _ => false) = true) ∧
    (let s := { schedBed lch with parked := (List.range 8).map fun i => { bedCore with cid := 4 * i, lrec := 0x40 } }; (List.range (clustersOf 0)).find? ((s.noteRunnable 0).clusterFree 0) = none ∧
      (pickBy candLt ((s.noteRunnable 0).waiting 0)).isSome = true) ∧
    (pickBy candLt (((schedBed { lch with next := 2 }).noteRunnable 0).waiting 0)).isNone = true ∧
    (∀ p ∈ [(20000, true), (20001, false)], decide (p.1 % max 10000 ((schedBed lch).die 0).slice = 0) = p.2) ∧
    ((schedBed lch).die 0).walked ≠ ((schedBed lch).die 0).cyc ∧
    (let s := schedBed lch; (∀ k ∈ s.gangCores 0x4000 1, k.stopReq = false) ∧ s.core.inGang 0x4000 1 = true) ∧
    (let s := (schedBed lch).requestStop 0x4000 1; (∃ k ∈ s.gangCores 0x4000 1, k.stopReq = true) ∧ (∀ k ∈ s.gangCores 0x4000 1, k.ops = []) ∧
      ((s.completeJobs (s.gangCores 0x4000 1)).gangCores 0x4000 1).isEmpty = false) ∧
    (∃ u, let s := { schedBed lch with saved := [stopped false []] }; (s.saved.find? fun v => v.lrec == 0x4000 && v.gang == 0 && !v.valid) = some (stopped false []) ∧
      s.writeImages lch 0 s.freeN [] = .ok u) ∧
    (let c := bedCore; let s := { schedBed lch with saved := [stopped false [c]] }; (s.saved.find? fun v => v.lrec == 0x4000 && v.gang == 0 && !v.valid) = some (stopped false [c]) ∧
      (s.launches.find? fun y => y.lrec == 0x4000) = some lch ∧ c.resultsIn = true ∧ c.canon = false ∧ s.arriving (stopped false [c]) = false) ∧
    (∀ p ∈ [(lch, none), ({ lch with cancelled := true }, some 4), ({ lch with lost := true }, some 3)],
      ({ schedBed p.1 with core := { bedCore with running := decide (p.2 = none) } } : State).endCondition p.1 = p.2) ∧
    (∀ p ∈ [({ lch with doneJobs := [0, 1] }, some 0), ({ lch with doneJobs := [0] }, none), ({ lch with faulted := true }, some 2)],
      ({ schedBed p.1 with core := { bedCore with running := false } } : State).endCondition p.1 = p.2) ∧
    ((schedBed lch).diesAt 0x110 0x110 = List.range 12 ∧ (schedBed lch).diesAt 0x140110 0x110 = [1] ∧ (schedBed lch).host.ide = true ∧ (schedBed lch).host.rdy = true) := by
  refine ⟨?_, ?_, ?_, ?_, ?_, ?_, ?_, ?_, ?_, ?_, ⟨_, ?_, rfl⟩, ?_⟩
  all_goals decide +kernel
/-- Each phase, early and late; the last byte of HBM; full and empty queues; each state of the SPDM session. -/
theorem wit_BringUpAndHost :
    ((boot 0).dies.length = 12 ∧ (boot 0).host.phase = 0 ∧ (boot 0).booting = false) ∧ (∀ p ∈ [1, 2, 3, 4, 5], (boot p).booting = true ∧ (boot p).phaseLate = false ∧ (boot p).host.phase = p) ∧
    (let s := (boot 1).updDie 0 fun d => { d with cyc := 2 ^ 40 }; s.booting = true ∧ s.phaseLate = true) ∧
    (∃ d < 12, 4 ≤ d ∧ ((boot 4).die d).fenced = false) ∧
    (let s := { boot 4 with host := { (boot 4).host with fail := true } }; s.host.fail = true) ∧
    ((boot 5).dieOk < 2 ^ 12 ∧ (boot 5).host.fcode < 256 ∧ (boot 5).host.phase < 16) ∧ (bed .a).core.running = true ∧
    (let s := up1 id; hbmBytes - 64 + 64 ≤ hbmBytes ∧ s.backedOff (hbmBytes - 64) = false ∧ s.engineOwned (hbmBytes - 64) = false ∧ s.hbmDead (hbmBytes - 64) = false ∧
      s.migHeld (hbmBytes - 64) = false ∧ s.diesAt 0x100 0x100 ≠ []) ∧
    ((up1 fun h => { h with ide := false }).host.ide = false ∧ (up1 fun h => { h with rdy := false }).host.rdy = false) ∧
    ((up1 fun h => { h with tlbinv := some 0x40000000 }).host.tlbinv = some 0x40000000) ∧
    (faqE.type < 4 ∧ faqE.ecnt < 256 ∧ faqE.line * 64 < 2 ^ 52 ∧ (up1 fun h => { h with faq := [faqE] }).host.faq = [faqE]) ∧
    ((∀ e ∈ [faqE], e.line ≠ (hbmBytes - 1) / 64) ∧ (List.replicate 1024 faqE).length = 1024 ∧ hbmBytes - 1 < hbmBytes ∧ (2 : Nat) < 3) ∧
    (let s := up1 fun h => { h with ide := false, spdm := { h.spdm with session := true } }; s.host.spdm.session = true ∧ s.host.held = []) ∧
    (∀ p ∈ [(32, true), (31, false)], let m : MboxCmd := { lrec := 0x4000, node := 0x8000, job := 0, ptb := 0, record := [], tok := none, until_ := none }
      let s := ((up1 id).updDie 0 fun d => { d with mbox := [(3, [m])] }).updC fun c => { c with cq := List.replicate p.1 0 }
      (s.die 0).fenced = false ∧ Sparse.get (s.die 0).mbox 3 = [m] ∧ s.core.holds 0x4000 0 = true ∧ decide (s.core.cq.length = 32) = p.2 ∧ s.gen.stopped = false ∧ s.mailReady 0 3 m = true) ∧
    ((up1 fun h => { h with restart := true }).host.restart = true ∧ (up1 id).host.restart = false ∧ (up1 id).host.fail = false) := by
  refine ⟨?_, ?_, ?_, ⟨4, ?_⟩, ?_⟩
  all_goals decide +kernel
theorem wit_MemoryHealthAndFencing :
    (∀ a ∈ [0, hbmBytes - 1], (banked bank0).dies.length = 12 ∧ a < hbmBytes ∧ (banked bank0).backedOff a = false) ∧ (bank0.openRow = some (rowOf 0x400000) ∧ bank0.openRow ≠ some (rowOf 0)) ∧
    (∀ m ∈ [8, 9], let s := (banked bank0).updDie 0 fun d => { d with mth := m }; decide (Sparse.get bank0.counts 5 + 1 < (s.die (dieOfDpa 0x500000)).mth) = decide (m = 9)) ∧
    (let k := { bank0 with pend := [0, 65535] }; Sparse.get (banked k).banks 0 = k ∧ k.pend = [0, 65535] ∧ k.backoff = none) ∧ (16383 < 16384 ∧ 65535 < 65536) ∧
    (∀ p ∈ [(0, true), (1, false)], let k := { bank0 with backoff := some p.1 }; (Sparse.get (banked k).banks 0).backoff = some p.1 ∧ decide (p.1 ≤ ((banked k).die (dieOfBank 0)).cyc) = p.2 ∧
      (banked k).host.held = [] ∧ (∀ w ∈ (banked k).dies.flatMap Die.waiters, w.2.2 = []) ∧ (banked k).migs = []) ∧
    (Sparse.get (banked bank0).core.pmc 4 < 2 ^ 64) ∧ (∀ x ∈ [false, true], (up1 id).host.retBusy = false ∧ ((if x then 1 else 0 : Word).getLsbD 0) = x) ∧
    (let s := up1 fun h => { h with retBusy := true }; s.host.retBusy = true ∧ s.host.held = []) ∧
    (∀ p ∈ [(2 ^ 40, 4), (7, 2), (1, 0)], (up1 fun h => { h with badList := [(7, 0, true)] }).retireStatus p.1 true = p.2) ∧
    ((up1 fun h => { h with spares := [(0, 512)] }).retireStatus 1 false = 1 ∧ (up1 fun h => { h with spares := [(0, 511)] }).retireStatus 1 false = 0) ∧
    (∀ d ∈ [3, 4, 11], ((up1 id).die d).fenced = false) ∧ (2 ^ 36 - 1 ∉ (up1 id).flashBad) ∧ ((fbed 5 (2 ^ 40)).watchdogDue 5 = true ∧ (fbed 5 5).watchdogDue 5 = false) ∧
    (let s := fbed 5 (2 ^ 40); s.host.rdy = true ∧ (s.die 5).fenced = false ∧ (s.launches.map (·.lrec)).Nodup ∧ s.lostGangs 0x4000 5 ≠ []) := by
  decide +kernel

theorem wit_strided : ∃ (w : Wm) (s t : State) (a b c : Word) (bs : List Byte) (pages : List (Nat × Nat)), s.takes (shM w .opt true 3 24 .sDst .sSrc .none .none) a b c t ∧
    s.descAt w a bs ∧ stridedLimits bs false = .ok () ∧ stridedLimits bs true = .ok () ∧ s.copyPages (copyRuns bs) = .ok pages ∧ s.core.ops = [] ∧ s.batchRoom w ∧ t.open_ w.d :=
  ⟨wm 700 697 0 0 false 0 0, withDesc (withRec []) c2Rec, _, _, _, _, c2Rec, _, takes_of (by decide), desc_of (addr_of (by decide)) (by decide) rfl, gotU (by decide +kernel), gotU (by decide +kernel),
    got (by decide +kernel), by decide, room_of (by decide), _, got (by decide)⟩
/-- The copy with its row under way: what is left to read, what was read, whether it was written; its sync word. -/
def atWork (reads : List Chunk) (got : List (Nat × List Byte)) (wrote sw : Option Nat) : Copy :=
  { oneCopy with work := some { row := 0x200200, reads := reads, got := got, wrote := wrote }, sw := sw }
def workBed (k : Copy) : State := (turns 4 []).updC fun c => { c with rake := [k] }
theorem wit_CopiesAreQueuedAndPerform :
    (∀ p ∈ [(0, false), (32, false), (32, true)], ∃ (w : Wm) (s t y : State) (a b c : Word) (pages : List (Nat × Nat)), let src := (a + w.disp.signExtend 64).toNat
      s.takes (shM w .opt true 3 24 .sDst .sSrc .sSrc .sSrc) a b c t ∧ 0 < c.toNat ∧ c.toNat ≤ 2 ^ 24 ∧ (b.toNat + c.toNat ≤ src ∨ src + c.toNat ≤ b.toNat) ∧
      s.copyPages [{ src := src, dst := b.toNat, len := c.toNat }] = .ok pages ∧ s.core.ops = [] ∧ (s.rakeQueue s.core.did s.core.cid).length = p.1 ∧ w.sz.getLsbD 0 = p.2 ∧
      s.batchRoom w ∧ t.gives w.d (if p.2 then 1 else 0) 1 y) ∧
    (∀ n ∈ [(0 : Word), 2 ^ 24 + 1], ∃ (w : Wm) (s t : State) (a b : Word), s.takes (shM w .opt true 3 24 .sDst .sSrc .sSrc .sSrc) a b n t) ∧
    (∃ (w : Wm) (s t : State) (a b c : Word) (pages : List (Nat × Nat)), let src := (a + w.disp.signExtend 64).toNat
      s.takes (shM w .opt true 3 24 .sDst .sSrc .sSrc .sSrc) a b c t ∧ 0 < c.toNat ∧ c.toNat ≤ 2 ^ 24 ∧ s.copyPages [{ src := src, dst := b.toNat, len := c.toNat }] = .ok pages ∧
      ¬ (b.toNat + c.toNat ≤ src ∨ src + c.toNat ≤ b.toNat)) ∧
    (∃ (w : Wm) (s t t1 : State) (a b c d : Word) (key : Nat) (pages : List (Nat × Nat)), let src := (a + w.disp.signExtend 64).toNat
      s.takes (shM w .opt true 1 24 .sSrc .sSrc .sSrc .sSrc) a b c t ∧ t.readS w.d = .ok (d, t1) ∧ 0 < c.toNat ∧ c.toNat ≤ 2 ^ 24 ∧
      (b.toNat + c.toNat ≤ src ∨ src + c.toNat ≤ b.toNat) ∧ addrOk d.toNat 16 16 ∧ s.xlate d.toNat .sync = .ok key ∧
      s.copyPages [{ src := src, dst := b.toNat, len := c.toNat }] = .ok pages ∧ s.core.ops = [] ∧ (s.rakeQueue s.core.did s.core.cid).length < 32 ∧ s.batchRoom w) ∧
    (∃ (w : Wm) (s t : State) (a b c : Word) (bs : List Byte) (pages : List (Nat × Nat)), s.takes (shM w .opt true 3 24 .sDst .sSrc .none .none) a b c t ∧ s.descAt w a bs ∧
      stridedLimits bs false = .ok () ∧ stridedLimits bs true = .ok () ∧ s.copyPages (copyRuns bs) = .ok pages ∧ s.core.ops = [] ∧ s.batchRoom w ∧ t.open_ w.d) ∧
    (∀ p ∈ [(0, [otherCopy], false), (0, [], true), (4, [otherCopy], true), (3, [otherCopy], false)], let s := turns p.1 p.2.1; let n := pieceSum (cutRow 0x200200 oneCopy.todo).1
      s.core.rake = [oneCopy] ∧ s.rakeHead oneCopy = true ∧ n = 4 ∧ (decide (n ≤ s.rakeLeft 0 0) || !s.rakeOthers oneCopy) = p.2.2) ∧
    (turns 0 [firstCopy]).rakeHead oneCopy = false ∧
    (let k := atWork [⟨0x10001004, 0x10010000, 4⟩] [] none none; let s := workBed k; let key := keyIn k.pages 0x10001004
      s.core.rake = [k] ∧ s.rakeHead k = true ∧ s.readError k ⟨0x10001004, 0x10010000, 4⟩ = none ∧ s.pathHeld k.id k.cls key false = false ∧ flowsB s key = true) ∧
    (let k := atWork [] [(0x10010000, [1, 2, 3, 4])] none none; let s := workBed k; let dst := keyIn k.pages 0x10010000
      s.core.rake = [k] ∧ s.rakeHead k = true ∧ s.writeError k 0x10010000 = none ∧ s.copyDst k 0x10010000 = some [dst] ∧ s.pathHeld k.id k.cls dst false = false ∧
      flowsB s dst = true ∧ s.hbmDead dst = false) ∧
    (∀ sw ∈ [none, some 0x20000], let k := atWork [] [] (some 4) sw; let s := workBed k
      s.core.rake = [k] ∧ s.rakeHead k = true ∧ (cutRow 0x200200 k.todo).2 = [] ∧ k.send = none ∧
      ∀ x ∈ sw, s.pathHeld k.id k.cls x false = false ∧ flowsB s x = true ∧ ∀ i < 16, s.hbmDead (x + i) = false) := by
  refine ⟨fun p h => ?_, fun n h => ?_,
    ⟨wm 700 697 698 699 false 0 0, copies 0x100010FF 256 0, _, _, _, _, _, takes_of (by decide), by decide, by decide, got (by decide), by decide⟩,
    ⟨wm 701 697 698 699 false 0 0, copies 0x10001100 256 0, _, _, _, _, _, _, _, _, takes_of (by decide), got2 (by decide), by decide, by decide, by decide,
      addr_of (by decide), got (by decide), got (by decide), by decide, by decide, room_of (by decide)⟩,
    wit_strided, by decide +kernel⟩
  · simp only [List.mem_cons, List.not_mem_nil, or_false] at h
    rcases h with rfl | rfl | rfl
    · exact ⟨wm 700 697 698 699 false 0 0, copies 0x10001100 256 0, _, _, _, _, _, _, takes_of (by decide), by decide, by decide, by decide, got (by decide), by decide, by decide, by decide,
        room_of (by decide), got (by decide)⟩
    · exact ⟨wm 700 697 698 699 false 0 0, copies 0x10001100 256 32, _, _, _, _, _, _, takes_of (by decide), by decide, by decide, by decide, got (by decide), by decide, by decide, by decide,
        room_of (by decide), got (by decide)⟩
    · exact ⟨wm 700 697 698 699 false 1 0, copies 0x10001100 256 32, _, _, _, _, _, _, takes_of (by decide), by decide, by decide, by decide, got (by decide), by decide, by decide, by decide,
        room_of (by decide), got (by decide)⟩
  · simp only [List.mem_cons, List.not_mem_nil, or_false] at h
    rcases h with rfl | rfl
    · exact ⟨wm 700 697 698 699 false 0 0, copies 0x10010000 0 0, copies 0x10010000 0 0, 0x10001000, 0x10010000, legal_of (by decide), by decide +kernel⟩
    · exact ⟨wm 700 697 698 699 false 0 0, copies 0x10010000 0x1000001 0, copies 0x10010000 0x1000001 0, 0x10001000, 0x10010000, legal_of (by decide), by decide +kernel⟩

/-! ### Further clauses of the statements -/

/-- FaultsAreTakenAndRecorded: nothing of the device's is waiting, nothing holds the record; and a record that waits. -/
theorem wit_FaultsAreTakenAndRecorded_late : ((faulty 3).late = [] ∧ (faulty 3).recordHeld 0x8000 = false) ∧ ∃ s : State, s.late ≠ [] :=
  ⟨by decide, ⟨{ faulty 3 with late := [.bytes 0 []] }, by decide⟩⟩
/-- A record at 0x10001000 for mailbox 3. -/
def mailRec : State := (withRec []).upd fun x => { x with sregs := [(1, 0x10001000), (2, 3)] }
/-- ScalarAccessesIssue: a word that takes a descriptor, before it has read it. -/
theorem wit_ScalarAccessesIssue_descriptors :
    (∃ (w : Wm) (s t : State) (a b c : Word) (key : Nat), let ea := (a + w.disp.signExtend 64).toNat
      s.takes (shM w .opt true 1 24 .portAny .sSrc .none .none) a b c t ∧ addrOk ea 64 64 ∧ s.xlate ea .rd = .ok key ∧ s.strm.desc = none ∧ (s.core.port (portIx w.d)).prod = 1 ∧
        (s.core.port (portIx w.d)).gen = none) ∧
    (∃ (w : Wm) (s t : State) (a b c : Word) (key : Nat), let ea := (a + w.disp.signExtend 64).toNat
      s.takes (shM w .opt true 3 24 .sDst .sSrc .sSrc .none) a b c t ∧ addrOk ea 64 64 ∧ s.xlate ea .rd = .ok key ∧ s.strm.desc = none ∧ b.toNat ≤ 3) ∧
    (∃ (w : Wm) (s t : State) (a b c : Word) (key : Nat), let ea := (a + w.disp.signExtend 64).toNat
      s.takes (shM w .opt true 3 24 .sDst .sSrc .none .none) a b c t ∧ addrOk ea 64 64 ∧ s.xlate ea .rd = .ok key ∧ s.strm.desc = none) ∧
    (∃ (w : Wm) (s t : State) (a b c : Word) (key : Nat), let ea := (a + w.disp.signExtend 64).toNat
      s.takes (shK w .req 24 .sDst .sSrc .none .none) a b c t ∧ addrOk ea 64 64 ∧ s.xlate ea .rd = .ok key ∧ s.strm.desc = none) :=
  ⟨⟨wm 640 697 0 0 false 0 0, pgoState, _, _, _, _, _, takes_of (by decide), addr_of (by decide), got (by decide), rfl, by decide, by decide⟩,
   ⟨wm 700 697 698 0 false 0 0, mailRec, _, _, _, _, _, takes_of (by decide), addr_of (by decide), got (by decide), rfl, by decide⟩,
   ⟨wm 700 697 0 0 false 0 0, withRec [], _, _, _, _, _, takes_of (by decide), addr_of (by decide), got (by decide), rfl⟩,
   ⟨wm 700 697 0 0 true 0 0, withRec [], _, _, _, _, _, takes_of (by decide), addr_of (by decide), got (by decide), rfl⟩⟩
/-- CPY2 first issues the load of its descriptor's 64 bytes and stands at issue (R210). -/
theorem test_descriptor : (nextOf (exec (.cpy2 (wm 700 697 0 0 false 0 0)) (withRec []))).core.ops.map (·.body) = [.desc (winKey 0x1000)] ∧
    (nextOf (exec (.cpy2 (wm 700 697 0 0 false 0 0)) (withRec []))).core.sa.pc = 0x10000008 := by decide +kernel
/-- TierWords: the pool is free; a page from CXL whose first KiB waits to be read, poisoned or not, and to be written; a page that stays; a
page that has been copied and one that returns to FLASH. -/
def upMig (p : MigPage) (n : Nat) (read : Bool) : Mig := { (default : Mig) with id := 4, pages := [p], at_ := n, read := read, pool := 0x9000 }
def upPage : MigPage :=
  { va := 0x40000000, entry := 0x3000, leaf := cxlLeaf, newLeaf := 2 ^ 59 + 0x50003, bytes := 65536, src := cxlBase + 0x30000, dst := 0x50000, copy := true }
theorem wit_TierWords_complete :
    (let s := tbed cxlLeaf 1 []; s.poolFree (s.inherit 56 8 (s.nodePath treeDepth s.core.node)) = true ∧ s.host.ide = true) ∧
    (∀ x ∈ [(upMig upPage 0 false), (upMig upPage 64512 true)], let s := tbed cxlLeaf 1 [x]
      (s.migs.find? fun m => m.id == 4) = some x ∧ s.linkDown upPage.src = false ∧ s.linkDown upPage.dst = false ∧
      s.firstPoison [(0x40000000, cxlBase + 0x30000)] 0x40000000 1024 = none ∧ s.gate [cxlBase + 0x30000] [] = .go ∧ s.gate [] [0x50000 + 64512] = .go ∧
      (s.touchRow (0x50000 + 64512)).hbmDead (0x50000 + 64512) = false) ∧
    (let p := { upPage with src := 0x70000, dst := cxlBase }; let s := { tbed cxlLeaf 1 [upMig p 0 false] with poison := [0x70040 / 64] }
      (s.migs.find? fun m => m.id == 4) = some (upMig p 0 false) ∧ s.linkDown p.src = false ∧ s.linkDown p.dst = false ∧
      s.firstPoison [(0x40000000, 0x70000)] 0x40000000 1024 = some 0x40000040 ∧ s.poolFree 0x9000 = true) ∧
    (let p := { upPage with dst := upPage.src, copy := false }; p.stays = true ∧ ((tbed cxlLeaf 1 [upMig p 0 false]).migs.find? fun m => m.id == 4) = some (upMig p 0 false)) ∧
    (∀ p ∈ [(upPage, some 2), ({ upPage with src := flashBase + 7 * 65536 }, none)], let s := tbed cxlLeaf 1 [upMig p.1 65536 false]
      (s.migs.find? fun m => m.id == 4) = some (upMig p.1 65536 false) ∧ p.1.stays = false ∧ p.1.freed = p.2 ∧ s.linkDown p.1.src = false ∧ s.frameLocked p.1.entry = false ∧
      s.poolFree 0x9000 = true ∧ s.hbmDead p.1.entry = false) := by
  decide +kernel
/-- The published check value of CRC-32, over the nine digits. -/
theorem test_crc32 : crc32 [0x31, 0x32, 0x33, 0x34, 0x35, 0x36, 0x37, 0x38, 0x39] = 0xCBF43926 := by decide +kernel
/-- Fabric: a topology's table that writes reach and nothing holds; a collective's result likewise; Almanac: a slot of the replica. -/
theorem wit_Fabric_reached :
    (let s := { up1 (fun h => { h with topoBusy := true, topoAddr := 0x2000 }) with mem := place [(0x2000, 2, 1), (0x2002, 2, 0)] }
     s.topoHeld = false ∧ s.natAt 0x2000 2 = 1 ∧ ∀ i < 80, s.hbmDead (0x2000 + i) = false) ∧
    (let s := colled [0]; s.collHeld = false ∧ (∀ i < 4, s.hbmDead (0x2000 + i) = false) ∧ ∀ i < 16, s.hbmDead i = false) ∧
    (let s := almBed (List.range 12) 0; s.late = [] ∧ s.migHeld ((s.die 1).almBase + 64 * 3) = false ∧ isHbmKey ((s.die 1).almBase + 64 * 3) = true) :=
  ⟨by decide +kernel, by decide +kernel, by decide +kernel⟩
/-- MemoryHealthAndFencing: the last bank and row, refreshed and not yet in this window. -/
theorem wit_MemoryHealthAndFencing_refresh : ∀ done ∈ [[], [65535]], let b := { (default : Bank) with done := done }
    let s := { up1 id with banks := [(16383, b)] }; Sparse.get s.banks 16383 = b ∧ s.dies.length = 12 ∧ decide (65535 ∈ b.done) = decide (done ≠ []) := by decide +kernel

end Sys2Proof.Tests
end

section
/-!
PROOFS. Sections, the join and the distributors' rings: entry and retirement of a section (R16 to R19, R165), a join that waits at a bank in
back-off (R15, R324), an overrun whose HEADX moves the fault domain (R337, R350).
-/

namespace Sys2Proof.Proofs
open Sys2Proof Sys2Proof.Machine

/-! ### Sections (R16 to R19, R165) -/

/-- A live stream at a header attempts to enter its section (R16). -/
theorem exec_sectionEntry {s : State} {k : Strm} (hl : s.core.live k = true) (ha : (s.core.strm k).atHdr = true) :
    exec (.sectionEntry k) s = outcomeOf s k (s.enterSection k) := by
  show execSectionEntry k s = _
  simp [execSectionEntry, hl, ha]

/-- A header of length zero ends the stream that reads it (R165). -/
theorem enterSection_zero {s : State} {k : Strm} {h : SecHdr} (hpc : (s.core.strm k).pc.toNat % 4 = 0)
    (hf : s.fetchHdr (s.core.strm k) (s.core.strm k).pc = .ok h) (hk : h.hk = 0xA) (h0 : h.len = 0) :
    s.enterSection k = .ok (s.updK k StrmSt.stop) := by
  simp [State.enterSection, hpc, hf, hk, h0]

/-- A header of the stream's own is entered where its begin conditions hold; while they do not, the stream waits (R16 to R18). -/
theorem enterSection_own {s : State} {k : Strm} {h : SecHdr} (hpc : (s.core.strm k).pc.toNat % 4 = 0)
    (hf : s.fetchHdr (s.core.strm k) (s.core.strm k).pc = .ok h) (hk : h.hk = 0xA) (h0 : h.len ≠ 0) (own : hdrFields h k = true)
    (out : (s.core.strm k).handler = false) (small : (s.core.strm k).ord < 2 ^ 32) :
    s.enterSection k =
      if beginOk s.core k h (s.core.strm k).ord = true then
        .ok (s.updK k fun y => { y with
          secBase := (s.core.strm k).pc, secLen := h.len, pc := wordAddr (s.core.strm k).pc (s.core.strm k).entIdx, atHdr := false
          ord := (s.core.strm k).ord + 1, entered := true, secDue := 0 })
      else .error .wait := by
  have few : ((s.core.strm k).ord ≥ 2 ^ 32) = False := eq_false (Nat.not_le.2 small)
  unfold State.enterSection
  cases hb : beginOk s.core k h (s.core.strm k).ord <;> simp only [few] <;> simp [hpc, hf, hk, h0, own, out, hb]

/-- The oldest section a stream has left may retire once its last result is due and none of its words' results stands in flight (R19). -/
theorem retirable_iff {s : State} {k : Strm} {l : LeftSec} {r : List LeftSec} (hl : (s.core.strm k).left = l :: r) :
    s.retirable k = true ↔ l.due ≤ s.now ∧ ∀ p ∈ s.core.pending, p.strm = k → l.due < p.due := by
  simp [State.retirable, hl]

/-- Settles O22: entry by the header's own checks, retirement by the landing of the section's results. -/
theorem sectionsAreEnteredAndRetire : Obligations.SectionsAreEnteredAndRetire := by
  unfold Obligations.SectionsAreEnteredAndRetire
  refine ⟨?_, ?_⟩
  · intro s k h x hl ha hpc hf hk
    refine ⟨fun h0 => ?_, fun h0 own out small => ?_⟩
    · rw [exec_sectionEntry hl ha, enterSection_zero hpc hf hk h0]
      exact ⟨_, rfl, by simp [StrmSt.stop], rfl⟩
    · rw [exec_sectionEntry hl ha, enterSection_own hpc hf hk h0 own out small]
      refine ⟨fun wait => ?_, fun enter => ?_⟩
      · rw [if_neg (show ¬ beginOk s.core k h x.ord = true by simp [wait])]; rfl
      · rw [if_pos enter]
        exact ⟨_, rfl, by simp [x, wordAddr], fun j hj => by simp [Core.strm_setStrm_other _ _ hj]⟩
  · intro s k l r run hl lands
    rw [show lands ↔ s.retirable k = true from (retirable_iff hl).symm]
    refine ⟨fun ok => ⟨_, if_pos (by simp [run, ok]), ?_⟩, fun no => if_neg (by simp [no])⟩
    cases k <;> simp_all [Core.strm, Core.setStrm]

/-! ### The join at a bank in back-off (R15, R77, R324) -/

/-- A job whose streams A and V have stopped and whose stream M waits at its RDZ. M has not seen the last write of `fmtb`, so the join has to
read the format table again, and the walk for that read begins at key 0, whose bank is in back-off. -/
def joinAtBank : State :=
  { State.reset with
    core := { (default : Core) with
      running := true, sa := StrmSt.idle, sv := StrmSt.idle
      sm := { StrmSt.idle with stopped := false, atRdz := true }, jobv := { (default : JobView) with fmtw := 1 } }
    banks := [(0, { (default : Bank) with backoff := some 0 })] }

/-- The join waits: M still stands at its RDZ. -/
theorem joinAtBank_waits : ∃ t, exec .rdzJoin joinAtBank = .next t ∧ (t.core.strm .m).atRdz = true := ⟨_, rfl, by decide⟩

/-- Refutes O23: with every stream stopped or at its RDZ and nothing in flight, the join still waits where the format table has to be read
again and the walk for it meets a bank in back-off (R77, R324). -/
theorem not_streamsJoinEndAndTakeEvents : ¬ Obligations.StreamsJoinEndAndTakeEvents := by
  unfold Obligations.StreamsJoinEndAndTakeEvents
  rintro ⟨join, -⟩
  obtain ⟨u, hu, -, left⟩ := (join joinAtBank).1 (by decide)
  obtain ⟨t, ht, waits⟩ := joinAtBank_waits
  obtain rfl : t = u := by rw [ht] at hu; exact Host.Outcome.next.inj hu
  exact absurd (left .m rfl).1 (by simp [waits])

/-! ### Numbers at a key, and fault domains -/

theorem leNat_append (a b : List Byte) : leNat (a ++ b) = leNat a + 256 ^ a.length * leNat b := by
  induction a with
  | nil => simp [leNat]
  | cons x r ih => simp only [List.cons_append, leNat, ih, List.length_cons, Nat.pow_succ]; ring

theorem bytesAt_append (s : State) (key m n : Nat) : s.bytesAt key (m + n) = s.bytesAt key m ++ s.bytesAt (key + m) n := by
  induction m generalizing key with
  | zero => simp [State.bytesAt]
  | succ m ih =>
    rw [show m + 1 + n = (m + n) + 1 by omega, show key + (m + 1) = key + 1 + m by omega]
    simp only [State.bytesAt, ih, List.cons_append]

/-- A number is its low bytes and, above them, its high ones (R4). -/
theorem natAt_append (s : State) (key m n : Nat) : s.natAt key (m + n) = s.natAt key m + 256 ^ m * s.natAt (key + m) n := by
  simp only [State.natAt, bytesAt_append, leNat_append, bytesAt_length]

/-- A number outside a range that alone has changed reads as before. -/
theorem natAt_sameMemoryBut {s u : State} {lo len : Nat} (same : s.sameMemoryBut lo len u) {key n : Nat}
    (out : key + n ≤ lo ∨ lo + len ≤ key) : u.natAt key n = s.natAt key n :=
  natAt_congr fun i hi => same (key + i) (by omega)

/-- A node that does not give FDOM hands its faults to its owner's domain (R350). -/
theorem faultDomain_owner {s : State} {fuel node owner : Nat} (flags : (s.natAt (node + 16) 2).testBit 0 = false)
    (up : s.natAt node 8 = owner) (some_ : owner ≠ 0) : s.faultDomain (fuel + 1) node = s.faultDomain fuel owner := by
  simp [State.faultDomain, flags, up, some_]

/-- A node without an owner is its own fault domain (R350). -/
theorem faultDomain_root {s : State} {fuel node : Nat} (up : s.natAt node 8 = 0) : s.faultDomain (fuel + 1) node = node := by
  simp [State.faultDomain, up]

@[simp] theorem writeMem_late (s : State) (key : Nat) (bs : List Byte) : (s.writeMem key bs).late = s.late := by
  obtain ⟨-, e⟩ | ⟨-, p, ds, e⟩ := writeMem_cases s key bs <;> rw [e]

@[simp] theorem writeRecord_late (s : State) (node : Nat) (r : FRec) : (s.writeRecord node r).late = s.late := by
  unfold State.writeRecord
  dsimp only
  split
  · rfl
  · split <;> simp [State.msix]

/-- A record is written at once, with nothing held back, or held back as the last of the held writes (R351, R357). -/
theorem postRecord_late (s : State) (node : Nat) (r : FRec) :
    (s.postRecord node r).late = [] ∨ (s.postRecord node r).late = s.late ++ [.record node r] := by
  unfold State.postRecord
  split
  · exact .inr rfl
  · exact .inl (by simp_all)

/-! ### An overrun below a node whose owner lies within it (R337, R350) -/

/-- A queue node at 0x8000 with a ring of four entries, whose owner field names an address within the node: 0x8050, where the ring's SIZE and
HEADX stand. The owner of 0x8050, read there, is `SIZE + 2^32 * HEADX`. Die 0 serves the node; a page of one byte at key 0 migrates. -/
def nested : State :=
  { State.reset.updDie 0 fun d => { d with root := 1, queues := [0x8000] } with
    mem := memWrite (memWrite [] 0x8000 (leBytes 8 0x8050)) 0x8050 (leBytes 4 4)
    migs := [{ (default : Mig) with pages := [{ (default : MigPage) with bytes := 1 }] }]
    host := { HostSt.reset with rdy := true } }

/-- The record of the overrun goes to node 4, the domain before HEADX moves, and is held there: its queue's frame is in migration. -/
theorem nested_overrun : ∃ t r, exec (.tailxWrite 0x8000 5) nested = .next t ∧ t.late = [.record 4 r] := ⟨_, _, rfl, rfl⟩

/-- Once TAILX is 5 and HEADX 1, whatever else has been done, the domain of the node is the one its owner field then leads to. -/
theorem nested_domain {u : State} (head : u.natAt 0x8054 4 = 1) (same : nested.sameMemoryBut 0x8054 8 u) :
    u.faultDomain treeDepth 0x8000 = 2 ^ 32 + 4 := by
  have outside : ∀ {key n : Nat}, key + n ≤ 0x8054 ∨ 0x8054 + 8 ≤ key → u.natAt key n = nested.natAt key n := natAt_sameMemoryBut same
  have owner : u.natAt 0x8050 8 = 2 ^ 32 + 4 := by
    rw [natAt_append u 0x8050 4 4, head, outside (by omega), show nested.natAt 0x8050 4 = 4 by decide +kernel]
    decide
  obtain ⟨fuel, hf⟩ : ∃ fuel, treeDepth = fuel + 3 := ⟨treeDepth - 3, (Nat.sub_add_cancel (by decide)).symm⟩
  have own : ∀ node ∈ [0x8000, 0x8050], (u.natAt (node + 16) 2).testBit 0 = false := by
    intro node h
    rw [outside (by simp at h; omega)]
    revert h node; decide +kernel
  calc u.faultDomain treeDepth 0x8000
      = u.faultDomain (fuel + 2) 0x8050 := by
        rw [hf, faultDomain_owner (own _ (by decide)) (outside (by omega)) (by decide +kernel)]; rfl
    _ = u.faultDomain (fuel + 1) (2 ^ 32 + 4) := faultDomain_owner (own _ (by decide)) owner (by decide)
    _ = 2 ^ 32 + 4 := faultDomain_root (by rw [outside (by omega)]; decide +kernel)

/-- Refutes O55: where the owner field of a queue node leads to an address within the node, the move of HEADX past an overrun's excess changes
the node's fault domain, and the record goes to the domain as it was before that move, not to the one that holds after it. -/
theorem not_scheduling : ¬ Obligations.Scheduling := by
  unfold Obligations.Scheduling
  intro all
  obtain ⟨-, -, tailx, -⟩ := all nested 0 0x8000 0 0 0 default (by decide) (by unfold State.alive; decide +kernel)
  obtain ⟨t, ht, u, -, head, same, e⟩ := (tailx (by decide) rfl (by decide +kernel) (by decide +kernel) 5 (by decide)).2 0 (by decide) (by decide +kernel)
    (by omega) (by decide +kernel)
  obtain ⟨t', r, ht', late⟩ := nested_overrun
  obtain rfl : t' = t := by rw [ht'] at ht; exact Host.Outcome.next.inj ht
  rw [e, nested_domain (by rw [head]; decide +kernel) same] at late
  rcases postRecord_late u (2 ^ 32 + 4) _ with h | h <;> rw [h] at late
  · cases late
  · have last := congrArg List.getLast? late
    simp at last

end Sys2Proof.Proofs
end

section
/-!
PROOFS. Tile loads and stores issue: what a translation's walk depends on (R323, R354), what a word has changed when its access is issued, the
memory port, a port's slots and the rows of a tile access (R9, R22, R30, R208, R215).
-/

namespace Sys2Proof.Proofs
open Sys2Proof Sys2Proof.Machine

/-! ### What a walk for a translation depends on (R323, R354) -/

/-- The state with another core under view and another next identity: memory, rows, dies and records see neither. -/
def onCore (s : State) (c : Core) (n : Nat) : State := { s with core := c, ids := n }

section
variable (s : State) (c : Core) (n : Nat)

theorem onCore_ite {p : Prop} [Decidable p] (a b : State) :
    onCore (if p then a else b) c n = if p then onCore a c n else onCore b c n := apply_ite (onCore · c n) p a b

theorem bytesAt_onCore (key k : Nat) : (onCore s c n).bytesAt key k = s.bytesAt key k := bytesAt_congr fun _ _ => rfl
@[simp] theorem natAt_onCore (key k : Nat) : (onCore s c n).natAt key k = s.natAt key k := natAt_congr fun _ _ => rfl

@[simp] theorem writeMem_onCore (key : Nat) (bs : List Byte) : (onCore s c n).writeMem key bs = onCore (s.writeMem key bs) c n := by
  unfold State.writeMem
  simp only [onCore_ite]
  rfl

@[simp] theorem faultDomain_onCore (fuel node : Nat) : (onCore s c n).faultDomain fuel node = s.faultDomain fuel node := by
  induction fuel generalizing node with
  | zero => rfl
  | succ fuel ih => simp only [State.faultDomain, natAt_onCore, ih]

@[simp] theorem writeRecord_onCore (node : Nat) (r : FRec) : (onCore s c n).writeRecord node r = onCore (s.writeRecord node r) c n := by
  unfold State.writeRecord
  simp only [natAt_onCore, show (onCore s c n).rseqs = s.rseqs from rfl, onCore_ite]
  have counted : ∀ x, ({ onCore s c n with rseqs := x } : State) = onCore { s with rseqs := x } c n := fun _ => rfl
  have signalled : ∀ (t : State) v, (onCore t c n).msix v = onCore (t.msix v) c n := fun _ _ => rfl
  simp only [counted, writeMem_onCore, ← onCore_ite, signalled]

@[simp] theorem recordHeld_onCore (node : Nat) : (onCore s c n).recordHeld node = s.recordHeld node := by
  simp only [State.recordHeld, natAt_onCore]
  rfl

@[simp] theorem postRecord_onCore (node : Nat) (r : FRec) : (onCore s c n).postRecord node r = onCore (s.postRecord node r) c n := by
  unfold State.postRecord
  simp only [recordHeld_onCore, writeRecord_onCore]
  rw [onCore_ite]
  rfl

theorem postRoot_onCore (d : Nat) (r : FRec) : (onCore s c n).postRoot d r = onCore (s.postRoot d r) c n := by
  unfold State.postRoot
  simp only [postRecord_onCore, onCore_ite]
  rfl

theorem rowAlert_onCore (key r : Nat) : (onCore s c n).rowAlert key r = onCore (s.rowAlert key r) c n := by
  have banks : ∀ x, ({ onCore s c n with banks := x } : State) = onCore { s with banks := x } c n := fun _ => rfl
  unfold State.rowAlert
  simp only [banks, postRoot_onCore, onCore_ite]
  rfl

theorem touchRow_onCore (key : Nat) : (onCore s c n).touchRow key = onCore (s.touchRow key) c n := by
  have banks : ∀ x, ({ onCore s c n with banks := x } : State) = onCore { s with banks := x } c n := fun _ => rfl
  unfold State.touchRow State.useStripe
  simp only [banks, rowAlert_onCore, onCore_ite]
  rfl

theorem touchRows_onCore (l : List Nat) : (onCore s c n).touchRows l = onCore (s.touchRows l) c n := by
  induction l generalizing s with
  | nil => rfl
  | cons k r ih => simp only [State.touchRows, touchRow_onCore, ih]

@[simp] theorem walk_onCore (ptb va : Nat) : (onCore s c n).walk ptb va = s.walk ptb va := by
  simp only [State.walk, natAt_onCore]
@[simp] theorem walkKeys_onCore (ptb va : Nat) : (onCore s c n).walkKeys ptb va = s.walkKeys ptb va := by
  simp only [State.walkKeys, natAt_onCore]

end

/-- Two states that differ in the core under view and the next identity alone, and whose streams translate alike: the same translation
buffer and views, the same place in the package. -/
structure WalksAlike (s t : State) : Prop where
  rest : t = onCore s t.core t.ids
  tlb : t.core.tlb = s.core.tlb
  did : t.core.did = s.core.did
  cid : t.core.cid = s.core.cid
  view : ∀ k, (t.core.strm k).view = (s.core.strm k).view

theorem served_core {s t : State} (h : s.served t) : t.core = s.core := by
  obtain ⟨_, _, _, _, _, _, _, _, rfl⟩ := h
  rfl

/-- States that differ from two that translate alike in what no translation sees still do. -/
theorem WalksAlike.carried {s t u : State} (h : WalksAlike s t) (e : u.core = s.core) : WalksAlike u (onCore u t.core t.ids) :=
  ⟨rfl, e ▸ h.tlb, e ▸ h.did, e ▸ h.cid, e ▸ h.view⟩

theorem WalksAlike.ptb {s t : State} (h : WalksAlike s t) : t.ptb = s.ptb := by
  unfold State.ptb State.strm
  rw [h.view, show t.cur = s.cur by rw [h.rest]; rfl]

theorem WalksAlike.leafOf {s t : State} (h : WalksAlike s t) (ptb va : Nat) : t.leafOf ptb va = s.leafOf ptb va := by
  have cached : t.cachedLeaf ptb va = s.cachedLeaf ptb va := by
    unfold State.cachedLeaf
    rw [h.tlb, h.did, h.cid, show t.die s.core.did = s.die s.core.did by rw [h.rest]; rfl]
  unfold State.leafOf
  rw [cached, h.rest, walk_onCore]

/-- Two cores that keep the same leaf and count alike still translate alike. -/
theorem WalksAlike.updC {s t : State} (h : WalksAlike s t) {f : Core → Core}
    (hf : ∀ c, (f c).did = c.did ∧ (f c).cid = c.cid ∧ ∀ k, (f c).strm k = c.strm k) (tlb : ∀ c d, d.tlb = c.tlb → (f d).tlb = (f c).tlb) :
    WalksAlike (s.updC f) (t.updC f) where
  rest := by conv_lhs => rw [h.rest]
             rfl
  tlb := tlb _ _ h.tlb
  did := by simp only [State.updC_core, (hf _).1, h.did]
  cid := by simp only [State.updC_core, (hf _).2.1, h.cid]
  view := fun k => by simp only [State.updC_core, (hf _).2.2, h.view]

/-- A miss and a walk add to the core's counters alone (R304). -/
theorem countMiss_frame (miss walked : Bool) (c : Core) : ∃ p, (if walked = true then (if miss = true then c.count 8 1 else c).count 9 1
    else if miss = true then c.count 8 1 else c) = { c with pmc := p } := by
  obtain ⟨p, hp⟩ := countIf_frame miss 8 c
  rw [hp]
  exact countIf_frame walked 9 { c with pmc := p }

/-- Keeping a translation treats alike two states that translate alike: the same leaf, found by the same walk, enters the same buffers (R354). -/
theorem WalksAlike.fillTlb {s t : State} (h : WalksAlike s t) (va : Nat) : WalksAlike (s.fillTlb va) (t.fillTlb va) := by
  unfold State.fillTlb
  rw [h.ptb]
  extract_lets ptb cl cl'
  rw [show cl' = cl from congrArg (· / 4) h.cid, h.leafOf]
  split
  · exact h
  · split
    · exact h
    · rw [h.tlb, h.did, show t.die s.core.did = s.die s.core.did by rw [h.rest]; rfl]
      extract_lets u add miss walked s0 s1 t0 t1
      have e0 : t0 = onCore s0 t.core t.ids := by
        unfold t0 s0
        rw [onCore_ite, ← touchRows_onCore, ← h.rest, ← walkKeys_onCore s t.core t.ids, ← h.rest]
      have e1 : s1.core = s.core := served_core (t := s0) (ite_both (P := s.served) (served_touchRows s _) (served_refl s))
      have e2 : t1 = onCore s1 t.core t.ids := by unfold t1 s1; rw [e0]; rfl
      have h1 : WalksAlike s1 t1 := e2 ▸ h.carried e1
      clear e0 e1 e2
      clear_value s1 t1 miss walked add
      refine h1.updC (fun c => ?_) (fun c d e => ?_) <;> dsimp only
      · obtain ⟨p, hp⟩ := countMiss_frame miss walked c
        rw [hp]
        exact ⟨rfl, rfl, fun k => by cases k <;> rfl⟩
      · obtain ⟨p, hp⟩ := countMiss_frame miss walked c
        obtain ⟨q, hq⟩ := countMiss_frame miss walked d
        rw [hp, hq]
        exact congrArg (add 64) e

theorem WalksAlike.fillTlbs {s t : State} (h : WalksAlike s t) (vas : List Nat) : WalksAlike (s.fillTlbs vas) (t.fillTlbs vas) := by
  unfold State.fillTlbs
  generalize (vas.map (· / 65536)).dedup = pages
  induction pages generalizing s t with
  | nil => exact h
  | cons a r ih => exact ih (h.fillTlb _)

/-! ### What a word has changed when its access is issued (R208, R212, R215) -/

/-- What a word has changed by the time its access is issued: queues, ports, the memory port, tokens and the next identity at most. -/
def AtIssue (s v : State) : Prop :=
  ∃ p q from_ busy wait ta tv tm n, v = { s with
    core := { s.core with ports := p, queues := q, portFrom := from_, portBusy := busy, portQ := wait, sa := { s.core.sa with tokens := ta }
                          sv := { s.core.sv with tokens := tv }, sm := { s.core.sm with tokens := tm } }
    ids := n }

theorem AtIssue.trans {s u v : State} (h : AtIssue s u) (g : AtIssue u v) : AtIssue s v := by
  obtain ⟨_, _, _, _, _, _, _, _, _, rfl⟩ := h
  obtain ⟨_, _, _, _, _, _, _, _, _, rfl⟩ := g
  exact ⟨_, _, _, _, _, _, _, _, _, rfl⟩

/-- Reading operands and reserving slots changes queues, ports and the next identity (R30, R37). -/
theorem atIssue_operands (s : State) (p : Sparse Port) (q : Sparse (List QSlot)) (n : Nat) :
    AtIssue s { s with core := { s.core with ports := p, queues := q }, ids := n } := ⟨_, _, _, _, _, _, _, _, _, rfl⟩

theorem atIssue_holdPort (s : State) (u : PortUser) (lead cycles : Nat) : AtIssue s (s.holdPort u lead cycles) :=
  ⟨_, _, _, _, _, _, _, _, _, rfl⟩

theorem atIssue_joinIf (s : State) (tke : Bool) (n : Nat) (opn : Bool) : AtIssue s (s.joinIf tke n opn).2 := by
  cases tke with
  | false => exact ⟨_, _, _, _, _, _, _, _, _, rfl⟩
  | true =>
    obtain ⟨t, e⟩ := joinTok_frame s n opn
    rw [show (s.joinIf true n opn).2 = (s.joinTok n opn).2 from rfl, e]
    show AtIssue s { s.updK s.cur (fun x => x.setToken n t) with ids := s.ids + 1 }
    cases s.cur <;> exact ⟨_, _, _, _, _, _, _, _, _, rfl⟩

/-- Keeping translations changes the core's translation buffer and counters alone. -/
theorem fillTlbs_core (s : State) (vas : List Nat) : ∃ tlb pmc, (s.fillTlbs vas).core = { s.core with tlb := tlb, pmc := pmc } := by
  obtain ⟨tlb, pmc, t, -, e⟩ := fillTlbs_frame s vas
  exact ⟨tlb, pmc, by rw [e]⟩

/-- An access issued: it stands in the list with the word's own identity, registers and scalars are as before, and memory is as the walks for
its addresses leave it (R100, R354). -/
theorem AtIssue.addOpAt {s v : State} (h : AtIssue s v) (cls : Nat) (kinds : BitVec 6) (va : Nat) (vas : List (Nat × Nat)) (body : MBody)
    (tok : Option TokRef) : let x := v.addOpAt cls kinds va vas body tok 0
    s.sameDataAt x (vas.map (·.2)) ∧ s.sameScalars x ∧ x.core.portBusy = v.core.portBusy ∧ x.core.ports = v.core.ports ∧
      s.issuedAt x cls kinds va vas body tok 0 := by
  intro x
  obtain ⟨u, hx, hu⟩ : ∃ u, x = u.fillTlbs (vas.map (·.2)) ∧
      ∃ b o n, u = ({ v with core := { v.core with banks := b, ops := o }, ids := n } : State) := ⟨_, rfl, _, _, _, rfl⟩
  obtain ⟨alike, regs, scalars, port⟩ : WalksAlike s u ∧
      (u.core.vregs = s.core.vregs ∧ u.core.masks = s.core.masks ∧ u.core.tiles = s.core.tiles ∧ u.core.rng = s.core.rng ∧
        u.core.jobv = s.core.jobv) ∧
      (∀ k, (u.core.strm k).sregs = (s.core.strm k).sregs) ∧ u.core.portBusy = v.core.portBusy ∧ u.core.ports = v.core.ports := by
    obtain ⟨p, q, from_, busy, wait, ta, tv, tm, n, rfl⟩ := h
    obtain ⟨b, o, m, rfl⟩ := hu
    exact ⟨⟨rfl, rfl, rfl, rfl, fun k => by cases k <;> rfl⟩, ⟨rfl, rfl, rfl, rfl, rfl⟩, fun k => by cases k <;> rfl, rfl, rfl⟩
  have rest := (alike.fillTlbs (vas.map (·.2))).rest
  rw [← hx] at rest
  obtain ⟨tlb, pmc, cx⟩ := fillTlbs_core u (vas.map (·.2))
  rw [← hx] at cx
  obtain ⟨tlb', pmc', cs⟩ := fillTlbs_core s (vas.map (·.2))
  refine ⟨?_, fun k => ?_, by rw [cx]; exact port.1, by rw [cx]; exact port.2, v.ids, ?_⟩
  · obtain ⟨vregs, masks, tiles, rng, jobv⟩ := regs
    unfold State.sameDataAt State.sameData
    rw [cs, cx]
    refine ⟨?_, ?_, vregs, masks, tiles, rng, jobv, ?_, ?_, ?_⟩ <;> rw [rest] <;> rfl
  · rw [cx, ← scalars k]; cases k <;> rfl
  · rw [addOpAt_ops v cls kinds va vas body tok 0]
    obtain ⟨p, q, from_, busy, wait, ta, tv, tm, n, rfl⟩ := h
    unfold State.keepsBits State.strm
    cases s.cur <;> rfl

/-! ### The memory port and the token of a word (R9, R22, R96) -/

theorem portFree_iff {s : State} {u : PortUser} {n : Nat} : s.portFree u n = true ↔ s.portOpen u n := by
  simp [State.portFree, State.portOpen, Core.portWaits, Option.all_eq_true]

/-- Where the port is free the word takes it and goes on; where it is not, the word stands at it (R9, R22). -/
theorem withPort_open {s s1 : State} {u : PortUser} {n : Nat} {go : State → Res State} (h : s.portOpen u n) :
    s.withPort u 0 n s1 go = go (s1.holdPort u 0 n) := by
  simp [State.withPort, portFree_iff.2 h]
theorem withPort_busy {s s1 : State} {u : PortUser} {n : Nat} {go : State → Res State} (h : ¬ s.portOpen u n) :
    s.withPort u 0 n s1 go = .ok (s.standAtPort u) := by
  simp [State.withPort, mt portFree_iff.1 h]

/-- A port that is free is held for the cycles the user takes (R9, R212). -/
theorem holdPort_busy {s : State} {u : PortUser} {n : Nat} (h : s.core.portBusy ≤ s.now) :
    (s.holdPort u 0 n).core.portBusy = s.now + n := by
  simp [State.holdPort, Nat.not_lt.2 h]

theorem joinW_room {s : State} {w : Wm} (h : s.batchRoom w) : s.joinW w = .ok (s.joinIf w.tke w.tk.toNat w.opn) := by
  unfold State.joinW State.joinWord
  refine if_neg fun full => ?_
  rw [Bool.and_eq_true] at full
  simp [h full.1] at full

/-- The reference a word gets is one of its own token (R96). -/
theorem joinIf_joinsBatch (s : State) (w : Wm) : s.joinsBatch w (s.joinIf w.tke w.tk.toNat w.opn).1 := by
  constructor <;> intro e <;> rw [e]
  · rfl
  · exact ⟨_, rfl, rfl, rfl⟩

/-! ### The rows of a tile access (R208, R215) -/

theorem rangeCheck_ok {va n : Nat} (h : va < 2 ^ 52) (g : resHi ≤ va ∨ va + n ≤ winHi) : rangeCheck va n = .ok () := by
  unfold rangeCheck
  rw [trapIf_ok]
  rw [Bool.or_eq_false_iff, Bool.and_eq_false_iff]
  simp only [decide_eq_false_iff_not]
  omega

theorem tileRows_ok {s : State} {acc : Acc} {ea stride : Word} {k n : Nat} {rows : List (Nat × Nat)}
    (numbers : rows.map (·.1) = List.range' k n)
    (each : ∀ p ∈ rows, let va := (ea + BitVec.ofNat 64 p.1 * stride).toNat
      va < 2 ^ 52 ∧ (resHi ≤ va ∨ va + 128 ≤ winHi) ∧ s.xlate va acc = .ok p.2) :
    s.tileRows acc ea stride k n = .ok rows := by
  induction n generalizing k rows with
  | zero => simp_all [State.tileRows]
  | succ n ih =>
    obtain ⟨p, r, rfl, rfl, hr⟩ : ∃ p r, rows = p :: r ∧ p.1 = k ∧ r.map (·.1) = List.range' (k + 1) n := by
      cases rows with
      | nil => simp at numbers
      | cons p r => exact ⟨p, r, rfl, by simpa [List.range'_succ] using numbers⟩
    obtain ⟨low, out, key⟩ := each p (by simp)
    simp only [State.tileRows, rangeCheck_ok low out, key, ih hr fun q hq => each q (by simp [hq]), res_ok_bind]

theorem tileAddr_ok {s : State} {w : Wm} {acc : Acc} {a b : Word} {rows : List (Nat × Nat)}
    (grid : (a + sext64 w.disp).toNat % 128 = 0 ∧ (rowStride w b).toNat % 128 = 0)
    (h : s.rowsAt acc (a + sext64 w.disp) (rowStride w b) (16 * 2 ^ w.sz.toNat) rows) : s.tileAddr w acc a b = .ok rows := by
  obtain ⟨numbers, each⟩ := h
  have first : ∃ p ∈ rows, p.1 = 0 := by
    have : 0 ∈ rows.map (·.1) := by rw [numbers]; simp
    simpa using this
  obtain ⟨p, hp, h0⟩ := first
  obtain ⟨low, out, -⟩ := each p hp
  rw [h0, show a + sext64 w.disp + BitVec.ofNat 64 0 * rowStride w b = a + sext64 w.disp by simp] at low out
  unfold State.tileAddr
  simp only [rangeCheck_ok low out, grid, res_ok_bind, tileRows_ok (numbers.trans List.range_eq_range') each]
  rfl

theorem tileAddr_grid {s : State} {w : Wm} {acc : Acc} {a b : Word} (low : (a + sext64 w.disp).toNat < 2 ^ 52)
    (out : resHi ≤ (a + sext64 w.disp).toNat ∨ (a + sext64 w.disp).toNat + 128 ≤ winHi)
    (grid : ¬ ((a + sext64 w.disp).toNat % 128 = 0 ∧ (rowStride w b).toNat % 128 = 0)) :
    s.tileAddr w acc a b = .error (.trap { code := .alignment, addr := (a + sext64 w.disp).toNat }) := by
  have off : ((a + sext64 w.disp).toNat % 128 != 0 || (rowStride w b).toNat % 128 != 0) = true := by
    simp only [Bool.or_eq_true, bne_iff_ne]; tauto
  unfold State.tileAddr
  simp only [rangeCheck_ok low out, off, res_ok_bind]
  rfl

theorem joinIf_core (s : State) (tke : Bool) (n : Nat) (opn : Bool) :
    (s.joinIf tke n opn).2.core.ports = s.core.ports ∧ (s.joinIf tke n opn).2.core.portBusy = s.core.portBusy := by
  cases tke with
  | false => exact ⟨rfl, rfl⟩
  | true =>
    obtain ⟨t, e⟩ := joinTok_frame s n opn
    rw [show (s.joinIf true n opn).2 = (s.joinTok n opn).2 from rfl, e]
    exact ⟨Core.setStrm_ports .., Core.setStrm_portBusy ..⟩

/-- Slots of a port with room for them are reserved at its end, in order; the other ports are as before (R30, R316). -/
theorem reservePort_room {s : State} {p n : Nat} (room : (s.core.port p).slots.length + n ≤ 4) :
    ∃ ids t, s.reservePort p n = .ok (ids, t) ∧ ids.length = n ∧ (t.core.port p).slots = (s.core.port p).slots ++ ids.map .res ∧
      ∀ q, q ≠ p → t.core.port q = s.core.port q := by
  induction n generalizing s with
  | zero => exact ⟨[], s, rfl, rfl, by simp, fun _ _ => rfl⟩
  | succ n ih =>
    let u := s.fresh.2.updC fun c => c.setPort p { s.core.port p with slots := (s.core.port p).slots ++ [.res s.ids] }
    have same : u.core.port p = { s.core.port p with slots := (s.core.port p).slots ++ [.res s.ids] } :=
      (Core.port_setPort ..).trans (if_pos rfl)
    obtain ⟨ids, t, ht, len, slots, others⟩ := ih (s := u) (by rw [same]; simp; omega)
    refine ⟨s.ids :: ids, t, ?_, by simp [len], by simp [slots, same], fun q hq => ?_⟩
    · dsimp only [u, State.fresh] at ht
      simp only [State.reservePort, State.fresh, if_neg (show ¬ 4 ≤ (s.core.port p).slots.length by omega), ht]
    · rw [others q hq]
      exact (Core.port_setPort ..).trans (if_neg hq)

/-- A word that has read its operands takes the port and joins its token's batch (R9, R40, R96). -/
theorem takesPort {s t : State} {w : Wm} (n : Nat) (read : ∃ p q, t = { s with core := { s.core with ports := p, queues := q } })
    (room : s.batchRoom w) :
    ∃ tok v, (t.holdPort (.strm .a) 0 n).joinW w = .ok (tok, v) ∧ s.joinsBatch w tok ∧ AtIssue s v ∧
      (s.core.portBusy ≤ s.now → v.core.portBusy = s.now + n) ∧ v.core.ports = t.core.ports := by
  obtain ⟨p, q, rfl⟩ := read
  generalize hu : State.holdPort _ (.strm .a) 0 n = u
  have strm : u.strm = s.strm := by
    rw [← hu]; show Core.strm _ s.cur = Core.strm _ s.cur
    cases s.cur <;> rfl
  refine ⟨(u.joinIf w.tke w.tk.toNat w.opn).1, (u.joinIf w.tke w.tk.toNat w.opn).2, joinW_room (by unfold State.batchRoom; rwa [strm]),
    ?_, ?_, fun free => ?_, ?_⟩
  · have := joinIf_joinsBatch u w
    unfold State.joinsBatch at *
    rwa [show u.cur = s.cur by rw [← hu]; rfl] at this
  · exact ((atIssue_operands s p q s.ids).trans (hu ▸ atIssue_holdPort _ _ _ _)).trans (atIssue_joinIf ..)
  · rw [(joinIf_core ..).2, ← hu]
    exact holdPort_busy free
  · rw [(joinIf_core ..).1, ← hu]
    rfl

/-! ### Tile loads and stores issue (R9, R208, R215) -/

/-- A tile access whose word reads A and B as `a` and `b` issues: the port held, the operation in a batch of the word's token, data and scalars
as before, and `also` of the state it leaves. -/
def TileIssues (i : Instr) (s : State) (w : Wm) (a b : Word) (kinds : BitVec 6) (body : MBody) (also : State → Prop) : Prop :=
  Retires i s 1 fun x => s.sameDataAt x ((tileVas w a b).map (·.2)) ∧ s.sameScalars x ∧
    (s.core.portBusy ≤ s.now → x.core.portBusy = s.now + 8 * 2 ^ w.sz.toNat) ∧ also x ∧
    ∃ tok, s.joinsBatch w tok ∧ s.issuedAt x w.cls.toNat kinds (effAddr w a) (tileVas w a b) body tok 0

/-- A word that ends with its tile access issued, by a state that differs from the first as `AtIssue` says. -/
theorem tileIssues_of {i : Instr} {s v : State} {w : Wm} {a b : Word} {kinds : BitVec 6} {body : MBody} {tok : Option TokRef}
    {also : State → Prop}
    (next : exec i s = .next ((v.addOpAt w.cls.toNat kinds (effAddr w a) (tileVas w a b) body tok 0).retire 1)) (at_ : AtIssue s v)
    (joins : s.joinsBatch w tok) (held : s.core.portBusy ≤ s.now → v.core.portBusy = s.now + 8 * 2 ^ w.sz.toNat)
    (ports : ∀ x : State, x.core.ports = v.core.ports → also x) : TileIssues i s w a b kinds body also := by
  obtain ⟨data, scalars, busy, slots, issued⟩ := at_.addOpAt w.cls.toNat kinds (effAddr w a) (tileVas w a b) body tok
  exact ⟨_, next, data, scalars, fun free => busy.trans (held free), ports _ slots, tok, joins, issued⟩

section
variable {s t : State} {w : Wm} {a b c : Word} {rows : List (Nat × Nat)}

theorem ldv_issues (ht : s.takes (shTile w true (vr w) .sSrc .sSrc .none) a b c t) (hr : s.tileAddr w .rd a b = .ok rows)
    (free : s.portOpen (.strm .a) (8 * 2 ^ w.sz.toNat)) (shadow : s.shadow (shTile w true (vr w) .sSrc .sSrc .none) = .ok ())
    (room : s.batchRoom w) :
    TileIssues (.ldv w) s w a b 1 (.ldv rows (s.physRange w.d.toNat (2 ^ w.sz.toNat)) (s.pred w.toHd))
      fun x => x.core.ports = s.core.ports := by
  obtain ⟨⟨static, await⟩, sources⟩ := ht
  obtain ⟨q, rfl⟩ := sources_frame sources
  obtain ⟨tok, v, join, joins, at_, held, ports⟩ := takesPort (8 * 2 ^ w.sz.toNat) ⟨s.core.ports, q, rfl⟩ room
  refine tileIssues_of ?_ at_ joins held fun x e => e.trans ports
  show outcome s (s.ldvWord w) = _
  unfold State.ldvWord
  simp only [static, sources, hr, show s.await w.toHd = .ok () from await, res_ok_bind, withPort_open free]
  rw [join]
  simp only [shadow, res_ok_bind]
  rfl

/-- While the port is not free LDV stands at it (R9, R22). -/
theorem ldv_waits (ht : s.takes (shTile w true (vr w) .sSrc .sSrc .none) a b c t) (hr : s.tileAddr w .rd a b = .ok rows)
    (busy : ¬ s.portOpen (.strm .a) (8 * 2 ^ w.sz.toNat)) : exec (.ldv w) s = .next (s.standAtPort (.strm .a)) := by
  obtain ⟨⟨static, await⟩, sources⟩ := ht
  show outcome s (s.ldvWord w) = _
  unfold State.ldvWord
  simp only [static, sources, hr, show s.await w.toHd = .ok () from await, res_ok_bind, withPort_busy busy]
  rfl

/-- The address of LDV is checked before the word waits for anything (R174, R208). -/
theorem ldv_faults {f : FaultInfo} (ht : s.takes (shTile w true (vr w) .sSrc .sSrc .none) a b c t)
    (hr : s.tileAddr w .rd a b = .error (.trap f)) (real : f.code ≠ .noBacking) : Faults (.ldv w) s f := by
  obtain ⟨⟨static, -⟩, sources⟩ := ht
  show outcome s (s.ldvWord w) = _
  unfold State.ldvWord
  simp only [static, sources, hr, res_ok_bind, res_error_bind, outcome_trap]
  exact takeFault_next real s

theorem ldvp_issues (ht : s.takes (shTile w false (.portOf true (2 ^ w.sz.toNat)) .sSrc .sSrc .none) a b c t)
    (hr : s.tileAddr w .rd a b = .ok rows) (free : s.portOpen (.strm .a) (8 * 2 ^ w.sz.toNat))
    (shadow : s.shadow (shTile w false (.portOf true (2 ^ w.sz.toNat)) .sSrc .sSrc .none) = .ok ()) (room : s.batchRoom w)
    (slotsFree : (s.core.port (portIx w.d)).slots.length + 2 ^ w.sz.toNat ≤ 4) :
    ∃ slots : List Nat, slots.length = 2 ^ w.sz.toNat ∧
      TileIssues (.ldvp w) s w a b 1 (.ldvp rows (portIx w.d) slots (s.pred w.toHd) (List.replicate (2 ^ w.sz.toNat) [])) fun x =>
        (x.core.port (portIx w.d)).slots = (s.core.port (portIx w.d)).slots ++ slots.map .res ∧
        ∀ q, q ≠ portIx w.d → x.core.port q = s.core.port q := by
  obtain ⟨⟨static, await⟩, sources⟩ := ht
  obtain ⟨q, rfl⟩ := sources_frame sources
  obtain ⟨tok, v, join, joins, at_, held, ports⟩ := takesPort (8 * 2 ^ w.sz.toNat) ⟨s.core.ports, q, rfl⟩ room
  have port : ∀ n, v.core.port n = s.core.port n := fun n => congrArg (Sparse.get · n) ports
  obtain ⟨slots, u, reserve, len, mine, others⟩ := reservePort_room (s := v) (p := portIx w.d) (n := 2 ^ w.sz.toNat) (by rwa [port])
  obtain ⟨-, p', m, rfl⟩ := reservePort_frame reserve
  refine ⟨slots, len, tileIssues_of ?_ (at_.trans (atIssue_operands v p' v.core.queues m)) joins held fun x e => ?_⟩
  · show outcome s (s.ldvpWord w) = _
    unfold State.ldvpWord
    simp only [static, sources, hr, show s.await w.toHd = .ok () from await, res_ok_bind, withPort_open free]
    rw [join]
    simp only [reserve, shadow, res_ok_bind]
    rfl
  · have same : ∀ n, x.core.port n = _ := fun n => congrArg (Sparse.get · n) e
    exact ⟨by rw [same, ← port]; exact mine, fun n hn => by rw [same, ← port]; exact others n hn⟩

/-- STV and STVP: a store of the registers, or of the tiles popped, that field C names (R215). -/
theorem store_issues {t1 : State} {i : Instr} {o : OpK} {tiles : List VReg} (hx : ∀ s, exec i s = outcome s (s.stvWord w o))
    (ht : s.takesOf (shTile w false .none .sSrc .sSrc o) { shTile w false .none .sSrc .sSrc o with c := .none } a b c t)
    (hr : s.tileAddr w .wr a b = .ok rows) (free : s.portOpen (.strm .a) (8 * 2 ^ w.sz.toNat))
    (shadow : s.shadow (shTile w false .none .sSrc .sSrc o) = .ok ()) (room : s.batchRoom w)
    (read : t.readV w.c (2 ^ w.sz.toNat) = .ok (.tiles tiles, t1)) :
    TileIssues i s w a b 2 (.stv rows tiles (s.pred w.toHd)) fun x => x.core.ports = t1.core.ports := by
  obtain ⟨⟨static, await⟩, sources⟩ := ht
  obtain ⟨q, rfl⟩ := sources_frame sources
  obtain ⟨p, q', rfl⟩ := readV_frame read
  obtain ⟨tok, v, join, joins, at_, held, ports⟩ := takesPort (8 * 2 ^ w.sz.toNat) ⟨p, q', rfl⟩ room
  refine tileIssues_of ?_ at_ joins held fun x e => e.trans ports
  rw [hx]
  unfold State.stvWord
  simp only [static, sources, hr, show s.await w.toHd = .ok () from await, read, res_ok_bind, withPort_open free]
  rw [join]
  simp only [shadow, res_ok_bind]
  rfl

end

/-- Settles O27: each word's rows are checked and translated, its operands read, the port and a batch taken, and one access more stands in the
list. -/
theorem tileAccessesIssue : Obligations.TileAccessesIssue := by
  unfold Obligations.TileAccessesIssue
  intro w s t t1 a b c rows ea stride n p grid vas free ready issues ld ldp store
  have stores : ∀ (i : Instr) (o : OpK), (∀ s, exec i s = outcome s (s.stvWord w o)) → store i o :=
    fun i o hx ht v hg hr ⟨shadow, hf, room⟩ read => store_issues hx ht (tileAddr_ok hg hr) hf shadow room read
  refine ⟨fun ht => ⟨fun hg hr ⟨shadow, hf, room⟩ => ?_, fun hg hr hf => ?_, fun low out hg => ?_⟩, fun ht hg hr ⟨shadow, hf, room⟩ slots => ?_,
    stores _ _ fun _ => rfl, stores _ _ fun _ => rfl⟩
  · exact ldv_issues ht (tileAddr_ok hg hr) hf shadow room
  · exact ldv_waits ht (tileAddr_ok hg hr) hf
  · exact ldv_faults ht (tileAddr_grid low out hg) (show FCode.alignment ≠ .noBacking by decide)
  · exact ldvp_issues ht (tileAddr_ok hg hr) hf shadow room slots

end Sys2Proof.Proofs
end

section
/-!
PROOFS. Scalars and scalar queues: what a read gives after a write, and what a word of one scalar result leaves alone (R37, R38, R180, R182).
-/

namespace Sys2Proof.Proofs
open Sys2Proof Sys2Proof.Machine

/-! ### Fields that name a scalar or a queue (R28, R37, R38) -/

theorem isS_iff {f : OpField} : isS f = true ↔ 696 ≤ f.toNat ∧ f.toNat < 728 := by simp [isS]
theorem isQ_iff {f : OpField} : isQ f = true ↔ 728 ≤ f.toNat ∧ f.toNat < 732 := by simp [isQ]

theorem isS_of_isQ {f : OpField} (h : isQ f = true) : isS f = false := by
  rw [isQ_iff] at h
  exact Bool.eq_false_iff.2 fun g => by rw [isS_iff] at g; omega

theorem isS_zero {f : OpField} (h : f.toNat = 696) : isS f = true := isS_iff.2 (by omega)

/-- Two scalars are the same where their numbers are (R28). -/
theorem scalIx_inj {f g : OpField} (hf : isS f = true) (hg : isS g = true) (e : scalIx g = scalIx f) : g = f := by
  rw [isS_iff] at hf hg
  unfold scalIx at e
  exact BitVec.eq_of_toNat_eq (by omega)

/-! ### A read after a write (R37, R38, R182) -/

/-- A scalar reads as it stands from the cycle its last result is ready, where it awaits none (R37). -/
theorem readS_scalar {s : State} {f : OpField} (hf : isS f = true) :
    s.readS f = if s.strm.ready? (scalIx f) s.now = true then .ok (s.strm.sreg (scalIx f), s) else .error .wait := if_pos hf

/-- A queue gives its oldest value from the cycle it is ready (R38). -/
theorem readS_queue {s : State} {f : OpField} {v : Word} {at_ : Nat} {r : List QSlot} (hf : isQ f = true)
    (hq : s.core.queue (queueIx f) = .val v at_ :: r) :
    s.readS f = if at_ ≤ s.now then .ok (v, s.updC fun c => c.setQueue (queueIx f) r) else .error .wait := by
  simp [State.readS, isS_of_isQ hf, hq]

theorem readS_queue_empty {s : State} {f : OpField} (hf : isQ f = true) (hq : s.core.queue (queueIx f) = []) :
    s.readS f = .error .wait := by
  simp [State.readS, isS_of_isQ hf, hq]

theorem writeS_queue {s : State} {f : OpField} (v : Word) (cost : Nat) (hf : isQ f = true) :
    s.writeS f v cost = if (s.core.queue (queueIx f)).length < 16
      then .ok (s.updC fun c => c.setQueue (queueIx f) (s.core.queue (queueIx f) ++ [.val v (s.now + cost)])) else .error .wait := by
  simp [State.writeS, isS_of_isQ hf]

/-- A scalar written: it holds its value and the cycle it is ready, it awaits no other result, and the stream's other scalars are as before
(R37, R182). -/
theorem writeS_scalar {s t : State} {f : OpField} {v : Word} {cost : Nat} (hf : isS f = true) (h0 : f.toNat ≠ 696)
    (h : s.writeS f v cost = .ok t) :
    scalIx f ≠ 0 ∧ scalIx f ∉ s.strm.busy ∧ t.strm.busy = s.strm.busy ∧ t.cur = s.cur ∧ t.core.did = s.core.did ∧
      (∀ j, t.strm.sreg j = if j = scalIx f then v else s.strm.sreg j) ∧
      ∀ j, Sparse.get t.strm.ready j =
        if j = scalIx f then max (Sparse.get s.strm.ready (scalIx f)) (s.now + cost) else Sparse.get s.strm.ready j := by
  have nz : scalIx f ≠ 0 := by rw [isS_iff] at hf; unfold scalIx; omega
  obtain ⟨-, z, -⟩ | ⟨-, -, idle, rfl⟩ | ⟨q, -⟩ := writeS_cases h
  · exact absurd z nz
  · rw [State.strm_upd]
    generalize scalIx f = n at *
    exact ⟨nz, by simpa using idle, StrmSt.setSreg_busy .., rfl, Core.setStrm_did .., fun j => StrmSt.sreg_setSreg s.strm n j v nz,
      fun j => sparse_get_set ..⟩
  · simp [hf] at q

/-- A scalar may be read once it awaits no result and its last one is ready (R37, R182). -/
theorem ready_iff {x : StrmSt} {n now : Nat} (h : n ≠ 0) : x.ready? n now = true ↔ n ∉ x.busy ∧ Sparse.get x.ready n ≤ now := by
  simp [StrmSt.ready?, h]

/-- The stream that issues depends on the core under view and the stream's name alone. -/
theorem strm_of_core {x t : State} (hc : x.core = t.core) (hk : x.cur = t.cur) : x.strm = t.strm := by
  unfold State.strm; rw [hc, hk]

/-- The cycle depends on the core's die and the dies alone (R26). -/
theorem now_of_dies {x t : State} (hc : x.core.did = t.core.did) (hd : x.dies = t.dies) : x.now = t.now := by
  unfold State.now State.die; rw [hc, hd]

/-- What a scalar reads as depends on its value, the cycle it is ready and the results it awaits. -/
theorem readsAs_congr {x t : State} {f : OpField} (hf : isS f = true) (value : x.strm.sreg (scalIx f) = t.strm.sreg (scalIx f))
    (ready : Sparse.get x.strm.ready (scalIx f) = Sparse.get t.strm.ready (scalIx f)) (busy : x.strm.busy = t.strm.busy) (now : x.now = t.now) :
    x.readsAs f = t.readsAs f := by
  have same : x.strm.ready? (scalIx f) x.now = t.strm.ready? (scalIx f) t.now := by unfold StrmSt.ready?; rw [ready, busy, now]
  unfold State.readsAs
  rw [readS_scalar hf, readS_scalar hf, same, value]
  split <;> rfl

/-- Settles O13: a read after a write of the same scalar, of another one, and the two ends of a queue. -/
theorem scalarsAndQueues : Obligations.ScalarsAndQueues := by
  unfold Obligations.ScalarsAndQueues
  intro s f v cost
  refine ⟨fun z => ?_, fun t hf h0 give x hc hk => ?_, writeS_queue v cost, fun r at_ hf hq => readS_queue hf hq, readS_queue_empty⟩
  · have ix : scalIx f = 0 := by unfold scalIx; omega
    simp [State.writeS, State.readS, isS_zero z, ix, StrmSt.ready?]
  · obtain ⟨nz, idle, busy, cur, did, value, due⟩ := writeS_scalar hf h0 give
    rw [← strm_of_core hc (hk.trans cur.symm)] at busy value due
    have ready : x.strm.ready? (scalIx f) x.now = true ↔ max (Sparse.get s.strm.ready (scalIx f)) (s.now + cost) ≤ x.now := by
      rw [ready_iff nz, busy, due, if_pos rfl]
      exact and_iff_right idle
    refine ⟨fun early => ?_, fun late old => ?_, fun g hg other => ?_⟩
    · rw [readS_scalar hf, if_neg fun r => Nat.not_le.2 early (max_le_iff.1 (ready.1 r)).2]
    · rw [readS_scalar hf, if_pos (ready.2 (max_le old late)), value, if_pos rfl]
    · have ne : scalIx g ≠ scalIx f := fun e => other (scalIx_inj hf hg e)
      exact readsAs_congr hg ((value _).trans (if_neg ne)) ((due _).trans (if_neg ne)) busy
        (now_of_dies ((congrArg Core.did hc).trans did) rfl)

/-! ### What a word of one scalar result leaves alone (R37, R180) -/

/-- A legal word's four operand fields are of the kinds its shape gives (R29, R174). -/
theorem static_kinds {s : State} {h : Shape} (e : s.static h = .ok ()) :
    h.d.ok s.cur h.hd.d = true ∧ h.a.ok s.cur h.hd.a = true ∧ h.b.ok s.cur h.hd.b = true ∧ h.c.ok s.cur h.hd.c = true := by
  unfold State.static State.operandsOk at e
  obtain ⟨-, e, -⟩ := res_stages e
  obtain ⟨-, e, -⟩ := res_stages e
  obtain ⟨-, e, -⟩ := res_stages e
  obtain ⟨-, e, -⟩ := res_stages e
  obtain ⟨_, -, kinds⟩ := res_stages e
  simpa [and_assoc] using trapIf_ok.1 kinds

/-- A field of a scalar or queue kind names a scalar or a queue (R28, R180). -/
theorem isQ_of_kind {k : OpK} {i : Strm} {f : OpField} (scalar : k = .sSrc ∨ k = .sReg ∨ k = .qSrc ∨ k = .sDst ∨ k = .qDst)
    (ok : k.ok i f = true) (no : isS f = false) : isQ f = true := by
  rcases scalar with rfl | rfl | rfl | rfl | rfl <;> simp_all [OpK.ok, srcOk, dstOk]

theorem queueIx_eq {f : OpField} {q : Nat} (hf : isQ f = true) (e : q = queueIx f) : 728 + q = f.toNat := by
  rw [isQ_iff] at hf; unfold queueIx at e; omega

/-- A source that the word uses pops no queue but the one it names (R30, R38). -/
theorem srcIf_queues {s t : State} {k : OpK} {f : OpField} {v : Word} (scalar : k = .none ∨ k = .sSrc ∨ k = .sReg ∨ k = .qSrc)
    {i : Strm} (ok : k.ok i f = true) (e : s.srcIf k f = .ok (v, t)) {q : Nat} (other : 728 + q ≠ f.toNat) :
    t.core.queue q = s.core.queue q := by
  by_cases unused : k = .none
  · subst unused
    obtain ⟨-, rfl⟩ := Prod.mk.inj (Except.ok.inj e)
    rfl
  · have used : k = .sSrc ∨ k = .sReg ∨ k = .qSrc ∨ k = .sDst ∨ k = .qDst := by tauto
    have read : s.readS f = .ok (v, t) := by
      unfold State.srcIf at e
      split at e
      · exact absurd rfl unused
      · exact e
    obtain ⟨-, -, -, rfl⟩ | ⟨no, at_, r, -, -, rfl⟩ := readS_cases read
    · rfl
    · exact (Core.queue_setQueue ..).trans (if_neg fun ix => other (queueIx_eq (isQ_of_kind used ok no) ix))

/-- The state with the issuing stream and the core's queues replaced. -/
def withStrm (s : State) (q : Sparse (List QSlot)) (x : StrmSt) : State := { s with core := { s.core.setStrm s.cur x with queues := q } }

theorem withStrm_strm (s : State) (q : Sparse (List QSlot)) (x : StrmSt) : (withStrm s q x).strm = x := by
  unfold State.strm withStrm; cases s.cur <;> rfl

/-- A result of one scalar leaves the issuing stream's scalars and the core's queues to be changed, and nothing else (R37, R38). -/
theorem writeS_withStrm {s u : State} {f : OpField} {v : Word} {cost : Nat} {q : Sparse (List QSlot)}
    (h : ({ s with core := { s.core with queues := q } } : State).writeS f v cost = .ok u) :
    ∃ p regs ready, u = withStrm s p { s.strm with sregs := regs, ready := ready } := by
  obtain ⟨-, -, rfl⟩ | ⟨-, nz, -, rfl⟩ | ⟨-, -, rfl⟩ := writeS_cases h
  · refine ⟨q, s.strm.sregs, s.strm.ready, ?_⟩
    unfold withStrm State.strm; cases s.cur <;> rfl
  · generalize scalIx f = n at *
    refine ⟨q, Sparse.set s.strm.sregs n v, Sparse.set s.strm.ready n (max (Sparse.get s.strm.ready n) (s.now + cost)), ?_⟩
    unfold withStrm State.upd State.setStrm StrmSt.setSreg State.strm
    simp only [if_neg nz]
    cases s.cur <;> rfl
  · exact ⟨_, s.strm.sregs, s.strm.ready, by unfold withStrm State.strm State.updC; cases s.cur <;> rfl⟩

/-- A word's end moves its stream on and changes no scalar (R182). -/
theorem retire_withStrm (s : State) (q : Sparse (List QSlot)) (x : StrmSt) (cost : Nat) :
    ∃ y, (withStrm s q x).retire cost = withStrm s q y ∧ x.sameBut y ∧ y.sregs = x.sregs := by
  refine ⟨x.advance.issued (s.now + cost), ?_, ?_, ?_⟩
  · unfold withStrm State.retire State.upd State.setStrm State.strm State.now
    cases s.cur <;> rfl
  all_goals obtain ⟨-, e⟩ | ⟨-, e⟩ := advance_cases x
  · rw [e]; rfl
  · rw [e]; unfold StrmSt.sameBut StrmSt.toHdr StrmSt.leave; split <;> rfl
  · rw [e]; rfl
  · rw [e]; unfold StrmSt.toHdr StrmSt.leave; split <;> rfl

theorem sameBut_trans {x y z : StrmSt} (h : x.sameBut y) (g : y.sameBut z) : x.sameBut z := by
  unfold StrmSt.sameBut at *
  rw [← g] at h
  exact h

theorem sameOutside_withStrm (s : State) (q : Sparse (List QSlot)) (x : StrmSt) : s.sameOutside (withStrm s q x) := rfl

theorem coreSameBut_withStrm (s : State) (q : Sparse (List QSlot)) (x : StrmSt) : Core.sameBut s.cur s.core (withStrm s q x).core := by
  unfold Core.sameBut withStrm; cases s.cur <;> rfl

/-- A result changes the scalar its field names alone. -/
theorem writeS_sreg {s u : State} {f : OpField} {v : Word} {cost : Nat} (h : s.writeS f v cost = .ok u) {n : Nat} (other : 696 + n ≠ f.toNat) :
    u.strm.sreg n = s.strm.sreg n := by
  obtain ⟨-, -, rfl⟩ | ⟨hf, nz, -, rfl⟩ | ⟨-, -, rfl⟩ := writeS_cases h
  · rfl
  · have ne : n ≠ scalIx f := by rw [isS_iff] at hf; unfold scalIx; omega
    generalize scalIx f = m at *
    rw [State.strm_upd]
    exact (StrmSt.sreg_setSreg s.strm m n v nz).trans (if_neg ne)
  · rfl

/-- A result changes the queue its field names alone. -/
theorem writeS_queues {s u : State} {f : OpField} {v : Word} {cost : Nat} (named : isS f = false → isQ f = true)
    (h : s.writeS f v cost = .ok u) {q : Nat} (other : 728 + q ≠ f.toNat) : u.core.queue q = s.core.queue q := by
  obtain ⟨-, -, rfl⟩ | ⟨-, -, -, rfl⟩ | ⟨no, -, rfl⟩ := writeS_cases h
  · rfl
  · exact congrArg (Sparse.get · q) (Core.setStrm_queues ..)
  · exact (Core.queue_setQueue ..).trans (if_neg fun ix => other (queueIx_eq (named no) ix))

/-- Settles O14: the sources pop the queues they name, the result goes to the scalar or queue D names, and the word's end moves its stream on. -/
theorem scalarResultFrame : Obligations.ScalarResultFrame := by
  unfold Obligations.ScalarResultFrame
  rintro s t u h a b c v cost ⟨dest, srcs⟩ ⟨⟨static, -⟩, sources⟩ give
  obtain ⟨okD, okA, okB, okC⟩ := static_kinds static
  obtain ⟨s1, s2, readA, readB, readC⟩ := sources_cases sources
  obtain ⟨q, rfl⟩ := sources_frame sources
  obtain ⟨p, regs, ready, hu⟩ := writeS_withStrm give
  obtain ⟨y, hy, same, sregs⟩ := retire_withStrm s p { s.strm with sregs := regs, ready := ready } 1
  rw [← hu] at hy
  rw [hy, withStrm_strm]
  refine ⟨sameOutside_withStrm .., fun _ => rfl, coreSameBut_withStrm .., sameBut_trans (y := { s.strm with sregs := regs, ready := ready }) rfl same, fun n other => ?_, fun n nD nA nB nC => ?_⟩
  · have written : u.strm.sreg n = s.strm.sreg n := writeS_sreg give other
    rw [← written, hu, withStrm_strm]
    unfold StrmSt.sreg; rw [sregs]
  · have written := writeS_queues (fun no => isQ_of_kind (by tauto) okD no) give nD
    rw [hu] at written
    rw [← srcIf_queues (srcs _ (by simp)) okA readA nA, ← srcIf_queues (srcs _ (by simp)) okB readB nB,
      ← srcIf_queues (srcs _ (by simp)) okC readC nC]
    exact written

end Sys2Proof.Proofs
end

section
/-!
PROOFS. Results land: the bits of the elements a register write brings (R31, R44), the writes due by a cycle (R43, R46).
-/

namespace Sys2Proof.Proofs
open Sys2Proof Sys2Proof.Machine

/-! ### The elements of a lane, packed (R31, R63) -/

/-- The first `p` elements of a lane, `w` bits each: which bits are written, and their values. -/
def packed (w : Nat) (g : Nat → Option Nat) (p : Nat) : LaneOut :=
  (List.range p).foldl (fun (o : LaneOut) k =>
    match g k with
    | some v => { mask := o.mask + (2 ^ w - 1) * 2 ^ (w * k), val := o.val + (v % 2 ^ w) * 2 ^ (w * k) }
    | none => o) default

theorem packed_succ (w : Nat) (g : Nat → Option Nat) (p : Nat) : packed w g (p + 1) =
    { mask := (packed w g p).mask + ((g p).elim 0 fun _ => 2 ^ w - 1) * 2 ^ (w * p)
      val := (packed w g p).val + ((g p).elim 0 fun v => v % 2 ^ w) * 2 ^ (w * p) } := by
  unfold packed
  rw [List.range_succ, List.foldl_append]
  cases h : g p <;> simp [h]

/-- Bits put above `n` bits: the lower ones stay, the upper ones are those put there. -/
theorem testBit_above {x n : Nat} (h : x < 2 ^ n) (y i : Nat) :
    (x + y * 2 ^ n).testBit i = if i < n then x.testBit i else y.testBit (i - n) := by
  rw [Nat.add_comm, Nat.mul_comm, Nat.testBit_two_pow_mul_add _ h]

theorem lt_above {x n : Nat} (h : x < 2 ^ n) {y w : Nat} (hy : y < 2 ^ w) : x + y * 2 ^ n < 2 ^ (n + w) := by
  have : (y + 1) * 2 ^ n ≤ 2 ^ w * 2 ^ n := Nat.mul_le_mul_right _ hy
  rw [Nat.pow_add, Nat.mul_comm (2 ^ n)]
  linarith [Nat.add_mul y 1 (2 ^ n)]

theorem packed_lt (w : Nat) (g : Nat → Option Nat) (p : Nat) :
    (packed w g p).mask < 2 ^ (w * p) ∧ (packed w g p).val < 2 ^ (w * p) := by
  induction p with
  | zero => exact ⟨Nat.one_pos, Nat.one_pos⟩
  | succ p ih =>
    rw [packed_succ, Nat.mul_succ]
    have pos : 0 < 2 ^ w := Nat.two_pow_pos w
    refine ⟨lt_above ih.1 ?_, lt_above ih.2 ?_⟩ <;> cases g p <;> simp [pos, Nat.mod_lt]

/-- Bit `c` of element `k` of a packed lane: written where the element is, with the element's own bit (R44). -/
theorem packed_bit {w p k c : Nat} (g : Nat → Option Nat) (hk : k < p) (hc : c < w) :
    (packed w g p).mask.testBit (w * k + c) = (g k).isSome ∧
      (packed w g p).val.testBit (w * k + c) = (g k).elim false fun v => (v % 2 ^ w).testBit c := by
  induction p with
  | zero => omega
  | succ p ih =>
    obtain ⟨hm, hv⟩ := packed_lt w g p
    rw [packed_succ]
    dsimp only
    rw [testBit_above hm, testBit_above hv]
    by_cases last : k = p
    · subst last
      rw [if_neg (by omega), if_neg (by omega), Nat.add_sub_cancel_left]
      cases g k <;> simp [hc]
    · have below : w * k + c < w * p := calc
        w * k + c < w * k + w := by omega
        _ = w * (k + 1) := (Nat.mul_succ ..).symm
        _ ≤ w * p := Nat.mul_le_mul_left _ (by omega)
      rw [if_pos below, if_pos below]
      exact ih (by omega)

/-! ### The bits of an element (R31) -/

/-- Bit `b` of lane `n` of an operand: the first register's sixteen bits, then the second's. -/
def laneBit (l : List VReg) (n b : Nat) : Bool :=
  if b < 16 then (Sparse.get (l.getD 0 []) n).getLsbD b else (Sparse.get (l.getD 1 []) n).getLsbD (b - 16)

theorem perLane_cases (t : ETy) : (t.width = 4 ∧ perLane t = 4) ∨ (t.width = 8 ∧ perLane t = 2) ∨ (t.width = 16 ∧ perLane t = 1) ∨
    (t.width = 32 ∧ perLane t = 1) := by cases t <;> decide

theorem perRow_eq (t : ETy) : t.perRow = 64 * perLane t := by cases t <;> rfl
theorem perLane_pos (t : ETy) : 0 < perLane t := by cases t <;> decide

theorem laneOf_eq (t : ETy) (i j : Nat) : laneOf t i j = 64 * i + j / perLane t := by
  unfold laneOf
  rw [perRow_eq, Nat.mul_comm j, Nat.mul_div_mul_left _ _ (by decide)]

/-- An element of fewer than 16 bits is a field of its lane. -/
theorem elemBits_narrow {t : ETy} (l : List VReg) (i j : Nat) (h : t.width = 4 ∨ t.width = 8) :
    elemBits t l i j = (Sparse.get (l.getD 0 []) (laneOf t i j)).toNat / 2 ^ (t.width * (j % perLane t)) % 2 ^ t.width := by
  rw [laneOf_eq]
  unfold elemBits
  obtain ⟨w, p⟩ | ⟨w, p⟩ | ⟨w, -⟩ | ⟨w, -⟩ := perLane_cases t
  · simp only [w, p, bitsOf]; rw [show 4 * (j % 4) + 3 + 1 - 4 * (j % 4) = 4 by omega]
  · simp only [w, p, bitsOf]; rw [show 8 * (j % 2) + 7 + 1 - 8 * (j % 2) = 8 by omega]
  all_goals omega

theorem elemBits_16 {t : ETy} (l : List VReg) (i j : Nat) (h : t.width = 16) :
    elemBits t l i j = (Sparse.get (l.getD 0 []) (64 * i + j)).toNat := by unfold elemBits; simp only [h]

theorem elemBits_32 {t : ETy} (l : List VReg) (i j : Nat) (h : t.width = 32) : elemBits t l i j =
    (Sparse.get (l.getD 0 []) (64 * i + j)).toNat + (Sparse.get (l.getD 1 []) (64 * i + j)).toNat * 2 ^ 16 := by
  unfold elemBits; simp only [h]; rw [Nat.mul_comm 65536]; rfl

theorem elemBits_lt (t : ETy) (l : List VReg) (i j : Nat) : elemBits t l i j < 2 ^ t.width := by
  obtain ⟨w, -⟩ | ⟨w, -⟩ | ⟨w, -⟩ | ⟨w, -⟩ := perLane_cases t
  · rw [elemBits_narrow l i j (.inl w)]; exact Nat.mod_lt _ (Nat.two_pow_pos _)
  · rw [elemBits_narrow l i j (.inr w)]; exact Nat.mod_lt _ (Nat.two_pow_pos _)
  · rw [elemBits_16 l i j w, w]; exact BitVec.isLt _
  · rw [elemBits_32 l i j w, w]; exact lt_above (n := 16) (BitVec.isLt _) (BitVec.isLt _)

/-- Bit `b` of element (i, j) is a bit of the lane that holds the element. -/
theorem elemBits_bit {t : ETy} (l : List VReg) (i j : Nat) {b : Nat} (hb : b < t.width) :
    (elemBits t l i j).testBit b = laneBit l (laneOf t i j) (t.width * (j % perLane t) + b) := by
  have narrow (h : t.width = 4 ∨ t.width = 8) (low : t.width * (j % perLane t) + b < 16) :
      (elemBits t l i j).testBit b = laneBit l (laneOf t i j) (t.width * (j % perLane t) + b) := by
    unfold laneBit
    rw [elemBits_narrow l i j h, if_pos low, Nat.testBit_mod_two_pow, Nat.testBit_div_two_pow, decide_eq_true hb, Bool.true_and,
      BitVec.testBit_toNat, Nat.add_comm]
  have whole (p : perLane t = 1) : laneOf t i j = 64 * i + j ∧ t.width * (j % perLane t) + b = b := by
    rw [laneOf_eq, p]; simp [Nat.mod_one]
  obtain ⟨w, p⟩ | ⟨w, p⟩ | ⟨w, p⟩ | ⟨w, p⟩ := perLane_cases t
  · exact narrow (.inl w) (by rw [w, p]; omega)
  · exact narrow (.inr w) (by rw [w, p]; omega)
  · unfold laneBit
    rw [(whole p).1, (whole p).2, elemBits_16 l i j w, if_pos (by omega), BitVec.testBit_toNat]
  · unfold laneBit
    rw [(whole p).1, (whole p).2, elemBits_32 l i j w, testBit_above (BitVec.isLt _), BitVec.testBit_toNat, BitVec.testBit_toNat]

/-! ### An element write lands (R44, R46) -/

/-- A lane as a write leaves it: the written bits are the write's, the others as before (R44). -/
theorem mergeReg_bit (old mask val : VReg) {n b : Nat} (hn : n < 1024) (hb : b < 16) : (Sparse.get (mergeReg old mask val) n).getLsbD b =
    if (Sparse.get mask n).getLsbD b = true then (Sparse.get val n).getLsbD b else (Sparse.get old n).getLsbD b := by
  unfold mergeReg
  rw [sparse_get_ofFn, if_pos hn]
  rw [BitVec.getLsbD_or, BitVec.getLsbD_and, BitVec.getLsbD_and, BitVec.getLsbD_not]
  cases (Sparse.get mask n).getLsbD b <;> simp [hb]

/-- The bits an element write brings to lane `n`. -/
def laneOut (t : ETy) (pred : BitVec 1024) (f : Nat → Nat → Option Nat) (n : Nat) : LaneOut :=
  if !pbit pred n then default else packed t.width (fun k => f (n / 64) (perLane t * (n % 64) + k)) (perLane t)

/-- The part of an element write for its register `k`: the lanes' bits from `16 k` on. -/
def regPart (t : ETy) (pred : BitVec 1024) (f : Nat → Nat → Option Nat) (reg k : Nat) : RegPart :=
  { reg := reg, mask := Sparse.ofFn 1024 fun n => BitVec.ofNat 16 ((laneOut t pred f n).mask / 2 ^ (16 * k))
    val := Sparse.ofFn 1024 fun n => BitVec.ofNat 16 ((laneOut t pred f n).val / 2 ^ (16 * k)) }

theorem elemParts_eq (t : ETy) (r : Nat) (pred : BitVec 1024) (f : Nat → Nat → Option Nat) :
    elemParts t (if t.width = 32 then [r, r + 1] else [r]) pred f =
      if t.width = 32 then [regPart t pred f r 0, regPart t pred f (r + 1) 1] else [regPart t pred f r 0] := by
  unfold elemParts regPart
  by_cases w : t.width = 32
  · simp only [if_pos w, Nat.mul_zero, Nat.pow_zero, Nat.div_one]; rfl
  · simp only [if_neg w, Nat.mul_zero, Nat.pow_zero, Nat.div_one]; rfl

theorem regPart_bit {t : ETy} {pred : BitVec 1024} {f : Nat → Nat → Option Nat} {reg k n b : Nat} (hn : n < 1024) (hb : b < 16) :
    (Sparse.get (regPart t pred f reg k).mask n).getLsbD b = (laneOut t pred f n).mask.testBit (16 * k + b) ∧
      (Sparse.get (regPart t pred f reg k).val n).getLsbD b = (laneOut t pred f n).val.testBit (16 * k + b) := by
  unfold regPart
  constructor <;> dsimp only <;> rw [sparse_get_ofFn, if_pos hn, BitVec.getLsbD_ofNat, Nat.testBit_div_two_pow, decide_eq_true hb, Bool.true_and,
    Nat.add_comm]

/-- The element an element write brings to (i, j), where it writes one. -/
def written (t : ETy) (pred : BitVec 1024) (f : Nat → Nat → Option Nat) (i j : Nat) : Option Nat :=
  if pred.getLsbD (laneOf t i j) then f i j else none

/-- Bit `b` of element (i, j) in an element write. -/
theorem laneOut_bit {t : ETy} (pred : BitVec 1024) (f : Nat → Nat → Option Nat) {i j b : Nat} (hj : j < t.perRow) (hb : b < t.width) :
    (laneOut t pred f (laneOf t i j)).mask.testBit (t.width * (j % perLane t) + b) = (written t pred f i j).isSome ∧
      (laneOut t pred f (laneOf t i j)).val.testBit (t.width * (j % perLane t) + b) =
        (written t pred f i j).elim false fun v => (v % 2 ^ t.width).testBit b := by
  have col : j / perLane t < 64 := Nat.div_lt_of_lt_mul (by rwa [Nat.mul_comm, ← perRow_eq])
  have row : laneOf t i j / 64 = i := by rw [laneOf_eq]; generalize j / perLane t = q at *; omega
  have lane : laneOf t i j % 64 = j / perLane t := by rw [laneOf_eq]; generalize j / perLane t = q at *; omega
  unfold laneOut written pbit
  rw [row, lane]
  cases pred.getLsbD (laneOf t i j)
  · exact ⟨Nat.zero_testBit _, Nat.zero_testBit _⟩
  · obtain ⟨hm, hv⟩ := packed_bit (fun k => f i (perLane t * (j / perLane t) + k)) (Nat.mod_lt j (perLane_pos t)) hb
    rw [Nat.div_add_mod] at hm hv
    exact ⟨hm, hv⟩

theorem laneOf_lt {t : ETy} {i j : Nat} (hi : i < 16) (hj : j < t.perRow) : laneOf t i j < 1024 := by
  have col : j / perLane t < 64 := Nat.div_lt_of_lt_mul (by rwa [Nat.mul_comm, ← perRow_eq])
  rw [laneOf_eq]
  generalize j / perLane t = q at *
  omega

/-- The registers an element write leaves, by the parts that land. -/
theorem vreg_regs_one (c : Core) (n : Nat) (p : RegPart) (q : Nat) :
    ((PEff.regs [p]).apply n c).vreg q = if q = p.reg then mergeReg (c.vreg q) p.mask p.val else c.vreg q := by
  show (c.setVreg p.reg _).vreg q = _
  rw [Core.vreg_setVreg]
  split <;> simp [*]

theorem vreg_regs_two (c : Core) (n : Nat) {p p' : RegPart} (ne : p'.reg ≠ p.reg) (q : Nat) : ((PEff.regs [p, p']).apply n c).vreg q =
    if q = p'.reg then mergeReg (c.vreg q) p'.mask p'.val else if q = p.reg then mergeReg (c.vreg q) p.mask p.val else c.vreg q := by
  show ((c.setVreg p.reg _).setVreg p'.reg _).vreg q = _
  rw [Core.vreg_setVreg, Core.vreg_setVreg, Core.vreg_setVreg, if_neg ne]
  split
  · simp [*]
  · split <;> simp [*]

/-- What an element write of registers `r` (and `r + 1`) leaves at its landing. -/
def afterWrite (t : ETy) (r : Nat) (pred : BitVec 1024) (f : Nat → Nat → Option Nat) (n : Nat) (c : Core) : Core :=
  (PEff.regs (elemParts t (if t.width = 32 then [r, r + 1] else [r]) pred f)).apply n c

/-- Bit `b` of lane `m`, of the two registers an element write reaches: the write's where it writes that bit, else the old one. -/
theorem afterWrite_bit {t : ETy} {r : Nat} {pred : BitVec 1024} {f : Nat → Nat → Option Nat} {n m b : Nat} {c : Core} (hm : m < 1024)
    (hb : b < 16 ∨ t.width = 32 ∧ b < 32) :
    laneBit [(afterWrite t r pred f n c).vreg r, (afterWrite t r pred f n c).vreg (r + 1)] m b =
      if (laneOut t pred f m).mask.testBit b = true then (laneOut t pred f m).val.testBit b else laneBit [c.vreg r, c.vreg (r + 1)] m b := by
  have part {reg k b' : Nat} (old : VReg) (hb : b' < 16) :
      (Sparse.get (mergeReg old (regPart t pred f reg k).mask (regPart t pred f reg k).val) m).getLsbD b' =
        if (laneOut t pred f m).mask.testBit (16 * k + b') = true then (laneOut t pred f m).val.testBit (16 * k + b')
        else (Sparse.get old m).getLsbD b' := by
    rw [mergeReg_bit _ _ _ hm hb, (regPart_bit hm hb).1, (regPart_bit hm hb).2]
  unfold afterWrite
  rw [elemParts_eq]
  unfold laneBit
  by_cases w : t.width = 32
  · rw [if_pos w, vreg_regs_two _ _ (by simp [regPart]), vreg_regs_two _ _ (by simp [regPart])]
    by_cases low : b < 16
    · simpa [low, regPart] using part (k := 0) (reg := r) (c.vreg r) low
    · have high := part (k := 1) (reg := r + 1) (c.vreg (r + 1)) (show b - 16 < 16 by omega)
      rw [show 16 * 1 + (b - 16) = b by omega] at high
      simpa [low, regPart] using high
  · have low : b < 16 := by omega
    rw [if_neg w, vreg_regs_one, vreg_regs_one]
    simpa [low, regPart] using part (k := 0) (reg := r) (c.vreg r) low

/-- An element after an element write: the value written, or the element as it was (R44, R46). -/
theorem afterWrite_elem {t : ETy} {r : Nat} {pred : BitVec 1024} {f : Nat → Nat → Option Nat} {n i j : Nat} {c : Core} (hi : i < 16)
    (hj : j < t.perRow) :
    elemBits t [(afterWrite t r pred f n c).vreg r, (afterWrite t r pred f n c).vreg (r + 1)] i j =
      (written t pred f i j).elim (elemBits t [c.vreg r, c.vreg (r + 1)] i j) (· % 2 ^ t.width) := by
  apply Nat.eq_of_testBit_eq
  intro b
  by_cases hb : b < t.width
  · obtain ⟨mask, val⟩ := laneOut_bit pred f hj (i := i) hb
    have within : t.width * (j % perLane t) + b < 16 ∨ t.width = 32 ∧ t.width * (j % perLane t) + b < 32 := by
      obtain ⟨w, p⟩ | ⟨w, p⟩ | ⟨w, p⟩ | ⟨w, p⟩ := perLane_cases t <;> rw [w] at hb <;> rw [w, p] <;> omega
    rw [elemBits_bit _ _ _ hb, afterWrite_bit (laneOf_lt hi hj) within, mask, val]
    cases written t pred f i j <;> simp [elemBits_bit _ _ _ hb]
  · have big : ∀ x : Nat, x < 2 ^ t.width → x.testBit b = false := fun x hx =>
      Nat.testBit_lt_two_pow (Nat.lt_of_lt_of_le hx (Nat.pow_le_pow_right (by decide) (by omega)))
    rw [big _ (elemBits_lt ..)]
    cases written t pred f i j
    · exact (big _ (elemBits_lt ..)).symm
    · exact (big _ (Nat.mod_lt _ (Nat.two_pow_pos _))).symm

/-- An element write reaches its own registers alone. -/
theorem afterWrite_other (t : ETy) (r : Nat) (pred : BitVec 1024) (f : Nat → Nat → Option Nat) (n : Nat) (c : Core) {q : Nat} (hq : q ≠ r)
    (pair : t.width = 32 → q ≠ r + 1) : (afterWrite t r pred f n c).vreg q = c.vreg q := by
  unfold afterWrite
  rw [elemParts_eq]
  by_cases w : t.width = 32
  · rw [if_pos w, vreg_regs_two _ _ (by simp [regPart])]; exact (if_neg (pair w)).trans (if_neg hq)
  · rw [if_neg w, vreg_regs_one]; exact if_neg hq

theorem applyParts_frame (c : Core) (l : List RegPart) : ∃ v b, applyParts c l = { c with vregs := v, banks := b } := by
  induction l generalizing c with
  | nil => exact ⟨c.vregs, c.banks, rfl⟩
  | cons p r ih =>
    obtain ⟨v, b, e⟩ := ih (c.setVreg p.reg (mergeReg (c.vreg p.reg) p.mask p.val))
    exact ⟨v, b, e⟩

/-! ### The writes due by a cycle (R43, R46) -/

/-- A core with other writes in flight. -/
def withPending (c : Core) (l : List Pending) : Core := { c with pending := l }

/-- A landing does not depend on the other writes in flight, and leaves them as they are. -/
theorem apply_withPending (e : PEff) (n : Nat) (c : Core) (l : List Pending) :
    e.apply n (withPending c l) = withPending (e.apply n c) l := by
  cases e with
  | regs parts =>
    show applyParts _ parts = withPending (applyParts c parts) l
    induction parts generalizing c with
    | nil => rfl
    | cons p r ih => exact ih (c.setVreg p.reg (mergeReg (c.vreg p.reg) p.mask p.val))
  | mask m pred val =>
    show Core.setMask _ _ _ = withPending (Core.setMask _ _ _) l
    unfold Core.setMask
    split <;> rfl
  | _ => rfl

theorem apply_pending (e : PEff) (n : Nat) (c : Core) : (e.apply n c).pending = c.pending := by
  rw [show c = withPending c c.pending from rfl, apply_withPending]
  rfl

/-- A launch's write changes what a served access may change (R331, R338). -/
theorem served_writeVa (s : State) (l : Launch) (va : Nat) (bs : List Byte) : s.served (s.writeVa l va bs) := by
  unfold State.writeVa
  generalize s.launchPtb l = ptb
  generalize splitAt64K va bs = runs
  induction runs generalizing s with
  | nil => exact served_refl s
  | cons x r ih =>
    refine served_trans ?_ (ih _)
    have held : ∀ y, s.served { s with late := y } := fun _ => ⟨_, _, _, _, _, _, _, _, rfl⟩
    dsimp only
    split
    · exact held _
    · split
      · exact ite_both (P := s.served) (held _) (served_writeMem ..)
      · exact served_postRecord ..
      · exact held _

theorem served_msixAfter (s : State) (v : Nat) : s.served (s.msixAfter v) :=
  ite_both (P := s.served) ⟨_, _, _, _, _, _, _, _, rfl⟩ ⟨_, _, _, _, _, _, _, _, rfl⟩

/-- Counting an event sets bits of `cnti` in the cores of its launch, and reaches no other field of a core (R80). -/
theorem countEvent_core (s : State) (c : Core) (k : Strm) (n : Nat) :
    (s.countEvent c k n).core = s.core ∨ (s.countEvent c k n).core = Core.setCnti n s.core := by
  unfold State.countEvent
  split
  · exact .inl rfl
  · extract_lets v thr cross l1 s1 up s2
    have core2 : s2.core = s.core ∨ s2.core = Core.setCnti n s.core := by
      show up s.core = _ ∨ up s.core = _
      unfold up
      split
      · exact .inr rfl
      · exact .inl rfl
    split
    · exact .inl rfl
    · split
      · exact .inl rfl
      · rw [served_core (served_trans (served_writeVa s2 _ _ _) (served_msixAfter _ 2))]
        exact core2

theorem countEvents_pending (s : State) (c : Core) (k : Strm) (l : List Nat) : (s.countEvents c k l).core.pending = s.core.pending := by
  induction l generalizing s with
  | nil => rfl
  | cons n r ih =>
    refine (ih _).trans ?_
    rcases countEvent_core s c k n with e | e <;> rw [e]
    rfl

/-- Landing a list of writes changes no write in flight. -/
theorem landAll_pending (s : State) (l : List Pending) : (s.landAll l).core.pending = s.core.pending := by
  induction l generalizing s with
  | nil => rfl
  | cons p r ih => exact (ih _).trans ((countEvents_pending ..).trans (apply_pending ..))

/-- RESULT_LANDS lands every write due and leaves the others in flight (R43, R46). -/
theorem landDue_pending (s : State) (t : Nat) : (s.landDue t).core.pending = s.core.pending.filter fun p => !decide (p.due ≤ t) :=
  landAll_pending ..

theorem landDue_none {s : State} {t : Nat} (early : ∀ p ∈ s.core.pending, t < p.due) : s.landDue t = s := by
  have none : (s.core.pending.filter fun p => decide (p.due ≤ t)) = [] := List.filter_eq_nil_iff.2 fun p hp => by simp [early p hp]
  have all : (s.core.pending.filter fun p => !decide (p.due ≤ t)) = s.core.pending := List.filter_eq_self.2 fun p hp => by simp [early p hp]
  unfold State.landDue
  rw [none]
  show ({ s with core := withPending s.core (s.core.pending.filter fun p => !decide (p.due ≤ t)) } : State) = s
  rw [all]
  rfl

/-- One write without events, when due, has its effect on the core and nothing else (R43, R46). -/
theorem landDue_one {s : State} {t : Nat} {p : Pending} (only : s.core.pending = [p]) (due : p.due ≤ t) (quiet : p.events = []) :
    s.landDue t = { s with core := withPending (p.eff.apply s.freeN s.core) [], freeN := s.freeN + 1024 } := by
  rw [← apply_withPending]
  unfold State.landDue State.updC
  simp only [only, List.filter_cons, due, decide_true, if_true, List.filter_nil, State.landAll, quiet, State.countEvents]
  rfl

/-- Settles O24: which writes land, and what an element write leaves in its registers. -/
theorem resultsLandUnderTheMask : Obligations.ResultsLandUnderTheMask := by
  unfold Obligations.ResultsLandUnderTheMask
  refine ⟨fun s => ⟨_, rfl, (landDue_pending ..).symm, landDue_none, fun p only due quiet => ?_⟩, fun c t r pred f n => ?_⟩
  · rw [landDue_one only due quiet]
    exact ⟨rfl, rfl, rfl, rfl⟩
  · intro d
    have elem {i j : Nat} (hi : i < 16) (hj : j < t.perRow) := afterWrite_elem (r := r) (pred := pred) (f := f) (n := n) (c := c) hi hj
    obtain ⟨v, b, frame⟩ := applyParts_frame c (elemParts t (if t.width = 32 then [r, r + 1] else [r]) pred f)
    refine ⟨fun i j hi hj on v hv => ?_, fun i j hi hj off => ?_, fun q hq pair => afterWrite_other t r pred f n c hq pair, ?_, ?_⟩
    · refine (elem hi hj).trans ?_
      simp [written, on, hv]
    · refine (elem hi hj).trans ?_
      have : written t pred f i j = none := by unfold written; rcases off with off | off <;> simp [off]
      rw [this]
      rfl
    · exact (congrArg Core.tiles frame :)
    · exact (congrArg Core.masks frame :)

end Sys2Proof.Proofs
end

section
/-!
PROOFS. Contributions to a tile: a lane after an addend, and that addends commute (R42, R66 to R68).
-/

namespace Sys2Proof.Proofs
open Sys2Proof Sys2Proof.Machine

/-- What a lane stands for: T and the flags, whatever its split (R65, R67). -/
def laneValue (l : Lane) : BitVec 96 × Bool × Bool × Bool × Bool := (l.t, l.ix, l.nv, l.pi, l.ni)

/-- A lane with an infinity of each sign is NaN; beside a flag of a NaN or an infinity no finite sum is kept (R42, R66). -/
def normValue (v : BitVec 96 × Bool × Bool × Bool × Bool) : BitVec 96 × Bool × Bool × Bool × Bool :=
  let (t, ix, nv, pi, ni) := v
  if nv || pi || ni then (0, false, nv || (pi && ni), pi, ni) else (t, ix, false, false, false)

/-- The sum of two values, flags ORed (R66, R68). -/
def sumValue (v d : BitVec 96 × Bool × Bool × Bool × Bool) : BitVec 96 × Bool × Bool × Bool × Bool :=
  (v.1 + d.1, v.2.1 || d.2.1, v.2.2.1 || d.2.2.1, v.2.2.2.1 || d.2.2.2.1, v.2.2.2.2 || d.2.2.2.2)

/-- The split between S and C, left open, does not change what a lane stands for (R67). -/
theorem laneValue_split (n : Nat) (l : Lane) : laneValue (l.split n) = laneValue l := by
  unfold Lane.split laneValue
  split
  · rfl
  · simp [Lane.t]

theorem laneValue_norm (l : Lane) : laneValue l.norm = normValue (laneValue l) := by
  obtain ⟨s, c, ix, nv, pi, ni⟩ := l
  cases nv <;> cases pi <;> cases ni <;> simp [Lane.norm, laneValue, normValue, Lane.t]

/-- An addend's landing on a lane (R66, R68). -/
theorem laneValue_add (n : Nat) (l d : Lane) : laneValue (Lane.add n l d) = normValue (sumValue (laneValue l) (laneValue d)) := by
  unfold Lane.add
  rw [laneValue_split, laneValue_norm]
  simp [laneValue, sumValue, Lane.t]

/-- A sum may be normalised before a further addend or only after it. -/
theorem normValue_sum_norm (v d : BitVec 96 × Bool × Bool × Bool × Bool) : normValue (sumValue (normValue v) d) = normValue (sumValue v d) := by
  obtain ⟨t, ix, nv, pi, ni⟩ := v
  obtain ⟨t', ix', nv', pi', ni'⟩ := d
  cases nv <;> cases pi <;> cases ni <;> simp [normValue, sumValue]

theorem sumValue_right_comm (v a b : BitVec 96 × Bool × Bool × Bool × Bool) : sumValue (sumValue v a) b = sumValue (sumValue v b) a := by
  simp [sumValue, add_right_comm, Bool.or_right_comm]

/-- Two addends leave the same value in either order (R66, R68). -/
theorem laneValue_add_comm (m n m' n' : Nat) (l a b : Lane) :
    laneValue (Lane.add n (Lane.add m l a) b) = laneValue (Lane.add m' (Lane.add n' l b) a) := by
  simp only [laneValue_add, normValue_sum_norm]
  rw [sumValue_right_comm]

/-- A lane after a contribution: the lane's addend is added, where there is one (R66). -/
def contribLane (k : Nat) (l : Sparse Lane) (i : Nat) (x : Lane) : Lane :=
  match l.find? fun p => p.1 == i with
  | some p => Lane.add (k + i) x p.2
  | none => x

theorem lane_contrib (c k : Nat) (l : Sparse Lane) (x : Core) {i : Nat} (hi : i < 1024) :
    (((PEff.contrib c l none).apply k x).tile c).lane i = contribLane k l i ((x.tile c).lane i) := by
  show ((x.setTile c ((x.tile c).map (contribLane k l))).tile c).lane i = _
  rw [Core.tile_setTile, if_pos rfl]
  exact (sparse_get_ofFn ..).trans (if_pos hi)

/-- Settles O44: lane by lane the landing of a contribution is the addition of its addend, and additions commute. -/
theorem contributionsAreOrderFree : Obligations.ContributionsAreOrderFree := by
  unfold Obligations.ContributionsAreOrderFree
  intro core c m n l1 l2
  refine ⟨fun i hi => ?_, fun i hi out => ?_, fun i d hi found fin fin' => ?_, fun t ht => ?_, rfl, rfl⟩
  · show laneValue _ = laneValue _
    rw [lane_contrib _ _ _ _ hi, lane_contrib _ _ _ _ hi, lane_contrib _ _ _ _ hi, lane_contrib _ _ _ _ hi]
    generalize (core.tile c).lane i = x
    unfold contribLane
    cases l1.find? fun p => p.1 == i with
    | none => rfl
    | some a =>
      cases l2.find? fun p => p.1 == i with
      | none => rfl
      | some b => exact laneValue_add_comm ..
  · have none : (l1.find? fun p => p.1 == i) = none := List.find?_eq_none.2 fun p hp => by simpa using out p hp
    rw [lane_contrib _ _ _ _ hi]
    simp [contribLane, none]
  · rw [lane_contrib _ _ _ _ hi]
    unfold contribLane
    rw [found]
    have value := congrArg Prod.fst (laneValue_add (m + i) ((core.tile c).lane i) d)
    simp only [Lane.special, Bool.or_eq_false_iff] at fin fin'
    obtain ⟨⟨nv, pi⟩, ni⟩ := fin
    obtain ⟨⟨nv', pi'⟩, ni'⟩ := fin'
    simpa [laneValue, normValue, sumValue, nv, pi, ni, nv', pi', ni'] using value
  · exact (Core.tile_setTile ..).trans (if_neg ht)

end Sys2Proof.Proofs
end

section
/-!
PROOFS. A row of a matrix image whose pages do not hold its address (R274).
-/

namespace Sys2Proof.Proofs
open Sys2Proof Sys2Proof.Machine

/-- An image of two bytes at address 0, of which row 0 is still to be written; no page of it is listed, so that every address of it has key 0. -/
def strayImage : MOp := { (default : MOp) with body := .astr [] 0 [1, 2] [0] }

/-- The machine after power-good, with that access in its core's list. -/
def strayStore : State := { State.reset with core := { State.reset.core with ops := [strayImage] } }

/-- The row performs. -/
theorem strayStore_performs : strayStore.performs strayImage (fun q => q.ix == 0) ⟨0, [], [0]⟩ := by
  refine ⟨rfl, by decide, by decide⟩

/-- Both bytes go to key 0, the second one last. -/
theorem strayStore_writes : ∃ t, exec (.tileLoadComplete strayImage.id 0) strayStore = .next t ∧ t.bytesAt 0 2 = [2, 0] := ⟨_, rfl, by decide⟩

/-- Refutes O28: a row of a matrix image whose address lies in no page of the access does not leave its bytes at the key of its first byte. -/
theorem not_tileRowsPerform : ¬ Obligations.TileRowsPerform := by
  unfold Obligations.TileRowsPerform
  intro all
  obtain ⟨-, -, -, -, image⟩ := all strayStore strayImage 0 0 _ strayStore_performs
  obtain ⟨t, ht, bytes, -⟩ := image [] 0 [1, 2] [0] rfl (by decide) (by decide) (by decide) (by decide) (by decide) (by decide) rfl (by decide)
  obtain ⟨t', ht', twice⟩ := strayStore_writes
  obtain rfl : t' = t := Host.Outcome.next.inj (ht'.symm.trans ht)
  exact absurd (bytes.symm.trans twice) (by decide)

end Sys2Proof.Proofs
end

section
/-!
PROOFS. A write of `fmtb` in M whose fill of the format table opens a row that alerts (R77, R323, R351).
-/

namespace Sys2Proof.Proofs
open Sys2Proof Sys2Proof.Machine

/-- A region node at 0x8000 whose fault queue at 0x8100 has a ring of four records at 0x9000 and TAIL 3. -/
def faultQueueMem : List Host.Cell :=
  memWrite (memWrite [] 0x8040 (leBytes 8 0x8100)) 0x8100 (leBytes 8 0x9000 ++ leBytes 4 4 ++ leBytes 4 0 ++ leBytes 4 3)

/-- A core whose TLB maps the page at 0x40000000 to frame 1 of HBM; scalar 1 of M holds that address. -/
def fmtCore : Core :=
  { (default : Core) with
    running := true, tlb := [{ ptb := 0, page := 0x4000, big := false, leaf := 2 ^ 59 + 65536 + 3 }]
    sm := { (default : StrmSt) with sregs := [(1, 0x40000000)], secLen := 1, entered := true } }

/-- Stream M of that core, on a die where the first activation of a row alerts and the host asks to be noticed. -/
def alertingM : State :=
  ({ State.reset with core := fmtCore, cur := .m, mem := faultQueueMem, host := { HostSt.reset with note := true, alim := 1 } }).updDie 0
    fun d => { d with mth := 1, root := 0x8000 }

/-- WRSR of `fmtb` from scalar 1. -/
def wrsrFmtb : Wi := { pm := 0, awe := false, awk := 0, d := 0, a := 697, b := 0, c := 0, imm := 0x0E }

/-- The word takes its operand. -/
theorem alertingM_takes : ∃ b c t, alertingM.takes (shI wrsrFmtb 8 .none .sSrc .none .none) 0x40000000 b c t :=
  by
  have a : alertingM.srcIf .sSrc 697 = .ok (0x40000000, alertingM) := by
    have v : alertingM.strm.sreg (scalIx 697) = 0x40000000 := by decide
    have r : alertingM.strm.ready? (scalIx 697) alertingM.now = true := by decide
    rw [show alertingM.srcIf .sSrc 697 = alertingM.readS 697 from rfl, readS_scalar (by decide), if_pos r, v]
  have none : ∀ f, alertingM.srcIf .none f = .ok (0, alertingM) := fun _ => rfl
  exact ⟨0, 0, alertingM, ⟨by decide, by decide⟩, by unfold State.sources; simp only [shI, show wrsrFmtb.a = 697 from rfl, a, none]⟩

/-- The alert's record advances the fault queue's TAIL. -/
theorem alertingM_records : ∃ u, exec (.wrsr wrsrFmtb) alertingM = .next u ∧ u.natAt 0x8110 4 = 4 := ⟨_, rfl, by decide⟩

/-- Refutes O19: a write of `fmtb` in M reads the format table, and the row that the read opens may alert, whose record is a change of memory. -/
theorem not_specialRegisters : ¬ Obligations.SpecialRegisters := by
  unfold Obligations.SpecialRegisters
  rintro ⟨-, write⟩
  obtain ⟨b, c, t, took⟩ := alertingM_takes
  obtain ⟨u, hu, -, -, mem, -⟩ := write wrsrFmtb alertingM t _ b c .fmtb took rfl (by decide) rfl (by decide) (by decide) (by decide) (by decide) (by decide) (by decide)
  obtain ⟨u', hu', tail⟩ := alertingM_records
  obtain rfl : u' = u := Host.Outcome.next.inj (hu'.symm.trans hu)
  rw [natAt_congr (s := alertingM) fun i _ => congrArg (Sparse.get · _) mem] at tail
  exact absurd tail (by decide)

end Sys2Proof.Proofs
end

section
/-!
PROOFS. The words on tiles, the rounding mode and the format table (R262, R270, R275, R276).
-/

namespace Sys2Proof.Proofs
open Sys2Proof Sys2Proof.Machine

/-! ### A word of M that is ready (R174, R260, R262) -/

theorem tilesFree_of {s : State} {h : Shape} (free : ∀ c ∈ h.tiles, s.tileLoading c = false) : h.tiles.any s.tileLoading = false :=
  List.any_eq_false.2 fun c hc => by simp [free c hc]

/-- A ready word whose own checks pass and which waits for no tile runs its effect and ends. -/
theorem mword_ready {s u : State} {h : Shape} {unit : MUnit} {x : VIn} (ready : s.mready h unit x u) (go : VIn → State → Res State) {v : State}
    (done : go x u = .ok v) : s.mword h unit (.ok ()) false go = .ok (v.retire 1) := by
  obtain ⟨t, ⟨st, aw⟩, vr, sh, free, tk⟩ := ready
  simp [State.mword, st, aw, vr, sh, tilesFree_of free, tk, done]

/-- A ready word that waits for a tile waits, before its own checks. -/
theorem mword_waits {s u : State} {h : Shape} {unit : MUnit} {x : VIn} (ready : s.mready h unit x u) (chk : Res Unit) (go : VIn → State → Res State) :
    s.mword h unit chk true go = .error .wait := by
  obtain ⟨t, ⟨st, aw⟩, vr, sh, free, tk⟩ := ready
  simp [State.mword, st, vr]

/-- A ready word that waits for no tile takes the fault of its own checks. -/
theorem mword_faults {s u : State} {h : Shape} {unit : MUnit} {x : VIn} (ready : s.mready h unit x u) (f : FaultInfo) (go : VIn → State → Res State) :
    s.mword h unit (trapIf true f) false go = .error (.trap f) := by
  obtain ⟨t, ⟨st, aw⟩, vr, sh, free, tk⟩ := ready
  simp [State.mword, st, vr, tilesFree_of free]

theorem raises_illegal (s : State) : outcome s (.error (.trap (flt .illegalOperand))) = .next (s.raise (flt .illegalOperand)) :=
  takeFault_next (by decide) s

/-! ### Anchor changes (R41, R270) -/

theorem sextNat12_range (n : Nat) : -2048 ≤ sextNat 12 n ∧ sextNat 12 n ≤ 2047 := by
  simp only [sextNat]
  split <;> omega

theorem anchorOk_iff (a : Int) : anchorOk a = true ↔ -2048 ≤ a ∧ a ≤ 2047 := by simp [anchorOk]

section
variable {w : Wt} {s u : State} {x : VIn} (ready : s.mready (shAcc w false 12 .tile .none) (.acc 1) x u)
include ready

/-- Once its tile is free, an anchor within its twelve bits is set. -/
theorem anchorWord_sets {a : Int} (free : s.tileBusy (tileIx w.d) = false) (range : anchorOk a = true) :
    s.anchorWord w a = .ok ((u.pend 8 (.anchor (tileIx w.d) a) []).retire 1) := by
  rw [State.anchorWord, free, range]
  exact mword_ready ready _ rfl

theorem anchorWord_faults {a : Int} (free : s.tileBusy (tileIx w.d) = false) (range : anchorOk a = false) :
    s.anchorWord w a = .error (.trap (flt .illegalOperand)) := by
  rw [State.anchorWord, free, range]
  exact mword_faults ready _ _

theorem anchorWord_waits (a : Int) (busy : s.tileBusy (tileIx w.d) = true) : s.anchorWord w a = .error .wait := by
  rw [State.anchorWord, busy]
  exact mword_waits ready _ _

end

/-! ### Sums and copies of a tile (R68, R262, R270) -/

section
variable {w : Wt} {s u : State} {x : VIn} (ready : s.mready (shAcc w true 0 .tile .tile) (.acc 1) x u)
include ready

theorem tileSum_lands (f : Lane → Lane) : s.tileSum w f = .ok ((u.pend 8 (.contrib (tileIx w.d) ((predLanes x.p).map fun n =>
    (n, f (((s.core.tile (tileIx w.a)).lane n).reanchor (s.core.tile (tileIx w.a)).anchor (s.landingAnchor (tileIx w.d) 8)))) none) []).retire 1) := by
  unfold State.tileSum
  exact mword_ready ready _ rfl

/-- A copy that changes no anchor, or changes that of a free tile under PM 0, lands. -/
theorem amov_lands {c : Bool} (change : ((s.core.tile (tileIx w.a)).anchor != s.landingAnchor (tileIx w.d) 4) = c)
    (may : (c && s.tileBusy (tileIx w.d)) = false) (legal : (w.pm != 0 && c) = false) :
    Lands (.amov w) s u 4 (.copy (tileIx w.d) x.p (s.core.tile (tileIx w.a)).lanes
      (if w.pm = 0 then some (s.core.tile (tileIx w.a)).anchor else none)) [] := by
  show execAmov w s = _
  unfold execAmov
  simp only [change, may, legal, trapIf_false]
  exact congrArg (outcome s) (mword_ready ready _ rfl)

theorem amov_faults (change : (s.core.tile (tileIx w.a)).anchor ≠ s.landingAnchor (tileIx w.d) 4) (pm : w.pm ≠ 0)
    (free : s.tileBusy (tileIx w.d) = false) : Faults (.amov w) s (flt .illegalOperand) := by
  show execAmov w s = _
  unfold execAmov
  simp only [bne_iff_ne.2 change, bne_iff_ne.2 pm, free, Bool.and_false, Bool.and_self]
  exact (congrArg (outcome s) (mword_faults ready _ _)).trans (raises_illegal s)

theorem amov_waits (change : (s.core.tile (tileIx w.a)).anchor ≠ s.landingAnchor (tileIx w.d) 4)
    (busy : s.tileBusy (tileIx w.d) = true) : exec (.amov w) s = .next s := by
  show execAmov w s = _
  unfold execAmov
  simp only [bne_iff_ne.2 change, busy, Bool.and_self]
  exact congrArg (outcome s) (mword_waits ready _ _)

end

/-! ### The rounding mode (R78, R275) -/

/-- SETRM has no operands. -/
theorem vread_setrm {w : Wt} {s t : State} {x : VIn} (h : s.vread (shSetrm w) = .ok (x, t)) : t = s := by
  cases h
  rfl

theorem strm_updView (s : State) (f : JobView → JobView) : (s.updView f).strm.view = f s.strm.view := by
  simp only [State.updView, State.strm, State.upd_core, State.updC_core, State.upd_cur, State.updC_cur]
  cases s.cur <;> rfl

theorem sregs_updView (s : State) (f : JobView → JobView) (k : Strm) : ((s.updView f).core.strm k).sregs = (s.core.strm k).sregs := by
  simp only [State.updView, State.strm, State.upd_core, State.updC_core, State.updC_cur]
  cases s.cur <;> cases k <;> rfl

theorem jobv_updView (s : State) (f : JobView → JobView) : (s.updView f).core.jobv = f s.core.jobv := by
  simp only [State.updView, State.upd_core, State.updC_core, State.updC_cur]
  cases s.cur <;> rfl

theorem sameData_updView (s : State) (f : JobView → JobView) :
    s.sameData { s.updView f with core := { (s.updView f).core with jobv := s.core.jobv } } := by
  simp only [State.sameData, State.updView, State.upd_core, State.updC_core, State.updC_cur]
  cases s.cur <;> trivial

theorem setrm_retires {w : Wt} {s u : State} {x : VIn} (ready : s.mready (shSetrm w) .none x u) (mode : w.rm ≠ 5) :
    exec (.setrm w) s = .next ((s.updView fun j => { j with rm := w.rm }).retire 1) := by
  obtain ⟨t, ⟨st, -⟩, vr, -, -, tk⟩ := id ready
  obtain rfl := vread_setrm vr
  obtain rfl : u = t := (Except.ok.inj tk).symm
  show execSetrm w u = _
  unfold execSetrm
  simp only [st, res_ok_bind, beq_eq_false_iff_ne.2 mode, trapIf_false]
  exact congrArg (outcome u) (mword_ready ready _ rfl)

theorem setrm_faults {w : Wt} {s : State} (st : s.static (shSetrm w) = .ok ()) (mode : w.rm = 5) :
    Faults (.setrm w) s (flt .illegalOperand) := by
  show execSetrm w s = _
  unfold execSetrm
  simp only [st, mode, res_ok_bind]
  exact raises_illegal s

/-! ### The format table (R77, R276) -/

theorem readGate_go {s : State} {keys : List Nat} (h : s.gate keys [] = .go) : s.readGate keys = .ok () := by
  simp [State.readGate, h]

theorem classDrained_of {s : State} {cls : Nat} (h : ∀ o ∈ s.core.ops, o.strm = s.cur → o.cls ≠ cls) : s.classDrained cls = true := by
  simpa [State.classDrained] using h

/-- The copy FMTT makes of sixteen entries. -/
def fmtCopy (bs : List Byte) : FmtCopy :=
  { entries := Sparse.ofFn 16 fun i => BitVec.ofNat 64 (leNat ((bs.drop (8 * i)).take 8)), unfilled := none }

theorem fmtCopy_entry (bs : List Byte) {i : Nat} (hi : i < 16) :
    Sparse.get (fmtCopy bs).entries i = BitVec.ofNat 64 (leNat ((bs.drop (8 * i)).take 8)) := by
  rw [fmtCopy, sparse_get_ofFn, if_pos hi]

theorem fmtt_retires {w : Wt} {s : State} {pages : List (Nat × Nat)} (legal : s.legal (shAcc w false 0 .none .none))
    (pg : s.xlateRange .rd s.strm.view.fmtb.toNat 128 = .ok pages) (clean : s.poisonIn pages s.strm.view.fmtb.toNat 128 = false)
    (drained : ∀ o ∈ s.core.ops, o.strm = s.cur → o.cls ≠ 0) (gate : s.gate [keyIn pages s.strm.view.fmtb.toNat] [] = .go) :
    exec (.fmtt w) s = .next (((s.touchRow (keyIn pages s.strm.view.fmtb.toNat)).updC fun c =>
      { c with fmt := fmtCopy (s.bytesIn pages s.strm.view.fmtb.toNat 128) }).retire 1) := by
  obtain ⟨st, aw⟩ := legal
  replace aw : s.await w.toHd = .ok () := aw
  show outcome s (s.fmtt w) = _
  simp [State.fmtt, State.fmtIn, st, aw, pg, classDrained_of drained, clean, readGate_go gate, fmtCopy]

theorem sameData_fmt (s : State) (f : FmtCopy) : s.sameData (s.updC fun c => { c with fmt := f }) :=
  ⟨rfl, rfl, rfl, rfl, rfl, rfl, rfl, rfl, rfl, rfl⟩

theorem sregs_fmt (s : State) (key : Nat) (f : FmtCopy) : s.sameScalars ((s.touchRow key).updC fun c => { c with fmt := f }) := by
  intro k
  rw [State.updC_core, served_core (served_touchRow s key)]
  cases k <;> rfl

/-- Settles O45: each word's effect enters flight from the one way a word of M runs; SETRM and FMTT end at once. -/
theorem tileWordsAndModes : Obligations.TileWordsAndModes := by
  unfold Obligations.TileWordsAndModes
  refine ⟨fun w s u x => ⟨fun ready => ?mclr, fun ready => ⟨?anch, ?ashf, ?range, ?busy⟩, fun ready => ?aaddv,
    fun ready => ⟨?aadd, ?asub, ?amov, ?amovTo, amov_faults ready, amov_waits ready⟩, fun ready => ?acan⟩,
    fun w s u x => ⟨?setrm, setrm_faults, ?fmtt⟩⟩
  case mclr => exact congrArg (outcome s) (mword_ready ready _ rfl)
  case anch => exact fun free => congrArg (outcome s) (anchorWord_sets ready free ((anchorOk_iff _).2 (sextNat12_range _)))
  case ashf => exact fun free lo hi => congrArg (outcome s) (anchorWord_sets ready free ((anchorOk_iff _).2 ⟨lo, hi⟩))
  case range =>
    intro free out
    refine (congrArg (outcome s) (anchorWord_faults ready free (Bool.eq_false_iff.2 ?_))).trans (raises_illegal s)
    rw [Ne, anchorOk_iff]
    omega
  case busy =>
    exact fun busy => ⟨congrArg (outcome s) (anchorWord_waits ready _ busy), congrArg (outcome s) (anchorWord_waits ready _ busy)⟩
  case aaddv => exact congrArg (outcome s) (mword_ready ready _ rfl)
  case aadd => exact congrArg (outcome s) (tileSum_lands ready _)
  case asub => exact congrArg (outcome s) (tileSum_lands ready _)
  case amov => exact fun same => amov_lands ready (c := false) (by simp [same]) rfl (Bool.and_false _)
  case amovTo =>
    intro change pm free
    have h := amov_lands ready (bne_iff_ne.2 change) (by simpa using free) (by simp [pm])
    rwa [if_pos pm] at h
  case acan => exact congrArg (outcome s) (mword_ready ready _ rfl)
  case setrm =>
    intro ready mode
    exact ⟨_, setrm_retires ready mode, sameData_updView _ _, congrArg JobView.rm (strm_updView _ _), congrArg JobView.rm (jobv_updView _ _),
      sregs_updView _ _⟩
  case fmtt =>
    intro pages base legal pg clean drained gate
    exact ⟨_, fmtt_retires legal pg clean drained gate, sameData_fmt _ _, sregs_fmt s _ _, rfl, fun i hi => fmtCopy_entry _ hi⟩

end Sys2Proof.Proofs
end

section
/-!
PROOFS. A save image's header and the restore of a job from the image it was saved to (R345, R346, R389, R44, R47).
-/

namespace Sys2Proof.Proofs
open Sys2Proof Sys2Proof.Machine

/-! ### Fields laid out one after another (R4) -/

/-- Numbers laid out one after another, each with its width in bytes. -/
def fieldsBytes (l : List (Nat × Nat)) : List Byte := l.flatMap fun p => leBytes p.1 p.2

/-- The bytes some fields take. -/
def fieldsLen (l : List (Nat × Nat)) : Nat := (l.map (·.1)).sum

theorem fieldsBytes_append (l m : List (Nat × Nat)) : fieldsBytes (l ++ m) = fieldsBytes l ++ fieldsBytes m := List.flatMap_append

theorem fieldsBytes_cons (p : Nat × Nat) (l : List (Nat × Nat)) : fieldsBytes (p :: l) = leBytes p.1 p.2 ++ fieldsBytes l := rfl

theorem fieldsLen_append (l m : List (Nat × Nat)) : fieldsLen (l ++ m) = fieldsLen l + fieldsLen m := by simp [fieldsLen]

theorem length_fieldsBytes (l : List (Nat × Nat)) : (fieldsBytes l).length = fieldsLen l := by
  simp [fieldsBytes, fieldsLen, List.length_flatMap, leBytes_length]

/-- A field reads as the number it was given, where its width holds it. -/
theorem fieldNat_fields {fs l m : List (Nat × Nat)} {n x : Nat} (split : fs = l ++ (n, x) :: m) (fits : x < 256 ^ n) {off : Nat}
    (at_ : off = fieldsLen l) (rest : List Byte) : fieldNat (fieldsBytes fs ++ rest) off n = x := by
  subst at_ split
  rw [fieldNat, fieldsBytes_append, fieldsBytes_cons, List.append_assoc, List.append_assoc, List.drop_left' (length_fieldsBytes l),
    List.take_left' (leBytes_length n x), leNat_leBytes, Nat.mod_eq_of_lt fits]

/-! ### The header (R345) -/

/-- Offset and length of a section, as two fields. -/
def dirFields (l : List (Nat × Nat)) : List (Nat × Nat) := l.flatMap fun p => [(4, p.1), (4, p.2)]

theorem fieldsLen_dirFields (l : List (Nat × Nat)) : fieldsLen (dirFields l) = 8 * l.length := by
  induction l with
  | nil => rfl
  | cons p l ih =>
    have e : fieldsLen (dirFields (p :: l)) = 8 + fieldsLen (dirFields l) := by
      rw [show dirFields (p :: l) = [(4, p.1), (4, p.2)] ++ dirFields l from rfl, fieldsLen_append]; rfl
    rw [e, ih, List.length_cons]; omega

theorem fieldsBytes_dirFields (l : List (Nat × Nat)) : fieldsBytes (dirFields l) = l.flatMap fun p => leBytes 4 p.1 ++ leBytes 4 p.2 := by
  simp [fieldsBytes, dirFields, List.flatMap_assoc]

/-- The fields of a header before its directory. -/
def leadFields (c : Core) (total gsz stop : Nat) : List (Nat × Nat) :=
  [(2, 1), (2, 256), (4, total), (4, c.job.toNat), (1, c.rank.toNat), (1, gsz), (1, c.did), (1, c.cid),
    (4, 1 + 2 * c.canon.toNat + 4 * c.vbank.toNat), (4, c.savedBanks.foldl (fun a b => a + 2 ^ b) 0), (8, c.lrec), (8, stop)]

/-- The fields after it. -/
def tailFields (c : Core) : List (Nat × Nat) := [(4, (c.pending.flatMap c.pwEnts).length), (124, 0)]

/-- The fields of a header. -/
def headerFields (c : Core) (lens : List Nat) (gsz stop : Nat) : List (Nat × Nat) :=
  leadFields c (256 + lens.sum) gsz stop ++ (dirFields (dirOf 256 lens) ++ tailFields c)

theorem header_fields (c : Core) (lens : List Nat) (gsz stop : Nat) :
    c.header lens gsz stop 1 = fieldsBytes (headerFields c lens gsz stop) := by
  rw [headerFields, fieldsBytes_append, fieldsBytes_append, fieldsBytes_dirFields]
  simp [Core.header, leadFields, tailFields, fieldsBytes, List.append_assoc]

theorem length_dirOf (o : Nat) (lens : List Nat) : (dirOf o lens).length = lens.length := by
  induction lens generalizing o with
  | nil => rfl
  | cons n r ih => rw [dirOf, List.length_cons, ih, List.length_cons]

/-- The directory gives each section where the sections before it end. -/
theorem dirOf_split {lens : List Nat} {i : Nat} (h : i < lens.length) (o : Nat) :
    ∃ l m, dirOf o lens = l ++ (o + (lens.take i).sum, lens[i]) :: m ∧ l.length = i := by
  induction lens generalizing i o with
  | nil => simp at h
  | cons n r ih =>
    cases i with
    | zero => exact ⟨[], dirOf (o + n) r, rfl, rfl⟩
    | succ i =>
      obtain ⟨l, m, e, hl⟩ := ih (Nat.lt_of_succ_lt_succ h) (o + n)
      refine ⟨(o, n) :: l, m, ?_, by simp [hl]⟩
      simp [dirOf, e, Nat.add_assoc]

theorem length_header {c : Core} {lens : List Nat} (eleven : lens.length = 11) (gsz stop : Nat) : (c.header lens gsz stop 1).length = 256 := by
  rw [header_fields, length_fieldsBytes, headerFields, fieldsLen_append, fieldsLen_append, fieldsLen_dirFields, length_dirOf, eleven]
  rfl

/-- An entry of the directory reads as the section's place and length. -/
theorem imgDir_header {c : Core} {lens : List Nat} {gsz stop i : Nat} (h : i < lens.length) (fits : 256 + lens.sum < 2 ^ 32) (rest : List Byte) :
    imgDir (c.header lens gsz stop 1 ++ rest) i = (256 + (lens.take i).sum, lens[i]) := by
  obtain ⟨l, m, e, hl⟩ := dirOf_split h 256
  have lead : fieldsLen (leadFields c (256 + lens.sum) gsz stop ++ dirFields l) = 40 + 8 * i := by
    rw [fieldsLen_append, fieldsLen_dirFields, hl]; rfl
  have whole : (lens.take i).sum + lens[i] ≤ lens.sum := by
    conv_rhs => rw [← List.take_append_drop i lens, List.sum_append, List.drop_eq_getElem_cons h, List.sum_cons]
    omega
  have split : headerFields c lens gsz stop = (leadFields c (256 + lens.sum) gsz stop ++ dirFields l) ++
      (4, 256 + (lens.take i).sum) :: (4, lens[i]) :: (dirFields m ++ tailFields c) := by
    simp [headerFields, e, dirFields]
  rw [imgDir, header_fields, fieldNat_fields split (by omega) lead.symm,
    fieldNat_fields (l := _ ++ [(4, 256 + (lens.take i).sum)]) (split.trans (List.append_cons _ _ _)) (by omega)
      (by rw [fieldsLen_append, lead]; simp [fieldsLen]; omega)]

/-- What the fields of a header before its directory read as. -/
theorem header_reads {c : Core} {lens : List Nat} {gsz stop : Nat} (small : 256 + lens.sum < 2 ^ 32) (hg : gsz < 256) (hd : c.did < 256)
    (hc : c.cid < 256) (hl : c.lrec < 2 ^ 64) (hs : stop < 2 ^ 64) (rest : List Byte) :
    let bs := c.header lens gsz stop 1 ++ rest
    fieldNat bs 0 2 = 1 ∧ fieldNat bs 2 2 = 256 ∧ fieldNat bs 4 4 = 256 + lens.sum ∧ fieldNat bs 8 4 = c.job.toNat ∧
      fieldNat bs 12 1 = c.rank.toNat ∧ fieldNat bs 13 1 = gsz ∧ fieldNat bs 14 1 = c.did ∧ fieldNat bs 15 1 = c.cid ∧
      fieldNat bs 16 4 = 1 + 2 * c.canon.toNat + 4 * c.vbank.toNat ∧ fieldNat bs 24 8 = c.lrec ∧ fieldNat bs 32 8 = stop := by
  have hj := c.job.isLt
  have hr := c.rank.isLt
  have hcanon := c.canon.toNat_le
  have hvbank := c.vbank.toNat_le
  have field := fun (k : Nat) {m : List (Nat × Nat)} {n x off : Nat}
      (split : headerFields c lens gsz stop = (leadFields c (256 + lens.sum) gsz stop).take k ++ (n, x) :: m)
      (fits : x < 256 ^ n) (at_ : off = fieldsLen ((leadFields c (256 + lens.sum) gsz stop).take k)) => fieldNat_fields split fits at_ rest
  rw [header_fields]
  exact ⟨field 0 rfl (by omega) rfl, field 1 rfl (by omega) rfl, field 2 rfl (by omega) rfl, field 3 rfl (by omega) rfl, field 4 rfl (by omega) rfl,
    field 5 rfl (by omega) rfl, field 6 rfl (by omega) rfl, field 7 rfl (by omega) rfl, field 8 rfl (by omega) rfl, field 10 rfl (by omega) rfl,
    field 11 rfl (by omega) rfl⟩

/-! ### The restore (R44, R47, R389) -/

theorem edited_same {α : Type} [DecidableEq α] (w k : α) : edited w w k = k := if_pos rfl

theorem get_editedMap_same {V : Type} [Inhabited V] [DecidableEq V] {n i : Nat} (h : i < n) (w k : Sparse V) :
    Sparse.get (editedMap n w w k) i = Sparse.get k i := by
  rw [editedMap, sparse_get_ofFn, if_pos h, edited_same]

theorem get_map {V : Type} [Inhabited V] (f : V → V) (default_ : f default = default) (m : Sparse V) (i : Nat) :
    Sparse.get (m.map fun q => (q.1, f q.2)) i = f (Sparse.get m i) := by
  induction m with
  | nil => exact default_.symm
  | cons p m ih =>
    obtain ⟨a, v⟩ := p
    simp only [List.map_cons, Sparse.get, ih]
    split <;> rfl

/-- A port whose image has not been edited is as the device kept it. -/
theorem port_restore_same (w k : Port) : Port.restore w w k = k := by
  simp [Port.restore, edited_same]

/-- A stream whose image has not been edited keeps what the device kept; only its table of scalars is written out again. -/
theorem strm_restore_same (w k : StrmSt) : StrmSt.restore w w k = { k with sregs := editedMap 32 w.sregs w.sregs k.sregs } := by
  simp [StrmSt.restore, edited_same]

theorem sreg_restore_same (w k : StrmSt) {n : Nat} (h : n < 32) : (StrmSt.restore w w k).sreg n = k.sreg n := by
  rw [strm_restore_same, StrmSt.sreg, StrmSt.sreg, get_editedMap_same h]

/-- A stream restored from the image it was saved to stands as it stood, its times moved. -/
theorem strm_comesBack (w k : StrmSt) (f : Nat → Nat) (v : JobView) :
    let x := { StrmSt.restore w w (k.later f) with view := v }
    (∀ n < 32, x.sreg n = k.sreg n) ∧ x.pc = k.pc ∧ x.atHdr = k.atHdr ∧ x.handler = k.handler ∧ x.held = k.held ∧ x.lc = k.lc ∧
      x.rrb = k.rrb ∧ x.evh = k.evh ∧ x.evc = k.evc ∧ x.eva = k.eva ∧ x.epc = k.epc ∧ x.ord = k.ord ∧ x.ret = k.ret ∧
      x.tokens = k.tokens ∧ x.busy = k.busy := by
  refine ⟨fun n h => sreg_restore_same w (k.later f) h, ?_⟩
  rw [strm_restore_same]
  exact ⟨rfl, rfl, rfl, rfl, rfl, rfl, rfl, rfl, rfl, rfl, rfl, rfl, rfl, rfl⟩

theorem mask_comesBack (w c : Core) (start : Nat) {n : Nat} (h : n < 16) : (Core.restore w w c start).mask n = c.mask n := by
  have e : Sparse.get (Core.restore w w c start).masks n = Sparse.get c.masks n := get_editedMap_same h w.masks c.masks
  simp only [Core.mask, e]

theorem port_comesBack (w c : Core) (start : Nat) {n : Nat} (h : n < 8) : (Core.restore w w c start).port n = c.port n := by
  have e : (Core.restore w w c start).port n = Sparse.get (Sparse.ofFn 8 fun i => Port.restore (w.port i) (w.port i) (c.port i)) n := rfl
  rw [e, sparse_get_ofFn, if_pos h, port_restore_same]

/-- Each write in flight is due as many cycles after the start as it was after the cycle in which the job would next have issued (R46). -/
theorem pending_comesBack {w c : Core} (start : Nat) (late : ∀ p ∈ c.pending, c.turnAt ≤ p.due) :
    (Core.restore w w c start).pending = c.pending.map fun p => { p with due := start + (p.due - c.turnAt) } := by
  have e : (Core.restore w w c start).pending = (c.later start).pending := if_pos rfl
  rw [e]
  refine List.map_congr_left fun p hp => ?_
  have := late p hp
  have due : p.due + start - c.turnAt = start + (p.due - c.turnAt) := by omega
  exact congrArg (fun d => { p with due := d }) due

/-- Settles O56: the header reads field by field as it was laid out; a restore with an unedited image takes every field from the job as the device kept it. -/
theorem savedJobsComeBack : Obligations.SavedJobsComeBack := by
  unfold Obligations.SavedJobsComeBack
  intro c w gsz stop f start scratch
  refine ⟨?header, ?restore⟩
  case header =>
    intro bs secs small hg hd hc hl hs
    have header : bs = c.header (secs.map List.length) gsz stop 1 ++ secs.flatten := rfl
    have eleven : (secs.map List.length).length = 11 := rfl
    have size : bs.length = 256 + (secs.map List.length).sum := by
      rw [header, List.length_append, length_header eleven, List.length_flatten]
    obtain ⟨f1, f2, f3, f4, f5, f6, f7, f8, f9, f10, f11⟩ := header_reads (c := c) (lens := secs.map List.length) (stop := stop)
      (by omega) hg hd hc hl hs secs.flatten
    refine ⟨f1, f2, f3.trans size.symm, f4, f5, f6, f7, f8, f9, f10, f11, rfl, List.drop_left' (length_header eleven gsz stop), fun i hi => ?_⟩
    rw [header, imgDir_header (by omega) (by omega), List.map_take, List.getElem_map, List.getD_eq_getElem]
  case restore =>
    refine ⟨fun n h => get_editedMap_same h w.vregs c.vregs, fun n _ h => mask_comesBack w c start h, fun n h => get_editedMap_same h w.tiles c.tiles,
      fun n h => ?queue, fun n h => ?port, edited_same _ _, edited_same _ _, rfl, rfl, rfl, pending_comesBack start, fun k => ?strm⟩
    case queue => exact (get_editedMap_same h w.queues _).trans (get_map _ rfl c.queues n)
    case port => exact port_comesBack w c start h
    case strm => cases k <;> exact strm_comesBack _ _ _ _

end Sys2Proof.Proofs
end

section
/-!
PROOFS. The system registers of a job and of the dies, and the shared operations that leave them alone (R51).
-/

namespace Sys2Proof.Proofs
open Sys2Proof Sys2Proof.Machine

/-! ### The system registers (R50, R51) -/

/-- A core's view and the system registers of its job. -/
@[simp] def coreSys (c : Core) : Bool × Word × BitVec 32 × BitVec 32 × Word := (c.sys, c.jobv.ptb, c.jobv.cntc, c.jobv.dbg, c.rcb)

/-- Those of the core under view, with the row thresholds of the dies. -/
def sysRegs (s : State) : (Bool × Word × BitVec 32 × BitVec 32 × Word) × List Nat := (coreSys s.core, s.dies.map (·.mth))

theorem sysRegs_congr {s t : State} (core : coreSys t.core = coreSys s.core) (dies : t.dies.map (·.mth) = s.dies.map (·.mth)) :
    sysRegs t = sysRegs s := by rw [sysRegs, sysRegs, core, dies]

/-! ### A core, a stream, a die -/

@[simp] theorem sysRegs_updC {s : State} {f : Core → Core} (h : coreSys (f s.core) = coreSys s.core) : sysRegs (s.updC f) = sysRegs s :=
  sysRegs_congr h rfl

theorem coreSys_setStrm (c : Core) (k : Strm) (x : StrmSt) : coreSys (c.setStrm k x) = coreSys c := by cases k <;> rfl

@[simp] theorem sysRegs_setStrm (s : State) (x : StrmSt) : sysRegs (s.setStrm x) = sysRegs s := sysRegs_congr (coreSys_setStrm ..) rfl
@[simp] theorem sysRegs_upd (s : State) (f : StrmSt → StrmSt) : sysRegs (s.upd f) = sysRegs s := sysRegs_setStrm ..
@[simp] theorem sysRegs_retire (s : State) (n : Nat) : sysRegs (s.retire n) = sysRegs s := sysRegs_upd ..
@[simp] theorem sysRegs_transfer (s : State) (x : StrmSt) (n : Nat) : sysRegs (s.transfer x n) = sysRegs s := sysRegs_setStrm ..

/-- A change to a die keeps what a function of the dies gives where it keeps that of the die. -/
theorem dies_map_updDie {α : Type} {g : Die → α} {s : State} {d : Nat} {f : Die → Die} (h : g (f (s.die d)) = g (s.die d)) :
    (s.updDie d f).dies.map g = s.dies.map g := by
  refine List.ext_getElem? fun i => ?_
  rw [State.updDie_dies, List.getElem?_map, List.getElem?_map, List.getElem?_set]
  split
  · rename_i e; subst e
    split
    · rename_i hd
      have die : s.die d = s.dies[d] := by simp [State.die, List.getD_eq_getElem?_getD, List.getElem?_eq_getElem hd]
      rw [List.getElem?_eq_getElem hd, Option.map_some, Option.map_some, h, die]
    · rename_i hd; simp [List.getElem?_eq_none (Nat.le_of_not_lt hd)]
  · rfl

/-- Where a function of the dies is kept, so is that of each die. -/
theorem die_of_dies_map {α : Type} {g : Die → α} {s t : State} (h : t.dies.map g = s.dies.map g) (d : Nat) : g (t.die d) = g (s.die d) := by
  have get : ∀ u : State, g (u.die d) = (u.dies.map g).getD d (g Die.reset) := fun u => by
    simp only [State.die, List.getD_eq_getElem?_getD, List.getElem?_map]
    cases u.dies[d]? <;> rfl
  rw [get, get, h]

@[simp] theorem sysRegs_updDie {s : State} {d : Nat} {f : Die → Die} (h : (f (s.die d)).mth = (s.die d).mth) :
    sysRegs (s.updDie d f) = sysRegs s := sysRegs_congr rfl (dies_map_updDie h)

theorem mth_of_sysRegs {s t : State} (h : sysRegs t = sysRegs s) (d : Nat) : (t.die d).mth = (s.die d).mth :=
  die_of_dies_map (congrArg (·.2) h) d

theorem sysRegs_ite {c : Prop} [Decidable c] {s t u : State} (ht : sysRegs t = sysRegs s) (hu : sysRegs u = sysRegs s) :
    sysRegs (if c then t else u) = sysRegs s := ite_both (P := fun x => sysRegs x = sysRegs s) ht hu

/-- A step over a list leaves them alone where each of its steps does. -/
theorem sysRegs_foldl {α : Type} {f : State → α → State} (h : ∀ s a, sysRegs (f s a) = sysRegs s) (l : List α) (s : State) :
    sysRegs (l.foldl f s) = sysRegs s := by
  induction l generalizing s with
  | nil => rfl
  | cons a l ih => exact (ih _).trans (h s a)

theorem sysRegs_updJob {s : State} {lrec job : Nat} {f : Core → Core} (h : ∀ c, coreSys (f c) = coreSys c) :
    sysRegs (s.updJob lrec job f) = sysRegs s := sysRegs_ite (sysRegs_updC (h _)) rfl

@[simp] theorem sysRegs_endOp (s : State) (r : Option TokRef) (e : Option FaultInfo) : sysRegs (s.endOp r e) = sysRegs s := by
  cases r with
  | none => rfl
  | some t => exact sysRegs_updJob fun _ => coreSys_setStrm ..

theorem coreSys_deliver (c : Core) (d : SDest) (v : Word) : coreSys (c.deliver d v) = coreSys c := by
  cases d with
  | none => rfl
  | scal k n => exact coreSys_setStrm ..
  | queue q id => rfl

@[simp] theorem sysRegs_deliver (s : State) (d : DestRef) (v : Word) : sysRegs (s.deliver d v) = sysRegs s :=
  sysRegs_updJob fun _ => coreSys_deliver ..

/-! ### Memory, rows, records -/

@[simp] theorem sysRegs_writeMem (s : State) (key : Nat) (bs : List Byte) : sysRegs (s.writeMem key bs) = sysRegs s :=
  sysRegs_ite rfl (sysRegs_ite ((sysRegs_updDie rfl).trans rfl) rfl)

@[simp] theorem sysRegs_writeRuns (s : State) (l : List (Nat × List Byte)) : sysRegs (s.writeRuns l) = sysRegs s := by
  induction l generalizing s with
  | nil => rfl
  | cons x l ih => exact (ih _).trans (sysRegs_writeMem ..)

@[simp] theorem sysRegs_writeIn (s : State) (p : List (Nat × Nat)) (va : Nat) (bs : List Byte) : sysRegs (s.writeIn p va bs) = sysRegs s :=
  sysRegs_writeRuns ..

@[simp] theorem sysRegs_devWrite (s : State) (key : Nat) (bs : List Byte) : sysRegs (s.devWrite key bs) = sysRegs s :=
  sysRegs_ite rfl (sysRegs_writeMem ..)

@[simp] theorem sysRegs_copyFrame (s : State) (a b n : Nat) : sysRegs (s.copyFrame a b n) = sysRegs s := sysRegs_ite rfl rfl

theorem sysRegs_writeRecord (s : State) (node : Nat) (r : FRec) : sysRegs (s.writeRecord node r) = sysRegs s := by
  have signalled : ∀ (t : State) (v : Nat), sysRegs (t.msix v) = sysRegs t := fun _ _ => rfl
  unfold State.writeRecord
  extract_lets fq rseq s1 base size head tail v vec s2
  have h1 : sysRegs s1 = sysRegs s := rfl
  have h2 : sysRegs s2 = sysRegs s1 :=
    sysRegs_ite (sysRegs_writeMem ..) ((sysRegs_writeMem ..).trans (sysRegs_writeMem ..))
  exact sysRegs_ite h1 ((signalled s2 vec).trans (h2.trans h1))

@[simp] theorem sysRegs_postRecord (s : State) (node : Nat) (r : FRec) : sysRegs (s.postRecord node r) = sysRegs s :=
  sysRegs_ite rfl (sysRegs_writeRecord ..)

@[simp] theorem sysRegs_postJob (s : State) (c : Core) (r : FRec) : sysRegs (s.postJob c r) = sysRegs s := sysRegs_ite rfl (sysRegs_postRecord ..)

theorem sysRegs_rowAlert (s : State) (key r : Nat) : sysRegs (s.rowAlert key r) = sysRegs s :=
  sysRegs_ite (sysRegs_ite rfl (sysRegs_postRecord ..)) rfl

@[simp] theorem sysRegs_touchRow (s : State) (key : Nat) : sysRegs (s.touchRow key) = sysRegs s :=
  sysRegs_ite (sysRegs_ite rfl rfl) (sysRegs_ite rfl (sysRegs_ite rfl (sysRegs_ite (sysRegs_rowAlert ..) rfl)))

@[simp] theorem sysRegs_touchRows (s : State) (l : List Nat) : sysRegs (s.touchRows l) = sysRegs s := by
  induction l generalizing s with
  | nil => rfl
  | cons k l ih => exact (ih _).trans (sysRegs_touchRow ..)

@[simp] theorem sysRegs_fillTlb (s : State) (va : Nat) : sysRegs (s.fillTlb va) = sysRegs s := by
  unfold State.fillTlb
  extract_lets ptb
  refine sysRegs_ite rfl ?_
  split
  · rfl
  · extract_lets e add miss walked s0 s1
    have h1 : sysRegs s1 = sysRegs s := (sysRegs_updDie rfl).trans (sysRegs_ite (sysRegs_touchRows ..) rfl)
    refine (sysRegs_updC ?_).trans h1
    obtain ⟨p, hp⟩ := countIf_frame miss 8 s1.core
    obtain ⟨q, hq⟩ := countIf_frame walked 9 { s1.core with pmc := p }
    dsimp only
    rw [hp, hq]
    rfl

@[simp] theorem sysRegs_fillTlbs (s : State) (l : List Nat) : sysRegs (s.fillTlbs l) = sysRegs s :=
  sysRegs_foldl (fun _ _ => sysRegs_fillTlb ..) _ s

/-! ### Faults and stops (R350, R352) -/

@[simp] theorem sysRegs_haltGang (s : State) (lrec g : Nat) (k : StopKind) : sysRegs (s.haltGang lrec g k) = sysRegs s := by
  refine sysRegs_congr ?_ rfl
  simp only [State.haltGang]
  split <;> rfl

@[simp] theorem sysRegs_stall (s : State) (keys : List Nat) : sysRegs (s.stall keys) = sysRegs s := sysRegs_ite rfl (sysRegs_updC rfl)

theorem sysRegs_raise (s : State) (f : FaultInfo) : sysRegs (s.raise f) = sysRegs s := by
  unfold State.raise
  dsimp only
  refine (sysRegs_haltGang ..).trans (Eq.trans (b := sysRegs _) rfl ((sysRegs_postJob ..).trans ?_))
  have held : sysRegs (match f.tok with
    | some (t, n) => s.upd fun x => x.setToken t ((x.token t).clearRaised n)
    | none => s) = sysRegs s := by
    split
    · exact sysRegs_upd ..
    · rfl
  exact sysRegs_ite ((sysRegs_upd ..).trans held) held

end Sys2Proof.Proofs
end

section
/-!
PROOFS. Attempts whose every answer satisfies a predicate, and the shared parts of words: none writes a system register (R51).
-/

namespace Sys2Proof.Proofs
open Sys2Proof Sys2Proof.Machine

/-! ### What an attempt answers -/

/-- Every answer of an attempt satisfies `P`. -/
structure Gives {α : Type} (P : α → Prop) (r : Res α) : Prop where
  of : ∀ a, r = .ok a → P a

theorem gives_ok {α : Type} {P : α → Prop} {a : α} (h : P a) : Gives P (.ok a) := ⟨fun _ e => Except.ok.inj e ▸ h⟩
theorem gives_error {α : Type} {P : α → Prop} (e : Halt) : Gives P (.error e) := ⟨fun _ h => nomatch h⟩

theorem gives_bind {α β : Type} {P : α → Prop} {Q : β → Prop} {r : Res α} {f : α → Res β} (h : Gives P r) (next : ∀ a, P a → Gives Q (f a)) :
    Gives Q (r >>= f) := ⟨fun _ e =>
  let ⟨a, hf, hr⟩ := res_stages e
  (next a (h.of a hr)).of _ hf⟩

/-- A check, or a value of which nothing is needed, comes first. -/
theorem gives_then {α β : Type} {Q : β → Prop} {r : Res α} {f : α → Res β} (next : ∀ a, Gives Q (f a)) : Gives Q (r >>= f) :=
  gives_bind (P := fun _ => True) ⟨fun _ _ => trivial⟩ fun a _ => next a

theorem gives_ite {α : Type} {P : α → Prop} {c : Prop} [Decidable c] {a b : Res α} (ha : Gives P a) (hb : Gives P b) :
    Gives P (if c then a else b) := ite_both (P := Gives P) ha hb

theorem gives_mono {α : Type} {P Q : α → Prop} {r : Res α} (h : Gives P r) (mono : ∀ a, P a → Q a) : Gives Q r := ⟨fun a e => mono a (h.of a e)⟩

/-! ### Attempts that keep the system registers -/

/-- Every state an attempt answers has the system registers of `s`. -/
def KeepsSys (s : State) (r : Res State) : Prop := Gives (fun t => sysRegs t = sysRegs s) r
/-- The same of an attempt that answers a value too. -/
def KeepsSysOf {α : Type} (s : State) (r : Res (α × State)) : Prop := Gives (fun x => sysRegs x.2 = sysRegs s) r

/-- A state handed over, which has the registers of `s`, then goes on. -/
theorem keeps_bind {α : Type} {s u : State} {r : Res (α × State)} {f : α × State → Res State} (h : KeepsSysOf u r) (hu : sysRegs u = sysRegs s)
    (next : ∀ x : α × State, sysRegs x.2 = sysRegs s → KeepsSys s (f x)) : KeepsSys s (r >>= f) :=
  gives_bind h fun x hx => next x (hx.trans hu)

theorem keeps_bind₁ {s u : State} {r : Res State} {f : State → Res State} (h : KeepsSys u r) (hu : sysRegs u = sysRegs s)
    (next : ∀ x, sysRegs x = sysRegs s → KeepsSys s (f x)) : KeepsSys s (r >>= f) := gives_bind h fun x hx => next x (hx.trans hu)

theorem keeps_trans {s u : State} {r : Res State} (h : KeepsSys u r) (hu : sysRegs u = sysRegs s) : KeepsSys s r :=
  gives_mono h fun _ e => e.trans hu

/-- What an attempt of a word leads to: the answer, or a fault taken. -/
theorem sysRegs_outcome {s t : State} {r : Res State} (h : KeepsSys s r) (e : outcome s r = .next t) : sysRegs t = sysRegs s := by
  cases r with
  | ok u => exact Host.Outcome.next.inj e ▸ h.of u rfl
  | error x =>
    cases x with
    | wait => exact Host.Outcome.next.inj e ▸ rfl
    | bank keys => exact Host.Outcome.next.inj e ▸ sysRegs_stall ..
    | trap f =>
      rw [outcome_trap, takeFault] at e
      split at e
      · cases e
      · exact Host.Outcome.next.inj e ▸ sysRegs_raise ..

/-! ### Scalars, queues, ports, registers (R30, R37, R38, R238) -/

theorem readS_keeps (s : State) (f : OpField) : KeepsSysOf s (s.readS f) := by
  refine ⟨fun ⟨v, t⟩ e => ?_⟩
  obtain ⟨q, rfl⟩ := readS_frame e
  rfl

theorem sources_keeps (s : State) (h : Shape) : KeepsSysOf s (s.sources h) := by
  refine ⟨fun ⟨⟨a, b, c⟩, t⟩ e => ?_⟩
  obtain ⟨q, rfl⟩ := sources_frame e
  rfl

theorem writeS_keeps (s : State) (f : OpField) (v : Word) (cost : Nat) : KeepsSys s (s.writeS f v cost) :=
  gives_ite (gives_ite (gives_ok rfl) (gives_ite (gives_error _) (gives_ok (sysRegs_upd ..)))) (gives_ite (gives_ok (sysRegs_updC rfl)) (gives_error _))

theorem reserveS_keeps (s : State) (f : OpField) : KeepsSysOf s (s.reserveS f) :=
  gives_ite (gives_ite (gives_ok rfl) (gives_ite (gives_error _) (gives_ok (sysRegs_upd ..)))) (gives_ite (gives_ok rfl) (gives_error _))

theorem reservePort_keeps (s : State) (p n : Nat) : KeepsSysOf s (s.reservePort p n) := by
  refine ⟨fun ⟨l, t⟩ e => ?_⟩
  obtain ⟨-, q, m, rfl⟩ := reservePort_frame e
  rfl

theorem readV_keeps (s : State) (f : OpField) (n : Nat) : KeepsSysOf s (s.readV f n) := by
  refine ⟨fun ⟨l, t⟩ e => ?_⟩
  obtain ⟨p, q, rfl⟩ := readV_frame e
  rfl

theorem vsource_keeps (s : State) (k : OpK) (f : OpField) : KeepsSysOf s (s.vsource k f) := by
  unfold State.vsource
  split
  · exact readV_keeps ..
  · split
    · exact gives_error _
    · exact gives_ok ((readS_keeps s f).of _ ‹_›)
  · exact gives_ok rfl

theorem vread_keeps (s : State) (h : Shape) : KeepsSysOf s (s.vread h) :=
  gives_bind (vsource_keeps ..) fun ⟨_, s1⟩ h1 => gives_bind (vsource_keeps s1 ..) fun ⟨_, s2⟩ h2 => gives_bind (vsource_keeps s2 ..) fun _ h3 =>
    gives_ok (h3.trans (h2.trans h1))

@[simp] theorem sysRegs_pend (s : State) (lat : Nat) (e : PEff) (ev : List Nat) : sysRegs (s.pend lat e ev) = sysRegs s :=
  (sysRegs_upd ..).trans rfl

/-- The tiles of a result bound for a port, one write each. -/
theorem sysRegs_pendTiles {p lat : Nat} (l : List (Nat × RegPart)) (a : State × List Nat) :
    sysRegs (l.foldl (fun acc x => (acc.1.pend lat (.port p x.1 x.2.val) acc.2, [])) a).1 = sysRegs a.1 := by
  induction l generalizing a with
  | nil => rfl
  | cons x l ih => exact (ih _).trans (sysRegs_pend ..)

theorem writeV_keeps (s : State) (f : OpField) (lat : Nat) (parts : List RegPart) (ev : List Nat) : KeepsSys s (s.writeV f lat parts ev) := by
  unfold State.writeV
  refine gives_ite (gives_ok (sysRegs_pend ..)) ?_
  split
  · exact gives_error _
  · have h1 := (reservePort_keeps s _ _).of _ ‹_›
    exact gives_ok ((sysRegs_pendTiles ..).trans h1)

theorem putElems_keeps (s : State) (t : ETy) (d : OpField) (p : BitVec 1024) (lat : Nat) (f : Nat → Nat → Option Rounded) :
    KeepsSys s (s.putElems t d p lat f) := writeV_keeps ..

@[simp] theorem sysRegs_putMask (s : State) (d : OpField) (lat : Nat) (p v : BitVec 1024) : sysRegs (s.putMask d lat p v) = sysRegs s :=
  sysRegs_pend ..

/-! ### Batches, accesses, the memory port (R96, R100, R212) -/

theorem joinWord_keeps (s : State) (tke : Bool) (n : Nat) (opn : Bool) : KeepsSysOf s (s.joinWord tke n opn) := by
  refine gives_ite (gives_error _) (gives_ok ?_)
  cases tke with
  | false => rfl
  | true => exact (sysRegs_upd ..).trans rfl

theorem joinW_keeps (s : State) (w : Wm) : KeepsSysOf s (s.joinW w) := joinWord_keeps ..

@[simp] theorem sysRegs_addOpAt (s : State) (cls : Nat) (kinds : BitVec 6) (va : Nat) (vas : List (Nat × Nat)) (b : MBody) (tok : Option TokRef)
    (wait : Nat) : sysRegs (s.addOpAt cls kinds va vas b tok wait) = sysRegs s := (sysRegs_fillTlbs ..).trans rfl

@[simp] theorem sysRegs_addOp (s : State) (cls : Nat) (kinds : BitVec 6) (va : Nat) (b : MBody) (tok : Option TokRef) (wait : Nat) :
    sysRegs (s.addOp cls kinds va b tok wait) = sysRegs s := sysRegs_addOpAt ..

/-- A word that needs the memory port takes it and goes on, or stands at issue. -/
theorem withPort_keeps {s t u : State} {p : PortUser} {lead cycles : Nat} {go : State → Res State} (hs : sysRegs t = sysRegs s)
    (hu : sysRegs u = sysRegs s) (next : ∀ x, sysRegs x = sysRegs s → KeepsSys s (go x)) : KeepsSys s (t.withPort p lead cycles u go) :=
  gives_ite (next _ ((sysRegs_updC rfl).trans hu)) (gives_ok ((sysRegs_updC rfl).trans hs))

/-- The state in which a word stands at issue until its descriptor is read. -/
theorem descriptor_keeps {s t : State} {w : Wm} {a : Word} (e : s.descriptor w a = .ok (.inl t)) : sysRegs t = sysRegs s := by
  have gives : Gives (fun x => ∀ t, x = Sum.inl t → sysRegs t = sysRegs s) (s.descriptor w a) := by
    refine gives_then fun _ => gives_then fun _ => ?_
    split
    · exact gives_ok fun _ e => Sum.inl.inj e ▸ (sysRegs_upd ..).trans (sysRegs_addOp ..)
    · split
      · exact gives_error _
      · exact gives_error _
      · exact gives_ok fun _ e => nomatch e
  exact gives.of _ e t rfl

/-- A word that takes a descriptor stands at issue until it is read, and goes on. -/
theorem withDesc_keeps {s : State} {w : Wm} {a : Word} {go : List Byte → Res State} (next : ∀ bs, KeepsSys s (go bs)) :
    KeepsSys s (withDesc (s.descriptor w a) go) := by
  unfold withDesc
  split
  · exact gives_error _
  · exact gives_ok (descriptor_keeps ‹_›)
  · exact next _

/-! ### Acceptance by an engine (R283, R286) -/

/-- A word is sent to its engine, waits for it, or goes on once it is accepted. -/
theorem accept_keeps {s t u : State} {e : Engine} {go : State → Res State} (hs : sysRegs t = sysRegs s) (hu : sysRegs u = sysRegs s)
    (next : ∀ x, sysRegs x = sysRegs s → KeepsSys s (go x)) : KeepsSys s (t.accept e u go) := by
  unfold State.accept
  split
  · exact gives_ok ((sysRegs_upd ..).trans hs)
  · exact gives_ite (next _ ((sysRegs_updDie (by cases e <;> rfl)).trans hu)) (gives_error _)

theorem acceptDesc_keeps {s u : State} {e : Engine} {w : Wm} {a : Word} {go : List Byte → State → Res State} (hu : sysRegs u = sysRegs s)
    (next : ∀ bs x, sysRegs x = sysRegs s → KeepsSys s (go bs x)) : KeepsSys s (s.acceptDesc e w a u go) := by
  unfold State.acceptDesc
  split
  · exact gives_error _
  · exact gives_ok ((sysRegs_upd ..).trans (descriptor_keeps ‹_›))
  · exact accept_keeps rfl hu (next _)

end Sys2Proof.Proofs
end

section
/-!
PROOFS. Arithmetic, control, special-register and memory words of A leave the system registers alone (R51).
-/

namespace Sys2Proof.Proofs
open Sys2Proof Sys2Proof.Machine

/-! ### Arithmetic and control (R182 to R203) -/

theorem aluIf_keeps (s : State) (h : Shape) (ok : Bool) (cost : Nat) (f : Word → Word → Word → Word) : KeepsSys s (s.aluIf h ok cost f) :=
  gives_then fun _ => gives_then fun _ => keeps_bind (sources_keeps ..) rfl fun ⟨⟨_, _, _⟩, _⟩ h1 => gives_then fun _ =>
    keeps_bind₁ (writeS_keeps ..) h1 fun _ h2 => gives_ok ((sysRegs_retire ..).trans h2)

theorem alu_keeps (s : State) (h : Shape) (cost : Nat) (f : Word → Word → Word → Word) : KeepsSys s (s.alu h cost f) := aluIf_keeps ..

theorem divide_keeps (s : State) (h : Shape) (signed : Bool) (f : Word → Word → Word) : KeepsSys s (s.divide h signed f) :=
  gives_then fun _ => keeps_bind (sources_keeps ..) rfl fun ⟨⟨_, _, _⟩, _⟩ h1 => gives_then fun _ => gives_then fun _ =>
    keeps_bind₁ (writeS_keeps ..) h1 fun _ h2 => gives_ok (by simp [h2])

theorem branchTo_keeps (s : State) (h : Shape) (t : Res Word) (take : Word → Word → Bool) (cost : Nat) : KeepsSys s (s.branchTo h t take cost) :=
  gives_then fun _ => gives_then fun _ => gives_then fun _ => keeps_bind (sources_keeps ..) rfl fun ⟨⟨_, _, _⟩, _⟩ h1 => gives_then fun _ =>
    gives_ok (sysRegs_ite (by simp [h1]) (by simp [h1]))

theorem call_keeps (s : State) (w : Wi) : KeepsSys s (s.call w) :=
  gives_then fun _ => gives_then fun _ => gives_then fun _ => keeps_bind₁ (writeS_keeps ..) rfl fun _ h1 => gives_ok (by simp [h1])

theorem ret_keeps (s : State) (w : Wi) : KeepsSys s (s.ret w) :=
  gives_then fun _ => keeps_bind (sources_keeps ..) rfl fun ⟨⟨_, _, _⟩, _⟩ h1 => gives_then fun _ => gives_then fun _ => gives_ok (by simp [h1])

@[simp] theorem sysRegs_setWindowMask (s : State) (rrb i : Nat) (v : BitVec 1024) : sysRegs (s.setWindowMask rrb i v) = sysRegs s := by
  unfold State.setWindowMask
  split
  · rfl
  · exact sysRegs_updC (by unfold Core.setMask; split <;> rfl)

theorem loop_keeps (s : State) (w : Wi) : KeepsSys s (s.loop w) :=
  gives_then fun _ => gives_then fun _ => gives_then fun _ => gives_then fun _ => gives_ite (gives_ok (sysRegs_retire ..))
    (gives_ite (keeps_bind₁ (gives_ok rfl) rfl fun _ h1 => gives_ok (by simp [h1]))
      (keeps_bind₁ (writeS_keeps ..) rfl fun _ h1 => gives_ok (by simp [h1])))

theorem loopi_keeps (s : State) (w : Wi) : KeepsSys s (s.loopi w) :=
  gives_then fun _ => gives_then fun _ => gives_then fun _ => gives_ok (sysRegs_ite (by simp) (by simp))

theorem loops_keeps (s : State) (w : Wi) : KeepsSys s (s.loops w) :=
  gives_then fun _ => gives_then fun _ => gives_then fun _ => gives_then fun _ => gives_ite (gives_ok (by simp))
    (keeps_bind₁ (writeS_keeps ..) rfl fun _ h1 => gives_ok (by simp [h1]))

theorem rrbset_keeps (s : State) (w : Wi) : KeepsSys s (s.rrbset w) :=
  gives_then fun _ => gives_then fun _ => gives_then fun _ => gives_ok ((sysRegs_retire ..).trans (sysRegs_ite (by simp) (by simp)))

theorem rdzWait_keeps (s : State) (w : Wi) : KeepsSys s (s.rdzWait w) := gives_then fun _ => gives_then fun _ => gives_ok (by simp)

theorem yield_keeps (s : State) (w : Wi) : KeepsSys s (s.yield w) :=
  gives_then fun _ => gives_then fun _ => gives_ok (sysRegs_ite (by simp) (by simp))

theorem endStrm_keeps (s : State) (w : Wi) : KeepsSys s (s.endStrm w) := gives_then fun _ => gives_then fun _ => gives_ok (by simp)

theorem enterHandler_keeps (s : State) (k : Strm) (e : Event) (back : Word) : KeepsSys s (s.enterHandler k e back) := by
  refine gives_ite (gives_error _) ?_
  split
  · exact gives_error _
  · exact gives_ok (sysRegs_congr (coreSys_setStrm ..) rfl)

theorem trap_keeps (s : State) (w : Wi) : KeepsSys s (s.trap w) :=
  gives_then fun _ => gives_then fun _ => keeps_bind₁ (enterHandler_keeps ..) rfl fun _ h1 => gives_then fun _ => gives_ok (by simp [h1])

theorem eret_keeps (s : State) (w : Wi) : KeepsSys s (s.eret w) :=
  gives_then fun _ => gives_then fun _ => gives_then fun _ => gives_then fun _ => gives_ok (by simp)

theorem bkpt_keeps (s : State) (w : Wi) : KeepsSys s (s.bkpt w) :=
  gives_then fun _ => gives_then fun _ => gives_then fun _ => gives_ok (sysRegs_ite ((sysRegs_updC rfl).trans (by simp)) (by simp))

/-! ### Special registers (R50 to R53) -/

theorem rdsr_keeps (s : State) (w : Wi) : KeepsSys s (s.rdsr w) :=
  gives_then fun _ => gives_then fun _ => gives_then fun _ => keeps_bind₁ (writeS_keeps ..) rfl fun _ h1 => gives_ok (by simp [h1])

theorem rdcyc_keeps (s : State) (w : Wi) : KeepsSys s (s.rdcyc w) :=
  gives_then fun _ => gives_then fun _ => keeps_bind₁ (writeS_keeps ..) rfl fun _ h1 => gives_ok (by simp [h1])

theorem sysRegs_updView {s : State} {f : JobView → JobView}
    (h : ((f s.core.jobv).ptb, (f s.core.jobv).cntc, (f s.core.jobv).dbg) = (s.core.jobv.ptb, s.core.jobv.cntc, s.core.jobv.dbg)) :
    sysRegs (s.updView f) = sysRegs s :=
  (sysRegs_upd ..).trans (sysRegs_updC (by
    obtain ⟨ptb, cntc, dbg⟩ : _ ∧ _ ∧ _ := by simpa only [Prod.mk.injEq] using h
    rw [coreSys, coreSys, ptb, cntc, dbg]))

@[simp] theorem sysRegs_fillFmt (s : State) (base : Nat) : sysRegs (s.fillFmt base) = sysRegs s := by
  unfold State.fillFmt
  split
  · exact (sysRegs_updC rfl).trans (sysRegs_touchRows ..)
  · exact sysRegs_updC rfl
  · exact sysRegs_updC rfl

/-- A register that the user view may name and write is none of the system registers (R50, R51). -/
theorem sysRegs_writeSpecial {s : State} {r : SReg} {v : Word} (name : r.sysOnly = false) : sysRegs (s.writeSpecial r v) = sysRegs s := by
  cases r with
  | lc | rrb | evh | evc | eva | epc => exact sysRegs_upd ..
  | rm => exact sysRegs_updView rfl
  | fmtb => exact sysRegs_ite ((sysRegs_fillFmt ..).trans (sysRegs_updView rfl)) (sysRegs_updView rfl)
  | job | njob | gang | cid | did | cyc => rfl
  | rcb | ptb | dbg | mth | cntc | cnti => cases name

/-- In the user view a word that names a register names none that is the system's (R51). -/
theorem specialOf_user {s : State} {w : Wi} {write : Bool} (user : s.core.sys = false) : Gives (·.sysOnly = false) (s.specialOf w write) := by
  unfold State.specialOf
  split
  · exact gives_error _
  · rename_i r _
    cases h : r.sysOnly with
    | true => rw [user]; exact gives_error _
    | false => exact gives_ite (gives_error _) (gives_ite (gives_error _) (gives_ok h))

theorem wrsr_keeps {s : State} (user : s.core.sys = false) (w : Wi) : KeepsSys s (s.wrsr w) :=
  gives_then fun _ => gives_bind (specialOf_user user) fun _ name => keeps_bind (sources_keeps ..) rfl fun ⟨⟨_, _, _⟩, _⟩ h1 => gives_then fun _ =>
    gives_then fun _ => gives_then fun _ => gives_ok ((sysRegs_retire ..).trans ((sysRegs_writeSpecial name).trans h1))

/-! ### Memory words (R207 to R221) -/

theorem load_keeps (s : State) (w : Wm) (n : Nat) (signed : Bool) : KeepsSys s (s.load w n signed) :=
  gives_then fun _ => keeps_bind (sources_keeps ..) rfl fun ⟨⟨_, _, _⟩, _⟩ h1 => gives_then fun _ => gives_then fun _ => gives_then fun _ =>
    keeps_bind (reserveS_keeps ..) h1 fun _ h2 => gives_ok (by simp [h2])

theorem store_keeps (s : State) (w : Wm) (n : Nat) : KeepsSys s (s.store w n) :=
  gives_then fun _ => keeps_bind (sources_keeps ..) rfl fun ⟨⟨_, _, _⟩, _⟩ h1 => gives_then fun _ => gives_then fun _ => gives_then fun _ =>
    gives_then fun _ => gives_ok (by simp [h1])

theorem ldvWord_keeps (s : State) (w : Wm) : KeepsSys s (s.ldvWord w) :=
  gives_then fun _ => keeps_bind (sources_keeps ..) rfl fun ⟨⟨_, _, _⟩, _⟩ h1 => gives_then fun _ => gives_then fun _ =>
    withPort_keeps rfl h1 fun _ h2 => keeps_bind (joinW_keeps ..) h2 fun _ h3 => gives_then fun _ => gives_ok (by simp [h3])

theorem ldvpWord_keeps (s : State) (w : Wm) : KeepsSys s (s.ldvpWord w) :=
  gives_then fun _ => keeps_bind (sources_keeps ..) rfl fun ⟨⟨_, _, _⟩, _⟩ h1 => gives_then fun _ => gives_then fun _ =>
    withPort_keeps rfl h1 fun _ h2 => keeps_bind (joinW_keeps ..) h2 fun _ h3 => keeps_bind (reservePort_keeps ..) h3 fun _ h4 =>
      gives_then fun _ => gives_ok (by simp [h4])

theorem stvWord_keeps (s : State) (w : Wm) (c : OpK) : KeepsSys s (s.stvWord w c) :=
  gives_then fun _ => keeps_bind (sources_keeps ..) rfl fun ⟨⟨_, _, _⟩, _⟩ h1 => gives_then fun _ => gives_then fun _ =>
    keeps_bind (readV_keeps ..) h1 fun _ h2 => withPort_keeps rfl h2 fun _ h3 => keeps_bind (joinW_keeps ..) h3 fun _ h4 =>
      gives_then fun _ => gives_ok (by simp [h4])

@[simp] theorem sysRegs_addElems (s : State) (w : Wm) (kinds : BitVec 6) (a : Word) (vas : List (Nat × Nat)) (b : MBody) (tok : Option TokRef) :
    sysRegs (s.addElems w kinds a vas b tok) = sysRegs s := sysRegs_ite (sysRegs_endOp ..) (sysRegs_addOpAt ..)

theorem ldgWord_keeps (s : State) (w : Wm) : KeepsSys s (s.ldgWord w) :=
  gives_then fun _ => keeps_bind (sources_keeps ..) rfl fun ⟨⟨_, _, _⟩, _⟩ h1 => gives_then fun _ => gives_then fun _ => gives_then fun _ =>
    withPort_keeps rfl h1 fun _ h2 => keeps_bind (joinW_keeps ..) h2 fun _ h3 => gives_then fun _ => gives_ok (by simp [h3])

theorem stgWord_keeps (s : State) (w : Wm) : KeepsSys s (s.stgWord w) :=
  gives_then fun _ => keeps_bind (sources_keeps ..) rfl fun ⟨⟨_, _, _⟩, _⟩ h1 => gives_then fun _ => gives_then fun _ => gives_then fun _ =>
    gives_then fun _ => withPort_keeps rfl h1 fun _ h2 => keeps_bind (joinW_keeps ..) h2 fun _ h3 => gives_then fun _ => gives_ok (by simp [h3])

theorem atomicWord_keeps (s : State) (w : Wm) (fn : Nat) : KeepsSys s (s.atomicWord w fn) :=
  gives_then fun _ => keeps_bind (sources_keeps ..) rfl fun ⟨⟨_, _, _⟩, _⟩ h1 => gives_then fun _ => gives_then fun _ => gives_then fun _ =>
    keeps_bind (reserveS_keeps ..) h1 fun _ h2 => gives_ok (by simp [h2])

theorem fence_keeps (s : State) (w : Wf) : KeepsSys s (s.fence w) := gives_then fun _ => gives_then fun _ => gives_then fun _ => gives_ok (by simp)

theorem swinit_keeps (s : State) (w : Wm) : KeepsSys s (s.swinit w) :=
  gives_then fun _ => keeps_bind (sources_keeps ..) rfl fun ⟨⟨_, _, _⟩, _⟩ h1 => gives_then fun _ => gives_then fun _ => gives_then fun _ =>
    gives_then fun _ => gives_then fun _ => gives_ok (by simp [h1])

theorem swwaitWord_keeps (s : State) (w : Wm) : KeepsSys s (s.swwaitWord w) :=
  gives_then fun _ => keeps_bind (sources_keeps ..) rfl fun ⟨⟨_, _, _⟩, _⟩ h1 => gives_then fun _ => gives_then fun _ => gives_then fun _ =>
    gives_ite (gives_then fun _ => keeps_bind₁ (writeS_keeps ..) ((sysRegs_touchRow ..).trans h1) fun _ h2 => gives_ok (by simp [h2]))
      (gives_ite (gives_ok rfl) (gives_then fun _ => gives_ok (by simp)))

theorem swadd_keeps (s : State) (w : Wm) : KeepsSys s (s.swadd w) :=
  gives_then fun _ => keeps_bind (sources_keeps ..) rfl fun ⟨⟨_, _, _⟩, _⟩ h1 => gives_then fun _ => gives_then fun _ => gives_then fun _ =>
    gives_then fun _ => gives_ok (by simp [h1])

end Sys2Proof.Proofs
end

section
/-!
PROOFS. The words of the ports, windows, copies, batches and mailboxes leave the system registers alone (R51).
-/

namespace Sys2Proof.Proofs
open Sys2Proof Sys2Proof.Machine

/-! ### Ports (R222 to R224) -/

theorem pcfg_keeps (s : State) (w : Wm) : KeepsSys s (s.pcfg w) :=
  gives_then fun _ => gives_then fun _ => gives_then fun _ => gives_then fun _ => gives_ok ((sysRegs_retire ..).trans (sysRegs_updC rfl))

theorem pgo_keeps (s : State) (w : Wm) : KeepsSys s (s.pgo w) :=
  gives_then fun _ => keeps_bind (sources_keeps ..) rfl fun ⟨⟨_, _, _⟩, _⟩ h1 => gives_then fun _ => gives_then fun _ => withDesc_keeps fun _ =>
    gives_then fun _ => keeps_bind (joinW_keeps ..) h1 fun _ h2 => gives_ok ((sysRegs_retire ..).trans ((sysRegs_updC rfl).trans h2))

@[simp] theorem sysRegs_stopGen (s : State) (n : Nat) : sysRegs (s.stopGen n) = sysRegs s := by
  unfold State.stopGen
  split
  · rfl
  · exact (sysRegs_endOp ..).trans (sysRegs_updC rfl)

theorem pstop_keeps (s : State) (w : Wm) : KeepsSys s (s.pstop w) := gives_then fun _ => gives_then fun _ => gives_ok (by simp)

@[simp] theorem sysRegs_endMop (s : State) (o : MOp) (e : Option FaultInfo) : sysRegs (s.endMop o e) = sysRegs s :=
  (sysRegs_endOp ..).trans (sysRegs_updC rfl)

@[simp] theorem sysRegs_dropLdvp (n : Nat) (l : List MOp) (s : State) : sysRegs (s.dropLdvp n l) = sysRegs s := by
  induction l generalizing s with
  | nil => rfl
  | cons o l ih =>
    unfold State.dropLdvp
    split
    · exact sysRegs_ite ((ih _).trans (sysRegs_endMop ..)) (ih _)
    · exact ih _

@[simp] theorem sysRegs_flushPort (s : State) (n : Nat) : sysRegs (s.flushPort n) = sysRegs s :=
  (sysRegs_updC rfl).trans (by simp)

theorem pflush_keeps (s : State) (w : Wm) : KeepsSys s (s.pflush w) := gives_then fun _ => gives_then fun _ => gives_ok (by simp)

/-! ### Windows (R225 to R227) -/

@[simp] theorem sysRegs_fetchRows (s : State) (w : Wm) (win : Win) (t n : Nat) (tok : Option TokRef) :
    sysRegs (s.fetchRows w win t n tok) = sysRegs s := rfl

theorem wcfg_keeps (s : State) (w : Wm) : KeepsSys s (s.wcfg w) :=
  gives_then fun _ => keeps_bind (sources_keeps ..) rfl fun ⟨⟨_, _, _⟩, _⟩ h1 => withDesc_keeps fun _ => gives_then fun _ => gives_then fun _ =>
    keeps_bind (joinW_keeps ..) h1 fun _ h2 => gives_ok (by simp [h2])

theorem wadv_keeps (s : State) (w : Wm) : KeepsSys s (s.wadv w) := by
  refine gives_then fun _ => ?_
  dsimp only
  split
  · exact gives_error _
  · exact gives_then fun _ => gives_then fun _ => gives_then fun _ => keeps_bind (joinW_keeps ..) rfl fun _ h1 => gives_ok (by simp [h1])

theorem wrel_keeps (s : State) (w : Wm) : KeepsSys s (s.wrel w) :=
  gives_then fun _ => gives_then fun _ => gives_ok ((sysRegs_retire ..).trans (sysRegs_updC rfl))

/-! ### Copies (R228, R229) -/

@[simp] theorem sysRegs_pushRake (s : State) (cls : Nat) (runs : List Chunk) (pages : List (Nat × Nat)) (sw : Option Nat) (send : Option SendTo)
    (tok : Option TokRef) : sysRegs (s.pushRake cls runs pages sw send tok) = sysRegs s := (sysRegs_fillTlbs ..).trans rfl

theorem enqueueCopy_keeps (s : State) (w : Wm) (runs : List Chunk) (pages : List (Nat × Nat)) (sw : Option Nat) (status : Bool) :
    KeepsSys s (s.enqueueCopy w runs pages sw status) :=
  gives_then fun _ => gives_then fun _ => gives_ite (keeps_bind₁ (writeS_keeps ..) rfl fun _ h1 => gives_ok (by simp [h1]))
    (gives_ite (gives_error _) (keeps_bind (joinW_keeps ..) rfl fun _ h1 => gives_ite
      (keeps_bind₁ (writeS_keeps ..) h1 fun _ h2 => gives_ok (by simp [h2])) (keeps_bind₁ (gives_ok h1) rfl fun _ h2 => gives_ok (by simp [h2]))))

theorem cpy_keeps (s : State) (w : Wm) : KeepsSys s (s.cpy w) :=
  gives_then fun _ => keeps_bind (sources_keeps ..) rfl fun ⟨⟨_, _, _⟩, _⟩ h1 => gives_then fun _ => keeps_trans (enqueueCopy_keeps ..) h1

theorem cpysw_keeps (s : State) (w : Wm) : KeepsSys s (s.cpysw w) :=
  gives_then fun _ => keeps_bind (sources_keeps ..) rfl fun ⟨⟨_, _, _⟩, _⟩ h1 => keeps_bind (readS_keeps ..) h1 fun ⟨_, _⟩ h2 => gives_then fun _ =>
    gives_then fun _ => gives_then fun _ => keeps_trans (enqueueCopy_keeps ..) ((sysRegs_fillTlb ..).trans h2)

theorem cpyStrided_keeps (s : State) (w : Wm) (planes : Bool) : KeepsSys s (s.cpyStrided w planes) :=
  gives_then fun _ => keeps_bind (sources_keeps ..) rfl fun ⟨⟨_, _, _⟩, _⟩ h1 => withDesc_keeps fun _ => gives_then fun _ => gives_then fun _ =>
    keeps_trans (enqueueCopy_keeps ..) h1

/-! ### Batches, waits, hints, mailboxes (R230 to R233) -/

theorem cbat_keeps (s : State) (w : Wm) : KeepsSys s (s.cbat w) := gives_then fun _ => gives_then fun _ => gives_then fun _ => gives_ok (by simp)

theorem waitn_keeps (s : State) (w : Wm) : KeepsSys s (s.waitn w) := by
  refine gives_then fun _ => gives_then fun _ => gives_then fun _ => ?_
  split
  · exact gives_error _
  · exact gives_ok (sysRegs_retire ..)

theorem sysRegs_prefPage (s : State) (va : Nat) : sysRegs (s.prefPage va) = sysRegs s := by
  refine sysRegs_ite rfl ?_
  dsimp only
  split
  · rfl
  · exact sysRegs_ite rfl ((sysRegs_updC rfl).trans ((sysRegs_updDie rfl).trans (sysRegs_touchRows ..)))

@[simp] theorem sysRegs_prefPages (n va : Nat) (s : State) : sysRegs (s.prefPages va n) = sysRegs s := by
  induction n generalizing s va with
  | zero => rfl
  | succ n ih => exact (ih ..).trans (sysRegs_prefPage ..)

theorem pref_keeps (s : State) (w : Wm) : KeepsSys s (s.pref w) :=
  gives_then fun _ => keeps_bind (sources_keeps ..) rfl fun ⟨⟨_, _, _⟩, _⟩ h1 => gives_then fun _ => gives_ok (by simp [h1])

theorem enq_keeps (s : State) (w : Wm) : KeepsSys s (s.enq w) :=
  gives_then fun _ => keeps_bind (sources_keeps ..) rfl fun ⟨⟨_, _, _⟩, _⟩ h1 => gives_then fun _ => gives_then fun _ => withDesc_keeps fun _ =>
    gives_ite (gives_then fun _ => keeps_bind₁ (writeS_keeps ..) h1 fun _ h2 => gives_ok (by simp [h2]))
      (keeps_bind (joinW_keeps ..) h1 fun ⟨_, _⟩ h2 => keeps_bind₁ (writeS_keeps ..) h2 fun _ h3 =>
        gives_ok ((sysRegs_retire ..).trans ((sysRegs_updDie rfl).trans h3)))

theorem deq_keeps (s : State) (w : Wm) : KeepsSys s (s.deq w) := by
  refine gives_then fun _ => gives_then fun _ => ?_
  split
  · exact keeps_bind₁ (writeS_keeps ..) rfl fun _ h1 => gives_ok ((sysRegs_retire ..).trans ((sysRegs_updC rfl).trans h1))
  · exact gives_then fun _ => keeps_bind₁ (writeS_keeps ..) rfl fun _ h1 => gives_ok (by simp [h1])

end Sys2Proof.Proofs
end

section
/-!
PROOFS. The words of the vector unit and of the matrix unit leave the system registers alone (R51).
-/

namespace Sys2Proof.Proofs
open Sys2Proof Sys2Proof.Machine

/-! ### Vector and mask words (R237 to R259) -/

section
variable {s : State} {h : Shape} {go : VIn → State → Res State} (unit : ∀ x u, KeepsSys u (go x u))
include unit

theorem vwordIf_keeps {occ : Nat} {own : Res Unit} {chk : VIn → Res Unit} : KeepsSys s (s.vwordIf h occ own chk go) :=
  gives_then fun _ => gives_then fun _ => keeps_bind (vread_keeps ..) rfl fun ⟨_, _⟩ h1 => gives_then fun _ => gives_then fun _ => gives_then fun _ =>
    keeps_bind₁ (unit ..) ((sysRegs_updC rfl).trans h1) fun _ h2 => gives_then fun _ => gives_ok (by simp [h2])

theorem vword_keeps {occ : Nat} {chk : VIn → Res Unit} : KeepsSys s (s.vword h occ chk go) := vwordIf_keeps unit

end

theorem arith_keeps (s : State) (w : Wt) (o : VArith) (h : Shape) : KeepsSys s (s.arith w o h) := vword_keeps fun _ _ => putElems_keeps ..
theorem lanes_keeps (s : State) (w : Wt) (h : Shape) (lat : Nat) (f : Nat → Nat → Nat) : KeepsSys s (s.lanes w h lat f) :=
  vword_keeps fun _ _ => putElems_keeps ..
theorem vshift_keeps (s : State) (w : Wt) (f : ETy → Nat → Nat → Nat) : KeepsSys s (s.vshift w f) := by
  unfold State.vshift
  exact vwordIf_keeps fun _ _ => putElems_keeps ..

theorem cvt_keeps (s : State) (w : Wt) (scaled : Bool) : KeepsSys s (s.cvt w scaled) := by
  unfold State.cvt
  exact vwordIf_keeps fun _ _ => putElems_keeps ..

theorem rotWord_keeps (s : State) (w : Wt) (lat : Nat) (limit : Option Nat) (f : Nat → Nat → Nat → Nat × Nat) : KeepsSys s (s.rotWord w lat limit f) := by
  unfold State.rotWord
  exact vwordIf_keeps fun _ _ => putElems_keeps ..

theorem reduceWord_keeps (s : State) (w : Wt) (lat : Nat) (rows : Bool) : KeepsSys s (s.reduceWord w lat rows) :=
  vword_keeps fun _ _ => putElems_keeps ..
theorem special_keeps (s : State) (w : Wt) (fn : SFun) : KeepsSys s (s.special w fn) := vword_keeps fun _ _ => putElems_keeps ..
theorem bitWord_keeps (s : State) (w : Wt) (mul : Bool) (lat : Nat) (f : Nat → Nat → Nat → Nat) : KeepsSys s (s.bitWord w mul lat f) :=
  vword_keeps fun _ _ => putElems_keeps ..

theorem vsel_keeps (s : State) (w : Wt) : KeepsSys s (s.vsel w) :=
  gives_then fun _ => keeps_bind (vread_keeps ..) rfl fun ⟨_, _⟩ h1 => gives_then fun _ => gives_then fun _ =>
    keeps_bind₁ (putElems_keeps ..) ((sysRegs_updC rfl).trans h1) fun _ h2 => gives_then fun _ => gives_ok (by simp [h2])

theorem maskWord_keeps {s : State} {w : Wi} {h : Shape} {ok : Bool} {go : BitVec 1024 → BitVec 1024 → BitVec 1024 → State → Res State}
    (unit : ∀ p a b u, KeepsSys u (go p a b u)) : KeepsSys s (s.maskWord w h ok go) :=
  gives_then fun _ => gives_then fun _ => gives_then fun _ => gives_then fun _ =>
    keeps_bind₁ (unit ..) (sysRegs_updC rfl) fun _ h1 => gives_then fun _ => gives_ok (by simp [h1])

theorem maskOp_keeps (s : State) (w : Wi) (h : Shape) (f : BitVec 1024 → BitVec 1024 → BitVec 1024) : KeepsSys s (s.maskOp w h f) :=
  maskWord_keeps fun _ _ _ _ => gives_ok (sysRegs_putMask ..)

/-! ### Matrix words (R260 to R276) -/

theorem takeUnit_keeps (s : State) (u : MUnit) : KeepsSys s (s.takeUnit u) := by
  cases u with
  | matrix n => exact gives_ite (gives_ok (sysRegs_updC rfl)) (gives_error _)
  | acc n => exact gives_ite (gives_ok (sysRegs_updC rfl)) (gives_error _)
  | none => exact gives_ok rfl

theorem mword_keeps {s : State} {h : Shape} {u : MUnit} {chk : Res Unit} {waits : Bool} {go : VIn → State → Res State}
    (unit : ∀ x v, KeepsSys v (go x v)) : KeepsSys s (s.mword h u chk waits go) :=
  gives_then fun _ => keeps_bind (vread_keeps ..) rfl fun ⟨_, _⟩ h1 => gives_then fun _ => gives_then fun _ => gives_then fun _ =>
    keeps_bind₁ (takeUnit_keeps ..) h1 fun _ h2 => keeps_bind₁ (unit ..) h2 fun _ h3 => gives_then fun _ => gives_ok (by simp [h3])

@[simp] theorem sysRegs_dense (s : State) (d : OpField) (at_ bt : ETy) (anchor : Int) (set : Option Int) (x : VIn)
    (bf : ETy → List VReg → Nat → Nat → FVal) : sysRegs (s.dense d at_ bt anchor set x bf) = sysRegs s := sysRegs_pend ..

theorem mmas_keeps (s : State) (w : Wt) : KeepsSys s (s.mmas w) :=
  gives_then fun _ => keeps_bind (vread_keeps ..) rfl fun ⟨_, _⟩ h1 => gives_then fun _ => gives_then fun _ => gives_then fun _ => gives_then fun _ =>
    keeps_bind₁ (takeUnit_keeps ..) h1 fun _ h2 => gives_then fun _ => gives_ok (by simp [h2])

theorem mmaf_keeps (s : State) (w : Wt) : KeepsSys s (s.mmaf w) :=
  gives_then fun _ => keeps_bind (vread_keeps ..) rfl fun ⟨_, _⟩ h1 => gives_then fun _ => gives_then fun _ => gives_then fun _ => gives_then fun _ =>
    keeps_bind₁ (takeUnit_keeps ..) h1 fun _ h2 => gives_then fun _ => gives_ok (by simp [h2])

theorem anchorWord_keeps (s : State) (w : Wt) (a : Int) : KeepsSys s (s.anchorWord w a) := mword_keeps fun _ _ => gives_ok (sysRegs_pend ..)

theorem tileSum_keeps (s : State) (w : Wt) (f : Lane → Lane) : KeepsSys s (s.tileSum w f) := by
  unfold State.tileSum
  exact mword_keeps fun _ _ => gives_ok (sysRegs_pend ..)

theorem rslv_keeps (s : State) (w : Wt) : KeepsSys s (s.rslv w) :=
  gives_then fun _ => gives_then fun _ => gives_then fun _ => gives_then fun _ => gives_then fun _ => gives_then fun _ =>
    keeps_bind₁ (takeUnit_keeps ..) rfl fun _ h1 => keeps_bind₁ (putElems_keeps ..) h1 fun _ h2 => gives_then fun _ => gives_ok (by simp [h2])

theorem tileStore_keeps (s : State) (w : Wm) (canon : Bool) : KeepsSys s (s.tileStore w canon) :=
  gives_then fun _ => keeps_bind (sources_keeps ..) rfl fun ⟨⟨_, _, _⟩, _⟩ h1 => gives_then fun _ => gives_then fun _ => gives_then fun _ =>
    withPort_keeps rfl h1 fun _ h2 => keeps_bind (joinW_keeps ..) h2 fun _ h3 => gives_then fun _ => gives_ok (by simp [h3])

theorem tileLoad_keeps (s : State) (w : Wm) (canon : Bool) : KeepsSys s (s.tileLoad w canon) :=
  gives_then fun _ => keeps_bind (sources_keeps ..) rfl fun ⟨⟨_, _, _⟩, _⟩ h1 => gives_then fun _ => gives_then fun _ => gives_then fun _ =>
    withPort_keeps rfl h1 fun _ h2 => keeps_bind (joinW_keeps ..) h2 fun _ h3 => gives_ok (by simp [h3])

theorem fmtt_keeps (s : State) (w : Wt) : KeepsSys s (s.fmtt w) :=
  gives_then fun _ => gives_then fun _ => gives_then fun _ => gives_then fun _ => gives_then fun _ => gives_then fun _ =>
    gives_ok ((sysRegs_retire ..).trans ((sysRegs_updC rfl).trans (sysRegs_touchRow ..)))

end Sys2Proof.Proofs
end

section
/-!
PROOFS. The words of tier migration and of the Orrery leave the system registers alone (R51).
-/

namespace Sys2Proof.Proofs
open Sys2Proof Sys2Proof.Machine

/-! ### Tier migration (R234 to R236) -/

theorem sysRegs_popFrame (s : State) (c : Core) (pool i : Nat) : sysRegs (s.popFrame c pool i).2 = sysRegs s :=
  sysRegs_ite ((sysRegs_postJob ..).trans (sysRegs_writeMem ..)) (sysRegs_writeMem ..)

theorem sysRegs_layMoves (c : Core) (pool tier : Nat) (moves : TPage → Bool) (l : List TPage) (s : State) :
    sysRegs (s.layMoves c pool tier moves l).2 = sysRegs s := by
  induction l generalizing s with
  | nil => rfl
  | cons p l ih =>
    unfold State.layMoves
    split
    · exact ih _
    · exact (ih _).trans (sysRegs_popFrame ..)

@[simp] theorem sysRegs_addUse (use : Nat) (d : Int) (l : List Nat) (s : State) : sysRegs (s.addUse use d l) = sysRegs s := by
  induction l generalizing s with
  | nil => rfl
  | cons x l ih => exact (ih _).trans (sysRegs_ite rfl (sysRegs_writeMem ..))

theorem startMig_keeps (s : State) (w : Wm) (pool : Nat) (pages : List MigPage) : KeepsSys s (s.startMig w pool pages) :=
  keeps_bind (joinW_keeps ..) rfl fun _ h1 => keeps_bind₁ (writeS_keeps ..) h1 fun _ h2 => gives_ok ((sysRegs_retire ..).trans h2)

theorem tierStatus_keeps (s : State) (w : Wm) (v : Word) : KeepsSys s (s.tierStatus w v) :=
  keeps_bind₁ (writeS_keeps ..) rfl fun _ h1 => gives_ok ((sysRegs_retire ..).trans h1)

theorem tierRange_keeps (s : State) (w : Wm) (h : Shape) : KeepsSysOf s (s.tierRange w h) :=
  gives_then fun _ => gives_bind (sources_keeps ..) fun ⟨⟨_, _, _⟩, _⟩ h1 => gives_then fun _ => gives_then fun _ => gives_ok h1

/-- The pages of an accepted command are counted at its region nodes and its migration is recorded. -/
theorem migrates_keeps {s u : State} (h : sysRegs u = sysRegs s) (w : Wm) (pool tier use : Nat) (d : Int) (path : List Nat) (c : Core)
    (moves : TPage → Bool) (ps : List TPage) :
    KeepsSys s (((u.addUse use d path).layMoves c pool tier moves ps).2.startMig w pool ((u.addUse use d path).layMoves c pool tier moves ps).1) :=
  keeps_trans (startMig_keeps ..) ((sysRegs_layMoves ..).trans ((sysRegs_addUse ..).trans h))

theorem tierin_keeps (s : State) (w : Wm) : KeepsSys s (s.tierin w) := by
  refine keeps_bind (tierRange_keeps ..) rfl fun ⟨ps, s1⟩ h1 => ?_
  dsimp -zeta only
  extract_lets moves mv cxl path pool take give accepted
  have goes : ∀ r, KeepsSys s (accepted r) := fun _ => gives_then fun _ => gives_then fun _ =>
    gives_ite (keeps_trans (tierStatus_keeps ..) h1) (gives_then fun _ =>
      gives_ite (keeps_trans (tierStatus_keeps ..) h1) (migrates_keeps h1 ..))
  clear_value accepted give cxl
  cases cxl with
  | nil => exact gives_then goes
  | cons p l => exact gives_then goes

theorem tierev_keeps (s : State) (w : Wm) : KeepsSys s (s.tierev w) := by
  refine keeps_bind (tierRange_keeps ..) rfl fun ⟨ps, s1⟩ h1 => ?_
  dsimp -zeta only
  extract_lets moves mv flash path pool give take accepted
  refine gives_then fun _ => ?_
  have goes : ∀ r, KeepsSys s (accepted r) := fun _ => gives_then fun _ => gives_then fun _ =>
    gives_ite (keeps_trans (tierStatus_keeps ..) h1) (gives_then fun _ =>
      gives_ite (gives_ite (keeps_trans (tierStatus_keeps ..) h1) (keeps_trans (startMig_keeps ..) h1))
        (gives_ite (keeps_trans (tierStatus_keeps ..) h1) (migrates_keeps h1 ..)))
  clear_value accepted take give mv
  cases mv with
  | nil => exact gives_then goes
  | cons p l => exact gives_ite (gives_then goes) (gives_then goes)

theorem tierq_keeps (s : State) (w : Wm) : KeepsSys s (s.tierq w) := by
  refine gives_then fun _ => keeps_bind (sources_keeps ..) rfl fun ⟨⟨_, _, _⟩, _⟩ h1 => gives_then fun _ => gives_then fun _ => ?_
  split
  · exact gives_error _
  · exact gives_then fun _ => keeps_bind₁ (writeS_keeps ..) h1 fun _ h2 => gives_ok ((sysRegs_retire ..).trans h2)

/-! ### The Orrery's commands (R132 to R144, R283) -/

@[simp] theorem sysRegs_updCtx (s : State) (die n : Nat) (f : Ctx → Ctx) : sysRegs (s.updCtx die n f) = sysRegs s := sysRegs_updDie rfl
@[simp] theorem sysRegs_finishK (s : State) (die : Nat) (o : KOp) (e : Option FaultInfo) : sysRegs (s.finishK die o e) = sysRegs s :=
  (sysRegs_endOp ..).trans (sysRegs_updDie rfl)
@[simp] theorem sysRegs_keepK (s : State) (die : Nat) (o : KOp) (cmd : KCmd) : sysRegs (s.keepK die o cmd) = sysRegs s := sysRegs_updDie rfl
@[simp] theorem sysRegs_endStatus (s : State) (die : Nat) (o : KOp) (dst : DestRef) (n : Nat) : sysRegs (s.endStatus die o dst n) = sysRegs s :=
  (sysRegs_finishK ..).trans (sysRegs_deliver ..)

theorem sysRegs_setEnt (s : State) (die num gr : Nat) (f : MapEnt → MapEnt) : sysRegs (s.setEnt die num gr f) = sysRegs s := by
  unfold State.setEnt
  split
  · rfl
  · exact sysRegs_ite (sysRegs_updCtx ..) ((sysRegs_devWrite ..).trans (sysRegs_updCtx ..))

theorem sysRegs_giveBack (s : State) (die ctx gr : Nat) : sysRegs (s.giveBack die ctx gr) = sysRegs s := by
  unfold State.giveBack
  split
  · rfl
  · exact sysRegs_ite rfl ((sysRegs_updCtx ..).trans ((sysRegs_setEnt ..).trans (sysRegs_setEnt ..)))

@[simp] theorem sysRegs_giveBackAll (die ctx : Nat) (l : List Nat) (s : State) : sysRegs (s.giveBackAll die ctx l) = sysRegs s := by
  induction l generalizing s with
  | nil => rfl
  | cons x l ih => exact (ih _).trans (sysRegs_giveBack ..)

@[simp] theorem sysRegs_borrowAll (die src dst : Nat) (l : List Nat) (s : State) : sysRegs (s.borrowAll die src dst l) = sysRegs s := by
  induction l generalizing s with
  | nil => rfl
  | cons x l ih =>
    exact (ih _).trans ((sysRegs_updCtx ..).trans ((sysRegs_setEnt ..).trans ((sysRegs_setEnt ..).trans (sysRegs_giveBack ..))))

@[simp] theorem sysRegs_makeMoves (l : List GMove) (s : State) : sysRegs (s.makeMoves l) = sysRegs s := by
  induction l generalizing s with
  | nil => rfl
  | cons m l ih => exact (ih _).trans (sysRegs_copyFrame ..)

@[simp] theorem sysRegs_countFor (s : State) (lrec job n k : Nat) : sysRegs (s.countFor lrec job n k) = sysRegs s := sysRegs_updJob fun _ => rfl

theorem sysRegs_blockK (s : State) (die : Nat) (o : KOp) (keys : List Nat) : sysRegs (s.blockK die o keys) = sysRegs s :=
  sysRegs_ite rfl (sysRegs_updDie rfl)

/-- A command whose accesses may be served goes on; else it waits. -/
theorem sysRegs_gateK {s : State} {die : Nat} {o : KOp} {reads writes : List Nat} {go : State → State} (next : ∀ u, sysRegs (go u) = sysRegs u) :
    sysRegs (s.gateK die o reads writes go) = sysRegs s := by
  refine sysRegs_ite rfl ?_
  split
  · rfl
  · exact sysRegs_blockK ..
  · exact (next _).trans (sysRegs_touchRows ..)

theorem sysRegs_applyFork (s : State) (die : Nat) (o : KOp) (par : Ctx) (slab area k kmax ptb p : Nat) (dst : DestRef) :
    sysRegs (s.applyFork die o par slab area k kmax ptb p dst) = sysRegs s := by
  unfold State.applyFork
  dsimp only
  split
  · exact sysRegs_endStatus ..
  · refine sysRegs_ite (sysRegs_endStatus ..) (sysRegs_ite (sysRegs_endStatus ..) ?_)
    split
    · simp
    · exact sysRegs_gateK fun u => by simp

theorem sysRegs_applyShare (s : State) (die : Nat) (o : KOp) (tgt : Ctx) (src a n : Nat) (dst : DestRef) :
    sysRegs (s.applyShare die o tgt src a n dst) = sysRegs s := by
  unfold State.applyShare
  split
  · exact sysRegs_endStatus ..
  · exact sysRegs_ite (sysRegs_endStatus ..) (by simp)

@[simp] theorem sysRegs_swapBack (s : State) (die : Nat) (c : Ctx) : sysRegs (s.swapBack die c) = sysRegs s := sysRegs_updCtx ..

@[simp] theorem sysRegs_swapOut (s : State) (die : Nat) (c : Ctx) (pages : List (Nat × Nat)) (va : Nat) :
    sysRegs (s.swapOut die c pages va) = sysRegs s := (sysRegs_updCtx ..).trans ((sysRegs_writeIn ..).trans rfl)

theorem sysRegs_applyK (s : State) (die : Nat) (o : KOp) : sysRegs (s.applyK die o) = sysRegs s := by
  unfold State.applyK
  split
  · exact sysRegs_finishK ..
  · dsimp only
    split
    case h_6 => exact sysRegs_applyFork ..
    case h_7 => exact sysRegs_applyShare ..
    case h_8 => exact sysRegs_ite (sysRegs_endStatus ..) (by simp)
    case h_9 =>
      refine sysRegs_ite (by simp) ?_
      split
      · simp
      · exact sysRegs_gateK fun u => by simp
    case h_10 =>
      refine sysRegs_ite (sysRegs_endStatus ..) (sysRegs_ite (sysRegs_endStatus ..) ?_)
      split
      · simp
      · exact sysRegs_gateK fun u => by simp
    case h_11 => exact sysRegs_ite (sysRegs_endStatus ..) (sysRegs_gateK fun u => by simp)
    case h_13 => exact sysRegs_ite (sysRegs_endStatus ..) (sysRegs_ite (sysRegs_endStatus ..) (by simp))
    all_goals simp

@[simp] theorem sysRegs_addK (s : State) (w : Wm) (tok : Option TokRef) (ctx : Nat) (cmd : KCmd) : sysRegs (s.addK w tok ctx cmd) = sysRegs s := by
  have put : ∀ o : KOp, sysRegs (s.fresh.2.updDie s.core.did fun d => { d with kops := d.kops ++ [o] }) = sysRegs s := fun _ =>
    (sysRegs_updDie rfl).trans rfl
  exact sysRegs_ite ((sysRegs_applyK ..).trans (put _)) (put _)

theorem swapIn_keeps (s : State) (cs : List Ctx) (counted : Bool) : KeepsSys s (s.swapIn cs counted) := by
  unfold State.swapIn
  dsimp only
  split
  · exact gives_error _
  · have swapped : ∀ l : List Ctx, ∀ u : State, sysRegs (l.foldl (fun s c => s.swapBack s.core.did c) u) = sysRegs u :=
      sysRegs_foldl fun _ _ => sysRegs_swapBack ..
    exact gives_then fun _ => gives_ok (sysRegs_ite ((sysRegs_updC rfl).trans ((swapped ..).trans (sysRegs_touchRows ..)))
      ((swapped ..).trans (sysRegs_touchRows ..)))

theorem submitK_keeps (s : State) (w : Wm) (c : Ctx) (cmd : DestRef → KCmd) (result : Bool) (cs : List Ctx) (counted : Bool) :
    KeepsSys s (s.submitK w c cmd result cs counted) := by
  have rest : ∀ u, sysRegs u = sysRegs s → KeepsSys s (do
      let (t, s1) ← u.joinW w
      let (d, s2) ← if result then s1.reserveS w.d else .ok (.none, s1)
      let dst := s.destRef d
      if s.mapFull cs then .ok (((s2.deliver dst (statusWord 3 0)).endOp t none).retire 1)
      else .ok ((s2.addK w t c.num (cmd dst)).retire 1)) := fun u hu =>
    keeps_bind (joinW_keeps ..) hu fun ⟨_, _⟩ h1 => gives_ite
      (keeps_bind (reserveS_keeps ..) h1 fun ⟨_, _⟩ h2 => gives_ite (gives_ok (by simp [h2])) (gives_ok (by simp [h2])))
      (keeps_bind (s := s) (u := s) (gives_ok h1) rfl fun ⟨_, _⟩ h2 => gives_ite (gives_ok (by simp [h2])) (gives_ok (by simp [h2])))
  exact gives_ite (keeps_bind₁ (gives_ok rfl) rfl rest) (keeps_bind₁ (swapIn_keeps ..) rfl rest)

theorem kword_keeps {s : State} {w : Wm} {h : Shape} {go : Word × Word × Word → State → Res State}
    (next : ∀ x u, sysRegs u = sysRegs s → KeepsSys s (go x u)) : KeepsSys s (s.kword w h go) :=
  gives_then fun _ => keeps_bind (sources_keeps ..) rfl fun ⟨_, _⟩ h1 => gives_then fun _ => gives_then fun _ => accept_keeps rfl h1 (next _)

theorem kdesc_keeps {s : State} {w : Wm} {h : Shape} {go : Word × Word × Word → List Byte → State → Res State}
    (next : ∀ x bs u, sysRegs u = sysRegs s → KeepsSys s (go x bs u)) : KeepsSys s (s.kdesc w h go) :=
  gives_then fun _ => keeps_bind (sources_keeps ..) rfl fun ⟨_, _⟩ h1 => acceptDesc_keeps h1 (next _)

/-! ### The Orrery's words (R287 to R295) -/

theorem kvnew_keeps (s : State) (w : Wm) : KeepsSys s (s.kvnew w) := by
  refine kdesc_keeps fun _ bs u hu => gives_then fun _ => gives_then fun _ => keeps_bind (joinW_keeps ..) hu fun ⟨_, _⟩ h1 =>
    keeps_bind (reserveS_keeps ..) h1 fun ⟨_, _⟩ h2 => ?_
  dsimp only
  split
  · exact gives_ok (by simp [h2])
  · refine gives_ite (gives_ok (by simp [h2])) (gives_ok ?_)
    exact (sysRegs_retire ..).trans ((sysRegs_addK ..).trans ((sysRegs_deliver ..).trans ((sysRegs_updDie rfl).trans h2)))

theorem kvfree_keeps (s : State) (w : Wm) : KeepsSys s (s.kvfree w) :=
  kword_keeps fun ⟨_, _, _⟩ _ hu => gives_then fun _ => gives_then fun _ => gives_then fun _ => keeps_trans (submitK_keeps ..) hu

theorem kvfork_keeps (s : State) (w : Wm) : KeepsSys s (s.kvfork w) := by
  refine kdesc_keeps fun ⟨_, _, _⟩ bs u hu => gives_then fun _ => gives_then fun _ => gives_then fun _ => gives_then fun _ => gives_then fun _ =>
    gives_then fun _ => gives_then fun _ => gives_then fun _ => ?_
  split
  · exact gives_error _
  · exact keeps_trans (submitK_keeps ..) hu

theorem kvshare_keeps (s : State) (w : Wm) : KeepsSys s (s.kvshare w) :=
  kword_keeps fun ⟨_, _, _⟩ _ hu => gives_then fun _ => gives_then fun _ => gives_then fun _ => gives_then fun _ => gives_then fun _ =>
    gives_then fun _ => gives_then fun _ => keeps_trans (submitK_keeps ..) hu

theorem kvstat_keeps (s : State) (w : Wm) : KeepsSys s (s.kvstat w) :=
  kword_keeps fun ⟨_, _, _⟩ _ hu => gives_then fun _ => gives_then fun _ => gives_then fun _ => gives_then fun _ => gives_then fun _ =>
    keeps_trans (submitK_keeps ..) ((sysRegs_fillTlbs ..).trans hu)

theorem kvw_keeps (s : State) (w : Wm) : KeepsSys s (s.kvw w) := by
  refine kword_keeps fun ⟨_, _, _⟩ u hu => gives_then fun _ => gives_then fun _ => gives_then fun _ => gives_then fun _ => gives_then fun _ =>
    gives_then fun _ => gives_then fun _ => gives_then fun _ => gives_then fun _ => gives_then fun _ => ?_
  split
  · exact keeps_bind (joinW_keeps ..) (by simp [hu]) fun ⟨_, _⟩ h1 => gives_ok (by simp [h1])
  · exact keeps_trans (submitK_keeps ..) (by simp [hu])

theorem kvrnw_keeps (s : State) (w : Wm) : KeepsSys s (s.kvrnw w) :=
  kword_keeps fun ⟨_, _, _⟩ _ hu => gives_then fun _ => gives_then fun _ => gives_then fun _ => gives_then fun _ => keeps_trans (submitK_keeps ..) hu

theorem kvexp_keeps (s : State) (w : Wm) : KeepsSys s (s.kvexp w) :=
  kword_keeps fun ⟨_, _, _⟩ _ hu => gives_then fun _ => gives_then fun _ => gives_then fun _ => gives_then fun _ => keeps_trans (submitK_keeps ..) hu

theorem position_keeps (s : State) (w : Wm) (cmd : Nat → KCmd) : KeepsSys s (s.position w cmd) :=
  kword_keeps fun ⟨_, _, _⟩ _ hu => gives_then fun _ => gives_then fun _ => gives_then fun _ => gives_then fun _ => gives_then fun _ =>
    keeps_trans (submitK_keeps ..) hu

theorem mapWord_keeps (s : State) (w : Wm) (cmd : DestRef → KCmd) (swaps : Bool) : KeepsSys s (s.mapWord w cmd swaps) :=
  kword_keeps fun ⟨_, _, _⟩ _ hu => gives_then fun _ => gives_then fun _ => keeps_trans (submitK_keeps ..) hu

theorem smout_keeps (s : State) (w : Wm) : KeepsSys s (s.smout w) :=
  kword_keeps fun ⟨_, _, _⟩ _ hu => gives_then fun _ => gives_then fun _ => gives_then fun _ => gives_then fun _ => gives_then fun _ =>
    gives_then fun _ => gives_then fun _ => keeps_trans (submitK_keeps ..) ((sysRegs_fillTlbs ..).trans hu)

theorem slabgr_keeps (s : State) (w : Wm) : KeepsSys s (s.slabgr w) := by
  refine kword_keeps fun ⟨_, _, _⟩ _ hu => gives_then fun _ => gives_then fun _ => gives_then fun _ => gives_then fun _ => gives_then fun _ =>
    gives_then fun _ => gives_then fun _ => ?_
  split
  · exact gives_error _
  · exact keeps_trans (submitK_keeps ..) hu

end Sys2Proof.Proofs
end

section
/-!
PROOFS. The words of attention, the Sluice, the Pan filter and the system unit leave the system registers alone; so does every word of a
user-view job (R51).
-/

namespace Sys2Proof.Proofs
open Sys2Proof Sys2Proof.Machine

/-! ### Attention (R277) -/

theorem attnWord_keeps (s : State) (w : Wt) (multi : Bool) : KeepsSys s (s.attnWord w multi) :=
  gives_then fun _ => keeps_bind (vread_keeps ..) rfl fun ⟨_, _⟩ h1 => gives_then fun _ => accept_keeps rfl h1 fun _ h2 => gives_then fun _ =>
    keeps_bind₁ (swapIn_keeps ..) h2 fun _ h3 => keeps_bind (joinWord_keeps ..) h3 fun ⟨_, _⟩ h4 => gives_then fun _ =>
      gives_ok ((sysRegs_retire ..).trans ((sysRegs_updC rfl).trans ((sysRegs_updDie rfl).trans h4)))

/-! ### The Sluice (R296 to R298) -/

@[simp] theorem sysRegs_updEnd (s : State) (die n : Nat) (f : ChEnd → ChEnd) : sysRegs (s.updEnd die n f) = sysRegs s := sysRegs_updDie rfl

@[simp] theorem sysRegs_closedEvent (s : State) (die : Nat) (e : ChEnd) (st : Nat) : sysRegs (s.closedEvent die e st) = sysRegs s :=
  sysRegs_ite (sysRegs_updJob fun _ => coreSys_setStrm ..) rfl

theorem xopen_keeps (s : State) (w : Wm) : KeepsSys s (s.xopen w) := by
  refine gives_then fun _ => keeps_bind (sources_keeps ..) rfl fun ⟨⟨_, _, _⟩, _⟩ h1 => acceptDesc_keeps h1 fun bs u hu => gives_then fun _ =>
    keeps_bind (joinW_keeps ..) hu fun ⟨t, s2⟩ h2 => ?_
  have fails : ∀ st : Nat, KeepsSys s (do
      let s3 ← s2.writeS w.d (statusWord st 0) 1
      Except.ok (ε := Halt) ((s3.endOp t none).retire 1)) := fun _ =>
    keeps_bind₁ (writeS_keeps ..) h2 fun _ h3 => gives_ok (by simp [h3])
  refine gives_ite (fails _) ?_
  split
  · exact fails _
  · exact keeps_bind₁ (writeS_keeps ..) h2 fun _ h3 => gives_ok ((sysRegs_retire ..).trans ((sysRegs_updDie rfl).trans h3))

theorem xword_keeps {s : State} {w : Wm} {h : Shape} {own : Res Unit} {role : Option Nat} {push : Bool}
    {go : Word × Word × Word → ChEnd → State → Res State} (next : ∀ x e u, sysRegs u = sysRegs s → KeepsSys s (go x e u)) :
    KeepsSys s (s.xword w h own role push go) :=
  gives_then fun _ => gives_then fun _ => keeps_bind (sources_keeps ..) rfl fun ⟨_, _⟩ h1 => gives_then fun _ => gives_then fun _ =>
    accept_keeps rfl h1 fun u hu => gives_then fun _ => gives_then fun e => next _ e u hu

theorem xreply_keeps (s : State) (w : Wm) (e : ChEnd) (st : Nat) : KeepsSys s (s.xreply w e st) :=
  keeps_bind₁ (writeS_keeps ..) rfl fun _ h1 => gives_ok (by simp [h1])

theorem xgrant_keeps (s : State) (w : Wm) : KeepsSys s (s.xgrant w) := by
  unfold State.xgrant
  exact xword_keeps fun _ _ _ hu => gives_ite (keeps_trans (xreply_keeps ..) hu) (gives_then fun _ => gives_then fun _ =>
    keeps_trans (xreply_keeps ..) ((sysRegs_updEnd ..).trans hu))

theorem xsend_keeps (s : State) (w : Wm) : KeepsSys s (s.xsend w) := by
  refine xword_keeps fun ⟨_, _, _⟩ e u hu => gives_then fun _ => gives_then fun _ => gives_then fun _ => gives_then fun _ =>
    keeps_bind (joinW_keeps ..) hu fun ⟨t, s2⟩ h2 => ?_
  have replies : ∀ st, KeepsSys s ((s2.endOp t none).xreply w e st) := fun _ => keeps_trans (xreply_keeps ..) ((sysRegs_endOp ..).trans h2)
  refine gives_ite (replies _) (gives_then fun _ => gives_ite (gives_ite (replies _) (gives_error _)) ?_)
  split
  · exact gives_error _
  · exact keeps_trans (xreply_keeps ..) (by simpa using h2)

theorem xrecv_keeps (s : State) (w : Wm) : KeepsSys s (s.xrecv w) := by
  refine xword_keeps fun _ e u hu => ?_
  have fails : ∀ st : Nat, KeepsSys s (do
      let s2 ← u.writeS w.d (recvWord st 0 0 0) 1
      Except.ok (ε := Halt) ((s2.closedEvent s.core.did e st).retire 1)) := fun _ =>
    keeps_bind₁ (writeS_keeps ..) hu fun _ h2 => gives_ok (by simp [h2])
  refine gives_ite (fails _) (gives_ite (fails _) (gives_then fun _ => ?_))
  extract_lets b
  cases e.bufs.getD b .free with
  | arrived seq user => exact keeps_bind₁ (writeS_keeps ..) hu fun _ h2 => gives_ok (by simp [h2])
  | free | granted | filling n => exact gives_ite (fails _) (gives_ite (fails _) (gives_error _))

theorem xclose_keeps (s : State) (w : Wm) : KeepsSys s (s.xclose w) :=
  xword_keeps fun _ _ _ hu => keeps_bind (joinW_keeps ..) hu fun ⟨_, _⟩ h2 =>
    gives_ite (keeps_trans (xreply_keeps ..) ((sysRegs_endOp ..).trans (sysRegs_ite h2 (by simp [h2]))))
      (gives_ite (keeps_trans (xreply_keeps ..) (by simp [h2])) (keeps_trans (xreply_keeps ..) (by simp [h2])))

theorem xstat_keeps (s : State) (w : Wm) : KeepsSys s (s.xstat w) :=
  xword_keeps fun _ _ _ hu => gives_ite (keeps_trans (xreply_keeps ..) hu) (keeps_bind₁ (writeS_keeps ..) hu fun _ h2 => gives_ok (by simp [h2]))

/-! ### The Pan filter (R299 to R301) -/

@[simp] theorem sysRegs_setPan (s : State) (die n : Nat) (p : PanSlot) : sysRegs (s.setPan die n p) = sysRegs s := sysRegs_updDie rfl
@[simp] theorem sysRegs_panReads (s : State) (die n : Nat) (f : List PanRead → List PanRead) : sysRegs (s.panReads die n f) = sysRegs s :=
  sysRegs_updDie rfl

theorem sysRegs_panWrite (s : State) (die n : Nat) (r : PanRead) : sysRegs (s.panWrite die n r) = sysRegs s :=
  sysRegs_ite (by simp) ((sysRegs_endOp ..).trans ((sysRegs_updDie rfl).trans (by simp)))

@[simp] theorem sysRegs_panFlush (die n : Nat) (l : List PanRead) (s : State) : sysRegs (s.panFlush die n l) = sysRegs s := by
  induction l generalizing s with
  | nil => rfl
  | cons r l ih => exact (ih _).trans (sysRegs_panWrite ..)

@[simp] theorem sysRegs_panServe (die n : Nat) (l : List PanRead) (s : State) : sysRegs (s.panServe die n l) = sysRegs s := by
  induction l generalizing s with
  | nil => rfl
  | cons r l ih =>
    refine sysRegs_ite (ih _) ?_
    split
    · exact (ih _).trans (sysRegs_panWrite ..)
    · exact ih _
    · exact (ih _).trans (sysRegs_ite rfl (sysRegs_panReads ..))

theorem pancfg_keeps (s : State) (w : Wm) : KeepsSys s (s.pancfg w) := by
  refine gives_then fun _ => keeps_bind (sources_keeps ..) rfl fun ⟨⟨_, _, _⟩, _⟩ h1 => acceptDesc_keeps h1 fun bs u hu => gives_then fun _ =>
    gives_then fun _ => gives_then fun _ => gives_then fun _ => gives_then fun _ => ?_
  split
  · exact keeps_bind₁ (writeS_keeps ..) hu fun _ h2 => gives_ok (by simp [h2])
  · exact keeps_bind₁ (writeS_keeps ..) hu fun _ h2 => gives_ok (by simp [h2])

theorem pancfgRel_keeps (s : State) (w : Wm) : KeepsSys s (s.pancfgRel w) :=
  gives_then fun _ => keeps_bind (sources_keeps ..) rfl fun ⟨⟨_, _, _⟩, _⟩ h1 => gives_then fun _ => gives_then fun _ =>
    accept_keeps rfl h1 fun _ hu => gives_then fun _ => gives_then fun ⟨_, _⟩ => gives_then fun _ =>
      keeps_bind₁ (writeS_keeps ..) hu fun _ h2 => gives_ok (by simp [h2])

theorem panrd_keeps (s : State) (w : Wm) : KeepsSys s (s.panrd w) :=
  gives_then fun _ => keeps_bind (sources_keeps ..) rfl fun ⟨⟨_, _, _⟩, _⟩ h1 => gives_then fun _ => gives_then fun _ =>
    accept_keeps rfl h1 fun _ hu => gives_then fun _ => gives_then fun _ => gives_then fun ⟨_, _⟩ => gives_then fun _ => gives_then fun _ =>
      gives_then fun _ => gives_then fun _ => keeps_bind (joinW_keeps ..) hu fun ⟨_, _⟩ h2 => gives_ok (by simp [h2])

/-! ### The system unit (R302 to R304) -/

theorem cntrd_keeps (s : State) (w : Wi) : KeepsSys s (s.cntrd w) :=
  gives_then fun _ => gives_then fun _ => keeps_bind₁ (writeS_keeps ..) rfl fun _ h1 => gives_ok (by simp [h1])

theorem cntclr_keeps (s : State) (w : Wi) : KeepsSys s (s.cntclr w) :=
  gives_then fun _ => gives_then fun _ => gives_ok ((sysRegs_retire ..).trans rfl)

theorem sysRegs_dropCore (s : State) (hit : TlbEnt → Bool) : sysRegs (s.dropCore hit) = sysRegs s := (sysRegs_updDie rfl).trans (sysRegs_updC rfl)

theorem sysRegs_dropAll (s : State) (hit : TlbEnt → Bool) : sysRegs (s.dropAll hit) = sysRegs s :=
  sysRegs_congr rfl (by simp [State.dropAll, Function.comp_def])

theorem invtlb_keeps (s : State) (w : Wi) : KeepsSys s (s.invtlb w) := by
  refine gives_then fun _ => gives_then fun _ => keeps_bind (sources_keeps ..) rfl fun ⟨⟨_, _, _⟩, _⟩ h1 => gives_then fun _ => gives_then fun _ =>
    gives_ok ((sysRegs_retire ..).trans ?_)
  split
  · exact (sysRegs_dropCore ..).trans h1
  · exact (sysRegs_dropCore ..).trans h1
  · exact (sysRegs_dropAll ..).trans h1

theorem pmcrd_keeps (s : State) (w : Wi) : KeepsSys s (s.pmcrd w) :=
  gives_then fun _ => keeps_bind (sources_keeps ..) rfl fun ⟨⟨_, _, _⟩, _⟩ h1 => gives_ite
    (gives_then fun _ => keeps_bind₁ (writeS_keeps ..) h1 fun _ h2 => gives_ok (by simp [h2]))
    (gives_ite (gives_then fun _ => gives_then fun _ => keeps_bind₁ (writeS_keeps ..) h1 fun _ h2 => gives_ok (by simp [h2])) (gives_error _))

end Sys2Proof.Proofs
end

section
/-!
PROOFS. No word of a user-view job changes a system register (R51).
-/

namespace Sys2Proof.Proofs
open Sys2Proof Sys2Proof.Machine

/-- Every word of a user-view job is an attempt that keeps the system registers. -/
theorem word_keeps {i : Instr} {s : State} (word : isWord i) (user : s.core.sys = false) : ∃ r, exec i s = outcome s r ∧ KeepsSys s r := by
  cases i with
  | add w | sub w | and w | or w | xor w | shl w | shr w | sra w | slt w | sltu w | min w | max w | minu w | maxu w
  | mul w | mulh w | mulhu w | sclmul w | sclmulh w | sel w
  | addi w | andi w | ori w | xori w | shli w | shri w | srai w | slti w | sltiu w | mini w | maxi w | minui w | maxui w
  | clz w | ctz w | popc w | brev w | bswap w | movi w | movhi w | mov w | sqw w | sqr w => exact ⟨_, rfl, alu_keeps ..⟩
  | extr w | ins w | extrs w => exact ⟨_, rfl, aluIf_keeps ..⟩
  | div w | divu w | rem w | remu w => exact ⟨_, rfl, divide_keeps ..⟩
  | beq w | bne w | blt w | bge w | bltu w | bgeu w | br w | bri w | bq w | bqz w => exact ⟨_, rfl, branchTo_keeps ..⟩
  | call w => exact ⟨_, rfl, call_keeps ..⟩
  | ret w => exact ⟨_, rfl, ret_keeps ..⟩
  | loop w => exact ⟨_, rfl, loop_keeps ..⟩
  | loopi w => exact ⟨_, rfl, loopi_keeps ..⟩
  | loops w => exact ⟨_, rfl, loops_keeps ..⟩
  | rrbset w => exact ⟨_, rfl, rrbset_keeps ..⟩
  | rdz w => exact ⟨_, rfl, rdzWait_keeps ..⟩
  | yield w => exact ⟨_, rfl, yield_keeps ..⟩
  | endStream w => exact ⟨_, rfl, endStrm_keeps ..⟩
  | trap w => exact ⟨_, rfl, trap_keeps ..⟩
  | eret w => exact ⟨_, rfl, eret_keeps ..⟩
  | bkpt w => exact ⟨_, rfl, bkpt_keeps ..⟩
  | rdsr w => exact ⟨_, rfl, rdsr_keeps ..⟩
  | wrsr w => exact ⟨_, rfl, wrsr_keeps user w⟩
  | rdcyc w => exact ⟨_, rfl, rdcyc_keeps ..⟩
  | ldB w | ldBn w | ldH w | ldHn w | ldW w | ldWn w | ldD w => exact ⟨_, rfl, load_keeps ..⟩
  | stB w | stH w | stW w | stD w => exact ⟨_, rfl, store_keeps ..⟩
  | ldv w => exact ⟨_, rfl, ldvWord_keeps ..⟩
  | ldvp w => exact ⟨_, rfl, ldvpWord_keeps ..⟩
  | stv w | stvp w => exact ⟨_, rfl, stvWord_keeps ..⟩
  | ldg w => exact ⟨_, rfl, ldgWord_keeps ..⟩
  | stg w => exact ⟨_, rfl, stgWord_keeps ..⟩
  | aaddAtomic w | aand w | aor w | axor w | amin w | amax w | aminn w | amaxn w | aswp w | acas w => exact ⟨_, rfl, atomicWord_keeps ..⟩
  | fence w => exact ⟨_, rfl, fence_keeps ..⟩
  | swinit w => exact ⟨_, rfl, swinit_keeps ..⟩
  | swwait w => exact ⟨_, rfl, swwaitWord_keeps ..⟩
  | swadd w => exact ⟨_, rfl, swadd_keeps ..⟩
  | pcfg w => exact ⟨_, rfl, pcfg_keeps ..⟩
  | pgo w => exact ⟨_, rfl, pgo_keeps ..⟩
  | pstop w => exact ⟨_, rfl, pstop_keeps ..⟩
  | pflush w => exact ⟨_, rfl, pflush_keeps ..⟩
  | wcfg w => exact ⟨_, rfl, wcfg_keeps ..⟩
  | wadv w => exact ⟨_, rfl, wadv_keeps ..⟩
  | wrel w => exact ⟨_, rfl, wrel_keeps ..⟩
  | cpy w => exact ⟨_, rfl, cpy_keeps ..⟩
  | cpy2 w | cpy3 w => exact ⟨_, rfl, cpyStrided_keeps ..⟩
  | cpysw w => exact ⟨_, rfl, cpysw_keeps ..⟩
  | cbat w => exact ⟨_, rfl, cbat_keeps ..⟩
  | waitn w => exact ⟨_, rfl, waitn_keeps ..⟩
  | pref w => exact ⟨_, rfl, pref_keeps ..⟩
  | enq w => exact ⟨_, rfl, enq_keeps ..⟩
  | deq w => exact ⟨_, rfl, deq_keeps ..⟩
  | tierin w => exact ⟨_, rfl, tierin_keeps ..⟩
  | tierq w => exact ⟨_, rfl, tierq_keeps ..⟩
  | tierev w => exact ⟨_, rfl, tierev_keeps ..⟩
  | vadd w | vsub w | vmul w | vfma w | vfms w | vmin w | vmax w | vabs w | vneg w | vabd w => exact ⟨_, rfl, arith_keeps ..⟩
  | vcmp w => exact ⟨_, rfl, vword_keeps fun _ _ => gives_ok (sysRegs_putMask ..)⟩
  | vand w | vor w | vxor w | vnot w | vmov w => exact ⟨_, rfl, lanes_keeps ..⟩
  | vshl w | vshr w | vsra w => exact ⟨_, rfl, vshift_keeps ..⟩
  | vsel w => exact ⟨_, rfl, vsel_keeps ..⟩
  | vcvt w | vcvts w => exact ⟨_, rfl, cvt_keeps ..⟩
  | vpack w | vunpk w | vqi4x w | vbcst w | vins w | vidx w | vrand w => exact ⟨_, rfl, vword_keeps fun _ _ => putElems_keeps ..⟩
  | vtrn w | vperm w | vrope w => exact ⟨_, rfl, vwordIf_keeps fun _ _ => putElems_keeps ..⟩
  | vext w => exact ⟨_, rfl, vword_keeps fun _ _ => writeS_keeps ..⟩
  | vrotr w | vrotc w | vbcr w | vbcc w => exact ⟨_, rfl, rotWord_keeps ..⟩
  | vredr w | vredc w => exact ⟨_, rfl, reduceWord_keeps ..⟩
  | vexp2 w | vexp w | vlog2 w | vrcp w | vrsq w | vsqrt w | vtanh w | vsigm w | vsilu w | vgelu w => exact ⟨_, rfl, special_keeps ..⟩
  | vsmerge w => exact ⟨_, rfl, vword_keeps fun _ _ => gives_ok (sysRegs_pend ..)⟩
  | vclmulL w | vclmulH w | vpopc w | vclz w => exact ⟨_, rfl, bitWord_keeps ..⟩
  | rngkey w => exact ⟨_, rfl, vword_keeps fun _ _ => gives_ok (sysRegs_updC rfl)⟩
  | mand w | mor w | mxor w | mnot w => exact ⟨_, rfl, maskOp_keeps ..⟩
  | mset w => exact ⟨_, rfl, maskWord_keeps fun _ _ _ _ => gives_ok (sysRegs_putMask ..)⟩
  | mcnt w | mfirst w => exact ⟨_, rfl, maskWord_keeps fun _ _ _ _ => writeS_keeps ..⟩
  | mma w | mmat w => exact ⟨_, rfl, mword_keeps fun _ _ => gives_then fun _ => gives_ok (sysRegs_dense ..)⟩
  | mmas w => exact ⟨_, rfl, mmas_keeps ..⟩
  | mmaf w => exact ⟨_, rfl, mmaf_keeps ..⟩
  | mclr w | aaddv w | amov w | acan w => exact ⟨_, rfl, mword_keeps fun _ _ => gives_ok (sysRegs_pend ..)⟩
  | anch w | ashf w => exact ⟨_, rfl, anchorWord_keeps ..⟩
  | aaddAcc w | asub w => exact ⟨_, rfl, tileSum_keeps ..⟩
  | rslv w => exact ⟨_, rfl, rslv_keeps ..⟩
  | acmp w => exact ⟨_, rfl, mword_keeps fun _ _ => gives_ok (sysRegs_putMask ..)⟩
  | aexn w => exact ⟨_, rfl, mword_keeps fun _ _ => putElems_keeps ..⟩
  | astr w | astc w => exact ⟨_, rfl, tileStore_keeps ..⟩
  | aldr w | aldc w => exact ⟨_, rfl, tileLoad_keeps ..⟩
  | setrm w => exact ⟨_, rfl, gives_then fun _ => gives_then fun _ => mword_keeps fun _ _ => gives_ok (sysRegs_updView rfl)⟩
  | fmtt w => exact ⟨_, rfl, fmtt_keeps ..⟩
  | attn w | attnm w => exact ⟨_, rfl, attnWord_keeps ..⟩
  | kvnew w => exact ⟨_, rfl, kvnew_keeps ..⟩
  | kvfree w => exact ⟨_, rfl, kvfree_keeps ..⟩
  | kvfork w => exact ⟨_, rfl, kvfork_keeps ..⟩
  | kvshare w => exact ⟨_, rfl, kvshare_keeps ..⟩
  | kvstat w => exact ⟨_, rfl, kvstat_keeps ..⟩
  | kvw w => exact ⟨_, rfl, kvw_keeps ..⟩
  | kvrnw w => exact ⟨_, rfl, kvrnw_keeps ..⟩
  | kvexp w => exact ⟨_, rfl, kvexp_keeps ..⟩
  | kvadv w | kvcmt w | kvrwd w => exact ⟨_, rfl, position_keeps ..⟩
  | smin w | sminv w => exact ⟨_, rfl, mapWord_keeps ..⟩
  | smout w => exact ⟨_, rfl, smout_keeps ..⟩
  | slabgr w => exact ⟨_, rfl, slabgr_keeps ..⟩
  | xopen w => exact ⟨_, rfl, xopen_keeps ..⟩
  | xgrant w => exact ⟨_, rfl, xgrant_keeps ..⟩
  | xsend w => exact ⟨_, rfl, xsend_keeps ..⟩
  | xrecv w => exact ⟨_, rfl, xrecv_keeps ..⟩
  | xclose w => exact ⟨_, rfl, xclose_keeps ..⟩
  | xstat w => exact ⟨_, rfl, xstat_keeps ..⟩
  | pancfg w => exact ⟨_, rfl, pancfg_keeps ..⟩
  | pancfgRel w => exact ⟨_, rfl, pancfgRel_keeps ..⟩
  | panrd w => exact ⟨_, rfl, panrd_keeps ..⟩
  | cntrd w => exact ⟨_, rfl, cntrd_keeps ..⟩
  | cntclr w => exact ⟨_, rfl, cntclr_keeps ..⟩
  | invtlb w => exact ⟨_, rfl, invtlb_keeps ..⟩
  | pmcrd w => exact ⟨_, rfl, pmcrd_keeps ..⟩
  | _ => nomatch word

/-- Settles O20: every word is an attempt that keeps the system registers, whether it completes, waits or faults; WRSR alone writes special
registers, and in the user view names none of the system's. -/
theorem userViewKeepsSystemRegisters : Obligations.UserViewKeepsSystemRegisters := by
  unfold Obligations.UserViewKeepsSystemRegisters
  intro i s t word user _ run _
  obtain ⟨r, attempt, keeps⟩ := word_keeps word user
  have kept : sysRegs t = sysRegs s := sysRegs_outcome keeps (attempt ▸ run)
  have core : coreSys t.core = coreSys s.core := congrArg (·.1) kept
  simp only [coreSys, Prod.mk.injEq] at core
  obtain ⟨sys, ptb, cntc, dbg, rcb⟩ := core
  exact ⟨sys.trans user, ptb, cntc, dbg, rcb, mth_of_sysRegs kept⟩

end Sys2Proof.Proofs
end

section
/-!
PROOFS. The end of an operation, and a part of an access that performs (R84, R96, R100, R211).
-/

namespace Sys2Proof.Proofs
open Sys2Proof Sys2Proof.Machine

/-! ### The end of an operation (R96, R211) -/

/-- It changes tokens of the core under view, or other jobs, at most. -/
theorem endOp_frame (s : State) (r : Option TokRef) (e : Option FaultInfo) : ∃ ta tv tm p v, s.endOp r e = { s with
    core := { s.core with sa := { s.core.sa with tokens := ta }, sv := { s.core.sv with tokens := tv }, sm := { s.core.sm with tokens := tm } }
    parked := p, saved := v } := by
  cases r with
  | none => exact ⟨_, _, _, _, _, rfl⟩
  | some r =>
    unfold State.endOp State.updJob
    dsimp only
    split
    · cases r.strm <;> exact ⟨_, _, _, _, _, rfl⟩
    · exact ⟨_, _, _, _, _, rfl⟩

/-- An operation of the job under view is performed in its batch, and its stream's other tokens and the other streams stay. -/
theorem endOp_holds {s : State} {r : TokRef} {e : Option FaultInfo} (h : s.core.holds r.lrec r.job = true) :
    s.endOp (some r) e = s.updC fun c =>
      c.setStrm r.strm ((c.strm r.strm).setToken r.tok (((c.strm r.strm).token r.tok).perform r.batch e)) := if_pos h

theorem leaves_endOp (s : State) (tok : Option TokRef) (e : Option FaultInfo) : s.leaves (s.endOp tok e) tok e := by
  rintro r rfl h
  rw [endOp_holds h, State.updC_core, Core.strm_setStrm, StrmSt.token_setToken, if_pos rfl]

/-- An access that ends leaves its batch, whatever its last part did to the registers. -/
theorem leaves_endMop {s u : State} {o : MOp} {e : Option FaultInfo} (strm : ∀ k, u.core.strm k = s.core.strm k)
    (holds : ∀ l j, u.core.holds l j = s.core.holds l j) : s.leaves (u.endMop o e) o.tok e := by
  intro r hr h
  have ended := leaves_endOp (u.dropOp o.id) o.tok e r hr ((holds _ _).trans h)
  rwa [show (u.dropOp o.id).core.strm r.strm = s.core.strm r.strm from strm r.strm] at ended

theorem endMop_ops (u : State) (o : MOp) (e : Option FaultInfo) : ∀ x ∈ (u.endMop o e).core.ops, x.id ≠ o.id := by
  obtain ⟨_, _, _, _, _, frame⟩ := endOp_frame (u.dropOp o.id) o.tok e
  intro x hx
  rw [State.endMop, frame] at hx
  simpa using (List.mem_filter.1 hx).2

@[simp] theorem goOn_vregs (u : State) (o : MOp) (ended : Bool) (b : MBody) : (u.goOn o ended b).core.vregs = u.core.vregs := by
  unfold State.goOn
  split
  · obtain ⟨_, _, _, _, _, frame⟩ := endOp_frame (u.dropOp o.id) o.tok none
    rw [State.endMop, frame]
    rfl
  · rfl

/-! ### An operation with nothing to do (R96, R321) -/

/-- An operation that joins an idle token and is performed leaves it idle. -/
theorem join_perform_count {t : Token} (idle : t.count = 0) (opn : Bool) (id : Nat) :
    ((t.join opn id).1.perform (t.join opn id).2 none).count = 0 := by
  obtain ⟨openB, closed, errs⟩ := t
  obtain ⟨rfl, empty⟩ : closed = [] ∧ ∀ b, openB = some b → b.left = 0 := by
    cases openB <;> simp_all [Token.count, Token.openCount]
  cases openB with
  | none => cases opn <;> simp [Token.join, Token.addClosed, Token.perform, Token.settle, dropEnded, Token.count, Token.openCount]
  | some b =>
    have idle : b.left = 0 := empty b rfl
    cases opn with
    | true => simp [Token.join, Token.perform, Token.settle, dropEnded, Token.count, Token.openCount, idle]
    | false =>
      have still : (if b.id = id then { b with left := b.left - 1, err := if b.err.isSome then b.err else none } else b).left = 0 := by
        split <;> simp [idle]
      simp [Token.join, Token.addClosed, Token.perform, Token.settle, dropEnded, Token.count, Token.openCount, still]

/-- The same of a word of a running job whose operation ends as it joins. -/
theorem joinIf_endOp_count {u : State} {tke opn : Bool} {n : Nat} (running : u.core.running = true) (idle : (u.strm.token n).count = 0) :
    (((u.joinIf tke n opn).2.endOp (u.joinIf tke n opn).1 none).strm.token n).count = 0 := by
  cases tke with
  | false => exact idle
  | true =>
    have job : (u.joinTok n opn).2.core.holds u.core.lrec u.core.job.toNat = true := by
      have alike : ∀ x, (u.core.setStrm u.cur x).holds u.core.lrec u.core.job.toNat = u.core.running := fun x => by
        simp [Core.holds]
      exact (alike _).trans running
    show (((u.joinTok n opn).2.endOp (some (u.joinTok n opn).1) none).strm.token n).count = 0
    have token := leaves_endOp (u.joinTok n opn).2 (some (u.joinTok n opn).1) none _ rfl job
    have cur : ((u.joinTok n opn).2.endOp (some (u.joinTok n opn).1) none).cur = u.cur := by
      obtain ⟨_, _, _, _, _, frame⟩ := endOp_frame (u.joinTok n opn).2 (some (u.joinTok n opn).1) none
      rw [frame]
      rfl
    have joined : ((u.joinTok n opn).2.core.strm u.cur).token n = ((u.strm.token n).join opn u.ids).1 := by
      show ((u.core.setStrm u.cur _).strm u.cur).token n = _
      rw [Core.strm_setStrm, StrmSt.token_setToken, if_pos rfl]
      rfl
    unfold State.strm
    rw [cur]
    refine (congrArg Token.count (token.trans ?_)).trans (join_perform_count idle opn u.ids)
    exact congrArg (Token.perform · _ none) joined

/-! ### A part performs (R84, R100, R324) -/

/-- Where an access stands and one of its parts may perform first, an attempt performs that part. -/
theorem attempt_performs {s : State} {o : MOp} {pick : Part → Bool} {p : Part} {fits : MBody → Bool} (h : s.performs o pick p)
    (fit : fits o.body = true) : s.attempt o.id fits pick = s.performPart o p.ix := by
  obtain ⟨found, stands, first⟩ := h
  have free : (o.body.parts.filter fun p => pick p && s.canPerform o p).find? (fun p => (p.reads ++ p.writes).any s.linkFailed) = none := by
    refine List.find?_eq_none.2 fun q hq => ?_
    obtain ⟨part, ok⟩ := List.mem_filter.1 hq
    simpa [or_imp, forall_and] using stands q part (Bool.and_eq_true_iff.1 ok).1
  unfold State.attempt
  simp only [found, fit, Bool.not_true, Bool.false_eq_true, if_false, free]
  rw [List.find?_filter]
  simp only [← Bool.and_eq_true, Bool.decide_eq_true, first]

/-- Serving an access opens no fence and gives back no frame. -/
def fences (s : State) : List Nat × List Bool := (s.host.excluded, s.dies.map (·.fenced))

theorem hbmDead_of_fences {s t : State} (h : fences t = fences s) (key : Nat) : t.hbmDead key = s.hbmDead key := by
  have excluded : t.host.excluded = s.host.excluded := congrArg (·.1) h
  unfold State.hbmDead
  rw [excluded, die_of_dies_map (g := Die.fenced) (congrArg (·.2) h)]

theorem fences_ite {c : Prop} [Decidable c] {s t u : State} (ht : fences t = fences s) (hu : fences u = fences s) :
    fences (if c then t else u) = fences s := ite_both (P := fun x => fences x = fences s) ht hu

theorem fences_updDie {s : State} {d : Nat} {f : Die → Die} (h : (f (s.die d)).fenced = (s.die d).fenced) : fences (s.updDie d f) = fences s :=
  congrArg (Prod.mk _) (dies_map_updDie h)

theorem fences_writeMem (s : State) (key : Nat) (bs : List Byte) : fences (s.writeMem key bs) = fences s :=
  fences_ite rfl (fences_ite ((fences_updDie rfl).trans rfl) rfl)

theorem fences_postRecord (s : State) (node : Nat) (r : FRec) : fences (s.postRecord node r) = fences s := by
  have signalled : ∀ (t : State) (v : Nat), fences (t.msix v) = fences t := fun t v => by
    unfold fences State.msix HostSt.signal
    dsimp only
    split <;> rfl
  refine fences_ite rfl ?_
  unfold State.writeRecord
  extract_lets fq rseq s1 base size head tail v vec s2
  have h1 : fences s1 = fences s := rfl
  have h2 : fences s2 = fences s1 := fences_ite (fences_writeMem ..) ((fences_writeMem ..).trans (fences_writeMem ..))
  exact fences_ite h1 ((signalled s2 vec).trans (h2.trans h1))

theorem fences_rowAlert (s : State) (key r : Nat) : fences (s.rowAlert key r) = fences s := by
  unfold State.rowAlert
  extract_lets b d w k fresh wa noticed notice k1 s1
  have h1 : fences s1 = fences s := rfl
  exact (fences_ite (fences_ite rfl (fences_postRecord ..)) rfl).trans h1

theorem fences_touchRow (s : State) (key : Nat) : fences (s.touchRow key) = fences s :=
  fences_ite (fences_ite rfl rfl) (fences_ite rfl (fences_ite rfl (fences_ite (fences_rowAlert ..) rfl)))

end Sys2Proof.Proofs
end

section
/-!
PROOFS. Gather and scatter (R216, R321).
-/

namespace Sys2Proof.Proofs
open Sys2Proof Sys2Proof.Machine

/-! ### The addresses of the lanes (R208, R216) -/

theorem laneChecks_ok {chk : Nat → Res Unit} {addr : Nat → Nat} {l : List Nat} (h : ∀ n ∈ l, chk (addr n) = .ok ()) : laneChecks chk addr l = .ok () := by
  induction l with
  | nil => rfl
  | cons n l ih =>
    rw [laneChecks, h n (by simp), res_ok_bind]
    exact ih fun m hm => h m (by simp [hm])

theorem laneXlate_ok {s : State} {acc : Acc} {addr : Nat → Nat} {keys : List (Nat × Nat)} (h : ∀ e ∈ keys, s.xlate (addr e.1) acc = .ok e.2) :
    s.laneXlate acc addr (keys.map (·.1)) = .ok keys := by
  induction keys with
  | nil => rfl
  | cons e keys ih =>
    rw [List.map_cons, State.laneXlate, h e (by simp), res_ok_bind, ih fun x hx => h x (by simp [hx])]
    rfl

theorem laneKeys_ok {s : State} {acc : Acc} {n : Nat} {addr : Nat → Nat} {keys : List (Nat × Nat)} {lanes : List Nat} (all : keys.map (·.1) = lanes)
    (each : ∀ e ∈ keys, addrOk (addr e.1) n n ∧ s.xlate (addr e.1) acc = .ok e.2) : s.laneKeys acc n addr lanes = .ok keys := by
  subst all
  have valid : ∀ m ∈ keys.map (·.1), addrOk (addr m) n n := fun m hm => by
    obtain ⟨e, he, rfl⟩ := List.mem_map.1 hm
    exact (each e he).1
  have range : ∀ m ∈ keys.map (·.1), rangeCheck (addr m) n = .ok () := fun m hm => rangeCheck_ok (valid m hm).1 (valid m hm).2.1
  have aligned : ∀ m ∈ keys.map (·.1), alignCheck n (addr m) = .ok () := fun m hm => trapIf_ok.2 (by simp [(valid m hm).2.2])
  rw [State.laneKeys, laneChecks_ok range, res_ok_bind, laneChecks_ok aligned, res_ok_bind]
  exact laneXlate_ok fun e he => (each e he).2

/-! ### Issue (R216, R321) -/

/-- A gather or scatter of lanes with these addresses issues: with a lane it stands in the list; with none it has been performed at once. -/
def ElemsIssue (i : Instr) (s : State) (w : Wm) (a : Word) (kinds : BitVec 6) (vas : List (Nat × Nat)) (body : MBody) : Prop :=
  (vas ≠ [] → Retires i s 8 fun v => s.sameDataAt v (vas.map (·.2)) ∧ s.sameScalars v ∧
    ∃ tok, s.joinsBatch w tok ∧ s.issuedAt v w.cls.toNat kinds a.toNat vas body tok 0) ∧
  (vas = [] → Retires i s 8 fun v => s.sameData { v with parked := s.parked } ∧ s.sameScalars v ∧ v.core.ops = s.core.ops ∧
    (s.core.running = true → (s.strm.token w.tk.toNat).count = 0 → (v.strm.token w.tk.toNat).count = 0))

/-- A word whose operation ends as it joins leaves data, scalars and the list of accesses as they were. -/
theorem AtIssue.endOp {s v : State} (h : AtIssue s v) (tok : Option TokRef) : let x := v.endOp tok none
    s.sameData { x with parked := s.parked } ∧ s.sameScalars x ∧ x.core.ops = s.core.ops := by
  intro x
  obtain ⟨ta, tv, tm, p, saved, frame⟩ := endOp_frame v tok none
  obtain ⟨_, _, _, _, _, _, _, _, _, rfl⟩ := h
  rw [show x = _ from frame]
  exact ⟨⟨rfl, rfl, rfl, rfl, rfl, rfl, rfl, rfl, rfl, rfl⟩, fun k => by cases k <;> rfl, rfl⟩

section
variable {i : Instr} {s t : State} {w : Wm} {a : Word} {cycles : Nat} {kinds : BitVec 6} {vas : List (Nat × Nat)} {body : MBody}

/-- A word that has read its operands and finds the port free issues its elements. -/
theorem elemsIssue (read : ∃ q, t = { s with core := { s.core with queues := q } }) (room : s.batchRoom w)
    (next : ∀ tok v, (t.holdPort (.strm .a) 0 cycles).joinW w = .ok (tok, v) → exec i s = .next ((v.addElems w kinds a vas body tok).retire 8)) :
    ElemsIssue i s w a kinds vas body := by
  obtain ⟨q, rfl⟩ := read
  obtain ⟨tok, v, join, joins, at_, -, -⟩ := takesPort cycles ⟨s.core.ports, q, rfl⟩ room
  refine ⟨fun some => ?_, fun none => ?_⟩
  · obtain ⟨data, scalars, -, -, issued⟩ := at_.addOpAt w.cls.toNat kinds a.toNat vas body tok
    have stands : v.addElems w kinds a vas body tok = v.addOpAt w.cls.toNat kinds a.toNat vas body tok 0 := by
      rw [State.addElems, if_neg (by simpa using some)]
    exact ⟨_, stands ▸ next tok v join, data, scalars, tok, joins, issued⟩
  · obtain ⟨data, scalars, ops⟩ := at_.endOp tok
    have ends : v.addElems w kinds a vas body tok = v.endOp tok .none := by rw [State.addElems, if_pos (by simpa using none)]
    refine ⟨_, ends ▸ next tok v join, data, scalars, ops, fun running idle => ?_⟩
    generalize hu : State.holdPort _ (.strm .a) 0 cycles = u at join
    have core : u.core.running = s.core.running ∧ u.strm = s.strm := by
      rw [← hu]
      exact ⟨rfl, by show Core.strm _ s.cur = Core.strm _ s.cur; cases s.cur <;> rfl⟩
    rw [joinW_room (by unfold State.batchRoom; rwa [core.2])] at join
    have count := joinIf_endOp_count (tke := w.tke) (opn := w.opn) (core.1.trans running) (core.2 ▸ idle)
    rwa [Except.ok.inj join] at count

theorem ldg_issues {b c : Word} {l : List VReg} {x : State} {keys : List (Nat × Nat)}
    (ht : s.takesOf (shGather w true) { shGather w true with b := .none } a b c t)
    (index : s.readV w.b (if bitsOf w.disp.toNat 23 22 = 2 then 2 else 1) = .ok (.tiles l, x))
    (hk : s.laneKeys .rd (elemSize w) (laneAddr w a l) (predLanes (s.pred w.toHd)) = .ok keys)
    (free : s.portOpen (.strm .a) (if keys.isEmpty then 0 else 4 * elemSize w)) (shadow : s.shadow (shGather w true) = .ok ())
    (room : s.batchRoom w) :
    ElemsIssue (.ldg w) s w a 1 (keys.map fun e => (e.1, laneAddr w a l e.1)) (.ldg keys (elemSize w) (s.physRange w.d.toNat (elemSize w / 2))) := by
  obtain ⟨⟨static, await⟩, sources⟩ := ht
  refine elemsIssue (cycles := if keys.isEmpty then 0 else 4 * elemSize w) (sources_frame sources) room fun tok v join => ?_
  show outcome s (s.ldgWord w) = _
  unfold State.ldgWord
  simp only [static, sources, index, VSrc.images, hk, show s.await w.toHd = .ok () from await, res_ok_bind, withPort_open free]
  rw [join]
  simp only [shadow, res_ok_bind]
  rfl

theorem stg_issues {b c : Word} {l d : List VReg} {x y : State} {keys : List (Nat × Nat)}
    (ht : s.takesOf (shGather w false) { shGather w false with b := .none, c := .none } a b c t)
    (index : s.readV w.b (if bitsOf w.disp.toNat 23 22 = 2 then 2 else 1) = .ok (.tiles l, x))
    (hk : s.laneKeys .wr (elemSize w) (laneAddr w a l) (predLanes (s.pred w.toHd)) = .ok keys)
    (free : s.portOpen (.strm .a) (if keys.isEmpty then 0 else 4 * elemSize w)) (shadow : s.shadow (shGather w false) = .ok ())
    (room : s.batchRoom w) (data : s.readV w.c (elemSize w / 2) = .ok (.tiles d, y)) :
    ElemsIssue (.stg w) s w a 2 (keys.map fun e => (e.1, laneAddr w a l e.1))
      (.stg (keys.map fun e => (e.1, e.2, elemBits (if elemSize w = 4 then .n32 else .n16) d (e.1 / 64) (e.1 % 64))) (elemSize w)) := by
  obtain ⟨⟨static, await⟩, sources⟩ := ht
  refine elemsIssue (cycles := if keys.isEmpty then 0 else 4 * elemSize w) (sources_frame sources) room fun tok v join => ?_
  show outcome s (s.stgWord w) = _
  unfold State.stgWord
  simp only [static, sources, index, VSrc.images, hk, show s.await w.toHd = .ok () from await, data, res_ok_bind, withPort_open free]
  rw [join]
  simp only [shadow, res_ok_bind]
  rfl

end

/-! ### Elements perform (R45, R96, R216) -/

/-- An access has ended: it has left its batch and the list. -/
def accessEnded (s t : State) (o : MOp) : Prop := s.leaves t o.tok none ∧ ∀ x ∈ t.core.ops, x.id ≠ o.id

/-- The last part of an access ends it. -/
theorem goOn_accessEnded {s u : State} {o : MOp} {b : MBody} {last : Bool} (h : last = true) (strm : ∀ k, u.core.strm k = s.core.strm k)
    (holds : ∀ l j, u.core.holds l j = s.core.holds l j) : accessEnded s (u.goOn o last b) o := by
  subst h
  exact ⟨leaves_endMop strm holds, endMop_ops u o none⟩

/-- An element of a gather: its row is served, and the register or pair has it. -/
def gathered (s : State) (key n lane r h : Nat) : State :=
  let s1 := (s.touchRow key).updC fun c => c.setVreg r (Sparse.set (s.core.vreg r) lane (BitVec.ofNat 16 (s.natAt key n)))
  if n = 4 then s1.updC fun c => c.setVreg h (Sparse.set (s.core.vreg h) lane (BitVec.ofNat 16 (s.natAt key n / 65536))) else s1

theorem gathered_core (s : State) (key n lane r h : Nat) : let g := gathered s key n lane r h
    g.mem = (s.touchRow key).mem ∧ (∀ k, g.core.strm k = s.core.strm k) ∧ (∀ l j, g.core.holds l j = s.core.holds l j) := by
  have core : (s.touchRow key).core = s.core := served_core (served_touchRow ..)
  unfold gathered
  by_cases wide : n = 4
  · rw [if_pos wide, ← core]
    exact ⟨rfl, fun k => by cases k <;> rfl, fun _ _ => rfl⟩
  · rw [if_neg wide, ← core]
    exact ⟨rfl, fun k => by cases k <;> rfl, fun _ _ => rfl⟩

/-- What the registers hold then. -/
theorem gathered_vreg (s : State) (key n lane r h q : Nat) : (gathered s key n lane r h).core.vreg q =
    if n = 4 ∧ q = h then Sparse.set (s.core.vreg h) lane (BitVec.ofNat 16 (s.natAt key n / 65536))
    else if q = r then Sparse.set (s.core.vreg r) lane (BitVec.ofNat 16 (s.natAt key n)) else s.core.vreg q := by
  have core : (s.touchRow key).core = s.core := served_core (served_touchRow ..)
  unfold gathered
  by_cases wide : n = 4
  · simp only [if_pos wide, State.updC_core, Core.vreg_setVreg, core, and_iff_right wide]
  · simp only [if_neg wide, if_neg fun both : n = 4 ∧ q = h => wide both.1, State.updC_core, Core.vreg_setVreg, core]

section
variable {s : State} {o : MOp} {lane key n : Nat}

theorem performPart_ldg {e : List (Nat × Nat)} {r h : Nat} (body : o.body = .ldg e n (if n = 4 then [r, h] else [r]))
    (found : (e.find? fun x => x.1 == lane) = some (lane, key)) (clean : s.poisonedAt key n = false) :
    s.performPart o lane = (gathered s key n lane r (if n = 4 then h else 0)).goOn o (e.filter fun x => x.1 != lane).isEmpty
      (.ldg (e.filter fun x => x.1 != lane) n (if n = 4 then [r, h] else [r])) := by
  unfold State.performPart
  simp only [body, found, clean, Bool.false_eq_true, if_false]
  by_cases wide : n = 4
  · simp only [if_pos wide, gathered, gatherElem, List.getD_cons_zero, List.getD_cons_succ]
  · simp only [if_neg wide, gathered, gatherElem, List.getD_cons_zero, List.getD_cons_succ, List.getD_nil]

theorem performPart_stg {e : List (Nat × Nat × Nat)} {v : Nat} (body : o.body = .stg e n)
    (found : (e.find? fun x => x.1 == lane) = some (lane, key, v)) :
    s.performPart o lane = ((s.touchRow key).writeMem key (leBytes n v)).goOn o (e.filter fun x => x.1 != lane).isEmpty
      (.stg (e.filter fun x => x.1 != lane) n) := by
  unfold State.performPart
  simp only [body, found]

end

/-- Settles O29: every lane's address is checked and translated before the port is taken and the batch joined; an element performs as the
first part of its access that nothing holds back. -/
theorem gatherAndScatter : Obligations.GatherAndScatter := by
  unfold Obligations.GatherAndScatter
  constructor
  · intro w s t a b c l x keys p n iw addrs vas issues ready index
    have issue : ∀ (i : Instr) (kinds : BitVec 6) (body : MBody), ElemsIssue i s w a kinds vas body → issues i kinds body :=
      fun i kinds body h => ⟨fun some => h.1 (by simpa [vas] using some), fun none => h.2 (by simpa [vas] using none)⟩
    refine ⟨fun ht ⟨all, each⟩ ⟨shadow, free, room⟩ => ?_, fun d y ht ⟨all, each⟩ ⟨shadow, free, room⟩ data => ?_⟩
    · exact issue _ _ _ (ldg_issues ht index (laneKeys_ok all each) free shadow room)
    · exact issue _ _ _ (stg_issues ht index (laneKeys_ok all each) free shadow room data)
  · intro s o lane key part performs number ended
    subst number
    refine ⟨fun e n r h body size apart found clean => ?_, fun e n v body found live fits => ?_⟩
    · have run : exec (.gatherComplete o.id) s = .next (s.performPart o part.ix) :=
        congrArg Host.Outcome.next (attempt_performs performs (by rw [body]))
      rw [performPart_ldg body found clean] at run
      obtain ⟨mem, strm, holds⟩ := gathered_core s key n part.ix r (if n = 4 then h else 0)
      have regs := fun q => (congrArg (Sparse.get · q) (goOn_vregs (gathered s key n part.ix r (if n = 4 then h else 0)) o
        (e.filter fun x => x.1 != part.ix).isEmpty (.ldg (e.filter fun x => x.1 != part.ix) n (if n = 4 then [r, h] else [r])))).trans
        (gathered_vreg s key n part.ix r (if n = 4 then h else 0) q)
      refine ⟨_, run, fun k => ?_, ?_, fun wide => ?_, fun q m other => ?_, fun only => ?_⟩
      · unfold State.byte
        rw [goOn_mem, mem]
      · have low : ¬ (n = 4 ∧ r = if n = 4 then h else 0) := fun ⟨wide, e⟩ => apart (by simpa [wide] using e)
        refine (congrArg (Sparse.get · part.ix) (regs r)).trans ?_
        rw [if_neg low, if_pos rfl, sparse_get_set_same]
      · subst wide
        refine (congrArg (Sparse.get · part.ix) (regs h)).trans ?_
        rw [if_pos ⟨rfl, rfl⟩, sparse_get_set_same]
      · refine (congrArg (Sparse.get · m) (regs q)).trans ?_
        by_cases high : n = 4 ∧ q = if n = 4 then h else 0
        · rw [if_pos high, ← high.2]
          obtain ⟨-, low⟩ | lane := other
          · exact absurd (high.2.trans (if_pos high.1)) (low high.1)
          · exact sparse_get_set_other _ _ lane
        rw [if_neg high]
        by_cases low : q = r
        · rw [if_pos low, ← low]
          obtain ⟨apart, -⟩ | lane := other
          · exact absurd low apart
          · exact sparse_get_set_other _ _ lane
        · rw [if_neg low]
      · exact goOn_accessEnded (by simp [only]) strm holds
    · have run : exec (.gatherComplete o.id) s = .next (s.performPart o part.ix) :=
        congrArg Host.Outcome.next (attempt_performs performs (by rw [body]))
      rw [performPart_stg body found] at run
      have core : ((s.touchRow key).writeMem key (leBytes n v)).core = s.core := (writeMem_core ..).trans (served_core (served_touchRow ..))
      have dead : (s.touchRow key).hbmDead key = false := (hbmDead_of_fences (fences_touchRow ..) key).trans live
      refine ⟨_, run, ?_, fun k out => ?_, fun only => ?_⟩
      · refine (natAt_congr (s := (s.touchRow key).writeMem key (leBytes n v)) fun i _ => congrArg (Sparse.get · _) (goOn_mem ..)).trans ?_
        have bytes := bytesAt_writeMem (bs := leBytes n v) dead
        rw [leBytes_length] at bytes
        rw [State.natAt, bytes, leNat_leBytes, ← Nat.pow_mul 2 8 n]
        exact Nat.mod_eq_of_lt fits
      · refine (congrArg (Sparse.get · k) (goOn_mem ..)).trans ?_
        exact byte_writeMem_other (by rwa [leBytes_length])
      · exact goOn_accessEnded (by simp [only]) (fun k => by rw [core]) fun l j => by rw [core]

end Sys2Proof.Proofs
end

section
/-!
PROOFS. Wait tokens, and what a hint may open (R40, R96, R97, R211, R231).
-/

namespace Sys2Proof.Proofs
open Sys2Proof Sys2Proof.Machine

/-! ### Batches of a token (R40, R96, R211) -/

/-- A closed batch that has not ended keeps itself, and those behind it, outstanding. -/
theorem dropEnded_outstanding {l : List Batch} (e : List (FaultInfo × Nat)) (h : ∀ b, l.head? = some b → b.left ≠ 0) : dropEnded l e = (l, e) := by
  cases l with
  | nil => rfl
  | cons b r => exact if_neg (h b rfl)

theorem settle_outstanding {t : Token} (h : ∀ b, t.closed.head? = some b → b.left ≠ 0) : t.settle = t := by
  unfold Token.settle
  rw [dropEnded_outstanding _ h]

@[simp] theorem closeOpen_openB (t : Token) : t.closeOpen.openB = none := by
  unfold Token.closeOpen
  split
  · assumption
  · rfl

theorem closeOpen_count {t : Token} {b : Batch} (open_ : t.openB = some b) (alone : t.closed = []) :
    t.closeOpen.count = if b.left = 0 then 0 else 1 := by
  obtain ⟨_, _, errs⟩ := t
  subst open_ alone
  by_cases empty : b.left = 0
  · simp [Token.closeOpen, Token.addClosed, Token.settle, dropEnded, Token.count, Token.openCount, empty]
  · simp [Token.closeOpen, Token.addClosed, Token.settle, dropEnded, Token.count, Token.openCount, empty]

/-- A batch once one of its operations is performed; another one as it was. -/
def performed (id : Nat) (err : Option FaultInfo) (b : Batch) : Batch :=
  if b.id = id then { b with left := b.left - 1, err := if b.err.isSome then b.err else err } else b

theorem perform_eq (t : Token) (id : Nat) (err : Option FaultInfo) :
    t.perform id err = Token.settle { t with openB := t.openB.map (performed id err), closed := t.closed.map (performed id err) } := rfl

theorem performed_self (id n : Nat) (e err : Option FaultInfo) :
    performed id err { id := id, left := n + 1, err := e } = { id := id, left := n, err := if e.isSome then e else err } := if_pos rfl

theorem map_performed_other {id : Nat} {err : Option FaultInfo} {l : List Batch} (h : ∀ b ∈ l, b.id ≠ id) : l.map (performed id err) = l := by
  exact (List.map_congr_left (g := fun b => b) fun b hb => if_neg (h b hb)).trans (List.map_id' l)

/-- An operation of the open batch is performed. -/
theorem perform_open {t : Token} {id n : Nat} {e err : Option FaultInfo} (out : ∀ b ∈ t.closed, b.left ≠ 0)
    (open_ : t.openB = some { id := id, left := n + 1, err := e }) (others : ∀ b ∈ t.closed, b.id ≠ id) :
    t.perform id err = { t with openB := some { id := id, left := n, err := if e.isSome then e else err } } := by
  rw [perform_eq, open_, map_performed_other others, Option.map_some, performed_self]
  exact settle_outstanding fun b hb => out b (List.mem_of_head? hb)

section
variable {t : Token} {id n : Nat} {e err : Option FaultInfo} {l r : List Batch} (out : ∀ b ∈ t.closed, b.left ≠ 0)
  (closed : t.closed = l ++ { id := id, left := n + 1, err := e } :: r) (others : ∀ b ∈ l ++ r, b.id ≠ id)
  (open_ : ∀ b, t.openB = some b → b.id ≠ id)
include closed others open_

/-- An operation of a closed batch is performed: the batch is one operation less, and what has ended leaves. -/
theorem perform_closed : t.perform id err =
    Token.settle { t with closed := l ++ { id := id, left := n, err := if e.isSome then e else err } :: r } := by
  have same : t.openB.map (performed id err) = t.openB := by
    cases h : t.openB with
    | none => rfl
    | some b => exact congrArg some (if_neg (open_ b h))
  rw [perform_eq, same, closed, List.map_append, List.map_cons, performed_self, map_performed_other fun b hb => others b (by simp [hb]),
    map_performed_other fun b hb => others b (by simp [hb])]

include out

/-- The oldest batch, emptied, leaves; nothing behind it had ended. -/
theorem perform_closed_last (last : n = 0) (oldest : l = []) : (t.perform id err).closed = r ∧ (t.perform id err).openB = t.openB := by
  rw [perform_closed closed others open_]
  subst last oldest
  rw [List.nil_append] at closed
  have behind : ∀ b, r.head? = some b → b.left ≠ 0 := fun b hb => out b (closed ▸ List.mem_cons_of_mem _ (List.mem_of_head? hb))
  simp [Token.settle, dropEnded, dropEnded_outstanding _ behind]

/-- A batch that is not empty, or not the oldest, stays. -/
theorem perform_closed_stays (more : n ≠ 0 ∨ l ≠ []) :
    t.perform id err = { t with closed := l ++ { id := id, left := n, err := if e.isSome then e else err } :: r } := by
  rw [perform_closed closed others open_]
  refine settle_outstanding fun b hb => ?_
  cases l with
  | nil =>
    obtain rfl := Option.some.inj hb
    exact more.resolve_right fun h => h rfl
  | cons x l =>
    obtain rfl := Option.some.inj hb
    exact out x (by simp [closed])

end

/-- A token with one closed batch of one operation, once that is performed: no batch counts, and its error is held. -/
theorem perform_only (id : Nat) (err : Option FaultInfo) :
    Token.perform { openB := none, closed := [{ id := id, left := 1, err := none }], errs := [] } id err =
      { openB := none, closed := [], errs := err.toList.map fun f => (f, 0) } := by
  simp [perform_eq, performed, Token.settle, dropEnded]

/-! ### The words (R97, R230) -/

theorem cbat_closes {w : Wm} {s : State} (legal : s.legal { shM0 w .req 1 0 .none .none .none .none with streams := [.a, .m] })
    (may : (s.strm.token w.tk.toNat).mayClose = true) :
    exec (.cbat w) s = .next ((s.upd fun x => x.setToken w.tk.toNat (x.token w.tk.toNat).closeOpen).retire 1) := by
  obtain ⟨static, await⟩ := legal
  show outcome s (s.cbat w) = _
  unfold State.cbat
  simp only [static, show s.await w.toHd = .ok () from await, may, res_ok_bind]
  rfl

theorem cbat_waits {w : Wm} {s : State} (legal : s.legal { shM0 w .req 1 0 .none .none .none .none with streams := [.a, .m] })
    (may : (s.strm.token w.tk.toNat).mayClose = false) : exec (.cbat w) s = .next s := by
  obtain ⟨static, await⟩ := legal
  show outcome s (s.cbat w) = _
  unfold State.cbat
  simp only [static, show s.await w.toHd = .ok () from await, may, res_ok_bind]
  rfl

section
variable {w : Wm} {s : State} (legal : s.legal { shM0 w .req 1 8 .none .none .none .none with streams := [.a, .m] })
include legal

theorem waitn_waits (more : w.disp.toNat < (s.strm.token w.tk.toNat).count) : exec (.waitn w) s = .next s := by
  obtain ⟨static, await⟩ := legal
  show outcome s (s.waitn w) = _
  unfold State.waitn
  simp only [static, show s.await w.toHd = .ok () from await, decide_eq_false (Nat.not_le.2 more), res_ok_bind]
  rfl

theorem waitn_ends (count : (s.strm.token w.tk.toNat).count ≤ w.disp.toNat) (clean : (s.strm.token w.tk.toNat).raised w.disp.toNat = none) :
    exec (.waitn w) s = .next (s.retire 1) := by
  obtain ⟨static, await⟩ := legal
  show outcome s (s.waitn w) = _
  unfold State.waitn
  simp only [static, show s.await w.toHd = .ok () from await, decide_eq_true count, clean, res_ok_bind]
  rfl

theorem waitn_raises {f : FaultInfo} (count : (s.strm.token w.tk.toNat).count ≤ w.disp.toNat)
    (held : (s.strm.token w.tk.toNat).raised w.disp.toNat = some f) (real : f.code ≠ .noBacking) :
    Faults (.waitn w) s { f with eva := true, tok := some (w.tk.toNat, w.disp.toNat) } := by
  obtain ⟨static, await⟩ := legal
  show outcome s (s.waitn w) = _
  unfold State.waitn
  simp only [static, show s.await w.toHd = .ok () from await, decide_eq_true count, held, res_ok_bind]
  exact takeFault_next (f := { f with eva := true, tok := _ }) real s

end

/-! ### What a hint opens (R231, R323, R351) -/

/-- Every bank is as it was. -/
def sameBanks (s t : State) : Prop := t.banks = s.banks

theorem sameBanks_trans {s t u : State} (h : sameBanks s t) (g : sameBanks t u) : sameBanks s u := Eq.trans g h

theorem sameBanks_writeMem (s : State) (key : Nat) (bs : List Byte) : sameBanks s (s.writeMem key bs) := by
  obtain ⟨-, e⟩ | ⟨-, p, ds, e⟩ := writeMem_cases s key bs <;> rw [e] <;> rfl

theorem sameBanks_postRecord (s : State) (node : Nat) (r : FRec) : sameBanks s (s.postRecord node r) := by
  have signalled : ∀ (t : State) (v : Nat), sameBanks t (t.msix v) := fun t v => rfl
  refine ite_both (P := sameBanks s) rfl ?_
  unfold State.writeRecord
  extract_lets fq rseq s1 base size head tail v vec s2
  have h1 : sameBanks s s1 := rfl
  have h2 : sameBanks s1 s2 :=
    ite_both (P := sameBanks s1) (sameBanks_writeMem ..) (sameBanks_trans (sameBanks_writeMem ..) (sameBanks_writeMem ..))
  clear_value s1 s2
  exact ite_both (P := sameBanks s) h1 (sameBanks_trans (sameBanks_trans h1 h2) (signalled s2 vec))

/-- No bank's count of alerts has fallen; and one has risen, unless memory, poison and the host are as they were. -/
structure AlertsOrQuiet (s t : State) : Prop where
  mono : ∀ b, (Sparse.get s.banks b).alerts ≤ (Sparse.get t.banks b).alerts
  quiet : s.alerted t ∨ t.mem = s.mem ∧ t.poison = s.poison ∧ t.host = s.host

theorem AlertsOrQuiet.trans {s t u : State} (h : AlertsOrQuiet s t) (g : AlertsOrQuiet t u) : AlertsOrQuiet s u where
  mono b := (h.mono b).trans (g.mono b)
  quiet := by
    obtain ⟨b, alert⟩ | ⟨mem, poison, host⟩ := h.quiet
    · exact .inl ⟨b, alert.trans_le (g.mono b)⟩
    · obtain ⟨b, alert⟩ | ⟨mem', poison', host'⟩ := g.quiet
      · exact .inl ⟨b, (h.mono b).trans_lt alert⟩
      · exact .inr ⟨mem'.trans mem, poison'.trans poison, host'.trans host⟩

/-- A step that leaves the banks and data as they were. -/
theorem alertsOrQuiet_same {s t : State} (banks : t.banks = s.banks) (mem : t.mem = s.mem) (poison : t.poison = s.poison) (host : t.host = s.host) :
    AlertsOrQuiet s t := ⟨fun _ => by rw [banks], .inr ⟨mem, poison, host⟩⟩

/-- A bank's row is opened and counted. -/
theorem alertsOrQuiet_setBank {s : State} {b : Nat} {k : Bank} (alerts : k.alerts = (Sparse.get s.banks b).alerts) :
    AlertsOrQuiet s { s with banks := Sparse.set s.banks b k } where
  mono c := by
    show _ ≤ (Sparse.get (Sparse.set s.banks b k) c).alerts
    rw [sparse_get_set]
    split
    · rename_i same; rw [alerts, same]
    · exact le_rfl
  quiet := .inr ⟨rfl, rfl, rfl⟩

theorem alertsOrQuiet_rowAlert (s : State) (key r : Nat) : AlertsOrQuiet s (s.rowAlert key r) := by
  have banks : ∃ k, k.alerts = (Sparse.get s.banks (bankOf key)).alerts + 1 ∧ (s.rowAlert key r).banks = Sparse.set s.banks (bankOf key) k := by
    unfold State.rowAlert
    extract_lets b d w k fresh wa noticed notice k1 s1
    refine ⟨k1, rfl, ?_⟩
    exact ite_both (P := sameBanks s1) (ite_both (P := sameBanks s1) rfl (sameBanks_postRecord ..)) rfl
  obtain ⟨k, alerts, banks⟩ := banks
  have at_ : (Sparse.get s.banks (bankOf key)).alerts < (Sparse.get (s.rowAlert key r).banks (bankOf key)).alerts := by
    rw [banks, sparse_get_set_same, alerts]
    exact Nat.lt_succ_self _
  refine ⟨fun c => ?_, .inl ⟨_, at_⟩⟩
  by_cases same : c = bankOf key
  · exact same ▸ at_.le
  · rw [banks, sparse_get_set_other _ _ same]

theorem alertsOrQuiet_touchRow (s : State) (key : Nat) : AlertsOrQuiet s (s.touchRow key) := by
  unfold State.touchRow
  extract_lets b r k n s1
  have same : AlertsOrQuiet s s := alertsOrQuiet_same rfl rfl rfl rfl
  have opened : AlertsOrQuiet s s1 := alertsOrQuiet_setBank rfl
  clear_value s1
  refine ite_both (P := AlertsOrQuiet s) (ite_both (P := AlertsOrQuiet s) (alertsOrQuiet_same rfl rfl rfl rfl) same) ?_
  exact ite_both (P := AlertsOrQuiet s) same (ite_both (P := AlertsOrQuiet s) same
    (ite_both (P := AlertsOrQuiet s) (opened.trans (alertsOrQuiet_rowAlert ..)) opened))

theorem alertsOrQuiet_touchRows (s : State) (l : List Nat) : AlertsOrQuiet s (s.touchRows l) := by
  induction l generalizing s with
  | nil => exact alertsOrQuiet_same rfl rfl rfl rfl
  | cons k r ih => exact (alertsOrQuiet_touchRow s k).trans (ih _)

/-- What a hint may change: cluster TLBs, the core's counters, and what a walk's reads open. -/
structure Hinted (s t : State) : Prop where
  core : ∃ p, t.core = { s.core with pmc := p }
  parked : t.parked = s.parked
  launches : t.launches = s.launches
  alerts : AlertsOrQuiet s t

theorem Hinted.trans {s t u : State} (h : Hinted s t) (g : Hinted t u) : Hinted s u := by
  obtain ⟨_, hc⟩ := h.core
  obtain ⟨p, gc⟩ := g.core
  exact ⟨⟨p, by rw [gc, hc]⟩, g.parked.trans h.parked, g.launches.trans h.launches, h.alerts.trans g.alerts⟩

theorem hinted_refl (s : State) : Hinted s s := ⟨⟨_, rfl⟩, rfl, rfl, alertsOrQuiet_same rfl rfl rfl rfl⟩

theorem hinted_prefPage (s : State) (va : Nat) : Hinted s (s.prefPage va) := by
  unfold State.prefPage
  refine ite_both (P := Hinted s) (hinted_refl s) ?_
  extract_lets cl
  split
  · exact hinted_refl s
  · extract_lets ent
    refine ite_both (P := Hinted s) (hinted_refl s) ?_
    obtain ⟨_, _, _, _, _, _, _, _, frame⟩ := served_touchRows s (s.walkKeys s.ptb va)
    have walked : Hinted s (s.touchRows (s.walkKeys s.ptb va)) :=
      ⟨⟨s.core.pmc, by rw [frame]⟩, by rw [frame], by rw [frame], alertsOrQuiet_touchRows ..⟩
    exact walked.trans ⟨⟨_, rfl⟩, rfl, rfl, alertsOrQuiet_same rfl rfl rfl rfl⟩

theorem hinted_prefPages (s : State) (va n : Nat) : Hinted s (s.prefPages va n) := by
  induction n generalizing s va with
  | zero => exact hinted_refl s
  | succ n ih => exact (hinted_prefPage s va).trans (ih _ _)

end Sys2Proof.Proofs
end

section
/-!
PROOFS. Batches, hints, mailboxes and the completion queue (R104, R230 to R233).
-/

namespace Sys2Proof.Proofs
open Sys2Proof Sys2Proof.Machine

/-! ### Tokens under view -/

/-- A word that sets its stream's token changes no scalar and no data. -/
theorem setToken_keeps (s : State) (n : Nat) (x : Token) : let v := s.upd fun y => y.setToken n x
    s.sameData v ∧ s.sameScalars v ∧ v.strm.token n = x ∧ ∀ k, k ≠ n → v.strm.token k = s.strm.token k := by
  intro v
  have strm : v.strm = s.strm.setToken n x := State.strm_upd ..
  refine ⟨?_, fun k => ?_, ?_, fun k other => ?_⟩
  · cases h : s.cur <;> simp [v, State.sameData, State.upd, State.setStrm, Core.setStrm, h]
  · cases h : s.cur <;> cases k <;> simp [v, State.upd, State.setStrm, State.strm, Core.setStrm, Core.strm, StrmSt.setToken, h]
  · rw [strm, StrmSt.token_setToken, if_pos rfl]
  · rw [strm, StrmSt.token_setToken, if_neg other]

/-! ### The end of an operation that a wait waits for (R97, R211) -/

/-- The token of a batch of one operation, and the token once it has ended. -/
def oneBatch (id : Nat) : Token := { openB := none, closed := [{ id := id, left := 1, err := none }], errs := [] }

def ended (err : Option FaultInfo) : Token := { openB := none, closed := [], errs := err.toList.map fun f => (f, 0) }

theorem ended_raised_none (n : Nat) : (ended none).raised n = none := rfl
theorem ended_raised_some (f : FaultInfo) : (ended (some f)).raised 0 = some f := rfl

/-- The stream of an operation that ends has its token changed; the others stay. -/
theorem endOp_strm {s : State} {r : TokRef} {e : Option FaultInfo} (h : s.core.holds r.lrec r.job = true) (k : Strm) :
    (s.endOp (some r) e).core.strm k = if k = r.strm then (s.core.strm k).setToken r.tok (((s.core.strm k).token r.tok).perform r.batch e)
      else s.core.strm k := by
  rw [endOp_holds h, State.updC_core]
  split
  · rename_i same
    rw [same, Core.strm_setStrm]
  · rename_i other
    exact Core.strm_setStrm_other _ _ other

theorem endOp_token {s : State} {r : TokRef} {e : Option FaultInfo} (h : s.core.holds r.lrec r.job = true) (cur : r.strm = s.cur)
    (only : s.strm.token r.tok = oneBatch r.batch) : (s.endOp (some r) e).strm.token r.tok = ended e := by
  obtain ⟨_, _, _, _, _, frame⟩ := endOp_frame s (some r) e
  have here : (s.endOp (some r) e).cur = r.strm := by rw [frame, cur]
  unfold State.strm
  rw [here, leaves_endOp s (some r) e r rfl h, cur]
  exact (congrArg (Token.perform · r.batch e) only).trans (perform_only r.batch e)

/-! ### A hint (R231) -/

theorem pref_hints {w : Wm} {s t : State} {a b c : Word} (ht : s.takes (shM0 w .none 1 24 .none .sSrc .sSrc .none) a b c t) :
    ∃ va n, exec (.pref w) s = .next ((t.prefPages va n).retire 1) := by
  obtain ⟨⟨static, await⟩, sources⟩ := ht
  show ∃ va n, outcome s (s.pref w) = _
  unfold State.pref
  simp only [static, sources, show s.await w.toHd = .ok () from await, res_ok_bind]
  exact ⟨_, _, rfl⟩

/-! ### A mailbox (R104, R232) -/

theorem descKey_ok {s : State} {ea key : Nat} (valid : addrOk ea 64 64) (translates : s.xlate ea .rd = .ok key) : s.descKey ea = .ok key := by
  have aligned : trapIf (ea % 64 != 0) { code := .alignment, addr := ea } = .ok () := trapIf_ok.2 (by simp [valid.2.2])
  unfold State.descKey addrCheck
  rw [rangeCheck_ok valid.1 valid.2.1, res_ok_bind, aligned, res_ok_bind]
  exact translates

/-- A descriptor that has been read is there. -/
theorem descriptor_read {s : State} {w : Wm} {a : Word} {bs : List Byte} (h : s.descAt w a bs) (await : s.await w.toHd = .ok ()) :
    (∃ key, s.descKey (effAddr w a) = .ok key) ∧ s.descriptor w a = .ok (.inr bs) := by
  obtain ⟨key, id, valid, translates, read⟩ := h
  have key_ok : s.descKey (effAddr w a) = .ok key := descKey_ok valid translates
  refine ⟨⟨key, key_ok⟩, ?_⟩
  unfold State.descriptor
  dsimp only
  rw [key_ok, res_ok_bind, await, res_ok_bind, read]

/-- The element that a word's record makes. -/
def enqRecord (s : State) (bs : List Byte) (tok : Option TokRef) : MboxCmd :=
  { lrec := s.core.lrec, job := s.core.job.toNat, node := s.core.node, ptb := s.ptb, record := bs, tok := tok, until_ := none }

/-- A die's mailbox with new contents. -/
def pushed (s : State) (did n : Nat) (l : List MboxCmd) : State := s.updDie did fun d => { d with mbox := Sparse.set d.mbox n l }

theorem pushed_mbox {s : State} {did n : Nat} (l : List MboxCmd) (h : did < s.dies.length) : Sparse.get ((pushed s did n l).die did).mbox n = l := by
  simp [pushed, State.updDie, State.die, h, sparse_get_set_same]

section
variable {w : Wm} {s t : State} {a b c : Word} {bs : List Byte} (ht : s.takes (shM w .opt true 3 24 .sDst .sSrc .sSrc .none) a b c t)
  (desc : s.descAt w a bs) (queue : b.toNat ≤ 3)
include ht desc queue

/-- ENQ with its operands and its descriptor read. -/
theorem enq_goes : exec (.enq w) s = outcome s (
    let box := Sparse.get (s.die s.core.did).mbox b.toNat
    if 16 ≤ box.length then do
      waitUnless (w.sz.getLsbD 0)
      let s2 ← t.writeS w.d 1 1
      .ok (s2.retire 1)
    else do
      let (tok, s2) ← t.joinW w
      let s3 ← s2.writeS w.d 0 1
      let m : MboxCmd := { lrec := s.core.lrec, job := s.core.job.toNat, node := s.core.node, ptb := s.ptb, record := bs, tok := tok, until_ := none }
      .ok ((s3.updDie s.core.did fun d => { d with mbox := Sparse.set d.mbox b.toNat (box ++ [m]) }).retire 1)) := by
  obtain ⟨⟨static, await⟩, sources⟩ := ht
  obtain ⟨⟨key, key_ok⟩, read⟩ := descriptor_read desc await
  have named : trapIf (decide (b.toNat > 3)) (flt .illegalOperand) = .ok () := trapIf_ok.2 (by simpa using queue)
  show outcome s (s.enq w) = _
  unfold State.enq
  simp only [static, sources, key_ok, named, read, withDesc, res_ok_bind]

theorem enq_full {y : State} (full : 16 ≤ (Sparse.get (s.die s.core.did).mbox b.toNat).length) (nb : w.sz.getLsbD 0 = true)
    (gives : t.gives w.d 1 1 y) : exec (.enq w) s = .next (y.retire 1) := by
  rw [enq_goes ht desc queue]
  simp only [if_pos full, nb, show t.writeS w.d 1 1 = .ok y from gives, waitUnless, if_true, res_ok_bind, outcome_ok]

theorem enq_waits (full : 16 ≤ (Sparse.get (s.die s.core.did).mbox b.toNat).length) (blocks : w.sz.getLsbD 0 = false) :
    exec (.enq w) s = .next s := by
  rw [enq_goes ht desc queue]
  simp only [if_pos full, blocks, waitUnless, Bool.false_eq_true, if_false, res_error_bind, outcome_wait]

/-- With room the record is pushed: the word joins its batch and D is written 0. -/
theorem enq_pushes {tok : Option TokRef} {u v : State} (room : (Sparse.get (s.die s.core.did).mbox b.toNat).length < 16)
    (join : t.joinW w = .ok (tok, u)) (write : u.writeS w.d 0 1 = .ok v) :
    exec (.enq w) s = .next ((pushed v s.core.did b.toNat (Sparse.get (s.die s.core.did).mbox b.toNat ++ [enqRecord s bs tok])).retire 1) := by
  rw [enq_goes ht desc queue]
  simp only [if_neg (Nat.not_le.2 room), join, write, res_ok_bind, outcome_ok]
  rfl

end

/-- A queue number there is none of is refused before the word waits (R174, R232). -/
theorem enq_faults {w : Wm} {s t : State} {a b c : Word} {key : Nat} (static : s.static (shM w .opt true 3 24 .sDst .sSrc .sSrc .none) = .ok ())
    (sources : s.sources (shM w .opt true 3 24 .sDst .sSrc .sSrc .none) = .ok ((a, b, c), t)) (read : s.descKey (effAddr w a) = .ok key)
    (none_ : 3 < b.toNat) : Faults (.enq w) s (flt .illegalOperand) := by
  show outcome s (s.enq w) = _
  unfold State.enq
  simp only [static, sources, read, decide_eq_true none_, trapIf, if_true, res_ok_bind, res_error_bind, outcome_trap]
  exact takeFault_next (by decide) s

/-- A result of a word changes D alone (R37, R38). -/
theorem writeS_data {s t : State} {f : OpField} {v : Word} {cost : Nat} (h : s.writeS f v cost = .ok t) :
    s.sameData t ∧ t.dies = s.dies := by
  obtain ⟨-, -, rfl⟩ | ⟨-, -, -, rfl⟩ | ⟨-, -, rfl⟩ := writeS_cases h
  · simp [State.sameData]
  · cases k : s.cur <;> simp [State.sameData, State.upd, State.setStrm, Core.setStrm, k]
  · simp [State.sameData, State.updC, Core.setQueue]

theorem writeS_sameScalarsBut {s t : State} {f : OpField} {v : Word} {cost : Nat} (h : s.writeS f v cost = .ok t) : s.sameScalarsBut t f := by
  have here : t.cur = s.cur := by obtain ⟨-, -, rfl⟩ | ⟨-, -, -, rfl⟩ | ⟨-, -, rfl⟩ := writeS_cases h <;> rfl
  intro k n other
  by_cases cur : k = s.cur
  · subst cur
    have same := writeS_sreg h (other.resolve_left fun e => e rfl)
    rwa [State.strm, here] at same
  · obtain ⟨-, -, rfl⟩ | ⟨-, -, -, rfl⟩ | ⟨-, -, rfl⟩ := writeS_cases h
    · rfl
    · exact congrArg (StrmSt.sreg · n) (Core.strm_setStrm_other _ _ cur)
    · cases k <;> rfl

theorem writeS_gave {s t : State} {f : OpField} {v : Word} {cost : Nat} (h : s.writeS f v cost = .ok t) : s.gave t f v := by
  intro scalar named
  obtain ⟨-, -, -, cur, -, value, -⟩ := writeS_scalar scalar named h
  have read := value (scalIx f)
  rwa [if_pos rfl, State.strm, cur] at read

/-- A word that is being issued has written no scalar and no data. -/
theorem AtIssue.keeps {s v : State} (h : AtIssue s v) : s.sameData v ∧ s.sameScalars v ∧ v.cur = s.cur ∧ v.dies = s.dies := by
  obtain ⟨_, _, _, _, _, _, _, _, _, rfl⟩ := h
  exact ⟨⟨rfl, rfl, rfl, rfl, rfl, rfl, rfl, rfl, rfl, rfl⟩, fun k => by cases k <;> rfl, rfl, rfl⟩

/-- Whether D takes a result is not changed by a token joined (R37, R96). -/
theorem open_joinIf {s : State} {f : OpField} (h : s.open_ f) (tke : Bool) (n : Nat) (opn : Bool) : (s.joinIf tke n opn).2.open_ f := by
  rw [open_iff] at h ⊢
  cases tke with
  | false => exact h
  | true =>
    have busy : (s.joinIf true n opn).2.strm.busy = s.strm.busy := (congrArg StrmSt.busy (State.strm_upd s.fresh.2 _) :)
    have queue : ∀ q, (s.joinIf true n opn).2.core.queue q = s.core.queue q := fun q => congrArg (Sparse.get · q) (Core.setStrm_queues ..)
    rwa [busy, queue]

theorem sameData_trans {s t u : State} (h : s.sameData t) (g : t.sameData u) : s.sameData u := by
  obtain ⟨h1, h2, h3, h4, h5, h6, h7, h8, h9, h10⟩ := h
  obtain ⟨g1, g2, g3, g4, g5, g6, g7, g8, g9, g10⟩ := g
  exact ⟨g1.trans h1, g2.trans h2, g3.trans h3, g4.trans h4, g5.trans h5, g6.trans h6, g7.trans h7, g8.trans h8, g9.trans h9, g10.trans h10⟩

/-! ### The completion queue (R104, R233) -/

section
variable {w : Wm} {s y : State} (legal : s.legal (shM0 w .none 3 0 .sDst .none .none .none))
include legal

theorem deq_pops {e : Word} {r : List Word} (oldest : s.core.cq = e :: r) (gives : s.gives w.d e 1 y) :
    exec (.deq w) s = .next ((y.updC fun k => { k with cq := r }).retire 1) := by
  obtain ⟨static, await⟩ := legal
  show outcome s (s.deq w) = _
  unfold State.deq
  simp only [static, show s.await w.toHd = .ok () from await, oldest, show s.writeS w.d e 1 = .ok y from gives, res_ok_bind, outcome_ok]

theorem deq_empty (empty : s.core.cq = []) (nb : w.sz.getLsbD 0 = true) (gives : s.gives w.d (BitVec.allOnes 64) 1 y) :
    exec (.deq w) s = .next (y.retire 1) := by
  obtain ⟨static, await⟩ := legal
  show outcome s (s.deq w) = _
  unfold State.deq
  simp only [static, show s.await w.toHd = .ok () from await, empty, nb, show s.writeS w.d (BitVec.allOnes 64) 1 = .ok y from gives, waitUnless,
    if_true, res_ok_bind, outcome_ok]

theorem deq_waits (empty : s.core.cq = []) (blocks : w.sz.getLsbD 0 = false) : exec (.deq w) s = .next s := by
  obtain ⟨static, await⟩ := legal
  show outcome s (s.deq w) = _
  unfold State.deq
  simp only [static, show s.await w.toHd = .ok () from await, empty, blocks, waitUnless, Bool.false_eq_true, if_false, res_ok_bind,
    res_error_bind, outcome_wait]

end

/-! ### The obligation -/

/-- A hint leaves scalars, accesses and the core's translations as they were, and data unless it raises an alert. -/
theorem pref_retires {w : Wm} {s t : State} {a b c : Word} (ht : s.takes (shM0 w .none 1 24 .none .sSrc .sSrc .none) a b c t) :
    Retires (.pref w) s 1 fun v => (s.alerted v ∨ s.sameData v) ∧ s.sameScalars v ∧ v.core.ops = s.core.ops ∧ v.core.tlb = s.core.tlb := by
  obtain ⟨va, n, run⟩ := pref_hints ht
  refine ⟨_, run, ?_⟩
  obtain ⟨q, rfl⟩ := sources_frame ht.2
  obtain ⟨⟨p, core⟩, parked, launches, -, quiet⟩ := hinted_prefPages { s with core := { s.core with queues := q } } va n
  refine ⟨?_, fun k => by rw [core]; cases k <;> rfl, by rw [core], by rw [core]⟩
  obtain alert | ⟨mem, poison, host⟩ := quiet
  · exact .inl alert
  · exact .inr ⟨mem, poison, by rw [core], by rw [core], by rw [core], by rw [core], by rw [core], parked, launches, host⟩

/-- A record is pushed where there is room: in a batch of its word's token, D giving 0. -/
theorem enq_retires {w : Wm} {s t : State} {a b c : Word} {bs : List Byte} (ht : s.takes (shM w .opt true 3 24 .sDst .sSrc .sSrc .none) a b c t)
    (desc : s.descAt w a bs) (queue : b.toNat ≤ 3) (die : s.core.did < s.dies.length)
    (room : (Sparse.get (s.die s.core.did).mbox b.toNat).length < 16) (batch : s.batchRoom w) (takes : t.open_ w.d) :
    Retires (.enq w) s 1 fun v => s.sameData v ∧ s.sameScalarsBut v w.d ∧ s.gave v w.d 0 ∧ ∃ tok, s.joinsBatch w tok ∧
      Sparse.get (v.die s.core.did).mbox b.toNat = Sparse.get (s.die s.core.did).mbox b.toNat ++ [enqRecord s bs tok] := by
  obtain ⟨q, frame⟩ := sources_frame ht.2
  have strm : t.strm = s.strm := by rw [frame]; show Core.strm _ s.cur = Core.strm _ s.cur; cases s.cur <;> rfl
  have cur : t.cur = s.cur := by rw [frame]
  have join := joinW_room (s := t) (w := w) (by unfold State.batchRoom; rwa [strm])
  have joins := joinIf_joinsBatch t w
  have issued : AtIssue s (t.joinIf w.tke w.tk.toNat w.opn).2 := by
    refine AtIssue.trans ?_ (atIssue_joinIf ..)
    rw [frame]
    exact atIssue_operands s s.core.ports q s.ids
  obtain ⟨v, write⟩ := open_joinIf takes w.tke w.tk.toNat w.opn
  generalize t.joinIf w.tke w.tk.toNat w.opn = j at *
  obtain ⟨tok, u⟩ := j
  obtain ⟨data, scalars, here, dies⟩ := issued.keeps
  obtain ⟨data', dies'⟩ := writeS_data write
  refine ⟨_, enq_pushes ht desc queue room join write, sameData_trans data data', fun k n other => ?_, fun scalar named => ?_, tok, ?_, ?_⟩
  · exact (writeS_sameScalarsBut write k n (here ▸ other)).trans (by unfold StrmSt.sreg; rw [scalars k])
  · show (v.core.strm s.cur).sreg _ = 0
    rw [← here]
    exact writeS_gave write scalar named
  · unfold State.joinsBatch at *
    rwa [cur] at joins
  · exact pushed_mbox _ (by rw [dies', dies]; exact die)

/-- Settles O34: a token's batches leave from the oldest, so that the end of the only one a wait waits for lets it complete or raises its
error; a hint's walks open rows, which may raise alerts; mailbox and completion queue are read at issue. -/
theorem batchesHintsMailboxes : Obligations.BatchesHintsMailboxes := by
  unfold Obligations.BatchesHintsMailboxes
  refine ⟨fun w s => ⟨fun legal => ⟨fun may => ?_, fun b open_ full => ?_⟩, fun legal => ⟨?_, ?_, ?_⟩⟩, fun t n id e err out => ⟨?_, ?_⟩,
    fun s r err job => ⟨leaves_endOp s _ err, endOp_mem .., endOp_strm job, fun w tk cur only => ?_⟩, fun w s t y a b c bs => ⟨pref_retires, ?_, ?_⟩⟩
  · have mayClose : (s.strm.token w.tk.toNat).mayClose = true := by simpa [Token.mayClose] using may
    obtain ⟨data, scalars, token, others⟩ := setToken_keeps s w.tk.toNat (s.strm.token w.tk.toNat).closeOpen
    exact ⟨_, cbat_closes legal mayClose, data, scalars, token ▸ closeOpen_openB _, others, fun b open_ alone => token ▸ closeOpen_count open_ alone⟩
  · exact cbat_waits legal (by simp [Token.mayClose, open_, full])
  · exact waitn_ends legal
  · exact waitn_waits legal
  · exact fun f count held real => waitn_raises legal count held real
  · intro open_ others u
    have ended : u = _ := perform_open out open_ others
    refine ⟨by rw [ended], by rw [ended], ?_, ?_⟩
    · simp [Token.count, Token.openCount, open_]
    · simp [ended, Token.count, Token.openCount]
  · intro l r closed others open_ u
    have openB : u.openB = t.openB := by
      show (t.perform id err).openB = _
      rw [perform_closed closed others open_]
      rfl
    have openCount : u.openCount = t.openCount := by unfold Token.openCount; rw [openB]
    refine ⟨openB, fun last oldest => ?_, fun more => ?_⟩
    · have left : u.closed = r := (perform_closed_last out closed others open_ last oldest).1
      refine ⟨left, ?_⟩
      simp only [Token.count, left, openCount, closed, oldest, List.nil_append, List.length_cons]
      omega
    · have stays : u.closed = _ := congrArg Token.closed (perform_closed_stays out closed others open_ more)
      exact ⟨stays, by simp [Token.count, stays, openCount, closed]⟩
  · intro sh
    have token : (s.endOp (some r) err).strm.token r.tok = ended err := endOp_token job cur only
    rw [← tk] at only token ⊢
    refine ⟨fun legal zero => ?_, fun legal clean => ?_, fun f legal error real zero => ?_⟩
    · exact waitn_waits legal (by simp [only, zero, Token.count])
    · subst clean
      exact waitn_ends legal (by simp [token, ended, Token.count, Token.openCount]) (token ▸ ended_raised_none _)
    · subst error
      have held := waitn_raises (f := f) legal (by simp [token, ended, Token.count, Token.openCount]) (by rw [token, zero]; exact ended_raised_some f) real
      rwa [zero] at held
  · intro h box
    refine ⟨fun ht desc queue => ⟨fun die room batch takes => ?_, ?_, ?_⟩, fun key static sources valid translates named => ?_⟩
    · exact enq_retires ht desc queue die room batch takes
    · exact enq_full ht desc queue
    · exact enq_waits ht desc queue
    · exact enq_faults static sources (descKey_ok valid translates) named
  · exact fun legal => ⟨fun e r => deq_pops legal, deq_empty legal, deq_waits legal⟩

end Sys2Proof.Proofs
end

section
/-!
PROOFS. Vector arithmetic, conversions and packing (R62, R243, R246 to R248).
-/

namespace Sys2Proof.Proofs
open Sys2Proof Sys2Proof.Machine

/-! ### A vector word that is ready (R174, R237, R242) -/

/-- A ready word whose own fields pass its checks runs its effect with the unit held, and ends. -/
theorem vwordIf_ready {s t u : State} {h : Shape} {x : VIn} (ready : s.vready h x t) {occ : Nat} {own : Res Unit} (fields : own = .ok ())
    {go : VIn → State → Res State} (done : go x (t.holdV (s.now + occ)) = .ok u) :
    s.vwordIf h occ own noCheck go = .ok (u.retire 1) := by
  obtain ⟨⟨st, aw⟩, vr, unit, sh⟩ := ready
  unfold State.holdV at done
  simp [State.vwordIf, st, aw, vr, sh, unit, noCheck, fields, done]

/-- A meaning that is one vector word writing elements: it completes wherever it is ready and its own fields pass. -/
theorem vectorResult_of {i : Instr} {w : Wt} {h : Shape} {occ lat : Nat} {t : ETy} {own : Res Unit} {ok : VIn → Prop}
    {f : State → VIn → Nat → Nat → Option Rounded} (fields : ∀ x, ok x → own = .ok ())
    (meaning : ∀ s, exec i s = outcome s (s.vwordIf h occ own noCheck fun x s1 => s1.putElems t w.d x.p lat (f s x))) :
    VectorResult i w h occ lat t ok f := by
  intro s x t1 u ready legal done
  have run := vwordIf_ready ready (fields x legal) (go := fun x s1 => s1.putElems t w.d x.p lat (f s x)) done
  rw [meaning, run, outcome_ok]

/-- A word that its own fields make illegal faults before it reads an operand (R174). -/
theorem vwordIf_faults {s : State} {h : Shape} (st : s.static h = .ok ()) {occ : Nat} {chk : VIn → Res Unit} {go : VIn → State → Res State} {f : FaultInfo} :
    s.vwordIf h occ (trapIf true f) chk go = .error (.trap f) := by
  simp [State.vwordIf, st]

/-! ### Arithmetic (R62, R243) -/

/-- The elements an arithmetic word gives. -/
def arithElems (w : Wt) (o : VArith) (s : State) (x : VIn) (m n : Nat) : Option Rounded :=
  some (o.elem (etOf w) (s.modeOf w) w.sat (x.a.elem (etOf w) m n) (x.b.elem (etOf w) m n) (x.c.elem (etOf w) m n))

theorem arith_eq (s : State) (w : Wt) (o : VArith) (h : Shape) : s.arith w o h =
    s.vwordIf h (pairCost h) (.ok ()) noCheck fun x s1 => s1.putElems (etOf w) w.d x.p 4 (arithElems w o s x) := rfl

/-- An arithmetic word gives each element by its function on exact values, of integers or of floats. -/
theorem arith_result {i : Instr} {w : Wt} {o : VArith} {h : Shape} (meaning : ∀ s, exec i s = outcome s (s.arith w o h))
    {f : State → VIn → Nat → Nat → Option Rounded} (elems : ∀ s x m n, f s x m n = arithElems w o s x m n) :
    VectorResult i w h (pairCost h) 4 (etOf w) (fun _ => True) f := by
  obtain rfl : f = arithElems w o := funext fun s => funext fun x => funext fun m => funext fun n => elems s x m n
  exact vectorResult_of (own := .ok ()) (fun _ _ => rfl) fun s => (meaning s).trans (congrArg (outcome s) (arith_eq s w o h))

/-- Settles O35: the ten words are one word over the function of its member. -/
theorem vectorArithmetic : Obligations.VectorArithmetic := by
  unfold Obligations.VectorArithmetic
  intro w t does two exact
  have word {i : Instr} {h : Shape} (o : VArith) (meaning : ∀ s, exec i s = outcome s (s.arith w o h)) {fi : Int → Int → Int → Int}
      (ints : ∀ a b c, fi a b c = o.int a b c) : does i h fi o.float :=
    arith_result meaning fun s x m n => by simp only [ints]; rfl
  clear_value does
  refine ⟨?add, ?sub, ?mul, ?fma, ?fms, ?min, ?max, ?abs, ?neg, ?abd⟩
  case add => exact word .add (fun _ => rfl) fun _ _ _ => rfl
  case sub => exact word .sub (fun _ => rfl) fun _ _ _ => rfl
  case mul => exact word .mul (fun _ => rfl) fun _ _ _ => rfl
  case fma => exact word .fma (fun _ => rfl) fun _ _ _ => rfl
  case fms => exact word .fms (fun _ => rfl) fun _ _ _ => rfl
  case min => exact word .min (fun _ => rfl) fun _ _ _ => rfl
  case max => exact word .max (fun _ => rfl) fun _ _ _ => rfl
  case abs => exact word .abs (fun _ => rfl) fun a _ _ => Int.abs_eq_natAbs a
  case neg => exact word .neg (fun _ => rfl) fun _ _ _ => rfl
  case abd => exact word .abd (fun _ => rfl) fun a b _ => Int.abs_eq_natAbs (a - b)

/-! ### Conversions (R57, R64, R246) -/

/-- A pair of types has the group. -/
theorem cvt_group_ok {w : Wt} (has : cvtG w < cvtGroups (cvtSt w) (etOf w)) :
    trapIf (decide (cvtGroups (cvtSt w) (etOf w) ≤ cvtG w)) (flt .illegalOperand) = .ok () :=
  trapIf_ok.2 (decide_eq_false (Nat.not_le.2 has))

theorem cvt_faults {w : Wt} {s : State} {scaled : Bool} (none : cvtGroups (cvtSt w) (etOf w) ≤ cvtG w) (st : s.static (shCvt w scaled) = .ok ()) :
    outcome s (s.cvt w scaled) = .next (s.raise (flt .illegalOperand)) := by
  unfold State.cvt
  simp only [decide_eq_true none, vwordIf_faults st]
  exact raises_illegal s

/-- The four quotients of a lane of VQI4X: its elements of the four registers by the scale (R248). -/
def laneQuotient (t : ETy) (_ : State) (x : VIn) (i l k : Nat) : XVal :=
  (divExact (decodeFloat t (elemBits t [x.a.images.getD ((4 * l + k) / 64) []] i ((4 * l + k) % 64))) (decodeFloat .fp32 (x.b.elem .fp32 0 0))).1

/-- Settles O38: each word gives its elements by one function of its operands; a group that the types do not have is found before any operand. -/
theorem conversionsAndPacking : Obligations.ConversionsAndPacking := by
  unfold Obligations.ConversionsAndPacking
  intro w t st g inGroups source
  refine ⟨?cvt, ?cvts, fun s none => ⟨cvt_faults none, cvt_faults none⟩, ?pack, ?unpk, laneQuotient t, ?qi4x, fun _ _ _ _ _ => rfl⟩
  case cvt => exact vectorResult_of (fun _ has => cvt_group_ok has) fun _ => rfl
  case cvts => exact vectorResult_of (fun _ has => cvt_group_ok has) fun _ => rfl
  case pack => exact vectorResult_of (own := .ok ()) (fun _ _ => rfl) fun _ => rfl
  case unpk => exact vectorResult_of (own := .ok ()) (fun _ _ => rfl) fun _ => rfl
  case qi4x => exact vectorResult_of (own := .ok ()) (fun _ _ => rfl) fun _ => rfl

end Sys2Proof.Proofs
end

section
/-!
PROOFS. Narrowing of integers and rounding of exact values (R54, R55, R58, R62).
-/

namespace Sys2Proof.Proofs
open Sys2Proof Sys2Proof.Machine

/-! ### Integers reduced to a type (R54, R62) -/

/-- The low `w` bits of an integer, read as a signed number, are its balanced residue. -/
theorem sextNat_wrapInt {w : Nat} (pos : 0 < w) (v : Int) : sextNat w (wrapInt w v) = v.bmod (2 ^ w) := by
  obtain ⟨n, rfl⟩ : ∃ n, w = n + 1 := ⟨w - 1, by omega⟩
  have low : 0 ≤ v % ((2 ^ (n + 1) : Nat) : Int) := Int.emod_nonneg _ (by positivity)
  have high : v % ((2 ^ (n + 1) : Nat) : Int) < (2 ^ (n + 1) : Nat) := Int.emod_lt_of_pos _ (by positivity)
  have half : 2 ^ (n + 1) = 2 * 2 ^ n := Nat.pow_succ'
  unfold sextNat wrapInt Int.bmod
  generalize v % ((2 ^ (n + 1) : Nat) : Int) = r at *
  generalize 2 ^ (n + 1) = m at *
  rw [Nat.mod_eq_of_lt (by omega : r.toNat < m)]
  dsimp only
  split <;> split <;> omega

theorem natCast_wrapInt (w : Nat) (v : Int) : ((wrapInt w v % 2 ^ w : Nat) : Int) = v % (2 ^ w : Nat) := by
  unfold wrapInt
  have low : 0 ≤ v % ((2 ^ w : Nat) : Int) := Int.emod_nonneg _ (by positivity)
  have high : v % ((2 ^ w : Nat) : Int) < (2 ^ w : Nat) := Int.emod_lt_of_pos _ (by positivity)
  rw [Nat.mod_eq_of_lt (by omega)]
  omega

theorem width_pos (t : ETy) : 0 < t.width := by cases t <;> decide

/-- An integer stored at a type and read back: its balanced residue for a signed type, else its residue. -/
theorem decodeInt_wrapInt (t : ETy) (v : Int) :
    decodeInt t (wrapInt t.width v) = if t.isSigned then v.bmod (2 ^ t.width) else v % (2 ^ t.width : Nat) := by
  unfold decodeInt
  split
  · exact sextNat_wrapInt (width_pos t) v
  · exact natCast_wrapInt ..

/-- Inside its type an integer is kept. -/
theorem decodeInt_wrapInt_inside {t : ETy} {v : Int} (low : t.intMin ≤ v) (high : v ≤ t.intMax) : decodeInt t (wrapInt t.width v) = v := by
  obtain ⟨n, hn⟩ : ∃ n, t.width = n + 1 := ⟨t.width - 1, by have := width_pos t; omega⟩
  have half : 2 ^ (n + 1) = 2 * 2 ^ n := Nat.pow_succ'
  rw [decodeInt_wrapInt]
  unfold ETy.intMin at low
  unfold ETy.intMax at high
  rw [hn, Nat.add_sub_cancel] at low high
  rw [hn]
  cases signed : t.isSigned <;> simp only [signed, if_true, Bool.false_eq_true, if_false] at low high ⊢
  · exact Int.emod_eq_of_lt low (by omega)
  · exact Int.bmod_eq_of_le (by omega) (by omega)

/-- Outside it the integer wraps. -/
theorem decodeInt_wrapInt_mod (t : ETy) (v : Int) : decodeInt t (wrapInt t.width v) % 2 ^ t.width = v % 2 ^ t.width := by
  rw [decodeInt_wrapInt]
  split
  · exact_mod_cast Int.bmod_emod ..
  · exact_mod_cast Int.emod_emod_of_dvd v (dvd_refl _)

theorem intMin_le_intMax (t : ETy) : t.intMin ≤ t.intMax := by cases t <;> decide

theorem narrowInt_fits {t : ETy} {v : Int} (low : t.intMin ≤ v) (high : v ≤ t.intMax) (sat : Bool) :
    narrowInt t sat v = { bits := wrapInt t.width v, events := [] } := by
  unfold narrowInt
  rw [decide_eq_false (Int.not_lt.2 low), decide_eq_false (Int.not_lt.2 high), Bool.or_false, Bool.and_false]
  rfl

theorem narrowInt_below {t : ETy} {v : Int} (low : v < t.intMin) :
    narrowInt t true v = { bits := wrapInt t.width t.intMin, events := [26] } := by
  simp [narrowInt, low]

theorem narrowInt_above {t : ETy} {v : Int} (high : t.intMax < v) :
    narrowInt t true v = { bits := wrapInt t.width t.intMax, events := [26] } := by
  have : ¬ v < t.intMin := by have := intMin_le_intMax t; omega
  simp [narrowInt, high, this]

/-! ### Rounding to a multiple of a quantum (R58) -/

/-- A remainder of zero never rounds up. -/
theorem roundsUp_exact (rm : RMode) (neg : Bool) (k : Nat) {d : Nat} (pos : 0 < d) : roundsUp rm neg k 0 d = false := by
  cases rm <;> simp [roundsUp, pos.ne]

/-- `k` is `n / d` rounded as the mode says: the nearest with ties to even or away, or the neighbour on the mode's side (R58). -/
def roundedAs (rm : RMode) (neg : Bool) (n d k : Nat) : Prop :=
  let down := k * d ≤ n ∧ n < (k + 1) * d
  let up := n ≤ k * d ∧ k * d < n + d
  match rm with
  | .rne => (2 * n ≤ (2 * k + 1) * d ∧ 2 * k * d ≤ 2 * n + d) ∧ (2 * n = (2 * k + 1) * d ∨ 2 * k * d = 2 * n + d → k % 2 = 0)
  | .rna => 2 * n < (2 * k + 1) * d ∧ 2 * k * d ≤ 2 * n + d
  | .rtz => down
  | .rdn => if neg then up else down
  | .rup => if neg then down else up

/-- The quotient of a division, or the next integer where the remainder rounds up, is the rounded one. -/
theorem roundedAs_of_division (rm : RMode) (neg : Bool) {n d q r k : Nat} (division : n = q * d + r) (less : r < d)
    (rounded : (if roundsUp rm neg q r d then q + 1 else q) = k) : roundedAs rm neg n d k := by
  have next : (k + 1) * d = k * d + d := Nat.succ_mul ..
  have odd : (2 * k + 1) * d = 2 * (k * d) + d := by ring
  have even : 2 * k * d = 2 * (k * d) := Nat.mul_assoc ..
  have which : (roundsUp rm neg q r d = true ∧ k = q + 1 ∧ k * d = q * d + d) ∨ (roundsUp rm neg q r d = false ∧ k = q ∧ k * d = q * d) := by
    subst rounded
    cases roundsUp rm neg q r d
    · exact .inr ⟨rfl, rfl, rfl⟩
    · exact .inl ⟨rfl, rfl, Nat.succ_mul ..⟩
  clear rounded
  simp only [roundedAs, next, odd, even]
  generalize k * d = kd at *
  generalize q * d = qd at *
  cases rm with
  | rne => simp [roundsUp] at which; omega
  | rna => simp [roundsUp] at which; omega
  | rtz => simp [roundsUp] at which; omega
  | rdn => cases neg <;> simp [roundsUp] at which ⊢ <;> omega
  | rup => cases neg <;> simp [roundsUp] at which ⊢ <;> omega

/-- The scaled magnitude: numerator and denominator of `num / den * 2^(-q)`. -/
def scaledNum (num : Nat) (q : Int) : Nat := if 0 ≤ q then num else num * 2 ^ (-q).toNat
def scaledDen (den : Nat) (q : Int) : Nat := if 0 ≤ q then den * 2 ^ q.toNat else den

theorem scaledDen_pos {den : Nat} (pos : 0 < den) (q : Int) : 0 < scaledDen den q := by
  unfold scaledDen
  split
  · exact Nat.mul_pos pos (Nat.two_pow_pos _)
  · exact pos

theorem roundScaled_eq (rm : RMode) (neg : Bool) (num den : Nat) (q : Int) :
    roundScaled rm neg num den q =
      (if roundsUp rm neg (scaledNum num q / scaledDen den q) (scaledNum num q % scaledDen den q) (scaledDen den q) then
          scaledNum num q / scaledDen den q + 1
        else scaledNum num q / scaledDen den q, scaledNum num q % scaledDen den q == 0) := rfl

/-- An exact multiple of the quantum is kept (R58). -/
theorem roundScaled_exact (rm : RMode) (neg : Bool) {num den k : Nat} {q : Int} (pos : 0 < den)
    (exact : scaledNum num q = k * scaledDen den q) : roundScaled rm neg num den q = (k, true) := by
  have d := scaledDen_pos pos q
  rw [roundScaled_eq, exact, Nat.mul_mod_left, roundsUp_exact _ _ _ d, Nat.mul_div_cancel _ d]
  rfl

/-! ### A float's own value (R55, R58) -/

/-- Numerator and denominator of `m * 2^e`. -/
def dyadicNum (m : Nat) (e : Int) : Nat := if 0 ≤ e then m * 2 ^ e.toNat else m
def dyadicDen (e : Int) : Nat := if 0 ≤ e then 1 else 2 ^ (-e).toNat

theorem toX_fin (neg : Bool) (m : Nat) (e : Int) : (FVal.fin neg m e).toX = .rat neg (dyadicNum m e) (dyadicDen e) := by
  unfold FVal.toX dyadicNum dyadicDen
  dsimp only
  split <;> rfl

theorem dyadicDen_pos (e : Int) : 0 < dyadicDen e := by
  unfold dyadicDen
  split <;> positivity

theorem dyadicNum_eq_zero {m : Nat} {e : Int} : dyadicNum m e = 0 ↔ m = 0 := by
  unfold dyadicNum
  split <;> simp

theorem log2_mul_two_pow {m : Nat} (pos : m ≠ 0) (k : Nat) : (m * 2 ^ k).log2 = m.log2 + k := by
  rw [Nat.log2_eq_iff (by positivity), Nat.add_right_comm, Nat.pow_add, Nat.pow_add]
  exact ⟨Nat.mul_le_mul_right _ (Nat.log2_self_le pos), Nat.mul_lt_mul_of_pos_right Nat.lt_log2_self (Nat.two_pow_pos k)⟩

/-- The difference of the logarithms is that of the quotient, where the quotient reaches its power of two. -/
theorem ratLog2_of_reached {num den : Nat} {l : Int} (log : (num.log2 : Int) - den.log2 = l)
    (reached : if 0 ≤ l then den * 2 ^ l.toNat ≤ num else den ≤ num * 2 ^ (-l).toNat) : ratLog2 num den = l := by
  subst log
  unfold ratLog2
  split at reached <;> rename_i sign <;> simp only [ge_iff_le, sign, if_true, if_false, reached, decide_true]

/-- The binade of `m * 2^e`. -/
theorem ratLog2_dyadic {m : Nat} (pos : m ≠ 0) (e : Int) : ratLog2 (dyadicNum m e) (dyadicDen e) = m.log2 + e := by
  have low := Nat.log2_self_le pos
  unfold dyadicNum dyadicDen
  rcases le_or_gt 0 e with up | down
  · obtain ⟨k, rfl⟩ := Int.eq_ofNat_of_zero_le up
    rw [if_pos up, if_pos up, Int.toNat_natCast]
    refine ratLog2_of_reached (by rw [log2_mul_two_pow pos, show Nat.log2 1 = 0 from rfl]; omega) ?_
    rw [if_pos (by omega), Nat.one_mul, show ((m.log2 : Int) + k).toNat = m.log2 + k by omega, Nat.pow_add]
    exact Nat.mul_le_mul_right _ low
  · obtain ⟨k, rfl⟩ : ∃ k : Nat, e = -k := ⟨(-e).toNat, by omega⟩
    rw [if_neg (by omega), if_neg (by omega), neg_neg, Int.toNat_natCast]
    refine ratLog2_of_reached (by rw [Nat.log2_two_pow]; rfl) ?_
    split
    · rwa [← Nat.pow_add, show k + ((m.log2 : Int) + -k).toNat = m.log2 by omega]
    · rw [show 2 ^ k = 2 ^ m.log2 * 2 ^ (-((m.log2 : Int) + -k)).toNat by rw [← Nat.pow_add]; congr 1; omega]
      exact Nat.mul_le_mul_right _ low

/-- At its own quantum a dyadic value is exact. -/
theorem scaledNum_dyadic (m : Nat) (e : Int) : scaledNum (dyadicNum m e) e = m * scaledDen (dyadicDen e) e := by
  unfold scaledNum scaledDen dyadicNum dyadicDen
  split <;> simp

/-- A magnitude `m * 2^e` is at most the type's largest, or of fewer than twice its significand and at a lower quantum (R55). -/
def belowLargest (t : ETy) (m : Nat) (e : Int) : Prop :=
  m ≤ t.maxFinite.1 ∧ e ≤ t.maxFinite.2 ∨ m ≤ t.maxFinite.1 * 2 ∧ e < t.maxFinite.2

/-- A value at its own quantum and not too large is kept, without an event (R58). -/
theorem roundFloat_kept {t : ETy} {m : Nat} {e : Int} (pos : m ≠ 0) (quantum : max (m.log2 + e - t.fracBits) t.minQuantum = e)
    (small : belowLargest t m e) (rm : RMode) (sat neg : Bool) :
    roundFloat t rm sat (FVal.fin neg m e).toX = { bits := packFloat t neg m e, events := [] } := by
  unfold belowLargest at small
  have fits : (if e ≥ t.maxFinite.2 then decide (m * 2 ^ (e - t.maxFinite.2).toNat > t.maxFinite.1)
      else decide (m > t.maxFinite.1 * 2 ^ (t.maxFinite.2 - e).toNat)) = false := by
    split
    · rw [show (e - t.maxFinite.2).toNat = 0 by omega]
      simp; omega
    · obtain ⟨k, hk⟩ : ∃ k, (t.maxFinite.2 - e).toNat = k + 1 := ⟨(t.maxFinite.2 - e).toNat - 1, by omega⟩
      have two : t.maxFinite.1 * 2 ≤ t.maxFinite.1 * 2 ^ (k + 1) := Nat.mul_le_mul_left _ (Nat.le_self_pow (by omega) 2)
      rw [hk]
      simp; omega
  rw [toX_fin]
  unfold roundFloat
  simp only [dyadicNum_eq_zero, pos, if_false, ratLog2_dyadic pos, quantum, roundScaled_exact rm neg (dyadicDen_pos e) (scaledNum_dyadic m e)]
  rw [fits]
  rfl

theorem roundFloat_zero (t : ETy) (rm : RMode) (sat neg : Bool) (e : Int) :
    roundFloat t rm sat (FVal.fin neg 0 e).toX = { bits := packFloat t neg 0 0, events := [] } := by
  rw [toX_fin]
  unfold roundFloat
  simp only [dyadicNum_eq_zero, if_true]

/-! ### The fields of a float (R55) -/

theorem float_width {t : ETy} (float : t.isFloat = true) : t.width = t.fracBits + t.expBits + 1 := by
  cases t <;> cases float <;> rfl

/-- The sign, exponent and fraction of a pattern, put together again. -/
theorem float_fields {t : ETy} (float : t.isFloat = true) {b : Nat} (fits : b < 2 ^ t.width) :
    (if b.testBit (t.fracBits + t.expBits) then 2 ^ (t.width - 1) else 0) +
      b / 2 ^ t.fracBits % 2 ^ t.expBits * 2 ^ t.fracBits + b % 2 ^ t.fracBits = b := by
  rw [float_width float] at fits ⊢
  generalize t.fracBits = f at *
  generalize t.expBits = e at *
  have top : b / 2 ^ f / 2 ^ e < 2 := by
    rw [Nat.div_div_eq_div_mul, ← Nat.pow_add]
    exact Nat.div_lt_of_lt_mul (by rwa [← Nat.pow_succ])
  have sign : (if b.testBit (f + e) then 2 ^ (f + e) else 0) = b / 2 ^ f / 2 ^ e * (2 ^ e * 2 ^ f) := by
    rw [Nat.testBit_eq_decide_div_mod_eq, Nat.div_div_eq_div_mul, ← Nat.pow_add, ← Nat.pow_add, Nat.add_comm e f]
    rw [Nat.div_div_eq_div_mul, ← Nat.pow_add] at top
    generalize b / 2 ^ (f + e) = sign at *
    obtain rfl | rfl : sign = 0 ∨ sign = 1 := by omega
    · simp
    · simp
  rw [Nat.add_sub_cancel, sign]
  calc b / 2 ^ f / 2 ^ e * (2 ^ e * 2 ^ f) + b / 2 ^ f % 2 ^ e * 2 ^ f + b % 2 ^ f
      = (2 ^ e * (b / 2 ^ f / 2 ^ e) + b / 2 ^ f % 2 ^ e) * 2 ^ f + b % 2 ^ f := by ring
    _ = b := by rw [Nat.div_add_mod, Nat.mul_comm, Nat.div_add_mod]

/-- An exponent and a fraction that name neither an infinity nor a NaN (R55). -/
def finiteFields (t : ETy) (x f : Nat) : Prop := if t = .e4m3 then x < 15 ∨ x = 15 ∧ f < 7 else x < 2 ^ t.expBits - 1

/-- A finite pattern: subnormal or normal, in the range of its type (R55). -/
theorem decodeFloat_fin {t : ETy} (float : t.isFloat = true) {b : Nat} {neg : Bool} {m : Nat} {e : Int} (decoded : decodeFloat t b = .fin neg m e) :
    let f := b % 2 ^ t.fracBits
    let x := b / 2 ^ t.fracBits % 2 ^ t.expBits
    neg = b.testBit (t.fracBits + t.expBits) ∧
      (x = 0 ∧ m = f ∧ e = t.minQuantum ∨ x ≠ 0 ∧ m = 2 ^ t.fracBits + f ∧ e = x - t.bias - t.fracBits ∧ finiteFields t x f) := by
  intro f x
  unfold decodeFloat at decoded
  extract_lets fb eb f' x' neg' special at decoded
  split at decoded
  · split at decoded <;> cases decoded
  · rename_i finite
    split at decoded <;> rename_i zero <;> injection decoded with hn hm he
    · exact ⟨hn.symm, .inl ⟨zero, hm.symm, he.symm⟩⟩
    · refine ⟨hn.symm, .inr ⟨zero, hm.symm, he.symm, ?_⟩⟩
      have fraction : f < 2 ^ t.fracBits := Nat.mod_lt _ (Nat.two_pow_pos _)
      have exponent : x < 2 ^ t.expBits := Nat.mod_lt _ (Nat.two_pow_pos _)
      unfold finiteFields
      cases t <;> cases float
      case e4m3.refl =>
        rw [if_pos rfl]
        simp only [special, Bool.and_eq_true, beq_iff_eq] at finite
        replace finite : ¬ (x = 15 ∧ f = 7) := finite
        replace exponent : x < 16 := exponent
        replace fraction : f < 8 := fraction
        omega
      all_goals
        rw [if_neg (by decide)]
        simp only [special, beq_iff_eq] at finite
        exact Nat.lt_of_le_of_ne (Nat.le_sub_one_of_lt exponent) finite

/-- The pattern of a magnitude below the least normal one (R55). -/
theorem packFloat_subnormal {t : ETy} {m : Nat} (small : m < 2 ^ t.fracBits) (neg : Bool) (e : Int) :
    packFloat t neg m e = (if neg then 2 ^ (t.width - 1) else 0) + m := by
  unfold packFloat
  exact if_pos small

/-- The pattern of a normal value: its exponent field above its fraction (R55). -/
theorem packFloat_normal {t : ETy} {f x : Nat} (fraction : f < 2 ^ t.fracBits) (neg : Bool) :
    packFloat t neg (2 ^ t.fracBits + f) (x - t.bias - t.fracBits) = (if neg then 2 ^ (t.width - 1) else 0) + x * 2 ^ t.fracBits + f := by
  unfold packFloat
  dsimp only
  rw [if_neg (by omega), if_neg (by rw [Nat.pow_succ]; omega), Nat.add_sub_cancel_left,
    show ((x : Int) - t.bias - t.fracBits + t.fracBits + t.bias).toNat = x by omega]

theorem log2_normal {n f : Nat} (fraction : f < 2 ^ n) : (2 ^ n + f).log2 = n := by
  rw [Nat.log2_eq_iff (by positivity), Nat.pow_succ]
  omega

/-- A normal value of a type is at most the type's largest, or lies in a lower binade (R55). -/
theorem normal_small {t : ETy} (float : t.isFloat = true) {f x : Nat} (fraction : f < 2 ^ t.fracBits)
    (finite : finiteFields t x f) : belowLargest t (2 ^ t.fracBits + f) (x - t.bias - t.fracBits) := by
  unfold finiteFields at finite
  unfold belowLargest
  cases t <;> cases float <;> simp [ETy.fracBits, ETy.expBits, ETy.bias, ETy.maxFinite] at * <;> omega

theorem subnormal_small {t : ETy} (float : t.isFloat = true) {f : Nat} (fraction : f < 2 ^ t.fracBits) : belowLargest t f t.minQuantum := by
  left
  cases t <;> cases float <;> simp [ETy.fracBits, ETy.expBits, ETy.bias, ETy.maxFinite, ETy.minQuantum] at * <;> omega

/-- A finite float's own value rounds to its own bits, whatever the mode, and counts no event (R55, R58). -/
theorem roundFloat_decodeFloat {t : ETy} (float : t.isFloat = true) {b : Nat} (fits : b < 2 ^ t.width) {neg : Bool} {m : Nat} {e : Int}
    (decoded : decodeFloat t b = .fin neg m e) (rm : RMode) (sat : Bool) :
    roundFloat t rm sat (FVal.fin neg m e).toX = { bits := b, events := [] } := by
  have fields := float_fields float fits
  have fraction : b % 2 ^ t.fracBits < 2 ^ t.fracBits := Nat.mod_lt _ (Nat.two_pow_pos _)
  obtain ⟨rfl, ⟨zero, rfl, rfl⟩ | ⟨normal, rfl, rfl, finite⟩⟩ := decodeFloat_fin float decoded
  · rw [zero, Nat.zero_mul, Nat.add_zero] at fields
    by_cases none : b % 2 ^ t.fracBits = 0
    · rw [none] at fields ⊢
      rw [roundFloat_zero, packFloat_subnormal (Nat.two_pow_pos _), fields]
    · have low : (b % 2 ^ t.fracBits).log2 < t.fracBits := (Nat.log2_lt none).2 fraction
      rw [roundFloat_kept none (by omega) (subnormal_small float fraction), packFloat_subnormal fraction, fields]
  · rw [roundFloat_kept (by positivity) ?_ (normal_small float fraction finite), packFloat_normal fraction, fields]
    rw [log2_normal fraction]
    unfold ETy.minQuantum
    omega

/-- Settles O36: integers by their residues, rationals by the division's remainder, a float's own value by its quantum. -/
theorem narrowingAndRounding : Obligations.NarrowingAndRounding := by
  unfold Obligations.NarrowingAndRounding
  refine ⟨fun t v _ => ⟨fun low high sat => ?inside, ?wraps, fun low => ?below, fun high => ?above⟩, fun rm neg num den q pos => ?rational,
    fun t rm sat b float fits neg m e decoded => ?float⟩
  case inside =>
    rw [narrowInt_fits low high]
    exact ⟨decodeInt_wrapInt_inside low high, rfl⟩
  case wraps => exact ⟨decodeInt_wrapInt_mod t v, rfl⟩
  case below =>
    rw [narrowInt_below low]
    exact ⟨decodeInt_wrapInt_inside le_rfl (intMin_le_intMax t), rfl⟩
  case above =>
    rw [narrowInt_above high]
    exact ⟨decodeInt_wrapInt_inside (intMin_le_intMax t) le_rfl, rfl⟩
  case rational =>
    intro n d k down up
    refine ⟨beq_iff_eq.trans (Nat.dvd_iff_mod_eq_zero ..).symm, fun divides => ?_, ?_⟩
    · obtain ⟨j, hj⟩ := divides
      have exact : roundScaled rm neg num den q = (j, true) := roundScaled_exact rm neg pos (hj.trans (Nat.mul_comm ..))
      rw [hj, show k = j from congrArg Prod.fst exact, Nat.mul_comm]
    · exact roundedAs_of_division rm neg (q := n / d) (r := n % d) (Nat.div_add_mod' ..).symm (Nat.mod_lt _ (scaledDen_pos pos q)) rfl
  case float =>
    rw [decoded]
    exact roundFloat_decodeFloat float fits decoded rm sat

end Sys2Proof.Proofs
end

section
/-!
PROOFS. Addends as exact sums and lanes as exact values (R65 to R69, R71).
-/

namespace Sys2Proof.Proofs
open Sys2Proof Sys2Proof.Machine

/-! ### The addend of some products (R66, R67) -/

/-- Whether the floor of a product at the anchor drops bits. -/
def dropsBits (a : Int) (p : FVal) : Bool :=
  match p with
  | .fin neg m e => (floorProduct neg m e a).2
  | _ => false

theorem floorProduct_eq_floorAt (neg : Bool) (m : Nat) (e a : Int) : (floorProduct neg m e a).1 = floorAt a (.fin neg m e) := by
  unfold floorProduct floorAt
  dsimp only
  split
  · rw [show (a - 64 - e).toNat = 0 by omega, Nat.pow_zero, Nat.cast_one, Int.ediv_one]
  · rw [show (e + 64 - a).toNat = 0 by omega, Nat.pow_zero, Nat.cast_one, Int.mul_one, show -(e + 64 - a) = a - 64 - e by omega]

/-- The running sum after some products, whatever their order: the floors' sum, and a flag for each kind of product met. -/
def deliverAll (a : Int) (x : Addend) (ps : List FVal) : Addend :=
  { sum := x.sum + (ps.map (floorAt a)).sum, ix := x.ix || ps.any (dropsBits a), nv := x.nv || decide (FVal.nan ∈ ps)
    pi := x.pi || decide (FVal.inf false ∈ ps), ni := x.ni || decide (FVal.inf true ∈ ps) }

theorem deliverAll_cons (a : Int) (x : Addend) (p : FVal) (ps : List FVal) :
    deliverAll a x (p :: ps) = deliverAll a (Addend.deliver a x p) ps := by
  match p with
  | .nan => simp [deliverAll, Addend.deliver, floorAt, dropsBits]
  | .inf false => simp [deliverAll, Addend.deliver, floorAt, dropsBits]
  | .inf true => simp [deliverAll, Addend.deliver, floorAt, dropsBits]
  | .fin neg m e => simp [deliverAll, Addend.deliver, ← floorProduct_eq_floorAt, dropsBits, add_assoc, Bool.or_assoc]

theorem foldl_deliver (a : Int) (x : Addend) (ps : List FVal) : ps.foldl (fun x p => Addend.deliver a x p) x = deliverAll a x ps := by
  induction ps generalizing x with
  | nil => simp [deliverAll]
  | cons p ps ih => rw [List.foldl_cons, ih, deliverAll_cons]

theorem addendOf_eq (a : Int) (ps : List FVal) : addendOf a ps = (deliverAll a default ps).lane := by
  unfold addendOf
  rw [foldl_deliver]

theorem deliverAll_perm (a : Int) (x : Addend) {ps qs : List FVal} (perm : ps.Perm qs) : deliverAll a x ps = deliverAll a x qs := by
  simp only [deliverAll, (perm.map _).sum_eq, perm.any_eq, perm.mem_iff]

@[simp] theorem addendOf_t (a : Int) (ps : List FVal) : (addendOf a ps).t = BitVec.ofInt 96 ((ps.map (floorAt a)).sum) := by
  rw [addendOf_eq]
  simp [Addend.lane, Lane.t, deliverAll, show (default : Addend).sum = 0 from rfl]

@[simp] theorem addendOf_nv (a : Int) (ps : List FVal) : (addendOf a ps).nv = decide (FVal.nan ∈ ps) := by
  rw [addendOf_eq]
  rfl

@[simp] theorem addendOf_pi (a : Int) (ps : List FVal) : (addendOf a ps).pi = decide (FVal.inf false ∈ ps) := by
  rw [addendOf_eq]
  rfl

@[simp] theorem addendOf_ni (a : Int) (ps : List FVal) : (addendOf a ps).ni = decide (FVal.inf true ∈ ps) := by
  rw [addendOf_eq]
  rfl

/-! ### A lane's exact value (R65, R68, R69, R71) -/

/-- A lane without a flag of a NaN or an infinity is kept as it stands (R42). -/
theorem norm_of_finite {l : Lane} (finite : l.special = false) : l.norm = l := by
  simp only [Lane.special, Bool.or_eq_false_iff] at finite
  obtain ⟨⟨nv, pi⟩, ni⟩ := finite
  simp [Lane.norm, nv, pi, ni]

/-- A finite lane moved to a higher or an equal anchor: its T is the floor, and IX records what the floor drops (R68). -/
theorem reanchor_finite {l : Lane} (finite : l.special = false) (a b : Int) : l.reanchor a b =
    { l with
      s := BitVec.ofInt 96 (l.t.toInt * 2 ^ (a - b).toNat / 2 ^ (b - a).toNat), c := 0
      ix := l.ix || decide (¬ (2 ^ (b - a).toNat : Int) ∣ l.t.toInt) } := by
  unfold Lane.reanchor
  dsimp only
  rcases le_or_gt b a with down | up
  · rw [if_pos (by omega), decide_eq_false (by omega : ¬ a - b < 0), show (b - a).toNat = 0 by omega]
    refine (norm_of_finite (by exact finite)).trans ?_
    simp
  · rw [if_neg (by omega), decide_eq_true (by omega : a - b < 0), show (a - b).toNat = 0 by omega, neg_sub]
    refine (norm_of_finite (by exact finite)).trans ?_
    have drops : (l.t.toInt % 2 ^ (b - a).toNat != 0) = decide (¬ (2 ^ (b - a).toNat : Int) ∣ l.t.toInt) :=
      Bool.eq_iff_iff.2 (by rw [bne_iff_ne, decide_eq_true_eq, Int.dvd_iff_emod_eq_zero])
    rw [Nat.cast_pow, ← drops, pow_zero, Int.mul_one]
    rfl

theorem reanchor_t {l : Lane} (finite : l.special = false) (a b : Int) :
    (l.reanchor a b).t = BitVec.ofInt 96 (l.t.toInt * 2 ^ (a - b).toNat / 2 ^ (b - a).toNat) := by
  rw [reanchor_finite finite]
  exact BitVec.add_zero _

theorem reanchor_ix {l : Lane} (finite : l.special = false) (a b : Int) :
    (l.reanchor a b).ix = (l.ix || decide (¬ (2 ^ (b - a).toNat : Int) ∣ l.t.toInt)) := by
  rw [reanchor_finite finite]

/-- A number within the signed range of `n` bits is kept by them. -/
theorem toInt_ofInt_of_range {v : Int} (low : -2 ^ 95 ≤ v) (high : v < 2 ^ 95) : (BitVec.ofInt 96 v).toInt = v := by
  rw [BitVec.toInt_ofInt]
  exact Int.bmod_eq_of_le (by omega) (by omega)

/-- OV tells whether T leaves the range of 92 bits (R69). -/
theorem ov_iff (l : Lane) : l.ov = true ↔ ¬ (-2 ^ 91 ≤ l.t.toInt ∧ l.t.toInt < 2 ^ 91) := by
  have := l.t.isLt
  simp only [Lane.ov, BitVec.toInt_eq_toNat_cond, Bool.and_eq_true, bne_iff_ne]
  split <;> omega

/-- The floor of a T by a power of two stays within 96 bits. -/
theorem floor_in_range (t : BitVec 96) (n : Nat) : -2 ^ 95 ≤ t.toInt / 2 ^ n ∧ t.toInt / 2 ^ n < 2 ^ 95 := by
  have pos : (0 : Int) < 2 ^ n := by positivity
  have one : (1 : Int) ≤ 2 ^ n := pos
  have low := BitVec.le_toInt t
  have high := BitVec.toInt_lt (x := t)
  rw [Int.le_ediv_iff_mul_le pos, Int.ediv_lt_iff_lt_mul pos]
  norm_num at low high ⊢
  constructor <;> linarith

/-- Settles O43: an addend is its products' sum whatever their order; a lane's value follows its T. -/
theorem addendsAndLanesAreExact : Obligations.AddendsAndLanesAreExact := by
  unfold Obligations.AddendsAndLanesAreExact
  refine ⟨fun a ps => ⟨fun finite => ⟨addendOf_t a ps, ?nv, ?pi, ?ni⟩, by simp, by simp, by simp, fun qs perm => ?perm⟩,
    fun l a b finite => ⟨fun lower low high => ?lower, fun higher => ?higher, by simp [Lane.negate, Lane.t], by simp [Lane.canon, Lane.t], rfl, ov_iff l⟩⟩
  case nv => exact (addendOf_nv a ps).trans (decide_eq_false fun h => by obtain ⟨n, m, e, he⟩ := finite _ h; cases he)
  case pi => exact (addendOf_pi a ps).trans (decide_eq_false fun h => by obtain ⟨n, m, e, he⟩ := finite _ h; cases he)
  case ni => exact (addendOf_ni a ps).trans (decide_eq_false fun h => by obtain ⟨n, m, e, he⟩ := finite _ h; cases he)
  case perm => rw [addendOf_eq, addendOf_eq, deliverAll_perm a _ perm]
  case lower =>
    rw [reanchor_t finite, reanchor_ix finite, show (b - a).toNat = 0 by omega, pow_zero, Int.ediv_one]
    exact ⟨toInt_ofInt_of_range low high, by simp⟩
  case higher =>
    obtain ⟨low, high⟩ := floor_in_range l.t (b - a).toNat
    rw [reanchor_t finite, reanchor_ix finite, show (a - b).toNat = 0 by omega, pow_zero, Int.mul_one]
    exact ⟨toInt_ofInt_of_range low high, by simp⟩

end Sys2Proof.Proofs
end

section
/-!
PROOFS. Matrix products (R81, R266 to R269).
-/

namespace Sys2Proof.Proofs
open Sys2Proof Sys2Proof.Machine

/-! ### The residue check (R81) -/

/-- The machine check of a multiply into a tile whose residues do not agree (R81). -/
def residueCheck (c : Nat) : FaultInfo := { code := .machineCheck, info := c, eva := true }

theorem residue_agrees {s : State} (sound : (s.die s.core.did).badArr.getLsbD s.core.cid = false) (c : Nat) : s.residue c = .ok () :=
  trapIf_ok.2 sound

theorem residue_fails {s : State} (bad : ¬ (s.die s.core.did).badArr.getLsbD s.core.cid = false) (c : Nat) :
    s.residue c = .error (.trap (residueCheck c)) := by
  rw [Bool.not_eq_false] at bad
  simp only [State.residue, bad, trapIf_true, residueCheck]

theorem raises_residueCheck (s : State) (c : Nat) : outcome s (.error (.trap (residueCheck c))) = .next (s.raise (residueCheck c)) :=
  takeFault_next (show FCode.machineCheck ≠ .noBacking by decide) s

/-- A ready word whose effect traps takes that fault. -/
theorem mword_effect_faults {s u : State} {h : Shape} {unit : MUnit} {x : VIn} (ready : s.mready h unit x u) {go : VIn → State → Res State}
    {f : FaultInfo} (bad : go x u = .error (.trap f)) : s.mword h unit (.ok ()) false go = .error (.trap f) := by
  obtain ⟨t, ⟨st, aw⟩, vr, -, free, tk⟩ := ready
  simp [State.mword, st, aw, vr, tilesFree_of free, tk, bad]

/-! ### Dense products (R266, R267) -/

/-- A dense multiply, by how it picks B's elements. -/
def denseWord (s : State) (w : Wt) (bf : ETy → List VReg → Nat → Nat → FVal) : Res State :=
  s.mword (shMma w false) (.matrix s.mmaCost) (.ok ()) false fun x s1 => do
    s.residue (tileIx w.d)
    .ok (s1.dense w.d (etOf w) (btOf w) (s.landingAnchor (tileIx w.d) 12) none x bf)

/-- The misplaced markers and NaN outliers of a multiply's operands (R267). -/
def operandEvents (t t' : ETy) (x : VIn) : List Nat := markerEvents t (x.a.images.getD 0 []) ++ x.b.images.flatMap (markerEvents t')

section
variable {w : Wt} {s u : State} {x : VIn} (ready : s.mready (shMma w false) (.matrix s.mmaCost) x u) {i : Instr}
  {bf : ETy → List VReg → Nat → Nat → FVal} (meaning : exec i s = outcome s (denseWord s w bf))
include ready meaning

theorem dense_lands (sound : (s.die s.core.did).badArr.getLsbD s.core.cid = false) : Lands i s u 12 (.contrib (tileIx w.d) ((predLanes x.p).map fun n =>
    (n, addendOf (s.landingAnchor (tileIx w.d) 12) ((List.range (etOf w).perRow).map fun k =>
      mulExact (mmaElem (etOf w) (x.a.images.getD 0 []) (n / 64) k) (bf (btOf w) x.b.images k (n % 64))))) none)
    (operandEvents (etOf w) (btOf w) x) := by
  refine meaning.trans (congrArg (outcome s) (mword_ready ready _ ?_))
  rw [residue_agrees sound, res_ok_bind]
  rfl

theorem dense_faults (bad : ¬ (s.die s.core.did).badArr.getLsbD s.core.cid = false) : Faults i s (residueCheck (tileIx w.d)) := by
  refine meaning.trans ((congrArg (outcome s) (mword_effect_faults ready ?_)).trans (raises_residueCheck s _))
  rw [residue_fails bad, res_error_bind]

end

/-! ### Sparse products (R268) -/

/-- Reading an I4X element counts a misplaced marker or a NaN outlier, never a sparsity event (R57, R79). -/
theorem i4xElem_events (lane k : Nat) : 1 ∉ (i4xElem lane k).2 := by
  unfold i4xElem
  extract_lets n v plain outlier zero
  have plain_ : 1 ∉ plain.2 := by
    unfold plain
    split <;> simp
  have outlier_ : ∀ b, 1 ∉ (outlier b).2 := fun b => by
    unfold outlier
    dsimp only
    split <;> simp
  have zero_ : 1 ∉ zero.2 := by simp [zero]
  split
  · split
    · exact outlier_ _
    · split
      · exact zero_
      · exact plain_
  · split
    · split
      · exact plain_
      · split
        · exact outlier_ _
        · exact zero_
    · exact plain_

theorem markerEvents_sparsity (t : ETy) (v : VReg) : (markerEvents t v).count 1 = 0 := by
  rw [List.count_eq_zero]
  unfold markerEvents
  split
  · simp only [List.mem_flatMap, not_exists, not_and]
    exact fun n _ k _ => i4xElem_events _ _
  · exact List.not_mem_nil

/-- A 2:4-sparse multiply's events are its operands', then one for each illegal group (R268). -/
theorem sparsity_count (t t' : ETy) (x : VIn) (bad : List Nat) : (operandEvents t t' x ++ bad.map fun _ => 1).count 1 = bad.length := by
  have markers : (x.b.images.flatMap (markerEvents t')).count 1 = 0 := by
    rw [List.count_flatMap]
    exact List.sum_eq_zero fun n hn => by
      obtain ⟨v, -, rfl⟩ := List.mem_map.1 hn
      exact markerEvents_sparsity t' v
  rw [operandEvents, List.count_append, List.count_append, markerEvents_sparsity, markers, List.map_const', List.count_replicate_self]
  omega

/-- The groups of stored elements of a row (R268). -/
def sparseGroups (w : Wt) : List Nat := List.range ((etOf w).perRow / 2)

/-- The addend of a lane of a 2:4-sparse multiply: the products of the groups whose metadata is legal (R268). -/
def sparseAddend (s : State) (w : Wt) (x : VIn) (n : Nat) : Lane :=
  addendOf (s.landingAnchor (tileIx w.d) 12) (((sparseGroups w).filter fun g => !sparseBad (s.readM w.c) g).flatMap fun g => [0, 1].map fun k =>
    mulExact (mmaElem (etOf w) (x.a.images.getD 0 []) (n / 64) (2 * g + k))
      (mmasB (btOf w) x.b.images (4 * g + sparsePos (s.readM w.c) g k) (n % 64)))

section
variable {w : Wt} {s u : State} {x : VIn} (ready : s.mready (shMma w true) (.matrix s.mmaCost) x u)
include ready

theorem mmas_group_faults (bad : (sparseGroups w).any (sparseBad (s.readM w.c)) = true) (checked : xb w 23 23 = 1) :
    Faults (.mmas w) s (fltS .illegalOperand 14) := by
  obtain ⟨t, ⟨st, -⟩, vr, -, -, -⟩ := ready
  show outcome s (s.mmas w) = _
  unfold State.mmas
  simp only [st, vr, show (List.range ((etOf w).inner / 2)).any (sparseBad (s.readM w.c)) = true from bad, checked, res_ok_bind, beq_self_eq_true,
    Bool.true_and, trapIf_true, res_error_bind]
  exact takeFault_next (show FCode.illegalOperand ≠ .noBacking by decide) s

variable (fine : xb w 23 23 = 1 → (sparseGroups w).any (sparseBad (s.readM w.c)) = false)
include fine

/-- Where the metadata is legal or not checked, MMAS goes on to the residue check and the unit. -/
theorem mmas_eq : s.mmas w = s.residue (tileIx w.d) >>= fun _ =>
    .ok ((u.pend 12 (.contrib (tileIx w.d) ((predLanes x.p).map fun n => (n, sparseAddend s w x n)) none)
      (operandEvents (etOf w) (btOf w) x ++ ((sparseGroups w).filter (sparseBad (s.readM w.c))).map fun _ => 1)).retire 1) := by
  obtain ⟨t, ⟨st, aw⟩, vr, sh, free, tk⟩ := ready
  have groups : trapIf (xb w 23 23 == 1 && (List.range ((etOf w).inner / 2)).any (sparseBad (s.readM w.c))) (fltS .illegalOperand 14) = .ok () := by
    rw [trapIf_ok, Bool.and_eq_false_imp, beq_iff_eq]
    exact fine
  have tile : s.tileLoading (tileIx w.d) = false := free _ (List.mem_append_left _ (List.mem_append_left _ (List.mem_singleton.2 rfl)))
  unfold State.mmas
  simp only [st, vr, groups, aw, tile, tk, sh, res_ok_bind, Bool.not_false, waitUnless_true]
  rfl

theorem mmas_residue_faults (bad : ¬ (s.die s.core.did).badArr.getLsbD s.core.cid = false) : Faults (.mmas w) s (residueCheck (tileIx w.d)) := by
  show outcome s (s.mmas w) = _
  rw [mmas_eq ready fine, residue_fails bad, res_error_bind, raises_residueCheck]

theorem mmas_lands (sound : (s.die s.core.did).badArr.getLsbD s.core.cid = false) : Lands (.mmas w) s u 12
    (.contrib (tileIx w.d) ((predLanes x.p).map fun n => (n, sparseAddend s w x n)) none)
    (operandEvents (etOf w) (btOf w) x ++ ((sparseGroups w).filter (sparseBad (s.readM w.c))).map fun _ => 1) := by
  show outcome s (s.mmas w) = _
  rw [mmas_eq ready fine, residue_agrees sound, res_ok_bind, outcome_ok]

end

/-! ### Products by the format table (R269) -/

section
variable {w : Wt} {s u : State} {x : VIn} (ready : s.mready (shMmaf w) (.matrix s.mmaCost) x u) {v : Nat}
  (entry : s.fmtEntry (s.fmtIx (xb w 23 23 == 1) (xb w 22 19)) = .ok v)
  (still : fmtAnchor v ≠ s.landingAnchor (tileIx w.d) 12 → s.tileBusy (tileIx w.d) = false)
include ready entry still

/-- MMAF with an entry whose anchor the tile has, or may take, goes on to the residue check and the unit. -/
theorem mmaf_eq : s.mmaf w = s.residue (tileIx w.d) >>= fun _ =>
    .ok ((u.dense w.d (fmtType v 3 0) (fmtType v 7 4) (fmtAnchor v)
      (if fmtAnchor v = s.landingAnchor (tileIx w.d) 12 then none else some (fmtAnchor v)) x mmaB).retire 1) := by
  obtain ⟨t, ⟨st, aw⟩, vr, sh, free, tk⟩ := ready
  have tile : s.tileLoading (tileIx w.d) = false := free _ (List.mem_append_left _ (List.mem_append_left _ (List.mem_singleton.2 rfl)))
  have change : (fmtAnchor v != s.landingAnchor (tileIx w.d) 12 && s.tileBusy (tileIx w.d)) = false := by
    rw [Bool.and_eq_false_imp, bne_iff_ne]
    exact still
  unfold State.mmaf
  simp only [st, vr, entry, aw, tile, change, tk, sh, res_ok_bind, Bool.not_false, Bool.and_true, waitUnless_true, bne_iff_ne, ite_not]

theorem mmaf_residue_faults (bad : ¬ (s.die s.core.did).badArr.getLsbD s.core.cid = false) : Faults (.mmaf w) s (residueCheck (tileIx w.d)) := by
  show outcome s (s.mmaf w) = _
  rw [mmaf_eq ready entry still, residue_fails bad, res_error_bind, raises_residueCheck]

theorem mmaf_lands (sound : (s.die s.core.did).badArr.getLsbD s.core.cid = false) : Lands (.mmaf w) s u 12
    (.contrib (tileIx w.d) ((predLanes x.p).map fun n => (n, addendOf (fmtAnchor v) ((List.range (fmtType v 3 0).perRow).map fun k =>
      mulExact (mmaElem (fmtType v 3 0) (x.a.images.getD 0 []) (n / 64) k) (mmaB (fmtType v 7 4) x.b.images k (n % 64)))))
      (if fmtAnchor v = s.landingAnchor (tileIx w.d) 12 then none else some (fmtAnchor v)))
    (operandEvents (fmtType v 3 0) (fmtType v 7 4) x) := by
  show outcome s (s.mmaf w) = _
  rw [mmaf_eq ready entry still, residue_agrees sound, res_ok_bind, outcome_ok]
  rfl

end

/-- The entry a word of M names, in either form of the choice (R269). -/
theorem fmtIx_eq (s : State) (w : Wt) :
    s.fmtIx (xb w 23 23 == 1) (xb w 22 19) = if xb w 23 23 = 1 then xb w 22 19 else s.strm.lc.toNat % 16 := by
  simp [State.fmtIx]

/-- Settles O42: past its own checks each multiply is the residue check and one contribution. -/
theorem matrixProducts : Obligations.MatrixProducts := by
  unfold Obligations.MatrixProducts
  intro w s u x c a sound check at_ bt reg b dense
  refine ⟨fun ready bad => ⟨dense_faults ready (bf := mmaB) rfl bad, dense_faults ready (bf := mmatB) rfl bad⟩,
    fun ready good => ⟨⟨_, dense_lands ready (bf := mmaB) rfl good⟩, ⟨_, dense_lands ready (bf := mmatB) rfl good⟩⟩,
    fun ready => ?sparse, fun v ready entry => ?table⟩
  case sparse =>
    intro m pos bad groups
    exact ⟨mmas_group_faults ready, fun fine => ⟨mmas_residue_faults ready fine, fun good => ⟨_, mmas_lands ready fine good, sparsity_count ..⟩⟩⟩
  case table =>
    intro ft anchor still
    rw [← fmtIx_eq] at entry
    exact ⟨mmaf_residue_faults ready entry still, fun good => ⟨_, mmaf_lands ready entry still good⟩⟩

end Sys2Proof.Proofs
end

section
/-!
PROOFS. Tiles are resolved, compared and examined (R70, R71, R271 to R273).
-/

namespace Sys2Proof.Proofs
open Sys2Proof Sys2Proof.Machine

/-! ### What a ready word of M has changed (R30, R238, R304) -/

/-- Reading vector sources changes the core's ports and queues alone (R30, R238). -/
theorem vsource_frame {s t : State} {k : OpK} {f : OpField} {x : VSrc} (h : s.vsource k f = .ok (x, t)) :
    ∃ p q, t = { s with core := { s.core with ports := p, queues := q } } := by
  unfold State.vsource at h
  split at h
  · exact readV_frame h
  · split at h <;> cases h
    obtain ⟨q, rfl⟩ := readS_frame ‹_›
    exact ⟨s.core.ports, q, rfl⟩
  · cases h
    exact ⟨s.core.ports, s.core.queues, rfl⟩

theorem vread_frame {s t : State} {h : Shape} {x : VIn} (e : s.vread h = .ok (x, t)) :
    ∃ p q, t = { s with core := { s.core with ports := p, queues := q } } := by
  unfold State.vread at e
  obtain ⟨⟨a, s1⟩, e, e1⟩ := res_stages e
  obtain ⟨⟨b, s2⟩, e, e2⟩ := res_stages e
  obtain ⟨⟨c, s3⟩, e, e3⟩ := res_stages e
  obtain ⟨_, _, rfl⟩ := vsource_frame e1
  obtain ⟨_, _, rfl⟩ := vsource_frame e2
  obtain ⟨_, _, rfl⟩ := vsource_frame e3
  cases e
  exact ⟨_, _, rfl⟩

/-- Taking a unit changes what it is held until and the count of its cycles (R9, R304). -/
theorem takeUnit_frame {s t : State} {u : MUnit} (h : s.takeUnit u = .ok t) :
    ∃ m a p, t = { s with core := { s.core with mbusy := m, abusy := a, pmc := p } } := by
  unfold State.takeUnit at h
  split at h
  · split at h <;> cases h
    exact ⟨_, _, _, rfl⟩
  · split at h <;> cases h
    exact ⟨_, _, _, rfl⟩
  · cases h
    exact ⟨_, _, _, rfl⟩

/-- A ready word names the masks its stream named before. -/
theorem maskIx_mready {s u : State} {h : Shape} {unit : MUnit} {x : VIn} (ready : s.mready h unit x u) (d : OpField) :
    u.maskIx d = s.maskIx d := by
  obtain ⟨t, -, vr, -, -, tk⟩ := ready
  obtain ⟨_, _, rfl⟩ := vread_frame vr
  obtain ⟨_, _, _, rfl⟩ := takeUnit_frame tk
  unfold State.maskIx State.strm
  cases s.cur <;> rfl

/-! ### Masks -/

/-- Bit `n` of a mask made from a function is the function's value (R36). -/
@[simp] theorem maskOf_bit (f : Nat → Bool) {n : Nat} (lane : n < 1024) : (maskOf f).getLsbD n = f n := by
  rw [maskOf, BitVec.getLsbD_setWidth, BitVec.getLsbD_ofBoolListLE]
  simp [lane]

/-! ### Resolve (R70, R271) -/

/-- The lanes a resolve writes: every one, or those of the group for an 8-bit type (R271). -/
def rslvElems (s : State) (w : Wt) (f : RslvForm) (i j : Nat) : Option Rounded :=
  let c := s.core.tile (tileIx w.a)
  if f.t.width = 8 then (if j / 64 = xb w 21 20 then some ((c.lane (64 * i + j % 64)).resolve f.t f.rm f.sat c.anchor) else none)
  else some ((c.lane (64 * i + j)).resolve f.t f.rm f.sat c.anchor)

section
variable {w : Wt} {s : State} {f : RslvForm} (legal : s.legal (shRslv w)) (form : s.rslvForm w = .ok f)
include legal form

/-- A group that a type of 16 or 32 bits does not have is an illegal operand (R271). -/
theorem rslv_faults (wide : f.t.width ≠ 8) (group : xb w 21 20 ≠ 0) : Faults (.rslv w) s (flt .illegalOperand) := by
  show outcome s (s.rslv w) = _
  unfold State.rslv
  simp only [legal.1, form, if_neg wide, bne_iff_ne.2 group, res_ok_bind, trapIf_true, res_error_bind]
  exact raises_illegal s

/-- A resolve of lanes that are there, into a register or pair that may take them, ends with its elements to land. -/
theorem rslv_ends {u v : State} (shadow : s.shadow (shRslv w) = .ok ()) (pair : isV w.d = true → vecOk w.d f.t.regs f.t.regs = true)
    (loaded : s.tileLoading (tileIx w.a) = false) (unit : s.takeUnit (.acc f.t.regs) = .ok u)
    (group : if f.t.width = 8 then xb w 21 20 ≤ 1 else xb w 21 20 = 0)
    (elems : u.putElems f.t w.d (s.pred w.toHd) 16 (rslvElems s w f) = .ok v) : exec (.rslv w) s = .next (v.retire 1) := by
  obtain ⟨st, aw⟩ := legal
  have groupOk : (if f.t.width = 8 then decide (xb w 21 20 > 1) else xb w 21 20 != 0) = false := by
    by_cases narrow : f.t.width = 8
    · rw [if_pos narrow] at group ⊢
      exact decide_eq_false (Nat.not_lt.2 group)
    · rw [if_neg narrow] at group ⊢
      exact bne_eq_false_iff_eq.2 group
  have pairOk : (isV w.d && !vecOk w.d f.t.regs f.t.regs) = false := by
    rw [Bool.and_eq_false_imp]
    exact fun v => by rw [pair v]; rfl
  show outcome s (s.rslv w) = _
  unfold State.rslv
  simp only [st, form, groupOk, pairOk, aw, loaded, unit, res_ok_bind, trapIf_false, Bool.not_false, waitUnless_true]
  replace elems : u.putElems f.t w.d (s.pred (shRslv w).hd) 16 (rslvElems s w f) = .ok v := elems
  unfold rslvElems at elems
  simp only [elems, shadow, res_ok_bind, outcome_ok]

end

/-! ### The lane's value (R70, R71, R273) -/

/-- A lane whose T holds is rounded once from its exact value (R70). -/
theorem resolve_finite {l : Lane} (finite : l.special = false) (holds : l.ov = false) (t : ETy) (rm : RMode) (sat : Bool) (a : Int) :
    (l.resolve t rm sat a).bits = (roundFloat t rm sat (FVal.fin (decide (l.t.toInt < 0)) l.t.toInt.natAbs (a - 64)).toX).bits := by
  simp only [Lane.special, Bool.or_eq_false_iff] at finite
  obtain ⟨⟨nv, pi⟩, ni⟩ := finite
  simp [Lane.resolve, nv, pi, ni, holds, Lane.exact]

theorem resolve_nan {l : Lane} (nan : l.nv = true) (t : ETy) (rm : RMode) (sat : Bool) (a : Int) : (l.resolve t rm sat a).bits = producedNaN t := by
  simp [Lane.resolve, nan]

theorem exn_eq (l : Lane) : l.exn = l.ix.toNat + 2 * l.nv.toNat + 4 * l.pi.toNat + 8 * l.ni.toNat + 16 * l.ov.toNat := by
  unfold Lane.exn Lane.flags
  cases l.ov <;> rfl

/-- Settles O46: resolve by its own checks, compare and flag read as words of M that are ready. -/
theorem tilesAreRead : Obligations.TilesAreRead := by
  unfold Obligations.TilesAreRead
  intro w s u v x f c t
  refine ⟨fun legal pred shadow form pair loaded => ⟨rslv_faults legal form, fun unit group elems => ?rslv⟩, fun ready => ?acmp, fun ready elems => ?aexn,
    fun l ty rm sat a => ⟨fun nan => resolve_nan nan ty rm sat a, fun finite holds => resolve_finite finite holds ty rm sat a⟩⟩
  case rslv =>
    rw [pred] at elems
    exact rslv_ends legal form shadow pair loaded unit group elems
  case acmp =>
    refine ⟨_, congrArg (outcome s) (mword_ready ready _ ?_), fun n lane => maskOf_bit _ lane⟩
    rw [State.putMask, maskIx_mready ready]
  case aexn =>
    have elems' : u.putElems .n16 w.d x.p 8 (fun i j => plain (c.lane (64 * i + j)).exn) = .ok v := by
      simp only [exn_eq]
      exact elems
    refine congrArg (outcome s) (mword_ready ready _ ?_)
    exact elems'

end Sys2Proof.Proofs
end

section
/-!
PROOFS. The last row of a malformed tile image, whose event reaches a threshold of its launch (R74, R80, R274, R338).
-/

namespace Sys2Proof.Proofs
open Sys2Proof Sys2Proof.Machine

/-- The row at which the image of `countedLoad` begins. -/
def countedRow : Nat := 0x800000

/-- A canonical image at 0x40000000, in frame 1 of HBM, is being loaded into tile 2; of it only its first row is still to be read. -/
def countedLoad : MOp :=
  { (default : MOp) with body := .aldr [(0x40000000, 0x10000)] 0x40000000 2 true [countedRow] [] }

/-- Page tables that map the page at 0x40000000, writable, to frame 1 of HBM. -/
def countedTables : List Host.Cell :=
  memWrite (memWrite (memWrite (memWrite [] 0 (leBytes 8 0x1001)) 0x1008 (leBytes 8 0x2001)) 0x2000 (leBytes 8 0x3001)) 0x3000
    (leBytes 8 (2 ^ 59 + 0x10003))

/-- A launch that counts event 0 with a threshold of 1; its counters are written to 0x40008000. -/
def countedLaunch : Launch := { (default : Launch) with lrec := 0x4000, cnten := 1, thr := [1], cntb := 0x40008000 }

/-- A core of that launch with that load in its list; the image's memory holds zeros, which are no image. -/
def countedState : State :=
  { State.reset with
    core := { (default : Core) with running := true, lrec := 0x4000, ops := [countedLoad] }, mem := countedTables, launches := [countedLaunch] }

/-- The row performs. -/
theorem countedState_performs :
    countedState.performs countedLoad (fun _ => true) ⟨countedRow, [keyIn [(0x40000000, 0x10000)] (rowSpan 0x40000000 (imageBytes true) countedRow).1], []⟩ := by
  refine ⟨rfl, by decide +kernel, by decide +kernel⟩

/-- The malformed image counts event 0, which reaches its threshold: the counter is written behind the image, to frame 1. -/
theorem countedState_writes : ∃ t, exec (.tileImageLoadComplete countedLoad.id) countedState = .next t ∧ t.byte 0x18000 = 1 := ⟨_, rfl, by decide +kernel⟩

/-- Refutes O47: the last row of a malformed image counts an event, and where that event reaches a threshold of its launch, the launch's
counters are written to memory. -/
theorem not_tileImages : ¬ Obligations.TileImages := by
  unfold Obligations.TileImages
  rintro ⟨-, row, -⟩
  obtain ⟨-, -, last⟩ := row countedState countedLoad _ _ _ _ _ _ _ _ rfl countedState_performs rfl
  obtain ⟨t, ht, -, -, same, -⟩ := last (by decide +kernel) rfl
  obtain ⟨t', ht', written⟩ := countedState_writes
  obtain rfl : t' = t := Host.Outcome.next.inj (ht'.symm.trans ht)
  rw [same 0x18000] at written
  exact absurd written (by decide +kernel)

end Sys2Proof.Proofs
end

section
/-!
PROOFS. Special functions, rotary embedding and the merge of triples (R148, R253 to R255).
-/

namespace Sys2Proof.Proofs
open Sys2Proof Sys2Proof.Machine

/-! ### The words (R253 to R255) -/

/-- A special-function word gives each element the function of it. -/
theorem special_result {i : Instr} {w : Wt} {fn : SFun} (meaning : ∀ s, exec i s = outcome s (s.special w fn)) :
    VectorResult i w (shSpec w) (if etOf w = .fp32 then 2 else 1) 12 (etOf w) (fun _ => True) fun s x m n =>
      some (specFn fn (etOf w) (s.rmode w.rm.toNat) w.sat (decodeFloat (etOf w) (x.a.elem (etOf w) m n))) :=
  vectorResult_of (own := .ok ()) (fun _ _ => rfl) meaning

/-- Registers that do not meet pass the check that D differs from a source. -/
theorem differs_ok {w : Wt} {g : OpField} {n : Nat}
    (apart : isV w.d = true → isV g = true → w.d.toNat + etRegs w ≤ g.toNat ∨ g.toNat + n ≤ w.d.toNat) : differs w g n = .ok () := by
  refine trapIf_ok.2 (Bool.eq_false_iff.2 fun meet => ?_)
  simp only [Bool.and_eq_true, regsMeet, decide_eq_true_eq] at meet
  obtain ⟨⟨d, v⟩, below, above⟩ := meet
  have := apart d v
  omega

/-- Reading vector operands renames no register. -/
theorem physRange_vread {s t : State} {h : Shape} {x : VIn} (read : s.vread h = .ok (x, t)) (f n : Nat) : t.physRange f n = s.physRange f n := by
  obtain ⟨_, _, rfl⟩ := vread_frame read
  unfold State.physRange State.phys State.strm
  cases s.cur <;> rfl

theorem vsmerge_ends {w : Wt} {s t : State} {x : VIn} (ready : s.vready (shMerge w) x t) :
    ∃ ev, exec (.vsmerge w) s = .next (((t.holdV (s.now + 4)).pend 12 (.regs (imageParts x.p (t.physRange w.d.toNat 4)
      (tripleImages ((List.range 16).map fun i => mergeRow (tripleRow x.a.images i) (tripleRow x.b.images i)) 0 0))) ev).retire 1) := by
  have ⟨_, read, _⟩ := ready
  rw [physRange_vread read]
  exact ⟨_, congrArg (outcome s) (vwordIf_ready ready (own := .ok ()) rfl rfl)⟩

/-! ### The merge of two rows (R148) -/

theorem mergeRow_nanRow (z : TRow) : mergeRow nanRow z = nanRow := by
  have nan : nanRow.hasNaN = true := by decide
  simp [mergeRow, nan]

section
variable {x y : TRow} (hx : x.hasNaN = false) (hy : y.hasNaN = false)
include hx hy

theorem mergeRow_empty_left (empty : x.m = negInf32) : mergeRow x y = y := by simp [mergeRow, hx, hy, empty]

theorem mergeRow_empty_right (held : x.m ≠ negInf32) (empty : y.m = negInf32) : mergeRow x y = x := by simp [mergeRow, hx, hy, held, empty]

end

/-- The larger of two scores; of equal ones the first (log entry 20). -/
def largerScore (a b : Nat) : Nat := if cmpF (decodeFloat .fp32 a) (decodeFloat .fp32 b) = some .lt then b else a

/-- A component of a merged row: those of the two rows, weighted by the exponentials of their distances from `m`, rounded once (R148). -/
def mergedPart (x y : TRow) (m a b : Nat) : Rounded :=
  roundFloat .fp32 .rne false (addExact (mulExact (decodeFloat .fp32 a) (expDiff x.m m)) (mulExact (decodeFloat .fp32 b) (expDiff y.m m))).toX

/-- Two rows that both hold an entry: the larger m, and each component weighted. -/
theorem mergeRow_weighted {x y : TRow} (hx : x.hasNaN = false) (hy : y.hasNaN = false) (ex : x.m ≠ negInf32) (ey : y.m ≠ negInf32) :
    ∃ ev, mergeRow x y =
      { m := largerScore x.m y.m, l := (mergedPart x y (largerScore x.m y.m) x.l y.l).bits
        o := (List.zipWith (mergedPart x y (largerScore x.m y.m)) x.o y.o).map (·.bits), ev := ev } := by
  unfold mergeRow
  simp only [hx, hy, ex, ey, Bool.or_self, Bool.false_eq_true, if_false]
  exact ⟨_, rfl⟩

theorem cmpF_self_ne_gt (a : FVal) : cmpF a a ≠ some .gt := by
  cases a with
  | nan => simp [cmpF]
  | inf s => simp [cmpF]
  | fin neg m e => simp [cmpF]

/-- What is above is not below in turn. -/
theorem cmpF_gt_of_swap {a b : FVal} (above : cmpF b a = some .gt) : cmpF a b = some .lt := by
  cases a with
  | nan => cases b <;> simp [cmpF] at above
  | inf s => cases b <;> cases s <;> simp_all [cmpF]
  | fin na ma ea =>
    cases b with
    | nan => simp [cmpF] at above
    | inf s => cases s <;> simp_all [cmpF]
    | fin nb mb eb =>
      simp only [cmpF, Option.some.injEq, compare_gt_iff_gt, compare_lt_iff_lt] at above ⊢
      rwa [min_comm]

/-- The larger score is one of the two, and neither is above it. -/
theorem largerScore_spec (a b : Nat) : (largerScore a b = a ∨ largerScore a b = b) ∧
    cmpF (decodeFloat .fp32 a) (decodeFloat .fp32 (largerScore a b)) ≠ some .gt ∧
    cmpF (decodeFloat .fp32 b) (decodeFloat .fp32 (largerScore a b)) ≠ some .gt := by
  unfold largerScore
  split
  · rename_i less
    exact ⟨.inr rfl, by simp [less], cmpF_self_ne_gt _⟩
  · rename_i notLess
    exact ⟨.inl rfl, cmpF_self_ne_gt _, fun above => notLess (cmpF_gt_of_swap above)⟩

/-- A component of the column `j` of two merged lists. -/
theorem getD_zipWith_bits {f : Nat → Nat → Rounded} {l r : List Nat} {j : Nat} (hl : j < l.length) (hr : j < r.length) :
    ((List.zipWith f l r).map (·.bits)).getD j 0 = (f (l.getD j 0) (r.getD j 0)).bits := by
  simp [List.getD_eq_getElem?_getD, hl, hr]

/-! ### Exact values of functions (R253) -/

/-- The value of `m * 2^e` as a fraction. -/
theorem dyadic_value (m : Nat) (e : Int) : (dyadicDen e : ℚ) * m * 2 ^ e = dyadicNum m e := by
  unfold dyadicNum dyadicDen
  split <;> rename_i sign
  · obtain ⟨k, rfl⟩ := Int.eq_ofNat_of_zero_le sign
    simp
  · obtain ⟨k, rfl⟩ : ∃ k : Nat, e = -k := ⟨(-e).toNat, by omega⟩
    rw [neg_neg, Int.toNat_natCast, zpow_neg, zpow_natCast]
    push_cast
    field_simp

theorem dyGe_eq (m : Nat) (e : Int) (b : Nat) : dyGe m e b = decide (b * dyadicDen e ≤ dyadicNum m e) := by
  unfold dyGe dyadicNum dyadicDen
  split <;> simp

/-- The reciprocal of `m * 2^e` as a fraction. -/
theorem recip_eq (neg : Bool) (m : Nat) (e : Int) :
    (if e ≥ 0 then XVal.rat neg 1 (m * 2 ^ e.toNat) else .rat neg (2 ^ (-e).toNat) m) = .rat neg (dyadicDen e) (dyadicNum m e) := by
  unfold dyadicNum dyadicDen
  split <;> rfl

/-- Where an exponent is a natural number, its power of two is exact. -/
theorem exp2Round_nat {m n : Nat} {e : Int} (small : n < 2000) (value : dyadicNum m e = n * dyadicDen e) (t : ETy) (rm : RMode) (sat neg : Bool) :
    exp2Round t rm sat neg m e = roundFloat t rm sat (if neg then .rat false 1 (2 ^ n) else .rat false (2 ^ n) 1) := by
  have den := dyadicDen_pos e
  unfold exp2Round
  by_cases zero : m = 0
  · obtain rfl : n = 0 := by
      rw [dyadicNum_eq_zero.2 zero] at value
      exact (Nat.mul_eq_zero.1 value.symm).resolve_right den.ne'
    rw [if_pos zero]
    cases neg <;> rfl
  · have below : dyGe m e 2000 = false := by
      rw [dyGe_eq, value]
      exact decide_eq_false (Nat.not_le.2 (Nat.mul_lt_mul_of_pos_right small den))
    rw [if_neg zero, below]
    unfold dyadicNum dyadicDen at value
    by_cases sign : 0 ≤ e
    · simp only [if_pos sign, Nat.mul_one] at value
      simp [sign, value]
    · simp only [if_neg sign] at value
      simp [sign, value]

/-- The square root of `(r * 2^e)^2`, or its reciprocal, is exact. -/
theorem rootRound_square (t : ETy) (rm : RMode) (sat recip : Bool) (r : Nat) (e : Int) : rootRound t rm sat recip (r * r) (2 * e) =
    roundFloat t rm sat (if recip then .rat false (dyadicDen e) (dyadicNum r e) else (FVal.fin false r e).toX) := by
  unfold rootRound
  simp [Nat.sqrt_eq, ← recip_eq]

theorem log2Round_two_pow (t : ETy) (rm : RMode) (sat : Bool) (k : Nat) (e : Int) :
    log2Round t rm sat (2 ^ k) e = roundFloat t rm sat (.rat (decide ((k : Int) + e < 0)) ((k : Int) + e).natAbs 1) := by
  simp [log2Round, Nat.log2_two_pow]

theorem specFn_exp2_nat {m n : Nat} {e : Int} (small : n < 2000) (value : (m : ℚ) * 2 ^ e = n) (t : ETy) (rm : RMode) (sat neg : Bool) :
    specFn .exp2 t rm sat (.fin neg m e) = roundFloat t rm sat (if neg then .rat false 1 (2 ^ n) else .rat false (2 ^ n) 1) := by
  refine exp2Round_nat small ?_ t rm sat neg
  have exact : (dyadicNum m e : ℚ) = n * dyadicDen e := by rw [← dyadic_value, ← value]; ring
  exact_mod_cast exact

theorem specFn_log2_two_pow (t : ETy) (rm : RMode) (sat : Bool) (k : Nat) (e : Int) :
    specFn .log2 t rm sat (.fin false (2 ^ k) e) = roundFloat t rm sat (.rat (decide ((k : Int) + e < 0)) ((k : Int) + e).natAbs 1) := by
  rw [← log2Round_two_pow]
  exact (if_neg (Nat.two_pow_pos k).ne').trans (if_neg Bool.false_ne_true)

theorem specFn_rcp (t : ETy) (rm : RMode) (sat neg : Bool) {m : Nat} (pos : m ≠ 0) (e : Int) :
    specFn .rcp t rm sat (.fin neg m e) = roundFloat t rm sat (.rat neg (dyadicDen e) (dyadicNum m e)) := by
  rw [← recip_eq]
  exact if_neg pos

theorem specFn_root (t : ETy) (rm : RMode) (sat : Bool) {r : Nat} (pos : 0 < r) (e : Int) :
    specFn .sqrt t rm sat (.fin false (r * r) (2 * e)) = roundFloat t rm sat (FVal.fin false r e).toX ∧
    specFn .rsq t rm sat (.fin false (r * r) (2 * e)) = roundFloat t rm sat (.rat false (dyadicDen e) (dyadicNum r e)) := by
  have square : r * r ≠ 0 := (Nat.mul_pos pos pos).ne'
  constructor
  · exact (if_neg square).trans ((if_neg Bool.false_ne_true).trans (rootRound_square t rm sat false r e))
  · exact (if_neg square).trans ((if_neg Bool.false_ne_true).trans (rootRound_square t rm sat true r e))

/-- Settles O40: the words are vector words over one function of their operands; a merged row by the larger m; the functions' special values by
the branches of the table, the exact ones as fractions of powers of two. -/
theorem functionsAndMerges : Obligations.FunctionsAndMerges := by
  unfold Obligations.FunctionsAndMerges
  intro w t
  refine ⟨fun i fn member => ?special, ?rope, fun s x t1 ready => vsmerge_ends ready, fun x y hx hy => ⟨mergeRow_empty_left hx hy,
    mergeRow_empty_right hx hy, mergeRow_nanRow, fun ex ey lx ly => ?merge⟩, fun rm sat _ => ?values⟩
  case special =>
    simp only [List.mem_cons, List.not_mem_nil, or_false, Prod.mk.injEq] at member
    rcases member with ⟨rfl, rfl⟩ | ⟨rfl, rfl⟩ | ⟨rfl, rfl⟩ | ⟨rfl, rfl⟩ | ⟨rfl, rfl⟩ | ⟨rfl, rfl⟩ | ⟨rfl, rfl⟩ | ⟨rfl, rfl⟩ |
      ⟨rfl, rfl⟩ | ⟨rfl, rfl⟩ <;> exact special_result fun _ => rfl
  case rope =>
    refine vectorResult_of (fun _ apart => differs_ok apart) fun s => ?_
    have even (j : Nat) : j - j % 2 = j / 2 * 2 := by omega
    show execVrope w s = _
    unfold execVrope
    by_cases split : xb w 27 27 = 1
    · simp only [split, beq_self_eq_true, if_true]
      rfl
    · simp only [split, beq_iff_eq, even, if_false]
      rfl
  case merge =>
    obtain ⟨ev, merged⟩ := mergeRow_weighted hx hy ex ey
    obtain ⟨one, notLeft, notRight⟩ := largerScore_spec x.m y.m
    rw [merged]
    refine ⟨one, notLeft, notRight, rfl, by simp [lx, ly], fun j hj => ?_⟩
    exact getD_zipWith_bits (by omega) (by omega)
  case values =>
    intro f rd
    refine ⟨fun _ => rfl, ?posInf, ?posInfToZero, ?posInfToOne, ?negInfToZero, ?negInfToNegZero, ?negInfToNaN, rfl, fun neg e => ?zero,
      fun m e pos => ?negative, fun neg m e pos => ?rcp, fun neg m e n small value => specFn_exp2_nat small value t rm sat neg,
      specFn_log2_two_pow t rm sat, fun r e pos => ?roots⟩
    case posInf | posInfToZero | posInfToOne | negInfToZero | negInfToNegZero | negInfToNaN => simp [f, rd, specFn]
    case zero => simp [f, rd, specFn, exp2Round, expRound, sigmRound, tanhRound, siluRound, geluRound]
    case negative => simp [f, rd, specFn, pos]
    case rcp =>
      exact ⟨dyadicDen e, dyadicNum m e, Nat.pos_of_ne_zero (dyadicNum_eq_zero.not.2 pos), specFn_rcp t rm sat neg pos e, dyadic_value m e⟩
    case roots =>
      obtain ⟨sqrt, rsq⟩ := specFn_root t rm sat pos e
      exact ⟨sqrt, dyadicDen e, dyadicNum r e, Nat.pos_of_ne_zero (dyadicNum_eq_zero.not.2 pos.ne'), rsq, dyadic_value r e⟩

end Sys2Proof.Proofs
end

section
/-!
PROOFS. Attention: acceptance, the pages, the write of the group (R126, R277 to R280, R314).
-/

namespace Sys2Proof.Proofs
open Sys2Proof Sys2Proof.Machine

/-! ### A die that changes -/

theorem die_updDie {s : State} {d : Nat} (there : d < s.dies.length) (f : Die → Die) : (s.updDie d f).die d = f (s.die d) := by
  unfold State.die
  rw [State.updDie_dies, List.getD_eq_getElem?_getD, List.getElem?_set_self there]
  rfl

/-- What a function reads of each die. -/
def dieView {α : Type} (g : Die → α) (s : State) : List α := s.dies.map g

theorem length_of_dieView {α : Type} {g : Die → α} {s t : State} (h : dieView g t = dieView g s) : t.dies.length = s.dies.length := by
  simpa [dieView] using congrArg List.length h

/-! ### What the device's own writes keep of a die

A write reaches one die's Pan queue; whatever else of a die a function reads, it reads the same after a write, a record, a row's opening or the
count of an event (R300, R323, R331, R338). -/

section
variable {α : Type} {g : Die → α}

theorem dieView_ite {c : Prop} [Decidable c] {s t u : State} (ht : dieView g t = dieView g s) (hu : dieView g u = dieView g s) :
    dieView g (if c then t else u) = dieView g s := ite_both (P := fun x => dieView g x = dieView g s) ht hu

variable (keeps : ∀ (d : Die) (q : List (Nat × List Byte)), g { d with panq := q } = g d)
include keeps

theorem dieView_writeMem (s : State) (key : Nat) (bs : List Byte) : dieView g (s.writeMem key bs) = dieView g s :=
  dieView_ite rfl (dieView_ite ((dies_map_updDie (keeps ..)).trans rfl) rfl)

theorem dieView_postRecord (s : State) (node : Nat) (r : FRec) : dieView g (s.postRecord node r) = dieView g s := by
  have signalled (t : State) (v : Nat) : dieView g (t.msix v) = dieView g t := rfl
  refine dieView_ite rfl ?_
  unfold State.writeRecord
  extract_lets fq rseq s1 base size head tail v vec s2
  have written : dieView g s2 = dieView g s1 :=
    dieView_ite (dieView_writeMem keeps ..) ((dieView_writeMem keeps ..).trans (dieView_writeMem keeps ..))
  have start : dieView g s1 = dieView g s := rfl
  exact dieView_ite start ((signalled s2 vec).trans (written.trans start))

theorem dieView_touchRow (s : State) (key : Nat) : dieView g (s.touchRow key) = dieView g s := by
  have alert (t : State) (r : Nat) : dieView g (t.rowAlert key r) = dieView g t :=
    dieView_ite (dieView_ite rfl (dieView_postRecord keeps ..)) rfl
  exact dieView_ite (dieView_ite rfl rfl) (dieView_ite rfl (dieView_ite rfl (dieView_ite (alert ..) rfl)))

theorem dieView_touchRows (s : State) (l : List Nat) : dieView g (s.touchRows l) = dieView g s := by
  induction l generalizing s with
  | nil => rfl
  | cons k l ih => exact (ih _).trans (dieView_touchRow keeps ..)

theorem dieView_writeVa (s : State) (l : Launch) (va : Nat) (bs : List Byte) : dieView g (s.writeVa l va bs) = dieView g s := by
  unfold State.writeVa
  generalize s.launchPtb l = ptb
  generalize splitAt64K va bs = runs
  induction runs generalizing s with
  | nil => rfl
  | cons x r ih =>
    refine (ih _).trans ?_
    dsimp only
    split
    · rfl
    · split
      · exact dieView_ite rfl (dieView_writeMem keeps ..)
      · exact dieView_postRecord keeps ..
      · rfl

theorem dieView_countEvent (s : State) (c : Core) (k : Strm) (n : Nat) : dieView g (s.countEvent c k n) = dieView g s := by
  unfold State.countEvent
  split
  · rfl
  · extract_lets v thr cross l1 s1 up s2
    have signalled (t : State) : dieView g (t.msixAfter 2) = dieView g t := dieView_ite rfl rfl
    exact dieView_ite rfl (dieView_ite rfl ((signalled _).trans (dieView_writeVa keeps s2 ..)))

theorem dieView_countEvents (s : State) (c : Core) (k : Strm) (l : List Nat) : dieView g (s.countEvents c k l) = dieView g s := by
  induction l generalizing s with
  | nil => rfl
  | cons n l ih => exact (ih _).trans (dieView_countEvent keeps ..)

end

@[simp] theorem endOp_dies (s : State) (r : Option TokRef) (e : Option FaultInfo) : (s.endOp r e).dies = s.dies := by
  obtain ⟨_, _, _, _, _, frame⟩ := endOp_frame s r e
  rw [frame]

@[simp] theorem raiseEvent_dies (s : State) (l j : Nat) (k : Strm) (e : Event) : (s.raiseEvent l j k e).dies = s.dies := State.updJob_dies ..

theorem countEvents_vregs (s : State) (c : Core) (k : Strm) (l : List Nat) : (s.countEvents c k l).core.vregs = s.core.vregs := by
  induction l generalizing s with
  | nil => rfl
  | cons n r ih =>
    refine (ih _).trans ?_
    rcases countEvent_core s c k n with e | e <;> rw [e]
    rfl

/-! ### An attention word in its engine's list -/

/-- The attention word of a number on a die. -/
def attnAt (s : State) (die id : Nat) : Option Attn := (s.die die).attns.find? fun x => x.id == id

theorem attnAt_of_attns {s t : State} (h : dieView Die.attns t = dieView Die.attns s) (die id : Nat) : attnAt t die id = attnAt s die id := by
  rw [attnAt, attnAt, die_of_dies_map h]

theorem attnAt_of_dies {s t : State} (h : t.dies = s.dies) (die id : Nat) : attnAt t die id = attnAt s die id := attnAt_of_attns (congrArg (List.map _) h) die id

/-- A change that keeps the numbers is found where the word stood. -/
theorem find?_map_id {f : Attn → Attn} {id : Nat} (keeps : ∀ a, (f a).id = a.id) (l : List Attn) :
    (l.map fun a => if a.id = id then f a else a).find? (fun x => x.id == id) = (l.find? fun x => x.id == id).map f := by
  induction l with
  | nil => rfl
  | cons a l ih =>
    by_cases here : a.id = id
    · simp [here, keeps]
    · simpa [here] using ih

theorem attnAt_updAttn {s : State} {die id : Nat} {a : Attn} {f : Attn → Attn} (there : die < s.dies.length) (found : attnAt s die id = some a)
    (keeps : ∀ a, (f a).id = a.id) : attnAt (s.updAttn die id f) die id = some (f a) := by
  unfold attnAt at found ⊢
  rw [State.updAttn, die_updDie there, find?_map_id keeps, found]
  rfl

theorem attnAt_endAttn {s : State} {die : Nat} (there : die < s.dies.length) (a : Attn) (err : Option FaultInfo) :
    attnAt (s.endAttn die a err) die a.id = none := by
  rw [State.endAttn, attnAt_of_dies (endOp_dies ..), attnAt, die_updDie there]
  simp [List.find?_eq_none]

/-! ### Acceptance (R277) -/

/-- A context that is there needs no room in the map, and no image is read for it. -/
theorem mapFull_hot {c : Ctx} (hot : c.hot = true) (s : State) : s.mapFull [c] = false := by simp [State.mapFull, hot]

theorem swapIn_hot {c : Ctx} (hot : c.hot = true) (s : State) : s.swapIn [c] true = .ok (s.updC fun k => k.count 6 0) := by
  simp [State.swapIn, hot, State.readGate, State.gate, State.touchRows]

theorem areaOk_mapped {c : Ctx} {grs : List Nat} (mapped : ∀ n ∈ grs, (Sparse.get c.amap n).v = true) : c.areaOk grs = .ok () := by
  have none : grs.find? (fun i => !(Sparse.get c.amap i).v) = none := List.find?_eq_none.2 fun n hn => by simp [mapped n hn]
  rw [Ctx.areaOk, none]

/-- Operands within their limits, on a context that is there with its granules mapped and backed (R121, R123, R137, R141, R277). -/
theorem attnCtx_ok {s : State} {c : Ctx} {h page grp count bytes : Nat} {multi : Bool} (named : s.acceptCtx h = .ok c) (hot : c.hot = true)
    (cleared : c.clearing = false) (copied : c.copying = false) (group : grp < c.g) (pages : page + count ≤ 2 ^ c.k) (cells : c.cellBytes = bytes)
    (one : multi = false → count = 1) (mapped : c.unmapped page count grp = none) (backed : c.unbacked page count grp = false)
    (area : ∀ n ∈ c.headGrs ++ c.nodeGrs (64 * page * c.gp) (64 * count * c.gp), (Sparse.get c.amap n).v = true) :
    s.attnCtx h multi page grp count bytes = .ok c := by
  have limits : (decide (grp ≥ c.g) || decide (page + count > 2 ^ c.k) || c.cellBytes != bytes || (!multi && count != 1)) = false := by
    cases multi
    · obtain rfl := one rfl
      simpa [group, cells] using pages
    · simp [group, pages, cells]
  unfold State.attnCtx
  simp only [named, cleared, copied, limits, mapFull_hot hot, mapped, backed, Ctx.nodeIx, Nat.add_zero, areaOk_mapped area, Bool.not_false, Bool.and_self,
    waitUnless_true, trapIf_false, res_ok_bind]

/-- A word joins its token where a batch has room (R40, R96). -/
theorem joinWord_room {s : State} {n : Nat} {opn : Bool} (room : (s.strm.token n).room opn = true) :
    ∃ r t, s.joinWord true n opn = .ok (some r, t) ∧ r.strm = s.cur ∧ r.tok = n ∧ AtIssue s t :=
  ⟨(s.joinTok n opn).1, (s.joinTok n opn).2, by simp [State.joinWord, room, State.joinIf], rfl, rfl, atIssue_joinIf s true n opn⟩

/-- The entry that an accepted word adds to its engine's list (R277). -/
def attnEntry (s : State) (w : Wt) (multi : Bool) (x : VIn) (c : Ctx) (id : Nat) (tok : Option TokRef) : Attn :=
  { id := id, ctx := c.num, lrec := s.core.lrec, job := s.core.job.toNat, multi := multi, kt := w.et.toNat, qt := xb w 27 24
    q := x.a.images.getD 0 [], q0 := x.b.word.toNat / 2 ^ 32, page := bitsOf x.c.word.toNat 19 0, grp := bitsOf x.c.word.toNat 25 20
    count := bitsOf x.c.word.toNat 31 26 + 1, scale := x.c.word.toNat / 2 ^ 32, h := c.h, ww := c.ww, regs := s.physRange w.d.toNat 4, pred := x.p
    eve := multi && xb w 19 19 == 1, strm := s.cur, shd := s.keepsBits, next := 0, rows := List.replicate 16 emptyRow, done := 0, miss := 0
    tok := tok, blocked := [] }

/-- The entry at the end of its die's list. -/
def addAttn (s : State) (die : Nat) (a : Attn) : State :=
  (s.fresh.2.updDie die fun d => { d with attns := d.attns ++ [a] }).updC fun k => k.useBanks a.regs

theorem addAttn_attns {s : State} {die : Nat} (there : die < s.dies.length) (a : Attn) :
    ((addAttn s die a).die die).attns = (s.die die).attns ++ [a] := by
  have listed := die_updDie (s := s.fresh.2) there fun d => { d with attns := d.attns ++ [a] }
  exact (congrArg Die.attns listed :)

/-- Adding an entry changes no data and no scalar. -/
theorem addAttn_sameData (s : State) (die : Nat) (a : Attn) : s.sameData (addAttn s die a) ∧ s.sameScalars (addAttn s die a) :=
  ⟨⟨rfl, rfl, rfl, rfl, rfl, rfl, rfl, rfl, rfl, rfl⟩, fun k => by cases k <;> rfl⟩

section
variable {w : Wt} {s u : State} {x : VIn} {c : Ctx} {multi : Bool} (read : s.vread (shAttn w multi) = .ok (x, u))

/-- The state in which a word of operands read to `u` has been accepted. -/
def acceptedIn (s u : State) : State := (u.updDie s.core.did fun d => d.accepts .orrery (s.now + 1)).updC fun k => k.count 6 0

include read

/-- A word accepted within its limits, whose token has room for a batch, ends with its entry in the list (R277, R286). -/
theorem attnWord_accepted {sent : Nat} (legal : s.legal (shAttn w multi)) (shadow : s.shadow (shAttn w multi) = .ok ())
    (sentAt : s.strm.sent = some sent) (may : s.mayAccept .orrery sent = true)
    (ctx : (u.updDie s.core.did fun d => d.accepts .orrery (s.now + 1)).attnCtx (x.b.word.toNat % 2 ^ 32) multi (bitsOf x.c.word.toNat 19 0)
      (bitsOf x.c.word.toNat 25 20) (bitsOf x.c.word.toNat 31 26 + 1) (16 * (etOf w).width) = .ok c) (hot : c.hot = true)
    {tok : Option TokRef} {y : State} (joined : (acceptedIn s u).joinWord true (xb w 22 20) false = .ok (tok, y)) :
    s.attnWord w multi = .ok ((addAttn y s.core.did (attnEntry s w multi x c y.ids tok)).retire 1) := by
  obtain ⟨static, await⟩ := legal
  unfold acceptedIn at joined
  unfold State.attnWord State.accept
  simp only [static, read, await, sentAt, may, ctx, swapIn_hot hot, joined, shadow, res_ok_bind, if_true]
  rfl

theorem strm_accepted : (acceptedIn s u).strm = s.strm := by
  obtain ⟨_, _, rfl⟩ := vread_frame read
  show Core.strm _ s.cur = Core.strm _ s.cur
  cases s.cur <;> rfl

/-- What acceptance leaves alone: data and scalars, and the lists of the engines. -/
theorem accepted_frame {y : State} (issue : AtIssue (acceptedIn s u) y) :
    (s.sameData y ∧ s.sameScalars y) ∧ y.dies = (s.updDie s.core.did fun d => d.accepts .orrery (s.now + 1)).dies := by
  obtain ⟨_, _, rfl⟩ := vread_frame read
  obtain ⟨_, _, _, _, _, _, _, _, _, rfl⟩ := issue
  exact ⟨⟨⟨rfl, rfl, rfl, rfl, rfl, rfl, rfl, rfl, rfl, rfl⟩, fun k => by cases k <;> rfl⟩, rfl⟩

/-- An accepted word's entry stands in the list; data and scalars are as before. -/
theorem addAttn_frame (there : s.core.did < s.dies.length) {y : State} (issue : AtIssue (acceptedIn s u) y) (a : Attn) :
    let v := addAttn y s.core.did a
    s.sameData v ∧ s.sameScalars v ∧ (v.die s.core.did).attns = (s.die s.core.did).attns ++ [a] := by
  obtain ⟨⟨data, scalars⟩, dies⟩ := accepted_frame read issue
  obtain ⟨data', scalars'⟩ := addAttn_sameData y s.core.did a
  refine ⟨sameData_trans data data', fun k => (scalars' k).trans (scalars k), ?_⟩
  have attns : (y.die s.core.did).attns = (s.die s.core.did).attns := by
    have accepted := die_updDie there fun d => d.accepts .orrery (s.now + 1)
    rw [State.die, dies]
    exact (congrArg Die.attns accepted :)
  rw [addAttn_attns (by rw [dies]; simpa using there), attns]

end

/-! ### Visible entries (R126, R127) -/

theorem visibleAt_iff (pos q h : Nat) (n : Node) (ww : Option Nat) : visibleAt pos q n h ww = true ↔
    n.tag = pos ∧ pos ≤ q ∧ (∃ p, ww = some p ∧ pos ≤ p) ∧ q < n.e ∧ h < n.e ∧ q ≤ 0xFFFFFFFE := by
  have written : ((pos : Int) ≤ wwInt ww) ↔ ∃ p, ww = some p ∧ pos ≤ p := by
    cases ww with
    | none => simp [wwInt]; omega
    | some p => simp [wwInt]
  simp [visibleAt, written, and_assoc]

/-! ### The pages (R278 to R280) -/

/-- Keys at which nothing holds an access back let a read go. -/
theorem gate_go {s : State} {keys : List Nat} (flow : ∀ k ∈ keys, s.flows k) : s.gate keys [] = .go := by
  have none {p : Nat → Bool} (no : ∀ k ∈ keys, p k = false) : keys.any p = false := List.any_eq_false.2 fun k hk => by simp [no k hk]
  have link := none fun k hk => have ⟨down, _⟩ := flow k hk; down
  have stripe := none fun k hk => have ⟨_, _, busy, _⟩ := flow k hk; busy
  have bank := none fun k hk => have ⟨_, _, _, off⟩ := flow k hk; off
  simp [State.gate, link, stripe, bank]

section
variable {s : State} {die : Nat} {a : Attn} {c : Ctx} (found : attnAt s die a.id = some a) (ctx : (s.die die).ctx a.ctx = some c)
  (left : a.next < a.count)
include found ctx left

/-- A page with a granule outside HBM is a miss (R279, R280). -/
theorem attnStep_misses (multi : a.multi = true) (out : ∃ gr ∈ c.pageGranules (a.page + a.next), (c.pageEnt (a.page + a.next) gr).tier ≠ 0) :
    s.attnStep die a.id = (s.updAttn die a.id fun x => { x with next := x.next + 1, miss := x.miss + 2 ^ x.next }).updJob a.lrec a.job
      fun k => k.count 7 1 := by
  have outside : ((c.pageGranules (a.page + a.next)).any fun gr => (c.pageEnt (a.page + a.next) gr).tier != 0) = true := by simpa using out
  unfold attnAt at found
  unfold State.attnStep
  simp only [found, ctx, Nat.not_le.2 left, if_false, multi, outside, Bool.and_self, if_true]

/-- The triple of a page whose data may be read is folded into the rows (R278). -/
theorem attnStep_folds (inside : a.multi = true → ∀ gr ∈ c.pageGranules (a.page + a.next), (c.pageEnt (a.page + a.next) gr).tier = 0)
    (free : ∀ k, s.jobCore a.lrec a.job = some k → k.mbusy ≤ (s.die die).cyc)
    (sound : s.pageError c (c.runKeys (a.page + a.next) a.grp) a.grp (a.page + a.next) (s.attnCells c a (a.page + a.next)) = none)
    (flow : ∀ k ∈ c.runKeys (a.page + a.next) a.grp, s.flows k) :
    s.attnStep die a.id = ((s.touchRows (c.runKeys (a.page + a.next) a.grp)).updJob a.lrec a.job
      fun k => { k.count 3 16 with mbusy := (s.die die).cyc + 16 }).updAttn die a.id fun y =>
        { y with next := y.next + 1, rows := List.zipWith mergeRow y.rows (attnPage a (s.attnCells c a (a.page + a.next))), blocked := [] } := by
  have hit : (a.multi && (c.pageGranules (a.page + a.next)).any fun gr => (c.pageEnt (a.page + a.next) gr).tier != 0) = false := by
    simpa using inside
  have idle : ((s.jobCore a.lrec a.job).map fun k => decide (k.mbusy > (s.die die).cyc)).getD false = false := by
    cases job : s.jobCore a.lrec a.job with
    | none => rfl
    | some k => simpa using free k job
  unfold attnAt at found
  unfold State.attnStep
  simp only [found, ctx, Nat.not_le.2 left, if_false, hit, idle, sound, gate_go flow, Bool.false_eq_true]

end

/-! ### The write of the group (R45, R277, R279) -/

/-- The next row of the four registers written, with its events. -/
def rowWritten (s : State) (a : Attn) : State :=
  let s1 := s.updJob a.lrec a.job fun k => applyParts k (imageParts (rowPred a.pred a.done) a.regs
    (tripleImages a.rows (a.miss % 2 ^ 32) (a.miss / 2 ^ 32)))
  match s.jobCore a.lrec a.job with
  | some k => s1.countEvents k .m (tripleEvents (rowPred a.pred a.done) a.done (a.rows.getD a.done default).ev)
  | none => s1

theorem attns_rowWritten (s : State) (a : Attn) : dieView Die.attns (rowWritten s a) = dieView Die.attns s := by
  have job (f : Core → Core) : dieView Die.attns (s.updJob a.lrec a.job f) = dieView Die.attns s := congrArg (List.map _) (State.updJob_dies ..)
  unfold rowWritten
  split
  · exact (dieView_countEvents (fun _ _ => rfl) ..).trans (job _)
  · exact job _

/-- On the core under view the row is in its registers. -/
theorem rowWritten_vregs {s : State} {a : Attn} (holds : s.core.holds a.lrec a.job = true) :
    (rowWritten s a).core.vregs = (applyParts s.core (imageParts (rowPred a.pred a.done) a.regs
      (tripleImages a.rows (a.miss % 2 ^ 32) (a.miss / 2 ^ 32)))).vregs := by
  unfold rowWritten State.updJob
  rw [if_pos holds]
  split
  · exact countEvents_vregs ..
  · rfl

section
variable {s : State} {die : Nat} {a : Attn} (found : attnAt s die a.id = some a) (folded : a.count ≤ a.next)
include found folded

/-- A row before the last: the word stands, one row further. -/
theorem attnDone_row (more : a.done < 15) :
    s.attnDone die a.id = (rowWritten s a).updAttn die a.id fun x => { x with done := a.done + 1 } := by
  unfold attnAt at found
  unfold State.attnDone
  simp only [found, Nat.not_lt.2 folded, if_false, more, if_true]
  rfl

/-- The last row: the word ends, and with a miss its event may be raised. -/
theorem attnDone_last (last : 15 ≤ a.done) : s.attnDone die a.id =
    let t := (rowWritten s a).endAttn die a none
    if a.eve && a.miss != 0 then t.raiseEvent a.lrec a.job .a { cause := 2, sub := 0, info := BitVec.ofNat 64 a.miss } else t := by
  unfold attnAt at found
  unfold State.attnDone
  simp only [found, Nat.not_lt.2 folded, if_false, Nat.not_lt.2 last]
  rfl

end

/-- The end of a word and an event of its job change no register. -/
theorem endAttn_vregs (s : State) (die : Nat) (a : Attn) (err : Option FaultInfo) : (s.endAttn die a err).core.vregs = s.core.vregs := by
  rw [State.endAttn]
  obtain ⟨_, _, _, _, _, frame⟩ := endOp_frame (s.updDie die fun d => { d with attns := d.attns.filter fun x => x.id != a.id }) a.tok err
  rw [frame]
  rfl

theorem raiseEvent_vregs (s : State) (l j : Nat) (k : Strm) (e : Event) : (s.raiseEvent l j k e).core.vregs = s.core.vregs := by
  unfold State.raiseEvent State.updJob
  split
  · exact Core.setStrm_vregs ..
  · rfl

/-- Settles O51: an accepted word adds its entry; each page is a miss or is folded; each row of the group is written, and the last one ends the word. -/
theorem attention : Obligations.Attention := by
  unfold Obligations.Attention
  refine ⟨?accepted, visibleAt_iff, ?empty, fun s die a c there found ctx => ⟨?page, ?miss, ?done⟩⟩
  case accepted =>
    intro w s u x c sent i multi member b cw page grp count t legal read shadow sentAt may named hot cleared copied group pages cells one mapped backed
      area room there
    have meaning : exec i s = outcome s (s.attnWord w multi) := by
      simp only [List.mem_cons, List.not_mem_nil, or_false, Prod.mk.injEq] at member
      rcases member with ⟨rfl, rfl⟩ | ⟨rfl, rfl⟩ <;> rfl
    have pageField : bitsOf cw 19 0 = page := by simp [bitsOf, page]
    have ctx := attnCtx_ok named hot cleared copied group pages cells one mapped backed area
    obtain ⟨r, y, joined, strm, tok, issue⟩ := joinWord_room (s := acceptedIn s u) (n := xb w 22 20) (opn := false) (by rwa [strm_accepted read])
    have run := attnWord_accepted read legal shadow sentAt may (by rw [pageField]; exact ctx) hot joined
    obtain ⟨data, scalars, attns⟩ := addAttn_frame read there issue (attnEntry s w multi x c y.ids (some r))
    have cur : (acceptedIn s u).cur = s.cur := by
      obtain ⟨_, _, rfl⟩ := vread_frame read
      rfl
    exact ⟨_, by rw [meaning, run, outcome_ok], data, scalars, _, r, attns, rfl, pageField, rfl, rfl, rfl, rfl, rfl, rfl, rfl, rfl, rfl, rfl, rfl,
      strm.trans cur, tok⟩
  case empty =>
    intro scale q notNaN
    simp [attnRow, notNaN]
  case page =>
    intro left inside free sound flow
    refine ⟨_, congrArg Host.Outcome.next (attnStep_folds found ctx left inside free sound flow), ?_⟩
    have lists : dieView Die.attns (s.touchRows (c.runKeys (a.page + a.next) a.grp)) = dieView Die.attns s :=
      dieView_touchRows (fun _ _ => rfl) ..
    refine ⟨_, attnAt_updAttn (by rwa [State.updJob_dies, length_of_dieView lists]) ?_ fun _ => rfl, rfl, rfl, rfl⟩
    rw [attnAt_of_dies (State.updJob_dies ..), attnAt_of_attns lists]
    exact found
  case miss =>
    intro left multi out
    refine ⟨_, congrArg Host.Outcome.next (attnStep_misses found ctx left multi out), ?_⟩
    exact ⟨_, (attnAt_of_dies (State.updJob_dies ..) die a.id).trans (attnAt_updAttn there found fun _ => rfl), rfl, rfl, rfl⟩
  case done =>
    intro folded holds
    have lists := attns_rowWritten s a
    have there' : die < (rowWritten s a).dies.length := by rwa [length_of_dieView lists]
    have found' : attnAt (rowWritten s a) die a.id = some a := (attnAt_of_attns lists ..).trans found
    by_cases more : a.done < 15
    · exact ⟨_, congrArg Host.Outcome.next (attnDone_row found folded more),
        fun _ => ⟨_, attnAt_updAttn there' found' fun _ => rfl, rfl, rfl⟩, fun last => absurd more (by omega), rowWritten_vregs holds⟩
    · refine ⟨_, congrArg Host.Outcome.next (attnDone_last found folded (by omega)), fun less => absurd less more, fun _ => ?_, ?_⟩
      · dsimp only
        split
        · exact (attnAt_of_dies (raiseEvent_dies ..) die a.id).trans (attnAt_endAttn there' a none)
        · exact attnAt_endAttn there' a none
      · rw [← rowWritten_vregs holds, ← endAttn_vregs (rowWritten s a) die a none]
        dsimp only
        split
        · exact raiseEvent_vregs ..
        · rfl

end Sys2Proof.Proofs
end

section
/-!
PROOFS. The Sluice's own steps: matching, permits, arrivals, replays, failures, closing (R151 to R155, R158, R160).
-/

namespace Sys2Proof.Proofs
open Sys2Proof Sys2Proof.Machine

/-! ### An end in its die's list (R150) -/

theorem chEnd_num {d : Die} {n : Nat} {e : ChEnd} (h : d.chEnd n = some e) : e.num = n := by simpa using List.find?_some h

/-- Only a die of the device has ends. -/
theorem lt_of_chEnd {s : State} {d n : Nat} {e : ChEnd} (h : (s.die d).chEnd n = some e) : d < s.dies.length := by
  refine Nat.lt_of_not_le fun out => ?_
  rw [State.die, List.getD_eq_default _ _ out] at h
  nomatch h

theorem die_updDie_other {s : State} {d k : Nat} (h : k ≠ d) (f : Die → Die) : (s.updDie d f).die k = s.die k := by
  simp [State.die, List.getD_eq_getElem?_getD, h.symm]

theorem die_of_dies {s t : State} (h : t.dies = s.dies) (d : Nat) : t.die d = s.die d := by rw [State.die, h, State.die]

@[simp] theorem die_endOp (s : State) (r : Option TokRef) (e : Option FaultInfo) (d : Nat) : (s.endOp r e).die d = s.die d :=
  die_of_dies (endOp_dies ..) d

/-- Where the lists of ends are kept, so is each end. -/
theorem chEnd_of_ends {s t : State} (h : dieView Die.ends t = dieView Die.ends s) (d n : Nat) : (t.die d).chEnd n = (s.die d).chEnd n := by
  rw [Die.chEnd, Die.chEnd, die_of_dies_map h]

@[simp] theorem updEnd_length (s : State) (d n : Nat) (f : ChEnd → ChEnd) : (s.updEnd d n f).dies.length = s.dies.length := by
  simp [State.updEnd]

/-- A change that keeps the numbers is found where the end stood, and finds every other end as it was. -/
theorem find?_map_num {f : ChEnd → ChEnd} (keeps : ∀ e, (f e).num = e.num) (l : List ChEnd) (n m : Nat) :
    (l.map fun e => if e.num = n then f e else e).find? (fun e => e.num == m) =
      if m = n then (l.find? fun e => e.num == m).map f else l.find? fun e => e.num == m := by
  have named : (fun e : ChEnd => e.num == m) ∘ (fun e => if e.num = n then f e else e) = fun e => e.num == m := by
    funext e
    by_cases here : e.num = n <;> simp [here, keeps]
  rw [List.find?_map, named]
  cases found : l.find? fun e => e.num == m with
  | none => simp
  | some e =>
    have number : e.num = m := by simpa using List.find?_some found
    by_cases same : m = n <;> simp [number, same]

/-- What each end is after one has changed. -/
theorem chEnd_updEnd (s : State) {f : ChEnd → ChEnd} (keeps : ∀ e, (f e).num = e.num) (d n k m : Nat) :
    ((s.updEnd d n f).die k).chEnd m = if k = d ∧ m = n then ((s.die k).chEnd m).map f else (s.die k).chEnd m := by
  by_cases die : k = d
  · subst die
    by_cases there : k < s.dies.length
    · rw [State.updEnd, die_updDie there]
      simp only [true_and]
      exact find?_map_num keeps (s.die k).ends n m
    · have absent (t : State) (out : ¬ k < t.dies.length) : (t.die k).chEnd m = none := by
        rw [State.die, List.getD_eq_default _ _ (Nat.le_of_not_lt out)]
        rfl
      rw [absent _ there, absent _ (by simpa using there)]
      simp
  · rw [if_neg fun h => die h.1, State.updEnd, die_updDie_other die]

/-- A changed end. -/
theorem chEnd_updEnd_self {s : State} {d n : Nat} {f : ChEnd → ChEnd} {e : ChEnd} (found : (s.die d).chEnd n = some e)
    (keeps : ∀ e, (f e).num = e.num := by exact fun _ => rfl) : ((s.updEnd d n f).die d).chEnd n = some (f e) := by
  rw [chEnd_updEnd s keeps, if_pos ⟨rfl, rfl⟩, found, Option.map_some]

/-! ### An end and one on another die (R150, R151) -/

/-- Ends `x` and `y` stand under their numbers on two dies. -/
def EndsAre (die num peer n : Nat) (x y : ChEnd) (t : State) : Prop := (t.die die).chEnd num = some x ∧ (t.die peer).chEnd n = some y

section
variable {s t : State} {die num peer n : Nat} {x y : ChEnd} {f : ChEnd → ChEnd} (apart : peer ≠ die)

theorem endsAre_endOp (h : EndsAre die num peer n x y s) (r : Option TokRef) (err : Option FaultInfo) :
    EndsAre die num peer n x y (s.endOp r err) := by
  rwa [EndsAre, die_endOp, die_endOp]

theorem endsAre_of_ends (same : dieView Die.ends t = dieView Die.ends s) (h : EndsAre die num peer n x y s) : EndsAre die num peer n x y t := by
  rwa [EndsAre, chEnd_of_ends same, chEnd_of_ends same]

include apart

theorem endsAre_updMine (h : EndsAre die num peer n x y s) (keeps : ∀ e, (f e).num = e.num := by exact fun _ => rfl) :
    EndsAre die num peer n (f x) y (s.updEnd die num f) := by
  obtain ⟨mine, other⟩ := h
  exact ⟨chEnd_updEnd_self mine keeps, by rwa [chEnd_updEnd s keeps, if_neg fun e => apart e.1]⟩

theorem endsAre_updOther (h : EndsAre die num peer n x y s) (keeps : ∀ e, (f e).num = e.num := by exact fun _ => rfl) :
    EndsAre die num peer n x (f y) (s.updEnd peer n f) := by
  obtain ⟨mine, other⟩ := h
  exact ⟨by rwa [chEnd_updEnd s keeps, if_neg fun e => apart e.1.symm], chEnd_updEnd_self other keeps⟩

end

/-- A matched end's partner stands on the peer's die, under its own number. -/
theorem endsAre_partner {s : State} {die num : Nat} {e p : ChEnd} (mine : (s.die die).chEnd num = some e) (matched : s.partner e = some p) :
    EndsAre die num e.peer p.num e p s := by
  refine ⟨mine, ?_⟩
  unfold State.partner at matched
  split at matched
  · nomatch matched
  · rwa [chEnd_num matched]

/-! ### Matching (R151) -/

/-- What the Sluice matches next is opening and not mismatched. -/
theorem nextOpen_opening {d : Die} {peer key role : Nat} {e : ChEnd} (h : d.nextOpen peer key role = some e) :
    e.st = .opening ∧ e.mismatch = false := by
  unfold Die.nextOpen at h
  dsimp only at h
  split at h
  · nomatch h
  · rename_i unmatched
    simp only [Bool.not_eq_true, List.any_eq_false] at unmatched
    simpa using unmatched e (List.mem_of_find?_eq_some h)

/-- An end after its match with end `n` of its peer, by whether the two differ in `t`. -/
def matchedEnd (bad : Bool) (n : Nat) (z : ChEnd) : ChEnd :=
  { z with st := if bad then .opening else .opened, mismatch := bad, openTok := none, peerEnd := if bad then none else some n }

theorem matchEnds_matches {s : State} {die num : Nat} {e y : ChEnd} (mine : (s.die die).chEnd num = some e)
    (next : (s.die die).nextOpen e.peer e.key e.role = some e) (next' : (s.die e.peer).nextOpen die e.key (1 - e.role) = some y) :
    s.matchEnds die num = (((s.updEnd die num (matchedEnd (e.t != y.t) y.num)).updEnd e.peer y.num (matchedEnd (e.t != y.t) num)).endOp
      e.openTok none).endOp y.openTok none := by
  unfold State.matchEnds
  simp only [mine, next, next', chEnd_num mine, ne_eq, not_true_eq_false, if_false]
  rfl

/-- Of equal `t` an opening end is open; of unequal `t` it is mismatched. -/
theorem matchedEnd_opened {e : ChEnd} (opening : e.st = .opening ∧ e.mismatch = false) (n : Nat) :
    matchedEnd false n e = { e with st := .opened, openTok := none, peerEnd := some n } := by
  simp [matchedEnd, ← opening.2]

theorem matchedEnd_mismatched {e : ChEnd} (opening : e.st = .opening ∧ e.mismatch = false) (n : Nat) :
    matchedEnd true n e = { e with mismatch := true, openTok := none, peerEnd := none } := by
  simp [matchedEnd, ← opening.1]

/-! ### Permits (R154) -/

section
variable {s : State} {die num : Nat} {e p : ChEnd} {g : HeldGrant} {r : List HeldGrant} (mine : (s.die die).chEnd num = some e)
  (held : e.held = g :: r) (matched : s.partner e = some p)
include mine held matched

theorem permitArrive_waits (reads : g.clear s (s.jobCore e.lrec e.job) = false) : s.permitArrive die num = s := by
  unfold State.permitArrive
  simp only [mine, held, matched, reads, Bool.not_false, Bool.or_true, if_true]

theorem permitArrive_arrives (receiver : e.role = 1) (reads : g.clear s (s.jobCore e.lrec e.job) = true) :
    s.permitArrive die num = (s.updEnd die num fun x => { x with held := r }).updEnd e.peer p.num fun x =>
      { x with permits := x.permits + g.n } := by
  unfold State.permitArrive
  simp [mine, held, matched, reads, receiver]

end

/-! ### The Rake's commands, wherever they are (R95, R155) -/

/-- The commands in every core's queue, and those of ended jobs. -/
def copies (s : State) : List Copy := s.allCores.flatMap (·.rake) ++ s.orphans

theorem sends_eq (s : State) (die num : Nat) :
    s.sends die num = (copies s).filter fun k => k.die == die && k.send.any fun x => x.num == num := rfl

theorem mem_sends {s : State} {die num : Nat} {k : Copy} :
    k ∈ s.sends die num ↔ k ∈ copies s ∧ k.die = die ∧ ∃ x, k.send = some x ∧ x.num = num := by
  simp [sends_eq, Option.any_eq_true]

/-- Changing the core under view, the parked ones and those of saved gangs by one function changes every core by it. -/
theorem allCores_map (s : State) (g : Core → Core) (l : List Copy) :
    ({ s with core := g s.core, parked := s.parked.map g, orphans := l
              saved := s.saved.map fun (v : SavedGang) => { v with cores := v.cores.map g } } : State).allCores = s.allCores.map g := by
  simp [State.allCores, List.flatMap_map, List.map_flatMap]

theorem copies_putCopy (s : State) (id : Nat) (k : Option Copy) : copies (s.putCopy id k) = replaceCopy id k (copies s) := by
  have cores := allCores_map s (fun c => { c with rake := replaceCopy id k c.rake }) (replaceCopy id k s.orphans)
  refine (congrArg (fun l => l.flatMap (·.rake) ++ replaceCopy id k s.orphans) cores).trans ?_
  simp [copies, replaceCopy, List.flatMap_map, List.flatMap_assoc]

/-- A change of a job that keeps its Rake queue keeps every command. -/
theorem copies_updJob {f : Core → Core} (keeps : ∀ c, (f c).rake = c.rake) (s : State) (lrec job : Nat) :
    copies (s.updJob lrec job f) = copies s := by
  have rake (c : Core) : (if c.holds lrec job then f c else c).rake = c.rake := by split <;> simp [keeps]
  unfold State.updJob
  split
  · simp [copies, State.allCores, keeps]
  · simp [copies, State.allCores, List.flatMap_map, List.flatMap_assoc, rake]

@[simp] theorem copies_endOp (s : State) (r : Option TokRef) (e : Option FaultInfo) : copies (s.endOp r e) = copies s := by
  cases r with
  | none => rfl
  | some r => exact copies_updJob (fun c => by cases r.strm <;> rfl) ..

theorem copies_of_served {s t : State} (h : s.served t) : copies t = copies s := by
  obtain ⟨_, _, _, _, _, _, _, _, rfl⟩ := h
  rfl

/-- A command replaced leaves the others, and what replaces it. -/
theorem mem_replaceCopy {id : Nat} {k : Option Copy} {l : List Copy} {y : Copy} (h : y ∈ replaceCopy id k l) :
    (y ∈ l ∧ y.id ≠ id) ∨ k = some y := by
  obtain ⟨x, hx, hy⟩ := List.mem_flatMap.1 h
  split at hy
  · exact .inr (by simpa using hy)
  · rename_i other
    obtain rfl := List.mem_singleton.1 hy
    exact .inl ⟨hx, other⟩

/-- A command that ends leaves the Rake, and nothing joins it. -/
theorem mem_copies_ended {s : State} {id : Nat} {r : Option TokRef} {err : Option FaultInfo} {y : Copy}
    (mem : y ∈ copies ((s.putCopy id none).endOp r err)) : y ∈ copies s ∧ y.id ≠ id := by
  rw [copies_endOp, copies_putCopy] at mem
  exact (mem_replaceCopy mem).resolve_right (nomatch ·)

theorem oldestSend_mem {l : List Copy} {k : Copy} (h : oldestSend l = some k) : k ∈ l := List.mem_of_find?_eq_some h

/-- The receiver of a send of an end is the end's partner. -/
theorem receiver_of_send {s : State} {die num : Nat} {e : ChEnd} {k : Copy} (mine : (s.die die).chEnd num = some e)
    (mem : k ∈ s.sends die num) : s.receiver k = s.partner e := by
  obtain ⟨-, rfl, x, send, rfl⟩ := mem_sends.1 mem
  simp [State.receiver, send, mine]

/-! ### Arrival (R89, R152, R155) -/

theorem leNat_lt (l : List Byte) : leNat l < 256 ^ l.length := by
  induction l with
  | nil => simp [leNat]
  | cons b l ih =>
    have := b.isLt
    rw [leNat, List.length_cons, Nat.pow_succ]
    omega

theorem natAt_lt (s : State) (key n : Nat) : s.natAt key n < 256 ^ n := by
  simpa [State.natAt, bytesAt_length] using leNat_lt (s.bytesAt key n)

/-- A raised sync word keeps its 128 bits (R89). -/
theorem syncUpdate_lt {w : Nat} (h : w < 2 ^ 128) (n : Nat) : syncUpdate w n < 2 ^ 128 := by
  unfold syncUpdate
  extract_lets tgt cnt gen ovf total k past
  by_cases noTarget : tgt = 0
  · rw [if_pos noTarget]
    by_cases marked : ovf = true
    · rwa [if_pos marked]
    · have clear : w / 2 ^ 96 % 2 ≠ 1 := by simpa [ovf, Nat.testBit_eq_decide_div_mod_eq] using marked
      rw [if_neg marked]
      omega
  · rw [if_neg noTarget]
    have tgtField : tgt < 2 ^ 32 := Nat.mod_lt _ (by decide)
    have cntField : total % tgt < tgt := Nat.mod_lt _ (Nat.pos_of_ne_zero noTarget)
    have genField : (gen + k) % 2 ^ 32 < 2 ^ 32 := Nat.mod_lt _ (by decide)
    have rest : bitsOf w 127 97 < 2 ^ 31 := Nat.mod_lt _ (by decide)
    have flag : (if (ovf || past) = true then 2 ^ 96 else 0) ≤ 2 ^ 96 := by split <;> omega
    omega

/-- A raised sync word in a live frame reads back, and no other byte has changed (R89). -/
theorem raiseSync_written {s : State} {key : Nat} (live : s.hbmDead key = false) (n : Nat) :
    (s.raiseSync key n).natAt key 16 = syncUpdate (s.natAt key 16) n ∧ s.sameMemoryBut key 16 (s.raiseSync key n) := by
  refine ⟨?_, fun j out => byte_writeMem_other (by rwa [leBytes_length])⟩
  have bytes := bytesAt_writeMem (bs := leBytes 16 (syncUpdate (s.natAt key 16) n)) live
  rw [leBytes_length] at bytes
  rw [State.natAt, State.raiseSync, bytes, leNat_leBytes]
  exact Nat.mod_eq_of_lt (syncUpdate_lt (natAt_lt s key 16) n)

/-- The sync word of a set's receiver, where it has one, raised by the bytes of the set. -/
def syncRaised (s : State) (k : Copy) (n : Nat) : State :=
  match s.recvSync k with
  | some q => (s.touchRow q).raiseSync q n
  | none => s

theorem ends_syncRaised (s : State) (k : Copy) (n : Nat) : dieView Die.ends (syncRaised s k n) = dieView Die.ends s := by
  unfold syncRaised
  split
  · exact (dieView_writeMem (fun _ _ => rfl) ..).trans (dieView_touchRow (fun _ _ => rfl) ..)
  · rfl

/-- With the sync word in a live frame: what it holds, over what the row's opening left. -/
theorem syncRaised_written {s : State} {k : Copy} {q : Nat} (sync : s.recvSync k = some q) (live : s.alive q 16) (n : Nat) :
    (syncRaised s k n).natAt q 16 = syncUpdate ((s.touchRow q).natAt q 16) n ∧ (s.touchRow q).sameMemoryBut q 16 (syncRaised s k n) := by
  rw [syncRaised, sync]
  exact raiseSync_written ((hbmDead_of_fences (fences_touchRow s q) q).trans (live 0 (by decide))) n

/-- The receiver's buffer holds the set, its sync word the set's bytes. -/
def arrived (s : State) (e p : ChEnd) (x : SendTo) (k : Copy) : State :=
  (syncRaised s k (p.t * 2048)).updEnd e.peer p.num fun y => { y with bufs := y.bufs.set x.buf (.arrived x.seq x.user) }

theorem arrived_ends {s : State} {die num : Nat} {e p : ChEnd} (apart : e.peer ≠ die) (mine : (s.die die).chEnd num = some e)
    (matched : s.partner e = some p) (x : SendTo) (k : Copy) :
    EndsAre die num e.peer p.num e { p with bufs := p.bufs.set x.buf (.arrived x.seq x.user) } (arrived s e p x k) :=
  endsAre_updOther apart (endsAre_of_ends (ends_syncRaised ..) (endsAre_partner mine matched))

theorem setArrived_arrives {s : State} {die num : Nat} {e p : ChEnd} {x : SendTo} {k : Copy} (mine : (s.die die).chEnd num = some e)
    (oldest : oldestSend (s.sends die num) = some k) (send : k.send = some x) (matched : s.partner e = some p) (whole : k.todo = [])
    (crossed : x.from_ ≤ (s.die die).cyc) (stays : s.jobSaved p.lrec p.job = false) (flow : ∀ q, s.recvSync k = some q → s.flows q) :
    s.setArrived die num = ((arrived s e p x k).putCopy k.id none).endOp k.tok none := by
  have receiver := (receiver_of_send mine (oldestSend_mem oldest)).trans matched
  have gate : s.gate [] (s.recvSync k).toList = .go := by
    cases sync : s.recvSync k with
    | none => rfl
    | some q =>
      obtain ⟨link, mig, stripe, bank⟩ := flow q sync
      simp [State.gate, link, mig, stripe, bank]
  unfold State.setArrived
  simp only [oldest, send, receiver, whole, List.isEmpty_nil, Bool.not_true, Nat.not_lt.2 crossed, decide_false, stays, gate, bne_self_eq_false,
    Bool.or_self, Bool.false_eq_true, if_false, mine]
  rfl

/-! ### Replays (R160) -/

/-- The current beat's failed checks counted once more at its command. -/
def beatFailed (s : State) (k : Copy) (x : SendTo) : State :=
  s.putCopy k.id (some { k with send := some { x with replays := x.replays + 1 } })

theorem beatReplay_fails {s : State} {die num : Nat} {e : ChEnd} {x : SendTo} {k : Copy} (mine : (s.die die).chEnd num = some e)
    (oldest : oldestSend ((s.sends die num).filter fun k => !k.todo.isEmpty) = some k) (send : k.send = some x) (few : x.replays ≤ 16) :
    s.beatReplay die num = if x.replays = 16 then beatFailed s k x else
      match s.partner e with
      | none => (beatFailed s k x).updEnd die num ChEnd.replayed
      | some p => ((beatFailed s k x).updEnd die num ChEnd.replayed).updEnd e.peer p.num ChEnd.replayed := by
  unfold State.beatReplay
  simp only [oldest, send, mine, replayLimit, Nat.not_lt.2 few, if_false]
  rfl

/-- Its command holds the count. -/
theorem beatFailed_send {s : State} {k y : Copy} {x : SendTo} (mem : y ∈ copies (beatFailed s k x)) (same : y.id = k.id) :
    y.send = some { x with replays := x.replays + 1 } := by
  rw [beatFailed, copies_putCopy] at mem
  obtain ⟨-, other⟩ | replaced := mem_replaceCopy mem
  · exact absurd same other
  · rw [← Option.some.inj replaced]

/-! ### Failing channels (R160) -/

/-- Every end of `s` still stands in `t`, a failed one failed, and the Rake has no command that it did not have. -/
structure OnlyFails (s t : State) : Prop where
  stands : ∀ d n x, (s.die d).chEnd n = some x → ∃ y, (t.die d).chEnd n = some y ∧ (x.st = .failed → y.st = .failed)
  rake : ∀ k ∈ copies t, k ∈ copies s

theorem onlyFails_refl (s : State) : OnlyFails s s := ⟨fun _ _ x h => ⟨x, h, id⟩, fun _ h => h⟩

theorem onlyFails_trans {s t u : State} (h : OnlyFails s t) (g : OnlyFails t u) : OnlyFails s u := by
  refine ⟨fun d n x stood => ?_, fun k mem => h.rake k (g.rake k mem)⟩
  obtain ⟨y, standing, failed⟩ := h.stands d n x stood
  obtain ⟨z, stands, failed'⟩ := g.stands d n y standing
  exact ⟨z, stands, failed' ∘ failed⟩

theorem onlyFails_of_same {s t : State} (ends : ∀ d n, (t.die d).chEnd n = (s.die d).chEnd n) (rake : ∀ k ∈ copies t, k ∈ copies s) :
    OnlyFails s t := ⟨fun d n x h => ⟨x, (ends d n).trans h, id⟩, rake⟩

theorem onlyFails_updEnd (s : State) (die num : Nat) {f : ChEnd → ChEnd} (keeps : ∀ e, (f e).num = e.num := by exact fun _ => rfl)
    (failed : ∀ e, e.st = .failed → (f e).st = .failed := by exact fun _ _ => rfl) : OnlyFails s (s.updEnd die num f) := by
  refine ⟨fun d n x stood => ?_, fun _ h => h⟩
  rw [chEnd_updEnd s keeps, stood]
  by_cases this : d = die ∧ n = num
  · exact ⟨f x, by rw [if_pos this]; rfl, failed x⟩
  · exact ⟨x, if_neg this, id⟩

/-- Sends dropped leave the Rake, and nothing joins it. -/
theorem copies_dropSends (l : List Copy) (s : State) : ∀ k ∈ copies (s.dropSends l), k ∈ copies s ∧ ∀ x ∈ l, k.id ≠ x.id := by
  induction l generalizing s with
  | nil => exact fun k mem => ⟨mem, by simp⟩
  | cons x l ih =>
    intro k mem
    obtain ⟨left, others⟩ := ih _ k mem
    obtain ⟨stood, other⟩ := mem_copies_ended left
    exact ⟨stood, List.forall_mem_cons.2 ⟨other, others⟩⟩

theorem die_dropSends (l : List Copy) (s : State) (d : Nat) : (s.dropSends l).die d = s.die d := by
  induction l generalizing s with
  | nil => rfl
  | cons x l ih => exact (ih _).trans (die_endOp ..)

theorem onlyFails_dropSends (s : State) (l : List Copy) : OnlyFails s (s.dropSends l) :=
  onlyFails_of_same (fun d n => by rw [die_dropSends]) fun k mem => (copies_dropSends l s k mem).1

theorem onlyFails_written {s t : State} (ends : dieView Die.ends t = dieView Die.ends s) (served : s.served t) : OnlyFails s t :=
  onlyFails_of_same (chEnd_of_ends ends) fun k mem => by rwa [copies_of_served served] at mem

theorem onlyFails_syncErr (s : State) (key : Nat) : OnlyFails s (s.syncErr key) :=
  ite_both (P := OnlyFails s) (onlyFails_refl s) (onlyFails_written (dieView_writeMem (fun _ _ => rfl) ..) (served_writeMem ..))

theorem onlyFails_payErrs (die : Nat) (l : List ChEnd) (s : State) : OnlyFails s (s.payErrs die l) := by
  induction l generalizing s with
  | nil => exact onlyFails_refl s
  | cons e l ih =>
    have paid : OnlyFails s (s.updEnd die e.num fun x => { x with errDue := false }) := onlyFails_updEnd _ _ _ (failed := by exact fun _ => id)
    refine ite_both (P := OnlyFails s) (ih s) (onlyFails_trans paid (onlyFails_trans ?_ (ih _)))
    split
    · exact onlyFails_syncErr ..
    · exact onlyFails_refl _

theorem onlyFails_failRecord (s : State) (die : Nat) (e : ChEnd) : OnlyFails s (s.failRecord die e) :=
  ite_both (P := OnlyFails s) (onlyFails_refl s) (onlyFails_written (dieView_postRecord (fun _ _ => rfl) ..) (served_postRecord ..))

/-- A channel's sending end failed, its sends dropped. -/
def senderFailed (s : State) (die num : Nat) : State :=
  (s.updEnd die num fun x => { x with st := .failed }).dropSends (s.sends die num)

theorem onlyFails_senderFailed (s : State) (die num : Nat) : OnlyFails s (senderFailed s die num) :=
  onlyFails_trans (onlyFails_updEnd s die num) (onlyFails_dropSends ..)

/-- What the failure of a channel does beyond its sending end, only fails. -/
theorem failChannel_onlyFails {s : State} {die num : Nat} {e : ChEnd} (mine : (s.die die).chEnd num = some e) (record : Bool) :
    OnlyFails (senderFailed s die num) (s.failChannel die num record) := by
  unfold State.failChannel
  simp only [mine]
  split
  · exact onlyFails_refl _
  · refine onlyFails_trans (onlyFails_trans (onlyFails_updEnd ..) (onlyFails_payErrs ..)) (ite_both (P := OnlyFails _)
      (onlyFails_trans (onlyFails_failRecord ..) (onlyFails_failRecord ..)) (onlyFails_refl _))

theorem onlyFails_failChannel (s : State) (die num : Nat) (record : Bool) : OnlyFails s (s.failChannel die num record) := by
  cases mine : (s.die die).chEnd num with
  | none =>
    simp only [State.failChannel, mine]
    exact onlyFails_refl s
  | some e => exact onlyFails_trans (onlyFails_senderFailed s die num) (failChannel_onlyFails mine record)

theorem onlyFails_failAll (die : Nat) (record : Bool) (l : List ChEnd) (s : State) : OnlyFails s (s.failAll die record l) := by
  induction l generalizing s with
  | nil => exact onlyFails_refl s
  | cons e l ih => exact onlyFails_trans (onlyFails_failChannel ..) (ih _)

/-- An end has failed and has no set under way. -/
def HasFailed (die num : Nat) (t : State) : Prop := (∃ x, (t.die die).chEnd num = some x ∧ x.st = .failed) ∧ t.sends die num = []

theorem hasFailed_of_onlyFails {s t : State} {die num : Nat} (h : OnlyFails s t) (failed : HasFailed die num s) : HasFailed die num t := by
  obtain ⟨⟨x, stood, down⟩, idle⟩ := failed
  obtain ⟨y, stands, still⟩ := h.stands die num x stood
  refine ⟨⟨y, stands, still down⟩, List.eq_nil_iff_forall_not_mem.2 fun k mem => ?_⟩
  obtain ⟨queued, sent⟩ := mem_sends.1 mem
  exact List.eq_nil_iff_forall_not_mem.1 idle k (mem_sends.2 ⟨h.rake k queued, sent⟩)

theorem hasFailed_senderFailed {s : State} {die num : Nat} {e : ChEnd} (mine : (s.die die).chEnd num = some e) :
    HasFailed die num (senderFailed s die num) := by
  refine ⟨⟨{ e with st := .failed }, ?_, rfl⟩, List.eq_nil_iff_forall_not_mem.2 fun k mem => ?_⟩
  · rw [senderFailed, die_dropSends]
    exact chEnd_updEnd_self mine
  · obtain ⟨queued, sent⟩ := mem_sends.1 mem
    obtain ⟨stood, dropped⟩ := copies_dropSends _ _ k queued
    exact dropped k (mem_sends.2 ⟨stood, sent⟩) rfl

/-- Every sending end of a list of failing channels fails. -/
theorem hasFailed_failAll {die : Nat} {record : Bool} {l : List ChEnd} {s : State} {e x : ChEnd} (listed : e ∈ l)
    (mine : (s.die die).chEnd e.num = some x) : HasFailed die e.num (s.failAll die record l) := by
  induction l generalizing s x with
  | nil => nomatch listed
  | cons y l ih =>
    obtain rfl | later := List.mem_cons.1 listed
    · exact hasFailed_of_onlyFails (onlyFails_trans (failChannel_onlyFails mine record) (onlyFails_failAll ..)) (hasFailed_senderFailed mine)
    · obtain ⟨z, stands, -⟩ := (onlyFails_failChannel s die y.num record).stands die e.num x mine
      exact ih later stands

/-- Every sending end filling across a failing bridge fails. -/
theorem hasFailed_failBridge {s : State} {a f : Nat} {e x : ChEnd} (filling : e ∈ s.fillingTo a f) (mine : (s.die a).chEnd e.num = some x) :
    HasFailed a e.num (s.failBridge a f) :=
  hasFailed_of_onlyFails (onlyFails_failAll ..) (hasFailed_failAll filling mine)

/-! ### Closing (R158, R296) -/

@[simp] theorem freeEnd_die_other {s : State} {d n k : Nat} (h : k ≠ d) : (s.freeEnd d n).die k = s.die k := by
  unfold State.freeEnd
  split
  · rfl
  · exact die_updDie_other h _

/-- A freed end is gone, and its number's generation has advanced. -/
def Freed (die num gen : Nat) (t : State) : Prop := (t.die die).chEnd num = none ∧ Sparse.get (t.die die).endGens num = (gen + 1) % 256

theorem freed_freeEnd {s : State} {die num : Nat} {x : ChEnd} (mine : (s.die die).chEnd num = some x) :
    Freed die num x.gen (s.freeEnd die num) := by
  unfold Freed State.freeEnd
  simp only [mine, die_updDie (lt_of_chEnd mine), sparse_get_set_same, and_true]
  simp [Die.chEnd, List.find?_eq_none]

/-- An end whose close has completed, its batch performed. -/
def closedEnd (s : State) (die num : Nat) (e : ChEnd) : State :=
  (s.updEnd die num fun x => { x with done := true, closeTok := none }).endOp e.closeTok none

/-- A buffer after its grant has been taken back. -/
def takenBack (b : BufSt) : BufSt := if b.isGranted then .free else b

/-- A matched end whose close has completed: a channel that is open gives back its permits and grants. -/
def closedMatched (s : State) (die num : Nat) (e p : ChEnd) : State :=
  let t := closedEnd s die num e
  if e.st ≠ .opened then t
  else if e.role = 0 then (t.updEnd die num fun x => { x with permits := 0 }).updEnd e.peer p.num fun x =>
    { x with bufs := x.bufs.map takenBack, held := [] }
  else (t.updEnd die num fun x => { x with bufs := x.bufs.map fun _ => .free, held := [] }).updEnd e.peer p.num fun x => { x with permits := 0 }

section
variable {s : State} {die num : Nat} {e p : ChEnd} (mine : (s.die die).chEnd num = some e)
include mine

theorem closeDone_waits (ready : s.closeReady e = false) : s.closeDone die num = s := by
  unfold State.closeDone
  simp only [mine, ready, Bool.not_false, if_true]

theorem closeDone_alone (ready : s.closeReady e = true) (alone : s.partner e = none) :
    s.closeDone die num = (closedEnd s die num e).freeEnd die num := by
  unfold State.closeDone
  simp only [mine, ready, alone, Bool.not_true, Bool.false_eq_true, if_false]
  rfl

theorem closeDone_matched (ready : s.closeReady e = true) (matched : s.partner e = some p) : s.closeDone die num =
    if p.done then ((closedMatched s die num e p).freeEnd die num).freeEnd e.peer p.num else closedMatched s die num e p := by
  unfold State.closeDone
  simp only [mine, ready, matched, Bool.not_true, Bool.false_eq_true, if_false]
  rfl

theorem closedEnd_mine : ((closedEnd s die num e).die die).chEnd num = some { e with done := true, closeTok := none } := by
  rw [closedEnd, die_endOp]
  exact chEnd_updEnd_self mine

variable (apart : e.peer ≠ die) (matched : s.partner e = some p)
include apart matched

theorem closedEnd_ends : EndsAre die num e.peer p.num { e with done := true, closeTok := none } p (closedEnd s die num e) :=
  endsAre_endOp (endsAre_updMine apart (endsAre_partner mine matched)) ..

/-- The sender closes: its permits are gone, the receiver's grants come back. -/
theorem closedMatched_sender (opened : e.st = .opened) (role : e.role = 0) :
    EndsAre die num e.peer p.num { e with done := true, closeTok := none, permits := 0 } { p with bufs := p.bufs.map takenBack, held := [] }
      (closedMatched s die num e p) := by
  unfold closedMatched
  rw [if_neg (not_not.2 opened), if_pos role]
  exact endsAre_updOther apart (endsAre_updMine apart (closedEnd_ends mine apart matched))

/-- The receiver closes: its buffers are free, the sender's permits gone. -/
theorem closedMatched_receiver (opened : e.st = .opened) (role : e.role ≠ 0) :
    EndsAre die num e.peer p.num { e with done := true, closeTok := none, bufs := e.bufs.map fun _ => .free, held := [] }
      { p with permits := 0 } (closedMatched s die num e p) := by
  unfold closedMatched
  rw [if_neg (not_not.2 opened), if_neg role]
  exact endsAre_updOther apart (endsAre_updMine apart (closedEnd_ends mine apart matched))

/-- Whatever the channel's state, both ends stand with their generations. -/
theorem closedMatched_gens : ∃ x y, EndsAre die num e.peer p.num x y (closedMatched s die num e p) ∧ x.gen = e.gen ∧ y.gen = p.gen := by
  by_cases opened : e.st = .opened
  · by_cases role : e.role = 0
    · exact ⟨_, _, closedMatched_sender mine apart matched opened role, rfl, rfl⟩
    · exact ⟨_, _, closedMatched_receiver mine apart matched opened role, rfl, rfl⟩
  · refine ⟨{ e with done := true, closeTok := none }, p, ?_, rfl, rfl⟩
    rw [closedMatched, if_pos opened]
    exact closedEnd_ends mine apart matched

/-- Both ends done, both are freed. -/
theorem closedMatched_freed : let t := ((closedMatched s die num e p).freeEnd die num).freeEnd e.peer p.num
    Freed die num e.gen t ∧ Freed e.peer p.num p.gen t := by
  obtain ⟨x, y, ⟨here, there⟩, gen, gen'⟩ := closedMatched_gens mine apart matched
  rw [← gen, ← gen']
  refine ⟨?_, freed_freeEnd (by rwa [freeEnd_die_other apart])⟩
  rw [Freed, freeEnd_die_other apart.symm]
  exact freed_freeEnd here

end

theorem closedMatched_mem (s : State) (die num : Nat) (e p : ChEnd) : (closedMatched s die num e p).mem = s.mem := by
  have closed : (closedEnd s die num e).mem = s.mem := endOp_mem ..
  unfold closedMatched
  exact ite_both (P := fun t : State => t.mem = s.mem) closed (ite_both (P := fun t : State => t.mem = s.mem) closed closed)

/-! ### The obligation -/

/-- Settles O53: each step is the equation of its section, and the ends of both dies are followed through it. -/
theorem channelSteps : Obligations.ChannelSteps := by
  unfold Obligations.ChannelSteps
  intro s die num e mine other _ _ apart found
  refine ⟨?pair, ?permit, ?arrive, ?replay, ?retrain,
    fun ready => congrArg Host.Outcome.next (closeDone_waits found ready), fun ready => ⟨?alone, ?freed, ?close⟩⟩
  case pair =>
    intro y next next' there
    have opening := nextOpen_opening next
    have opening' := nextOpen_opening next'
    refine ⟨_, congrArg Host.Outcome.next (matchEnds_matches found next next'), by simp, ?_⟩
    have ends := endsAre_endOp (endsAre_endOp (endsAre_updOther (f := matchedEnd (e.t != y.t) num) apart
      (endsAre_updMine (f := matchedEnd (e.t != y.t) y.num) apart ⟨found, there⟩)) e.openTok none) y.openTok none
    refine ⟨fun equal => ?_, fun unequal => ?_⟩
    · rw [bne_eq_false_iff_eq.2 equal, matchedEnd_opened opening, matchedEnd_opened opening'] at ends
      rwa [bne_eq_false_iff_eq.2 equal]
    · rw [bne_iff_ne.2 unequal, matchedEnd_mismatched opening, matchedEnd_mismatched opening'] at ends
      rwa [bne_iff_ne.2 unequal]
  case permit =>
    intro p g r held matched receiver
    refine ⟨fun reads => congrArg Host.Outcome.next (permitArrive_waits found held matched reads), fun reads =>
      ⟨_, congrArg Host.Outcome.next (permitArrive_arrives found held matched receiver reads), rfl, ?_⟩⟩
    exact endsAre_updOther apart (endsAre_updMine apart (endsAre_partner found matched))
  case arrive =>
    intro p x k oldest send matched whole crossed stays flow
    obtain ⟨here, there⟩ := endsAre_endOp (s := (arrived s e p x k).putCopy k.id none) (arrived_ends apart found matched x k) k.tok none
    have memory : (((arrived s e p x k).putCopy k.id none).endOp k.tok none).mem = (syncRaised s k (p.t * 2048)).mem := endOp_mem ..
    refine ⟨_, congrArg Host.Outcome.next (setArrived_arrives found oldest send matched whole crossed stays flow), there, here,
      fun y mem => (mem_copies_ended (mem_sends.1 mem).1).2, fun unmarked => ?_, fun q sync live => ?_⟩
    · rw [memory, syncRaised, unmarked]
    · obtain ⟨raised, others⟩ := syncRaised_written sync live (p.t * 2048)
      have bytes (key : Nat) := congrArg (Sparse.get · key) memory
      exact ⟨(natAt_congr fun i _ => bytes _).trans raised, fun key out => (bytes key).trans (others key out)⟩
  case replay =>
    intro x k oldest send few again
    have run := beatReplay_fails found oldest send few
    have counted {t : State} (same : copies t = copies (beatFailed s k x)) :
        ∀ y ∈ t.sends die num, y.id = k.id → y.send = some { x with replays := x.replays + 1 } :=
      fun y mem => beatFailed_send (same ▸ (mem_sends.1 mem).1)
    by_cases last : x.replays = 16
    · rw [if_pos last] at run
      rw [show again = false by simp [again, last]]
      exact ⟨_, congrArg Host.Outcome.next run, found, counted rfl, fun p matched => (endsAre_partner found matched).2⟩
    · rw [if_neg last] at run
      rw [show again = true by simp [again]; omega]
      cases matched : s.partner e with
      | none =>
        rw [matched] at run
        exact ⟨_, congrArg Host.Outcome.next run, chEnd_updEnd_self found, counted rfl, fun p is => nomatch is⟩
      | some p =>
        rw [matched] at run
        obtain ⟨here, there⟩ := endsAre_updOther (f := ChEnd.replayed) apart
          (endsAre_updMine (f := ChEnd.replayed) apart (endsAre_partner (s := s) found matched))
        exact ⟨_, congrArg Host.Outcome.next run, here, counted rfl, fun q is => Option.some.inj is ▸ there⟩
  case retrain =>
    intro bridge due filling
    obtain rfl := chEnd_num found
    obtain ⟨⟨x, stands, failed⟩, idle⟩ := hasFailed_failBridge (s := { s with freeN := s.freeN + 1 }) filling found
    refine ⟨s.bridgeRetrain die e.peer, congrArg Host.Outcome.next (if_pos (by simp [bridge, due])), ?_, x, stands, failed, idle⟩
    exact ite_both (P := fun t => t = _ ∨ t = State.loseBridge _ die e.peer) (.inl rfl) (.inr rfl)
  case alone =>
    intro alone
    have freed := freed_freeEnd (closedEnd_mine found)
    exact ⟨_, congrArg Host.Outcome.next (closeDone_alone found ready alone), freed⟩
  case freed =>
    intro p matched done
    have run := closeDone_matched found ready matched
    rw [if_pos done] at run
    obtain ⟨⟨gone, gen⟩, gone', gen'⟩ := closedMatched_freed found apart matched
    exact ⟨_, congrArg Host.Outcome.next run, gone, gone', gen, gen'⟩
  case close =>
    intro p matched more opened back
    have run := closeDone_matched found ready matched
    rw [if_neg (by simp [more])] at run
    exact ⟨_, congrArg Host.Outcome.next run, closedMatched_mem .., closedMatched_sender found apart matched opened,
      closedMatched_receiver found apart matched opened⟩

end Sys2Proof.Proofs
end

section
/-!
PROOFS. Encoding: the rows of the opcode map against the encoder, the fields of a word, and the round trips between words and instructions
(R170 to R172, R282, R299).
-/

namespace Sys2Proof.Proofs
open Sys2Proof Sys2Proof.Machine

/-! ### Rows of the opcode map and the instructions in them (R171, R172) -/

/-- A row's instruction with a given payload; none where the payload has another layout. -/
def fill : Mk → Payload → Option Instr
  | .z g, .z w => some (g w)
  | .i g, .i w => some (g w)
  | .t g, .t w => some (g w)
  | .m g, .m w => some (g w)
  | .f g, .f w => some (g w)
  | _, _ => none

/-- The payload of a word in a row's layout. -/
def payloadOf (k : Mk) (n : Nat) : Payload :=
  match k with
  | .z _ => .z (unpackZ n)
  | .i _ => .i (unpackI n)
  | .t _ => .t (unpackT n)
  | .m _ => .m (unpackM n)
  | .f _ => .f (unpackF n)

/-- The row of the opcode map an instruction stands in: PANCFG_REL shares PANCFG's (R282, R299). -/
def tableRow : Instr → Instr
  | .pancfgRel w => .pancfg w
  | i => i

/-- A row builds its instruction from any word the payload was packed into (R170, R171). -/
theorem apply_of_fill {k : Mk} {p : Payload} {i : Instr} (h : fill k p = some i) (q : Nat) : k.apply (q * 2 ^ 84 + packPayload p) = i := by
  match k, p, h with
  | .z g, .z w, h => exact (congrArg g (unpackZ_pack w q)).trans (Option.some.inj h)
  | .i g, .i w, h => exact (congrArg g (unpackI_pack w q)).trans (Option.some.inj h)
  | .t g, .t w, h => exact (congrArg g (unpackT_pack w q)).trans (Option.some.inj h)
  | .m g, .m w, h => exact (congrArg g (unpackM_pack w q)).trans (Option.some.inj h)
  | .f g, .f w, h => exact (congrArg g (unpackF_pack w q)).trans (Option.some.inj h)

/-- The instructions that have a code are those that have a shape. -/
theorem code_isSome (i : Instr) : i.code.isSome = (instrShape i).isSome := by
  cases i <;> rfl

/-- The opcode map names at an instruction's OP and FN the row it stands in (R172). -/
theorem opcodeRow_of_code {i : Instr} {op fn : Nat} {p : Payload} (h : i.code = some (op, fn, p)) :
    op < 256 ∧ fn < 16 ∧ ∃ k, opcodeRow op fn = some k ∧ fill k p = some (tableRow i) := by
  cases i
  all_goals cases h
  all_goals exact ⟨by decide, by decide, _, rfl, rfl⟩

/-- The instruction a row builds from a word has that row's OP and FN and the word's payload (R172). -/
theorem code_of_opcodeRow {op fn : Nat} {k : Mk} (h : opcodeRow op fn = some k) (n : Nat) :
    (k.apply n).code = some (op, fn, payloadOf k n) := by
  unfold opcodeRow at h
  split at h
  case h_50 => cases h
  all_goals
    dsimp only [rows01, rows02, rows03, rows04, rows05, rows08, rows09, rows0A, rows0B, rows0C, rows0D, rows10, rows11, rows12, rows13,
      rows14, rows15, rows16, rows17, rows18, rows19, rows1A, rows1B, rows1C, rows1D, rows40, rows41, rows42, rows43, rows44, rows45,
      rows46, rows47, rows48, rows49, rows4A, rows70, rows71, rows72, rows73, rows74, rows75, rows80, rows81, rows82, rows83, rows84,
      rows85, rows86] at h
    split at h
  all_goals cases h
  all_goals rfl

/-! ### Splitting off PANCFG_REL (R282, R299) -/

/-- PANCFG_REL has PANCFG's OP and FN (R282). -/
theorem code_splitRel (i : Instr) : (splitRel i).code = i.code := by
  unfold splitRel
  split
  · split <;> rfl
  · rfl

/-- A well-formed word's X field holds a value its row allows (R171, R174). -/
theorem xok_of_wellFormed {i : Instr} {h : Shape} (shape : instrShape i = some h) (wf : i.wellFormed = true) : h.xok = true := by
  unfold Instr.wellFormed at wf
  rw [shape] at wf
  obtain ⟨k, -, legal⟩ := List.any_eq_true.1 wf
  simp only [Shape.legal, Bool.or_eq_true, Bool.and_eq_true] at legal
  tauto

/-- SZ of PANCFG is 0 (R299). -/
theorem szOk_one {w : Wm} (h : szOk w 1 = true) : w.sz.getLsbD 0 = false := by
  unfold szOk at h
  generalize w.sz = z at h
  revert z; decide

/-- SZ of PANCFG_REL is 1 (R299). -/
theorem szOk_two {w : Wm} (h : szOk w 2 = true) : w.sz.getLsbD 0 = true := by
  unfold szOk at h
  generalize w.sz = z at h
  revert z; decide

/-- SZ[0] of a well-formed word tells PANCFG_REL from PANCFG (R282, R299). -/
theorem splitRel_tableRow {i : Instr} (wf : i.wellFormed = true) : splitRel (tableRow i) = i := by
  unfold tableRow
  split
  case h_1 w =>
    have xok := xok_of_wellFormed rfl wf
    simp only [shM, Bool.and_eq_true] at xok
    exact if_pos (szOk_two xok.1.2)
  case h_2 =>
    unfold splitRel
    split
    case h_1 w =>
      have xok := xok_of_wellFormed rfl wf
      simp only [shM, Bool.and_eq_true] at xok
      exact if_neg (Bool.eq_false_iff.1 (szOk_one xok.1.2))
    case h_2 => rfl

/-! ### A word is its OP, its FN and its payload (R170) -/

theorem toNat_beq_one (x : Nat) : (x % 2 == 1).toNat = x % 2 := by
  rcases Nat.mod_two_eq_zero_or_one x with h | h <;> rw [h] <;> rfl

/-- The common fields hold bits [83:36] whole (R170). -/
theorem packHd_unpackHd (n : Nat) : packHd (unpackHd n) = n % 2 ^ 84 / 2 ^ 36 * 2 ^ 36 := by
  simp only [packHd, unpackHd, BitVec.toNat_ofNat, toNat_beq_one]
  omega

/-- A payload holds bits [83:0] whole: no layout leaves a bit out (R171). -/
theorem packPayload_payloadOf (k : Mk) (n : Nat) : packPayload (payloadOf k n) = n % 2 ^ 84 := by
  cases k
  all_goals
    simp only [payloadOf, packPayload, unpackZ, unpackI, unpackT, unpackM, unpackF, packHd_unpackHd, BitVec.toNat_ofNat, toNat_beq_one]
    omega

/-- OP, FN and payload are read back from where they stand (R170). -/
theorem decodeWord_pack {op fn : Nat} {k : Mk} {p : Payload} {i : Instr} (hop : op < 256) (hfn : fn < 16) (row : opcodeRow op fn = some k)
    (h : fill k p = some i) : decodeWord (op * 2 ^ 88 + fn * 2 ^ 84 + packPayload p) = some (splitRel i) := by
  have lt := packPayload_lt p
  rw [show op * 2 ^ 88 + fn * 2 ^ 84 + packPayload p = (op * 16 + fn) * 2 ^ 84 + packPayload p by omega]
  unfold decodeWord
  rw [show ((op * 16 + fn) * 2 ^ 84 + packPayload p) / 2 ^ 88 % 256 = op by omega,
    show ((op * 16 + fn) * 2 ^ 84 + packPayload p) / 2 ^ 84 % 16 = fn by omega, row, Option.map_some, apply_of_fill h]

/-- The decoder reads a word from its twelve bytes and leaves what follows (R4, R170). -/
theorem decodeBytes_leBytes {n : Nat} {i : Instr} (small : n < 2 ^ 96) (h : decodeWord n = some i) (rest : List Byte) :
    decodeBytes (leBytes 12 n ++ rest) = some (i, rest) := by
  have len := leBytes_length 12 n
  unfold decodeBytes
  rw [if_neg (by simp [len]), List.take_left' len, List.drop_left' len, leNat_leBytes, Nat.mod_eq_of_lt (by omega), h, Option.map_some]

/-- OP is eight bits, FN four and the payload 84 (R170). -/
theorem encodeWord_lt {i : Instr} {n : Nat} (h : encodeWord i = some n) : n < 2 ^ 96 := by
  obtain ⟨⟨op, fn, p⟩, code, rfl⟩ := Option.map_eq_some_iff.1 h
  obtain ⟨hop, hfn, -⟩ := opcodeRow_of_code code
  have := packPayload_lt p
  dsimp only
  omega

theorem decodeWord_encodeWord {i : Instr} {n : Nat} (wf : i.wellFormed = true) (h : encodeWord i = some n) : decodeWord n = some i := by
  obtain ⟨⟨op, fn, p⟩, code, rfl⟩ := Option.map_eq_some_iff.1 h
  obtain ⟨hop, hfn, k, row, built⟩ := opcodeRow_of_code code
  exact (decodeWord_pack hop hfn row built).trans (congrArg some (splitRel_tableRow wf))

/-! ### The obligations -/

/-- Settles O1: an instruction with a shape has a code, its word fits twelve bytes, and each field of the word is read back where it was packed. -/
theorem decodeOfEncode : Obligations.DecodeOfEncode := by
  unfold Obligations.DecodeOfEncode
  intro i encoded wf
  obtain ⟨x, code⟩ := Option.isSome_iff_exists.1 ((code_isSome i).trans encoded)
  have word : encodeWord i = some _ := Option.map_eq_some_iff.2 ⟨x, code, rfl⟩
  exact ⟨_, Option.map_eq_some_iff.2 ⟨_, word, rfl⟩, leBytes_length .., decodeBytes_leBytes (encodeWord_lt word) (decodeWord_encodeWord wf word)⟩

/-- Settles O2: the word's OP and FN are those of the row that decoded it, and its payload keeps the other 84 bits. -/
theorem encodeOfDecode : Obligations.EncodeOfDecode := by
  unfold Obligations.EncodeOfDecode
  intro n i small h
  obtain ⟨k, row, rfl⟩ := Option.map_eq_some_iff.1 h
  have code := (code_splitRel (k.apply n)).trans (code_of_opcodeRow row n)
  refine Option.map_eq_some_iff.2 ⟨_, code, ?_⟩
  simp only [packPayload_payloadOf]
  omega

/-- Settles O3, by running the decoder on the words. -/
theorem specWordsDecode : Obligations.SpecWordsDecode := by
  unfold Obligations.SpecWordsDecode
  exact ⟨⟨_, rfl, by decide, by decide⟩, ⟨_, rfl, by decide, by decide, by decide⟩, ⟨_, rfl, by decide, by decide⟩, rfl, rfl⟩

end Sys2Proof.Proofs
end

section
/-!
PROOFS. Steps: the agenda's head, a stream's turn, the word it fetches at its pc (R16, R166, R169, R174, R198).
-/

namespace Sys2Proof.Proofs
open Sys2Proof Sys2Proof.Machine

/-! ### What a stream does and fetches sees no turn (R16, R169) -/

section
variable (s : State) (t : Turn)

theorem issueKind_withTurn (k : Strm) : State.issueKind { s with turn := t } k = s.issueKind k := rfl

theorem natAt_withTurn (key n : Nat) : State.natAt { s with turn := t } key n = s.natAt key n := natAt_congr fun _ _ => rfl

theorem xlateWalk_withTurn (ptb va : Nat) (acc : Acc) : State.xlateWalk { s with turn := t } ptb va acc = s.xlateWalk ptb va acc := by
  have walk : State.walk { s with turn := t } ptb va = s.walk ptb va := by simp only [State.walk, natAt_withTurn]
  unfold State.xlateWalk
  rw [walk]
  rfl

theorem fetchNat_withTurn (x : StrmSt) (va n : Nat) : State.fetchNat { s with turn := t } x va n = s.fetchNat x va n := by
  unfold State.fetchNat
  simp only [xlateWalk_withTurn { s with mem := s.core.code } t, natAt_withTurn { s with mem := s.core.code } t]
  rfl

theorem fetchInstr_withTurn (k : Strm) : State.fetchInstr { s with turn := t } k = s.fetchInstr k := by
  simp only [State.fetchInstr, fetchNat_withTurn]

end

/-! ### The word at the pc (R166, R174) -/

section
variable {s : State} {k : Strm} {n : Nat}

/-- A fetched word that decodes is the instruction it stands for (R166, R170). -/
theorem fetchInstr_ok {i : Instr} (grid : (s.core.strm k).pc.toNat % 4 = 0)
    (word : s.fetchNat (s.core.strm k) (s.core.strm k).pc.toNat 12 = .ok n) (assigned : decodeWord n = some i) : s.fetchInstr k = .ok i := by
  simp [State.fetchInstr, grid, word, assigned]

/-- A fetched word that decodes to nothing is an illegal instruction (R174 row 1). -/
theorem fetchInstr_illegal (grid : (s.core.strm k).pc.toNat % 4 = 0)
    (word : s.fetchNat (s.core.strm k) (s.core.strm k).pc.toNat 12 = .ok n) (unassigned : decodeWord n = none) :
    s.fetchInstr k = .error (.trap (flt .illegalInstr)) := by
  simp [State.fetchInstr, grid, word, unassigned, trapR]

/-! ### A stream's turn (R16, R198; log entry 3) -/

theorem step_agenda {i : Instr} {r : List Instr} (head : s.agenda = i :: r) : step s = exec i { s with agenda := r } := by
  unfold step; rw [head]

/-- With nothing on the agenda a stream's turn runs, the next turn then standing (log entry 3). -/
theorem step_issue (idle : s.agenda = []) (turn : s.turn = .issue k) :
    step s = State.issue { s with turn := (Turn.issue k).after } k := by
  unfold step State.turnStep; rw [idle, turn]

theorem issue_word (kind : s.issueKind k = .word) : s.issue k = s.issueWord k := by
  unfold State.issue; rw [kind]

theorem issue_event (kind : s.issueKind k = .event) : s.issue k = exec (.eventTaken k) s := by
  unfold State.issue; rw [kind]; rfl

/-- A section entered in a turn: an event that is held comes first, else the section's first word (R16, R198). -/
theorem issue_enter {t : State} (kind : s.issueKind k = .enter) (enters : exec (.sectionEntry k) s = .next t) :
    s.issue k = if t.takeable k then exec (.eventTaken k) t else if t.inside k then t.issueWord k else .next t := by
  have entry : execSectionEntry k s = .next t := enters
  unfold State.issue; rw [kind]; simp only [entry]; rfl

theorem issueWord_ok {i : Instr} (word : s.fetchInstr k = .ok i) : s.issueWord k = exec i { s with cur := k } := by
  unfold State.issueWord; rw [word]

theorem issueWord_illegal (word : s.fetchInstr k = .error (.trap (flt .illegalInstr))) :
    s.issueWord k = .next (State.raise { s with cur := k } (flt .illegalInstr)) := by
  unfold State.issueWord; rw [word]; exact takeFault_next (f := flt .illegalInstr) (by decide) _

end

/-- Settles O4: the agenda's head, else the stream's turn, by what the stream does in it. -/
theorem stepRunsTheWord : Obligations.StepRunsTheWord := by
  unfold Obligations.StepRunsTheWord
  refine ⟨fun s i r => step_agenda, ?word, ?illegal, ?event, ?enter⟩
  case word =>
    intro s k n i idle turn kind grid word assigned
    rw [step_issue idle turn, issue_word ((issueKind_withTurn ..).trans kind),
      issueWord_ok ((fetchInstr_withTurn ..).trans (fetchInstr_ok grid word assigned))]
  case illegal =>
    intro s k n idle turn kind grid word unassigned
    rw [step_issue idle turn, issue_word ((issueKind_withTurn ..).trans kind),
      issueWord_illegal ((fetchInstr_withTurn ..).trans (fetchInstr_illegal grid word unassigned))]
  case event =>
    intro s k idle turn kind
    rw [step_issue idle turn, issue_event ((issueKind_withTurn ..).trans kind)]
  case enter =>
    intro s k t idle turn kind enters
    rw [step_issue idle turn, issue_enter ((issueKind_withTurn ..).trans kind) enters]

end Sys2Proof.Proofs
end

section
/-!
PROOFS. Jumps, calls and returns, the fields of a link value, the check of targets (R166, R167, R188, R190).
-/

namespace Sys2Proof.Proofs
open Sys2Proof Sys2Proof.Machine

/-! ### Transfers (R188, R190) -/

section
variable {s t : State} {h : Shape} {a b c tgt : Word} {x : StrmSt}

/-- A legal word whose target passes the check transfers control there or falls through, its sources read (R189, R190). -/
theorem branchTo_next {take : Word → Word → Bool} {cost : Nat} (takes : s.takes h a b c t) (target : s.target s.cur s.strm tgt = .ok x) :
    outcome s (s.branchTo h (.ok tgt) take cost) = .next (if take a b then t.transfer x cost else t.retire 1) := by
  obtain ⟨⟨static, await⟩, sources⟩ := takes
  simp [State.branchTo, static, await, sources, target]

/-- A shape without sources reads none. -/
theorem takes_nothing (legal : s.legal h) (ha : h.a = .none) (hb : h.b = .none) (hc : h.c = .none) : s.takes h 0 0 0 s :=
  ⟨legal, by simp [State.sources, State.srcIf, ha, hb, hc]⟩

theorem br_next {w : Wi} (legal : s.legal (shI w 36 .none .none .none .none)) (target : s.target s.cur s.strm (s.dispTarget w) = .ok x) :
    exec (.br w) s = .next (s.transfer x 2) :=
  branchTo_next (takes_nothing legal rfl rfl rfl) target

/-- BRI's base is the value of its source, read again when the word completes (R190). -/
theorem bri_next {w : Wi} (takes : s.takes (shI w 36 .none .sSrc .none .none) a b c t)
    (target : s.target s.cur s.strm (a + w.imm.signExtend 64) = .ok x) : exec (.bri w) s = .next (t.transfer x 2) := by
  obtain ⟨u, -, read, -, -⟩ := sources_cases takes.2
  replace read : s.readS w.a = .ok (a, u) := read
  show execBri w s = _
  unfold execBri
  rw [read]
  exact branchTo_next takes target

theorem bq_next {w : Wi} (takes : s.takes (shI w 36 .none .qSrc .none .none) a b c t)
    (target : s.target s.cur s.strm (s.dispTarget w) = .ok x) :
    exec (.bq w) s = .next (if a ≠ 0 then t.transfer x 2 else t.retire 1) :=
  (branchTo_next takes target).trans (by simp)

theorem bqz_next {w : Wi} (takes : s.takes (shI w 36 .none .qSrc .none .none) a b c t)
    (target : s.target s.cur s.strm (s.dispTarget w) = .ok x) :
    exec (.bqz w) s = .next (if a = 0 then t.transfer x 2 else t.retire 1) :=
  (branchTo_next takes target).trans (by simp)

/-- CALL leaves the link of the next word in D, which the stream that transfers keeps (R190). -/
theorem call_next {w : Wi} {u : State} (legal : s.legal (shI w 36 .sDst .none .none .none))
    (target : s.target s.cur s.strm (s.dispTarget w) = .ok x) (gives : s.gives w.d (s.strm.linkNext true) 2 u) :
    exec (.call w) s = .next (u.transfer { x with sregs := u.strm.sregs, ready := u.strm.ready } 2) := by
  obtain ⟨static, await⟩ := legal
  unfold State.gives at gives
  show outcome s (s.call w) = _
  simp [State.call, static, await, target, gives]

theorem ret_next {w : Wi} (takes : s.takes (shI w 0 .none .sSrc .none .none) a b c t) (back : t.comeBack s.cur t.strm a = .ok x) :
    exec (.ret w) s = .next (t.transfer x 2) := by
  obtain ⟨⟨static, await⟩, sources⟩ := takes
  show outcome s (s.ret w) = _
  simp [State.ret, static, await, sources, back]

end

/-! ### Link values (R188) -/

/-- An address on the 4-byte grid below 2^52 is bits [51:2] alone. -/
theorem and_linkMask {p : Word} (low : p.toNat < 2 ^ 52) (grid : p.toNat % 4 = 0) : p &&& 0x000FFFFFFFFFFFFC#64 = p := by
  obtain ⟨q, hq⟩ := Nat.dvd_of_mod_eq_zero grid
  have shifted : p.toNat = q <<< 2 := by rw [hq, Nat.shiftLeft_eq, Nat.mul_comm]
  have mask : (0x000FFFFFFFFFFFFC#64).toNat = (2 ^ 50 - 1) <<< 2 := rfl
  apply BitVec.eq_of_toNat_eq
  rw [BitVec.toNat_and, mask, shifted, ← Nat.shiftLeft_and_distrib, Nat.and_two_pow_sub_one_of_lt_two_pow (by omega)]

/-- The fields of a link value do not overlap (R188). -/
theorem toNat_linkOf {i : Nat} {p : Word} (ent : Bool) (index : i < 4096) (low : p.toNat < 2 ^ 52) (grid : p.toNat % 4 = 0) :
    (linkOf i p ent).toNat = i * 2 ^ 52 + p.toNat + ent.toNat := by
  have top : (BitVec.ofNat 64 i <<< 52).toNat = 2 ^ 52 * i := by
    rw [BitVec.toNat_shiftLeft, BitVec.toNat_ofNat, Nat.shiftLeft_eq]; omega
  have flag : (if ent then 1 else 0 : Word).toNat = ent.toNat := by cases ent <;> rfl
  obtain ⟨m, hm⟩ : ∃ m, 2 ^ 52 * i + p.toNat = 2 ^ 2 * m := ⟨(2 ^ 52 * i + p.toNat) / 4, by omega⟩
  unfold linkOf
  rw [and_linkMask low grid, BitVec.toNat_or, BitVec.toNat_or, top, flag, ← Nat.two_pow_add_eq_or_of_lt low, hm,
    ← Nat.two_pow_add_eq_or_of_lt (ent.toNat_lt.trans (by decide)), ← hm, Nat.mul_comm]

/-- Bit 0 of a link value is ENT, bit 1 is zero (R188). -/
theorem flags_linkOf {i : Nat} {p : Word} (ent : Bool) (index : i < 4096) (low : p.toNat < 2 ^ 52) (grid : p.toNat % 4 = 0) :
    (linkOf i p ent).getLsbD 0 = ent ∧ (linkOf i p ent).getLsbD 1 = false := by
  have fields := toNat_linkOf ent index low grid
  rw [← BitVec.testBit_toNat, ← BitVec.testBit_toNat, Nat.testBit_succ, Nat.testBit_zero, Nat.testBit_zero, fields]
  cases ent
  · exact ⟨decide_eq_false (by simp only [Bool.toNat_false]; omega), decide_eq_false (by simp only [Bool.toNat_false]; omega)⟩
  · exact ⟨decide_eq_true (by simp only [Bool.toNat_true]; omega), decide_eq_false (by simp only [Bool.toNat_true]; omega)⟩

/-! ### Targets (R166, R167) -/

section
variable {s : State} {k : Strm} {x y : StrmSt} {t : Word}

theorem target_offGrid (off : t.toNat % 4 ≠ 0) : s.target k x t = .error (.trap (flt .illegalTarget)) := if_pos off

theorem target_inSection (grid : t.toNat % 4 = 0) (inside : x.inSection t = true) (later : t ≠ x.secBase + 8) :
    s.target k x t = .ok { x with pc := t } := by
  unfold State.target
  rw [if_neg (not_not.2 grid), if_pos inside, if_neg later]

/-- A target outside the section follows a header of the stream's own, at which the stream then stands (R167). -/
theorem target_header (grid : t.toNat % 4 = 0) (outside : x.inSection t = false) (ok : s.target k x t = .ok y) :
    ∃ h, s.fetchHdr x (t - 8) = .ok h ∧ h.hk = 0xA ∧ h.len ≠ 0 ∧ hdrFields h k = true ∧ y = x.toHdr (t - 8) 0 := by
  unfold State.target at ok
  rw [if_neg (not_not.2 grid), if_neg (by simp [outside])] at ok
  split at ok
  · cases ok
  · rename_i h read
    split at ok
    · cases ok
    · rename_i hdr
      split at ok
      · cases ok
      · rename_i own
        exact ⟨h, read, by tauto, by tauto, by simpa using own, (Except.ok.inj ok).symm⟩

/-- A header of the stream's own names it (R163, R165). -/
theorem hdrFields_sid {h : SecHdr} (own : hdrFields h k = true) : h.sid = strmNum k := by
  simp only [hdrFields, Bool.and_eq_true, beq_iff_eq] at own
  tauto

end

/-- Settles O16: each word by what it reads and the check of its target, a link value by its fields, a target by the branches of the check. -/
theorem jumpsCallsReturnsTargets : Obligations.JumpsCallsReturnsTargets := by
  unfold Obligations.JumpsCallsReturnsTargets
  refine ⟨⟨?br, ?bri, ?bq, ?call, ?ret, ?link⟩, ?targets⟩
  case br => exact fun w s x legal target => br_next legal target
  case bri => exact fun w s t a b c x takes target => bri_next takes target
  case bq => exact fun w s t a b c x takes target => ⟨bq_next takes target, bqz_next takes target⟩
  case call => exact fun w s u x legal target gives => call_next legal target gives
  case ret => exact fun w s t a b c x takes back => ret_next takes back
  case link =>
    intro i p ent index low grid
    have fields := toNat_linkOf ent index low grid
    have flag : ent.toNat ≤ 1 := Bool.toNat_le ent
    exact ⟨by omega, by omega, flags_linkOf ent index low grid⟩
  case targets =>
    intro s k x t
    refine ⟨target_offGrid, target_inSection, fun y grid outside ok => ?_⟩
    obtain ⟨h, read, hk, len, own, rfl⟩ := target_header grid outside ok
    exact ⟨h, read, hk, len, hdrFields_sid own, rfl, rfl, rfl⟩

end Sys2Proof.Proofs
end

section
/-!
PROOFS. Words of one scalar result, their operations in independent arithmetic: OP 0x01 and OP 0x02 (R183, R184).
-/

namespace Sys2Proof.Proofs
open Sys2Proof Sys2Proof.Machine

/-! ### The operations of R183 on scalars as numbers -/

section
variable (a b : Word)

theorem ofInt_toNat_sub : BitVec.ofInt 64 ((a.toNat : Int) - b.toNat) = a - b := by
  rw [sub_eq_add_neg, BitVec.ofInt_add, BitVec.ofInt_neg, BitVec.ofInt_natCast, BitVec.ofInt_natCast, BitVec.ofNat_toNat, BitVec.ofNat_toNat,
    BitVec.setWidth_eq, BitVec.setWidth_eq, BitVec.sub_eq_add_neg]

theorem ofNat_mul_two_pow (n : Nat) : BitVec.ofNat 64 (a.toNat * 2 ^ n) = a <<< n :=
  BitVec.eq_of_toNat_eq (by rw [BitVec.toNat_ofNat, BitVec.toNat_shiftLeft, Nat.shiftLeft_eq])

theorem ofNat_div_two_pow (n : Nat) : BitVec.ofNat 64 (a.toNat / 2 ^ n) = a >>> n := by
  rw [← Nat.shiftRight_eq_div_pow, ← BitVec.toNat_ushiftRight, BitVec.ofNat_toNat, BitVec.setWidth_eq]

theorem ofInt_div_two_pow (n : Nat) : BitVec.ofInt 64 (a.toInt / 2 ^ n) = a.sshiftRight n := by
  have shifted : a.toInt / 2 ^ n = a.toInt >>> n := by rw [Int.shiftRight_eq_div_pow, Nat.cast_pow, Nat.cast_ofNat]
  rw [shifted, ← BitVec.toInt_sshiftRight, BitVec.ofInt_toInt]

theorem truth_slt : (if a.toInt < b.toInt then 1 else 0) = truth (a.slt b) := by
  simp [truth, BitVec.slt]

theorem truth_ult : (if a.toNat < b.toNat then 1 else 0) = truth (a.ult b) := by
  simp [truth, BitVec.ult]

/-- The smaller of two signed values is one of the two operands; so is the larger. -/
theorem ofInt_min_toInt : BitVec.ofInt 64 (min a.toInt b.toInt) = if a.slt b then a else b := by
  by_cases h : a.toInt < b.toInt
  · simp [BitVec.slt, h, min_eq_left h.le]
  · simp [BitVec.slt, h, min_eq_right (not_lt.1 h)]

theorem ofInt_max_toInt : BitVec.ofInt 64 (max a.toInt b.toInt) = if a.slt b then b else a := by
  by_cases h : a.toInt < b.toInt
  · simp [BitVec.slt, h, max_eq_right h.le]
  · simp [BitVec.slt, h, max_eq_left (not_lt.1 h)]

theorem ofNat_min_toNat : BitVec.ofNat 64 (min a.toNat b.toNat) = if a.ult b then a else b := by
  by_cases h : a.toNat < b.toNat
  · simp [BitVec.ult, h, min_eq_left h.le]
  · simp [BitVec.ult, h, min_eq_right (not_lt.1 h)]

theorem ofNat_max_toNat : BitVec.ofNat 64 (max a.toNat b.toNat) = if a.ult b then b else a := by
  by_cases h : a.toNat < b.toNat
  · simp [BitVec.ult, h, max_eq_right h.le]
  · simp [BitVec.ult, h, max_eq_left (not_lt.1 h)]

end

/-- Settles O8: each member's operation is the word operation of the model. -/
theorem threeRegisterResults : Obligations.ThreeRegisterResults := by
  unfold Obligations.ThreeRegisterResults
  intro w
  refine ⟨?add, ?sub, ?and, ?or, ?xor, ?shl, ?shr, ?sra, ?slt, ?sltu, ?min, ?max, ?minu, ?maxu⟩
  case add => exact scalarResult_of (fun _ => rfl) fun a b _ => (BitVec.add_def a b).symm
  case sub => exact scalarResult_of (fun _ => rfl) fun a b _ => ofInt_toNat_sub a b
  case and => exact scalarResult_of (fun _ => rfl) fun a b _ => rfl
  case or => exact scalarResult_of (fun _ => rfl) fun a b _ => rfl
  case xor => exact scalarResult_of (fun _ => rfl) fun a b _ => rfl
  case shl => exact scalarResult_of (fun _ => rfl) fun a b _ => ofNat_mul_two_pow a _
  case shr => exact scalarResult_of (fun _ => rfl) fun a b _ => ofNat_div_two_pow a _
  case sra => exact scalarResult_of (fun _ => rfl) fun a b _ => ofInt_div_two_pow a _
  case slt => exact scalarResult_of (fun _ => rfl) fun a b _ => truth_slt a b
  case sltu => exact scalarResult_of (fun _ => rfl) fun a b _ => truth_ult a b
  case min => exact scalarResult_of (fun _ => rfl) fun a b _ => ofInt_min_toInt a b
  case max => exact scalarResult_of (fun _ => rfl) fun a b _ => ofInt_max_toInt a b
  case minu => exact scalarResult_of (fun _ => rfl) fun a b _ => ofNat_min_toNat a b
  case maxu => exact scalarResult_of (fun _ => rfl) fun a b _ => ofNat_max_toNat a b

/-! ### The immediate as a signed number (R184) -/

/-- The immediate keeps its signed value when it is widened. -/
theorem toInt_sext64 (imm : BitVec 36) : (sext64 imm).toInt = imm.toInt := BitVec.toInt_signExtend_of_le (by decide)

theorem ofInt_add_toInt (a : Word) (imm : BitVec 36) : BitVec.ofInt 64 ((a.toNat : Int) + imm.toInt) = a + sext64 imm := by
  rw [BitVec.ofInt_add, BitVec.ofInt_natCast, BitVec.ofNat_toNat, BitVec.setWidth_eq, ← toInt_sext64, BitVec.ofInt_toInt]

/-- An immediate with a reserved bit set is an illegal instruction, whatever the state: every stream of every die may issue the word (R171, R174). -/
theorem alu_reserved {w : Wi} {n : Nat} (s : State) (cost : Nat) (f : Word → Word → Word → Word) (set : w.imm.toNat / 2 ^ n ≠ 0)
    (d a b c : OpK) : outcome s (s.alu (shI w n d a b c) cost f) = .next (s.raise (flt .illegalInstr)) := by
  have stream : s.cur ∈ allStrm := by cases s.cur <;> decide
  have reserved : immBits w n = false := beq_false_of_ne set
  have static : s.static (shI w n d a b c) = .error (.trap (flt .illegalInstr)) := by simp [State.static, shI, stream, reserved]
  simp only [State.alu, State.aluIf, static, res_error_bind, outcome_trap]
  exact takeFault_next (f := flt .illegalInstr) (by decide) s

/-- A word whose OP and FN no row gives decodes to nothing (R172). -/
theorem decodeWord_unassigned {x op fn : Nat} (hop : x / 2 ^ 88 = op) (hfn : x / 2 ^ 84 % 16 = fn) (small : op < 256)
    (row : opcodeRow op fn = none) : decodeWord x = none := by
  unfold decodeWord
  rw [hop, hfn, Nat.mod_eq_of_lt small, row]
  rfl

/-- Settles O9: the operations of R183 with the immediate as B; a reserved bit stops every shift before its operands are looked at. -/
theorem immediateResults : Obligations.ImmediateResults := by
  unfold Obligations.ImmediateResults
  intro w sh sh6 imm n
  refine ⟨⟨?addi, ?andi, ?ori, ?xori, ?shli, ?shri, ?srai, ?slti, ?sltiu, ?mini, ?maxi, ?minui, ?maxui⟩, ?reserved, ?unassigned⟩
  case addi => exact scalarResult_of (fun _ => rfl) fun a _ _ => ofInt_add_toInt a w.imm
  case andi => exact scalarResult_of (fun _ => rfl) fun a _ _ => rfl
  case ori => exact scalarResult_of (fun _ => rfl) fun a _ _ => rfl
  case xori => exact scalarResult_of (fun _ => rfl) fun a _ _ => rfl
  case shli => exact scalarResult_of (fun _ => rfl) fun a _ _ => ofNat_mul_two_pow a n
  case shri => exact scalarResult_of (fun _ => rfl) fun a _ _ => ofNat_div_two_pow a n
  case srai => exact scalarResult_of (fun _ => rfl) fun a _ _ => ofInt_div_two_pow a n
  case slti => exact scalarResult_of (fun _ => rfl) fun a _ _ => toInt_sext64 w.imm ▸ truth_slt a (sext64 w.imm)
  case sltiu => exact scalarResult_of (fun _ => rfl) fun a _ _ => truth_ult a (sext64 w.imm)
  case mini => exact scalarResult_of (fun _ => rfl) fun a _ _ => toInt_sext64 w.imm ▸ ofInt_min_toInt a (sext64 w.imm)
  case maxi => exact scalarResult_of (fun _ => rfl) fun a _ _ => toInt_sext64 w.imm ▸ ofInt_max_toInt a (sext64 w.imm)
  case minui => exact scalarResult_of (fun _ => rfl) fun a _ _ => ofNat_min_toNat a (sext64 w.imm)
  case maxui => exact scalarResult_of (fun _ => rfl) fun a _ _ => ofNat_max_toNat a (sext64 w.imm)
  case reserved =>
    intro set i hi s
    simp only [List.mem_cons, List.not_mem_nil, or_false] at hi
    obtain rfl | rfl | rfl := hi <;> exact alu_reserved (n := 6) s 1 _ set ..
  case unassigned =>
    intro x _ hop hfn
    simp only [List.mem_cons, List.not_mem_nil, or_false] at hfn
    obtain fn | fn | fn := hfn <;> exact decodeWord_unassigned hop fn (by decide) rfl

end Sys2Proof.Proofs
end

section
/-!
PROOFS. Products, quotients and the carry-less product (R182, R185).
-/

namespace Sys2Proof.Proofs
open Sys2Proof Sys2Proof.Machine

/-! ### The carry-less product (R185) -/

/-- One more bit of the second factor adds the first factor, moved to that bit's place, to a carry-less product. -/
theorem testBit_clmulNat_succ (w a b n : Nat) : (clmulNat (w + 1) a b).testBit n =
    ((clmulNat w a b).testBit n ^^ (decide (w ≤ n) && b.testBit w && a.testBit (n - w))) := by
  have last : clmulNat (w + 1) a b = if b.testBit w then clmulNat w a b ^^^ (a <<< w) else clmulNat w a b := by
    unfold clmulNat
    rw [List.range_succ, List.foldl_append]
    rfl
  rw [last]
  cases b.testBit w
  · simp
  · simp [Nat.testBit_xor, Nat.testBit_shiftLeft]

theorem length_filter_range_succ (p : Nat → Bool) (w : Nat) :
    ((List.range (w + 1)).filter p).length = ((List.range w).filter p).length + (p w).toNat := by
  rw [List.range_succ, List.filter_append, List.length_append]
  cases h : p w <;> simp [h]

theorem odd_add_toNat (n : Nat) (p : Bool) : ((n + p.toNat) % 2 == 1) = ((n % 2 == 1) ^^ p) := by
  rcases Nat.mod_two_eq_zero_or_one n with h | h <;> cases p <;> simp [Nat.add_mod, h]

/-- Bit `n` of a carry-less product is the parity of the pairs of set bits whose places add up to `n`. -/
theorem testBit_clmulNat (w a b n : Nat) : (clmulNat w a b).testBit n =
    (((List.range w).filter fun i => decide (i ≤ n) && b.testBit i && a.testBit (n - i)).length % 2 == 1) := by
  induction w with
  | zero => simp [clmulNat]
  | succ w ih => rw [testBit_clmulNat_succ, ih, length_filter_range_succ, odd_add_toNat]

/-- The places of the set bits of `a` that pair with a set bit of `b` for bit `n` of the product. -/
def pairPlaces (a b : Word) (n : Nat) : Finset Nat :=
  (Finset.range 64).filter fun i => (decide (i ≤ n) && a.getLsbD i && b.getLsbD (n - i)) = true

theorem clmulBit_eq (a b : Word) (n : Nat) : clmulBit a b n = ((pairPlaces a b n).card % 2 == 1) := by
  have card : (pairPlaces a b n).card = ((List.range 64).filter fun i => decide (i ≤ n) && a.getLsbD i && b.getLsbD (n - i)).length := by
    simp only [pairPlaces, Finset.card, Finset.filter_val, Finset.range_val, Multiset.range, Multiset.filter_coe, Multiset.coe_card,
      Bool.decide_eq_true]
  rw [card, clmulBit]

theorem mem_pairPlaces {a b : Word} {n i : Nat} : i ∈ pairPlaces a b n ↔ i ≤ n ∧ a.getLsbD i = true ∧ b.getLsbD (n - i) = true := by
  simp only [pairPlaces, Finset.mem_filter, Finset.mem_range, Bool.and_eq_true, decide_eq_true_eq, and_assoc]
  exact ⟨And.right, fun h => ⟨BitVec.lt_of_getLsbD h.2.1, h⟩⟩

/-- A pair may be named by its place in either factor. -/
theorem pairPlaces_flip {a b : Word} {n i : Nat} (h : i ∈ pairPlaces a b n) : n - i ∈ pairPlaces b a n ∧ n - (n - i) = i := by
  obtain ⟨le, ha, hb⟩ := mem_pairPlaces.1 h
  have back : n - (n - i) = i := Nat.sub_sub_self le
  exact ⟨mem_pairPlaces.2 ⟨Nat.sub_le .., hb, back.symm ▸ ha⟩, back⟩

theorem clmulBit_comm (a b : Word) (n : Nat) : clmulBit a b n = clmulBit b a n := by
  have same : (pairPlaces a b n).card = (pairPlaces b a n).card :=
    Finset.card_nbij' (n - ·) (n - ·) (fun _ h => (pairPlaces_flip h).1) (fun _ h => (pairPlaces_flip h).1)
      (fun _ h => (pairPlaces_flip h).2) (fun _ h => (pairPlaces_flip h).2)
  rw [clmulBit_eq, clmulBit_eq, same]

theorem testBit_clmul (a b : Word) (n : Nat) : (clmulNat 64 a.toNat b.toNat).testBit n = clmulBit a b n :=
  (testBit_clmulNat 64 a.toNat b.toNat n).trans (clmulBit_comm b a n)

/-! ### Quotients (R182, R185) -/

/-- A divide whose sources can be read and whose destination accepts completes while the divider is free, and holds it for its cost (R182). -/
theorem divide_next {s t u : State} {h : Shape} {a b c : Word} {signed : Bool} {f : Word → Word → Word} (takes : s.takes h a b c t)
    (free : s.strm.divBusy ≤ s.now) (gives : t.gives h.hd.d (f a b) (divCost signed a b) u) :
    outcome s (s.divide h signed f) = .next ((u.upd fun x => { x with divBusy := s.now + divCost signed a b }).retire 1) := by
  obtain ⟨⟨static, await⟩, sources⟩ := takes
  unfold State.gives at gives
  simp [State.divide, static, await, sources, free, gives]

theorem ofInt_tdiv (a b : Word) : BitVec.ofInt 64 (a.toInt.tdiv b.toInt) = a.sdiv b :=
  BitVec.eq_of_toInt_eq (by rw [BitVec.toInt_ofInt, BitVec.toInt_sdiv])

theorem ofInt_tmod (a b : Word) : BitVec.ofInt 64 (a.toInt.tmod b.toInt) = a.srem b := by
  rw [← BitVec.toInt_srem, BitVec.ofInt_toInt]

theorem ofNat_div (a b : Word) : BitVec.ofNat 64 (a.toNat / b.toNat) = a / b := by
  rw [← BitVec.toNat_udiv, BitVec.ofNat_toNat, BitVec.setWidth_eq]

theorem ofNat_mod (a b : Word) : BitVec.ofNat 64 (a.toNat % b.toNat) = a % b := by
  rw [← BitVec.toNat_umod, BitVec.ofNat_toNat, BitVec.setWidth_eq]

/-- Settles O10: products by their values, the carry-less product by the pairs of set bits behind each of its bits, quotients and remainders by
the divide's own completion. -/
theorem multiplyDivideResults : Obligations.MultiplyDivideResults := by
  unfold Obligations.MultiplyDivideResults
  intro w
  refine ⟨?mul, ?mulh, ?mulhu, ?carryless, fun s a b c t u => ⟨?div, ?divu, ?rem, ?remu⟩⟩
  case mul => exact scalarResult_of (fun _ => rfl) fun a b _ => (BitVec.mul_def (x := a) (y := b)).symm
  case mulh => exact scalarResult_of (fun _ => rfl) fun _ _ _ => rfl
  case mulhu => exact scalarResult_of (fun _ => rfl) fun _ _ _ => rfl
  case carryless =>
    refine ⟨_, _, scalarResult_of (fun _ => rfl) fun _ _ _ => rfl, scalarResult_of (fun _ => rfl) fun _ _ _ => rfl, fun a b n low => ⟨?_, ?_⟩⟩
    · rw [BitVec.getLsbD_ofNat, testBit_clmul, decide_eq_true low, Bool.true_and]
    · rw [BitVec.getLsbD_ofNat, Nat.testBit_div_two_pow, testBit_clmul, decide_eq_true low, Bool.true_and]
  case div => exact fun takes free gives => divide_next takes free (ofInt_tdiv a b ▸ gives)
  case divu => exact fun takes free gives => divide_next takes free (ofNat_div a b ▸ gives)
  case rem => exact fun takes free gives => divide_next takes free (ofInt_tmod a b ▸ gives)
  case remu => exact fun takes free gives => divide_next takes free (ofNat_mod a b ▸ gives)

end Sys2Proof.Proofs
end

section
/-!
PROOFS. Bit operations and moves (R186, R187, R205).
-/

namespace Sys2Proof.Proofs
open Sys2Proof Sys2Proof.Machine

/-! ### Counts (R186) -/

theorem clzNat_bounds {w x : Nat} (small : x < 2 ^ w) :
    clzNat w x ≤ w ∧ x < 2 ^ (w - clzNat w x) ∧ (clzNat w x < w → 2 ^ (w - 1 - clzNat w x) ≤ x) := by
  unfold clzNat
  rw [Nat.mod_eq_of_lt small]
  by_cases zero : x = 0
  · simp [zero]
  · have top : x.log2 < w := (Nat.log2_lt zero).2 small
    rw [if_neg zero, show w - (w - 1 - x.log2) = x.log2 + 1 by omega, show w - 1 - (w - 1 - x.log2) = x.log2 by omega]
    exact ⟨by omega, Nat.lt_log2_self, fun _ => Nat.log2_self_le zero⟩

/-- The number of trailing zeros is the place of the first set bit, or the width where no bit is set. -/
theorem ctzNat_first (w x : Nat) :
    ctzNat w x ≤ w ∧ (∀ i < ctzNat w x, x.testBit i = false) ∧ (ctzNat w x < w → x.testBit (ctzNat w x) = true) := by
  unfold ctzNat
  cases first : (List.range w).find? fun i => x.testBit i with
  | none => exact ⟨le_rfl, fun i hi => by simpa using List.find?_range_eq_none.1 first i hi, fun h => absurd h (lt_irrefl w)⟩
  | some k =>
    obtain ⟨set, low, clear⟩ := List.find?_range_eq_some.1 first
    exact ⟨(List.mem_range.1 low).le, fun i hi => by simpa using clear i hi, fun _ => set⟩

theorem popcount_eq (w x : Nat) : popcount w x = ((List.range w).filter fun i => x.testBit i).length := List.countP_eq_length_filter

theorem popcount_le (w x : Nat) : popcount w x ≤ w := List.countP_le_length.trans_eq List.length_range

/-! ### Bits and bytes in reverse order (R186) -/

/-- A sum of chosen terms, each twice another, is twice the sum of the others. -/
theorem foldl_double (p : Nat → Bool) (f g : Nat → Nat) (l : List Nat) (twice : ∀ i ∈ l, f i = 2 * g i) (a : Nat) :
    l.foldl (fun acc i => if p i then acc + f i else acc) (2 * a) = 2 * l.foldl (fun acc i => if p i then acc + g i else acc) a := by
  induction l generalizing a with
  | nil => rfl
  | cons i r ih =>
    have tail := ih fun j hj => twice j (List.mem_cons_of_mem i hj)
    rw [List.foldl_cons, List.foldl_cons, twice i List.mem_cons_self, ← Nat.mul_add]
    cases p i
    · exact tail a
    · exact tail (a + g i)

/-- Reversing one bit more puts it below the reverse of the others. -/
theorem bitRev_succ (w x : Nat) : bitRev (w + 1) x = 2 * bitRev w x + (x.testBit w).toNat := by
  have others := foldl_double (fun i => x.testBit i) (fun i => 2 ^ (w - i)) (fun i => 2 ^ (w - 1 - i)) (List.range w)
    (fun i hi => by rw [← Nat.pow_succ', show (w - 1 - i).succ = w - i by have := List.mem_range.1 hi; omega]) 0
  unfold bitRev
  rw [List.range_succ, List.foldl_append, ← others]
  cases hb : x.testBit w <;> simp [hb]

theorem testBit_bitRev (w x j : Nat) : (bitRev w x).testBit j = (decide (j < w) && x.testBit (w - 1 - j)) := by
  induction w generalizing j with
  | zero => simp [bitRev]
  | succ w ih =>
    rw [bitRev_succ, Nat.mul_comm, ← Nat.pow_one 2, Nat.add_comm, testBit_above (x.testBit w).toNat_lt]
    cases j with
    | zero => cases hb : x.testBit w <;> simp [hb]
    | succ j => simp [ih, show w - 1 - j = w - (j + 1) by omega]

/-- Bit `j` of byte `i` of a little-endian number. -/
theorem testBit_leNat (l : List Byte) (i : Nat) {j : Nat} (hj : j < 8) : (leNat l).testBit (8 * i + j) = (l[i]?.getD 0).getLsbD j := by
  induction l generalizing i with
  | nil => simp [leNat]
  | cons b r ih =>
    rw [leNat, Nat.mul_comm, show 256 = 2 ^ 8 from rfl, testBit_above b.isLt]
    cases i with
    | zero => rw [if_pos (by omega), Nat.mul_zero, Nat.zero_add]; rfl
    | succ i => rw [if_neg (by omega), show 8 * (i + 1) + j - 8 = 8 * i + j by omega, ih i]; rfl

theorem getElem?_leBytes {n i : Nat} (x : Nat) (hi : i < n) : (leBytes n x)[i]? = some (BitVec.ofNat 8 (x / 256 ^ i)) := by
  induction n generalizing x i with
  | zero => omega
  | succ n ih =>
    cases i with
    | zero => simp [leBytes]
    | succ i => rw [leBytes, List.getElem?_cons_succ, ih _ (by omega), Nat.div_div_eq_div_mul, Nat.pow_succ']

theorem getLsbD_byteSwap (a : Word) {i j : Nat} (hi : i < 8) (hj : j < 8) :
    (byteSwap a).getLsbD (8 * i + j) = a.getLsbD (8 * (7 - i) + j) := by
  have byte : (leBytes 8 a.toNat).reverse[i]? = some (BitVec.ofNat 8 (a.toNat / 256 ^ (7 - i))) := by
    rw [List.getElem?_reverse' (j := 7 - i) (by rw [leBytes_length]; omega), getElem?_leBytes _ (by omega)]
  rw [byteSwap, BitVec.getLsbD_ofNat, decide_eq_true (by omega), Bool.true_and, testBit_leNat _ _ hj, byte, Option.getD_some,
    BitVec.getLsbD_ofNat, decide_eq_true hj, Bool.true_and, show 256 = 2 ^ 8 from rfl, ← Nat.pow_mul, Nat.testBit_div_two_pow, Nat.add_comm j]
  rfl

/-! ### Bit fields (R186) -/

theorem fieldOk_iff {w : Wi} : fieldOk w = true ↔ 1 ≤ fieldWid w ∧ fieldWid w ≤ 64 ∧ fieldPos w + fieldWid w ≤ 64 := by
  simp [fieldOk, and_assoc]

theorem testBit_fieldOf (w : Wi) (a : Word) (i : Nat) :
    (fieldOf w a).testBit i = (decide (i < fieldWid w) && a.getLsbD (i + fieldPos w)) := by
  rw [fieldOf, Nat.testBit_mod_two_pow, Nat.testBit_div_two_pow]
  rfl

/-- The low bits of a number read as signed are the bit vector of them read so. -/
theorem sextNat_eq_toInt (w x : Nat) : sextNat w x = (BitVec.ofNat w x).toInt := by
  rw [BitVec.toInt_eq_toNat_cond, BitVec.toNat_ofNat]
  rfl

/-- The sign-extended field: above its width every bit is its top one. -/
theorem getLsbD_extrs {w : Wi} (a : Word) (wide : 1 ≤ fieldWid w) {i : Nat} (hi : i < 64) :
    (BitVec.ofInt 64 (sextNat (fieldWid w) (fieldOf w a))).getLsbD i = a.getLsbD (min i (fieldWid w - 1) + fieldPos w) := by
  have bit {j : Nat} (hj : j < fieldWid w) : (BitVec.ofNat (fieldWid w) (fieldOf w a)).getLsbD j = a.getLsbD (j + fieldPos w) := by
    rw [BitVec.getLsbD_ofNat, testBit_fieldOf, decide_eq_true hj, Bool.true_and, Bool.true_and]
  have extended : BitVec.ofInt 64 (sextNat (fieldWid w) (fieldOf w a)) = (BitVec.ofNat (fieldWid w) (fieldOf w a)).signExtend 64 := by
    rw [sextNat_eq_toInt, BitVec.signExtend]
  rw [extended, BitVec.getLsbD_signExtend, decide_eq_true hi, Bool.true_and]
  by_cases inside : i < fieldWid w
  · rw [if_pos inside, bit inside, min_eq_left (by omega)]
  · rw [if_neg inside, BitVec.msb_eq_getLsbD_last, bit (by omega), min_eq_right (by omega)]

/-- B outside the field, the low bits of A in it. -/
theorem getLsbD_insertField (w : Wi) (a b : Word) {i : Nat} (hi : i < 64) : (insertField w a b).getLsbD i =
    if fieldPos w ≤ i ∧ i < fieldPos w + fieldWid w then a.getLsbD (i - fieldPos w) else b.getLsbD i := by
  have mask : (BitVec.ofNat 64 ((2 ^ fieldWid w - 1) * 2 ^ fieldPos w)).getLsbD i =
      decide (fieldPos w ≤ i ∧ i < fieldPos w + fieldWid w) := by
    rw [BitVec.getLsbD_ofNat, Nat.testBit_mul_two_pow, Nat.testBit_two_pow_sub_one, decide_eq_true hi, Bool.true_and, ← Bool.decide_and]
    congr 1
    simp only [eq_iff_iff]
    omega
  unfold insertField
  simp only [BitVec.getLsbD_or, BitVec.getLsbD_and, BitVec.getLsbD_not, BitVec.getLsbD_shiftLeft, mask, decide_eq_true hi, Bool.true_and]
  by_cases inside : fieldPos w ≤ i ∧ i < fieldPos w + fieldWid w
  · simp [inside, Nat.not_lt.2 inside.1]
  · simp [inside]

/-! ### The words -/

/-- A word whose own check holds is one without a check. -/
theorem aluIf_true {s : State} {h : Shape} {ok : Bool} (holds : ok = true) (cost : Nat) (f : Word → Word → Word → Word) :
    outcome s (s.aluIf h ok cost f) = outcome s (s.alu h cost f) := by rw [holds]; rfl

/-- A word whose own check fails is an illegal operand, before its sources are looked at (R174). -/
theorem aluIf_false {s : State} {h : Shape} {ok : Bool} (fails : ok = false) (static : s.static h = .ok ()) (cost : Nat)
    (f : Word → Word → Word → Word) : outcome s (s.aluIf h ok cost f) = .next (s.raise (flt .illegalOperand)) := by
  simp only [State.aluIf, static, fails, Bool.not_false, trapIf_true, res_ok_bind, res_error_bind, outcome_trap]
  exact takeFault_next (f := flt .illegalOperand) (by decide) s

/-- Settles O11: each operation by what its result's bits, or its inequalities, are; the fields by their check. -/
theorem bitOperationResults : Obligations.BitOperationResults := by
  unfold Obligations.BitOperationResults
  intro w sh field
  have small {n : Nat} (h : n ≤ 64) : (BitVec.ofNat 64 n).toNat = n := by
    rw [BitVec.toNat_ofNat, Nat.mod_eq_of_lt (by omega)]
  refine ⟨⟨_, scalarResult_of (fun _ => rfl) fun _ _ _ => rfl, ?clz⟩, ⟨_, scalarResult_of (fun _ => rfl) fun _ _ _ => rfl, ?ctz⟩,
    ⟨_, scalarResult_of (fun _ => rfl) fun _ _ _ => rfl, ?popc⟩, ⟨_, scalarResult_of (fun _ => rfl) fun _ _ _ => rfl, ?brev⟩,
    ⟨_, scalarResult_of (fun _ => rfl) fun _ _ _ => rfl, ?bswap⟩, ?inside, ?outside⟩
  case clz =>
    intro a
    obtain ⟨le, below, above⟩ := clzNat_bounds a.isLt
    rw [small le]
    exact ⟨le, below, above⟩
  case ctz =>
    intro a
    obtain ⟨le, clear, set⟩ := ctzNat_first 64 a.toNat
    rw [small le]
    exact ⟨le, clear, set⟩
  case popc => exact fun a => (small (popcount_le 64 a.toNat)).trans (popcount_eq 64 a.toNat)
  case brev =>
    intro a i hi
    rw [BitVec.getLsbD_ofNat, testBit_bitRev, decide_eq_true hi, Bool.true_and, Bool.true_and]
    rfl
  case bswap => exact fun a i hi j hj => getLsbD_byteSwap a hi hj
  case inside =>
    intro legal
    have ok : fieldOk w = true := fieldOk_iff.2 legal
    refine ⟨⟨_, scalarResult_of (fun _ => aluIf_true ok ..) fun _ _ _ => rfl, fun a i hi => ?_⟩,
      ⟨_, scalarResult_of (fun _ => aluIf_true ok ..) fun _ _ _ => rfl, fun a b i hi => getLsbD_insertField w a b hi⟩,
      ⟨_, scalarResult_of (fun _ => aluIf_true ok ..) fun _ _ _ => rfl, fun a i hi => getLsbD_extrs a legal.1 hi⟩⟩
    rw [BitVec.getLsbD_ofNat, testBit_fieldOf, decide_eq_true hi, Bool.true_and]
  case outside =>
    intro illegal s static i hi
    have fails : fieldOk w = false := Bool.eq_false_iff.2 fun h => illegal (fieldOk_iff.1 h)
    simp only [List.mem_cons, List.not_mem_nil, or_false] at hi
    obtain rfl | rfl := hi <;> exact aluIf_false fails static ..

/-- Bits [63:36] come from the immediate, the rest from A (R187). -/
theorem getLsbD_movhi (imm : BitVec 36) (a : Word) {i : Nat} (hi : i < 64) :
    (BitVec.ofNat 64 (imm.toNat % 2 ^ 28 * 2 ^ 36 + a.toNat % 2 ^ 36)).getLsbD i = if i < 36 then a.getLsbD i else imm.getLsbD (i - 36) := by
  rw [BitVec.getLsbD_ofNat, Nat.add_comm, testBit_above (Nat.mod_lt _ (by decide)), decide_eq_true hi, Bool.true_and, Nat.testBit_mod_two_pow,
    Nat.testBit_mod_two_pow]
  by_cases low : i < 36
  · rw [if_pos low, if_pos low, decide_eq_true low, Bool.true_and]; rfl
  · rw [if_neg low, if_neg low, decide_eq_true (by omega), Bool.true_and]; rfl

/-- Settles O12: each move is a word of one scalar result, its source or sources unchanged. -/
theorem moveResults : Obligations.MoveResults := by
  unfold Obligations.MoveResults
  intro w z
  refine ⟨?movi, ⟨_, scalarResult_of (fun _ => rfl) fun _ _ _ => rfl, ?movhi⟩, ?mov, ?sel, ?sqw, ?sqr⟩
  case movi => exact scalarResult_of (fun _ => rfl) fun _ _ _ => rfl
  case movhi => exact fun a i hi => getLsbD_movhi w.imm a hi
  case mov => exact scalarResult_of (fun _ => rfl) fun _ _ _ => rfl
  case sel => exact scalarResult_of (fun _ => rfl) fun a b c => (ite_not (c = 0) a b).symm
  case sqw => exact scalarResult_of (fun _ => rfl) fun _ _ _ => rfl
  case sqr => exact scalarResult_of (fun _ => rfl) fun _ _ _ => rfl

end Sys2Proof.Proofs
end

section
/-!
PROOFS. Conditional branches, loop words, register rotation (R189, R191 to R193).
-/

namespace Sys2Proof.Proofs
open Sys2Proof Sys2Proof.Machine

/-! ### Conditional branches (R189) -/

section
variable {s t : State} {h : Shape} {a b c tgt : Word} {x : StrmSt} {w : Wi}

/-- A branch that stands legal faults on its target before it reads its sources, taken or not (R174, R189). -/
theorem branchTo_badTarget {f : FaultInfo} (static : s.static h = .ok ()) (bad : s.target s.cur s.strm tgt = .error (.trap f))
    (named : f.code ≠ .noBacking) (take : Word → Word → Bool) (cost : Nat) :
    outcome s (s.branchTo h (.ok tgt) take cost) = .next (s.raise f) := by
  simp only [State.branchTo, static, bad, res_ok_bind, res_error_bind, outcome_trap]
  exact takeFault_next named s

/-- A branch goes by what its condition says of the sources, `p` being that condition in numbers (R189). -/
theorem branch_next {take : Word → Word → Bool} {p : Bool} (takes : s.takes (shI w 36 .none .sSrc .sSrc .none) a b c t)
    (target : s.target s.cur s.strm (s.dispTarget w) = .ok x) (means : p = take a b) :
    outcome s (s.branch w take) = .next (if p then t.transfer x 2 else t.retire 1) := by
  rw [means]
  exact branchTo_next takes target

end

/-- Settles O15: the condition of each branch in numbers; the target's fault comes before the sources are read. -/
theorem conditionalBranches : Obligations.ConditionalBranches := by
  unfold Obligations.ConditionalBranches
  intro w s t a b c x f sh tgt goes
  refine ⟨fun takes target => ⟨?beq, ?bne, ?blt, ?bge, ?bltu, ?bgeu⟩, fun static bad named i hi => ?faults⟩
  case beq => exact branch_next takes target rfl
  case bne => exact branch_next takes target (by rw [bne, decide_not]; rfl)
  case blt => exact branch_next takes target rfl
  case bge => exact branch_next takes target (by simp [BitVec.slt, ← decide_not])
  case bltu => exact branch_next takes target rfl
  case bgeu => exact branch_next takes target (by simp [BitVec.ult, ← decide_not])
  case faults =>
    simp only [List.mem_cons, List.not_mem_nil, or_false] at hi
    obtain rfl | rfl | rfl | rfl | rfl | rfl := hi <;> exact branchTo_badTarget static bad named ..

/-! ### Loops (R191, R192) -/

section
variable {s u : State} {x : StrmSt} {n : Word} {w : Wi}

section
variable (legal : s.legal (shI w 36 .sReg .none .none .none)) (target : s.target s.cur s.strm (s.dispTarget w) = .ok x)
  (count : s.loopCount w.d = .ok n)
include legal target count

/-- LOOP with both counters at zero falls through. -/
theorem loop_ends (lc : s.strm.lc = 0) (zero : n = 0) : exec (.loop w) s = .next (s.retire 1) := by
  obtain ⟨static, await⟩ := legal
  show outcome s (s.loop w) = _
  simp [State.loop, static, await, target, count, lc, zero]

/-- LOOP counts `lc` down while it is not zero; the first window mask is then all ones. -/
theorem loop_countsLc (lc : s.strm.lc ≠ 0) :
    exec (.loop w) s = .next ((s.setWindowMask (s.strm.rrb - 1).toNat 0 (BitVec.allOnes 1024)).transfer
      { x with sregs := s.strm.sregs, ready := s.strm.ready, lc := x.lc - 1, rrb := s.strm.rrb - 1 } 1) := by
  obtain ⟨static, await⟩ := legal
  show outcome s (s.loop w) = _
  simp only [State.loop, static, await, target, count, res_ok_bind, lc, false_and, if_false, ne_eq, not_false_eq_true, decide_true, if_true, outcome_ok]

/-- LOOP counts D down once `lc` is zero; the first window mask is then all zeros. -/
theorem loop_countsD (lc : s.strm.lc = 0) (more : n ≠ 0) (gives : s.gives w.d (n - 1) 1 u) :
    exec (.loop w) s = .next ((u.setWindowMask (s.strm.rrb - 1).toNat 0 0).transfer
      { x with sregs := u.strm.sregs, ready := u.strm.ready, lc := x.lc, rrb := s.strm.rrb - 1 } 1) := by
  obtain ⟨static, await⟩ := legal
  unfold State.gives at gives
  show outcome s (s.loop w) = _
  simp only [State.loop, static, await, target, count, res_ok_bind, lc, more, and_false, if_false, ne_eq, not_true_eq_false, decide_false,
    Bool.false_eq_true, gives, outcome_ok]

theorem loops_ends (zero : n = 0) : exec (.loops w) s = .next (s.retire 1) := by
  obtain ⟨static, await⟩ := legal
  show outcome s (s.loops w) = _
  simp [State.loops, static, await, target, count, zero]

theorem loops_counts (more : n ≠ 0) (gives : s.gives w.d (n - 1) 1 u) :
    exec (.loops w) s = .next (u.transfer { x with sregs := u.strm.sregs, ready := u.strm.ready } 1) := by
  obtain ⟨static, await⟩ := legal
  unfold State.gives at gives
  show outcome s (s.loops w) = _
  simp only [State.loops, static, await, target, count, res_ok_bind, more, if_false, gives, outcome_ok]

end

theorem loopi_next (legal : s.legal (shI w 36 .none .none .none .none)) (target : s.target s.cur s.strm (s.dispTarget w) = .ok x) :
    exec (.loopi w) s = .next (if s.strm.lc = 0 then s.retire 1 else s.transfer { x with lc := x.lc - 1 } 1) := by
  obtain ⟨static, await⟩ := legal
  show outcome s (s.loopi w) = _
  simp [State.loopi, static, await, target]

end

/-! ### Rotation (R33, R36, R193) -/

@[simp] theorem mask_setStrm (c : Core) (k : Strm) (x : StrmSt) (n : Nat) : (c.setStrm k x).mask n = c.mask n := by cases k <;> rfl

theorem strm_withMasks (s : State) (m : Sparse (BitVec 1024)) : ({ s with core := { s.core with masks := m } } : State).strm = s.strm := by
  unfold State.strm Core.strm
  cases s.cur <;> rfl

/-- The next word's stream rotates as this one's (R182). -/
theorem retire_rrb (s : State) (cost : Nat) : (s.retire cost).strm.rrb = s.strm.rrb := by
  rw [State.retire, State.strm_upd]
  have kept := congrArg StrmSt.rrb (show _ = s.strm from advance_sameBut s.strm)
  exact kept

theorem setWindowMask_frame (s : State) (r i : Nat) (v : BitVec 1024) :
    ∃ m, s.setWindowMask r i v = { s with core := { s.core with masks := m } } := by
  unfold State.setWindowMask
  split
  · exact ⟨s.core.masks, rfl⟩
  · unfold Core.setMask
    split
    · exact ⟨s.core.masks, rfl⟩
    · exact ⟨_, rfl⟩

/-- The four names of a window stand for four masks, none of them m0 (R33). -/
theorem physM_window {k : Strm} {m : Nat} (window : windowMask k = some m) (r : Nat) {i j : Nat} (hi : i < 4) (hj : j < 4) :
    physM k r (m + i) ≠ 0 ∧ (physM k r (m + i) = physM k r (m + j) ↔ i = j) := by
  cases k with
  | a => cases window
  | v =>
    obtain rfl : 8 = m := Option.some.inj window
    simp only [physM, show 8 ≤ 8 + i ∧ 8 + i < 12 by omega, show 8 ≤ 8 + j ∧ 8 + j < 12 by omega, and_self, if_true]
    omega
  | m =>
    obtain rfl : 12 = m := Option.some.inj window
    simp only [physM, show 12 ≤ 12 + i ∧ 12 + i < 16 by omega, show 12 ≤ 12 + j ∧ 12 + j < 16 by omega, and_self, if_true]
    omega

theorem mask_setWindowMask {s : State} {k : Strm} {m : Nat} (cur : s.cur = k) (window : windowMask k = some m) (r : Nat) {i j : Nat} (hi : i < 4)
    (hj : j < 4) (v : BitVec 1024) :
    (s.setWindowMask r i v).core.mask (physM k r (m + j)) = if j = i then v else s.core.mask (physM k r (m + j)) := by
  obtain ⟨named, -⟩ := physM_window window r hi hj
  obtain ⟨-, same⟩ := physM_window window r hj hi
  simp only [State.setWindowMask, cur, window, State.updC_core, Core.mask_setMask _ _ _ _ named, same]

/-- RRBSET with PRIME: the first mask of the window all ones, the other three zero (R193). -/
def primed (s : State) (r : Nat) : State :=
  (((s.setWindowMask r 0 (BitVec.allOnes 1024)).setWindowMask r 1 0).setWindowMask r 2 0).setWindowMask r 3 0

theorem primed_frame (s : State) (r : Nat) : ∃ m, primed s r = { s with core := { s.core with masks := m } } := by
  unfold primed
  obtain ⟨_, e⟩ := setWindowMask_frame s r 0 (BitVec.allOnes 1024)
  rw [e]
  obtain ⟨_, e⟩ := setWindowMask_frame { s with core := { s.core with masks := _ } } r 1 0
  rw [e]
  obtain ⟨_, e⟩ := setWindowMask_frame { s with core := { s.core with masks := _ } } r 2 0
  rw [e]
  exact setWindowMask_frame ..

@[simp] theorem setWindowMask_cur (s : State) (r i : Nat) (v : BitVec 1024) : (s.setWindowMask r i v).cur = s.cur := by
  obtain ⟨_, e⟩ := setWindowMask_frame s r i v
  rw [e]

theorem mask_primed {s : State} {k : Strm} {m : Nat} (cur : s.cur = k) (window : windowMask k = some m) (r : Nat) {j : Nat} (hj : j < 4) :
    (primed s r).core.mask (physM k r (m + j)) = if j = 0 then BitVec.allOnes 1024 else 0 := by
  unfold primed
  rw [mask_setWindowMask (by simpa) window r (by decide) hj, mask_setWindowMask (by simpa) window r (by decide) hj,
    mask_setWindowMask (by simpa) window r (by decide) hj, mask_setWindowMask cur window r (by decide) hj]
  obtain rfl | rfl | rfl | rfl : j = 0 ∨ j = 1 ∨ j = 2 ∨ j = 3 := by omega
  all_goals rfl

/-- The state in which RRBSET retires (R193). -/
def rotated (s : State) (w : Wi) : State :=
  let s1 := s.upd fun x => { x with rrb := BitVec.ofNat 6 (w.imm.toNat % 64) }
  if w.imm.getLsbD 6 then primed s1 (w.imm.toNat % 64) else s1

theorem rrbset_next {s : State} {w : Wi} (legal : s.legal (shI w 7 .none .none .none .none))
    (windowed : w.imm.getLsbD 6 = true → s.cur ≠ .a) : exec (.rrbset w) s = .next ((rotated s w).retire 1) := by
  obtain ⟨static, await⟩ := legal
  have primes : (w.imm.getLsbD 6 && s.cur == .a) = false := by
    cases h : w.imm.getLsbD 6
    · rfl
    · exact beq_false_of_ne (windowed h)
  show outcome s (s.rrbset w) = _
  simp only [State.rrbset, static, await, primes, trapIf_false, res_ok_bind, outcome_ok]
  rfl

/-- RRBSET changes the rotation base and masks alone. -/
theorem rotated_frame (s : State) (w : Wi) : ∃ m, rotated s w =
    { s with core := { s.core.setStrm s.cur { s.strm with rrb := BitVec.ofNat 6 (w.imm.toNat % 64) } with masks := m } } := by
  unfold rotated
  dsimp only
  split
  · exact primed_frame ..
  · exact ⟨_, rfl⟩

theorem rotated_rrb (s : State) (w : Wi) : (rotated s w).strm.rrb.toNat = w.imm.toNat % 64 := by
  obtain ⟨m, e⟩ := rotated_frame s w
  have strm : (rotated s w).strm = { s.strm with rrb := BitVec.ofNat 6 (w.imm.toNat % 64) } := by
    rw [e]
    exact (strm_withMasks (s.upd fun x => { x with rrb := BitVec.ofNat 6 (w.imm.toNat % 64) }) m).trans (State.strm_upd ..)
  rw [strm, BitVec.toNat_ofNat, Nat.mod_mod]

theorem rotated_unprimed {s : State} {w : Wi} (h : w.imm.getLsbD 6 = false) : (rotated s w).core.masks = s.core.masks := by
  simp only [rotated, h, Bool.false_eq_true, if_false, State.upd_core, Core.setStrm_masks]

theorem rotated_primed {s : State} {w : Wi} (h : w.imm.getLsbD 6 = true) (windowed : s.cur ≠ .a) {i : Nat} (hi : i < 4) :
    (rotated s w).core.mask (physM s.cur (w.imm.toNat % 64) ((if s.cur = .v then 8 else 12) + i)) =
      if i = 0 then BitVec.allOnes 1024 else 0 := by
  have window : windowMask s.cur = some (if s.cur = .v then 8 else 12) := by
    cases k : s.cur
    · exact absurd k windowed
    · rfl
    · rfl
  simp only [rotated, h, if_true]
  exact mask_primed (State.upd_cur ..) window _ hi

/-- Settles O17: each loop word by the counter that is not zero yet, RRBSET by what its window masks read. -/
theorem loopsAndRotation : Obligations.LoopsAndRotation := by
  unfold Obligations.LoopsAndRotation
  refine ⟨fun w s x n legal target count => ⟨?ends, ?countsLc, ?countsD, ?loopsEnds, ?loopsCounts⟩, fun w s x => ?loopi,
    fun w s legal windowed => ?rrbset⟩
  case ends => exact loop_ends legal target count
  case countsLc => exact loop_countsLc legal target count
  case countsD => exact fun u => loop_countsD legal target count
  case loopsEnds => exact loops_ends legal target count
  case loopsCounts => exact fun u => loops_counts legal target count
  case loopi => exact loopi_next
  case rrbset =>
    have base : ((rotated s w).retire 1).strm.rrb.toNat = w.imm.toNat % 64 := by rw [retire_rrb, rotated_rrb]
    refine ⟨_, rrbset_next legal windowed, base, fun plain => ?_, fun prime i hi => ?_, ?_⟩
    · simp [State.retire, rotated_unprimed plain]
    · rw [base]
      simpa [State.retire] using rotated_primed prime (windowed prime) hi
    · obtain ⟨m, e⟩ := rotated_frame s w
      simp [State.retire, e]

end Sys2Proof.Proofs
end

section
/-!
PROOFS. Stream control: the rendezvous, stops, events and their return, breakpoints (R195 to R203).
-/

namespace Sys2Proof.Proofs
open Sys2Proof Sys2Proof.Machine

/-- A word without operands is legal by rows 2 to 6 and its await field (R97, R174). -/
theorem legal_shNone {s : State} {w : Wi} {n : Nat} : s.legal (shNone w n) ↔ s.static (shNone w n) = .ok () ∧ s.await w.toHd = .ok () := Iff.rfl

@[simp] theorem transfer_strm (s : State) (x : StrmSt) (cost : Nat) : (s.transfer x cost).strm = x.issued (s.now + cost) := State.strm_setStrm ..

/-! ### Rendezvous, yield, end (R195 to R197) -/

section
variable {s : State} {w : Wi} (legal : s.legal (shNone w 0))
include legal

theorem rdz_next : exec (.rdz w) s = .next (s.upd fun x => { x with atRdz := true }) := by
  obtain ⟨static, await⟩ := legal_shNone.1 legal
  show outcome s (s.rdzWait w) = _
  simp only [State.rdzWait, static, await, res_ok_bind, outcome_ok]

theorem yield_next : exec (.yield w) s =
    .next (if s.core.stopReq then (s.retire 1).haltGang s.core.lrec s.core.gangNo .save else s.retire 1) := by
  obtain ⟨static, await⟩ := legal_shNone.1 legal
  show outcome s (s.yield w) = _
  simp only [State.yield, static, await, res_ok_bind, outcome_ok]

theorem endStream_next : exec (.endStream w) s = .next (s.transfer s.strm.stop 1) := by
  obtain ⟨static, await⟩ := legal_shNone.1 legal
  show outcome s (s.endStrm w) = _
  simp only [State.endStrm, static, await, res_ok_bind, outcome_ok]

end

/-- A stream that stops keeps its scalars; its held events are gone (R13, R197). -/
theorem stop_fields (x : StrmSt) : x.stop.stopped = true ∧ x.stop.held = [] ∧ x.stop.sregs = x.sregs := by
  refine ⟨rfl, rfl, ?_⟩
  unfold StrmSt.stop StrmSt.leave
  split <;> rfl

/-! ### Events (R198, R200, R201) -/

/-- A checked target moves the pc, to a header or within the section; it leaves the rest of the stream alone (R166, R167). -/
theorem target_frame {s : State} {k : Strm} {x y : StrmSt} {t : Word} (ok : s.target k x t = .ok y) : ∃ pc atHdr i entered left due,
    y = { x with pc := pc, atHdr := atHdr, entIdx := i, entered := entered, left := left, secDue := due } := by
  have hdr (a : Word) : ∃ pc atHdr i entered left due,
      x.toHdr a 0 = { x with pc := pc, atHdr := atHdr, entIdx := i, entered := entered, left := left, secDue := due } := by
    unfold StrmSt.toHdr StrmSt.leave
    split <;> exact ⟨_, _, _, _, _, _, rfl⟩
  by_cases grid : t.toNat % 4 = 0
  · cases inside : x.inSection t
    · obtain ⟨-, -, -, -, -, rfl⟩ := target_header grid inside ok
      exact hdr _
    · by_cases first : t = x.secBase + 8
      · unfold State.target at ok
        rw [if_neg (not_not.2 grid), if_pos inside, if_pos first] at ok
        cases ok
        exact hdr _
      · rw [target_inSection grid inside first] at ok
        cases ok
        exact ⟨_, _, _, _, _, _, rfl⟩
  · rw [target_offGrid grid] at ok
    cases ok

section
variable {s : State} {w : Wi}

theorem eret_next {x : StrmSt} (legal : s.legal (shNone w 0)) (handler : s.strm.handler = true)
    (back : s.comeBack s.cur { s.strm with handler := false } s.strm.epc = .ok x) : exec (.eret w) s = .next (s.transfer x 1) := by
  obtain ⟨static, await⟩ := legal_shNone.1 legal
  show outcome s (s.eret w) = _
  simp only [State.eret, static, await, handler, back, Bool.not_true, trapIf_false, res_ok_bind, outcome_ok]

theorem eret_outside (legal : s.legal (shNone w 0)) (handler : s.strm.handler = false) :
    exec (.eret w) s = .next (s.raise (flt .illegalInstr)) := by
  obtain ⟨static, -⟩ := legal
  show outcome s (s.eret w) = _
  simp only [State.eret, static, handler, Bool.not_false, trapIf_true, res_ok_bind, res_error_bind, outcome_trap]
  exact takeFault_next (f := flt .illegalInstr) (by decide) s

/-- The stream as TRAP leaves its word: event 1 in its event registers, the way back in `epc` (R198, R200). -/
def trapped (x : StrmSt) (w : Wi) : StrmSt :=
  { x with evc := 1, eva := BitVec.ofNat 64 w.imm.toNat, epc := x.linkNext false, handler := true, swwait := none, sent := none, desc := none }

section
variable (legal : s.legal (shNone w 16))
include legal

theorem trap_nested (handler : s.strm.handler = true) : exec (.trap w) s = .next (s.raise (flt .nestedTrap)) := by
  obtain ⟨static, -⟩ := legal
  show outcome s (s.trap w) = _
  simp only [State.trap, static, handler, trapIf_true, res_ok_bind, res_error_bind, outcome_trap]
  exact takeFault_next (f := flt .nestedTrap) (by decide) s

theorem trap_unhandled (handler : s.strm.handler = false) (noEntry : s.strm.evh = 0) :
    exec (.trap w) s = .next (s.raise (flt .unhandledEvent)) := by
  obtain ⟨static, -⟩ := legal
  have fault (e : Event) (back : Word) : s.enterHandler s.cur e back = .error (.trap (flt .unhandledEvent)) := if_pos noEntry
  show outcome s (s.trap w) = _
  simp only [State.trap, static, handler, fault, trapIf_false, res_ok_bind, res_error_bind, outcome_trap]
  exact takeFault_next (f := flt .unhandledEvent) (by decide) s

theorem trap_next {x : StrmSt} (handler : s.strm.handler = false) (entry : s.strm.evh ≠ 0)
    (target : s.target s.cur (trapped s.strm w) s.strm.evh = .ok x) : exec (.trap w) s = .next ((s.setStrm x).transfer x 1) := by
  obtain ⟨static, await⟩ := legal_shNone.1 legal
  have enters : s.enterHandler s.cur { cause := 1, sub := 0, info := BitVec.ofNat 64 w.imm.toNat } (s.strm.linkNext false) =
      .ok (s.setStrm x) := by
    refine (if_neg entry).trans ?_
    split
    · next bad => cases bad.symm.trans target
    · next ok => cases ok.symm.trans target; rfl
  show outcome s (s.trap w) = _
  simp only [State.trap, static, await, handler, enters, trapIf_false, res_ok_bind, outcome_ok, State.strm_setStrm]

end
end

/-! ### Breakpoints (R203, R343, R352) -/

/-- Every core of a gang is to stop, to be kept for a debugger or ended. -/
def gangStops (t : State) (lrec g : Nat) : Prop :=
  t.core.inGang lrec g = true ∧
    ∀ c ∈ t.core :: t.parked, c.inGang lrec g = true → c.stopReq = true ∧ (c.stopAs = .debug ∨ c.stopAs = .fail)

theorem join_debug (k : StopKind) : k.join .debug = .debug ∨ k.join .debug = .fail := by cases k <;> decide

theorem haltGang_gangStops {s : State} {lrec g : Nat} (here : s.core.inGang lrec g = true) : gangStops (s.haltGang lrec g .debug) lrec g := by
  have halted (c : Core) : let c' := if c.inGang lrec g then { c with stopReq := true, stopAs := c.stopAs.join .debug } else c
      c'.inGang lrec g = true → c'.stopReq = true ∧ (c'.stopAs = .debug ∨ c'.stopAs = .fail) := by
    intro c'
    by_cases h : c.inGang lrec g = true
    · simp only [c', h, if_true]
      exact fun _ => ⟨trivial, join_debug _⟩
    · simp only [c', h]
      exact fun g => absurd g h
  refine ⟨?_, fun c hc => ?_⟩
  · simp only [State.haltGang, here, if_true]
    exact here
  · obtain rfl | hc := List.mem_cons.1 hc
    · exact halted s.core
    · obtain ⟨d, -, rfl⟩ := List.mem_map.1 hc
      exact halted d

theorem gangStops_turnAt {t : State} {lrec g : Nat} (h : gangStops t lrec g) (n : Nat) :
    gangStops (t.updC fun x => { x with turnAt := n }) lrec g := by
  obtain ⟨here, all⟩ := h
  refine ⟨here, fun c hc => ?_⟩
  obtain rfl | hc := List.mem_cons.1 hc
  · exact all t.core List.mem_cons_self
  · exact all c (List.mem_cons_of_mem _ hc)

theorem served_postJob (s : State) (c : Core) (r : FRec) : s.served (s.postJob c r) := by
  unfold State.postJob
  exact ite_both (P := s.served) (served_refl s) (served_postRecord ..)

/-- The state in which BKPT's record is posted and its gang halts (R203). -/
def bkptHalt (s : State) (w : Wi) : State :=
  ((s.retire 1).postJob s.core
    { code := 0x30, strm := strmNum s.cur, die := s.core.did, core := s.core.cid, pc := s.strm.pc.toNat, info := w.imm.toNat
      lrec := s.core.lrec, job := s.core.job.toNat }).haltGang s.core.lrec s.core.gangNo .debug

theorem bkptHalt_gangStops {s : State} (running : s.core.running = true) (w : Wi) : gangStops (bkptHalt s w) s.core.lrec s.core.gangNo := by
  refine haltGang_gangStops ?_
  obtain ⟨_, _, _, _, _, _, _, _, e⟩ := served_postJob (s.retire 1) s.core _
  rw [e]
  simp [State.retire, Core.inGang, running]

section
variable {s : State} {w : Wi} (legal : s.legal (shNone w 16))
include legal

theorem bkpt_faults (dbg : s.core.dbgOk = false) : exec (.bkpt w) s = .next (s.raise { code := .breakpoint, info := w.imm.toNat }) := by
  obtain ⟨static, -⟩ := legal
  show outcome s (s.bkpt w) = _
  simp only [State.bkpt, static, dbg, Bool.not_false, trapIf_true, res_ok_bind, res_error_bind, outcome_trap]
  exact takeFault_next (by simp) s

/-- BKPT posts its record and halts the gang for the debugger; a halt after M's word is one at the next cycle (R46, R203). -/
theorem bkpt_next (dbg : s.core.dbgOk = true) : exec (.bkpt w) s =
    .next (if s.cur = .m then (bkptHalt s w).updC fun x => { x with turnAt := s.now + 1 } else bkptHalt s w) := by
  obtain ⟨static, await⟩ := legal_shNone.1 legal
  show outcome s (s.bkpt w) = _
  simp only [State.bkpt, static, await, dbg, Bool.not_true, trapIf_false, res_ok_bind, outcome_ok]
  rfl

theorem bkpt_gangStops (dbg : s.core.dbgOk = true) (running : s.core.running = true) :
    ∃ t, exec (.bkpt w) s = .next t ∧ gangStops t s.core.lrec s.core.gangNo :=
  have stops := bkptHalt_gangStops running w
  ⟨_, bkpt_next legal dbg, ite_both (P := fun t => gangStops t s.core.lrec s.core.gangNo) (gangStops_turnAt stops _) stops⟩

end

/-- Settles O18: each word by what it leaves; TRAP and ERET by the checks of their targets, BKPT by the stop of its whole gang. -/
theorem streamControl : Obligations.StreamControl := by
  unfold Obligations.StreamControl
  refine fun w s => ⟨fun legal => ⟨?rdz, ?yieldOn, ?yieldStop, ?stops, ?eret, ?outside⟩,
    fun legal => ⟨?nested, ?unhandled, ?trap, ?noDebug, ?debug⟩⟩
  case rdz => exact rdz_next legal
  case yieldOn => exact fun stop => (yield_next legal).trans (by simp [stop])
  case yieldStop => exact fun stop => (yield_next legal).trans (by simp [stop])
  case stops =>
    obtain ⟨stopped, held, sregs⟩ := stop_fields s.strm
    exact ⟨_, endStream_next legal, by rw [transfer_strm]; exact stopped, by rw [transfer_strm]; exact held, rfl,
      by rw [transfer_strm]; exact sregs⟩
  case eret => exact fun x handler back => eret_next legal handler back
  case outside => exact eret_outside legal
  case nested => exact trap_nested legal
  case unhandled => exact trap_unhandled legal
  case trap =>
    intro x handler entry target
    obtain ⟨_, _, _, _, _, _, rfl⟩ := target_frame target
    refine ⟨_, trap_next legal handler entry target, ?_⟩
    rw [transfer_strm]
    exact ⟨rfl, rfl, by simp [StrmSt.issued]; omega, rfl, rfl, rfl, rfl⟩
  case noDebug => exact bkpt_faults legal
  case debug => exact fun dbg running => bkpt_gangStops legal dbg running

end Sys2Proof.Proofs
end

section
/-!
PROOFS. Scalar loads, stores and atomics issue, and the words that first read a descriptor (R208, R210, R213, R214, R217).
-/

namespace Sys2Proof.Proofs
open Sys2Proof Sys2Proof.Machine

/-! ### An access issued with the data as it was (R100, R323, R354) -/

/-- The walks for some addresses leave two states alike whose streams translate alike and whose data are the same. -/
theorem WalksAlike.sameDataAt {s u : State} (h : WalksAlike s u) (data : s.sameData u) (vas : List Nat) :
    s.sameDataAt (u.fillTlbs vas) vas := by
  obtain ⟨-, -, vregs, masks, tiles, rng, jobv, -⟩ := data
  have rest := (h.fillTlbs vas).rest
  obtain ⟨_, _, cu⟩ := fillTlbs_core u vas
  obtain ⟨_, _, cs⟩ := fillTlbs_core s vas
  unfold State.sameDataAt State.sameData
  rw [cs, cu]
  refine ⟨?_, ?_, vregs, masks, tiles, rng, jobv, ?_, ?_, ?_⟩ <;> rw [rest] <;> rfl

/-- Issuing an access at one address changes banks in use, the list and the next identity, and keeps a translation. -/
theorem addOp_opened (v : State) (cls : Nat) (kinds : BitVec 6) (va : Nat) (body : MBody) (tok : Option TokRef) (wait : Nat) :
    ∃ b o n, v.addOp cls kinds va body tok wait =
      State.fillTlbs { v with core := { v.core with banks := b, ops := o }, ids := n } [va] := ⟨_, _, _, rfl⟩

/-- What becomes of its core. -/
theorem addOp_frame (v : State) (cls : Nat) (kinds : BitVec 6) (va : Nat) (body : MBody) (tok : Option TokRef) (wait : Nat) :
    let x := v.addOp cls kinds va body tok wait
    x.cur = v.cur ∧ ∃ b o tlb pmc, x.core = { v.core with banks := b, ops := o, tlb := tlb, pmc := pmc } := by
  obtain ⟨b, o, n, opened⟩ := addOp_opened v cls kinds va body tok wait
  obtain ⟨tlb, pmc, t, served, frame⟩ := fillTlbs_frame { v with core := { v.core with banks := b, ops := o }, ids := n } [va]
  obtain ⟨_, _, _, _, _, _, _, _, rfl⟩ := served
  rw [opened, frame]
  exact ⟨rfl, b, o, tlb, pmc, rfl⟩

/-- Every stream is then as before. -/
theorem addOp_strm (v : State) (cls : Nat) (kinds : BitVec 6) (va : Nat) (body : MBody) (tok : Option TokRef) (wait : Nat) (k : Strm) :
    (v.addOp cls kinds va body tok wait).core.strm k = v.core.strm k := by
  obtain ⟨-, _, _, _, _, e⟩ := addOp_frame v cls kinds va body tok wait
  rw [e]
  cases k <;> rfl

/-- What a word of a scalar access has changed when the access is issued: queues, awaited scalars and the next identity at most. -/
def ScalarAtIssue (s v : State) : Prop :=
  ∃ q ba bv bm n, v = { s with
    core := { s.core with queues := q, sa := { s.core.sa with busy := ba }, sv := { s.core.sv with busy := bv }, sm := { s.core.sm with busy := bm } }
    ids := n }

theorem ScalarAtIssue.trans {s t u : State} (h : ScalarAtIssue s t) (g : ScalarAtIssue t u) : ScalarAtIssue s u := by
  obtain ⟨_, _, _, _, _, rfl⟩ := h
  obtain ⟨_, _, _, _, _, rfl⟩ := g
  exact ⟨_, _, _, _, _, rfl⟩

theorem scalarAtIssue_sources {s t : State} {h : Shape} {a b c : Word} (sources : s.sources h = .ok ((a, b, c), t)) : ScalarAtIssue s t := by
  obtain ⟨q, rfl⟩ := sources_frame sources
  exact ⟨_, _, _, _, _, rfl⟩

theorem scalarAtIssue_reserveS {s t : State} {f : OpField} {d : SDest} (reserve : s.reserveS f = .ok (d, t)) : ScalarAtIssue s t := by
  obtain ⟨-, -, -, rfl⟩ | ⟨-, -, -, -, rfl⟩ | ⟨-, -, -, rfl⟩ := reserveS_cases reserve
  · exact ⟨_, _, _, _, _, rfl⟩
  · show ScalarAtIssue s (s.updK s.cur fun x => { x with busy := x.busy ++ [scalIx f] })
    cases s.cur <;> exact ⟨_, _, _, _, _, rfl⟩
  · exact ⟨_, _, _, _, _, rfl⟩

/-- The access issued: it stands in the list with the word's own identity, scalars are as before, and memory is as the walk for its address
leaves it (R100, R354). -/
theorem ScalarAtIssue.addOp {s v : State} (h : ScalarAtIssue s v) (cls : Nat) (kinds : BitVec 6) (va : Nat) (body : MBody) (wait : Nat) :
    let x := v.addOp cls kinds va body none wait
    s.sameDataAt x [va] ∧ s.sameScalars x ∧ s.issued x cls kinds va body none wait := by
  intro x
  refine ⟨?data, fun k => ?scalars, v.ids, ?stands⟩
  case data =>
    obtain ⟨b, o, n, opened⟩ := addOp_opened v cls kinds va body none wait
    rw [show x = _ from opened]
    obtain ⟨_, _, _, _, _, rfl⟩ := h
    refine WalksAlike.sameDataAt ?_ ?_ [va]
    · exact ⟨rfl, rfl, rfl, rfl, fun k => by cases k <;> rfl⟩
    · exact ⟨rfl, rfl, rfl, rfl, rfl, rfl, rfl, rfl, rfl, rfl⟩
  case scalars =>
    rw [addOp_strm]
    obtain ⟨_, _, _, _, _, rfl⟩ := h
    cases k <;> rfl
  case stands =>
    refine (addOpAt_ops v cls kinds va [(0, va)] body none wait).trans ?_
    obtain ⟨_, _, _, _, _, rfl⟩ := h
    unfold State.keepsBits State.strm
    cases s.cur <;> rfl

/-- A word that ends with its scalar access issued. -/
theorem retires_issued {i : Instr} {s u : State} {cls va wait : Nat} {kinds : BitVec 6} {body : MBody} (at_ : ScalarAtIssue s u)
    (next : exec i s = .next ((u.addOp cls kinds va body none wait).retire 1)) :
    Retires i s 1 fun v => s.sameDataAt v [va] ∧ s.sameScalars v ∧ v.strm.busy = u.strm.busy ∧ v.core.queues = u.core.queues ∧
      s.issued v cls kinds va body none wait := by
  obtain ⟨data, scalars, issued⟩ := at_.addOp cls kinds va body wait
  obtain ⟨cur, _, _, _, _, core⟩ := addOp_frame u cls kinds va body none wait
  refine ⟨_, next, data, scalars, ?_, by rw [core], issued⟩
  unfold State.strm
  rw [cur, addOp_strm]

/-! ### The checks of an address (R208, R356) -/

theorem addrCheck_ok {ea n al : Nat} (valid : addrOk ea n al) : addrCheck ea n al = .ok () := by
  obtain ⟨low, out, aligned⟩ := valid
  unfold addrCheck
  rw [rangeCheck_ok low out, res_ok_bind]
  exact trapIf_ok.2 (by simp [aligned])

/-- An address in the map that is off its grid. -/
theorem addrCheck_misaligned {ea n al : Nat} (low : ea < 2 ^ 52) (out : resHi ≤ ea ∨ ea + n ≤ winHi) (off : ea % al ≠ 0) :
    addrCheck ea n al = .error (.trap { code := .alignment, addr := ea }) := by
  unfold addrCheck
  rw [rangeCheck_ok low out, res_ok_bind]
  exact if_pos (bne_iff_ne.2 off)

theorem scalarKey_ok {s : State} {ea n key : Nat} {acc : Acc} {reads : Bool} (translates : s.xlate ea acc = .ok key)
    (clean : reads = true → s.poisonedAt key n = false) : s.scalarKey ea n acc reads = .ok key := by
  have passes : trapIf (reads && s.poisonedAt key n) { code := .poison, addr := ea } = .ok () :=
    trapIf_ok.2 (by cases reads <;> simp_all)
  unfold State.scalarKey
  rw [translates, res_ok_bind, passes, res_ok_bind]

/-! ### Loads, stores and atomics (R213, R214, R217) -/

section
variable {i : Instr} {s t : State} {w : Wm} {a b c : Word} {n key : Nat}

theorem scalarLoad_issues {u : State} {sg : Bool} {d : SDest} (meaning : ∀ s, exec i s = outcome s (s.load w n sg))
    (ht : s.takes (shLd w) a b c t) (valid : addrOk (effAddr w a) n n) (translates : s.xlate (effAddr w a) .rd = .ok key)
    (clean : s.poisonedAt key n = false) (reserve : t.reserveS w.d = .ok (d, u)) :
    exec i s = .next ((u.addOp w.cls.toNat kR (effAddr w a) (.load key n sg d) none (s.accessWait key)).retire 1) := by
  obtain ⟨⟨static, await⟩, sources⟩ := ht
  rw [meaning]
  unfold State.load
  simp only [static, sources, addrCheck_ok valid, scalarKey_ok (reads := true) translates fun _ => clean,
    show s.await w.toHd = .ok () from await, reserve, res_ok_bind, outcome_ok]

theorem scalarLoad_misaligned {sg : Bool} (meaning : ∀ s, exec i s = outcome s (s.load w n sg)) (ht : s.takes (shLd w) a b c t)
    (check : addrCheck (effAddr w a) n n = .error (.trap { code := .alignment, addr := effAddr w a })) :
    Faults i s { code := .alignment, addr := effAddr w a } := by
  obtain ⟨⟨static, -⟩, sources⟩ := ht
  refine (meaning s).trans ?_
  unfold State.load
  simp only [static, sources, check, res_ok_bind, res_error_bind, outcome_trap]
  exact takeFault_next (by simp) s

theorem scalarStore_issues (meaning : ∀ s, exec i s = outcome s (s.store w n)) (ht : s.takes (shSt w) a b c t)
    (valid : addrOk (effAddr w a) n n) (translates : s.xlate (effAddr w a) .wr = .ok key) (room : s.storesIn w.cls.toNat < 16) :
    exec i s = .next ((t.addOp w.cls.toNat kW (effAddr w a) (.store key (leBytes n b.toNat)) none (s.accessWait key)).retire 1) := by
  obtain ⟨⟨static, await⟩, sources⟩ := ht
  rw [meaning]
  unfold State.store
  simp only [static, sources, addrCheck_ok valid, scalarKey_ok (n := n) (reads := false) translates nofun,
    show s.await w.toHd = .ok () from await, room, decide_true, waitUnless_true, res_ok_bind, outcome_ok]

theorem scalarStore_misaligned (meaning : ∀ s, exec i s = outcome s (s.store w n)) (ht : s.takes (shSt w) a b c t)
    (check : addrCheck (effAddr w a) n n = .error (.trap { code := .alignment, addr := effAddr w a })) :
    Faults i s { code := .alignment, addr := effAddr w a } := by
  obtain ⟨⟨static, -⟩, sources⟩ := ht
  refine (meaning s).trans ?_
  unfold State.store
  simp only [static, sources, check, res_ok_bind, res_error_bind, outcome_trap]
  exact takeFault_next (by simp) s

theorem atomic_issues {u : State} {fn : Nat} {d : SDest} (meaning : ∀ s, exec i s = outcome s (s.atomicWord w fn))
    (ht : s.takes (shM w .none false 0xF 24 .sDst .sSrc .sSrc (if fn = 9 then .sSrc else .none)) a b c t)
    (valid : addrOk (effAddr w a) (2 ^ w.sz.toNat) (2 ^ w.sz.toNat))
    (translates : s.xlate (effAddr w a) (.atom (2 ^ w.sz.toNat)) = .ok key) (clean : s.poisonedAt key (2 ^ w.sz.toNat) = false)
    (reserve : t.reserveS w.d = .ok (d, u)) :
    exec i s = .next ((u.addOp w.cls.toNat kRW (effAddr w a)
      (.atomic fn key (2 ^ w.sz.toNat) (b.toNat % 2 ^ (8 * 2 ^ w.sz.toNat)) (c.toNat % 2 ^ (8 * 2 ^ w.sz.toNat)) d) none
      (s.accessWait key)).retire 1) := by
  obtain ⟨⟨static, await⟩, sources⟩ := ht
  rw [meaning]
  unfold State.atomicWord
  simp only [static, sources, addrCheck_ok valid, scalarKey_ok (reads := true) translates fun _ => clean,
    show s.await w.toHd = .ok () from await, reserve, res_ok_bind, outcome_ok]

end

/-- The seven loads are one meaning, by their size and their sign (R213). -/
theorem exec_load {w : Wm} {i : Instr} {n : Nat} {sg : Bool} (h : (i, n, sg) ∈ [(Instr.ldB w, 1, true), (.ldBn w, 1, false), (.ldH w, 2, true),
    (.ldHn w, 2, false), (.ldW w, 4, true), (.ldWn w, 4, false), (.ldD w, 8, false)]) (s : State) :
    exec i s = outcome s (s.load w n sg) := by
  simp only [List.mem_cons, Prod.mk.injEq, List.not_mem_nil, or_false] at h
  obtain ⟨rfl, rfl, rfl⟩ | ⟨rfl, rfl, rfl⟩ | ⟨rfl, rfl, rfl⟩ | ⟨rfl, rfl, rfl⟩ | ⟨rfl, rfl, rfl⟩ | ⟨rfl, rfl, rfl⟩ | ⟨rfl, rfl, rfl⟩ := h <;> rfl

/-- The four stores are one meaning, by their size (R214). -/
theorem exec_store {w : Wm} {i : Instr} {n : Nat} (h : (i, n) ∈ [(Instr.stB w, 1), (.stH w, 2), (.stW w, 4), (.stD w, 8)]) (s : State) :
    exec i s = outcome s (s.store w n) := by
  simp only [List.mem_cons, Prod.mk.injEq, List.not_mem_nil, or_false] at h
  obtain ⟨rfl, rfl⟩ | ⟨rfl, rfl⟩ | ⟨rfl, rfl⟩ | ⟨rfl, rfl⟩ := h <;> rfl

/-- The ten atomics are one meaning, by their function (R217). -/
theorem exec_atomic {w : Wm} {i : Instr} {fn : Nat} (h : (i, fn) ∈ [(Instr.aaddAtomic w, 0), (.aand w, 1), (.aor w, 2), (.axor w, 3), (.amin w, 4),
    (.amax w, 5), (.aminn w, 6), (.amaxn w, 7), (.aswp w, 8), (.acas w, 9)]) (s : State) : exec i s = outcome s (s.atomicWord w fn) := by
  simp only [List.mem_cons, Prod.mk.injEq, List.not_mem_nil, or_false] at h
  obtain ⟨rfl, rfl⟩ | ⟨rfl, rfl⟩ | ⟨rfl, rfl⟩ | ⟨rfl, rfl⟩ | ⟨rfl, rfl⟩ | ⟨rfl, rfl⟩ | ⟨rfl, rfl⟩ | ⟨rfl, rfl⟩ | ⟨rfl, rfl⟩ | ⟨rfl, rfl⟩ := h <;> rfl

/-! ### Words that take a descriptor (R210, R283) -/

/-- A word stands at issue with the read of its descriptor in the list: it has consumed nothing. -/
def AwaitsDescriptor (s : State) (w : Wm) (a : Word) (key : Nat) (v : State) : Prop :=
  s.sameDataAt v [effAddr w a] ∧ s.sameScalars v ∧ v.strm.pc = s.strm.pc ∧ v.core.queues = s.core.queues ∧ v.core.ports = s.core.ports ∧
    s.issued v w.cls.toNat kR (effAddr w a) (.desc key) none (s.accessWait key) ∧
    ∃ d, v.strm.desc = some d ∧ d.data = none ∧ ∃ o ∈ v.core.ops, o.id = d.id

/-- The state in which the descriptor's read has been issued. -/
def descIssued (s : State) (w : Wm) (a : Word) (key : Nat) : State :=
  (s.addOp w.cls.toNat kR (effAddr w a) (.desc key) none (s.accessWait key)).upd fun x => { x with desc := some { id := s.ids, data := none } }

/-- A change of what the stream's word waits for keeps the data. -/
theorem sameData_upd (s : State) (f : StrmSt → StrmSt) : s.sameData (s.upd f) := by
  refine ⟨rfl, rfl, ?_, ?_, ?_, ?_, ?_, rfl, rfl, rfl⟩ <;> simp

theorem sameScalars_upd {s : State} {f : StrmSt → StrmSt} (keeps : (f s.strm).sregs = s.strm.sregs) : s.sameScalars (s.upd f) := by
  intro k
  rw [State.upd_core]
  by_cases cur : k = s.cur
  · rw [cur, Core.strm_setStrm, keeps]
    rfl
  · rw [Core.strm_setStrm_other _ _ cur]

theorem awaitsDescriptor_issued (s : State) (w : Wm) (a : Word) (key : Nat) : AwaitsDescriptor s w a key (descIssued s w a key) := by
  have at_ : ScalarAtIssue s s := ⟨_, _, _, _, _, rfl⟩
  obtain ⟨data, scalars, issued⟩ := at_.addOp w.cls.toNat kR (effAddr w a) (.desc key) (s.accessWait key)
  have ops := addOpAt_ops s w.cls.toNat kR (effAddr w a) [(0, effAddr w a)] (.desc key) none (s.accessWait key)
  obtain ⟨cur, _, _, _, _, core⟩ := addOp_frame s w.cls.toNat kR (effAddr w a) (.desc key) none (s.accessWait key)
  have strm := addOp_strm s w.cls.toNat kR (effAddr w a) (.desc key) none (s.accessWait key) s.cur
  unfold descIssued
  change (State.addOp _ _ _ _ _ _ _).core.ops = _ at ops
  generalize State.addOp _ _ _ _ _ _ _ = x at *
  refine ⟨sameData_trans data (sameData_upd ..), fun k => (sameScalars_upd (s := x) rfl k).trans (scalars k), ?_, ?_, ?_, ?_,
    { id := s.ids, data := none }, ?_, rfl, ?_⟩
  · rw [State.strm_upd, State.strm, cur, strm]
    rfl
  · rw [State.upd_core, Core.setStrm_queues, core]
  · rw [State.upd_core, Core.setStrm_ports, core]
  · obtain ⟨id, stands⟩ := issued
    exact ⟨id, by rw [State.upd_core, Core.setStrm_ops, stands]⟩
  · rw [State.strm_upd]
  · rw [State.upd_core, Core.setStrm_ops, ops]
    simp

/-- A word sent to its engine awaits its descriptor as before (R286). -/
theorem AwaitsDescriptor.send {s v : State} {w : Wm} {a : Word} {key : Nat} (h : AwaitsDescriptor s w a key v) (e : Engine) :
    AwaitsDescriptor s w a key (v.send e) := by
  obtain ⟨data, scalars, pc, queues, ports, ⟨id, issued⟩, d, desc, unread, o, stands, same⟩ := h
  unfold State.send
  refine ⟨sameData_trans data (sameData_upd ..), fun k => (sameScalars_upd (s := v) rfl k).trans (scalars k), ?_, ?_, ?_, ⟨id, ?_⟩, d, ?_, unread, o, ?_, same⟩
  · rw [State.strm_upd, ← pc]
  · rw [State.upd_core, Core.setStrm_queues, queues]
  · rw [State.upd_core, Core.setStrm_ports, ports]
  · rw [State.upd_core, Core.setStrm_ops, issued]
  · rw [State.strm_upd, ← desc]
  · rwa [State.upd_core, Core.setStrm_ops]

/-- A descriptor that has not been looked for yet: its read is issued. -/
theorem descriptor_unread {s : State} {w : Wm} {a : Word} {key : Nat} (read : s.descKey (effAddr w a) = .ok key)
    (await : s.await w.toHd = .ok ()) (none_ : s.strm.desc = none) : s.descriptor w a = .ok (.inl (descIssued s w a key)) := by
  unfold State.descriptor
  dsimp only
  rw [read, res_ok_bind, await, res_ok_bind, none_]
  rfl

section
variable {s t : State} {w : Wm} {a b c : Word} {key : Nat} (read : s.descKey (effAddr w a) = .ok key) (none_ : s.strm.desc = none)
include read none_

theorem pgo_awaits (ht : s.takes (shM w .opt true 1 24 .portAny .sSrc .none .none) a b c t)
    (prod : (s.core.port (portIx w.d)).prod = 1) (idle : (s.core.port (portIx w.d)).gen = none) : exec (.pgo w) s = .next (descIssued s w a key) := by
  obtain ⟨⟨static, await⟩, sources⟩ := ht
  show outcome s (s.pgo w) = _
  unfold State.pgo
  simp [static, sources, read, prod, idle, descriptor_unread read await none_, withDesc]

theorem wcfg_awaits (ht : s.takes (shM w .req true 0xFF 24 .none .sSrc .none .none) a b c t) :
    exec (.wcfg w) s = .next (descIssued s w a key) := by
  obtain ⟨⟨static, await⟩, sources⟩ := ht
  show outcome s (s.wcfg w) = _
  unfold State.wcfg
  simp only [static, sources, descriptor_unread read await none_, withDesc, res_ok_bind, outcome_ok]

/-- CPY2 and CPY3 (R229). -/
theorem cpyStrided_awaits {i : Instr} {planes : Bool} (meaning : ∀ s, exec i s = outcome s (s.cpyStrided w planes))
    (ht : s.takes (shM w .opt true 3 24 .sDst .sSrc .none .none) a b c t) :
    exec i s = .next (descIssued s w a key) := by
  obtain ⟨⟨static, await⟩, sources⟩ := ht
  rw [meaning]
  unfold State.cpyStrided
  simp only [static, sources, descriptor_unread read await none_, withDesc, res_ok_bind, outcome_ok]

theorem enq_awaits (ht : s.takes (shM w .opt true 3 24 .sDst .sSrc .sSrc .none) a b c t) (queue : b.toNat ≤ 3) :
    exec (.enq w) s = .next (descIssued s w a key) := by
  obtain ⟨⟨static, await⟩, sources⟩ := ht
  have named : trapIf (decide (b.toNat > 3)) (flt .illegalOperand) = .ok () := trapIf_ok.2 (by simpa using queue)
  show outcome s (s.enq w) = _
  unfold State.enq
  simp only [static, sources, read, named, descriptor_unread read await none_, withDesc, res_ok_bind, outcome_ok]

/-- A word of the Orrery or the Sluice that takes a descriptor is sent to its engine in the same look (R286). -/
theorem acceptDesc_awaits {e : Engine} {go : List Byte → State → Res State} (await : s.await w.toHd = .ok ()) :
    s.acceptDesc e w a t go = .ok ((descIssued s w a key).send e) := by
  unfold State.acceptDesc
  rw [descriptor_unread read await none_]

/-- KVNEW and KVFORK (R287, R289). -/
theorem kdesc_awaits {i : Instr} {h : Shape} {go : Word × Word × Word → List Byte → State → Res State}
    (meaning : exec i s = outcome s (s.kdesc w h go)) (hd : h.hd = w.toHd) (ht : s.takes h a b c t) :
    exec i s = .next ((descIssued s w a key).send .orrery) := by
  obtain ⟨⟨static, await⟩, sources⟩ := ht
  rw [meaning]
  unfold State.kdesc
  simp only [static, sources, acceptDesc_awaits read none_ (hd ▸ await), res_ok_bind, outcome_ok]

theorem xopen_awaits (ht : s.takes (shM w .req true 1 24 .sDst .sSrc .none .none) a b c t) :
    exec (.xopen w) s = .next ((descIssued s w a key).send .sluice) := by
  obtain ⟨⟨static, await⟩, sources⟩ := ht
  show outcome s (s.xopen w) = _
  unfold State.xopen
  simp only [static, sources, acceptDesc_awaits read none_ await, res_ok_bind, outcome_ok]

end

/-- Each word that takes a descriptor first stands at issue with the read of it in the list. -/
theorem descriptorWord_awaits {i : Instr} {h : Shape} {s t : State} {w : Wm} {a b c : Word} {key : Nat}
    (word : (i, h) ∈ [(Instr.pgo w, shM w .opt true 1 24 .portAny .sSrc .none .none), (.wcfg w, shM w .req true 0xFF 24 .none .sSrc .none .none),
      (.cpy2 w, shM w .opt true 3 24 .sDst .sSrc .none .none), (.cpy3 w, shM w .opt true 3 24 .sDst .sSrc .none .none),
      (.enq w, shM w .opt true 3 24 .sDst .sSrc .sSrc .none), (.kvnew w, shK w .req 24 .sDst .sSrc .none .none),
      (.kvfork w, shK w .req 24 .sDst .sSrc .sSrc .sSrc), (.xopen w, shM w .req true 1 24 .sDst .sSrc .none .none)])
    (ht : s.takes h a b c t) (read : s.descKey (effAddr w a) = .ok key) (none_ : s.strm.desc = none)
    (port : i = .pgo w → (s.core.port (portIx w.d)).prod = 1 ∧ (s.core.port (portIx w.d)).gen = none) (queue : i = .enq w → b.toNat ≤ 3) :
    Ends i s (AwaitsDescriptor s w a key) := by
  have stands := awaitsDescriptor_issued s w a key
  simp only [List.mem_cons, Prod.mk.injEq, List.not_mem_nil, or_false] at word
  obtain ⟨rfl, rfl⟩ | ⟨rfl, rfl⟩ | ⟨rfl, rfl⟩ | ⟨rfl, rfl⟩ | ⟨rfl, rfl⟩ | ⟨rfl, rfl⟩ | ⟨rfl, rfl⟩ | ⟨rfl, rfl⟩ := word
  · obtain ⟨prod, idle⟩ := port rfl
    exact ⟨_, pgo_awaits read none_ ht prod idle, stands⟩
  · exact ⟨_, wcfg_awaits read none_ ht, stands⟩
  · exact ⟨_, cpyStrided_awaits read none_ (fun _ => rfl) ht, stands⟩
  · exact ⟨_, cpyStrided_awaits read none_ (fun _ => rfl) ht, stands⟩
  · exact ⟨_, enq_awaits read none_ ht (queue rfl), stands⟩
  · exact ⟨_, kdesc_awaits read none_ rfl rfl ht, stands.send _⟩
  · exact ⟨_, kdesc_awaits read none_ rfl rfl ht, stands.send _⟩
  · exact ⟨_, xopen_awaits read none_ ht, stands.send _⟩

/-- Settles O25: loads, stores and atomics are one meaning each, whose access is issued once the address has been checked; a word that takes a
descriptor leaves before it with the descriptor's read issued. -/
theorem scalarAccessesIssue : Obligations.ScalarAccessesIssue := by
  unfold Obligations.ScalarAccessesIssue
  refine ⟨?scalar, ?atomic, ?descriptor⟩
  case scalar =>
    intro w s t a b c n ea
    refine ⟨fun i sg load ht => ⟨fun key d u valid translates clean reserve => ?_, fun low out off => ?_⟩,
      fun i store ht => ⟨fun key valid translates room => ?_, fun low out off => ?_⟩⟩
    · exact retires_issued ((scalarAtIssue_sources ht.2).trans (scalarAtIssue_reserveS reserve))
        (scalarLoad_issues (exec_load load) ht valid translates clean reserve)
    · exact scalarLoad_misaligned (exec_load load) ht (addrCheck_misaligned low out off)
    · obtain ⟨v, next, data, scalars, -, -, issued⟩ :=
        retires_issued (scalarAtIssue_sources ht.2) (scalarStore_issues (exec_store store) ht valid translates room)
      exact ⟨v, next, data, scalars, issued⟩
    · exact scalarStore_misaligned (exec_store store) ht (addrCheck_misaligned low out off)
  case atomic =>
    intro w s t u a b c key fn d i ea n atomic ht valid translates clean reserve
    exact retires_issued ((scalarAtIssue_sources ht.2).trans (scalarAtIssue_reserveS reserve))
      (atomic_issues (exec_atomic atomic) ht valid translates clean reserve)
  case descriptor =>
    intro w s t a b c key i h ea word ht valid translates none_ port queue
    exact descriptorWord_awaits word ht (descKey_ok valid translates) none_ port queue

end Sys2Proof.Proofs
end

section
/-!
PROOFS. Vector compares, logic, select and shifts (R36, R244, R245, R249).
-/

namespace Sys2Proof.Proofs
open Sys2Proof Sys2Proof.Machine

/-! ### Vector words whose checks read their operands (R174, R249, R250) -/

/-- A ready word that passes its fields' check and its operands' check runs its effect with the unit held, and ends. -/
theorem vwordIf_checked {s t u : State} {h : Shape} {x : VIn} (ready : s.vready h x t) {occ : Nat} {own : Res Unit} (fields : own = .ok ())
    {chk : VIn → Res Unit} (values : chk x = .ok ()) {go : VIn → State → Res State} (done : go x (t.holdV (s.now + occ)) = .ok u) :
    s.vwordIf h occ own chk go = .ok (u.retire 1) := by
  obtain ⟨⟨st, aw⟩, vr, unit, sh⟩ := ready
  unfold State.holdV at done
  simp [State.vwordIf, st, aw, vr, sh, unit, fields, values, done]

/-- A meaning that is one vector word writing elements, with a check of its fields and one of its operands. -/
theorem vectorResult_checked {i : Instr} {w : Wt} {h : Shape} {occ lat : Nat} {t : ETy} {own : Res Unit} {chk : VIn → Res Unit}
    {ok : VIn → Prop} {f : State → VIn → Nat → Nat → Option Rounded} (fields : ∀ x, ok x → own = .ok ()) (values : ∀ x, ok x → chk x = .ok ())
    (meaning : ∀ s, exec i s = outcome s (s.vwordIf h occ own chk fun x s1 => s1.putElems t w.d x.p lat (f s x))) :
    VectorResult i w h occ lat t ok f := by
  intro s x t1 u ready legal done
  have run := vwordIf_checked ready (fields x legal) (values x legal) (go := fun x s1 => s1.putElems t w.d x.p lat (f s x)) done
  rw [meaning, run, outcome_ok]

/-- A word that its operands make illegal faults once they have been read (R174). -/
theorem vwordIf_operand_faults {s t : State} {h : Shape} {x : VIn} (ready : s.vready h x t) {occ : Nat} {chk : VIn → Res Unit}
    {go : VIn → State → Res State} {f : FaultInfo} (bad : chk x = .error (.trap f)) :
    s.vwordIf h occ (.ok ()) chk go = .error (.trap f) := by
  obtain ⟨⟨st, -⟩, vr, -, -⟩ := ready
  simp [State.vwordIf, st, vr, bad]

/-- A ready word of V names the masks its stream named before. -/
theorem maskIx_vread {s t : State} {h : Shape} {x : VIn} (read : s.vread h = .ok (x, t)) (d : OpField) : t.maskIx d = s.maskIx d := by
  obtain ⟨_, _, rfl⟩ := vread_frame read
  unfold State.maskIx State.strm
  cases s.cur <;> rfl

/-- Holding the vector unit renames no mask. -/
@[simp] theorem maskIx_holdV (s : State) (n : Nat) (d : OpField) : (s.holdV n).maskIx d = s.maskIx d := by
  unfold State.holdV State.updC State.maskIx State.strm
  cases s.cur <;> rfl

/-! ### Shifts and the select (R245) -/

/-- A shift by SH within the width passes. -/
theorem shift_ok {w : Wt} (inside : xb w 27 27 = 1 → xb w 26 22 < (etOf w).width) :
    trapIf (xb w 27 27 == 1 && decide (xb w 26 22 ≥ (etOf w).width)) (flt .illegalOperand) = .ok () := by
  rw [trapIf_ok, Bool.and_eq_false_imp, beq_iff_eq]
  exact fun ims => decide_eq_false (Nat.not_le.2 (inside ims))

theorem shift_faults {w : Wt} {s : State} {f : ETy → Nat → Nat → Nat} (ims : xb w 27 27 = 1) (past : (etOf w).width ≤ xb w 26 22)
    (st : s.static (shShift w) = .ok ()) : outcome s (s.vshift w f) = .next (s.raise (flt .illegalOperand)) := by
  unfold State.vshift
  simp only [ims, beq_self_eq_true, ge_iff_le, past, decide_true, Bool.and_self, vwordIf_faults st]
  exact raises_illegal s

/-- A shift word gives each element by its function of the element and the amount. -/
theorem shift_result {i : Instr} {w : Wt} {f : ETy → Nat → Nat → Nat} {g : Nat → Nat → Nat} (meaning : ∀ s, exec i s = outcome s (s.vshift w f))
    (elems : ∀ a n, f (etOf w) a n = g a n) :
    VectorResult i w (shShift w) (pairCost (shShift w)) 2 (etOf w) (fun _ => xb w 27 27 = 1 → xb w 26 22 < (etOf w).width) fun _ x m n =>
      exactly (g (x.a.elem (etOf w) m n) (if xb w 27 27 = 1 then xb w 26 22 else x.b.elem (etOf w) m n % (etOf w).width)) := by
  refine vectorResult_of (fun _ inside => shift_ok inside) fun s => ?_
  simp only [meaning, State.vshift, elems, beq_iff_eq]
  rfl

theorem vsel_ends {w : Wt} {s t u : State} {x : VIn} (ready : s.vready (shLane w (.vec 1 1 true true) .mask) x t)
    (done : (t.holdV (s.now + pairCost (shLane w (.vec 1 1 true true) .mask))).putElems .n16 w.d x.p 2 (fun i j =>
      exactly (if (s.readM w.c).getLsbD (64 * i + j) then x.a.lane (64 * i + j) else x.b.lane (64 * i + j))) = .ok u) :
    exec (.vsel w) s = .next (u.retire 1) := by
  obtain ⟨⟨st, aw⟩, vr, unit, sh⟩ := ready
  show outcome s (s.vsel w) = _
  unfold State.vsel
  simp only [st, vr, aw, unit, sh, res_ok_bind, decide_true, waitUnless_true]
  exact congrArg (fun r : Res State => outcome s (r >>= fun v => .ok (v.retire 1))) done

/-! ### Compares (R244) -/

/-- The relation of VCMP between the elements that lane `n` of a register or pair holds (R31, R244). -/
def vcmpBit (w : Wt) (x : VIn) (n : Nat) : Bool :=
  relHolds (xb w 2 0) (cmpElem (etOf w) (x.a.elem (etOf w) (n / 64) (n % 64)) (x.b.elem (etOf w) (n / 64) (n % 64)))

theorem vcmp_ends {w : Wt} {s t : State} {x : VIn} (ready : s.vready (shVcmp w) x t) : exec (.vcmp w) s =
    .next (((t.holdV (s.now + pairCost (shVcmp w))).pend 3 (.mask (s.maskIx w.d) x.p (maskOf (vcmpBit w x))) []).retire 1) := by
  have ⟨_, read, _⟩ := ready
  have mask : (t.holdV (s.now + pairCost (shVcmp w))).maskIx w.d = s.maskIx w.d := by rw [maskIx_holdV, maskIx_vread read]
  rw [← mask]
  exact congrArg (outcome s) (vwordIf_ready ready (own := .ok ()) rfl rfl)

/-- A word of 16-bit lanes gives each lane its function of the lanes of A and B. -/
theorem lanes_result {i : Instr} {w : Wt} {h : Shape} {f : Nat → Nat → Nat} (meaning : ∀ s, exec i s = outcome s (s.lanes w h 2 f)) :
    VectorResult i w h (pairCost h) 2 .n16 (fun _ => True) fun _ x m n => exactly (f (x.a.lane (64 * m + n)) (x.b.lane (64 * m + n))) :=
  vectorResult_of (own := .ok ()) (fun _ _ => rfl) meaning

/-- Settles O37: lanes and shifts are words over one function of their elements; a compare is one mask, bit by bit. -/
theorem compareLogicShift : Obligations.CompareLogicShift := by
  unfold Obligations.CompareLogicShift
  intro w t sh sh1 lane im shift
  have lanes {i : Instr} {h : Shape} {f : Nat → Nat → Nat} (meaning : ∀ s, exec i s = outcome s (s.lanes w h 2 f)) : lane i h f := lanes_result meaning
  have shifts {i : Instr} {f : ETy → Nat → Nat → Nat} {g : Nat → Nat → Nat} (meaning : ∀ s, exec i s = outcome s (s.vshift w f))
      (elems : ∀ a n, f t a n = g a n) : shift i g := shift_result meaning elems
  clear_value lane shift
  refine ⟨?and, ?or, ?xor, ?not, ?mov, ?shl, ?shr, ?sra, fun s st ims past i member => ?amount, fun s x t1 ready => ?cmp,
    fun s x t1 u ready done => vsel_ends ready done⟩
  case and => exact lanes fun _ => rfl
  case or => exact lanes fun _ => rfl
  case xor => exact lanes fun _ => rfl
  case not => exact lanes fun _ => rfl
  case mov => exact lanes fun _ => rfl
  case shl => exact shifts (fun _ => rfl) fun _ _ => rfl
  case shr => exact shifts (fun _ => rfl) fun _ _ => rfl
  case sra =>
    exact shifts (fun _ => rfl) fun a n => by
      rw [wrapInt]
      push_cast
      rfl
  case amount =>
    simp only [List.mem_cons, List.not_mem_nil, or_false] at member
    obtain rfl | rfl | rfl := member <;> exact shift_faults ims past st
  case cmp => exact ⟨_, vcmp_ends ready, fun n low => maskOf_bit _ low⟩

end Sys2Proof.Proofs
end

section
/-!
PROOFS. Element moves, rotations, permutations and reductions (R60, R249 to R252).
-/

namespace Sys2Proof.Proofs
open Sys2Proof Sys2Proof.Machine

/-! ### Indices (R249) -/

theorem indexCheck_ok {t : ETy} {v : Word} (inside : v.toNat < 16 * t.perRow) : indexCheck t v = .ok () :=
  trapIf_ok.2 (decide_eq_false (Nat.not_le.2 inside))

theorem indexCheck_faults {t : ETy} {v : Word} (past : 16 * t.perRow ≤ v.toNat) : indexCheck t v = .error (.trap (fltS .illegalOperand 13)) := by
  rw [indexCheck, decide_eq_true past, trapIf_true]

/-- A word whose index lies past the register faults with cause 13. -/
theorem index_faults {i : Instr} {s t : State} {h : Shape} {x : VIn} (ready : s.vready h x t) {ty : ETy} (past : 16 * ty.perRow ≤ x.b.word.toNat)
    {occ : Nat} {go : VIn → State → Res State} (meaning : exec i s = outcome s (s.vword h occ (fun x => indexCheck ty x.b.word) go)) :
    Faults i s (fltS .illegalOperand 13) := by
  rw [Faults, meaning, State.vword, vwordIf_operand_faults ready (indexCheck_faults past)]
  exact takeFault_next (by decide) s

/-! ### Movement by k (R250) -/

/-- The check of k against its limit. -/
def limitCheck (limit : Option Nat) (k : Nat) : Res Unit := trapIf (limit.any fun n => decide (k ≥ n)) (flt .illegalOperand)

theorem limitCheck_ok {limit : Option Nat} {k : Nat} (below : ∀ n ∈ limit, k < n) : limitCheck limit k = .ok () := by
  refine trapIf_ok.2 ?_
  cases limit with
  | none => rfl
  | some n => exact decide_eq_false (Nat.not_le.2 (below n rfl))

theorem rotWord_eq (s : State) (w : Wt) (lat : Nat) (limit : Option Nat) (f : Nat → Nat → Nat → Nat × Nat) : s.rotWord w lat limit f =
    s.vwordIf (shRot w) (pairCost (shRot w)) (if xb w 27 27 = 1 then limitCheck limit (xb w 26 21) else .ok ()) (fun x => limitCheck limit (rotK w x))
      fun x s1 => s1.putElems (etOf w) w.d x.p lat fun i j =>
        exactly (x.a.elem (etOf w) (f (rotK w x) i j).1 (f (rotK w x) i j).2) := by
  cases limit <;> rfl

/-- A word that moves elements by k gives each element the one that its function of k and of the place names. -/
theorem rot_result {i : Instr} {w : Wt} {lat : Nat} {limit : Option Nat} {f : Nat → Nat → Nat → Nat × Nat} {ok : VIn → Prop}
    (meaning : ∀ s, exec i s = outcome s (s.rotWord w lat limit f)) (below : ∀ x, ok x → ∀ n ∈ limit, rotK w x < n) :
    VectorResult i w (shRot w) (pairCost (shRot w)) lat (etOf w) ok fun _ x m n =>
      exactly (x.a.elem (etOf w) (f (rotK w x) m n).1 (f (rotK w x) m n).2) := by
  refine vectorResult_checked (fun x legal => ?_) (fun x legal => limitCheck_ok (below x legal))
    fun s => (meaning s).trans (congrArg (outcome s) (rotWord_eq s w lat limit f))
  split
  · rename_i ims
    have k : rotK w x = xb w 26 21 := if_pos ims
    exact limitCheck_ok (k ▸ below x legal)
  · rfl

/-! ### Reduction along rows and columns (R251) -/

/-- The reduction of a line's elements whose predicate bits are 1. -/
def lineValue (w : Wt) (s : State) (x : VIn) (line : List (Nat × Nat)) : Rounded :=
  reduce (etOf w) (xb w 27 26) (s.modeOf w) w.sat
    ((line.filter fun e => x.p.getLsbD (laneOf (etOf w) e.1 e.2)).map fun e => x.a.elem (etOf w) e.1 e.2)

/-- The elements a reduction gives: each line's value, all of them formed first. -/
def reduceElems (w : Wt) (rows : Bool) (s : State) (x : VIn) (i j : Nat) : Option Rounded :=
  some (((List.range (if rows then 16 else (etOf w).perRow)).map fun k => lineValue w s x
    (if rows then (List.range (etOf w).perRow).map fun n => (k, n) else (List.range 16).map fun m => (m, k))).getD (if rows then i else j) default)

theorem getD_map_range {α : Type} (f : Nat → α) {n k : Nat} (inside : k < n) (d : α) : ((List.range n).map f).getD k d = f k := by
  simp [List.getD_eq_getElem?_getD, inside]

theorem reduceElems_row {w : Wt} {i : Nat} (inside : i < 16) (s : State) (x : VIn) (j : Nat) :
    reduceElems w true s x i j = some (lineValue w s x ((List.range (etOf w).perRow).map fun n => (i, n))) :=
  congrArg some (getD_map_range _ inside default)

theorem reduceElems_column {w : Wt} {j : Nat} (inside : j < (etOf w).perRow) (s : State) (x : VIn) (i : Nat) :
    reduceElems w false s x i j = some (lineValue w s x ((List.range 16).map fun m => (m, j))) :=
  congrArg some (getD_map_range _ inside default)

theorem reduce_result {i : Instr} {w : Wt} {lat : Nat} {rows : Bool} (meaning : ∀ s, exec i s = outcome s (s.reduceWord w lat rows)) :
    VectorResult i w (shRed w) (pairCost (shRed w)) lat (etOf w) (fun _ => True) (reduceElems w rows) :=
  vectorResult_of (own := .ok ()) (fun _ _ => rfl) meaning

/-! ### Extremes (R251) -/

/-- A fold that keeps one of two elements, to which the other stands in a transitive relation, ends with an element of the list to which every
element stands so. -/
theorem foldl_picks {α : Type} {R : α → α → Prop} {P : α → Prop} {f : α → α → α} (refl : ∀ a, P a → R a a)
    (trans : ∀ a b c, P a → P b → P c → R a b → R b c → R a c) (picks : ∀ a b, P a → P b → (f a b = a ∧ R b a) ∨ (f a b = b ∧ R a b))
    (l : List α) (a : α) (all : ∀ b ∈ a :: l, P b) : l.foldl f a ∈ a :: l ∧ ∀ b ∈ a :: l, R b (l.foldl f a) := by
  induction l generalizing a with
  | nil => simpa using refl a (all a (by simp))
  | cons c l ih =>
    obtain ⟨pa, pc, pl⟩ : P a ∧ P c ∧ ∀ b ∈ l, P b := by simpa using all
    have kept : (f a c = a ∨ f a c = c) ∧ R a (f a c) ∧ R c (f a c) := by
      obtain ⟨keep, below⟩ | ⟨keep, below⟩ := picks a c pa pc <;> rw [keep]
      · exact ⟨.inl rfl, refl a pa, below⟩
      · exact ⟨.inr rfl, below, refl c pc⟩
    obtain ⟨one, belowA, belowC⟩ := kept
    have pk : P (f a c) := by rcases one with h | h <;> rw [h] <;> assumption
    obtain ⟨member, best⟩ := ih (f a c) (List.forall_mem_cons.2 ⟨pk, pl⟩)
    have top := best _ List.mem_cons_self
    have pm : P (l.foldl f (f a c)) := List.forall_mem_cons.2 ⟨pk, pl⟩ _ member
    refine ⟨?_, List.forall_mem_cons.2 ⟨trans _ _ _ pa pk pm belowA top, List.forall_mem_cons.2
      ⟨trans _ _ _ pc pk pm belowC top, fun b hb => best b (List.mem_cons_of_mem _ hb)⟩⟩⟩
    rw [List.foldl_cons]
    simp only [List.mem_cons] at member ⊢
    rcases one with h | h <;> rw [h] at member ⊢ <;> tauto

/-- Where a number stands among all values, the infinities at the ends. -/
def numRank : FVal → WithBot (WithTop ℚ)
  | .inf true => ⊥
  | .inf false => ⊤
  | v => ((exactValue v : WithTop ℚ) : WithBot (WithTop ℚ))

/-- A magnitude counted in a smaller quantum has the same value. -/
theorem scaleTo_value (neg : Bool) (m : Nat) {e q : Int} (fine : q ≤ e) : (scaleTo neg m e q : ℚ) * 2 ^ q = exactValue (.fin neg m e) := by
  have power : (2 : ℚ) ^ (e - q).toNat * 2 ^ q = 2 ^ e := by
    rw [← zpow_natCast, ← zpow_add₀ two_ne_zero]
    congr 1
    omega
  unfold scaleTo exactValue
  cases neg <;> simp [mul_assoc, power]

/-- Two magnitudes compare as their values do. -/
theorem compare_scaleTo (na nb : Bool) (ma mb : Nat) (ea eb : Int) :
    compare (scaleTo na ma ea (min ea eb)) (scaleTo nb mb eb (min ea eb)) = compare (exactValue (.fin na ma ea)) (exactValue (.fin nb mb eb)) := by
  rw [← scaleTo_value na ma (min_le_left ea eb), ← scaleTo_value nb mb (min_le_right ea eb), ← cmp_eq_compare, ← cmp_eq_compare]
  have mono : StrictMono fun n : Int => (n : ℚ) * 2 ^ min ea eb := fun x y less =>
    mul_lt_mul_of_pos_right (Int.cast_lt.2 less) (zpow_pos two_pos _)
  exact (mono.cmp_map_eq _ _).symm

/-- Numbers compare by their ranks. -/
theorem cmpF_rank {a b : FVal} (na : a ≠ .nan) (nb : b ≠ .nan) : cmpF a b = some (compare (numRank a) (numRank b)) := by
  have ends : (⊥ : WithBot (WithTop ℚ)) < ⊤ := bot_lt_top
  have low (v : ℚ) : (⊥ : WithBot (WithTop ℚ)) < (v : WithTop ℚ) := WithBot.bot_lt_coe _
  have high (v : ℚ) : ((v : WithTop ℚ) : WithBot (WithTop ℚ)) < ⊤ := WithBot.coe_lt_coe.2 (WithTop.coe_lt_top v)
  match a, b with
  | .nan, _ => exact absurd rfl na
  | _, .nan => exact absurd rfl nb
  | .inf true, .inf true | .inf false, .inf false => exact congrArg some (compare_eq_iff_eq.2 rfl).symm
  | .inf true, .inf false => exact congrArg some (compare_lt_iff_lt.2 ends).symm
  | .inf false, .inf true => exact congrArg some (compare_gt_iff_gt.2 ends).symm
  | .inf true, .fin .. => exact congrArg some (compare_lt_iff_lt.2 (low _)).symm
  | .inf false, .fin .. => exact congrArg some (compare_gt_iff_gt.2 (high _)).symm
  | .fin .., .inf true => exact congrArg some (compare_gt_iff_gt.2 (low _)).symm
  | .fin .., .inf false => exact congrArg some (compare_lt_iff_lt.2 (high _)).symm
  | .fin xa ma ea, .fin xb mb eb =>
    have mono : StrictMono fun v : ℚ => ((v : WithTop ℚ) : WithBot (WithTop ℚ)) := WithBot.coe_strictMono.comp WithTop.coe_strictMono
    have ranks := mono.cmp_map_eq (exactValue (.fin xa ma ea)) (exactValue (.fin xb mb eb))
    rw [cmp_eq_compare, cmp_eq_compare] at ranks
    simp only [cmpF, compare_scaleTo]
    exact congrArg some ranks.symm

/-- `b` does not beat `a`: it compares as the loser, or equal, and then has the losing sign unless `a` too has the other (R243, R251). -/
def Loses (lose : Ordering) (last : Bool) (b a : FVal) : Prop :=
  cmpF b a = some lose ∨ (cmpF b a = some .eq ∧ (b.isNeg = last → a.isNeg = last))

theorem loses_refl (lose : Ordering) (last : Bool) (a : FVal) (number : a ≠ .nan) : Loses lose last a a :=
  .inr ⟨by rw [cmpF_rank number number, compare_eq_iff_eq.2 rfl], id⟩

/-- Losing is transitive: on ranks it is less, or greater. -/
theorem loses_trans {lose : Ordering} (strict : lose ≠ .eq) (last : Bool) (a b c : FVal) (na : a ≠ .nan) (nb : b ≠ .nan) (nc : c ≠ .nan)
    (ab : Loses lose last a b) (bc : Loses lose last b c) : Loses lose last a c := by
  unfold Loses at *
  rw [cmpF_rank na nb] at ab
  rw [cmpF_rank nb nc] at bc
  rw [cmpF_rank na nc]
  simp only [Option.some.injEq, compare_eq_iff_eq] at *
  have through : compare (numRank a) (numRank b) = lose → compare (numRank b) (numRank c) = lose → compare (numRank a) (numRank c) = lose := by
    cases lose with
    | eq => exact absurd rfl strict
    | lt => simpa only [compare_lt_iff_lt] using lt_trans
    | gt => simpa only [compare_gt_iff_gt] using gt_trans
  rcases ab with ab | ⟨ab, signs⟩
  · exact .inl (bc.elim (through ab) fun ⟨same, _⟩ => same ▸ ab)
  · rw [ab]
    exact bc.imp_right (And.imp_right fun h => h ∘ signs)

/-- Equal numbers are equal in turn, and what is below is above in turn. -/
theorem cmpF_swap {a b : FVal} (na : a ≠ .nan) (nb : b ≠ .nan) {o : Ordering} (h : cmpF a b = some o) : cmpF b a = some o.swap := by
  rw [cmpF_rank na nb] at h
  rw [cmpF_rank nb na, ← Option.some.inj h, ← Std.OrientedCmp.eq_swap]

theorem maxF_picks (a b : FVal) (na : a ≠ .nan) (nb : b ≠ .nan) :
    (maxF a b = a ∧ Loses .lt false b a) ∨ (maxF a b = b ∧ Loses .lt false a b) := by
  unfold maxF
  cases h : cmpF a b with
  | none => simp [cmpF_rank na nb] at h
  | some o =>
    have turn := cmpF_swap na nb h
    cases o with
    | lt => exact .inr ⟨rfl, .inl h⟩
    | gt => exact .inl ⟨rfl, .inl turn⟩
    | eq =>
      cases sign : a.isNeg
      · exact .inl ⟨rfl, .inr ⟨turn, fun _ => sign⟩⟩
      · exact .inr ⟨rfl, .inr ⟨h, fun plus => by simp [sign] at plus⟩⟩

theorem minF_picks (a b : FVal) (na : a ≠ .nan) (nb : b ≠ .nan) :
    (minF a b = a ∧ Loses .gt true b a) ∨ (minF a b = b ∧ Loses .gt true a b) := by
  unfold minF
  cases h : cmpF a b with
  | none => simp [cmpF_rank na nb] at h
  | some o =>
    have turn := cmpF_swap na nb h
    cases o with
    | lt => exact .inl ⟨rfl, .inl turn⟩
    | gt => exact .inr ⟨rfl, .inl h⟩
    | eq =>
      cases sign : a.isNeg
      · exact .inr ⟨rfl, .inr ⟨h, fun minus => by simp [sign] at minus⟩⟩
      · exact .inl ⟨rfl, .inr ⟨turn, fun _ => sign⟩⟩

theorem foldF_cons (f : FVal → FVal → FVal) (a : FVal) (l : List FVal) : foldF f (a :: l) = l.foldl f a := by cases l <;> rfl

/-- Folding an operation that picks the one of two numbers that does not lose gives a number of the list that loses to none. -/
theorem foldF_picks {f : FVal → FVal → FVal} {lose : Ordering} (strict : lose ≠ .eq) {last : Bool}
    (picks : ∀ a b, a ≠ .nan → b ≠ .nan → (f a b = a ∧ Loses lose last b a) ∨ (f a b = b ∧ Loses lose last a b))
    {v : List FVal} (some_ : v ≠ []) (numbers : .nan ∉ v) : foldF f v ∈ v ∧ ∀ b ∈ v, Loses lose last b (foldF f v) := by
  obtain ⟨a, l, rfl⟩ := List.exists_cons_of_ne_nil some_
  rw [foldF_cons]
  exact foldl_picks (P := (· ≠ .nan)) (loses_refl lose last) (loses_trans strict last) picks l a fun b hb nan => numbers (nan ▸ hb)

/-- An operation that a NaN on either side makes NaN gives NaN wherever a NaN is met (R61, R251). -/
theorem foldF_nan {f : FVal → FVal → FVal} (left : ∀ b, f .nan b = .nan) (right : ∀ a, f a .nan = .nan) {v : List FVal} (met : .nan ∈ v) :
    foldF f v = .nan := by
  obtain ⟨a, l, rfl⟩ := List.exists_cons_of_ne_nil (List.ne_nil_of_mem met)
  rw [foldF_cons]
  have kept (l : List FVal) : l.foldl f .nan = .nan := List.foldl_fixed' left l
  induction l generalizing a with
  | nil => exact (List.mem_singleton.1 met).symm
  | cons c l ih =>
    rw [List.foldl_cons]
    simp only [List.mem_cons] at met
    rcases met with rfl | rfl | met
    · rw [left, kept]
    · rw [right, kept]
    · exact ih _ (List.mem_cons_of_mem _ met)

/-! ### Sums (R60, R61, R251) -/

theorem addExact_nan_left (b : FVal) : addExact .nan b = .nan := by cases b <;> rfl
theorem addExact_nan_right (a : FVal) : addExact a .nan = .nan := by cases a <;> rfl

/-- A sum of two numbers is NaN just where it is of opposite infinities. -/
theorem addExact_eq_nan {a c : FVal} (na : a ≠ .nan) (nc : c ≠ .nan) : addExact a c = .nan ↔ ∃ s, a = .inf s ∧ c = .inf !s := by
  match a, c with
  | .nan, _ => exact absurd rfl na
  | _, .nan => exact absurd rfl nc
  | .inf x, .inf y => cases x <;> cases y <;> simp [addExact]
  | .inf x, .fin .. => simp [addExact]
  | .fin .., .inf y => simp [addExact]
  | .fin .., .fin .. => simp only [addExact]; split <;> simp

/-- A sum that is a number is an infinity where one of the two is. -/
theorem addExact_eq_inf {a c : FVal} (number : addExact a c ≠ .nan) (s : Bool) : addExact a c = .inf s ↔ a = .inf s ∨ c = .inf s := by
  match a, c with
  | .nan, c => exact absurd (addExact_nan_left c) number
  | a, .nan => exact absurd (addExact_nan_right a) number
  | .inf x, .inf y => cases x <;> cases y <;> simp_all [addExact]
  | .inf x, .fin .. => simp [addExact]
  | .fin .., .inf y => simp [addExact]
  | .fin .., .fin .. => simp only [addExact]; split <;> simp

theorem mem_addExact {a c : FVal} {l : List FVal} (number : addExact a c ≠ .nan) (s : Bool) :
    .inf s ∈ addExact a c :: l ↔ .inf s ∈ a :: c :: l := by
  simp only [List.mem_cons, eq_comm (a := FVal.inf s), addExact_eq_inf number, or_assoc]

theorem foldl_addExact_nan (l : List FVal) : l.foldl addExact .nan = .nan := List.foldl_fixed' addExact_nan_left l

/-- Opposite infinities sum to NaN (R251). -/
theorem foldl_addExact_opposite (a : FVal) (l : List FVal) (both : ∀ s, .inf s ∈ a :: l) : l.foldl addExact a = .nan := by
  induction l generalizing a with
  | nil => exact absurd ((List.mem_singleton.1 (both true)).trans (List.mem_singleton.1 (both false)).symm) (by decide)
  | cons c l ih =>
    rw [List.foldl_cons]
    by_cases nan : addExact a c = .nan
    · rw [nan, foldl_addExact_nan]
    · exact ih _ fun s => (mem_addExact nan s).2 (both s)

/-- Numbers with infinities of one sign sum to that infinity (R251). -/
theorem foldl_addExact_inf {s : Bool} (a : FVal) (l : List FVal) (numbers : .nan ∉ a :: l) (met : .inf s ∈ a :: l) (alone : .inf (!s) ∉ a :: l) :
    l.foldl addExact a = .inf s := by
  induction l generalizing a with
  | nil => exact (List.mem_singleton.1 met).symm
  | cons c l ih =>
    rw [List.foldl_cons]
    obtain ⟨na, nc, nl⟩ : a ≠ .nan ∧ c ≠ .nan ∧ .nan ∉ l := by simpa [eq_comm] using numbers
    have number : addExact a c ≠ .nan := by
      rw [Ne, addExact_eq_nan na nc]
      rintro ⟨r, rfl, rfl⟩
      cases s <;> cases r <;> simp at alone
    exact ih _ (by simpa [nl] using Ne.symm number) ((mem_addExact number s).2 met) (mt (mem_addExact number (!s)).1 alone)

/-- An integer times a power of two, by its sign and its magnitude. -/
theorem exactValue_natAbs (n q : Int) : exactValue (.fin (decide (n < 0)) n.natAbs q) = n * 2 ^ q := by
  have size : ((n.natAbs : Nat) : ℚ) = |(n : ℚ)| := by rw [← Int.cast_natCast, Int.natCast_natAbs, Int.cast_abs]
  unfold exactValue
  dsimp only
  rw [size]
  by_cases neg : n < 0
  · have : (n : ℚ) < 0 := by exact_mod_cast neg
    simp [neg, abs_of_neg this]
  · have : (0 : ℚ) ≤ n := by exact_mod_cast not_lt.1 neg
    simp [neg, abs_of_nonneg this]

theorem exactValue_nonpos {v : FVal} (neg : v.isNeg = true) : exactValue v ≤ 0 := by
  match v with
  | .nan => rfl
  | .inf _ => rfl
  | .fin true m e => simpa [exactValue] using by positivity

theorem exactValue_eq_zero {neg : Bool} {m : Nat} {e : Int} : exactValue (.fin neg m e) = 0 ↔ m = 0 := by
  have power : (2 : ℚ) ^ e ≠ 0 := zpow_ne_zero e two_ne_zero
  cases neg <;> simp [exactValue, power]

/-- A finite value is the exact sum of a list; a zero is negative just where every element is (R60). -/
def SumOf (v : List FVal) (x : FVal) : Prop :=
  ∃ neg m e, x = .fin neg m e ∧ exactValue x = (v.map exactValue).sum ∧ (m = 0 → (neg = true ↔ ∀ y ∈ v, y.isNeg = true))

theorem sumOf_singleton (neg : Bool) (m : Nat) (e : Int) : SumOf [.fin neg m e] (.fin neg m e) :=
  ⟨neg, m, e, rfl, by simp, fun _ => by simp [FVal.isNeg]⟩

/-- Values none of which is positive have no positive sum. -/
theorem sum_nonpos {v : List FVal} (neg : ∀ y ∈ v, y.isNeg = true) : (v.map exactValue).sum ≤ 0 :=
  by simpa using List.sum_le_card_nsmul (v.map exactValue) 0 (by simpa using fun y hy => exactValue_nonpos (neg y hy))

theorem SumOf.add {v : List FVal} {x : FVal} (h : SumOf v x) (neg : Bool) (m : Nat) (e : Int) :
    SumOf (v ++ [FVal.fin neg m e]) (addExact x (.fin neg m e)) := by
  obtain ⟨nx, mx, ex, rfl, value, zero⟩ := h
  have sum : ((scaleTo nx mx ex (min ex e) + scaleTo neg m e (min ex e) : Int) : ℚ) * 2 ^ min ex e =
      ((v ++ [FVal.fin neg m e]).map exactValue).sum := by
    rw [Int.cast_add, add_mul, scaleTo_value _ _ (min_le_left ..), scaleTo_value _ _ (min_le_right ..), value]
    simp
  simp only [addExact]
  split
  · rename_i none
    rw [none, Int.cast_zero, zero_mul] at sum
    have balance : exactValue (.fin nx mx ex) + exactValue (.fin neg m e) = 0 := by rw [value, sum]; simp
    have empty (minus : neg = true) (below : exactValue (.fin nx mx ex) ≤ 0) : mx = 0 := by
      have := exactValue_nonpos (v := .fin neg m e) minus
      exact exactValue_eq_zero.1 (by linarith)
    refine ⟨_, _, _, rfl, by rw [← sum, exactValue_eq_zero], fun _ => ?_⟩
    simp only [Bool.and_eq_true, List.forall_mem_append, List.forall_mem_singleton, FVal.isNeg]
    constructor
    · exact fun ⟨minusX, minus⟩ => ⟨(zero (empty minus (exactValue_nonpos minusX))).1 minusX, minus⟩
    · exact fun ⟨all, minus⟩ => ⟨(zero (empty minus (value ▸ sum_nonpos all))).2 all, minus⟩
  · rename_i some_
    exact ⟨_, _, _, rfl, (exactValue_natAbs _ _).trans sum, fun h => absurd (Int.natAbs_eq_zero.1 h) some_⟩

theorem foldl_addExact_finite {v : List FVal} {x : FVal} (h : SumOf v x) (l : List FVal) (finite : ∀ y ∈ l, ∃ neg m e, y = .fin neg m e) :
    SumOf (v ++ l) (l.foldl addExact x) := by
  induction l generalizing v x with
  | nil => simpa using h
  | cons c l ih =>
    obtain ⟨⟨neg, m, e, rfl⟩, rest⟩ := List.forall_mem_cons.1 finite
    rw [List.foldl_cons, List.append_cons]
    exact ih (h.add neg m e) rest

/-- A sum of finite values is finite and exact (R60, R251). -/
theorem foldF_addExact_finite {v : List FVal} (some_ : v ≠ []) (numbers : .nan ∉ v) (finite : ∀ s, .inf s ∉ v) : SumOf v (foldF addExact v) := by
  have each : ∀ y ∈ v, ∃ neg m e, y = .fin neg m e := by
    intro y hy
    match y with
    | .nan => exact absurd hy numbers
    | .inf s => exact absurd hy (finite s)
    | .fin neg m e => exact ⟨neg, m, e, rfl⟩
  obtain ⟨a, l, rfl⟩ := List.exists_cons_of_ne_nil some_
  obtain ⟨⟨neg, m, e, rfl⟩, rest⟩ := List.forall_mem_cons.1 each
  rw [foldF_cons]
  exact foldl_addExact_finite (sumOf_singleton neg m e) l rest

/-! ### Reductions (R251) -/

theorem reduce_int {t : ETy} (int : t.isFloat = false) (rm : RMode) (sat : Bool) (l : List Nat) :
    reduce t 0 rm sat l = narrowInt t sat ((l.map (decodeInt t)).sum) ∧
    reduce t 1 rm sat l = narrowInt t false ((l.map (decodeInt t)).tail.foldl max ((l.map (decodeInt t)).headD 0)) ∧
    reduce t 2 rm sat l = narrowInt t false ((l.map (decodeInt t)).tail.foldl min ((l.map (decodeInt t)).headD 0)) := by
  simp [reduce, int]

theorem reduce_float {t : ETy} (float : t.isFloat = true) (rm : RMode) (sat : Bool) (l : List Nat) :
    reduce t 0 rm sat l = roundFloat t rm sat (foldF addExact (l.map (decodeFloat t))).toX ∧
    reduce t 1 rm sat l = roundFloat t .rne false (foldF maxF (l.map (decodeFloat t))).toX ∧
    reduce t 2 rm sat l = roundFloat t .rne false (foldF minF (l.map (decodeFloat t))).toX := by
  simp [reduce, float]

/-- Folding the greater or the lesser of two integers finds an element that no other exceeds, or that exceeds no other. -/
theorem foldl_extreme {f : Int → Int → Int} {R : Int → Int → Prop} (refl : ∀ a, R a a) (trans : ∀ a b c, R a b → R b c → R a c)
    (picks : ∀ a b, (f a b = a ∧ R b a) ∨ (f a b = b ∧ R a b)) {t : ETy} {l : List Nat} (some_ : 0 < l.length) :
    ∃ a ∈ l, (l.map (decodeInt t)).tail.foldl f ((l.map (decodeInt t)).headD 0) = decodeInt t a ∧ ∀ b ∈ l, R (decodeInt t b) (decodeInt t a) := by
  obtain ⟨a, r, rfl⟩ := List.exists_cons_of_length_pos some_
  obtain ⟨member, best⟩ := foldl_picks (P := fun _ => True) (fun a _ => refl a) (fun a b c _ _ _ => trans a b c) (fun a b _ _ => picks a b)
    (r.map (decodeInt t)) (decodeInt t a) fun _ _ => trivial
  rw [← List.map_cons] at member best
  obtain ⟨c, hc, value⟩ := List.mem_map.1 member
  exact ⟨c, hc, value.symm, fun b hb => value ▸ best _ (List.mem_map_of_mem hb)⟩

theorem max_picks (a b : Int) : (max a b = a ∧ b ≤ a) ∨ (max a b = b ∧ a ≤ b) := by omega
theorem min_picks (a b : Int) : (min a b = a ∧ a ≤ b) ∨ (min a b = b ∧ b ≤ a) := by omega

theorem maxF_nan_left (b : FVal) : maxF .nan b = .nan := by cases b <;> rfl
theorem maxF_nan_right (a : FVal) : maxF a .nan = .nan := by cases a <;> rfl
theorem minF_nan_left (b : FVal) : minF .nan b = .nan := by cases b <;> rfl
theorem minF_nan_right (a : FVal) : minF a .nan = .nan := by cases a <;> rfl

theorem foldF_addExact_opposite {v : List FVal} (minus : .inf true ∈ v) (plus : .inf false ∈ v) : foldF addExact v = .nan := by
  obtain ⟨a, l, rfl⟩ := List.exists_cons_of_ne_nil (List.ne_nil_of_mem plus)
  rw [foldF_cons]
  exact foldl_addExact_opposite a l (Bool.forall_bool.2 ⟨plus, minus⟩)

theorem foldF_addExact_inf {v : List FVal} {s : Bool} (numbers : .nan ∉ v) (met : .inf s ∈ v) (alone : .inf (!s) ∉ v) : foldF addExact v = .inf s := by
  obtain ⟨a, l, rfl⟩ := List.exists_cons_of_ne_nil (List.ne_nil_of_mem met)
  rw [foldF_cons]
  exact foldl_addExact_inf a l numbers met alone

/-! ### The words -/

/-- The scalar VEXT gives: the element that B's value names, sign-extended for an I type (R249). -/
def extracted (w : Wt) (x : VIn) : Word :=
  let v := x.a.elem (etOf w) (x.b.word.toNat / (etOf w).perRow) (x.b.word.toNat % (etOf w).perRow)
  if (etOf w).isSigned then BitVec.ofInt 64 (sextNat (etOf w).width v) else BitVec.ofNat 64 v

theorem vext_ends {w : Wt} {s t u : State} {x : VIn} (ready : s.vready (shVext w) x t) (inside : x.b.word.toNat < 16 * (etOf w).perRow)
    (done : (t.holdV (s.now + 1)).gives w.d (extracted w x) 3 u) : exec (.vext w) s = .next (u.retire 1) :=
  congrArg (outcome s) (vwordIf_checked ready rfl (chk := fun x => indexCheck (etOf w) x.b.word) (indexCheck_ok inside)
    (go := fun x s1 => s1.writeS w.d (extracted w x) 3) done)

/-- Registers apart from both sources pass both checks. -/
theorem differs_both {w : Wt} {f g : OpField} {m n : Nat} (first : differs w f m = .ok ()) (second : differs w g n = .ok ()) :
    (do differs w f m; differs w g n) = .ok () := by rw [first, res_ok_bind, second]

/-- Settles O39: each word moves elements by one function of its place, past its checks; a reduction folds a line, whose extreme loses to none
and whose sum stays exact. -/
theorem elementsMoveAndReduce : Obligations.ElementsMoveAndReduce := by
  unfold Obligations.ElementsMoveAndReduce
  refine ⟨fun w => ?moves, fun w => ?reductions⟩
  case moves =>
    intro t at_ k size apart
    refine ⟨?bcst, ?idx, ?ins, fun s x t1 u ready inside done => vext_ends ready inside done, fun s x t1 past => ⟨?extFar, ?insFar⟩,
      ?rotr, ?rotc, ?bcr, ?bcc, ?trn, ?perm⟩
    case bcst => exact vectorResult_of (own := .ok ()) (fun _ _ => rfl) fun _ => rfl
    case idx => exact vectorResult_of (own := .ok ()) (fun _ _ => rfl) fun _ => rfl
    case ins => exact vectorResult_checked (own := .ok ()) (fun _ _ => rfl) (fun _ inside => indexCheck_ok inside) fun _ => rfl
    case extFar => exact fun ready => index_faults ready past rfl
    case insFar => exact fun ready => index_faults ready past rfl
    case rotr => exact rot_result (f := fun k i j => (i, (j + k) % t.perRow)) (limit := none) (fun _ => rfl) (by simp)
    case rotc => exact rot_result (f := fun k i j => ((i + k) % 16, j)) (limit := none) (fun _ => rfl) (by simp)
    case bcr => exact rot_result (f := fun k i _ => (i, k)) (limit := some t.perRow) (fun _ => rfl) (by simp [k, rotK])
    case bcc => exact rot_result (f := fun k _ j => (k, j)) (limit := some 16) (fun _ => rfl) (by simp [k, rotK])
    case trn => exact vectorResult_of (fun _ free => differs_ok free) fun _ => rfl
    case perm => exact vectorResult_of (fun _ free => differs_both (differs_ok free.1) (differs_ok free.2)) fun _ => rfl
  case reductions =>
    intro t value
    refine ⟨⟨_, reduce_result (rows := true) fun _ => rfl, fun s x i j inside => reduceElems_row inside s x j⟩,
      ⟨_, reduce_result (rows := false) fun _ => rfl, fun s x i j inside => reduceElems_column inside s x i⟩,
      fun rm sat l int some_ => ?ints, fun rm sat l float some_ => ?floats⟩
    case ints =>
      obtain ⟨sum, greatest, least⟩ := reduce_int int rm sat l
      obtain ⟨a, ha, valueA, topA⟩ := foldl_extreme (R := (· ≤ ·)) le_refl (fun _ _ _ => le_trans) max_picks (t := t) some_
      obtain ⟨b, hb, valueB, topB⟩ := foldl_extreme (R := (· ≥ ·)) le_refl (fun _ _ _ => ge_trans) min_picks (t := t) some_
      exact ⟨sum, ⟨a, ha, greatest.trans (by rw [valueA]), topA⟩, ⟨b, hb, least.trans (by rw [valueB]), topB⟩⟩
    case floats =>
      intro v best
      obtain ⟨sum, greatest, least⟩ := reduce_float float rm sat l
      have some_ : v ≠ [] := by simpa [v] using some_
      refine ⟨fun met => ⟨?sumNan, ?extremeNan⟩,
        fun numbers => ⟨?max, ?min, fun minus plus => ?opposite, fun s met alone => ?infinite, fun finite => ?finite⟩⟩
      case sumNan => rw [sum, foldF_nan addExact_nan_left addExact_nan_right met]; rfl
      case extremeNan =>
        simp only [List.mem_cons, List.not_mem_nil, or_false]
        rintro rop (rfl | rfl)
        · rw [greatest, foldF_nan maxF_nan_left maxF_nan_right met]; rfl
        · rw [least, foldF_nan minF_nan_left minF_nan_right met]; rfl
      case max =>
        obtain ⟨member, top⟩ := foldF_picks (by decide) maxF_picks some_ numbers
        exact ⟨_, member, greatest, top⟩
      case min =>
        obtain ⟨member, top⟩ := foldF_picks (by decide) minF_picks some_ numbers
        exact ⟨_, member, least, top⟩
      case opposite => rw [sum, foldF_addExact_opposite minus plus]; rfl
      case infinite => rw [sum, foldF_addExact_inf numbers met alone]; rfl
      case finite =>
        obtain ⟨neg, m, e, result, exact, zero⟩ := foldF_addExact_finite some_ numbers finite
        rw [sum, result]
        exact ⟨neg, m, e, rfl, result ▸ exact, zero⟩

end Sys2Proof.Proofs
end

section
/-!
PROOFS. Vector bit words, random numbers and masks (R36, R256 to R259).
-/

namespace Sys2Proof.Proofs
open Sys2Proof Sys2Proof.Machine

/-! ### Philox (R258) -/

/-- The key words of a round: each the job's, advanced by its constant once a round. -/
def roundKey (key : Word) (r : Nat) : Nat × Nat :=
  ((key.toNat % 2 ^ 32 + r * 0x9E3779B9) % 2 ^ 32, (key.toNat / 2 ^ 32 + r * 0xBB67AE85) % 2 ^ 32)

/-- One round on the four counter words. -/
def philoxRound (k : Nat × Nat) (c : Nat × Nat × Nat × Nat) : Nat × Nat × Nat × Nat :=
  (0xCD9E8D57 * c.2.2.1 / 2 ^ 32 ^^^ c.2.1 ^^^ k.1, 0xCD9E8D57 * c.2.2.1 % 2 ^ 32,
    0xD2511F53 * c.1 / 2 ^ 32 ^^^ c.2.2.2 ^^^ k.2, 0xD2511F53 * c.1 % 2 ^ 32)

/-- The counter words after a number of rounds. -/
def philoxWords (key : Word) (c : Nat × Nat × Nat × Nat) : Nat → Nat × Nat × Nat × Nat
  | 0 => c
  | r + 1 => philoxRound (roundKey key r) (philoxWords key c r)

theorem roundKey_zero (key : Word) : roundKey key 0 = (key.toNat % 2 ^ 32, key.toNat / 2 ^ 32) := by
  have := key.isLt
  unfold roundKey
  congr 1 <;> omega

theorem roundKey_succ (key : Word) (r : Nat) :
    roundKey key (r + 1) = (((roundKey key r).1 + 0x9E3779B9) % 2 ^ 32, ((roundKey key r).2 + 0xBB67AE85) % 2 ^ 32) := by
  simp only [roundKey, Nat.mod_add_mod, Nat.add_mul, Nat.one_mul, Nat.add_assoc]

theorem philox_succ (c : Nat × Nat × Nat × Nat) (k : Nat × Nat) (n : Nat) : philox c k.1 k.2 (n + 1) =
    philox (philoxRound k c) ((k.1 + 0x9E3779B9) % 2 ^ 32) ((k.2 + 0xBB67AE85) % 2 ^ 32) n := rfl

/-- The rounds left, run from the words and the keys of round `r`, end with the words of the last round. -/
theorem philox_words (key : Word) (c : Nat × Nat × Nat × Nat) (n r : Nat) :
    philox (philoxWords key c r) (roundKey key r).1 (roundKey key r).2 n = philoxWords key c (r + n) := by
  induction n generalizing r with
  | zero => rfl
  | succ n ih =>
    have keys := roundKey_succ key r
    rw [philox_succ, show r + (n + 1) = r + 1 + n by omega, ← ih (r + 1), keys]
    rfl

/-- The four counter words of a lane's draw before the first round. -/
def drawWords (a b c : Word) (lane : Nat) : Nat × Nat × Nat × Nat :=
  (a.toNat % 2 ^ 32, c.toNat % 2 ^ 16 * 2 ^ 16 + lane, b.toNat % 2 ^ 32, b.toNat / 2 ^ 32)

theorem philox_draw (key a b c : Word) (lane : Nat) :
    philox (drawWords a b c lane) (key.toNat % 2 ^ 32) (key.toNat / 2 ^ 32) 10 = philoxWords key (drawWords a b c lane) 10 := by
  have run := philox_words key (drawWords a b c lane) 10 0
  rwa [roundKey_zero] at run

theorem randWord_eq (key a b c : Word) (lane : Nat) : let r := philoxWords key (drawWords a b c lane) 10
    randWord key a b c 0 lane = r.1 ∧ randWord key a b c 1 lane = r.2.1 ∧ randWord key a b c 2 lane = r.2.2.1 ∧
      randWord key a b c 3 lane = r.2.2.2 := by
  intro r
  rw [show r = _ from (philox_draw key a b c lane).symm]
  exact ⟨rfl, rfl, rfl, rfl⟩

/-! ### Uniform floats (R258) -/

/-- A dyadic value counted in a smaller quantum is exact. -/
theorem scaledNum_shift (m j : Nat) (e : Int) : scaledNum (dyadicNum m e) (e - j) = m * 2 ^ j * scaledDen (dyadicDen e) (e - j) := by
  unfold scaledNum scaledDen dyadicNum dyadicDen
  by_cases up : 0 ≤ e
  · by_cases all : 0 ≤ e - j
    · rw [if_pos up, if_pos up, if_pos all, if_pos all, Nat.one_mul, Nat.mul_assoc, ← Nat.pow_add, show j + (e - j).toNat = e.toNat by omega]
    · rw [if_pos up, if_pos up, if_neg all, if_neg all, Nat.mul_one, Nat.mul_assoc, ← Nat.pow_add, show e.toNat + (-(e - j)).toNat = j by omega]
  · rw [if_neg up, if_neg up, if_neg (by omega), if_neg (by omega), Nat.mul_assoc, ← Nat.pow_add, show j + (-e).toNat = (-(e - j)).toNat by omega]

/-- A value rounds as it does written in the quantum of its binade. -/
theorem roundFloat_shift {t : ETy} {m j : Nat} {e : Int} (pos : m ≠ 0) (quantum : max (m.log2 + e - t.fracBits) t.minQuantum = e - j)
    (rm : RMode) (sat neg : Bool) :
    roundFloat t rm sat (FVal.fin neg m e).toX = roundFloat t rm sat (FVal.fin neg (m * 2 ^ j) (e - j)).toX := by
  have posJ : m * 2 ^ j ≠ 0 := by positivity
  have scaled := roundScaled_exact rm neg (dyadicDen_pos e) (scaledNum_shift m j e)
  have scaledJ := roundScaled_exact rm neg (dyadicDen_pos (e - j)) (scaledNum_dyadic (m * 2 ^ j) (e - j))
  have log : ratLog2 (dyadicNum (m * 2 ^ j) (e - j)) (dyadicDen (e - j)) = m.log2 + e := by
    rw [ratLog2_dyadic posJ, log2_mul_two_pow pos]
    omega
  rw [toX_fin, toX_fin]
  unfold roundFloat
  simp only [dyadicNum_eq_zero, pos, posJ, if_false, ratLog2_dyadic pos, log, quantum, scaled, scaledJ]

/-- A fraction over a power of two is dyadic. -/
theorem toX_fraction (neg : Bool) (n k : Nat) : (FVal.fin neg n (-k)).toX = .rat neg n (2 ^ k) := by
  rw [toX_fin]
  unfold dyadicNum dyadicDen
  cases k with
  | zero => simp
  | succ k =>
    rw [if_neg (by omega), if_neg (by omega), neg_neg, Int.toNat_natCast]

/-- The value of a normal pattern (R55); E4M3, whose largest exponent is not all infinities and NaNs, aside. -/
theorem decodeFloat_normal {t : ETy} (float : t.isFloat = true) (ieee : t ≠ .e4m3) {x f : Nat} (fraction : f < 2 ^ t.fracBits) (normal : x ≠ 0)
    (finite : x < 2 ^ t.expBits - 1) :
    decodeFloat t (x * 2 ^ t.fracBits + f) = .fin false (2 ^ t.fracBits + f) (x - t.bias - t.fracBits) := by
  have high : (x * 2 ^ t.fracBits + f) / 2 ^ t.fracBits % 2 ^ t.expBits = x := by
    rw [Nat.mul_comm, Nat.mul_add_div (Nat.two_pow_pos _), Nat.div_eq_of_lt fraction, Nat.add_zero, Nat.mod_eq_of_lt (by omega)]
  have low : (x * 2 ^ t.fracBits + f) % 2 ^ t.fracBits = f := by
    rw [Nat.mul_comm, Nat.mul_add_mod, Nat.mod_eq_of_lt fraction]
  have sign : (x * 2 ^ t.fracBits + f).testBit (t.fracBits + t.expBits) = false := by
    refine Nat.testBit_lt_two_pow ?_
    calc x * 2 ^ t.fracBits + f < (x + 1) * 2 ^ t.fracBits := by rw [Nat.succ_mul]; omega
      _ ≤ 2 ^ t.expBits * 2 ^ t.fracBits := Nat.mul_le_mul_right _ (by omega)
      _ = 2 ^ (t.fracBits + t.expBits) := by rw [← Nat.pow_add, Nat.add_comm]
  unfold decodeFloat
  simp only [high, low, sign, normal, if_false]
  cases t <;> cases float
  case e4m3.refl => exact absurd rfl ieee
  all_goals exact if_neg (by simpa using finite.ne)

/-- A fraction `n / 2^k` below 1 whose bits fit a type's significand is exact in it, `2^(-k)` being a normal value of the type (R258). -/
theorem roundFloat_fraction_value {t : ETy} (float : t.isFloat = true) (ieee : t ≠ .e4m3) {n k : Nat} (below : n < 2 ^ k)
    (fits : n < 2 ^ (t.fracBits + 1)) (normal : k < t.bias) (rm : RMode) (sat : Bool) :
    exactValue (decodeFloat t (roundFloat t rm sat (.rat false n (2 ^ k))).bits) = n / 2 ^ k := by
  rw [← toX_fraction]
  by_cases zero : n = 0
  · rw [zero, roundFloat_zero]
    obtain ⟨e, value⟩ : ∃ e, decodeFloat t 0 = .fin false 0 e := by cases t <;> cases float <;> exact ⟨_, rfl⟩
    rw [packFloat_subnormal (Nat.two_pow_pos _), if_neg Bool.false_ne_true, value, exactValue_eq_zero.2 rfl]
    simp
  have less : n.log2 < k := (Nat.log2_lt zero).2 below
  have few : n.log2 < t.fracBits + 1 := (Nat.log2_lt zero).2 fits
  have range : t.bias < (2 ^ t.expBits - 1 : Nat) := by cases t <;> cases float <;> decide
  obtain ⟨j, hj⟩ : ∃ j, t.fracBits = n.log2 + j := ⟨t.fracBits - n.log2, by omega⟩
  obtain ⟨x, hx⟩ : ∃ x : Nat, (x : Int) = t.bias + n.log2 - k := ⟨(t.bias + n.log2 - k).toNat, by omega⟩
  have exponent : (-k - j : Int) = x - t.bias - t.fracBits := by omega
  have log : (n * 2 ^ j).log2 = t.fracBits := by rw [log2_mul_two_pow zero, hj]
  obtain ⟨f, hf, fraction⟩ : ∃ f, n * 2 ^ j = 2 ^ t.fracBits + f ∧ f < 2 ^ t.fracBits := by
    obtain ⟨low, high⟩ := (Nat.log2_eq_iff (by positivity)).1 log
    exact ⟨n * 2 ^ j - 2 ^ t.fracBits, by omega, by rw [Nat.pow_succ] at high; omega⟩
  have finite : x < 2 ^ t.expBits - 1 := by omega
  have small := normal_small float fraction (show finiteFields t x f by rw [finiteFields, if_neg ieee]; exact finite)
  have value : ((2 ^ t.fracBits + f : Nat) : ℚ) * 2 ^ (x - t.bias - t.fracBits) = n / 2 ^ k := by
    rw [← exponent, ← hf, sub_eq_add_neg, zpow_add₀ two_ne_zero, zpow_neg, zpow_neg, zpow_natCast, zpow_natCast]
    push_cast
    field_simp
  have leading : max ((2 ^ t.fracBits + f).log2 + (x - t.bias - t.fracBits) - t.fracBits) t.minQuantum = x - t.bias - t.fracBits := by
    rw [log2_normal fraction]
    unfold ETy.minQuantum
    omega
  rw [roundFloat_shift zero (j := j) (by unfold ETy.minQuantum; omega), hf, exponent, roundFloat_kept (by omega) leading small,
    packFloat_normal fraction, if_neg Bool.false_ne_true, Nat.zero_add, decodeFloat_normal float ieee fraction (by omega) finite, ← value]
  simp [exactValue]

/-- The element formed from each output word. -/
theorem randElem_value {x : Nat} (word : x < 2 ^ 32) : randElem .n16 x = x % 2 ^ 16 ∧ randElem .n32 x = x ∧
    exactValue (decodeFloat .fp16 (randElem .fp16 x)) = (x / 2 ^ 21 : Nat) / 2 ^ 11 ∧
    exactValue (decodeFloat .bf16 (randElem .bf16 x)) = (x / 2 ^ 24 : Nat) / 2 ^ 8 ∧
    exactValue (decodeFloat .fp32 (randElem .fp32 x)) = (x / 2 ^ 8 : Nat) / 2 ^ 24 := by
  refine ⟨rfl, rfl, ?_, ?_, ?_⟩
  · exact roundFloat_fraction_value rfl (by decide) (by omega) (show x / 2 ^ 21 < 2 ^ 11 by omega) (by decide) ..
  · exact roundFloat_fraction_value rfl (by decide) (by omega) (show x / 2 ^ 24 < 2 ^ 8 by omega) (by decide) ..
  · exact roundFloat_fraction_value rfl (by decide) (by omega) (show x / 2 ^ 8 < 2 ^ 24 by omega) (by decide) ..

/-! ### The words of R256 to R258 -/

/-- A word on the bits of each element gives its function of the elements of A and B. -/
theorem bits_result {i : Instr} {w : Wt} {mul : Bool} {lat : Nat} {f : Nat → Nat → Nat → Nat}
    (meaning : ∀ s, exec i s = outcome s (s.bitWord w mul lat f)) : VectorResult i w (shBits w mul) (pairCost (shBits w mul)) lat (etOf w)
      (fun _ => True) fun _ x m n => exactly (f (etOf w).width (x.a.elem (etOf w) m n) (x.b.elem (etOf w) m n)) :=
  vectorResult_of (own := .ok ()) (fun _ _ => rfl) meaning

/-- Whether a draw's position or index is past its limit (R258). -/
def drawPast (x : VIn) : Bool := decide (x.a.word.toNat > 67108863) || decide (x.c.word.toNat > 65535)

theorem drawPast_eq_true {x : VIn} : drawPast x = true ↔ 2 ^ 26 ≤ x.a.word.toNat ∨ 2 ^ 16 ≤ x.c.word.toNat := by
  rw [drawPast, Bool.or_eq_true, decide_eq_true_eq, decide_eq_true_eq]
  omega

theorem vrand_faults {w : Wt} {s t : State} {x : VIn} (ready : s.vready (shRand w) x t)
    (past : 2 ^ 26 ≤ x.a.word.toNat ∨ 2 ^ 16 ≤ x.c.word.toNat) : Faults (.vrand w) s (flt .rngExhausted) := by
  have bad : trapIf (drawPast x) (flt .rngExhausted) = .error (.trap (flt .rngExhausted)) := by rw [drawPast_eq_true.2 past, trapIf_true]
  exact (congrArg (outcome s) (vwordIf_operand_faults ready (chk := fun x => trapIf (drawPast x) (flt .rngExhausted)) bad)).trans
    (takeFault_next (by decide) s)

/-! ### Masks (R36, R259) -/

/-- A ready mask word whose own check holds runs its effect with the unit held, and ends. -/
theorem maskWord_ready {s u : State} {w : Wi} {h : Shape} (legal : s.legal h) (shadow : s.shadow h = .ok ()) (unit : s.core.vbusy ≤ s.now)
    (hd : h.hd = w.toHd) {ok : Bool} (holds : ok = true) {go : BitVec 1024 → BitVec 1024 → BitVec 1024 → State → Res State}
    (done : go (s.pred w.toHd) (if h.a = .mask then s.readM w.a else 0) (if h.b = .mask then s.readM w.b else 0) (s.holdV (s.now + 1)) = .ok u) :
    s.maskWord w h ok go = .ok (u.retire 1) := by
  obtain ⟨st, aw⟩ := legal
  rw [hd] at aw
  unfold State.holdV at done
  unfold State.maskWord
  simp only [st, aw, shadow, unit, holds, done, res_ok_bind, Bool.not_true, trapIf_false, decide_true, waitUnless_true]

/-- A mask word whose result is a mask lands it two cycles later, under the predicate. -/
theorem mask_lands {s : State} {i : Instr} {z : Wi} {h : Shape} (legal : s.legal h) (shadow : s.shadow h = .ok ()) (unit : s.core.vbusy ≤ s.now)
    (hd : h.hd = z.toHd) {ok : Bool} (holds : ok = true) {f : BitVec 1024 → BitVec 1024 → BitVec 1024}
    (meaning : exec i s = outcome s (s.maskWord z h ok fun p a b s1 => .ok (s1.putMask z.d 2 p (f a b)))) :
    exec i s = .next (((s.holdV (s.now + 1)).pend 2 (.mask (s.maskIx z.d) (s.pred z.toHd)
      (f (if h.a = .mask then s.readM z.a else 0) (if h.b = .mask then s.readM z.b else 0))) []).retire 1) := by
  rw [meaning, maskWord_ready legal shadow unit hd holds rfl, outcome_ok, State.putMask, maskIx_holdV]

/-- What MSET compares with its count: the lane, its column or its row. -/
def msetPlace (pat l : Nat) : Nat := if pat = 0 then l else if pat = 1 then l % 64 else l / 64

theorem msetMask_bit (pat n : Nat) {l : Nat} (lane : l < 1024) : (msetMask pat n).getLsbD l = decide (msetPlace pat l < n) := by
  rw [msetMask, maskOf_bit _ lane]
  match pat with
  | 0 => rfl
  | 1 => rfl
  | _ + 2 => rfl

/-- The greatest count of a pattern. -/
def msetLimit (pat : Nat) : Nat := if pat = 0 then 1024 else if pat = 1 then 64 else 16

theorem exec_mset (s : State) (z : Wi) : exec (.mset z) s = outcome s (s.maskWord z (shMask z 13 .mask .none .none true)
    (decide (z.imm.toNat % 2 ^ 11 ≤ msetLimit (z.imm.toNat / 2 ^ 11 % 4))) fun p _ _ s1 =>
      .ok (s1.putMask z.d 2 p (msetMask (z.imm.toNat / 2 ^ 11 % 4) (z.imm.toNat % 2 ^ 11)))) := by
  have count : bitsOf z.imm.toNat 10 0 = z.imm.toNat % 2 ^ 11 := by rw [bitsOf, Nat.pow_zero, Nat.div_one]
  have pattern : bitsOf z.imm.toNat 12 11 = z.imm.toNat / 2 ^ 11 % 4 := rfl
  show execMset z s = _
  unfold execMset
  rw [count, pattern]
  match z.imm.toNat / 2 ^ 11 % 4 with
  | 0 => rfl
  | 1 => rfl
  | _ + 2 => rfl

/-- A mask word whose result is a scalar gives it. -/
theorem mask_gives {s u : State} {i : Instr} {z : Wi} (legal : s.legal (shMask z 0 .sDst .mask .none false))
    (shadow : s.shadow (shMask z 0 .sDst .mask .none false) = .ok ()) (unit : s.core.vbusy ≤ s.now) {f : BitVec 1024 → Word}
    (meaning : exec i s = outcome s (s.maskWord z (shMask z 0 .sDst .mask .none false) true fun _ a _ s1 => s1.writeS z.d (f a) 3))
    (gives : (s.holdV (s.now + 1)).gives z.d (f (s.readM z.a)) 3 u) : exec i s = .next (u.retire 1) := by
  rw [meaning, maskWord_ready legal shadow unit rfl rfl (go := fun _ a _ s1 => s1.writeS z.d (f a) 3) gives, outcome_ok]

/-- The first set bit's place is the one below which no bit is set, and which is set unless it is the width. -/
theorem ctzNat_unique {w x n : Nat} (le : n ≤ w) (clear : ∀ i < n, x.testBit i = false) (set : n < w → x.testBit n = true) : ctzNat w x = n := by
  obtain ⟨le', clear', set'⟩ := ctzNat_first w x
  rcases Nat.lt_trichotomy (ctzNat w x) n with less | same | more
  · exact absurd (set' (by omega)) (by simp [clear _ less])
  · exact same
  · exact absurd (set (by omega)) (by simp [clear' _ more])

/-- Settles O41: bit words by the bits of their functions, draws by the rounds of Philox and exact fractions, masks lane by lane. -/
theorem bitsRandomMasks : Obligations.BitsRandomMasks := by
  unfold Obligations.BitsRandomMasks
  intro w z t n bits
  have word {i : Instr} {mul : Bool} {lat : Nat} (f : Nat → Nat → Nat → Nat) (meaning : ∀ s, exec i s = outcome s (s.bitWord w mul lat f)) :
      bits i mul lat (f n) := bits_result meaning
  clear_value bits
  refine ⟨?mulL, ?mulH, ?popc, ⟨clzNat n, ?clz, fun a small => clzNat_bounds small⟩, fun s x t1 ready => ?key, ?rand,
    fun s x t1 ready past => vrand_faults ready past, fun w a b _ _ _ k => testBit_clmulNat w a b k, fun key a b c lane _ => ?philox,
    fun x small => randElem_value small, fun s unit => ?masks⟩
  case mulL => exact word (fun n a b => clmulNat n a b % 2 ^ n) fun _ => rfl
  case mulH => exact word (fun n a b => clmulNat n a b / 2 ^ n) fun _ => rfl
  case popc =>
    simp only [← popcount_eq]
    exact word (fun n a _ => popcount n a) fun _ => rfl
  case clz => exact word (fun n a _ => clzNat n a) fun _ => rfl
  case key => exact congrArg (outcome s) (vwordIf_ready ready (own := .ok ()) rfl rfl)
  case rand =>
    refine vectorResult_checked (own := .ok ()) (chk := fun x => trapIf (drawPast x) (flt .rngExhausted)) (fun _ _ => rfl) (fun x inside => ?_) fun _ => rfl
    rw [trapIf_ok, Bool.eq_false_iff, Ne, drawPast_eq_true]
    omega
  case philox =>
    exact ⟨philoxWords key (drawWords a b c lane), rfl, fun _ _ => rfl, randWord_eq key a b c lane⟩
  case masks =>
    intro p a b lands ready
    refine ⟨fun ⟨legal, shadow⟩ => ⟨?and, ?or, ?xor⟩, fun ⟨legal, shadow⟩ => ?not, fun ⟨legal, shadow⟩ => ?set,
      fun u v ⟨legal, shadow⟩ => ⟨fun gives count => ?cnt, fun gives le clear set => ?first⟩⟩
    case and => exact mask_lands legal shadow unit rfl rfl (f := fun a b => a &&& b) rfl
    case or => exact mask_lands legal shadow unit rfl rfl (f := fun a b => a ||| b) rfl
    case xor => exact mask_lands legal shadow unit rfl rfl (f := fun a b => a ^^^ b) rfl
    case not => exact mask_lands legal shadow unit rfl rfl (f := fun a _ => ~~~a) rfl
    case set =>
      intro k pat inside
      exact ⟨msetMask pat k, mask_lands legal shadow unit rfl (decide_eq_true inside) (f := fun _ _ => msetMask pat k) (exec_mset s z),
        fun l lane => msetMask_bit pat k lane⟩
    case cnt =>
      have value : v = BitVec.ofNat 64 (popcount 1024 a.toNat) := by rw [popcount_eq]; exact count
      exact mask_gives legal shadow unit (f := fun a => BitVec.ofNat 64 (popcount 1024 a.toNat)) rfl (value ▸ gives)
    case first =>
      have value : v = BitVec.ofNat 64 (ctzNat 1024 a.toNat) := by
        rw [ctzNat_unique le clear set, BitVec.ofNat_toNat, BitVec.setWidth_eq]
      exact mask_gives legal shadow unit (f := fun a => BitVec.ofNat 64 (ctzNat 1024 a.toNat)) rfl (value ▸ gives)

end Sys2Proof.Proofs
end

section
/-!
PROOFS. A read of the Pan filter whose walk for EA opens a row that alerts in the bank of its record (R301, R323, R324).
-/

namespace Sys2Proof.Proofs
open Sys2Proof Sys2Proof.Machine

/-- Page tables from 0x100000 on that map the 2 MiB page at 0 to frame 0x200000 of HBM: the root's entry and the record at address 0 lie in rows
1 and 2 of bank 0. -/
def sameBankTables : List Host.Cell :=
  memWrite (memWrite (memWrite [] 0x100000 (leBytes 8 (0x101000 + 1))) 0x101000 (leBytes 8 (0x102000 + 1))) 0x102000
    (leBytes 8 (2 ^ 59 + 0x200000 + 3))

/-- A Pan slot of one row of 64 elements, all counted. -/
def fullSlot : PanSlot :=
  { (default : PanSlot) with
    used := true, rows := 1, len := 64, et := 9, ks := 1, state := [(0, { (default : PanRow) with cnt := 64 })] }

/-- A core of die 4 that has sent its word to the filter; scalar 1 of A names slot 0. -/
def filterCore : Core :=
  { (default : Core) with
    running := true, did := 4
    sa := { (default : StrmSt) with
      sregs := [(1, 0x400)], secLen := 1, entered := true, sent := some 0, view := { (default : JobView) with ptb := 0x100000 } } }

/-- Stream A of that core; on die 0, which holds the tables and the record, the first activation of a row alerts. -/
def alertingWalk : State :=
  (({ State.reset with core := filterCore, cur := .a, mem := sameBankTables }).updDie 0 fun d => { d with mth := 1 }).updDie 4 fun d =>
    { d with pans := [(0, fullSlot)] }

/-- PANRD of row 0 to address 0, by the slot that scalar 1 names. -/
def panrdFull : Wm :=
  { pm := 0, awe := false, awk := 0, d := 0, a := 696, b := 697, c := 696, cls := 0, tke := true, tk := 0, opn := false, sz := 0, disp := 0 }

/-- A scalar that is ready is a source (R37). -/
theorem srcIf_scalar {s : State} {f : OpField} {v : Word} (scalar : isS f = true) (ready : s.strm.ready? (scalIx f) s.now = true)
    (value : s.strm.sreg (scalIx f) = v) : s.srcIf .sSrc f = .ok (v, s) := by
  rw [show s.srcIf .sSrc f = s.readS f from rfl, readS_scalar scalar, if_pos ready, value]

/-- The filter accepts the word now. -/
theorem alertingWalk_takes : alertingWalk.takesBy .pan { shM panrdFull .req true 3 24 .none .sSrc .sSrc .sSrc with die := some false } 0 0x400 0
    (alertingWalk.updDie 4 fun d => d.accepts .pan 1) := by
  have zero : alertingWalk.srcIf .sSrc 696 = .ok (0, alertingWalk) := srcIf_scalar (by decide) (by decide) (by decide)
  have slot : alertingWalk.srcIf .sSrc 697 = .ok (0x400, alertingWalk) := srcIf_scalar (by decide) (by decide) (by decide)
  refine ⟨alertingWalk, 0, ⟨⟨by decide, by decide⟩, ?_⟩, rfl, by decide, rfl⟩
  unfold State.sources
  simp only [shM, panrdFull, zero, slot]

/-- The record has not been written when the word ends: it waits at its bank. -/
theorem alertingWalk_waits : ∃ x, exec (.panrd panrdFull) alertingWalk = .next x ∧
    x.bytesAt 0x200000 72 ≠ fullSlot.record (Sparse.get fullSlot.state 0) := ⟨_, rfl, by decide⟩

/-- Refutes O54: nothing holds the record's bank back when PANRD is looked at, but the walk for EA opens a row of that bank, whose alert does, and
the full row's record waits. The clause on PANRD reads no X-I word; `wrsrFmtb` stands for it. -/
theorem not_panAndSystem : ¬ Obligations.PanAndSystem := by
  unfold Obligations.PanAndSystem
  intro h
  have joined := joinW_room (s := alertingWalk.updDie 4 fun d => d.accepts .pan 1) (w := panrdFull) fun _ => rfl
  obtain ⟨-, -, -, panrd, -⟩ := h alertingWalk _ _ panrdFull wrsrFmtb 0 0x400 0 (by decide)
  obtain ⟨-, served⟩ := panrd 0 fullSlot [(0, 0x200000)] _ alertingWalk_takes (by decide) (by decide) rfl (by unfold State.classDone; decide)
  obtain ⟨-, full⟩ := served (by decide) (by unfold addrOk; decide) (by decide) (by decide) joined
  obtain ⟨x, hx, record, -⟩ := full (by decide) (by decide) (by unfold State.alive; decide) (by unfold State.flows; decide)
  obtain ⟨y, hy, unwritten⟩ := alertingWalk_waits
  obtain rfl : y = x.retire 1 := Host.Outcome.next.inj (hy.symm.trans hx)
  have at_ : keyIn [(0, 0x200000)] (effAddr panrdFull 0) = 0x200000 := by decide
  have length : (fullSlot.record (Sparse.get fullSlot.state 0)).length = 72 := by decide
  unfold State.holds at record
  rw [at_, show (0 : Word).toNat = 0 from rfl, length] at record
  exact unwritten record

end Sys2Proof.Proofs
end

section
/-!
PROOFS. The Orrery accepts its words: acceptance by an engine, operands, each word's checks (R283, R286 to R295).
-/

namespace Sys2Proof.Proofs
open Sys2Proof Sys2Proof.Machine

/-! ### Acceptance by an engine (R283, R286) -/

section
variable {s t : State} {e : Engine} {h : Shape} {a b x : Word}

/-- A word that its engine takes now is legal and goes on from its sources, in the state in which it is accepted. -/
theorem takesBy_accepts (ht : s.takesBy e h a b x t) :
    s.legal h ∧ ∃ u, s.sources h = .ok ((a, b, x), u) ∧ ∀ go, s.accept e u go = go t := by
  obtain ⟨u, n, ⟨legal, sources⟩, sent, may, rfl⟩ := ht
  refine ⟨legal, u, sources, fun go => ?_⟩
  unfold State.accept
  rw [sent]
  exact if_pos may

/-- Acceptance changes queues and the cycle of the engine's next command alone. -/
theorem takesBy_frame (ht : s.takesBy e h a b x t) :
    ∃ q, t = State.updDie { s with core := { s.core with queues := q } } s.core.did fun d => d.accepts e (s.now + 1) := by
  obtain ⟨u, n, ⟨-, sources⟩, -, -, rfl⟩ := ht
  obtain ⟨q, rfl⟩ := sources_frame sources
  exact ⟨q, rfl⟩

end

section
variable {s t : State} {w : Wm} {h : Shape} {a b x : Word} (ht : s.takesBy .orrery h a b x t) (hd : h.hd = w.toHd)
include ht hd

/-- A word of the Orrery whose class has drained goes on to its own checks (R103, R286). -/
theorem kword_accepted (done : s.classDone w) (go : Word × Word × Word → State → Res State) : s.kword w h go = go (a, b, x) t := by
  obtain ⟨⟨static, await⟩, u, sources, accepts⟩ := takesBy_accepts ht
  unfold State.kword
  simp only [static, sources, show s.await w.toHd = .ok () from hd ▸ await, classDrained_of done, waitUnless_true, accepts, res_ok_bind]

/-- A word of the Orrery whose descriptor has been read does so with its 64 bytes (R210, R286). -/
theorem kdesc_accepted {bs : List Byte} (desc : s.descAt w a bs) (go : Word × Word × Word → List Byte → State → Res State) :
    s.kdesc w h go = go (a, b, x) bs t := by
  obtain ⟨⟨static, await⟩, u, sources, accepts⟩ := takesBy_accepts ht
  obtain ⟨-, read⟩ := descriptor_read desc (hd ▸ await)
  unfold State.kdesc State.acceptDesc
  simp only [static, sources, read, accepts, res_ok_bind]

end

/-- Where a word's checks leave a command to submit, the Orrery takes it (R142, R283). -/
theorem accepts_of_submitK {i : Instr} {s t : State} {w : Wm} {c : Ctx} {cmd : DestRef → KCmd} {result : Bool} {cs : List Ctx} {counted : Bool}
    (run : exec i s = outcome s (t.submitK w c cmd result cs counted)) : Accepts i s t w c cmd result cs counted := by
  refine ⟨fun tok u v d y joined reserved => ?_, fun hot room takes => ?_⟩
  · rw [run]
    unfold State.submitK
    cases result with
    | true =>
      rw [if_pos rfl] at reserved
      refine ⟨fun fits swapped => ?_, fun full same => ?_⟩
      · simp [fits, swapped, joined, reserved]
      · subst same
        simp [full, joined, reserved]
    | false =>
      obtain ⟨rfl, rfl⟩ := reserved
      refine ⟨fun fits swapped => ?_, fun full same => ?_⟩
      · simp [fits, swapped, joined]
      · subst same
        simp [full, joined]
  · obtain ⟨tok, d, v, lands⟩ := submitK_lands (c := c) (cmd := cmd) (counted := counted) hot room takes
    exact ⟨tok, d, v, by rw [run, lands, outcome_ok]⟩

/-! ### Operands and limits -/

/-- A scalar operand within its bits (R282). -/
theorem scalarBits_ok {v : Word} {n : Nat} (fits : v.toNat < 2 ^ n) : scalarBits v (2 ^ n - 1) = .ok () := by
  unfold scalarBits
  rw [Nat.and_two_pow_sub_one_eq_mod, Nat.mod_eq_of_lt fits]
  exact trapIf_ok.2 (by simp)

theorem scalarBits_32 {v : Word} (fits : v.toNat < 2 ^ 32) : scalarBits v 0xFFFFFFFF = .ok () := scalarBits_ok fits

/-- The scalars of an entry's word within their bits (R292). -/
theorem entryBits_ok {b x : Word} {life : Bool} (named : b.toNat < 2 ^ 38) (fits : x.toNat < if life then 2 ^ 56 else 2 ^ 32) :
    entryBits b x life = .ok () := by
  have handle : scalarBits b 0x3FFFFFFFFF = .ok () := scalarBits_ok (n := 38) named
  unfold entryBits
  rw [handle, res_ok_bind]
  cases life with
  | true => exact scalarBits_ok (n := 56) fits
  | false => exact scalarBits_32 fits

theorem trapIf_decide {p : Prop} [Decidable p] {f : FaultInfo} (no : ¬ p) : trapIf (decide p) f = .ok () := trapIf_ok.2 (decide_eq_false no)

theorem trapIf_bne {α : Type} [BEq α] [LawfulBEq α] {m n : α} {f : FaultInfo} (same : m = n) : trapIf (m != n) f = .ok () :=
  trapIf_ok.2 (by simp [same])

/-- Checks that pass one after another. -/
theorem forM_ok {α : Type} {f : α → Res Unit} {l : List α} (each : ∀ y ∈ l, f y = .ok ()) : l.forM f = .ok () := by
  induction l with
  | nil => rfl
  | cons y l ih =>
    show (f y >>= fun _ => l.forM f) = _
    rw [each y List.mem_cons_self, res_ok_bind]
    exact ih fun z hz => each z (List.mem_cons_of_mem _ hz)

/-- The map serves a KVW: a borrowed granule of its unit may be read, and its own backing written; a cell in no such granule may be written through
its own entry (R83, R138, R141). -/
theorem kvwMapped_ok {t : State} {c : Ctx} {unit : List Nat} {off : Nat}
    (lent : ∀ i ∈ unit, (Sparse.get c.map i).brw = true → entOk (Sparse.get c.map i) (c.slab + 65536 * i) false = .ok () ∧
      ∀ e ∈ t.ownEnts c i, entOk e.2 e.1 true = .ok ())
    (own : ¬ (off / 65536 ∈ unit ∧ (Sparse.get c.map (off / 65536)).brw = true) → entOk (c.slabEnt off) (c.slab + off) true = .ok ()) :
    t.kvwMapped c unit off = .ok () := by
  have borrowed {i : Nat} : i ∈ unit.filter (fun i => (Sparse.get c.map i).brw) ↔ i ∈ unit ∧ (Sparse.get c.map i).brw = true := List.mem_filter
  have reads : (unit.filter fun i => (Sparse.get c.map i).brw).forM
      (fun i => entOk (Sparse.get c.map i) (c.slab + 65536 * i) false) = .ok () := forM_ok fun i hi =>
    have ⟨there, brw⟩ := borrowed.1 hi
    (lent i there brw).1
  have writes : ((unit.filter fun i => (Sparse.get c.map i).brw).flatMap (t.ownEnts c)).forM (fun e => entOk e.2 e.1 true) = .ok () :=
    forM_ok fun e he =>
      have ⟨i, hi, mem⟩ := List.mem_flatMap.1 he
      have ⟨there, brw⟩ := borrowed.1 hi
      (lent i there brw).2 e mem
  unfold State.kvwMapped
  simp only [reads, writes, res_ok_bind]
  split
  · rfl
  · exact own fun ⟨there, brw⟩ => ‹¬ _› (List.contains_iff_mem.2 (borrowed.2 ⟨there, brw⟩))

/-- A range of the issuing job within the map, on its grid (R82, R86). -/
theorem rangeCheck_addrOk {ea n al : Nat} (valid : addrOk ea n al) : rangeCheck ea n = .ok () := rangeCheck_ok valid.1 valid.2.1

theorem grid_addrOk {ea n al : Nat} (valid : addrOk ea n al) (f : FaultInfo) : trapIf (ea % al != 0) f = .ok () := trapIf_bne valid.2.2

/-- A word that traps on a check of its own takes the fault. -/
theorem faults_of_trap {i : Instr} {s : State} {f : FaultInfo} (run : exec i s = outcome s (.error (.trap f))) (precise : f.code ≠ .noBacking) :
    Faults i s f := run.trans (takeFault_next precise s)

/-! ### What a command needs of its contexts -/

/-- A range of `n` positions from `lo` on that KVSHARE may give a target from a source, the granules it uses mapped (R139, R290; log entry 17). -/
structure MayShare (d : Die) (src c : Ctx) (lo n : Nat) : Prop where
  cells : src.lc = c.lc
  groups : src.gp = c.gp
  aligned : lo % c.unit = 0
  whole : n % c.unit = 0
  next : (lo : Int) ≤ d.accepted c + 1
  there : (lo + n : Int) - 1 ≤ d.accepted src
  fits : lo + n ≤ c.limit
  fromArea : ∀ i ∈ src.headGrs ++ src.nodeGrs (lo * src.gp) (n * src.gp), (Sparse.get src.amap i).v = true
  toArea : ∀ i ∈ c.headGrs ++ c.nodeGrs (lo * c.gp) (n * c.gp), (Sparse.get c.amap i).v = true

/-- An entry whose cell KVW may write: its position is no gap, its unit is lent to nobody, and the map serves it (R138, R141, R292). -/
structure MayWrite (d : Die) (t : State) (c : Ctx) (p g : Nat) : Prop where
  next : (p : Int) ≤ d.accepted c + 1
  below : p < c.limit
  unlent : ∀ o ∈ d.kops, o.mayLend c (p / c.unit) = false
  own : ∀ i ∈ c.unitGranules (p / c.unit), (Sparse.get c.map i).lend = 0
  lent : ∀ i ∈ c.unitGranules (p / c.unit), (Sparse.get c.map i).brw = true →
    entOk (Sparse.get c.map i) (c.slab + 65536 * i) false = .ok () ∧ ∀ e ∈ t.ownEnts c i, entOk e.2 e.1 true = .ok ()
  cell : ¬ (c.cellOff p g / 65536 ∈ c.unitGranules (p / c.unit) ∧ (Sparse.get c.map (c.cellOff p g / 65536)).brw = true) →
    entOk (c.slabEnt (c.cellOff p g)) (c.slab + c.cellOff p g) true = .ok ()
  area : ∀ i ∈ c.headGrs ++ c.nodeGrs (c.nodeIx p g) 1, (Sparse.get c.amap i).v = true

/-- `n` bytes that can be read at acceptance: translated, held back by nothing, without poison (R292). -/
structure ReadsNow (t : State) (pages : List (Nat × Nat)) (ea n : Nat) : Prop where
  translates : t.xlateRange .rd ea n = .ok pages
  flow : ∀ k ∈ kibKeys pages ea n, t.flows k
  clean : t.firstPoison pages ea n = none

/-- A descriptor by which a context may be forked after position `p`, the granules that the fork uses mapped (R137, R289). -/
structure MayFork (d : Die) (t : State) (c : Ctx) (bs : List Byte) (p : Nat) : Prop where
  low : fieldNat bs 16 3 = 0
  high : fieldNat bs 21 43 = 0
  limits : t.ctxLimits c.lw c.g c.lc (fieldNat bs 19 1) (fieldNat bs 20 1) (fieldNat bs 0 8) (fieldNat bs 8 8) = .ok ()
  written : (p : Int) ≤ d.accepted c
  fits : p + 1 < 64 * 2 ^ fieldNat bs 19 1
  area : ∀ i ∈ c.headGrs ++ c.nodeGrs 0 ((p + 1) * c.gp), (Sparse.get c.amap i).v = true
  mapped : t.forkGap c { c with k := fieldNat bs 19 1, slab := fieldNat bs 0 8 } p = none

/-! ### Words on contexts (R288 to R291) -/

section
variable {s t : State} {w : Wm} {c : Ctx} {a b x : Word}

section
variable (done : s.classDone w)
include done

theorem kvfree_accepts (ht : s.takesBy .orrery (shK w .req 0 .sDst .none .sSrc .none) a b x t) (b32 : b.toNat < 2 ^ 32)
    (named : t.acceptCtx b.toNat = .ok c) (heads : ∀ i ∈ c.headGrs, (Sparse.get c.amap i).v = true) :
    Accepts (.kvfree w) s t w c (fun r => .free r) true [c] true := by
  refine accepts_of_submitK (congrArg (outcome s) ((kword_accepted ht rfl done _).trans ?_))
  simp only [scalarBits_32 b32, named, areaOk_mapped heads, res_ok_bind]

theorem kvshare_accepts {src : Ctx} (ht : s.takesBy .orrery (shK w .req 0 .sDst .sSrc .sSrc .sSrc) a b x t) (a32 : a.toNat < 2 ^ 32)
    (b32 : b.toNat < 2 ^ 32) (source : t.acceptCtx a.toNat = .ok src) (named : t.acceptCtx b.toNat = .ok c) {lo n : Nat}
    (first : x.toNat % 2 ^ 32 = lo) (count : x.toNat / 2 ^ 32 = n) (may : MayShare (s.die s.core.did) src c lo n) :
    Accepts (.kvshare w) s t w c (fun r => .share src.num lo n r) true (if src.num = c.num then [c] else [src, c]) true := by
  obtain ⟨cells, groups, aligned, whole, next, there, fits, fromArea, toArea⟩ := may
  refine accepts_of_submitK (congrArg (outcome s) ((kword_accepted ht rfl done _).trans ?_))
  simp only [scalarBits_32 a32, scalarBits_32 b32, source, named, first, count, areaOk_mapped fromArea, areaOk_mapped toArea, res_ok_bind]
  rw [trapIf_ok.2 ?limits, res_ok_bind]
  case limits => simp [cells, groups, aligned, whole, next, there, fits]

theorem kvstat_accepts {key : Nat} (ht : s.takesBy .orrery (shK w .req 24 .sDst .sSrc .sSrc .sSrc) a b x t) (valid : addrOk (effAddr w a) 64 64)
    (translates : t.xlate (effAddr w a) .wr = .ok key) (b32 : b.toNat < 2 ^ 32) (page : x.toNat < 2 ^ 20) (named : t.acceptCtx b.toNat = .ok c) :
    Accepts (.kvstat w) s (t.fillTlbs [effAddr w a]) w c (fun r => .stat key x.toNat r) true [] false := by
  have bits : scalarBits x 0xFFFFF = .ok () := scalarBits_ok (n := 20) page
  refine accepts_of_submitK (congrArg (outcome s) ((kword_accepted ht rfl done _).trans ?_))
  simp only [addrCheck_ok valid, translates, scalarBits_32 b32, bits, named, res_ok_bind]

/-! ### Entries (R292, R293) -/

section
variable (named : t.acceptCtx (b.toNat % 2 ^ 32) = .ok c) (b38 : b.toNat < 2 ^ 38)
include named b38

/-- A position past the limit or past the next one to write is a gap (R292). -/
theorem kvw_gap (ht : s.takesBy .orrery (shK w .opt 24 .none .sSrc .sSrc .sSrc) a b x t) (x56 : x.toNat < 2 ^ 56)
    (past : (s.die s.core.did).accepted c + 1 < (x.toNat % 2 ^ 32 : Nat) ∨ c.limit ≤ x.toNat % 2 ^ 32) : Faults (.kvw w) s (flt .gap) := by
  refine faults_of_trap (congrArg (outcome s) ((kword_accepted ht rfl done _).trans ?_)) (by decide)
  simp only [entryBits_ok (life := true) b38 x56, named, res_ok_bind]
  rw [show trapIf _ (flt .gap) = .error (.trap (flt .gap)) from if_pos ?gap, res_error_bind]
  case gap => simpa using past

variable (group : b.toNat / 2 ^ 32 < c.g)
include group

theorem kvw_accepts {pages : List (Nat × Nat)} (ht : s.takesBy .orrery (shK w .opt 24 .none .sSrc .sSrc .sSrc) a b x t)
    (x56 : x.toNat < 2 ^ 56) {p g : Nat} (position : x.toNat % 2 ^ 32 = p) (grp : b.toNat / 2 ^ 32 = g)
    (may : MayWrite (s.die s.core.did) t c p g) (reads : ReadsNow t pages (effAddr w a) c.cellBytes) :
    Accepts (.kvw w) s ((t.fillTlbs (pages.map (·.1))).touchRows (kibKeys pages (effAddr w a) c.cellBytes)) w c
      (fun _ => .kvw p g (x.toNat / 2 ^ 32) (t.bytesIn pages (effAddr w a) c.cellBytes)) false [c] true := by
  subst position grp
  obtain ⟨next, below, unlent, own, lent, cell, area⟩ := may
  obtain ⟨translates, flow, clean⟩ := reads
  refine accepts_of_submitK (congrArg (outcome s) ((kword_accepted ht rfl done _).trans ?_))
  simp only [entryBits_ok (life := true) b38 x56, named, res_ok_bind]
  rw [trapIf_ok.2 ?gap, res_ok_bind, trapIf_decide (Nat.not_le.2 group), res_ok_bind, waitUnless_ok.2 ?held, res_ok_bind, trapIf_ok.2 ?lends,
    res_ok_bind, areaOk_mapped area, res_ok_bind, kvwMapped_ok lent cell, res_ok_bind]
  case gap => exact Bool.or_eq_false_iff.2 ⟨decide_eq_false (Int.not_lt.2 next), decide_eq_false (Nat.not_le.2 below)⟩
  case held => simpa using unlent
  case lends => simpa using own
  simp only [translates, readGate_go (gate_go flow), clean, res_ok_bind]

theorem kvrnw_accepts (ht : s.takesBy .orrery (shK w .none 0 .sDst .none .sSrc .sSrc) a b x t) (x56 : x.toNat < 2 ^ 56)
    (area : ∀ i ∈ c.entryGrs (x.toNat % 2 ^ 32) (b.toNat / 2 ^ 32), (Sparse.get c.amap i).v = true) :
    Accepts (.kvrnw w) s t w c (fun r => .renew (x.toNat % 2 ^ 32) (b.toNat / 2 ^ 32) (x.toNat / 2 ^ 32) r) true [c] true := by
  refine accepts_of_submitK (congrArg (outcome s) ((kword_accepted ht rfl done _).trans ?_))
  simp only [entryBits_ok (life := true) b38 x56, named, trapIf_decide (Nat.not_le.2 group), areaOk_mapped area, res_ok_bind]

theorem kvexp_accepts (ht : s.takesBy .orrery (shK w .none 0 .sDst .none .sSrc .sSrc) a b x t) (x32 : x.toNat < 2 ^ 32)
    (area : ∀ i ∈ c.entryGrs x.toNat (b.toNat / 2 ^ 32), (Sparse.get c.amap i).v = true) :
    Accepts (.kvexp w) s t w c (fun r => .expire x.toNat (b.toNat / 2 ^ 32) r) true [c] true := by
  refine accepts_of_submitK (congrArg (outcome s) ((kword_accepted ht rfl done _).trans ?_))
  simp only [entryBits_ok (life := false) b38 x32, named, trapIf_decide (Nat.not_le.2 group), areaOk_mapped area, res_ok_bind]

end

/-! ### Positions and the sequence map (R294, R295) -/

section
variable (b32 : b.toNat < 2 ^ 32) (named : t.acceptCtx b.toNat = .ok c)
include b32 named

/-- KVADV, KVCMT and KVRWD within the limit. -/
theorem position_accepts {i : Instr} {cmd : Nat → KCmd} (meaning : exec i s = outcome s (s.position w cmd))
    (ht : s.takesBy .orrery (shK w .opt 0 .none .none .sSrc .sSrc) a b x t) (x32 : x.toNat < 2 ^ 32) (below : x.toNat < c.limit)
    (heads : ∀ i ∈ c.headGrs, (Sparse.get c.amap i).v = true) : Accepts i s t w c (fun _ => cmd x.toNat) false [c] true := by
  refine accepts_of_submitK (meaning.trans (congrArg (outcome s) ((kword_accepted ht rfl done _).trans ?_)))
  simp only [scalarBits_32 b32, scalarBits_32 x32, named, trapIf_decide (Nat.not_le.2 below), areaOk_mapped heads, res_ok_bind]

theorem position_gap {i : Instr} {cmd : Nat → KCmd} (meaning : exec i s = outcome s (s.position w cmd))
    (ht : s.takesBy .orrery (shK w .opt 0 .none .none .sSrc .sSrc) a b x t) (x32 : x.toNat < 2 ^ 32) (past : c.limit ≤ x.toNat) :
    Faults i s (flt .gap) := by
  refine faults_of_trap (meaning.trans (congrArg (outcome s) ((kword_accepted ht rfl done _).trans ?_))) (by decide)
  simp only [scalarBits_32 b32, scalarBits_32 x32, named, decide_eq_true past, trapIf_true, res_ok_bind, res_error_bind]

/-- A map command without an address. -/
theorem mapWord_accepts {i : Instr} {cmd : DestRef → KCmd} {swaps : Bool} (meaning : exec i s = outcome s (s.mapWord w cmd swaps))
    (ht : s.takesBy .orrery (shK w .req 0 .sDst .none .sSrc .none) a b x t) : Accepts i s t w c cmd true (if swaps then [c] else []) false := by
  refine accepts_of_submitK (meaning.trans (congrArg (outcome s) ((kword_accepted ht rfl done _).trans ?_)))
  simp only [scalarBits_32 b32, named, res_ok_bind]

section
variable (ht : s.takesBy .orrery (shK w .req 24 .sDst .sSrc .sSrc .none) a b x t) (heads : ∀ i ∈ c.headGrs, (Sparse.get c.amap i).v = true)
include ht heads

theorem smout_accepts {pages : List (Nat × Nat)} (valid : addrOk (effAddr w a) c.imageLen 4096) (outside : inWindow (effAddr w a) = false)
    (translates : t.xlateRange .sync (effAddr w a) c.imageLen = .ok pages) :
    Accepts (.smout w) s (t.fillTlbs (pages.map (·.1))) w c (fun r => .smout pages (effAddr w a) r) true [] false := by
  refine accepts_of_submitK (congrArg (outcome s) ((kword_accepted ht rfl done _).trans ?_))
  simp only [scalarBits_32 b32, named, rangeCheck_addrOk valid, grid_addrOk valid, outside, trapIf_false, translates, areaOk_mapped heads, res_ok_bind]

theorem slabgr_accepts (valid : addrOk (effAddr w a) 1 65536) (still : (s.die s.core.did).growing c.num = false) (room : c.k + 1 ≤ c.kmax)
    (mapped : t.growGap c (effAddr w a) = none) : Accepts (.slabgr w) s t w c (fun r => .grow (effAddr w a) r) true [c] false := by
  refine accepts_of_submitK (congrArg (outcome s) ((kword_accepted ht rfl done _).trans ?_))
  simp only [rangeCheck_addrOk valid, grid_addrOk valid, scalarBits_32 b32, named, still, Bool.not_false, waitUnless_true,
    trapIf_decide (Nat.not_lt.2 room), areaOk_mapped heads, mapped, res_ok_bind]

end
end
end

/-! ### Forks and new contexts (R287, R289) -/

theorem kvfork_accepts {bs : List Byte} (ht : s.takesBy .orrery (shK w .req 24 .sDst .sSrc .sSrc .sSrc) a b x t) (desc : s.descAt w a bs)
    (b32 : b.toNat < 2 ^ 32) (x32 : x.toNat < 2 ^ 32) (named : t.acceptCtx b.toNat = .ok c) (may : MayFork (s.die s.core.did) t c bs x.toNat) :
    Accepts (.kvfork w) s t w c (fun r => .fork (fieldNat bs 0 8) (fieldNat bs 8 8) (fieldNat bs 19 1) (fieldNat bs 20 1) s.ptb x.toNat r)
      true [c] true := by
  obtain ⟨low, high, limits, written, fits, area, mapped⟩ := may
  refine accepts_of_submitK (congrArg (outcome s) ((kdesc_accepted ht rfl desc _).trans ?_))
  simp only [scalarBits_32 b32, scalarBits_32 x32, named, low, high, bne_self_eq_false, Bool.or_self, trapIf_false, limits,
    trapIf_decide (Int.not_lt.2 written), trapIf_decide (Nat.not_le.2 fits), areaOk_mapped area, mapped, res_ok_bind]

end

/-! ### New contexts (R120, R287) -/

/-- A result delivered to the job under view is read there (R283). -/
theorem deliver_gave {u v y : State} {f : OpField} {d : SDest} {r : DestRef} (reserved : u.reserveS f = .ok (d, v)) (dst : r.dst = d)
    (here : y.core.holds r.lrec r.job = true) (value : Word) : u.gave (y.deliver r value) f value := by
  intro scalar named
  have other : scalIx f ≠ 0 := by
    simp only [isS, Bool.and_eq_true, decide_eq_true_eq] at scalar
    unfold scalIx
    omega
  obtain ⟨-, s0, -, -⟩ | ⟨-, -, -, rfl, -⟩ | ⟨queue, -⟩ := reserveS_cases reserved
  · exact absurd s0 other
  · unfold State.deliver State.updJob
    rw [if_pos here, dst]
    exact deliver_scal _ _ _ _ other
  · simp [scalar] at queue

/-- The end of an operation leaves the scalars alone. -/
theorem gave_endOp {s t : State} {f : OpField} {v : Word} (h : s.gave t f v) (r : Option TokRef) (e : Option FaultInfo) :
    s.gave (t.endOp r e) f v := by
  intro scalar named
  obtain ⟨_, _, _, _, _, frame⟩ := endOp_frame t r e
  rw [frame, ← h scalar named]
  cases s.cur <;> rfl

/-- The command that clears a new context's area stands in the list and is applied by its own step: memory, the core and the contexts stay (R123). -/
theorem addK_new (v : State) (w : Wm) (tok : Option TokRef) (n d : Nat) :
    (v.addK w tok n .new).mem = v.mem ∧ (v.addK w tok n .new).core = v.core ∧ ((v.addK w tok n .new).die d).ctxs = (v.die d).ctxs := by
  obtain ⟨o, added⟩ : ∃ o, v.addK w tok n .new = v.fresh.2.updDie v.core.did fun d => { d with kops := d.kops ++ [o] } := ⟨_, rfl⟩
  rw [added]
  exact ⟨rfl, rfl, die_of_dies_map (g := Die.ctxs) (s := v) (dies_map_updDie (s := v.fresh.2) rfl) d⟩

/-- The context that KVNEW makes by its descriptor, under a number; its area has still to be cleared (R121, R123, R287). -/
def newCtx (s : State) (bs : List Byte) (num : Nat) : Ctx :=
  { s.makeCtx s.core.did num (fieldNat bs 16 1) (fieldNat bs 17 1) (fieldNat bs 18 1) (fieldNat bs 19 1) (fieldNat bs 20 1) (fieldNat bs 0 8)
      (fieldNat bs 8 8) s.ptb with clearing := true }

theorem statusWord_zero (n : Nat) : statusWord n 0 = BitVec.ofNat 64 (n * 2 ^ 32) := by rw [statusWord, Nat.add_zero]
theorem statusWord_value (v : Nat) : statusWord 0 v = BitVec.ofNat 64 v := by rw [statusWord, Nat.zero_mul, Nat.zero_add]

/-- A KVNEW that ends with a status. -/
def newFails (s v : State) (dst : SDest) (tok : Option TokRef) (status : Nat) : State :=
  (v.deliver (s.destRef dst) (statusWord status 0)).endOp tok none

/-- A KVNEW that makes its context and gives its handle. -/
def newMade (s v : State) (w : Wm) (dst : SDest) (tok : Option TokRef) (n : Ctx) : State :=
  ((v.updDie s.core.did fun d => { d with ctxs := d.ctxs ++ [n] }).deliver (s.destRef dst) (statusWord 0 (n.handle s.core.did))).addK w tok n.num .new

section
variable {s t u v : State} {w : Wm} {a b x : Word} {bs : List Byte} {dst : SDest} {tok : Option TokRef}

section
variable (ht : s.takesBy .orrery (shK w .req 24 .sDst .sSrc .none .none) a b x t) (desc : s.descAt w a bs) (high : fieldNat bs 21 43 = 0)
  (limits : t.ctxLimits (fieldNat bs 16 1) (fieldNat bs 17 1) (fieldNat bs 18 1) (fieldNat bs 19 1) (fieldNat bs 20 1) (fieldNat bs 0 8)
    (fieldNat bs 8 8) = .ok ()) (joined : t.joinW w = .ok (tok, u)) (reserved : u.reserveS w.d = .ok (dst, v))
include ht desc high limits joined reserved

theorem kvnew_noNumber (none_ : (s.die s.core.did).freeNum = none) : exec (.kvnew w) s = .next ((newFails s v dst tok 4).retire 1) := by
  refine (congrArg (outcome s) (kdesc_accepted ht rfl desc _)).trans ?_
  simp only [high, bne_self_eq_false, trapIf_false, limits, joined, reserved, none_, res_ok_bind, outcome_ok, newFails]

theorem kvnew_noRoom {num : Nat} (free : (s.die s.core.did).freeNum = some num)
    (full : mapCapacity < (s.die s.core.did).mapUse + (newCtx s bs num).entries) :
    exec (.kvnew w) s = .next ((newFails s v dst tok 3).retire 1) := by
  unfold newCtx at full
  refine (congrArg (outcome s) (kdesc_accepted ht rfl desc _)).trans ?_
  simp only [high, bne_self_eq_false, trapIf_false, limits, joined, reserved, free, full, if_true, res_ok_bind, outcome_ok, newFails]

theorem kvnew_makes {num : Nat} (free : (s.die s.core.did).freeNum = some num)
    (fits : (s.die s.core.did).mapUse + (newCtx s bs num).entries ≤ mapCapacity) :
    exec (.kvnew w) s = .next ((newMade s v w dst tok (newCtx s bs num)).retire 1) := by
  have room : ¬ mapCapacity < (s.die s.core.did).mapUse + (newCtx s bs num).entries := Nat.not_lt.2 fits
  unfold newCtx at room
  refine (congrArg (outcome s) (kdesc_accepted ht rfl desc _)).trans ?_
  simp only [high, bne_self_eq_false, trapIf_false, limits, joined, reserved, free, room, if_false, res_ok_bind, outcome_ok]
  rfl

end

/-- Where its token and D have room, an accepted word of a running job joins its batch and reserves its result; contexts and memory stay. -/
theorem accepted_reserves {h : Shape} (ht : s.takesBy .orrery h a b x t) (room : s.batchRoom w) (open_ : t.open_ w.d)
    (there : s.core.did < s.dies.length) (running : s.core.running = true) :
    ∃ tok u dst v, t.joinW w = .ok (tok, u) ∧ u.reserveS w.d = .ok (dst, v) ∧ u.cur = s.cur ∧ v.mem = s.mem ∧
      v.core.holds s.core.lrec s.core.job.toNat = true ∧ s.core.did < v.dies.length ∧ (v.die s.core.did).ctxs = (s.die s.core.did).ctxs := by
  obtain ⟨dst, v, reserved⟩ := reserveS_open (open_joinIf open_ w.tke w.tk.toNat w.opn)
  have issue : AtIssue t (t.joinIf w.tke w.tk.toNat w.opn).2 := atIssue_joinIf ..
  have batch : t.batchRoom w := by
    obtain ⟨_, rfl⟩ := takesBy_frame ht
    unfold State.batchRoom State.strm at room ⊢
    cases k : s.cur <;> simpa [k, Core.strm] using room
  refine ⟨(t.joinIf w.tke w.tk.toNat w.opn).1, (t.joinIf w.tke w.tk.toNat w.opn).2, dst, v, joinW_room batch, reserved, ?_⟩
  generalize (t.joinIf w.tke w.tk.toNat w.opn).2 = u at *
  have holds : s.core.holds s.core.lrec s.core.job.toNat = true := by simp [Core.holds, running]
  have accepted := die_updDie there fun d => d.accepts .orrery (s.now + 1)
  obtain ⟨_, rfl⟩ := takesBy_frame ht
  obtain ⟨_, _, _, _, _, _, _, _, _, rfl⟩ := issue
  obtain ⟨_, _, _, _, _, rfl⟩ := scalarAtIssue_reserveS reserved
  exact ⟨rfl, rfl, holds, by simpa using there, (congrArg Die.ctxs accepted :)⟩

section
variable (reserved : u.reserveS w.d = .ok (dst, v)) (cur : u.cur = s.cur) (here : v.core.holds s.core.lrec s.core.job.toNat = true)
include reserved cur here

theorem newFails_gives (status : Nat) : (newFails s v dst tok status).mem = v.mem ∧ (newFails s v dst tok status).dies = v.dies ∧
    s.gave (newFails s v dst tok status) w.d (BitVec.ofNat 64 (status * 2 ^ 32)) := by
  have gave := gave_endOp (deliver_gave reserved (r := s.destRef dst) rfl here (statusWord status 0)) tok none
  refine ⟨?_, ?_, ?_⟩
  · obtain ⟨_, _, _, _, _, frame⟩ := endOp_frame (v.deliver (s.destRef dst) (statusWord status 0)) tok none
    rw [newFails, frame]
    exact State.updJob_mem ..
  · exact (endOp_dies ..).trans (State.updJob_dies ..)
  · rw [← statusWord_zero]
    unfold State.gave at gave ⊢
    rwa [cur] at gave

theorem newMade_gives (there : s.core.did < v.dies.length) (n : Ctx) : (newMade s v w dst tok n).mem = v.mem ∧
    ((newMade s v w dst tok n).die s.core.did).ctxs = (v.die s.core.did).ctxs ++ [n] ∧
    s.gave (newMade s v w dst tok n) w.d (BitVec.ofNat 64 (n.handle s.core.did)) := by
  have made := congrArg Die.ctxs (die_updDie there fun d => { d with ctxs := d.ctxs ++ [n] })
  have gave := deliver_gave reserved (r := s.destRef dst) (y := v.updDie s.core.did fun d => { d with ctxs := d.ctxs ++ [n] }) rfl here
    (statusWord 0 (n.handle s.core.did))
  obtain ⟨mem, core, ctxs⟩ := addK_new ((v.updDie s.core.did fun d => { d with ctxs := d.ctxs ++ [n] }).deliver (s.destRef dst)
    (statusWord 0 (n.handle s.core.did))) w tok n.num s.core.did
  refine ⟨mem.trans (State.updJob_mem ..), ctxs.trans (Eq.trans ?_ made), fun scalar named => ?_⟩
  · unfold State.die
    rw [State.deliver, State.updJob_dies]
  · rw [newMade, core, ← cur, gave scalar named, statusWord_value]

end
end

/-- Settles O49: a word's checks pass within the limits, and what is left is its command submitted; KVNEW ends with its status or its handle. -/
theorem orreryWords : Obligations.OrreryWords := by
  unfold Obligations.OrreryWords
  intro w s t a b x c bs ea d g ok okg b32 x32 field area
  refine ⟨fun ht desc high limits room open_ there running => ?new, fun done => ⟨fun ht b32 named => ⟨fun heads => ?free, ?in_, ?inv⟩,
    ?share, fun key ht valid translates b32 page named => ?stat, ?write,
    fun ht ⟨named, b38⟩ group => ⟨fun x56 mapped => ?renew, fun x32 mapped => ?expire⟩,
    fun ht b32 x32 named => ⟨fun below heads => ?position, fun past i hi => ?past⟩,
    fun pages ht b32 named => ⟨fun valid outside translates heads => ?out, fun valid still room heads mapped => ?grow⟩⟩,
    ?fork⟩
  case free => exact kvfree_accepts done ht b32 named heads
  case in_ => exact mapWord_accepts (swaps := false) done b32 named rfl ht
  case inv => exact mapWord_accepts (swaps := true) done b32 named rfl ht
  case share =>
    intro src ht a32 b32 source named cells groups lo n aligned whole next given fits fromArea toArea
    exact kvshare_accepts done ht a32 b32 source named rfl rfl ⟨cells, groups, aligned, whole, next, given, fits, fromArea, toArea⟩
  case stat => exact kvstat_accepts done ht valid translates b32 page named
  case write =>
    intro pages ht ⟨named, b38⟩ x56 p
    refine ⟨kvw_gap done named b38 ht x56, ?_⟩
    intro next below group unit unlent own mapped cell translates keys flow clean
    exact kvw_accepts done named b38 group ht x56 rfl rfl
      ⟨next, below, unlent, fun i hi => (own i hi).1, fun i hi => (own i hi).2, cell, mapped⟩ ⟨translates, flow, clean⟩
  case renew => exact kvrnw_accepts done named b38 group ht x56 mapped
  case expire => exact kvexp_accepts done named b38 group ht x32 mapped
  case position =>
    exact ⟨position_accepts done b32 named rfl ht x32 below heads, position_accepts done b32 named rfl ht x32 below heads,
      position_accepts done b32 named rfl ht x32 below heads⟩
  case past =>
    simp only [List.mem_cons, List.not_mem_nil, or_false] at hi
    rcases hi with rfl | rfl | rfl <;> exact position_gap done b32 named rfl ht x32 past
  case out => exact smout_accepts done b32 named ht heads valid outside translates
  case grow => exact slabgr_accepts done b32 named ht heads valid still room mapped
  case fork =>
    intro ht desc b32 x32 named low high p k limits written fits mapped gap
    exact kvfork_accepts ht desc b32 x32 named ⟨low, high, limits, written, fits, mapped, gap⟩
  case new =>
    intro fresh answers
    obtain ⟨tok, u, dst, v, joined, reserved, cur, mem, here, there', ctxs⟩ := accepted_reserves ht room open_ there running
    have fails (status : Nat) (run : exec (.kvnew w) s = .next ((newFails s v dst tok status).retire 1)) : answers [] (status * 2 ^ 32) := by
      obtain ⟨mem', dies, gave⟩ := newFails_gives (tok := tok) reserved cur here status
      refine ⟨_, run, mem'.trans mem, ?_, gave⟩
      rw [State.die, dies, ← State.die, ctxs, List.append_nil]
    refine ⟨fun none_ => fails 4 (kvnew_noNumber ht desc high limits joined reserved none_), ?_⟩
    intro num free n
    refine ⟨fun fits => ?_, fun full => fails 3 (kvnew_noRoom ht desc high limits joined reserved free full)⟩
    obtain ⟨mem', made, gave⟩ := newMade_gives (tok := tok) reserved cur here there' n
    exact ⟨_, kvnew_makes ht desc high limits joined reserved free fits, mem'.trans mem, made.trans (by rw [ctxs]), gave⟩

end Sys2Proof.Proofs
end

section
/-!
PROOFS. The machine right after power-good (R326, R332, R340, R359, R387).
-/

namespace Sys2Proof.Proofs
open Sys2Proof Sys2Proof.Machine

/-- Settles O7: every value is read off the reset state. -/
theorem resetValues : Obligations.ResetValues := by
  refine ⟨rfl, rfl, rfl, rfl, rfl, by decide, by decide, by decide, by decide, by decide, by decide, by decide, rfl⟩

end Sys2Proof.Proofs
end

section
/-!
PROOFS. A precise fault stops its gang and leaves a record (R350 to R352).
-/

namespace Sys2Proof.Proofs
open Sys2Proof Sys2Proof.Machine

/-! ### The gang stops -/

/-- A gang that halts by a fault, or for a debugger, has halted by one of them. -/
theorem haltGang_core {c d : Core} {lrec g : Nat} {k : StopKind}
    (e : d = if c.inGang lrec g then { c with stopReq := true, stopAs := c.stopAs.join k } else c) (here : d.inGang lrec g = true) :
    d.stopReq = true ∧ d.stopAs = c.stopAs.join k := by
  cases h : c.inGang lrec g with
  | true => rw [e, h]; exact ⟨rfl, rfl⟩
  | false =>
    rw [e, h] at here
    exact absurd here (by simp [h])

/-- Every core of a halted gang is to stop, as its causes have it. -/
theorem haltGang_all {s : State} {lrec g : Nat} {k : StopKind} {d : Core} (here : d ∈ (s.haltGang lrec g k).core :: (s.haltGang lrec g k).parked)
    (gang : d.inGang lrec g = true) : d.stopReq = true ∧ ∃ old : StopKind, d.stopAs = old.join k := by
  obtain rfl | here := List.mem_cons.1 here
  · obtain ⟨stop, as⟩ := haltGang_core (c := s.core) rfl gang
    exact ⟨stop, _, as⟩
  · obtain ⟨c, -, e⟩ := List.mem_map.1 here
    obtain ⟨stop, as⟩ := haltGang_core (c := c) e.symm gang
    exact ⟨stop, _, as⟩

theorem haltGang_inGang (s : State) (lrec g l n : Nat) (k : StopKind) :
    (s.haltGang lrec g k).core.inGang l n = s.core.inGang l n := by
  show Core.inGang (if _ then _ else _) l n = _
  split <;> rfl

theorem join_fail (k : StopKind) : k.join .fail = .fail := by cases k <;> rfl

/-! ### What a fault leaves -/

/-- The state in which a fault's record is posted: `eva` is set and the token's error cleared, as the rules place them (R211, R350). -/
def faulting (s : State) (f : FaultInfo) : State :=
  let s0 := match f.tok with
    | some (t, n) => s.upd fun x => x.setToken t ((x.token t).clearRaised n)
    | none => s
  if f.eva then s0.upd fun x => { x with eva := BitVec.ofNat 64 f.info } else s0

/-- The record of a precise fault (R350). -/
def faultRec (s : State) (f : FaultInfo) : FRec :=
  { code := f.code.num, sub := f.sub, strm := strmNum s.cur, die := s.core.did, core := s.core.cid, pc := (f.at_.getD s.strm.pc).toNat
    addr := f.addr, info := f.info, lrec := s.core.lrec, job := s.core.job.toNat }

theorem raise_eq (s : State) (f : FaultInfo) : s.raise f = ((faulting s f).postJob s.core (faultRec s f)).faultGang := rfl

/-- Both cores run, or not, as the same gang of the same launch, and allow debugging alike. -/
def sameGang (c d : Core) : Prop := d.running = c.running ∧ d.lrec = c.lrec ∧ d.gangNo = c.gangNo ∧ d.dbgOk = c.dbgOk

theorem sameGang_setStrm (c : Core) (k : Strm) (x : StrmSt) : sameGang c (c.setStrm k x) := by simp [sameGang]

/-- Up to its record, a fault changes the core under view alone, and not its gang. -/
theorem faulting_frame (s : State) (f : FaultInfo) : ∃ c, faulting s f = { s with core := c } ∧ sameGang s.core c := by
  have cleared : ∃ c, (match f.tok with
      | some (t, n) => s.upd fun x => x.setToken t ((x.token t).clearRaised n)
      | none => s) = { s with core := c } ∧ sameGang s.core c := by
    split
    · exact ⟨_, rfl, sameGang_setStrm ..⟩
    · exact ⟨s.core, rfl, rfl, rfl, rfl, rfl⟩
  obtain ⟨c, e, running, lrec, gang, dbg⟩ := cleared
  unfold faulting
  rw [e]
  dsimp only
  split
  · obtain ⟨running', lrec', gang', dbg'⟩ := sameGang_setStrm c s.cur { c.strm s.cur with eva := BitVec.ofNat 64 f.info }
    exact ⟨_, rfl, running'.trans running, lrec'.trans lrec, gang'.trans gang, dbg'.trans dbg⟩
  · exact ⟨c, rfl, running, lrec, gang, dbg⟩

/-- A fault taken: once it is recorded its launch is marked and its gang halts (R352). -/
theorem raise_frame (s : State) (f : FaultInfo) : ∃ u : State, sameGang s.core u.core ∧ u.launches = s.launches ∧
    s.raise f = (u.markFaulted s.core.lrec).haltGang s.core.lrec s.core.gangNo (if s.core.dbgOk then .debug else .fail) := by
  obtain ⟨c, e, same⟩ := faulting_frame s f
  obtain ⟨_, _, _, _, _, _, _, _, posted⟩ := served_postJob (faulting s f) s.core (faultRec s f)
  have core : ((faulting s f).postJob s.core (faultRec s f)).core = c := by rw [posted, e]
  have launches : ((faulting s f).postJob s.core (faultRec s f)).launches = s.launches := by rw [posted, e]
  refine ⟨_, core.symm ▸ same, launches, ?_⟩
  obtain ⟨-, lrec, gang, dbg⟩ := same
  rw [raise_eq, State.faultGang, core, lrec, gang, dbg]

/-- A gang whose word raised a fault runs on no more (R352). -/
theorem raise_not_runsOn (s : State) (f : FaultInfo) : ¬ s.runsOn (s.raise f) := by
  obtain ⟨u, -, -, e⟩ := raise_frame s f
  rintro ⟨here, on⟩
  rw [e] at here on
  rw [(haltGang_all List.mem_cons_self here).1] at on
  cases on

theorem raise_inGang {s : State} (running : s.core.running = true) (f : FaultInfo) :
    (s.raise f).core.inGang s.core.lrec s.core.gangNo = true := by
  obtain ⟨u, ⟨run, lrec, gang, -⟩, -, e⟩ := raise_frame s f
  rw [e, haltGang_inGang]
  show u.core.inGang _ _ = true
  simp [Core.inGang, run, lrec, gang, running]

/-- A fault marks its launch, and adds and drops none (R352). -/
theorem raise_launches (s : State) (f : FaultInfo) : (s.raise f).launches.map (·.lrec) = s.launches.map (·.lrec) ∧
    ∀ l ∈ (s.raise f).launches, l.lrec = s.core.lrec → l.faulted = true := by
  obtain ⟨u, -, launches, e⟩ := raise_frame s f
  obtain ⟨on, marked⟩ : ∃ on, (s.raise f).launches = s.launches.map fun (l : Launch) =>
      if l.lrec == s.core.lrec && !l.faulted then { l with faulted := true, runOn := on } else l := ⟨_, by rw [e, ← launches]; rfl⟩
  rw [marked]
  constructor
  · rw [List.map_map]
    refine List.map_congr_left fun l _ => ?_
    dsimp only [Function.comp]
    split <;> rfl
  · intro l here
    obtain ⟨m, -, rfl⟩ := List.mem_map.1 here
    cases h : m.lrec == s.core.lrec && !m.faulted with
    | true => exact fun _ => rfl
    | false =>
      intro mine
      simpa [show m.lrec = s.core.lrec from mine] using h

/-! ### The record -/

theorem toBytes_length (r : FRec) (n : Nat) : (r.toBytes n).length = 64 := by
  simp [FRec.toBytes, leBytes_length]

theorem natAt_writeMem {s : State} {key : Nat} (n x : Nat) (h : s.hbmDead key = false) :
    (s.writeMem key (leBytes n x)).natAt key n = x % 256 ^ n := by
  have bytes := bytesAt_writeMem (bs := leBytes n x) h
  rw [leBytes_length] at bytes
  rw [State.natAt, bytes, leNat_leBytes]

@[simp] theorem writeMem_rseqs (s : State) (key : Nat) (bs : List Byte) : (s.writeMem key bs).rseqs = s.rseqs := by
  obtain ⟨-, e⟩ | ⟨-, p, ds, e⟩ := writeMem_cases s key bs <;> rw [e]
@[simp] theorem writeMem_host (s : State) (key : Nat) (bs : List Byte) : (s.writeMem key bs).host = s.host := by
  obtain ⟨-, e⟩ | ⟨-, p, ds, e⟩ := writeMem_cases s key bs <;> rw [e]

theorem hbmDead_writeMem (s : State) (key : Nat) (bs : List Byte) (k : Nat) : (s.writeMem key bs).hbmDead k = s.hbmDead k :=
  hbmDead_of_fences (fences_writeMem ..) k

theorem hbmDead_of_alive {s : State} {key n i : Nat} (live : s.alive key n) (h : i < n) : s.hbmDead (key + i) = false := live i h

/-- The state in which a record takes its sequence number (R351). -/
def numbered (s : State) (node : Nat) : State :=
  { s with rseqs := Sparse.set s.rseqs node ((Sparse.get s.rseqs node + 1) % 2 ^ 32) }

/-- A record at the tail of a queue with room: the record is written, then the tail (R351). -/
def recordWritten (s : State) (fq slot tail rseq : Nat) (r : FRec) : State :=
  (s.writeMem slot (r.toBytes rseq)).writeMem (fq + 16) (leBytes 4 (tail + 1))

section
variable {s : State} {fq slot : Nat} (live : s.alive fq 64)
include live

theorem recordWritten_reads (slotLive : s.alive slot 64) (apart : slot + 64 ≤ fq ∨ fq + 64 ≤ slot) (tail rseq : Nat) (r : FRec) :
    let t := recordWritten s fq slot tail rseq r
    t.holds slot (r.toBytes rseq) ∧ t.natAt (fq + 16) 4 = (tail + 1) % 2 ^ 32 ∧
      ∀ k, (k < slot ∨ slot + 64 ≤ k) → (k < fq + 16 ∨ fq + 20 ≤ k) → t.byte k = s.byte k := by
  intro t
  have tailLive : (s.writeMem slot (r.toBytes rseq)).hbmDead (fq + 16) = false :=
    (hbmDead_writeMem ..).trans (hbmDead_of_alive live (by omega))
  have other : ∀ k, (k < fq + 16 ∨ fq + 20 ≤ k) → t.byte k = (s.writeMem slot (r.toBytes rseq)).byte k := fun k out =>
    byte_writeMem_other (by rw [leBytes_length]; omega)
  refine ⟨?_, natAt_writeMem 4 (tail + 1) tailLive, fun k outSlot outTail => ?_⟩
  · have kept := bytesAt_congr (key := slot) (n := (r.toBytes rseq).length) fun i h => other (slot + i) (by
      rw [toBytes_length] at h
      omega)
    exact kept.trans (bytesAt_writeMem (hbmDead_of_alive slotLive (i := 0) (by omega)))
  · exact (other k outTail).trans (byte_writeMem_other (by rw [toBytes_length]; omega))

/-- A full queue counts the record in DROP (R351). -/
theorem recordDropped_reads (n : Nat) (fits : n < 2 ^ 32) :
    let t := s.writeMem (fq + 24) (leBytes 4 n)
    t.natAt (fq + 24) 4 = n ∧ ∀ k, (k < fq + 24 ∨ fq + 28 ≤ k) → t.byte k = s.byte k :=
  ⟨(natAt_writeMem 4 n (hbmDead_of_alive live (by omega))).trans (Nat.mod_eq_of_lt (by omega)),
    fun k out => byte_writeMem_other (by rw [leBytes_length]; omega)⟩

end

/-- A record that need not wait goes to its queue: it is written, or counted as dropped; either way the vector is signalled (R351). -/
theorem writeRecord_goes {s : State} {node : Nat} (r : FRec) (queue : s.natAt (node + 64) 8 ≠ 0) :
    let fq := s.natAt (node + 64) 8
    let size := s.natAt (fq + 8) 4
    let tail := s.natAt (fq + 16) 4
    let v := s.natAt (fq + 20) 2
    s.writeRecord node r = (if (tail + 2 ^ 32 - s.natAt (fq + 12) 4) % 2 ^ 32 = size then
        (numbered s node).writeMem (fq + 24) (leBytes 4 (min (s.natAt (fq + 24) 4 + 1) (2 ^ 32 - 1)))
      else recordWritten (numbered s node) fq (s.natAt fq 8 + 64 * (tail % size)) tail (Sparse.get s.rseqs node) r).msix
        (if v < 5 ∨ v > 63 then 5 else v) := by
  unfold State.writeRecord recordWritten numbered
  dsimp only
  rw [if_neg queue]

/-- What a record's queue holds reads alike once the vector is signalled. -/
theorem natAt_msix (s : State) (v key n : Nat) : (s.msix v).natAt key n = s.natAt key n := natAt_congr fun _ _ => rfl
theorem byte_msix (s : State) (v key : Nat) : (s.msix v).byte key = s.byte key := rfl
theorem holds_msix {s : State} {key : Nat} {bs : List Byte} (h : s.holds key bs) (v : Nat) : (s.msix v).holds key bs :=
  (bytesAt_congr (s := s) (t := s.msix v) fun _ _ => rfl).trans h

/-- Either way the record has taken its number and the vector is signalled. -/
theorem signalled {s u : State} {node : Nat} (host : u.host = s.host) (rseqs : u.rseqs = (numbered s node).rseqs) (v : Nat) :
    (u.msix v).host = s.host.signal v ∧ Sparse.get (u.msix v).rseqs node = (Sparse.get s.rseqs node + 1) % 2 ^ 32 := by
  refine ⟨congrArg (HostSt.signal · v) host, ?_⟩
  show Sparse.get u.rseqs node = _
  rw [rseqs]
  exact sparse_get_set_same ..

/-- Settles O21: a fault's effects by the frame of its record, a record's by its one or two writes. -/
theorem faultsAreTakenAndRecorded : Obligations.FaultsAreTakenAndRecorded := by
  unfold Obligations.FaultsAreTakenAndRecorded
  refine ⟨fun s f running => ?_, fun s node r => ?_⟩
  · have here := raise_inGang running f
    have stops : ∀ c ∈ (s.raise f).core :: (s.raise f).parked, c.inGang s.core.lrec s.core.gangNo = true →
        c.stopReq = true ∧ (c.stopAs = .fail ∨ (s.core.dbgOk = true ∧ c.stopAs = .debug)) := by
      intro c mem gang
      obtain ⟨u, -, -, e⟩ := raise_frame s f
      rw [e] at mem
      obtain ⟨stop, old, as⟩ := haltGang_all mem gang
      refine ⟨stop, ?_⟩
      cases h : s.core.dbgOk with
      | true =>
        rw [h] at as
        exact (join_debug old).symm.imp (as.trans ·) fun d => ⟨rfl, as.trans d⟩
      | false =>
        rw [h] at as
        exact .inl (as.trans (join_fail old))
    refine ⟨here, stops, fun k => ?_, raise_launches s f⟩
    simp [State.issueKind, (stops _ List.mem_cons_self here).1]
  · intro fq base size head tail slot v t
    refine ⟨fun held => if_pos ?_, fun none free queue _ _ slotLive live apart => ?_⟩
    · simpa using held
    · have written : t = s.writeRecord node r := if_neg (by simp [none, free])
      have posted := written.trans (writeRecord_goes r queue)
      by_cases full : (tail + 2 ^ 32 - head) % 2 ^ 32 = size
      · obtain ⟨drop, same⟩ := recordDropped_reads (s := numbered s node) live (min (s.natAt (fq + 24) 4 + 1) (2 ^ 32 - 1)) (by omega)
        have e := posted.trans (congrArg (State.msix · _) (if_pos full))
        obtain ⟨host, number⟩ := signalled (s := s) (node := node) (writeMem_host (numbered s node) (fq + 24) _) (writeMem_rseqs ..) (if v < 5 ∨ 63 < v then 5 else v)
        rw [e]
        exact ⟨host, number, fun room => absurd full room, fun _ => ⟨(natAt_msix ..).trans drop, fun k out => (byte_msix ..).trans (same k out)⟩⟩
      · obtain ⟨record, next, same⟩ := recordWritten_reads (s := numbered s node) live slotLive apart tail (Sparse.get s.rseqs node) r
        have e := posted.trans (congrArg (State.msix · _) (if_neg full))
        obtain ⟨host, number⟩ := signalled (node := node)
          (show (recordWritten (numbered s node) fq slot tail (Sparse.get s.rseqs node) r).host = s.host from
            (writeMem_host ..).trans (writeMem_host ..)) ((writeMem_rseqs ..).trans (writeMem_rseqs ..)) (if v < 5 ∨ 63 < v then 5 else v)
        rw [e]
        exact ⟨host, number, fun _ => ⟨holds_msix record _, (natAt_msix ..).trans next,
          fun k outSlot outTail => (byte_msix ..).trans (same k outSlot outTail)⟩, fun fills => absurd fills full⟩

end Sys2Proof.Proofs
end

section
/-!
PROOFS. What a word that issues does to memory, the host's side and the banks: the relation that every one of its parts keeps (R323, log entry 2).
-/

namespace Sys2Proof.Proofs
open Sys2Proof Sys2Proof.Machine

/-! ### The part of the state that an issuing word leaves alone -/

/-- Memory with its poison marks, the host's side, and the banks, whose alerts post records. -/
structure Face where
  mem : List Host.Cell
  poison : List Nat
  flashBad : List Nat
  host : HostSt
  banks : Sparse Bank

def face (s : State) : Face := ⟨s.mem, s.poison, s.flashBad, s.host, s.banks⟩

/-- The alerts of a bank. -/
def Face.alerts (f : Face) (b : Nat) : Nat := (Sparse.get f.banks b).alerts

/-- `g` comes from `f` as a word issues: memory keeps its form; and where `quiet` is asked for, nothing of `f` but its rows has changed unless an
alert has been raised, whose record is posted (R323). -/
structure Calm (quiet : Prop) (g f : Face) : Prop where
  form : Memory.wf f.mem = true → Memory.wf g.mem = true
  flash : quiet → g.flashBad = f.flashBad
  alerts : quiet → ∀ b, f.alerts b ≤ g.alerts b
  kept : quiet → (∃ b, f.alerts b < g.alerts b) ∨ g.mem = f.mem ∧ g.poison = f.poison ∧ g.host = f.host

section
variable {quiet : Prop}

@[simp] theorem calm_refl (f : Face) : Calm quiet f f := ⟨id, fun _ => rfl, fun _ _ => Nat.le_refl _, fun _ => .inr ⟨rfl, rfl, rfl⟩⟩

theorem Calm.trans {h g f : Face} (b : Calm quiet h g) (a : Calm quiet g f) : Calm quiet h f where
  form := b.form ∘ a.form
  flash q := (b.flash q).trans (a.flash q)
  alerts q n := (a.alerts q n).trans (b.alerts q n)
  kept q := by
    rcases a.kept q with ⟨n, hn⟩ | ⟨am, ap, ah⟩
    · exact .inl ⟨n, hn.trans_le (b.alerts q n)⟩
    · rcases b.kept q with ⟨n, hn⟩ | ⟨bm, bp, bh⟩
      · exact .inl ⟨n, (a.alerts q n).trans_lt hn⟩
      · exact .inr ⟨bm.trans am, bp.trans ap, bh.trans ah⟩

theorem Calm.weaken {q : Prop} {g f : Face} (h : Calm quiet g f) (asks : q → quiet) : Calm q g f :=
  ⟨h.form, h.flash ∘ asks, h.alerts ∘ asks, h.kept ∘ asks⟩

theorem calm_of_face {s t : State} (h : face t = face s) : Calm quiet (face t) (face s) := h ▸ calm_refl _

theorem calm_ite {c : Prop} [Decidable c] {f : Face} {t u : State} (ht : Calm quiet (face t) f) (hu : Calm quiet (face u) f) :
    Calm quiet (face (if c then t else u)) f := ite_both (P := fun x => Calm quiet (face x) f) ht hu

/-- Where nothing is asked but memory's form, a write keeps it. -/
theorem calm_of_form {s t : State} (loud : ¬ quiet) (h : s.memForm → t.memForm) : Calm quiet (face t) (face s) :=
  ⟨h, fun q => (loud q).elim, fun q => (loud q).elim, fun q => (loud q).elim⟩

/-! ### A core, a stream, a die, a job -/

theorem face_ite {c : Prop} [Decidable c] {s t u : State} (ht : face t = face s) (hu : face u = face s) :
    face (if c then t else u) = face s := ite_both (P := fun x => face x = face s) ht hu

@[simp] theorem face_updC (s : State) (f : Core → Core) : face (s.updC f) = face s := rfl
@[simp] theorem face_setStrm (s : State) (x : StrmSt) : face (s.setStrm x) = face s := rfl
@[simp] theorem face_upd (s : State) (f : StrmSt → StrmSt) : face (s.upd f) = face s := rfl
@[simp] theorem face_updK (s : State) (k : Strm) (f : StrmSt → StrmSt) : face (s.updK k f) = face s := rfl
@[simp] theorem face_retire (s : State) (n : Nat) : face (s.retire n) = face s := rfl
@[simp] theorem face_transfer (s : State) (x : StrmSt) (n : Nat) : face (s.transfer x n) = face s := rfl
@[simp] theorem face_updDie (s : State) (d : Nat) (f : Die → Die) : face (s.updDie d f) = face s := rfl
@[simp] theorem face_updJob (s : State) (l j : Nat) (f : Core → Core) : face (s.updJob l j f) = face s := face_ite rfl rfl
@[simp] theorem face_endOp (s : State) (r : Option TokRef) (e : Option FaultInfo) : face (s.endOp r e) = face s := by
  cases r with
  | none => rfl
  | some t => exact face_updJob ..
@[simp] theorem face_deliver (s : State) (d : DestRef) (v : Word) : face (s.deliver d v) = face s := face_updJob ..
@[simp] theorem face_stall (s : State) (keys : List Nat) : face (s.stall keys) = face s := face_ite rfl rfl

/-! ### Rows (R322, R323, R359) -/

/-- A row that is opened may raise an alert, whose record is posted (R323). -/
@[simp] theorem calm_touchRow {s : State} {f : Face} (h : Calm quiet (face s) f) (key : Nat) : Calm quiet (face (s.touchRow key)) f := by
  refine Calm.trans ?_ h
  obtain ⟨mono, kept⟩ := alertsOrQuiet_touchRow s key
  have flash : (s.touchRow key).flashBad = s.flashBad := by
    obtain ⟨_, _, _, _, _, _, _, _, e⟩ := served_touchRow s key
    rw [e]
  exact ⟨memForm_touchRow key, fun _ => flash, fun _ => mono, fun _ => kept⟩

@[simp] theorem calm_touchRows {s : State} {f : Face} (h : Calm quiet (face s) f) (l : List Nat) : Calm quiet (face (s.touchRows l)) f := by
  induction l generalizing s with
  | nil => exact h
  | cons k l ih => exact ih (calm_touchRow h k)

@[simp] theorem calm_fillTlb {s : State} {f : Face} (h : Calm quiet (face s) f) (va : Nat) : Calm quiet (face (s.fillTlb va)) f := by
  unfold State.fillTlb
  refine calm_ite h ?_
  split
  · exact h
  · extract_lets t add miss cl walked s0 s1
    exact (calm_ite (calm_touchRows h _) h : Calm quiet (face s0) f)

theorem calm_foldl {α : Type} {g : State → α → State} {f : Face} (step : ∀ s a, Calm quiet (face s) f → Calm quiet (face (g s a)) f) (l : List α)
    {s : State} (h : Calm quiet (face s) f) : Calm quiet (face (l.foldl g s)) f := by
  induction l generalizing s with
  | nil => exact h
  | cons a l ih => exact ih (step s a h)

@[simp] theorem calm_fillTlbs {s : State} {f : Face} (h : Calm quiet (face s) f) (l : List Nat) : Calm quiet (face (s.fillTlbs l)) f :=
  calm_foldl (fun _ _ h => calm_fillTlb h _) _ h

end
end Sys2Proof.Proofs
end

section
/-!
PROOFS. Attempts to issue a word, and the shared parts of words: each is calm, so that it writes no memory and tells the host nothing (R323).
-/

namespace Sys2Proof.Proofs
open Sys2Proof Sys2Proof.Machine

section
variable {quiet : Prop}

/-! ### Attempts that are calm -/

/-- Every state an attempt answers comes calmly from `s`. -/
def Calms (quiet : Prop) (s : State) (r : Res State) : Prop := Gives (fun t => Calm quiet (face t) (face s)) r
/-- The same of an attempt that answers a value too. -/
def CalmsOf {α : Type} (quiet : Prop) (s : State) (r : Res (α × State)) : Prop := Gives (fun x => Calm quiet (face x.2) (face s)) r

/-- A state handed over, which comes calmly from `s`, then goes on. -/
theorem calm_bind {α : Type} {s u : State} {r : Res (α × State)} {f : α × State → Res State} (h : CalmsOf quiet u r) (hu : Calm quiet (face u) (face s))
    (next : ∀ x : α × State, Calm quiet (face x.2) (face s) → Calms quiet s (f x)) : Calms quiet s (r >>= f) :=
  gives_bind h fun x hx => next x (hx.trans hu)

theorem calm_bind₁ {s u : State} {r : Res State} {f : State → Res State} (h : Calms quiet u r) (hu : Calm quiet (face u) (face s))
    (next : ∀ x, Calm quiet (face x) (face s) → Calms quiet s (f x)) : Calms quiet s (r >>= f) := gives_bind h fun x hx => next x (hx.trans hu)

theorem calm_after {s u : State} {r : Res State} (h : Calms quiet u r) (hu : Calm quiet (face u) (face s)) : Calms quiet s r :=
  gives_mono h fun _ e => e.trans hu

/-- Every state an attempt answers comes calmly from `s`, or is one in which the gang no longer runs. -/
def Rests (quiet : Prop) (s : State) (r : Res State) : Prop := Gives (fun t => Calm (quiet ∧ s.runsOn t) (face t) (face s)) r

theorem Calms.rests {s : State} {r : Res State} (h : Calms quiet s r) : Rests quiet s r := gives_mono h fun _ e => e.weaken And.left

/-- A gang that is to stop does not run on. -/
theorem gangStops_not_runsOn {s t : State} (stops : gangStops t s.core.lrec s.core.gangNo) : ¬ s.runsOn t := fun ⟨here, on⟩ => by
  obtain ⟨-, all⟩ := stops
  have stop := (all t.core List.mem_cons_self here).1
  rw [on] at stop
  cases stop

/-- What an attempt of a word leads to comes calmly too, or the gang stops. -/
theorem rests_outcome {s t : State} {r : Res State} (h : Rests quiet s r) (e : outcome s r = .next t) :
    Calm (quiet ∧ s.runsOn t) (face t) (face s) := by
  cases r with
  | ok u => exact Host.Outcome.next.inj e ▸ h.of u rfl
  | error x =>
    cases x with
    | wait => exact Host.Outcome.next.inj e ▸ calm_refl _
    | bank keys => exact Host.Outcome.next.inj e ▸ calm_of_face (face_stall ..)
    | trap f =>
      rw [outcome_trap, takeFault] at e
      split at e
      · cases e
      · exact Host.Outcome.next.inj e ▸ calm_of_form (fun ⟨_, on⟩ => raise_not_runsOn s f on) (memForm_raise f)

/-! ### Scalars, queues, ports, registers (R30, R37, R38, R238) -/

theorem readS_calm (s : State) (f : OpField) : CalmsOf quiet s (s.readS f) := by
  refine ⟨fun ⟨v, t⟩ e => ?_⟩
  obtain ⟨q, rfl⟩ := readS_frame e
  exact calm_refl _

theorem sources_calm (s : State) (h : Shape) : CalmsOf quiet s (s.sources h) := by
  refine ⟨fun ⟨⟨a, b, c⟩, t⟩ e => ?_⟩
  obtain ⟨q, rfl⟩ := sources_frame e
  exact calm_refl _

theorem writeS_calm (s : State) (f : OpField) (v : Word) (cost : Nat) : Calms quiet s (s.writeS f v cost) :=
  gives_ite (gives_ite (gives_ok (calm_refl _)) (gives_ite (gives_error _) (gives_ok (calm_refl _)))) (gives_ite (gives_ok (calm_refl _)) (gives_error _))

theorem reserveS_calm (s : State) (f : OpField) : CalmsOf quiet s (s.reserveS f) :=
  gives_ite (gives_ite (gives_ok (calm_refl _)) (gives_ite (gives_error _) (gives_ok (calm_refl _)))) (gives_ite (gives_ok (calm_refl _)) (gives_error _))

theorem reservePort_calm (s : State) (p n : Nat) : CalmsOf quiet s (s.reservePort p n) := by
  refine ⟨fun ⟨l, t⟩ e => ?_⟩
  obtain ⟨-, q, m, rfl⟩ := reservePort_frame e
  exact calm_refl _

theorem readV_calm (s : State) (f : OpField) (n : Nat) : CalmsOf quiet s (s.readV f n) := by
  refine ⟨fun ⟨l, t⟩ e => ?_⟩
  obtain ⟨p, q, rfl⟩ := readV_frame e
  exact calm_refl _

theorem vsource_calm (s : State) (k : OpK) (f : OpField) : CalmsOf quiet s (s.vsource k f) := by
  unfold State.vsource
  split
  · exact readV_calm ..
  · split
    · exact gives_error _
    · exact gives_ok ((readS_calm s f).of _ ‹_›)
  · exact gives_ok (calm_refl _)

theorem vread_calm (s : State) (h : Shape) : CalmsOf quiet s (s.vread h) :=
  gives_bind (vsource_calm ..) fun ⟨_, s1⟩ h1 => gives_bind (vsource_calm s1 ..) fun ⟨_, s2⟩ h2 => gives_bind (vsource_calm s2 ..) fun _ h3 =>
    gives_ok (h3.trans (h2.trans h1))

@[simp] theorem face_pend (s : State) (lat : Nat) (e : PEff) (ev : List Nat) : face (s.pend lat e ev) = face s :=
  rfl

/-- The tiles of a result bound for a port, one write each. -/
theorem face_pendTiles {p lat : Nat} (l : List (Nat × RegPart)) (a : State × List Nat) :
    face (l.foldl (fun acc x => (acc.1.pend lat (.port p x.1 x.2.val) acc.2, [])) a).1 = face a.1 := by
  induction l generalizing a with
  | nil => rfl
  | cons x l ih => exact (ih _).trans (face_pend ..)

theorem writeV_calm (s : State) (f : OpField) (lat : Nat) (parts : List RegPart) (ev : List Nat) : Calms quiet s (s.writeV f lat parts ev) := by
  unfold State.writeV
  refine gives_ite (gives_ok (calm_refl _)) ?_
  split
  · exact gives_error _
  · have h1 := (reservePort_calm (quiet := quiet) s _ _).of _ ‹_›
    exact gives_ok ((calm_of_face (face_pendTiles ..)).trans h1)

theorem putElems_calm (s : State) (t : ETy) (d : OpField) (p : BitVec 1024) (lat : Nat) (f : Nat → Nat → Option Rounded) :
    Calms quiet s (s.putElems t d p lat f) := writeV_calm ..

@[simp] theorem face_putMask (s : State) (d : OpField) (lat : Nat) (p v : BitVec 1024) : face (s.putMask d lat p v) = face s :=
  face_pend ..

/-! ### Batches, accesses, the memory port (R96, R100, R212) -/

theorem joinWord_calm (s : State) (tke : Bool) (n : Nat) (opn : Bool) : CalmsOf quiet s (s.joinWord tke n opn) := by
  refine gives_ite (gives_error _) (gives_ok ?_)
  cases tke with
  | false | true => exact calm_refl _

theorem joinW_calm (s : State) (w : Wm) : CalmsOf quiet s (s.joinW w) := joinWord_calm ..

@[simp] theorem calm_addOpAt {s : State} {f : Face} (h : Calm quiet (face s) f) (cls : Nat) (kinds : BitVec 6) (va : Nat) (vas : List (Nat × Nat))
    (b : MBody) (tok : Option TokRef) (wait : Nat) : Calm quiet (face (s.addOpAt cls kinds va vas b tok wait)) f := by
  refine calm_fillTlbs ?_ _
  exact h

@[simp] theorem calm_addOp {s : State} {f : Face} (h : Calm quiet (face s) f) (cls : Nat) (kinds : BitVec 6) (va : Nat) (b : MBody)
    (tok : Option TokRef) (wait : Nat) : Calm quiet (face (s.addOp cls kinds va b tok wait)) f := calm_addOpAt h ..

/-- A word that needs the memory port takes it and goes on, or stands at issue. -/
theorem withPort_calm {s t u : State} {p : PortUser} {lead cycles : Nat} {go : State → Res State} (hs : Calm quiet (face t) (face s))
    (hu : Calm quiet (face u) (face s)) (next : ∀ x, Calm quiet (face x) (face s) → Calms quiet s (go x)) : Calms quiet s (t.withPort p lead cycles u go) :=
  gives_ite (next _ hu) (gives_ok hs)

/-- The state in which a word stands at issue until its descriptor is read. -/
theorem descriptor_calm {s t : State} {w : Wm} {a : Word} (e : s.descriptor w a = .ok (.inl t)) : Calm quiet (face t) (face s) := by
  have gives : Gives (fun x => ∀ t, x = Sum.inl t → Calm quiet (face t) (face s)) (s.descriptor w a) := by
    refine gives_then fun _ => gives_then fun _ => ?_
    split
    · exact gives_ok fun _ e => Sum.inl.inj e ▸ calm_addOp (calm_refl _) ..
    · split
      · exact gives_error _
      · exact gives_error _
      · exact gives_ok fun _ e => nomatch e
  exact gives.of _ e t rfl

/-- A word that takes a descriptor stands at issue until it is read, and goes on. -/
theorem withDesc_calm {s : State} {w : Wm} {a : Word} {go : List Byte → Res State} (next : ∀ bs, Calms quiet s (go bs)) :
    Calms quiet s (withDesc (s.descriptor w a) go) := by
  unfold withDesc
  split
  · exact gives_error _
  · exact gives_ok (descriptor_calm ‹_›)
  · exact next _

/-! ### Acceptance by an engine (R283, R286) -/

/-- A word is sent to its engine, waits for it, or goes on once it is accepted. -/
theorem accept_calm {s t u : State} {e : Engine} {go : State → Res State} (hs : Calm quiet (face t) (face s)) (hu : Calm quiet (face u) (face s))
    (next : ∀ x, Calm quiet (face x) (face s) → Calms quiet s (go x)) : Calms quiet s (t.accept e u go) := by
  unfold State.accept
  split
  · exact gives_ok hs
  · exact gives_ite (next _ hu) (gives_error _)

theorem acceptDesc_calm {s u : State} {e : Engine} {w : Wm} {a : Word} {go : List Byte → State → Res State} (hu : Calm quiet (face u) (face s))
    (next : ∀ bs x, Calm quiet (face x) (face s) → Calms quiet s (go bs x)) : Calms quiet s (s.acceptDesc e w a u go) := by
  unfold State.acceptDesc
  split
  · exact gives_error _
  · rename_i t e
    exact gives_ok (descriptor_calm e : Calm quiet (face t) _)
  · exact accept_calm (calm_refl _) hu (next _)


end
end Sys2Proof.Proofs
end

section
/-!
PROOFS. Arithmetic, control, special-register and memory words of A are calm (R323).
-/

namespace Sys2Proof.Proofs
open Sys2Proof Sys2Proof.Machine

section
variable {quiet : Prop}

/-! ### Arithmetic and control (R182 to R203) -/

theorem aluIf_calm (s : State) (h : Shape) (ok : Bool) (cost : Nat) (f : Word → Word → Word → Word) : Calms quiet s (s.aluIf h ok cost f) :=
  gives_then fun _ => gives_then fun _ => calm_bind (sources_calm ..) (calm_refl _) fun ⟨⟨_, _, _⟩, _⟩ h1 => gives_then fun _ =>
    calm_bind₁ (writeS_calm ..) h1 fun _ h2 => gives_ok (by simp [h2])

theorem alu_calm (s : State) (h : Shape) (cost : Nat) (f : Word → Word → Word → Word) : Calms quiet s (s.alu h cost f) := aluIf_calm ..

theorem divide_calm (s : State) (h : Shape) (signed : Bool) (f : Word → Word → Word) : Calms quiet s (s.divide h signed f) :=
  gives_then fun _ => calm_bind (sources_calm ..) (calm_refl _) fun ⟨⟨_, _, _⟩, _⟩ h1 => gives_then fun _ => gives_then fun _ =>
    calm_bind₁ (writeS_calm ..) h1 fun _ h2 => gives_ok (by simp [h2])

theorem branchTo_calm (s : State) (h : Shape) (t : Res Word) (take : Word → Word → Bool) (cost : Nat) : Calms quiet s (s.branchTo h t take cost) :=
  gives_then fun _ => gives_then fun _ => gives_then fun _ => calm_bind (sources_calm ..) (calm_refl _) fun ⟨⟨_, _, _⟩, _⟩ h1 => gives_then fun _ =>
    gives_ok (calm_ite (by simp [h1]) (by simp [h1]))

theorem call_calm (s : State) (w : Wi) : Calms quiet s (s.call w) :=
  gives_then fun _ => gives_then fun _ => gives_then fun _ => calm_bind₁ (writeS_calm ..) (calm_refl _) fun _ h1 => gives_ok (by simp [h1])

theorem ret_calm (s : State) (w : Wi) : Calms quiet s (s.ret w) :=
  gives_then fun _ => calm_bind (sources_calm ..) (calm_refl _) fun ⟨⟨_, _, _⟩, _⟩ h1 => gives_then fun _ => gives_then fun _ => gives_ok (by simp [h1])

@[simp] theorem face_setWindowMask (s : State) (rrb i : Nat) (v : BitVec 1024) : face (s.setWindowMask rrb i v) = face s := by
  unfold State.setWindowMask
  split
  · rfl
  · rfl

theorem loop_calm (s : State) (w : Wi) : Calms quiet s (s.loop w) :=
  gives_then fun _ => gives_then fun _ => gives_then fun _ => gives_then fun _ => gives_ite (gives_ok (calm_refl _))
    (gives_ite (calm_bind₁ (gives_ok (calm_refl _)) (calm_refl _) fun _ h1 => gives_ok (by simp [h1]))
      (calm_bind₁ (writeS_calm ..) (calm_refl _) fun _ h1 => gives_ok (by simp [h1])))

theorem loopi_calm (s : State) (w : Wi) : Calms quiet s (s.loopi w) :=
  gives_then fun _ => gives_then fun _ => gives_then fun _ => gives_ok (calm_ite (by simp) (by simp))

theorem loops_calm (s : State) (w : Wi) : Calms quiet s (s.loops w) :=
  gives_then fun _ => gives_then fun _ => gives_then fun _ => gives_then fun _ => gives_ite (gives_ok (by simp))
    (calm_bind₁ (writeS_calm ..) (calm_refl _) fun _ h1 => gives_ok (by simp [h1]))

theorem rrbset_calm (s : State) (w : Wi) : Calms quiet s (s.rrbset w) :=
  gives_then fun _ => gives_then fun _ => gives_then fun _ => gives_ok (by rw [face_retire]; exact calm_ite (by simp) (calm_refl _))

theorem rdzWait_calm (s : State) (w : Wi) : Calms quiet s (s.rdzWait w) := gives_then fun _ => gives_then fun _ => gives_ok (by simp)

theorem yield_calm (s : State) (w : Wi) : Calms quiet s (s.yield w) :=
  gives_then fun _ => gives_then fun _ => gives_ok (calm_ite (calm_refl _) (calm_refl _))

theorem endStrm_calm (s : State) (w : Wi) : Calms quiet s (s.endStrm w) := gives_then fun _ => gives_then fun _ => gives_ok (by simp)

theorem enterHandler_calm (s : State) (k : Strm) (e : Event) (back : Word) : Calms quiet s (s.enterHandler k e back) := by
  refine gives_ite (gives_error _) ?_
  split
  · exact gives_error _
  · exact gives_ok (calm_refl _)

theorem trap_calm (s : State) (w : Wi) : Calms quiet s (s.trap w) :=
  gives_then fun _ => gives_then fun _ => calm_bind₁ (enterHandler_calm ..) (calm_refl _) fun _ h1 => gives_then fun _ => gives_ok (by simp [h1])

theorem eret_calm (s : State) (w : Wi) : Calms quiet s (s.eret w) :=
  gives_then fun _ => gives_then fun _ => gives_then fun _ => gives_then fun _ => gives_ok (by simp)

/-- BKPT posts a record and halts its gang, which then does not run on (R203). -/
theorem bkpt_rests {s : State} (running : quiet → s.core.running = true) (w : Wi) : Rests quiet s (s.bkpt w) := by
  have form : s.memForm → (bkptHalt s w).memForm := fun h => memForm_of_mem (s := State.postJob _ _ _) rfl (memForm_postJob _ _ h)
  have halts : quiet → gangStops (bkptHalt s w) s.core.lrec s.core.gangNo := fun q => bkptHalt_gangStops (running q) w
  have rest : ∀ t, (s.memForm → t.memForm) → (quiet → gangStops t s.core.lrec s.core.gangNo) → Calm (quiet ∧ s.runsOn t) (face t) (face s) :=
    fun t form stops => calm_of_form (fun ⟨q, on⟩ => gangStops_not_runsOn (stops q) on) form
  refine gives_then fun _ => gives_then fun _ => gives_then fun _ => gives_ok ?_
  exact ite_both (P := fun t => Calm (quiet ∧ s.runsOn t) (face t) (face s)) (rest _ form fun q => gangStops_turnAt (halts q) _) (rest _ form halts)

/-! ### Special registers (R50 to R53) -/

theorem rdsr_calm (s : State) (w : Wi) : Calms quiet s (s.rdsr w) :=
  gives_then fun _ => gives_then fun _ => gives_then fun _ => calm_bind₁ (writeS_calm ..) (calm_refl _) fun _ h1 => gives_ok (by simp [h1])

theorem rdcyc_calm (s : State) (w : Wi) : Calms quiet s (s.rdcyc w) :=
  gives_then fun _ => gives_then fun _ => calm_bind₁ (writeS_calm ..) (calm_refl _) fun _ h1 => gives_ok (by simp [h1])

@[simp] theorem face_dropBits (s : State) (k : Strm) : face (s.dropBits k) = face s := face_ite rfl rfl

@[simp] theorem calm_fillFmt {s : State} {f : Face} (h : Calm quiet (face s) f) (base : Nat) : Calm quiet (face (s.fillFmt base)) f := by
  unfold State.fillFmt
  split
  · exact calm_touchRows h _
  · exact h
  · exact h

/-- A write of a special register is calm: at most it reads the format table, whose row opens (R77, R323). -/
theorem calm_writeSpecial {s : State} {f : Face} (h : Calm quiet (face s) f) (r : SReg) (v : Word) : Calm quiet (face (s.writeSpecial r v)) f := by
  cases r with
  | fmtb => exact calm_ite (calm_fillFmt (s := s.updView _) h _) h
  | dbg => exact (calm_of_face (face_dropBits ..)).trans h
  | lc | rrb | evh | evc | eva | epc | rm | job | njob | gang | cid | did | cyc | rcb | ptb | mth | cntc | cnti => exact h

theorem wrsr_calm (s : State) (w : Wi) : Calms quiet s (s.wrsr w) :=
  gives_then fun _ => gives_then fun _ => calm_bind (sources_calm ..) (calm_refl _) fun ⟨⟨_, _, _⟩, _⟩ h1 => gives_then fun _ =>
    gives_then fun _ => gives_then fun _ => gives_ok (calm_writeSpecial h1 ..)

/-! ### Memory words (R207 to R221) -/

theorem load_calm (s : State) (w : Wm) (n : Nat) (signed : Bool) : Calms quiet s (s.load w n signed) :=
  gives_then fun _ => calm_bind (sources_calm ..) (calm_refl _) fun ⟨⟨_, _, _⟩, _⟩ h1 => gives_then fun _ => gives_then fun _ => gives_then fun _ =>
    calm_bind (reserveS_calm ..) h1 fun _ h2 => gives_ok (by simp [h2])

theorem store_calm (s : State) (w : Wm) (n : Nat) : Calms quiet s (s.store w n) :=
  gives_then fun _ => calm_bind (sources_calm ..) (calm_refl _) fun ⟨⟨_, _, _⟩, _⟩ h1 => gives_then fun _ => gives_then fun _ => gives_then fun _ =>
    gives_then fun _ => gives_ok (by simp [h1])

theorem ldvWord_calm (s : State) (w : Wm) : Calms quiet s (s.ldvWord w) :=
  gives_then fun _ => calm_bind (sources_calm ..) (calm_refl _) fun ⟨⟨_, _, _⟩, _⟩ h1 => gives_then fun _ => gives_then fun _ =>
    withPort_calm (calm_refl _) h1 fun _ h2 => calm_bind (joinW_calm ..) h2 fun _ h3 => gives_then fun _ => gives_ok (by simp [h3])

theorem ldvpWord_calm (s : State) (w : Wm) : Calms quiet s (s.ldvpWord w) :=
  gives_then fun _ => calm_bind (sources_calm ..) (calm_refl _) fun ⟨⟨_, _, _⟩, _⟩ h1 => gives_then fun _ => gives_then fun _ =>
    withPort_calm (calm_refl _) h1 fun _ h2 => calm_bind (joinW_calm ..) h2 fun _ h3 => calm_bind (reservePort_calm ..) h3 fun _ h4 =>
      gives_then fun _ => gives_ok (by simp [h4])

theorem stvWord_calm (s : State) (w : Wm) (c : OpK) : Calms quiet s (s.stvWord w c) :=
  gives_then fun _ => calm_bind (sources_calm ..) (calm_refl _) fun ⟨⟨_, _, _⟩, _⟩ h1 => gives_then fun _ => gives_then fun _ =>
    calm_bind (readV_calm ..) h1 fun _ h2 => withPort_calm (calm_refl _) h2 fun _ h3 => calm_bind (joinW_calm ..) h3 fun _ h4 =>
      gives_then fun _ => gives_ok (by simp [h4])

@[simp] theorem calm_addElems {s : State} {f : Face} (h : Calm quiet (face s) f) (w : Wm) (kinds : BitVec 6) (a : Word) (vas : List (Nat × Nat))
    (b : MBody) (tok : Option TokRef) : Calm quiet (face (s.addElems w kinds a vas b tok)) f := by
  unfold State.addElems
  exact calm_ite (by simp [h]) (calm_addOpAt h ..)

theorem ldgWord_calm (s : State) (w : Wm) : Calms quiet s (s.ldgWord w) :=
  gives_then fun _ => calm_bind (sources_calm ..) (calm_refl _) fun ⟨⟨_, _, _⟩, _⟩ h1 => gives_then fun _ => gives_then fun _ => gives_then fun _ =>
    withPort_calm (calm_refl _) h1 fun _ h2 => calm_bind (joinW_calm ..) h2 fun _ h3 => gives_then fun _ => gives_ok (by simp [h3])

theorem stgWord_calm (s : State) (w : Wm) : Calms quiet s (s.stgWord w) :=
  gives_then fun _ => calm_bind (sources_calm ..) (calm_refl _) fun ⟨⟨_, _, _⟩, _⟩ h1 => gives_then fun _ => gives_then fun _ => gives_then fun _ =>
    gives_then fun _ => withPort_calm (calm_refl _) h1 fun _ h2 => calm_bind (joinW_calm ..) h2 fun _ h3 => gives_then fun _ => gives_ok (by simp [h3])

theorem atomicWord_calm (s : State) (w : Wm) (fn : Nat) : Calms quiet s (s.atomicWord w fn) :=
  gives_then fun _ => calm_bind (sources_calm ..) (calm_refl _) fun ⟨⟨_, _, _⟩, _⟩ h1 => gives_then fun _ => gives_then fun _ => gives_then fun _ =>
    calm_bind (reserveS_calm ..) h1 fun _ h2 => gives_ok (by simp [h2])

theorem fence_calm (s : State) (w : Wf) : Calms quiet s (s.fence w) := gives_then fun _ => gives_then fun _ => gives_then fun _ => gives_ok (by simp)

theorem swinit_calm (s : State) (w : Wm) : Calms quiet s (s.swinit w) :=
  gives_then fun _ => calm_bind (sources_calm ..) (calm_refl _) fun ⟨⟨_, _, _⟩, _⟩ h1 => gives_then fun _ => gives_then fun _ => gives_then fun _ =>
    gives_then fun _ => gives_then fun _ => gives_ok (by simp [h1])

theorem swwaitWord_calm (s : State) (w : Wm) : Calms quiet s (s.swwaitWord w) :=
  gives_then fun _ => calm_bind (sources_calm ..) (calm_refl _) fun ⟨⟨_, _, _⟩, _⟩ h1 => gives_then fun _ => gives_then fun _ => gives_then fun _ =>
    gives_ite (gives_then fun _ => calm_bind₁ (writeS_calm ..) (calm_touchRow h1 _) fun _ h2 => gives_ok (by simp [h2]))
      (gives_ite (gives_ok (calm_refl _)) (gives_then fun _ => gives_ok (by simp)))

theorem swadd_calm (s : State) (w : Wm) : Calms quiet s (s.swadd w) :=
  gives_then fun _ => calm_bind (sources_calm ..) (calm_refl _) fun ⟨⟨_, _, _⟩, _⟩ h1 => gives_then fun _ => gives_then fun _ => gives_then fun _ =>
    gives_then fun _ => gives_ok (by simp [h1])

end
end Sys2Proof.Proofs
end


section
/-!
PROOFS. The words of the ports, windows, copies, batches and mailboxes are calm (R323).
-/

namespace Sys2Proof.Proofs
open Sys2Proof Sys2Proof.Machine

section
variable {quiet : Prop}

/-! ### Ports (R222 to R224) -/

theorem pcfg_calm (s : State) (w : Wm) : Calms quiet s (s.pcfg w) :=
  gives_then fun _ => gives_then fun _ => gives_then fun _ => gives_then fun _ => gives_ok (calm_refl _)

theorem pgo_calm (s : State) (w : Wm) : Calms quiet s (s.pgo w) :=
  gives_then fun _ => calm_bind (sources_calm ..) (calm_refl _) fun ⟨⟨_, _, _⟩, _⟩ h1 => gives_then fun _ => gives_then fun _ => withDesc_calm fun _ =>
    gives_then fun _ => calm_bind (joinW_calm ..) h1 fun _ h2 => gives_ok h2

@[simp] theorem face_stopGen (s : State) (n : Nat) : face (s.stopGen n) = face s := by
  unfold State.stopGen
  split
  · rfl
  · exact face_endOp ..

theorem pstop_calm (s : State) (w : Wm) : Calms quiet s (s.pstop w) := gives_then fun _ => gives_then fun _ => gives_ok (by simp)

@[simp] theorem face_endMop (s : State) (o : MOp) (e : Option FaultInfo) : face (s.endMop o e) = face s :=
  face_endOp ..

@[simp] theorem face_dropLdvp (n : Nat) (l : List MOp) (s : State) : face (s.dropLdvp n l) = face s := by
  induction l generalizing s with
  | nil => rfl
  | cons o l ih =>
    unfold State.dropLdvp
    split
    · exact face_ite ((ih _).trans (face_endMop ..)) (ih _)
    · exact ih _

@[simp] theorem face_flushPort (s : State) (n : Nat) : face (s.flushPort n) = face s :=
  (face_dropLdvp ..).trans (face_stopGen ..)

theorem pflush_calm (s : State) (w : Wm) : Calms quiet s (s.pflush w) := gives_then fun _ => gives_then fun _ => gives_ok (by simp)

/-! ### Windows (R225 to R227) -/

@[simp] theorem face_fetchRows (s : State) (w : Wm) (win : Win) (t n : Nat) (tok : Option TokRef) :
    face (s.fetchRows w win t n tok) = face s := rfl

theorem wcfg_calm (s : State) (w : Wm) : Calms quiet s (s.wcfg w) :=
  gives_then fun _ => calm_bind (sources_calm ..) (calm_refl _) fun ⟨⟨_, _, _⟩, _⟩ h1 => withDesc_calm fun _ => gives_then fun _ => gives_then fun _ =>
    calm_bind (joinW_calm ..) h1 fun _ h2 => gives_ok (by simp [h2])

theorem wadv_calm (s : State) (w : Wm) : Calms quiet s (s.wadv w) := by
  refine gives_then fun _ => ?_
  dsimp only
  split
  · exact gives_error _
  · exact gives_then fun _ => gives_then fun _ => gives_then fun _ => calm_bind (joinW_calm ..) (calm_refl _) fun _ h1 => gives_ok (by simp [h1])

theorem wrel_calm (s : State) (w : Wm) : Calms quiet s (s.wrel w) :=
  gives_then fun _ => gives_then fun _ => gives_ok (calm_refl _)

/-! ### Copies (R228, R229) -/

@[simp] theorem calm_pushRake {s : State} {f : Face} (h : Calm quiet (face s) f) (cls : Nat) (runs : List Chunk) (pages : List (Nat × Nat))
    (sw : Option Nat) (send : Option SendTo) (tok : Option TokRef) : Calm quiet (face (s.pushRake cls runs pages sw send tok)) f := by
  refine calm_fillTlbs ?_ _
  exact h

theorem enqueueCopy_calm (s : State) (w : Wm) (runs : List Chunk) (pages : List (Nat × Nat)) (sw : Option Nat) (status : Bool) :
    Calms quiet s (s.enqueueCopy w runs pages sw status) :=
  gives_then fun _ => gives_then fun _ => gives_ite (calm_bind₁ (writeS_calm ..) (calm_refl _) fun _ h1 => gives_ok (by simp [h1]))
    (gives_ite (gives_error _) (calm_bind (joinW_calm ..) (calm_refl _) fun _ h1 => gives_ite
      (calm_bind₁ (writeS_calm ..) h1 fun _ h2 => gives_ok (by simp [h2])) (calm_bind₁ (gives_ok h1) (calm_refl _) fun _ h2 => gives_ok (by simp [h2]))))

theorem cpy_calm (s : State) (w : Wm) : Calms quiet s (s.cpy w) :=
  gives_then fun _ => calm_bind (sources_calm ..) (calm_refl _) fun ⟨⟨_, _, _⟩, _⟩ h1 => gives_then fun _ => calm_after (enqueueCopy_calm ..) h1

theorem cpysw_calm (s : State) (w : Wm) : Calms quiet s (s.cpysw w) :=
  gives_then fun _ => calm_bind (sources_calm ..) (calm_refl _) fun ⟨⟨_, _, _⟩, _⟩ h1 => calm_bind (readS_calm ..) h1 fun ⟨_, _⟩ h2 => gives_then fun _ =>
    gives_then fun _ => gives_then fun _ => calm_after (enqueueCopy_calm ..) (calm_fillTlb h2 _)

theorem cpyStrided_calm (s : State) (w : Wm) (planes : Bool) : Calms quiet s (s.cpyStrided w planes) :=
  gives_then fun _ => calm_bind (sources_calm ..) (calm_refl _) fun ⟨⟨_, _, _⟩, _⟩ h1 => withDesc_calm fun _ => gives_then fun _ => gives_then fun _ =>
    calm_after (enqueueCopy_calm ..) h1

/-! ### Batches, waits, hints, mailboxes (R230 to R233) -/

theorem cbat_calm (s : State) (w : Wm) : Calms quiet s (s.cbat w) := gives_then fun _ => gives_then fun _ => gives_then fun _ => gives_ok (by simp)

theorem waitn_calm (s : State) (w : Wm) : Calms quiet s (s.waitn w) := by
  refine gives_then fun _ => gives_then fun _ => gives_then fun _ => ?_
  split
  · exact gives_error _
  · exact gives_ok (calm_refl _)

theorem calm_prefPage {s : State} {f : Face} (h : Calm quiet (face s) f) (va : Nat) : Calm quiet (face (s.prefPage va)) f := by
  refine calm_ite h ?_
  dsimp only
  split
  · exact h
  · exact calm_ite h (calm_touchRows h _)

@[simp] theorem calm_prefPages {s : State} {f : Face} (h : Calm quiet (face s) f) (va n : Nat) : Calm quiet (face (s.prefPages va n)) f := by
  induction n generalizing s va with
  | zero => exact h
  | succ n ih => exact ih (calm_prefPage h va) _

theorem pref_calm (s : State) (w : Wm) : Calms quiet s (s.pref w) :=
  gives_then fun _ => calm_bind (sources_calm ..) (calm_refl _) fun ⟨⟨_, _, _⟩, _⟩ h1 => gives_then fun _ => gives_ok (by simp [h1])

theorem enq_calm (s : State) (w : Wm) : Calms quiet s (s.enq w) :=
  gives_then fun _ => calm_bind (sources_calm ..) (calm_refl _) fun ⟨⟨_, _, _⟩, _⟩ h1 => gives_then fun _ => gives_then fun _ => withDesc_calm fun _ =>
    gives_ite (gives_then fun _ => calm_bind₁ (writeS_calm ..) h1 fun _ h2 => gives_ok (by simp [h2]))
      (calm_bind (joinW_calm ..) h1 fun ⟨_, _⟩ h2 => calm_bind₁ (writeS_calm ..) h2 fun _ h3 =>
        gives_ok h3)

theorem deq_calm (s : State) (w : Wm) : Calms quiet s (s.deq w) := by
  refine gives_then fun _ => gives_then fun _ => ?_
  split
  · exact calm_bind₁ (writeS_calm ..) (calm_refl _) fun _ h1 => gives_ok h1
  · exact gives_then fun _ => calm_bind₁ (writeS_calm ..) (calm_refl _) fun _ h1 => gives_ok (by simp [h1])

end
end Sys2Proof.Proofs
end

section
/-!
PROOFS. The words of the vector unit and of the matrix unit are calm (R323).
-/

namespace Sys2Proof.Proofs
open Sys2Proof Sys2Proof.Machine

section
variable {quiet : Prop}

/-! ### Vector and mask words (R237 to R259) -/

section
variable {s : State} {h : Shape} {go : VIn → State → Res State} (unit : ∀ x u, Calms quiet u (go x u))
include unit

theorem vwordIf_calm {occ : Nat} {own : Res Unit} {chk : VIn → Res Unit} : Calms quiet s (s.vwordIf h occ own chk go) :=
  gives_then fun _ => gives_then fun _ => calm_bind (vread_calm ..) (calm_refl _) fun ⟨_, _⟩ h1 => gives_then fun _ => gives_then fun _ => gives_then fun _ =>
    calm_bind₁ (unit ..) h1 fun _ h2 => gives_then fun _ => gives_ok (by simp [h2])

theorem vword_calm {occ : Nat} {chk : VIn → Res Unit} : Calms quiet s (s.vword h occ chk go) := vwordIf_calm unit

end

theorem arith_calm (s : State) (w : Wt) (o : VArith) (h : Shape) : Calms quiet s (s.arith w o h) := vword_calm fun _ _ => putElems_calm ..
theorem lanes_calm (s : State) (w : Wt) (h : Shape) (lat : Nat) (f : Nat → Nat → Nat) : Calms quiet s (s.lanes w h lat f) :=
  vword_calm fun _ _ => putElems_calm ..
theorem vshift_calm (s : State) (w : Wt) (f : ETy → Nat → Nat → Nat) : Calms quiet s (s.vshift w f) := by
  unfold State.vshift
  exact vwordIf_calm fun _ _ => putElems_calm ..

theorem cvt_calm (s : State) (w : Wt) (scaled : Bool) : Calms quiet s (s.cvt w scaled) := by
  unfold State.cvt
  exact vwordIf_calm fun _ _ => putElems_calm ..

theorem rotWord_calm (s : State) (w : Wt) (lat : Nat) (limit : Option Nat) (f : Nat → Nat → Nat → Nat × Nat) : Calms quiet s (s.rotWord w lat limit f) := by
  unfold State.rotWord
  exact vwordIf_calm fun _ _ => putElems_calm ..

theorem reduceWord_calm (s : State) (w : Wt) (lat : Nat) (rows : Bool) : Calms quiet s (s.reduceWord w lat rows) :=
  vword_calm fun _ _ => putElems_calm ..
theorem special_calm (s : State) (w : Wt) (fn : SFun) : Calms quiet s (s.special w fn) := vword_calm fun _ _ => putElems_calm ..
theorem bitWord_calm (s : State) (w : Wt) (mul : Bool) (lat : Nat) (f : Nat → Nat → Nat → Nat) : Calms quiet s (s.bitWord w mul lat f) :=
  vword_calm fun _ _ => putElems_calm ..

theorem vsel_calm (s : State) (w : Wt) : Calms quiet s (s.vsel w) :=
  gives_then fun _ => calm_bind (vread_calm ..) (calm_refl _) fun ⟨_, _⟩ h1 => gives_then fun _ => gives_then fun _ =>
    calm_bind₁ (putElems_calm ..) h1 fun _ h2 => gives_then fun _ => gives_ok (by simp [h2])

theorem maskWord_calm {s : State} {w : Wi} {h : Shape} {ok : Bool} {go : BitVec 1024 → BitVec 1024 → BitVec 1024 → State → Res State}
    (unit : ∀ p a b u, Calms quiet u (go p a b u)) : Calms quiet s (s.maskWord w h ok go) :=
  gives_then fun _ => gives_then fun _ => gives_then fun _ => gives_then fun _ =>
    calm_bind₁ (unit ..) (calm_refl _) fun _ h1 => gives_then fun _ => gives_ok (by simp [h1])

theorem maskOp_calm (s : State) (w : Wi) (h : Shape) (f : BitVec 1024 → BitVec 1024 → BitVec 1024) : Calms quiet s (s.maskOp w h f) :=
  maskWord_calm fun _ _ _ _ => gives_ok (calm_refl _)

/-! ### Matrix words (R260 to R276) -/

theorem takeUnit_calm (s : State) (u : MUnit) : Calms quiet s (s.takeUnit u) := by
  cases u with
  | matrix n => exact gives_ite (gives_ok (calm_refl _)) (gives_error _)
  | acc n => exact gives_ite (gives_ok (calm_refl _)) (gives_error _)
  | none => exact gives_ok (calm_refl _)

theorem mword_calm {s : State} {h : Shape} {u : MUnit} {chk : Res Unit} {waits : Bool} {go : VIn → State → Res State}
    (unit : ∀ x v, Calms quiet v (go x v)) : Calms quiet s (s.mword h u chk waits go) :=
  gives_then fun _ => calm_bind (vread_calm ..) (calm_refl _) fun ⟨_, _⟩ h1 => gives_then fun _ => gives_then fun _ => gives_then fun _ =>
    calm_bind₁ (takeUnit_calm ..) h1 fun _ h2 => calm_bind₁ (unit ..) h2 fun _ h3 => gives_then fun _ => gives_ok (by simp [h3])

@[simp] theorem face_dense (s : State) (d : OpField) (at_ bt : ETy) (anchor : Int) (set : Option Int) (x : VIn)
    (bf : ETy → List VReg → Nat → Nat → FVal) : face (s.dense d at_ bt anchor set x bf) = face s := face_pend ..

theorem mmas_calm (s : State) (w : Wt) : Calms quiet s (s.mmas w) :=
  gives_then fun _ => calm_bind (vread_calm ..) (calm_refl _) fun ⟨_, _⟩ h1 => gives_then fun _ => gives_then fun _ => gives_then fun _ => gives_then fun _ =>
    calm_bind₁ (takeUnit_calm ..) h1 fun _ h2 => gives_then fun _ => gives_ok (by simp [h2])

theorem mmaf_calm (s : State) (w : Wt) : Calms quiet s (s.mmaf w) :=
  gives_then fun _ => calm_bind (vread_calm ..) (calm_refl _) fun ⟨_, _⟩ h1 => gives_then fun _ => gives_then fun _ => gives_then fun _ => gives_then fun _ =>
    calm_bind₁ (takeUnit_calm ..) h1 fun _ h2 => gives_then fun _ => gives_ok (by simp [h2])

theorem anchorWord_calm (s : State) (w : Wt) (a : Int) : Calms quiet s (s.anchorWord w a) := mword_calm fun _ _ => gives_ok (calm_of_face (face_pend ..))

theorem tileSum_calm (s : State) (w : Wt) (f : Lane → Lane) : Calms quiet s (s.tileSum w f) := by
  unfold State.tileSum
  exact mword_calm fun _ _ => gives_ok (calm_of_face (face_pend ..))

theorem rslv_calm (s : State) (w : Wt) : Calms quiet s (s.rslv w) :=
  gives_then fun _ => gives_then fun _ => gives_then fun _ => gives_then fun _ => gives_then fun _ => gives_then fun _ =>
    calm_bind₁ (takeUnit_calm ..) (calm_refl _) fun _ h1 => calm_bind₁ (putElems_calm ..) h1 fun _ h2 => gives_then fun _ => gives_ok (by simp [h2])

theorem tileStore_calm (s : State) (w : Wm) (canon : Bool) : Calms quiet s (s.tileStore w canon) :=
  gives_then fun _ => calm_bind (sources_calm ..) (calm_refl _) fun ⟨⟨_, _, _⟩, _⟩ h1 => gives_then fun _ => gives_then fun _ => gives_then fun _ =>
    withPort_calm (calm_refl _) h1 fun _ h2 => calm_bind (joinW_calm ..) h2 fun _ h3 => gives_then fun _ => gives_ok (by simp [h3])

theorem tileLoad_calm (s : State) (w : Wm) (canon : Bool) : Calms quiet s (s.tileLoad w canon) :=
  gives_then fun _ => calm_bind (sources_calm ..) (calm_refl _) fun ⟨⟨_, _, _⟩, _⟩ h1 => gives_then fun _ => gives_then fun _ => gives_then fun _ =>
    withPort_calm (calm_refl _) h1 fun _ h2 => calm_bind (joinW_calm ..) h2 fun _ h3 => gives_ok (by simp [h3])

theorem fmtt_calm (s : State) (w : Wt) : Calms quiet s (s.fmtt w) :=
  gives_then fun _ => gives_then fun _ => gives_then fun _ => gives_then fun _ => gives_then fun _ => gives_then fun _ =>
    gives_ok (calm_touchRow (calm_refl _) _)

end
end Sys2Proof.Proofs
end


section
/-!
PROOFS. The words of tier migration: what they write as they issue keeps memory's form (R234 to R236, R323).
-/

namespace Sys2Proof.Proofs
open Sys2Proof Sys2Proof.Machine

section
variable {quiet : Prop}

/-! ### Tier migration (R234 to R236) -/

theorem memForm_popFrame {s : State} (c : Core) (pool i : Nat) (h : s.memForm) : (s.popFrame c pool i).2.memForm :=
  ite_both (P := State.memForm) (memForm_postJob _ _ (memForm_writeMem _ _ h)) (memForm_writeMem _ _ h)

theorem memForm_layMoves {s : State} (c : Core) (pool tier : Nat) (moves : TPage → Bool) (l : List TPage) (h : s.memForm) :
    (s.layMoves c pool tier moves l).2.memForm := by
  induction l generalizing s with
  | nil => exact h
  | cons p l ih =>
    unfold State.layMoves
    split
    · exact ih h
    · exact ih (memForm_popFrame _ _ _ h)

theorem startMig_calm (s : State) (w : Wm) (pool : Nat) (pages : List MigPage) : Calms quiet s (s.startMig w pool pages) :=
  calm_bind (joinW_calm ..) (calm_refl _) fun _ h1 => calm_bind₁ (writeS_calm ..) h1 fun _ h2 => gives_ok h2

theorem tierStatus_calm (s : State) (w : Wm) (v : Word) : Calms quiet s (s.tierStatus w v) :=
  calm_bind₁ (writeS_calm ..) (calm_refl _) fun _ h1 => gives_ok (by simp [h1])

theorem tierRange_calm (s : State) (w : Wm) (h : Shape) : CalmsOf quiet s (s.tierRange w h) :=
  gives_then fun _ => gives_bind (sources_calm ..) fun ⟨⟨_, _, _⟩, _⟩ h1 => gives_then fun _ => gives_then fun _ => gives_ok h1

/-- The pages of an accepted command are counted at its region nodes and its migration is recorded. -/
theorem migrates_calm (loud : ¬ quiet) {s u : State} (h : Calm quiet (face u) (face s)) (w : Wm) (pool tier use : Nat) (d : Int) (path : List Nat) (c : Core)
    (moves : TPage → Bool) (ps : List TPage) :
    Calms quiet s (((u.addUse use d path).layMoves c pool tier moves ps).2.startMig w pool ((u.addUse use d path).layMoves c pool tier moves ps).1) :=
  calm_after (startMig_calm ..) ((calm_of_form loud fun form => memForm_layMoves _ _ _ _ _ (memForm_addUse _ _ _ form)).trans h)

theorem tierin_calm (loud : ¬ quiet) (s : State) (w : Wm) : Calms quiet s (s.tierin w) := by
  refine calm_bind (tierRange_calm ..) (calm_refl _) fun ⟨ps, s1⟩ h1 => ?_
  dsimp -zeta only
  extract_lets moves mv cxl path pool take give accepted
  have goes : ∀ r, Calms quiet s (accepted r) := fun _ => gives_then fun _ => gives_then fun _ =>
    gives_ite (calm_after (tierStatus_calm ..) h1) (gives_then fun _ =>
      gives_ite (calm_after (tierStatus_calm ..) h1) (migrates_calm loud h1 ..))
  clear_value accepted give cxl
  cases cxl with
  | nil => exact gives_then goes
  | cons p l => exact gives_then goes

theorem tierev_calm (loud : ¬ quiet) (s : State) (w : Wm) : Calms quiet s (s.tierev w) := by
  refine calm_bind (tierRange_calm ..) (calm_refl _) fun ⟨ps, s1⟩ h1 => ?_
  dsimp -zeta only
  extract_lets moves mv flash path pool give take accepted
  refine gives_then fun _ => ?_
  have goes : ∀ r, Calms quiet s (accepted r) := fun _ => gives_then fun _ => gives_then fun _ =>
    gives_ite (calm_after (tierStatus_calm ..) h1) (gives_then fun _ =>
      gives_ite (gives_ite (calm_after (tierStatus_calm ..) h1) (calm_after (startMig_calm ..) h1))
        (gives_ite (calm_after (tierStatus_calm ..) h1) (migrates_calm loud h1 ..)))
  clear_value accepted take give mv
  cases mv with
  | nil => exact gives_then goes
  | cons p l => exact gives_ite (gives_then goes) (gives_then goes)

theorem tierq_calm (s : State) (w : Wm) : Calms quiet s (s.tierq w) := by
  refine gives_then fun _ => calm_bind (sources_calm ..) (calm_refl _) fun ⟨⟨_, _, _⟩, _⟩ h1 => gives_then fun _ => gives_then fun _ => ?_
  split
  · exact gives_error _
  · exact gives_then fun _ => calm_bind₁ (writeS_calm ..) h1 fun _ h2 => gives_ok (by simp [h2])

end
end Sys2Proof.Proofs
end

section
/-!
PROOFS. The Orrery's commands as they are applied: while no context of the die is swapped out, only a fork's copy and an image write memory
(R132 to R144, R323).
-/

namespace Sys2Proof.Proofs
open Sys2Proof Sys2Proof.Machine

section
variable {quiet : Prop}

/-! ### Contexts that are there (R141, R142) -/

/-- `s` comes calmly from what `f` shows, and, where that is asked for, no context of the die is swapped out. -/
structure Warm (quiet : Prop) (die : Nat) (f : Face) (s : State) : Prop where
  calm : Calm quiet (face s) f
  hot : quiet → ∀ c ∈ (s.die die).ctxs, c.hot = true

variable {die : Nat} {f : Face} {s : State}

theorem warm_of_loud (loud : ¬ quiet) (h : Calm quiet (face s) f) : Warm quiet die f s := ⟨h, fun q => (loud q).elim⟩

theorem warm_of_dies {t : State} (h : Warm quiet die f s) (calm : Calm quiet (face t) f) (dies : t.dies = s.dies) : Warm quiet die f t :=
  ⟨calm, fun q c here => h.hot q c (by rwa [State.die, dies] at here)⟩

/-- A change of a die leaves no other contexts than it makes. -/
theorem mem_ctxs_updDie {g : Die → Die} {c : Ctx} (h : c ∈ ((s.updDie die g).die die).ctxs) : c ∈ (g (s.die die)).ctxs := by
  by_cases there : die < s.dies.length
  · rwa [die_updDie there] at h
  · rw [State.die, State.updDie_dies, List.getD_eq_default _ _ (by simpa using there)] at h
    cases h

theorem warm_updDie {g : Die → Die} (h : Warm quiet die f s) (keeps : (g (s.die die)).ctxs = (s.die die).ctxs) : Warm quiet die f (s.updDie die g) :=
  ⟨h.calm, fun q c here => h.hot q c (keeps ▸ mem_ctxs_updDie here)⟩

theorem warm_updCtx (h : Warm quiet die f s) (n : Nat) {g : Ctx → Ctx} (keeps : ∀ c, c.hot = true → (g c).hot = true) :
    Warm quiet die f (s.updCtx die n g) := by
  refine ⟨h.calm, fun q c here => ?_⟩
  obtain ⟨c, old, rfl⟩ := List.mem_map.1 (mem_ctxs_updDie here)
  have hot := h.hot q c old
  exact ite_both (P := fun c : Ctx => c.hot = true) (keeps c hot) hot

/-- The entry of a granule changes; a context that is there has no image in memory to change with it. -/
theorem warm_setEnt (h : Warm quiet die f s) (num gr : Nat) (g : MapEnt → MapEnt) : Warm quiet die f (s.setEnt die num gr g) := by
  unfold State.setEnt
  split
  · exact h
  · rename_i c found
    have changed := warm_updCtx h num (g := fun c' => { c' with map := Sparse.set c'.map gr (g (Sparse.get c.map gr)) }) fun _ hot => hot
    cases cold : c.hot with
    | true => exact changed
    | false =>
      have loud : ¬ quiet := fun q => by
        rw [h.hot q c (List.mem_of_find?_eq_some found)] at cold
        cases cold
      exact warm_of_loud loud ((calm_of_form loud (memForm_devWrite _ _)).trans changed.calm)

theorem warm_giveBack (h : Warm quiet die f s) (ctx gr : Nat) : Warm quiet die f (s.giveBack die ctx gr) := by
  unfold State.giveBack
  split
  · exact h
  · exact ite_both (P := Warm quiet die f) h (warm_updCtx (warm_setEnt (warm_setEnt h ..) ..) _ fun _ hot => hot)

theorem warm_giveBackAll (h : Warm quiet die f s) (ctx : Nat) (l : List Nat) : Warm quiet die f (s.giveBackAll die ctx l) := by
  induction l generalizing s with
  | nil => exact h
  | cons x l ih => exact ih (warm_giveBack h ..)

theorem warm_borrowAll (h : Warm quiet die f s) (src dst : Nat) (l : List Nat) : Warm quiet die f (s.borrowAll die src dst l) := by
  induction l generalizing s with
  | nil => exact h
  | cons x l ih => exact ih (warm_updCtx (warm_setEnt (warm_setEnt (warm_giveBack h ..) ..) ..) _ fun _ hot => hot)

/-! ### How a command ends or stays -/

@[simp] theorem face_updCtx (s : State) (die n : Nat) (g : Ctx → Ctx) : face (s.updCtx die n g) = face s := rfl
@[simp] theorem face_finishK (s : State) (die : Nat) (o : KOp) (e : Option FaultInfo) : face (s.finishK die o e) = face s := face_endOp ..
@[simp] theorem face_keepK (s : State) (die : Nat) (o : KOp) (cmd : KCmd) : face (s.keepK die o cmd) = face s := rfl
@[simp] theorem face_endStatus (s : State) (die : Nat) (o : KOp) (dst : DestRef) (n : Nat) : face (s.endStatus die o dst n) = face s :=
  (face_finishK ..).trans (face_deliver ..)
@[simp] theorem face_countFor (s : State) (lrec job n k : Nat) : face (s.countFor lrec job n k) = face s := face_updJob ..
@[simp] theorem face_swapBack (s : State) (die : Nat) (c : Ctx) : face (s.swapBack die c) = face s := rfl
@[simp] theorem face_blockK (s : State) (die : Nat) (o : KOp) (keys : List Nat) : face (s.blockK die o keys) = face s := face_ite rfl rfl

/-- A command whose accesses may be served goes on; else it waits. -/
theorem calm_gateK {o : KOp} {reads writes : List Nat} {go : State → State} (h : Calm quiet (face s) f)
    (next : ∀ u, Calm quiet (face u) f → Calm quiet (face (go u)) f) : Calm quiet (face (s.gateK die o reads writes go)) f := by
  refine calm_ite h ?_
  split
  · exact h
  · rwa [face_blockK]
  · exact next _ (calm_touchRows h _)

/-! ### Commands that write as they are applied -/

theorem memForm_makeMoves {s : State} (l : List GMove) (h : s.memForm) : (s.makeMoves l).memForm := by
  induction l generalizing s with
  | nil => exact h
  | cons m l ih => exact ih (memForm_copyFrame _ _ _ h)

theorem calm_applyFork (loud : ¬ quiet) (h : Calm quiet (face s) f) (o : KOp) (par : Ctx) (slab area k kmax ptb p : Nat) (dst : DestRef) :
    Calm quiet (face (s.applyFork die o par slab area k kmax ptb p dst)) f := by
  unfold State.applyFork
  extract_lets d
  split
  · simpa using h
  · rename_i num _
    extract_lets ch shared mv err ch1 make
    have made : ∀ u, Calm quiet (face u) f → Calm quiet (face (make u)) f := fun u hu => by
      have listed : Calm quiet (face (u.updDie die fun d => { d with ctxs := d.ctxs ++ [ch1.takeNodes par 0 (p + 1)] })) f := hu
      exact (calm_of_face (face_deliver ..)).trans (warm_borrowAll (die := die) (warm_of_loud loud listed) par.num num shared).calm
    have moved : ∀ u, Calm quiet (face u) f → Calm quiet (face (u.makeMoves mv)) f := fun u hu => (calm_of_form loud (memForm_makeMoves _)).trans hu
    clear_value make err
    refine calm_ite (by simpa using h) (calm_ite (by simpa using h) ?_)
    cases err with
    | some e => simpa using made _ h
    | none => exact calm_gateK h fun u hu => by simpa using moved _ (made _ hu)

theorem calm_swapOut (loud : ¬ quiet) (h : Calm quiet (face s) f) (c : Ctx) (pages : List (Nat × Nat)) (va : Nat) :
    Calm quiet (face (s.swapOut die c pages va)) f := by
  unfold State.swapOut
  rw [face_updCtx]
  refine Calm.trans (calm_of_form loud (memForm_writeIn _ _ _)) ?_
  exact h

/-- A command that writes memory as it is applied: a fork copies its last unit, a context swapped out writes its image (R137, R142). -/
def KCmd.writesNow : KCmd → Bool
  | .fork .. => true
  | .smout .. => true
  | _ => false

/-! ### Commands that write nothing -/

theorem calm_applyShare (h : Warm quiet die f s) (o : KOp) (tgt : Ctx) (src a n : Nat) (dst : DestRef) :
    Calm quiet (face (s.applyShare die o tgt src a n dst)) f := by
  unfold State.applyShare
  split
  · simpa using h.calm
  · exact calm_ite (by simpa using h.calm) (by simpa using (warm_borrowAll h ..).calm)

/-- A command applied while no context is swapped out writes nothing, a fork's copy and an image aside. -/
theorem calm_applyK (h : Warm quiet die f s) (o : KOp) (gentle : quiet → KCmd.writesNow o.cmd = false) : Calm quiet (face (s.applyK die o)) f := by
  have calm := h.calm
  unfold State.applyK
  split
  · simpa using calm
  · dsimp only
    split
    case h_6 e => exact calm_applyFork (fun q => by simpa [e, KCmd.writesNow] using gentle q) calm ..
    case h_7 => exact calm_applyShare h ..
    case h_8 => exact calm_ite (by simpa using calm) (by simpa using (warm_giveBackAll h ..).calm)
    case h_9 =>
      refine calm_ite (by simpa using calm) ?_
      split
      · simpa using calm
      · exact calm_gateK calm fun u hu => by simpa using hu
    case h_10 =>
      refine calm_ite (by simpa using calm) (calm_ite (by simpa using calm) ?_)
      split
      · simpa using calm
      · exact calm_gateK calm fun u hu => by simpa using hu
    case h_11 e =>
      exact calm_ite (by simpa using calm) (calm_gateK calm fun u hu => by
        simpa using calm_swapOut (fun q => by simpa [e, KCmd.writesNow] using gentle q) hu ..)
    case h_13 => exact calm_ite (by simpa using calm) (calm_ite (by simpa using calm) (by simpa using calm))
    all_goals simpa using calm

end
end Sys2Proof.Proofs
end

section
/-!
PROOFS. The Orrery's words are calm while no context of the die is swapped out, those that write as they are applied aside (R287 to R295, R323).
-/

namespace Sys2Proof.Proofs
open Sys2Proof Sys2Proof.Machine

section
variable {quiet : Prop}

/-! ### A word at the Orrery -/

/-- A state in which the die's Orrery may apply a command of the core under view. -/
structure Ready (quiet : Prop) (die : Nat) (f : Face) (s : State) : Prop extends Warm quiet die f s where
  did : s.core.did = die

section
variable {die : Nat} {f : Face} {s : State}

theorem ready_atIssue {t : State} (h : Ready quiet die f s) (issues : AtIssue s t) : Ready quiet die f t := by
  obtain ⟨_, _, _, _, _, _, _, _, _, rfl⟩ := issues
  exact ⟨warm_of_dies h.toWarm h.calm rfl, h.did⟩

theorem ready_touchRows (h : Ready quiet die f s) (l : List Nat) : Ready quiet die f (s.touchRows l) := by
  have dies := die_of_dies_map (g := Die.ctxs) (dieView_touchRows (fun _ _ => rfl) s l) die
  have core : (s.touchRows l).core = s.core := served_core (served_touchRows ..)
  exact ⟨⟨calm_touchRows h.calm _, fun q c here => h.hot q c (dies ▸ here)⟩, core ▸ h.did⟩

theorem ready_fillTlb (h : Ready quiet die f s) (va : Nat) : Ready quiet die f (s.fillTlb va) := by
  have did : (s.fillTlb va).core.did = die := by
    obtain ⟨_, _, t, -, e⟩ := fillTlb_frame s va
    rw [e]
    exact h.did
  refine ⟨?_, did⟩
  unfold State.fillTlb
  extract_lets ptb cl
  split
  · exact h.toWarm
  · split
    · exact h.toWarm
    · extract_lets t add miss walked s0 s1
      have h0 : Ready quiet die f s0 := ite_both (P := Ready quiet die f) (ready_touchRows h _) h
      have h1 : Warm quiet die f s1 := h.did.symm ▸ warm_updDie (h.did ▸ h0.toWarm) rfl
      exact warm_of_dies h1 h1.calm rfl

theorem ready_fillTlbs (h : Ready quiet die f s) (l : List Nat) : Ready quiet die f (s.fillTlbs l) := by
  unfold State.fillTlbs
  generalize (l.map (· / 65536)).dedup = pages
  induction pages generalizing s with
  | nil => exact h
  | cons a r ih => exact ih (ready_fillTlb h _)

theorem joinW_ready (h : Ready quiet die f s) (w : Wm) : Gives (fun x => Ready quiet die f x.2) (s.joinW w) :=
  gives_ite (gives_error _) (gives_ok (ready_atIssue h (atIssue_joinIf ..)))

theorem reserveS_ready (h : Ready quiet die f s) (d : OpField) : Gives (fun x => Ready quiet die f x.2) (s.reserveS d) := by
  have kept : ∀ t : State, Calm quiet (face t) f → t.dies = s.dies → t.core.did = s.core.did → Ready quiet die f t := fun t calm dies did =>
    ⟨warm_of_dies h.toWarm calm dies, did.trans h.did⟩
  refine gives_ite (gives_ite (gives_ok h) (gives_ite (gives_error _) (gives_ok (kept _ h.calm rfl ?_)))) (gives_ite (gives_ok (kept _ h.calm rfl rfl)) (gives_error _))
  simp

theorem ready_swapBack (h : Ready quiet die f s) (c : Ctx) : Ready quiet die f (s.swapBack s.core.did c) := by
  rw [h.did]
  exact ⟨warm_updCtx h.toWarm _ fun _ _ => rfl, h.did⟩

theorem swapIn_ready (h : Ready quiet die f s) (cs : List Ctx) (counted : Bool) : Gives (Ready quiet die f) (s.swapIn cs counted) := by
  unfold State.swapIn
  extract_lets cold keys s1
  split
  · exact gives_error _
  · have swapped : ∀ (l : List Ctx) (u : State), Ready quiet die f u → Ready quiet die f (l.foldl (fun s c => s.swapBack s.core.did c) u) := by
      intro l
      induction l with
      | nil => exact fun _ hu => hu
      | cons c l ih => exact fun u hu => ih _ (ready_swapBack hu c)
    have h1 : Ready quiet die f s1 := swapped _ _ (ready_touchRows h _)
    clear_value s1
    exact gives_then fun _ => gives_ok (ite_both (P := Ready quiet die f) ⟨warm_of_dies h1.toWarm h1.calm rfl, h1.did⟩ h1)

/-- A command that does not write memory at once, put in the list and perhaps applied. -/
theorem calm_addK (h : Ready quiet die f s) (w : Wm) (tok : Option TokRef) (ctx : Nat) {cmd : KCmd} (gentle : quiet → KCmd.writesNow cmd = false) :
    Calm quiet (face (s.addK w tok ctx cmd)) f := by
  have listed : ∀ o : KOp, Warm quiet s.core.did f (s.fresh.2.updDie s.core.did fun d => { d with kops := d.kops ++ [o] }) := fun o =>
    warm_updDie (warm_of_dies (s := s) (h.did ▸ h.toWarm) h.calm rfl) rfl
  exact calm_ite (calm_applyK (listed _) _ gentle) (listed _).calm

/-- A new context's command is applied by its background work alone. -/
theorem face_addNew (s : State) (w : Wm) (tok : Option TokRef) (ctx : Nat) : face (s.addK w tok ctx .new) = face s := rfl

theorem submitK_calm {s u : State} (h : Ready quiet die (face s) u) {w : Wm} {c : Ctx} {cmd : DestRef → KCmd} (gentle : ∀ d, quiet → KCmd.writesNow (cmd d) = false)
    {result : Bool} {cs : List Ctx} {counted : Bool} : Calms quiet s (u.submitK w c cmd result cs counted) := by
  have ends : ∀ (t : Option TokRef) (dst : DestRef) (x : State), Ready quiet die (face s) x →
      Calms quiet s (if u.mapFull cs then .ok (((x.deliver dst (statusWord 3 0)).endOp t none).retire 1)
        else .ok ((x.addK w t c.num (cmd dst)).retire 1)) := fun t dst x hx =>
    gives_ite (gives_ok (by simpa using hx.calm)) (gives_ok (by simpa using calm_addK hx w t c.num (gentle dst)))
  have rest : ∀ x, Ready quiet die (face s) x → Calms quiet s (do
      let (t, s1) ← x.joinW w
      let (d, s2) ← if result then s1.reserveS w.d else .ok (.none, s1)
      let dst := u.destRef d
      if u.mapFull cs then .ok (((s2.deliver dst (statusWord 3 0)).endOp t none).retire 1)
      else .ok ((s2.addK w t c.num (cmd dst)).retire 1)) := fun x hx =>
    gives_bind (joinW_ready hx w) fun ⟨t, _⟩ h1 => by
      cases result with
      | true => exact gives_bind (reserveS_ready h1 w.d) fun ⟨d, _⟩ h2 => ends t (u.destRef d) _ h2
      | false => exact ends t (u.destRef .none) _ h1
  exact gives_ite (gives_bind (P := Ready quiet die (face s)) (gives_ok h) rest) (gives_bind (swapIn_ready h cs counted) rest)

end

/-! ### Acceptance (R283, R286) -/

/-- Reading sources changes the core under view alone. -/
theorem sources_core (s : State) (h : Shape) : Gives (fun x => ∃ c, x.2 = { s with core := c } ∧ c.did = s.core.did) (s.sources h) :=
  ⟨fun ⟨⟨_, _, _⟩, _⟩ e =>
    let ⟨_, frame⟩ := sources_frame e
    ⟨_, frame, rfl⟩⟩

section
variable {s : State} (warm : quiet → ∀ c ∈ (s.die s.core.did).ctxs, c.hot = true)
include warm

theorem accept_ready {u : State} {go : State → Res State} (core : ∃ c, u = { s with core := c } ∧ c.did = s.core.did)
    (next : ∀ x, Ready quiet s.core.did (face s) x → Calms quiet s (go x)) : Calms quiet s (s.accept .orrery u go) := by
  obtain ⟨c, rfl, did⟩ := core
  unfold State.accept
  split
  · exact gives_ok (calm_refl _)
  · exact gives_ite (next _ ⟨warm_updDie (s := { s with core := c }) ⟨calm_refl _, warm⟩ rfl, did⟩) (gives_error _)

theorem kword_ready {w : Wm} {h : Shape} {go : Word × Word × Word → State → Res State}
    (next : ∀ x u, Ready quiet s.core.did (face s) u → Calms quiet s (go x u)) : Calms quiet s (s.kword w h go) :=
  gives_then fun _ => gives_bind (sources_core s h) fun ⟨x, _⟩ core => gives_then fun _ => gives_then fun _ => accept_ready warm core (next x)

theorem kdesc_ready {w : Wm} {h : Shape} {go : Word × Word × Word → List Byte → State → Res State}
    (next : ∀ x bs u, Ready quiet s.core.did (face s) u → Calms quiet s (go x bs u)) : Calms quiet s (s.kdesc w h go) := by
  refine gives_then fun _ => gives_bind (sources_core s h) fun ⟨x, u⟩ core => ?_
  show Calms quiet s (s.acceptDesc .orrery w x.1 u (go x))
  unfold State.acceptDesc
  split
  · exact gives_error _
  · rename_i t sent
    exact gives_ok (descriptor_calm sent : Calm quiet (face t) _)
  · exact accept_ready warm core (next x _)

/-! ### The Orrery's words (R287 to R295) -/

theorem kvnew_calm (w : Wm) : Calms quiet s (s.kvnew w) := by
  refine kdesc_ready warm fun _ bs u hu => gives_then fun _ => gives_then fun _ => calm_bind (joinW_calm ..) hu.calm fun ⟨_, _⟩ h1 =>
    calm_bind (reserveS_calm ..) h1 fun ⟨_, _⟩ h2 => ?_
  dsimp only
  split
  · exact gives_ok (by simp [h2])
  · exact gives_ite (gives_ok (by simp [h2])) (gives_ok (by simp [face_addNew, h2]))

theorem kvfree_calm (w : Wm) : Calms quiet s (s.kvfree w) :=
  kword_ready warm fun ⟨_, _, _⟩ _ hu => gives_then fun _ => gives_then fun _ => gives_then fun _ => submitK_calm hu fun _ _ => rfl

theorem kvfork_calm (loud : ¬ quiet) (w : Wm) : Calms quiet s (s.kvfork w) := by
  refine kdesc_ready warm fun ⟨_, _, _⟩ bs u hu => gives_then fun _ => gives_then fun _ => gives_then fun _ => gives_then fun _ => gives_then fun _ =>
    gives_then fun _ => gives_then fun _ => gives_then fun _ => ?_
  split
  · exact gives_error _
  · exact submitK_calm hu fun _ q => (loud q).elim

theorem kvshare_calm (w : Wm) : Calms quiet s (s.kvshare w) :=
  kword_ready warm fun ⟨_, _, _⟩ _ hu => gives_then fun _ => gives_then fun _ => gives_then fun _ => gives_then fun _ => gives_then fun _ =>
    gives_then fun _ => gives_then fun _ => submitK_calm hu fun _ _ => rfl

theorem kvstat_calm (w : Wm) : Calms quiet s (s.kvstat w) :=
  kword_ready warm fun ⟨_, _, _⟩ _ hu => gives_then fun _ => gives_then fun _ => gives_then fun _ => gives_then fun _ => gives_then fun _ =>
    submitK_calm (ready_fillTlbs hu _) fun _ _ => rfl

theorem kvw_calm (w : Wm) : Calms quiet s (s.kvw w) := by
  refine kword_ready warm fun ⟨_, _, _⟩ u hu => gives_then fun _ => gives_then fun _ => gives_then fun _ => gives_then fun _ => gives_then fun _ =>
    gives_then fun _ => gives_then fun _ => gives_then fun _ => gives_then fun _ => gives_then fun _ => ?_
  split
  · exact calm_bind (joinW_calm ..) (ready_touchRows (ready_fillTlbs hu _) _).calm fun ⟨_, _⟩ h1 => gives_ok (by simp [h1])
  · exact submitK_calm (ready_touchRows (ready_fillTlbs hu _) _) fun _ _ => rfl

theorem kvrnw_calm (w : Wm) : Calms quiet s (s.kvrnw w) :=
  kword_ready warm fun ⟨_, _, _⟩ _ hu => gives_then fun _ => gives_then fun _ => gives_then fun _ => gives_then fun _ => submitK_calm hu fun _ _ => rfl

theorem kvexp_calm (w : Wm) : Calms quiet s (s.kvexp w) :=
  kword_ready warm fun ⟨_, _, _⟩ _ hu => gives_then fun _ => gives_then fun _ => gives_then fun _ => gives_then fun _ => submitK_calm hu fun _ _ => rfl

theorem position_calm (w : Wm) {cmd : Nat → KCmd} (gentle : ∀ n, KCmd.writesNow (cmd n) = false) : Calms quiet s (s.position w cmd) :=
  kword_ready warm fun ⟨_, _, _⟩ _ hu => gives_then fun _ => gives_then fun _ => gives_then fun _ => gives_then fun _ => gives_then fun _ =>
    submitK_calm hu fun _ _ => gentle _

theorem mapWord_calm (w : Wm) {cmd : DestRef → KCmd} (gentle : ∀ d, KCmd.writesNow (cmd d) = false) (swaps : Bool) : Calms quiet s (s.mapWord w cmd swaps) :=
  kword_ready warm fun ⟨_, _, _⟩ _ hu => gives_then fun _ => gives_then fun _ => submitK_calm hu fun d _ => gentle d

theorem smout_calm (loud : ¬ quiet) (w : Wm) : Calms quiet s (s.smout w) :=
  kword_ready warm fun ⟨_, _, _⟩ _ hu => gives_then fun _ => gives_then fun _ => gives_then fun _ => gives_then fun _ => gives_then fun _ =>
    gives_then fun _ => gives_then fun _ => submitK_calm (ready_fillTlbs hu _) fun _ q => (loud q).elim

theorem slabgr_calm (w : Wm) : Calms quiet s (s.slabgr w) := by
  refine kword_ready warm fun ⟨_, _, _⟩ _ hu => gives_then fun _ => gives_then fun _ => gives_then fun _ => gives_then fun _ => gives_then fun _ =>
    gives_then fun _ => gives_then fun _ => ?_
  split
  · exact gives_error _
  · exact submitK_calm hu fun _ _ => rfl

end
end
end Sys2Proof.Proofs
end


section
/-!
PROOFS. The words of attention, the Sluice, the Pan filter and the system unit are calm; so is every word that issues and whose gang runs on
(R323).
-/

namespace Sys2Proof.Proofs
open Sys2Proof Sys2Proof.Machine

section
variable {quiet : Prop}

/-! ### Attention (R277) -/

theorem swapIn_calm (s : State) (cs : List Ctx) (counted : Bool) : Calms quiet s (s.swapIn cs counted) := by
  unfold State.swapIn
  extract_lets cold keys s1
  split
  · exact gives_error _
  · have h1 : Calm quiet (face s1) (face s) := calm_foldl (g := fun s c => s.swapBack s.core.did c) (fun _ _ h => h) _ (calm_touchRows (calm_refl _) _)
    clear_value s1
    exact gives_then fun _ => gives_ok (calm_ite h1 h1)

theorem attnWord_calm (s : State) (w : Wt) (multi : Bool) : Calms quiet s (s.attnWord w multi) :=
  gives_then fun _ => calm_bind (vread_calm ..) (calm_refl _) fun ⟨_, _⟩ h1 => gives_then fun _ => accept_calm (calm_refl _) h1 fun _ h2 => gives_then fun _ =>
    calm_bind₁ (swapIn_calm ..) h2 fun _ h3 => calm_bind (joinWord_calm ..) h3 fun ⟨_, _⟩ h4 => gives_then fun _ =>
      gives_ok h4

/-! ### The Sluice (R296 to R298) -/

@[simp] theorem face_updEnd (s : State) (die n : Nat) (f : ChEnd → ChEnd) : face (s.updEnd die n f) = face s := rfl

@[simp] theorem face_closedEvent (s : State) (die : Nat) (e : ChEnd) (st : Nat) : face (s.closedEvent die e st) = face s :=
  face_ite (face_updJob ..) rfl

theorem xopen_calm (s : State) (w : Wm) : Calms quiet s (s.xopen w) := by
  refine gives_then fun _ => calm_bind (sources_calm ..) (calm_refl _) fun ⟨⟨_, _, _⟩, _⟩ h1 => acceptDesc_calm h1 fun bs u hu => gives_then fun _ =>
    calm_bind (joinW_calm ..) hu fun ⟨t, s2⟩ h2 => ?_
  have fails : ∀ st : Nat, Calms quiet s (do
      let s3 ← s2.writeS w.d (statusWord st 0) 1
      Except.ok (ε := Halt) ((s3.endOp t none).retire 1)) := fun _ =>
    calm_bind₁ (writeS_calm ..) h2 fun _ h3 => gives_ok (by simp [h3])
  refine gives_ite (fails _) ?_
  split
  · exact fails _
  · exact calm_bind₁ (writeS_calm ..) h2 fun _ h3 => gives_ok h3

theorem xword_calm {s : State} {w : Wm} {h : Shape} {own : Res Unit} {role : Option Nat} {push : Bool}
    {go : Word × Word × Word → ChEnd → State → Res State} (next : ∀ x e u, Calm quiet (face u) (face s) → Calms quiet s (go x e u)) :
    Calms quiet s (s.xword w h own role push go) :=
  gives_then fun _ => gives_then fun _ => calm_bind (sources_calm ..) (calm_refl _) fun ⟨_, _⟩ h1 => gives_then fun _ => gives_then fun _ =>
    accept_calm (calm_refl _) h1 fun u hu => gives_then fun _ => gives_then fun e => next _ e u hu

theorem xreply_calm (s : State) (w : Wm) (e : ChEnd) (st : Nat) : Calms quiet s (s.xreply w e st) :=
  calm_bind₁ (writeS_calm ..) (calm_refl _) fun _ h1 => gives_ok (by simp [h1])

theorem xgrant_calm (s : State) (w : Wm) : Calms quiet s (s.xgrant w) := by
  unfold State.xgrant
  exact xword_calm fun _ _ _ hu => gives_ite (calm_after (xreply_calm ..) hu) (gives_then fun _ => gives_then fun _ =>
    calm_after (xreply_calm ..) hu)

theorem xsend_calm (s : State) (w : Wm) : Calms quiet s (s.xsend w) := by
  refine xword_calm fun ⟨_, _, _⟩ e u hu => gives_then fun _ => gives_then fun _ => gives_then fun _ => gives_then fun _ =>
    calm_bind (joinW_calm ..) hu fun ⟨t, s2⟩ h2 => ?_
  have replies : ∀ st, Calms quiet s ((s2.endOp t none).xreply w e st) := fun _ => calm_after (xreply_calm ..) (by simpa using h2)
  refine gives_ite (replies _) (gives_then fun _ => gives_ite (gives_ite (replies _) (gives_error _)) ?_)
  split
  · exact gives_error _
  · exact calm_after (xreply_calm ..) (by simp [h2])

theorem xrecv_calm (s : State) (w : Wm) : Calms quiet s (s.xrecv w) := by
  refine xword_calm fun _ e u hu => ?_
  have fails : ∀ st : Nat, Calms quiet s (do
      let s2 ← u.writeS w.d (recvWord st 0 0 0) 1
      Except.ok (ε := Halt) ((s2.closedEvent s.core.did e st).retire 1)) := fun _ =>
    calm_bind₁ (writeS_calm ..) hu fun _ h2 => gives_ok (by simp [h2])
  refine gives_ite (fails _) (gives_ite (fails _) (gives_then fun _ => ?_))
  extract_lets b
  cases e.bufs.getD b .free with
  | arrived seq user => exact calm_bind₁ (writeS_calm ..) hu fun _ h2 => gives_ok (by simp [h2])
  | free | granted | filling n => exact gives_ite (fails _) (gives_ite (fails _) (gives_error _))

theorem xclose_calm (s : State) (w : Wm) : Calms quiet s (s.xclose w) :=
  xword_calm fun _ _ _ hu => calm_bind (joinW_calm ..) hu fun ⟨_, _⟩ h2 =>
    gives_ite (calm_after (xreply_calm ..) (by rw [face_endOp]; exact calm_ite h2 (by simp [h2])))
      (gives_ite (calm_after (xreply_calm ..) (by simp [h2])) (calm_after (xreply_calm ..) (by simp [h2])))

theorem xstat_calm (s : State) (w : Wm) : Calms quiet s (s.xstat w) :=
  xword_calm fun _ _ _ hu => gives_ite (calm_after (xreply_calm ..) hu) (calm_bind₁ (writeS_calm ..) hu fun _ h2 => gives_ok (by simp [h2]))

/-! ### The Pan filter (R299 to R301) -/

@[simp] theorem face_setPan (s : State) (die n : Nat) (p : PanSlot) : face (s.setPan die n p) = face s := rfl

theorem memForm_panWrite {s : State} (die n : Nat) (r : PanRead) (h : s.memForm) : (s.panWrite die n r).memForm := by
  unfold State.panWrite
  extract_lets s1 s2
  have h1 : s1.memForm := h
  have h2 : s2.memForm := memForm_writeIn _ _ _ (memForm_touchRows _ h1)
  clear_value s1 s2
  exact memForm_ite (memForm_endOp _ _ h1) (memForm_endOp _ _ h2)

theorem memForm_panFlush {s : State} (die n : Nat) (l : List PanRead) (h : s.memForm) : (s.panFlush die n l).memForm := by
  induction l generalizing s with
  | nil => exact h
  | cons r l ih => exact ih (memForm_panWrite _ _ _ h)

theorem memForm_panServe {s : State} (die n : Nat) (l : List PanRead) (h : s.memForm) : (s.panServe die n l).memForm := by
  induction l generalizing s with
  | nil => exact h
  | cons r l ih =>
    refine memForm_ite (ih h) ?_
    split
    · exact ih (memForm_panWrite _ _ _ h)
    · exact ih h
    · exact ih (memForm_ite h h)

theorem pancfg_calm (s : State) (w : Wm) : Calms quiet s (s.pancfg w) := by
  refine gives_then fun _ => calm_bind (sources_calm ..) (calm_refl _) fun ⟨⟨_, _, _⟩, _⟩ h1 => acceptDesc_calm h1 fun bs u hu => gives_then fun _ =>
    gives_then fun _ => gives_then fun _ => gives_then fun _ => gives_then fun _ => ?_
  split
  · exact calm_bind₁ (writeS_calm ..) hu fun _ h2 => gives_ok (by simp [h2])
  · exact calm_bind₁ (writeS_calm ..) hu fun _ h2 => gives_ok (calm_fillTlbs (by exact h2) _)

theorem pancfgRel_calm (loud : ¬ quiet) (s : State) (w : Wm) : Calms quiet s (s.pancfgRel w) :=
  gives_then fun _ => calm_bind (sources_calm ..) (calm_refl _) fun ⟨⟨_, _, _⟩, _⟩ h1 => gives_then fun _ => gives_then fun _ =>
    accept_calm (calm_refl _) h1 fun _ hu => gives_then fun _ => gives_then fun ⟨_, _⟩ => gives_then fun _ =>
      calm_bind₁ (writeS_calm ..) hu fun _ h2 => gives_ok ((calm_of_form loud (memForm_panFlush _ _ _)).trans h2)

theorem panrd_calm (loud : ¬ quiet) (s : State) (w : Wm) : Calms quiet s (s.panrd w) :=
  gives_then fun _ => calm_bind (sources_calm ..) (calm_refl _) fun ⟨⟨_, _, _⟩, _⟩ h1 => gives_then fun _ => gives_then fun _ =>
    accept_calm (calm_refl _) h1 fun _ hu => gives_then fun _ => gives_then fun _ => gives_then fun ⟨_, _⟩ => gives_then fun _ => gives_then fun _ =>
      gives_then fun _ => gives_then fun _ => calm_bind (joinW_calm ..) hu fun ⟨_, _⟩ h2 => gives_ok ((calm_of_form loud (memForm_panServe _ _ _)).trans (calm_fillTlbs (by exact h2) _))

/-! ### The system unit (R302 to R304) -/

theorem cntrd_calm (s : State) (w : Wi) : Calms quiet s (s.cntrd w) :=
  gives_then fun _ => gives_then fun _ => calm_bind₁ (writeS_calm ..) (calm_refl _) fun _ h1 => gives_ok (by simp [h1])

theorem cntclr_calm (s : State) (w : Wi) : Calms quiet s (s.cntclr w) :=
  gives_then fun _ => gives_then fun _ => gives_ok (calm_refl _)

theorem invtlb_calm (s : State) (w : Wi) : Calms quiet s (s.invtlb w) := by
  refine gives_then fun _ => gives_then fun _ => calm_bind (sources_calm ..) (calm_refl _) fun ⟨⟨_, _, _⟩, _⟩ h1 => gives_then fun _ => gives_then fun _ =>
    gives_ok ?_
  split
  · exact h1
  · exact h1
  · exact h1

theorem pmcrd_calm (s : State) (w : Wi) : Calms quiet s (s.pmcrd w) :=
  gives_then fun _ => calm_bind (sources_calm ..) (calm_refl _) fun ⟨⟨_, _, _⟩, _⟩ h1 => gives_ite
    (gives_then fun _ => calm_bind₁ (writeS_calm ..) h1 fun _ h2 => gives_ok (by simp [h2]))
    (gives_ite (gives_then fun _ => gives_then fun _ => calm_bind₁ (writeS_calm ..) h1 fun _ h2 => gives_ok (by simp [h2])) (gives_error _))

/-! ### Every word -/

/-- The words that write memory as they issue. -/
def writesAtIssue : Instr → Bool
  | .tierin _ | .tierev _ | .pancfgRel _ | .panrd _ | .kvfork _ | .smout _ => true
  | _ => false

/-- The words of attention and of the Orrery, which name a context. -/
def namesContext (i : Instr) : Bool := match opOf i with
  | some n => n == 0x75 || n == 0x80 || n == 0x81 || n == 0x82 || n == 0x83
  | none => false

/-- Every word is an attempt that is calm or stops its gang: while no context of the die is swapped out, if it names one, and those aside that write
as they issue. -/
theorem word_rests {i : Instr} {s : State} (word : isWord i) (running : quiet → s.core.running = true) (allowed : writesAtIssue i = true → ¬ quiet)
    (hot : namesContext i = true → quiet → ∀ c ∈ (s.die s.core.did).ctxs, c.hot = true) : ∃ r, exec i s = outcome s r ∧ Rests quiet s r := by
  cases i with
  | add w | sub w | and w | or w | xor w | shl w | shr w | sra w | slt w | sltu w | min w | max w | minu w | maxu w
  | mul w | mulh w | mulhu w | sclmul w | sclmulh w | sel w
  | addi w | andi w | ori w | xori w | shli w | shri w | srai w | slti w | sltiu w | mini w | maxi w | minui w | maxui w
  | clz w | ctz w | popc w | brev w | bswap w | movi w | movhi w | mov w | sqw w | sqr w => exact ⟨_, rfl, Calms.rests (alu_calm ..)⟩
  | extr w | ins w | extrs w => exact ⟨_, rfl, Calms.rests (aluIf_calm ..)⟩
  | div w | divu w | rem w | remu w => exact ⟨_, rfl, Calms.rests (divide_calm ..)⟩
  | beq w | bne w | blt w | bge w | bltu w | bgeu w | br w | bri w | bq w | bqz w => exact ⟨_, rfl, Calms.rests (branchTo_calm ..)⟩
  | call w => exact ⟨_, rfl, Calms.rests (call_calm ..)⟩
  | ret w => exact ⟨_, rfl, Calms.rests (ret_calm ..)⟩
  | loop w => exact ⟨_, rfl, Calms.rests (loop_calm ..)⟩
  | loopi w => exact ⟨_, rfl, Calms.rests (loopi_calm ..)⟩
  | loops w => exact ⟨_, rfl, Calms.rests (loops_calm ..)⟩
  | rrbset w => exact ⟨_, rfl, Calms.rests (rrbset_calm ..)⟩
  | rdz w => exact ⟨_, rfl, Calms.rests (rdzWait_calm ..)⟩
  | yield w => exact ⟨_, rfl, Calms.rests (yield_calm ..)⟩
  | endStream w => exact ⟨_, rfl, Calms.rests (endStrm_calm ..)⟩
  | trap w => exact ⟨_, rfl, Calms.rests (trap_calm ..)⟩
  | eret w => exact ⟨_, rfl, Calms.rests (eret_calm ..)⟩
  | bkpt w => exact ⟨_, rfl, bkpt_rests running w⟩
  | rdsr w => exact ⟨_, rfl, Calms.rests (rdsr_calm ..)⟩
  | wrsr w => exact ⟨_, rfl, Calms.rests (wrsr_calm ..)⟩
  | rdcyc w => exact ⟨_, rfl, Calms.rests (rdcyc_calm ..)⟩
  | ldB w | ldBn w | ldH w | ldHn w | ldW w | ldWn w | ldD w => exact ⟨_, rfl, Calms.rests (load_calm ..)⟩
  | stB w | stH w | stW w | stD w => exact ⟨_, rfl, Calms.rests (store_calm ..)⟩
  | ldv w => exact ⟨_, rfl, Calms.rests (ldvWord_calm ..)⟩
  | ldvp w => exact ⟨_, rfl, Calms.rests (ldvpWord_calm ..)⟩
  | stv w | stvp w => exact ⟨_, rfl, Calms.rests (stvWord_calm ..)⟩
  | ldg w => exact ⟨_, rfl, Calms.rests (ldgWord_calm ..)⟩
  | stg w => exact ⟨_, rfl, Calms.rests (stgWord_calm ..)⟩
  | aaddAtomic w | aand w | aor w | axor w | amin w | amax w | aminn w | amaxn w | aswp w | acas w => exact ⟨_, rfl, Calms.rests (atomicWord_calm ..)⟩
  | fence w => exact ⟨_, rfl, Calms.rests (fence_calm ..)⟩
  | swinit w => exact ⟨_, rfl, Calms.rests (swinit_calm ..)⟩
  | swwait w => exact ⟨_, rfl, Calms.rests (swwaitWord_calm ..)⟩
  | swadd w => exact ⟨_, rfl, Calms.rests (swadd_calm ..)⟩
  | pcfg w => exact ⟨_, rfl, Calms.rests (pcfg_calm ..)⟩
  | pgo w => exact ⟨_, rfl, Calms.rests (pgo_calm ..)⟩
  | pstop w => exact ⟨_, rfl, Calms.rests (pstop_calm ..)⟩
  | pflush w => exact ⟨_, rfl, Calms.rests (pflush_calm ..)⟩
  | wcfg w => exact ⟨_, rfl, Calms.rests (wcfg_calm ..)⟩
  | wadv w => exact ⟨_, rfl, Calms.rests (wadv_calm ..)⟩
  | wrel w => exact ⟨_, rfl, Calms.rests (wrel_calm ..)⟩
  | cpy w => exact ⟨_, rfl, Calms.rests (cpy_calm ..)⟩
  | cpy2 w | cpy3 w => exact ⟨_, rfl, Calms.rests (cpyStrided_calm ..)⟩
  | cpysw w => exact ⟨_, rfl, Calms.rests (cpysw_calm ..)⟩
  | cbat w => exact ⟨_, rfl, Calms.rests (cbat_calm ..)⟩
  | waitn w => exact ⟨_, rfl, Calms.rests (waitn_calm ..)⟩
  | pref w => exact ⟨_, rfl, Calms.rests (pref_calm ..)⟩
  | enq w => exact ⟨_, rfl, Calms.rests (enq_calm ..)⟩
  | deq w => exact ⟨_, rfl, Calms.rests (deq_calm ..)⟩
  | tierin w => exact ⟨_, rfl, Calms.rests (tierin_calm (allowed rfl) ..)⟩
  | tierq w => exact ⟨_, rfl, Calms.rests (tierq_calm ..)⟩
  | tierev w => exact ⟨_, rfl, Calms.rests (tierev_calm (allowed rfl) ..)⟩
  | vadd w | vsub w | vmul w | vfma w | vfms w | vmin w | vmax w | vabs w | vneg w | vabd w => exact ⟨_, rfl, Calms.rests (arith_calm ..)⟩
  | vcmp w => exact ⟨_, rfl, Calms.rests (vword_calm fun _ _ => gives_ok (calm_of_face (face_putMask ..)))⟩
  | vand w | vor w | vxor w | vnot w | vmov w => exact ⟨_, rfl, Calms.rests (lanes_calm ..)⟩
  | vshl w | vshr w | vsra w => exact ⟨_, rfl, Calms.rests (vshift_calm ..)⟩
  | vsel w => exact ⟨_, rfl, Calms.rests (vsel_calm ..)⟩
  | vcvt w | vcvts w => exact ⟨_, rfl, Calms.rests (cvt_calm ..)⟩
  | vpack w | vunpk w | vqi4x w | vbcst w | vins w | vidx w | vrand w => exact ⟨_, rfl, Calms.rests (vword_calm fun _ _ => putElems_calm ..)⟩
  | vtrn w | vperm w | vrope w => exact ⟨_, rfl, Calms.rests (vwordIf_calm fun _ _ => putElems_calm ..)⟩
  | vext w => exact ⟨_, rfl, Calms.rests (vword_calm fun _ _ => writeS_calm ..)⟩
  | vrotr w | vrotc w | vbcr w | vbcc w => exact ⟨_, rfl, Calms.rests (rotWord_calm ..)⟩
  | vredr w | vredc w => exact ⟨_, rfl, Calms.rests (reduceWord_calm ..)⟩
  | vexp2 w | vexp w | vlog2 w | vrcp w | vrsq w | vsqrt w | vtanh w | vsigm w | vsilu w | vgelu w => exact ⟨_, rfl, Calms.rests (special_calm ..)⟩
  | vsmerge w => exact ⟨_, rfl, Calms.rests (vword_calm fun _ _ => gives_ok (calm_of_face (face_pend ..)))⟩
  | vclmulL w | vclmulH w | vpopc w | vclz w => exact ⟨_, rfl, Calms.rests (bitWord_calm ..)⟩
  | rngkey w => exact ⟨_, rfl, Calms.rests (vword_calm fun _ _ => gives_ok (calm_of_face (face_updC ..)))⟩
  | mand w | mor w | mxor w | mnot w => exact ⟨_, rfl, Calms.rests (maskOp_calm ..)⟩
  | mset w => exact ⟨_, rfl, Calms.rests (maskWord_calm fun _ _ _ _ => gives_ok (calm_of_face (face_putMask ..)))⟩
  | mcnt w | mfirst w => exact ⟨_, rfl, Calms.rests (maskWord_calm fun _ _ _ _ => writeS_calm ..)⟩
  | mma w | mmat w => exact ⟨_, rfl, Calms.rests (mword_calm fun _ _ => gives_then fun _ => gives_ok (calm_of_face (face_dense ..)))⟩
  | mmas w => exact ⟨_, rfl, Calms.rests (mmas_calm ..)⟩
  | mmaf w => exact ⟨_, rfl, Calms.rests (mmaf_calm ..)⟩
  | mclr w | aaddv w | amov w | acan w => exact ⟨_, rfl, Calms.rests (mword_calm fun _ _ => gives_ok (calm_of_face (face_pend ..)))⟩
  | anch w | ashf w => exact ⟨_, rfl, Calms.rests (anchorWord_calm ..)⟩
  | aaddAcc w | asub w => exact ⟨_, rfl, Calms.rests (tileSum_calm ..)⟩
  | rslv w => exact ⟨_, rfl, Calms.rests (rslv_calm ..)⟩
  | acmp w => exact ⟨_, rfl, Calms.rests (mword_calm fun _ _ => gives_ok (calm_of_face (face_putMask ..)))⟩
  | aexn w => exact ⟨_, rfl, Calms.rests (mword_calm fun _ _ => putElems_calm ..)⟩
  | astr w | astc w => exact ⟨_, rfl, Calms.rests (tileStore_calm ..)⟩
  | aldr w | aldc w => exact ⟨_, rfl, Calms.rests (tileLoad_calm ..)⟩
  | setrm w => exact ⟨_, rfl, Calms.rests (gives_then fun _ => gives_then fun _ => mword_calm fun _ _ => gives_ok (calm_refl _))⟩
  | fmtt w => exact ⟨_, rfl, Calms.rests (fmtt_calm ..)⟩
  | attn w | attnm w => exact ⟨_, rfl, Calms.rests (attnWord_calm ..)⟩
  | kvnew w => exact ⟨_, rfl, Calms.rests (kvnew_calm (hot rfl) ..)⟩
  | kvfree w => exact ⟨_, rfl, Calms.rests (kvfree_calm (hot rfl) ..)⟩
  | kvfork w => exact ⟨_, rfl, Calms.rests (kvfork_calm (hot rfl) (allowed rfl) ..)⟩
  | kvshare w => exact ⟨_, rfl, Calms.rests (kvshare_calm (hot rfl) ..)⟩
  | kvstat w => exact ⟨_, rfl, Calms.rests (kvstat_calm (hot rfl) ..)⟩
  | kvw w => exact ⟨_, rfl, Calms.rests (kvw_calm (hot rfl) ..)⟩
  | kvrnw w => exact ⟨_, rfl, Calms.rests (kvrnw_calm (hot rfl) ..)⟩
  | kvexp w => exact ⟨_, rfl, Calms.rests (kvexp_calm (hot rfl) ..)⟩
  | kvadv w | kvcmt w | kvrwd w => exact ⟨_, rfl, Calms.rests (position_calm (hot rfl) w fun _ => rfl)⟩
  | smin w | sminv w => exact ⟨_, rfl, Calms.rests (mapWord_calm (hot rfl) w (fun _ => rfl) _)⟩
  | smout w => exact ⟨_, rfl, Calms.rests (smout_calm (hot rfl) (allowed rfl) ..)⟩
  | slabgr w => exact ⟨_, rfl, Calms.rests (slabgr_calm (hot rfl) ..)⟩
  | xopen w => exact ⟨_, rfl, Calms.rests (xopen_calm ..)⟩
  | xgrant w => exact ⟨_, rfl, Calms.rests (xgrant_calm ..)⟩
  | xsend w => exact ⟨_, rfl, Calms.rests (xsend_calm ..)⟩
  | xrecv w => exact ⟨_, rfl, Calms.rests (xrecv_calm ..)⟩
  | xclose w => exact ⟨_, rfl, Calms.rests (xclose_calm ..)⟩
  | xstat w => exact ⟨_, rfl, Calms.rests (xstat_calm ..)⟩
  | pancfg w => exact ⟨_, rfl, Calms.rests (pancfg_calm ..)⟩
  | pancfgRel w => exact ⟨_, rfl, Calms.rests (pancfgRel_calm (allowed rfl) ..)⟩
  | panrd w => exact ⟨_, rfl, Calms.rests (panrd_calm (allowed rfl) ..)⟩
  | cntrd w => exact ⟨_, rfl, Calms.rests (cntrd_calm ..)⟩
  | cntclr w => exact ⟨_, rfl, Calms.rests (cntclr_calm ..)⟩
  | invtlb w => exact ⟨_, rfl, Calms.rests (invtlb_calm ..)⟩
  | pmcrd w => exact ⟨_, rfl, Calms.rests (pmcrd_calm ..)⟩
  | _ => nomatch word

/-- Settles O60: every word is calm, wherever it goes on; the words that write as they issue are the exceptions. -/
theorem issueKeepsMemory : Obligations.IssueKeepsMemory := by
  unfold Obligations.IssueKeepsMemory
  intro i s t word running others hot run on
  have allowed : writesAtIssue i = true → ¬ True := fun writes _ => by
    cases i with
    | tierin w | tierev w | pancfgRel w | panrd w | kvfork w | smout w => exact others w (by simp)
    | _ => cases writes
  have named : namesContext i = true → True → ∀ c ∈ (s.die s.core.did).ctxs, c.hot = true := fun names _ => hot (by
    unfold namesContext at names
    split at names
    · rename_i n e
      rw [e]
      simpa [or_assoc] using names
    · cases names)
  obtain ⟨r, attempt, rests⟩ := word_rests (quiet := True) word (fun _ => running) allowed named
  have calm := rests_outcome rests (attempt ▸ run)
  exact ⟨calm.flash ⟨trivial, on⟩, calm.kept ⟨trivial, on⟩⟩

end
end Sys2Proof.Proofs
end

section
/-!
PROOFS. Steps of a core, its engines and the Rake keep memory's form (log entry 2).
-/

namespace Sys2Proof.Proofs
open Sys2Proof Sys2Proof.Machine

variable {s : State}

/-! ### The rendezvous, deadlock, the end of a job -/

theorem memForm_fillFmt (base : Nat) (h : s.memForm) : (s.fillFmt base).memForm := by
  unfold State.fillFmt
  split
  · exact memForm_touchRows _ h
  · exact h
  · exact h

theorem memForm_rdzJoin (h : s.memForm) : s.rdzJoin.memForm := by
  unfold State.rdzJoin
  extract_lets refill s1
  have h1 : s1.memForm := h
  clear_value s1
  exact memForm_of_mem (s := if refill then s1.fillFmt s1.core.jobv.fmtb.toNat else s1) (ite_both (P := fun t : State => t.mem = _) rfl rfl)
    (memForm_ite (memForm_fillFmt _ h1) h1)

theorem memForm_faultGang (h : s.memForm) : s.faultGang.memForm := h

theorem memForm_raiseDeadlock (h : s.memForm) : s.raiseDeadlock.memForm := by
  unfold State.raiseDeadlock
  extract_lets k c own s1
  have h1 : s1.memForm := h
  clear_value s1
  exact memForm_faultGang (memForm_postJob _ _ h1)

theorem memForm_completeJob (h : s.memForm) : s.completeJob.memForm := by
  unfold State.completeJob
  extract_lets c s1 s2
  have h2 : s2.memForm := memForm_of_mem (s := s) (by simp [s2, s1, State.closeEnds]) h
  clear_value s2
  exact memForm_ite (memForm_giveCores _ h2) h2

/-! ### Accesses -/

theorem memForm_blockOp (o : MOp) (parts : List Part) (h : s.memForm) : (s.blockOp o parts).memForm := memForm_ite h h

theorem memForm_refuseScalar (o : MOp) (h : s.memForm) : (s.refuseScalar o).memForm :=
  memForm_raise _ (memForm_of_mem (s := s.endMop o none) rfl (memForm_endMop _ _ h))

theorem memForm_attempt (id : Nat) (fits : MBody → Bool) (pick : Part → Bool) (h : s.memForm) : (s.attempt id fits pick).memForm := by
  unfold State.attempt
  split
  · exact h
  · refine memForm_ite h ?_
    dsimp only
    split
    · exact memForm_ite (memForm_refuseScalar _ h) (memForm_refusePart _ _ h)
    · split
      · exact memForm_performPart _ _ h
      · exact memForm_blockOp _ _ h

/-! ### Generators and windows -/

theorem memForm_pushTile (n : Nat) (g : Pag) (t : PTile) (h : s.memForm) : (s.pushTile n g t).memForm := memForm_ite h (memForm_endOp _ _ h)

theorem memForm_blockGen (n : Nat) (g : Pag) (part : Nat) (keys : List Nat) (h : s.memForm) : (s.blockGen n g part keys).memForm := memForm_ite h h

theorem memForm_genRow (n : Nat) (g : Pag) (h : s.memForm) : (s.genRow n g).memForm := by
  unfold State.genRow
  extract_lets va bad
  split
  · exact memForm_pushTile _ _ _ h
  · exact h
  · exact memForm_blockGen _ _ _ _ h
  · refine memForm_ite (memForm_pushTile _ _ _ h) (memForm_ite h ?_)
    split
    · exact h
    · exact memForm_blockGen _ _ _ _ h
    · extract_lets s1 g1
      have h1 : s1.memForm := memForm_touchRow _ (memForm_fillTlb (s := { s with cur := .a }) _ h)
      clear_value s1
      exact memForm_ite (memForm_pushTile _ _ _ h1) h1

theorem memForm_pgenPush (n : Nat) (h : s.memForm) : (s.pgenPush n).memForm := by
  unfold State.pgenPush
  split
  · exact h
  · split
    · exact memForm_ite h (memForm_ite h h)
    · exact memForm_ite h (memForm_genRow _ _ h)

theorem memForm_cur (k : Strm) (h : s.memForm) : ({ s with cur := k } : State).memForm := h

theorem memForm_endFetch (f : WFetch) (e : Option FaultInfo) (h : s.memForm) : (s.endFetch f e).memForm := memForm_endOp _ _ h

theorem memForm_fetchRow (id row : Nat) (h : s.memForm) : (s.fetchRow id row).memForm := by
  unfold State.fetchRow
  cases s.core.fetches.find? fun f => f.id == id with
  | none => exact h
  | some f =>
    dsimp -zeta only
    cases f.todo.find? fun p => p.ix == row with
    | none => exact h
    | some p =>
      dsimp -zeta only
      refine memForm_ite h ?_
      extract_lets +onlyGivenNames put
      have kept : ∀ (t : State) f, t.memForm → (put t f).memForm := fun _ _ ht => memForm_updC _ ht
      clear_value put
      generalize ({ s with cur := .a } : State).pieceKey p = found
      rcases found with (_ | keys | e) | keys
      · exact h
      · exact memForm_ite h (kept _ _ h)
      · exact memForm_endFetch _ _ h
      · refine memForm_ite h ?_
        cases s.gate keys [scratchKey s.core.clusterIx p.dst] with
        | wait => exact h
        | bank => exact memForm_ite h (kept _ _ h)
        | go =>
          dsimp -zeta only
          extract_lets left s1 s2
          have h1 : s1.memForm := memForm_writeMem _ _ (memForm_touchRows _ (memForm_fillTlbs _ (s := { s with cur := .a }) h))
          have h2 : s2.memForm := memForm_cur _ h1
          exact memForm_ite (memForm_endFetch _ _ h2) (kept _ _ h2)

/-! ### Copies -/

theorem memForm_putCopy (id : Nat) (k : Option Copy) (h : s.memForm) : (s.putCopy id k).memForm := h

theorem memForm_copyStep (k : Copy) (part : Nat) (reads writes : List Nat) {go : State → State} (h : s.memForm)
    (next : ∀ t, t.memForm → (go t).memForm) : (s.copyStep k part reads writes go).memForm := by
  unfold State.copyStep
  refine memForm_ite h ?_
  split
  · exact h
  · exact memForm_ite h h
  · exact next _ (memForm_touchRows _ h)

theorem memForm_failCopy (k : Copy) (f : FaultInfo) (h : s.memForm) : (s.failCopy k f).memForm := by
  unfold State.failCopy
  extract_lets fail
  have failed : ∀ t, t.memForm → (fail t).memForm := fun t ht => memForm_endOp _ _ (memForm_putCopy _ _ ht)
  clear_value fail
  split
  · exact memForm_copyStep _ _ _ _ h fun t ht => memForm_syncErr _ (failed t ht)
  · exact failed s h

theorem memForm_finishRow (k : Copy) (row n : Nat) (h : s.memForm) : (s.finishRow k row n).memForm := by
  unfold State.finishRow
  extract_lets s1
  have h1 : s1.memForm := memForm_ite h h
  clear_value s1
  split
  · exact memForm_endOp _ _ (memForm_putCopy _ _ h1)
  · exact memForm_putCopy _ _ h1

theorem memForm_rowStep (k : Copy) (w : RowWork) (h : s.memForm) : (s.rowStep k w).memForm := by
  unfold State.rowStep
  split
  · split
    · exact memForm_finishRow _ _ _ h
    · exact memForm_copyStep _ _ _ _ h fun t ht => memForm_finishRow _ _ _ (memForm_raiseSync _ _ ht)
  · split
    · exact memForm_failCopy _ _ h
    · exact memForm_copyStep _ _ _ _ h fun t ht => memForm_putCopy _ _ ht
  · extract_lets va
    split
    · exact memForm_failCopy _ _ h
    · split
      · exact h
      · exact memForm_copyStep _ _ _ _ h fun t ht => memForm_putCopy _ _ (memForm_writeRuns _ ht)

theorem memForm_beginRow (k : Copy) (row : Nat) (h : s.memForm) : (s.beginRow k row).memForm := by
  unfold State.beginRow
  refine memForm_ite h ?_
  split
  · exact h
  · rename_i s0 served
    have h0 : s0.memForm := by
      unfold State.rakeServe at served
      split at served
      · exact Option.some.inj served ▸ h
      · split at served
        · cases served
        · exact Option.some.inj served ▸ h
    exact memForm_putCopy _ _ h0

theorem memForm_copyRow (id row : Nat) (h : s.memForm) : (s.copyRow id row).memForm := by
  unfold State.copyRow
  split
  · exact h
  · refine memForm_ite h ?_
    split
    · exact memForm_beginRow _ _ h
    · exact memForm_ite (memForm_rowStep _ _ h) h

end Sys2Proof.Proofs
end

section
/-!
PROOFS. Steps of migrations, the Orrery, channels and Pan keep memory's form (log entry 2).
-/

namespace Sys2Proof.Proofs
open Sys2Proof Sys2Proof.Machine

variable {s : State}

/-! ### Migrations -/

@[simp] theorem updMig_mem (s : State) (id : Nat) (f : Mig → Mig) : (s.updMig id f).mem = s.mem := rfl

theorem memForm_updMig (id : Nat) (f : Mig → Mig) (h : s.memForm) : (s.updMig id f).memForm := h

theorem memForm_endMig (m : Mig) (err : Option FaultInfo) (h : s.memForm) : (s.endMig m err).memForm := memForm_endOp _ _ h

theorem memForm_movePage (p : MigPage) (h : s.memForm) : (s.movePage p).memForm := h

theorem memForm_pushFrame (pool i frame : Nat) (h : s.memForm) : (s.pushFrame pool i frame).memForm := memForm_writeMem _ _ (memForm_writeMem _ _ h)

theorem memForm_origins (o : List (Nat × Nat)) (h : s.memForm) : ({ s with origins := o } : State).memForm := h

theorem memForm_migratePage (m : Mig) (p : MigPage) (h : s.memForm) : (s.migratePage m p).memForm := by
  unfold State.migratePage
  extract_lets s2 org s3 path
  have h2 : s2.memForm := memForm_movePage _ (memForm_writeMem _ _ h)
  have h3 : s3.memForm := memForm_origins _ h2
  split
  · exact h3
  · exact memForm_pushFrame _ _ _ (memForm_addUse _ _ _ h3)

theorem memForm_unmovePage (m : Mig) (p : MigPage) (h : s.memForm) : (s.unmovePage m p).memForm :=
  memForm_ite h (memForm_pushFrame _ _ _ (memForm_addUse _ _ _ h))

theorem memForm_unmovePages (m : Mig) (l : List MigPage) (h : s.memForm) : (s.unmovePages m l).memForm := by
  induction l generalizing s with
  | nil => exact h
  | cons p r ih => exact ih (memForm_unmovePage m p h)

theorem memForm_failMig (m : Mig) (f : FaultInfo) (h : s.memForm) : (s.failMig m f).memForm :=
  memForm_ite (memForm_endMig _ _ (memForm_unmovePages _ _ h)) h

theorem memForm_gateMig (m : Mig) (reads writes : List Nat) {go : State → State} (h : s.memForm)
    (next : ∀ t, t.memForm → (go t).memForm) : (s.gateMig m reads writes go).memForm := by
  unfold State.gateMig
  split
  · exact h
  · exact memForm_updMig _ _ h
  · exact next _ (memForm_touchRows _ h)

theorem memForm_copyMig (m : Mig) (p : MigPage) (h : s.memForm) : (s.copyMig m p).memForm := by
  unfold State.copyMig
  refine memForm_ite ?_ (memForm_gateMig _ _ _ h fun t ht => memForm_updMig _ _ (memForm_copyFrame _ _ _ ht))
  split
  · exact memForm_failMig _ _ h
  · exact memForm_gateMig _ _ _ h fun t ht => memForm_updMig _ _ ht

theorem memForm_finishMig (id : Nat) (h : s.memForm) : (s.finishMig id).memForm := by
  unfold State.finishMig
  split
  · exact h
  · split
    · exact memForm_endMig _ _ h
    · refine memForm_ite (memForm_ite (memForm_failMig _ _ h) h) (memForm_ite (memForm_copyMig _ _ h) ?_)
      extract_lets s1
      have h1 : s1.memForm := memForm_ite h (memForm_migratePage _ _ h)
      exact memForm_ite h (memForm_ite (memForm_endMig _ _ h1) (memForm_updMig _ _ h1))

/-! ### Commands of the Orrery -/

theorem memForm_updDie (d : Nat) (f : Die → Die) (h : s.memForm) : (s.updDie d f).memForm := h
theorem memForm_updCtx (die n : Nat) (f : Ctx → Ctx) (h : s.memForm) : (s.updCtx die n f).memForm := h
theorem memForm_finishK (die : Nat) (o : KOp) (err : Option FaultInfo) (h : s.memForm) : (s.finishK die o err).memForm := memForm_endOp _ _ h
theorem memForm_countFor (lrec job n k : Nat) (h : s.memForm) : (s.countFor lrec job n k).memForm := memForm_updJob _ _ _ h

/-- Only memory's form is asked here, so no word has to be gentle. -/
theorem loud : ¬ False := id

theorem memForm_of_calm {f : State → State} (calm : ∀ s, Calm False (face (f s)) (face s)) (h : s.memForm) : (f s).memForm := (calm s).form h

theorem memForm_gateK (die : Nat) (o : KOp) (reads writes : List Nat) {go : State → State} (h : s.memForm)
    (next : ∀ t, t.memForm → (go t).memForm) : (s.gateK die o reads writes go).memForm := by
  refine memForm_ite h ?_
  split
  · exact h
  · exact memForm_ite h h
  · exact next _ (memForm_touchRows _ h)

theorem memForm_applyK (die : Nat) (o : KOp) (h : s.memForm) : (s.applyK die o).memForm :=
  memForm_of_calm (f := fun s => s.applyK die o) (fun _ => calm_applyK (warm_of_loud (die := die) loud (calm_refl _)) o fun q => q.elim) h

theorem memForm_kvApply (die id : Nat) (h : s.memForm) : (s.kvApply die id).memForm := by
  unfold State.kvApply
  split
  · exact h
  · split
    · exact h
    · exact memForm_ite (memForm_applyK _ _ h) h

theorem memForm_giveBack (die num i : Nat) (h : s.memForm) : (s.giveBack die num i).memForm :=
  memForm_of_calm (f := fun s => s.giveBack die num i) (fun _ => (warm_giveBack (die := die) (warm_of_loud loud (calm_refl _)) num i).calm) h

theorem memForm_ownUnit (die num : Nat) (l : List Nat) (h : s.memForm) : (s.ownUnit die num l).memForm := by
  induction l generalizing s with
  | nil => exact h
  | cons i r ih => exact ih (memForm_updCtx _ _ _ (memForm_giveBack die num i h))

theorem memForm_kvwComplete (die id : Nat) (h : s.memForm) : (s.kvwComplete die id).memForm := by
  unfold State.kvwComplete
  split
  · exact h
  · split
    · refine memForm_ite h ?_
      extract_lets lent mv off ent
      split
      · exact memForm_finishK _ _ _ h
      · exact memForm_gateK _ _ _ _ h fun t ht => memForm_finishK _ _ _
          (memForm_updCtx _ _ _ (memForm_writeMem _ _ (memForm_countFor _ _ _ _ (memForm_ownUnit _ _ _ (memForm_makeMoves _ ht)))))
    · exact h

theorem memForm_clearFrame (key n : Nat) (h : s.memForm) : (s.clearFrame key n).memForm := memForm_ite h (memWf_filter _ h)

theorem memForm_clearArea (l : List (Nat × MapEnt)) (h : s.memForm) : (s.clearArea l).memForm := by
  induction l generalizing s with
  | nil => exact h
  | cons e r ih => exact ih (memForm_clearFrame _ _ h)

theorem memForm_clearDone (die ctx : Nat) (h : s.memForm) : (s.clearDone die ctx).memForm := by
  unfold State.clearDone
  split
  · exact memForm_gateK _ _ _ _ h fun t ht => memForm_finishK _ _ _ (memForm_updCtx _ _ _ (memForm_clearArea _ ht))
  · exact h

theorem memForm_forkDone (die ctx : Nat) (h : s.memForm) : (s.forkDone die ctx).memForm := by
  unfold State.forkDone
  split
  · exact h
  · exact memForm_finishK _ _ _ h

theorem memForm_background (die ctx : Nat) (has : Ctx → Bool) (f : Ctx → Ctx) (h : s.memForm) : (s.background die ctx has f).memForm := memForm_ite h h

theorem memForm_pageMoved (die : Nat) (c : Ctx) (f : Fwd) (o : KOp) (err : Option FaultInfo) (h : s.memForm) :
    (s.pageMoved die c f o err).memForm := memForm_ite h (memForm_finishK _ _ _ h)

theorem memForm_slabMove (die ctx : Nat) (h : s.memForm) : (s.slabMove die ctx).memForm := by
  unfold State.slabMove
  split
  · split
    · exact h
    · extract_lets mv
      split
      · exact memForm_pageMoved _ _ _ _ _ h
      · exact memForm_gateK _ _ _ _ h fun t ht => memForm_pageMoved _ _ _ _ _ (memForm_countFor _ _ _ _ (memForm_makeMoves _ ht))
  · exact h

theorem memForm_freeN (n : Nat) (h : s.memForm) : ({ s with freeN := n } : State).memForm := h

theorem memForm_fillFree (l : List (Nat × MapEnt)) (h : s.memForm) : (s.fillFree l).memForm := by
  induction l generalizing s with
  | nil => exact h
  | cons e r ih => exact ih (memForm_writeMem _ _ (memForm_freeN _ h))

theorem memForm_releaseArea (die : Nat) (c : Ctx) (h : s.memForm) : (s.releaseArea die c).memForm := memForm_updDie _ _ (memForm_fillFree _ h)

theorem memForm_batchDone (die id : Nat) (h : s.memForm) : (s.batchDone die id).memForm := by
  unfold State.batchDone
  split
  · exact h
  · refine memForm_ite h ?_
    split
    · exact memForm_ite (memForm_finishK _ _ _ h) (memForm_gateK _ _ _ _ h fun t ht => memForm_finishK _ _ _ (memForm_writeIn _ _ _ ht))
    · exact memForm_finishK _ _ _ h
    · exact memForm_ite (memForm_finishK _ _ _ (memForm_releaseArea _ _ h)) h
    · exact h

/-! ### ATTN -/

theorem memForm_updAttn (die id : Nat) (f : Attn → Attn) (h : s.memForm) : (s.updAttn die id f).memForm := h
theorem memForm_endAttn (die : Nat) (a : Attn) (err : Option FaultInfo) (h : s.memForm) : (s.endAttn die a err).memForm := memForm_endOp _ _ h

theorem memForm_attnStep (die id : Nat) (h : s.memForm) : (s.attnStep die id).memForm := by
  unfold State.attnStep
  split
  · exact h
  · split
    · exact h
    · extract_lets page now keys cells
      refine memForm_ite h (memForm_ite (memForm_updJob _ _ _ h) (memForm_ite h ?_))
      split
      · exact memForm_endAttn _ _ _ h
      · split
        · exact h
        · exact memForm_ite h h
        · exact memForm_updAttn _ _ _ (memForm_updJob _ _ _ (memForm_touchRows _ h))

theorem memForm_raiseEvent (l j : Nat) (k : Strm) (e : Event) (h : s.memForm) : (s.raiseEvent l j k e).memForm := memForm_of_mem (raiseEvent_mem ..) h

theorem memForm_attnDone (die id : Nat) (h : s.memForm) : (s.attnDone die id).memForm := by
  unfold State.attnDone
  split
  · exact h
  · refine memForm_ite h ?_
    extract_lets i p imgs s1 s2 s3
    have h1 : s1.memForm := memForm_updJob _ _ _ h
    have h2 : s2.memForm := by
      unfold s2
      split
      · exact memForm_countEvents _ _ _ h1
      · exact h1
    have h3 : s3.memForm := memForm_endAttn _ _ _ h2
    exact memForm_ite (memForm_updAttn _ _ _ h2) (memForm_ite (memForm_raiseEvent _ _ _ _ h3) h3)

/-! ### Channels -/

theorem memForm_updEnd (die n : Nat) (f : ChEnd → ChEnd) (h : s.memForm) : (s.updEnd die n f).memForm := h

theorem memForm_matchEnds (die num : Nat) (h : s.memForm) : (s.matchEnds die num).memForm := by
  unfold State.matchEnds
  split
  · exact h
  · split
    · exact memForm_ite h (memForm_endOp _ _ (memForm_endOp _ _ h))
    · exact h

theorem memForm_permitArrive (die num : Nat) (h : s.memForm) : (s.permitArrive die num).memForm := by
  unfold State.permitArrive
  split
  · exact h
  · split
    · exact memForm_ite h h
    · exact h

theorem memForm_setArrived (die num : Nat) (h : s.memForm) : (s.setArrived die num).memForm := by
  unfold State.setArrived
  split
  · exact h
  · split
    · extract_lets sw s1 peer
      clear_value sw
      have h1 : s1.memForm := by
        unfold s1
        split
        · exact memForm_raiseSync _ _ (memForm_touchRow _ h)
        · exact h
      exact memForm_ite h (memForm_endOp _ _ (memForm_putCopy _ _ (memForm_updEnd _ _ _ h1)))
    · exact memForm_ite (memForm_endOp _ _ (memForm_putCopy _ _ h)) h

theorem memForm_beatReplay (die num : Nat) (h : s.memForm) : (s.beatReplay die num).memForm := by
  unfold State.beatReplay
  split
  · exact h
  · split
    · refine memForm_ite h (memForm_ite h ?_)
      split <;> exact h
    · exact h

theorem memForm_freeEnd (die num : Nat) (h : s.memForm) : (s.freeEnd die num).memForm := by
  unfold State.freeEnd
  split <;> exact h

theorem memForm_closeDone (die num : Nat) (h : s.memForm) : (s.closeDone die num).memForm := by
  unfold State.closeDone
  split
  · exact h
  · refine memForm_ite h ?_
    extract_lets s1
    have h1 : s1.memForm := memForm_endOp _ _ (memForm_updEnd _ _ _ h)
    split
    · exact memForm_freeEnd _ _ h1
    · extract_lets s2
      have h2 : s2.memForm := memForm_ite h1 (memForm_ite h1 h1)
      exact memForm_ite (memForm_freeEnd _ _ (memForm_freeEnd _ _ h2)) h2

theorem memForm_failRecord (die : Nat) (e : ChEnd) (h : s.memForm) : (s.failRecord die e).memForm := memForm_ite h (memForm_postRecord _ _ h)

theorem memForm_payErrs (die : Nat) (l : List ChEnd) (h : s.memForm) : (s.payErrs die l).memForm := by
  induction l generalizing s with
  | nil => exact h
  | cons e r ih =>
    refine memForm_ite (ih h) (ih ?_)
    split
    · exact memForm_syncErr _ h
    · exact h

theorem memForm_dropSends (l : List Copy) (h : s.memForm) : (s.dropSends l).memForm := by
  induction l generalizing s with
  | nil => exact h
  | cons k r ih => exact ih (memForm_endOp _ _ (memForm_putCopy _ _ h))

theorem memForm_failChannel (die num : Nat) (record : Bool) (h : s.memForm) : (s.failChannel die num record).memForm := by
  unfold State.failChannel
  split
  · exact h
  · extract_lets s1
    have h1 : s1.memForm := memForm_dropSends _ (memForm_updEnd _ _ _ h)
    split
    · exact h1
    · extract_lets s2 s3
      have h3 : s3.memForm := memForm_payErrs _ _ (memForm_updEnd _ _ _ h1)
      exact memForm_ite (memForm_failRecord _ _ (memForm_failRecord _ _ h3)) h3

theorem memForm_failAll (die : Nat) (record : Bool) (l : List ChEnd) (h : s.memForm) : (s.failAll die record l).memForm := by
  induction l generalizing s with
  | nil => exact h
  | cons e r ih => exact ih (memForm_failChannel _ _ _ h)

theorem memForm_failBridge (a f : Nat) (h : s.memForm) : (s.failBridge a f).memForm := memForm_failAll _ _ _ (memForm_failAll _ _ _ h)

/-! ### Pan -/

theorem memForm_panServeAll (die : Nat) (h : s.memForm) : (s.panServeAll die).memForm := by
  unfold State.panServeAll
  generalize List.range 8 = l
  induction l generalizing s with
  | nil => exact h
  | cons n l ih => exact ih (memForm_panServe _ _ _ h)

theorem memForm_panObserve (die : Nat) (h : s.memForm) : (s.panObserve die).memForm := by
  unfold State.panObserve
  split
  · exact memForm_panServeAll _ h
  · exact memForm_panServeAll _ (memForm_updDie _ _ h)

end Sys2Proof.Proofs
end

section
/-!
PROOFS. Launches, placement, saves and completion keep memory's form (log entry 2).
-/

namespace Sys2Proof.Proofs
open Sys2Proof Sys2Proof.Machine

variable {s : State}

/-! ### The tree's walk, the end of a launch -/

theorem memForm_reportBad (die : Nat) (l : List (Nat × Nat)) (h : s.memForm) : (s.reportBad die l).memForm := by
  induction l generalizing s with
  | nil => exact h
  | cons x r ih => exact ih (memForm_ite h (memForm_postRecord _ _ h))

theorem memForm_walkRegion (die : Nat) (h : s.memForm) : (s.walkRegion die).memForm := memForm_reportBad _ _ (memForm_updDie _ _ h)

theorem memForm_gen (g : GenLoop) (h : s.memForm) : ({ s with gen := g } : State).memForm := h
theorem memForm_launches (l : List Launch) (h : s.memForm) : ({ s with launches := l } : State).memForm := h

theorem memForm_writeCpl (l : Launch) (status : Nat) (h : s.memForm) : (s.writeCpl l status).memForm := memForm_gen _ (memForm_writeVa _ _ _ h)

theorem memForm_finishLaunch (l : Launch) (status : Nat) (h : s.memForm) : (s.finishLaunch l status).memForm :=
  memForm_launches _ (memForm_writeCpl _ _ (memForm_writeVa _ _ _ h))

/-! ### Reads by the device -/

theorem memForm_readVa (ptb va n : Nat) (h : s.memForm) : Gives (fun x => x.2.memForm) (s.readVa ptb va n) := by
  refine gives_then fun pages => ?_
  split
  · exact gives_error _
  · exact gives_then fun _ => gives_ok (memForm_touchRows _ h)

theorem memForm_readImage (ptb share va : Nat) (h : s.memForm) : Gives (fun x => x.2.memForm) (s.readImage ptb share va) :=
  gives_bind (memForm_readVa _ _ _ h) fun ⟨_, _⟩ h1 => gives_then fun _ => gives_bind (memForm_readVa _ _ _ h1) fun ⟨_, _⟩ h2 =>
    gives_then fun _ => gives_ok h2

theorem memForm_readImages (ptb share : Nat) (l : List Nat) (h : s.memForm) : Gives (fun x => x.2.memForm) (s.readImages ptb share l) := by
  induction l generalizing s with
  | nil => exact gives_ok h
  | cons va r ih => exact gives_bind (memForm_readImage _ _ _ h) fun ⟨_, _⟩ h1 => gives_bind (ih h1) fun ⟨_, _⟩ h2 => gives_ok h2

/-! ### Placement -/

theorem memForm_clearScratch (cluster : Nat) (h : s.memForm) : (s.clearScratch cluster).memForm := memWf_filter _ h

theorem memForm_parked (p : List Core) (h : s.memForm) : ({ s with parked := p } : State).memForm := h

theorem memForm_seatAll (l : Launch) (cs : List (Core × List Byte)) (h : s.memForm) : (s.seatAll l cs).memForm := by
  induction cs generalizing s with
  | nil => exact h
  | cons x r ih =>
    obtain ⟨c, bs⟩ := x
    unfold State.seatAll
    extract_lets share s1
    have h1 : s1.memForm := memForm_writeMem _ _ h
    exact ih (memForm_parked (s := s1) _ h1)

theorem memForm_fillTables (l : List Core) (h : s.memForm) : (s.fillTables l).memForm := by
  induction l generalizing s with
  | nil => exact h
  | cons c r ih => exact ih (memForm_fillFmt _ (memForm_focus c h))

theorem memForm_closeAll (l : List Core) (h : s.memForm) : (s.closeAll l).memForm := memForm_of_mem (closeAll_mem ..) h

theorem memForm_dropSaved (l : List SavedGang) (h : s.memForm) : (s.dropSaved l).memForm := by
  induction l generalizing s with
  | nil => exact h
  | cons v r ih =>
    have closed : ∀ x o, ((({ s with saved := x, orphans := o } : State)).closeAll v.cores).memForm := fun _ _ => memForm_closeAll _ h
    exact ih (memForm_ite (closed _ _) (memForm_giveCores _ (closed _ _)))

theorem memForm_markFaulted (lrec : Nat) (h : s.memForm) : (s.markFaulted lrec).memForm := h

theorem memForm_refuseGang (l : Launch) (die : Nat) (c : Cand) (f : FaultInfo) (h : s.memForm) : (s.refuseGang l die c f).memForm :=
  memForm_markFaulted _ (memForm_dropSaved _ (memForm_postRecord _ _ h))

theorem memForm_cores (c : Core) (p : List Core) (h : s.memForm) : ({ s with core := c, parked := p } : State).memForm := h

theorem memForm_startGang (l : Launch) (die cl : Nat) (cs : List (Core × List Byte)) (fill : Bool) (h : s.memForm) :
    (s.startGang l die cl cs fill).memForm := by
  unfold State.startGang
  extract_lets s1 s2 snap up s3
  have h1 : s1.memForm := memForm_seatAll _ _ (memForm_clearScratch _ h)
  have h2 : s2.memForm := memForm_ite h1 (memForm_ite (memForm_focus _ (memForm_fillTables _ h1)) (memForm_fillTables _ h1))
  exact memForm_addUse _ _ _ (memForm_cores (s := s2) _ _ h2)

theorem memForm_moveAll (cs : List Core) (new : Nat) (h : s.memForm) : (cs.foldl (fun s k => s.moveRecords k new) s).memForm := by
  induction cs generalizing s with
  | nil => exact h
  | cons k r ih => exact ih h

theorem memForm_saved (x : List SavedGang) (h : s.memForm) : ({ s with saved := x } : State).memForm := h

theorem memForm_placeGang (l : Launch) (die cl : Nat) (c : Cand) (h : s.memForm) : (s.placeGang l die cl c).memForm := by
  unfold State.placeGang
  extract_lets start l1 s0 share ptb
  have h0 : s0.memForm := memForm_launches _ h
  clear_value s0
  refine memForm_ite ?_ ?_
  · split
    · exact h
    · split
      · exact memForm_refuseGang _ _ _ _ h0
      · exact h
      · rename_i imgs s1 read
        have h1 : s1.memForm := (memForm_readImages _ _ _ h0).of _ read
        exact memForm_payErrs _ _ (memForm_startGang _ _ _ _ _ (memForm_moveAll _ _ (memForm_saved _ h1)))
  · split
    · exact memForm_refuseGang _ _ _ _ h0
    · exact h
    · rename_i imgs s1 read
      exact memForm_startGang _ _ _ _ _ ((memForm_readImages _ _ _ h0).of _ read)

@[simp] theorem startUses_mem (s : State) (die : Nat) (old l : List (Nat × Nat)) : (s.startUses die old l).mem = s.mem := by
  induction l generalizing s old with
  | nil => rfl
  | cons x r ih => exact ih ..

theorem memForm_noteRunnable (die : Nat) (h : s.memForm) : (s.noteRunnable die).memForm :=
  memForm_ite h (memForm_updDie _ _ (memForm_of_mem (startUses_mem ..) h))

theorem memForm_haltGang (l g : Nat) (k : StopKind) (h : s.memForm) : (s.haltGang l g k).memForm := h

theorem memForm_preemptLower (die : Nat) (h : s.memForm) : (s.preemptLower die).memForm := by
  unfold State.preemptLower
  extract_lets above
  split
  · exact h
  · exact memForm_ite h h

theorem memForm_gangPlace (die : Nat) (h : s.memForm) : (s.gangPlace die).memForm := by
  unfold State.gangPlace
  extract_lets s0
  have h0 : s0.memForm := memForm_noteRunnable die h
  split
  · exact h0
  · split
    · exact memForm_placeGang _ _ _ _ h0
    · exact memForm_preemptLower _ h0

/-! ### Launch rings -/

theorem memForm_checkRing (die node : Nat) (h : s.memForm) : (s.checkRing die node).memForm :=
  memForm_ite h (memForm_postRecord _ _ (memForm_writeMem _ _ h))

theorem memForm_tailxWrite (node value : Nat) (h : s.memForm) : (s.tailxWrite node value).memForm := by
  unfold State.tailxWrite
  extract_lets s1
  have h1 : s1.memForm := memForm_devWrite _ _ h
  split
  · exact memForm_checkRing _ _ h1
  · exact h1

theorem memForm_launchTake (die node : Nat) (h : s.memForm) : (s.launchTake die node).memForm := by
  unfold State.launchTake
  extract_lets s0 size head tail lrec l s1
  have h0 : s0.memForm := memForm_checkRing _ _ h
  have h1 : s1.memForm := memForm_writeMem _ _ h0
  exact memForm_ite h0 (memForm_ite h1 (memForm_ite (memForm_writeCpl _ _ h1)
    (memForm_preemptLower _ (memForm_noteRunnable _ (memForm_launches _ h1)))))

theorem memForm_sliceVictims (die : Nat) (l : List (Nat × (Nat × Nat))) (h : s.memForm) : (s.sliceVictims die l).memForm := by
  induction l generalizing s with
  | nil => exact h
  | cons w r ih =>
    unfold State.sliceVictims
    dsimp only
    split
    · exact ih h
    · exact ih h

theorem memForm_sliceEnd (die : Nat) (h : s.memForm) : (s.sliceEnd die).memForm :=
  memForm_ite h (memForm_sliceVictims _ _ (memForm_noteRunnable _ (memForm_updDie _ _ (memForm_walkRegion _ h))))

/-! ### Preemption, saves -/

theorem memForm_completeEach (l : List Core) (h : s.memForm) : (s.completeEach l).memForm := by
  induction l generalizing s with
  | nil => exact h
  | cons c r ih => exact ih (memForm_ite (memForm_completeJob (memForm_focus c h)) (memForm_focus c h))

theorem memForm_completeJobs (l : List Core) (h : s.memForm) : (s.completeJobs l).memForm :=
  memForm_ite (memForm_focus _ (memForm_completeEach _ h)) (memForm_completeEach _ h)

theorem memForm_preemptStop (lrec g : Nat) (h : s.memForm) : (s.preemptStop lrec g).memForm := by
  unfold State.preemptStop
  extract_lets cs s1
  have h1 : s1.memForm := memForm_completeJobs _ h
  refine memForm_ite h (memForm_ite h1 ?_)
  split
  · exact memForm_stopGang _ _ _ h1
  · exact memForm_stopGang _ _ _ h1
  · exact memForm_endGang _ _ h1

theorem memForm_writeImages (l : Launch) (stop free : Nat) (cs : List Core) (h : s.memForm) : Gives State.memForm (s.writeImages l stop free cs) := by
  induction cs generalizing s free with
  | nil => exact gives_ok h
  | cons c r ih => exact gives_then fun _ => gives_then fun _ => ih _ (memForm_writeIn _ _ _ (memForm_touchRows _ h))

theorem memForm_saveFails (v : SavedGang) (l : Launch) (f : FaultInfo) (h : s.memForm) : (s.saveFails v l f).memForm :=
  memForm_markFaulted _ (memForm_dropSaved _ (memForm_postRecord _ _ h))

theorem memForm_images (n : Nat) (x : List SavedGang) (l : List Launch) (h : s.memForm) :
    ({ s with freeN := n, saved := x, launches := l } : State).memForm := h

theorem memForm_gangSaved (lrec g : Nat) (h : s.memForm) : (s.gangSaved lrec g).memForm := by
  unfold State.gangSaved
  split
  · refine memForm_ite h ?_
    extract_lets canon cs
    split
    · exact memForm_saveFails _ _ _ h
    · exact h
    · rename_i s1 written
      have h1 : s1.memForm := (memForm_writeImages _ _ _ _ h).of _ written
      exact memForm_giveCores _ (memForm_images _ _ _ h1)
  · exact h

theorem memForm_launchDone (lrec : Nat) (h : s.memForm) : (s.launchDone lrec).memForm := by
  unfold State.launchDone
  split
  · exact h
  · split
    · exact h
    · exact memForm_finishLaunch _ _ (memForm_dropSaved _ h)

/-! ### Registers of launches -/

theorem memForm_stopLaunch (lrec : Nat) (l : List Nat) (h : s.memForm) : (s.stopLaunch lrec l).memForm := by
  induction l generalizing s with
  | nil => exact h
  | cons g r ih => exact ih (memForm_haltGang _ _ _ h)

theorem memForm_preqCancel (offset : Nat) (v : Word) (h : s.memForm) : (s.preqCancel offset v).memForm :=
  memForm_ite h (memForm_launches _ (memForm_dropSaved _ (memForm_stopLaunch _ _ h)))

theorem memForm_haltAll (lrec : Nat) (l : List Nat) (h : s.memForm) : (l.foldl (fun s g => s.requestStop lrec g) s).memForm := by
  induction l generalizing s with
  | nil => exact h
  | cons g r ih => exact ih h

theorem memForm_preqGo (offset : Nat) (v : Word) (h : s.memForm) : (s.preqGo offset v).memForm := memForm_haltAll _ _ h

theorem memForm_preqResume (offset : Nat) (v : Word) (h : s.memForm) : (s.preqResume offset v).memForm := h

theorem memForm_rootWrite (v : Word) (l : List Nat) (h : s.memForm) : (s.rootWrite v l).memForm := by
  induction l generalizing s with
  | nil => exact h
  | cons d r ih => exact ih (memForm_walkRegion _ (memForm_updDie _ _ h))

theorem memForm_hostGate (q : HostReq) {act : State → State} (h : s.memForm) (next : ∀ t, t.memForm → (act t).memForm) :
    (s.hostGate q act).memForm := memForm_ite h (memForm_ite h (next _ h))

end Sys2Proof.Proofs
end

section
/-!
PROOFS. Fencing, the Almanac, the loop's firmware and the fabric keep memory's form (log entry 2).
-/

namespace Sys2Proof.Proofs
open Sys2Proof Sys2Proof.Machine

variable {s : State}

/-! ### The Almanac's rounds -/

theorem memForm_updPort (p : Nat) (f : WPort → WPort) (h : s.memForm) : (s.updPort p f).memForm := h
theorem memForm_sendBytes (p ty : Nat) (bs : List Byte) (h : s.memForm) : (s.sendBytes p ty bs).memForm := h
theorem memForm_endRound (h : s.memForm) : s.endRound.memForm := h
theorem memForm_msgs (m : List AlmStep) (h : s.memForm) : ({ s with msgs := m } : State).memForm := h
theorem memForm_took (m : AlmStep) (h : s.memForm) : (s.took m).memForm := h
theorem memForm_host (x : HostSt) (h : s.memForm) : ({ s with host := x } : State).memForm := h
theorem memForm_updGen (f : GenLoop → GenLoop) (h : s.memForm) : (s.updGen f).memForm := h

theorem memForm_toPeers (m : AlmStep) (h : s.memForm) : (s.toPeers m).memForm := by
  unfold State.toPeers
  generalize s.gen.peers = l
  induction l generalizing s with
  | nil => exact h
  | cons p r ih => exact ih (memForm_sendBytes _ _ _ h)

theorem memForm_sendPrepare (h : s.memForm) : s.sendPrepare.memForm := by
  unfold State.sendPrepare
  extract_lets x iter delta m s1
  have h1 : s1.memForm := memForm_updDie _ _ h
  exact memForm_toPeers _ (memForm_msgs _ h1)

theorem memForm_restartRound (o : AlmMsg) (h : s.memForm) : (s.restartRound o).memForm :=
  memForm_sendPrepare (memForm_toPeers _ (memForm_msgs _ (memForm_endRound h)))

theorem memForm_fenceRound (d : Nat) (h : s.memForm) : (s.fenceRound d).memForm := by
  unfold State.fenceRound
  split
  · exact h
  · exact memForm_ite (memForm_ite h (memForm_endRound h)) (memForm_ite h (memForm_updDie _ _ (memForm_restartRound _ h)))

/-! ### Fencing -/

theorem memForm_endGangs (l : List (Nat × Nat)) (h : s.memForm) : (s.endGangs l).memForm := by
  induction l generalizing s with
  | nil => exact h
  | cons g r ih => exact ih (memForm_endGang _ _ h)

theorem memForm_loseEnd (die : Nat) (e : ChEnd) (h : s.memForm) : (s.loseEnd die e).memForm :=
  memForm_endOp _ _ (memForm_dropSends _ (memForm_updEnd _ _ _ h))

theorem memForm_loseEnds (die : Nat) (l : List ChEnd) (h : s.memForm) : (s.loseEnds die l).memForm := by
  induction l generalizing s with
  | nil => exact h
  | cons e r ih => exact ih (memForm_loseEnd _ _ h)

theorem memForm_losePeers (d : Nat) (l : List Nat) (h : s.memForm) : (s.losePeers d l).memForm := by
  induction l generalizing s with
  | nil => exact h
  | cons k r ih => exact ih (memForm_ite h (memForm_loseEnds _ _ h))

theorem memForm_abandonDie (d : Nat) (h : s.memForm) : (s.abandonDie d).memForm := h
theorem memForm_settleLaunches (d : Nat) (lost : Nat → List Nat) (h : s.memForm) : (s.settleLaunches d lost).memForm := h

theorem memForm_haltGangs (l : List (Nat × Nat)) (k : StopKind) (h : s.memForm) : (l.foldl (fun s g => s.haltGang g.1 g.2 k) s).memForm := by
  induction l generalizing s with
  | nil => exact h
  | cons g r ih => exact ih (memForm_haltGang _ _ _ h)

theorem memForm_fenceDie (d : Nat) (h : s.memForm) : (s.fenceDie d).memForm := by
  unfold State.fenceDie
  extract_lets lost mine s1 s2 s3 s4 s5 s6
  have h2 : s2.memForm := memForm_dropSaved _ (memForm_endGangs _ (memForm_abandonDie _ h))
  have h3 : s3.memForm := memForm_settleLaunches _ _ (memForm_updDie _ _ (memForm_losePeers _ _ h2))
  have h5 : s5.memForm := memForm_dropSaved _ (memForm_haltGangs _ _ h3)
  exact memForm_ite h (memForm_fenceRound _ (memForm_postRoot _ _ (memForm_host _ h5)))

theorem memForm_loseBridge (a f : Nat) (h : s.memForm) : (s.loseBridge a f).memForm := by
  unfold State.loseBridge
  extract_lets s1 dead s2
  have h1 : s1.memForm := h
  have h2 : s2.memForm := memForm_ite (memForm_fenceDie _ h1) h1
  exact memForm_ite (memForm_fenceDie _ h2) h2

theorem memForm_bridgeRetrain (a f : Nat) (h : s.memForm) : (s.bridgeRetrain a f).memForm := by
  unfold State.bridgeRetrain
  extract_lets ok s1 s2
  have h2 : s2.memForm := memForm_failBridge _ _ (memForm_freeN _ h)
  exact memForm_ite h2 (memForm_loseBridge _ _ h2)

theorem memForm_fenceAll (l : List Nat) (h : s.memForm) : (s.fenceAll l).memForm := by
  induction l generalizing s with
  | nil => exact h
  | cons d r ih => exact ih (memForm_fenceDie _ h)

theorem memForm_failRound (h : s.memForm) : s.failRound.memForm := by
  unfold State.failRound
  split
  · exact h
  · exact memForm_ite (memForm_updDie _ _ (memForm_restartRound _ h)) (memForm_updDie _ _ (memForm_restartRound _ (memForm_fenceAll _ (memForm_endRound h))))

/-! ### Mailboxes -/

theorem memForm_holdSlot (d i : Nat) (img : List Byte) (host : Bool) (h : s.memForm) : (s.holdSlot d i img host).memForm := h

theorem memForm_sampleRow (d node lrec : Nat) (p : PanSlot) (row : Nat) (h : s.memForm) : (s.sampleRow d node lrec p row).memForm := by
  unfold State.sampleRow
  split
  · exact h
  · extract_lets slot
    exact memForm_ite (memForm_postRecord _ _ (memForm_holdSlot _ _ _ _ h)) (memForm_ite h h)

theorem memForm_sampleRows (d node lrec : Nat) (p : PanSlot) (row n : Nat) (h : s.memForm) : (s.sampleRows d node lrec p row n).memForm := by
  induction n generalizing s row with
  | zero => exact h
  | succ n ih => exact ih _ (memForm_sampleRow _ _ _ _ _ h)

theorem memForm_mailWork (d q : Nat) (m : MboxCmd) (h : s.memForm) : (s.mailWork d q m).memForm := by
  refine memForm_ite h (memForm_ite ?_ h)
  split
  · exact h
  · exact memForm_sampleRows _ _ _ _ _ _ h

theorem memForm_merWrites (key : Nat) (bs : List Byte) (n : Nat) (h : s.memForm) : (s.merWrites key bs n).memForm := by
  induction n generalizing s key bs with
  | zero => exact h
  | succ n ih => exact memForm_ite h (ih _ _ (memForm_devWrite _ _ h))

theorem memForm_merWrite (key : Nat) (bs : List Byte) (h : s.memForm) : (s.merWrite key bs).memForm := memForm_merWrites _ _ _ h

theorem memForm_mailDone (q : Nat) (m : MboxCmd) (h : s.memForm) : (s.mailDone q m).memForm := by
  unfold State.mailDone
  extract_lets res s1 e s2
  have h1 : s1.memForm := by
    refine memForm_ite h ?_
    split
    · exact memForm_merWrite _ _ h
    · exact h
  exact memForm_endOp _ _ (memForm_updJob _ _ _ (memForm_freeN _ h1))

theorem beginSlot_mem (s : State) (d : Nat) (m : MboxCmd) : (s.beginSlot d m).1.mem = s.mem := by
  unfold State.beginSlot
  extract_lets done
  split
  · split <;> rfl
  · rfl

theorem beginMail_mem (s : State) (d : Nat) (l : List MboxCmd) : (s.beginMail d l).1.mem = s.mem := by
  induction l with
  | nil => rfl
  | cons m r ih =>
    unfold State.beginMail
    split
    · exact beginSlot_mem ..
    · exact ih

theorem memForm_serveMail (d q : Nat) (h : s.memForm) : (s.serveMail d q).memForm := by
  unfold State.serveMail
  extract_lets l
  clear_value l
  refine memForm_ite h (memForm_ite (memForm_of_mem (beginMail_mem s d l) h) ?_)
  split
  · exact h
  · exact memForm_ite h (memForm_mailDone _ _ (memForm_mailWork _ _ _ (memForm_updDie _ _ h)))

/-! ### Messages -/

theorem memForm_prepareAt (die : Nat) (m : AlmMsg) (h : s.memForm) : (s.prepareAt die m).memForm := h
theorem memForm_tookPrepare (die : Nat) (h : s.memForm) : (s.tookPrepare die).memForm := h

theorem memForm_ackFrom (die : Nat) (iter : BitVec 32) (h : s.memForm) : (s.ackFrom die iter).memForm :=
  memForm_ite (memForm_toPeers _ (memForm_msgs _ (memForm_updDie _ _ h))) (memForm_updDie _ _ h)

theorem memForm_writeSlots (base : Nat) (l : List (Nat × List Byte)) (h : s.memForm) : (s.writeSlots base l).memForm := by
  induction l generalizing s with
  | nil => exact h
  | cons x r ih => exact ih (memForm_merWrite _ _ h)

theorem memForm_applied (die : Nat) (h : s.memForm) : (s.applied die).memForm := by
  unfold State.applied
  split
  · exact h
  · exact memForm_ite h (memForm_ite (memForm_updDie _ _ h) (memForm_endRound (memForm_updDie _ _ h)))

theorem memForm_commitAt (die : Nat) (h : s.memForm) : (s.commitAt die).memForm := memForm_applied _ (memForm_updDie _ _ (memForm_writeSlots _ _ h))

theorem memForm_abortAt (die : Nat) (iter : BitVec 32) (h : s.memForm) : (s.abortAt die iter).memForm := by
  unfold State.abortAt
  split
  · exact h
  · exact memForm_ite h h

/-! ### The loop's firmware -/

theorem memForm_enqueueNext (node lrec : Nat) (r : List (Nat × Nat)) (h : s.memForm) : (s.enqueueNext node lrec r).memForm :=
  memForm_ite h (memForm_ite (memForm_updGen _ (memForm_merWrite _ _ h)) (memForm_updGen _ (memForm_tailxWrite _ _ h)))

theorem foldl_mem {α : Type} {f : State → α → State} (keeps : ∀ t x, (f t x).mem = t.mem) (l : List α) (s : State) : (l.foldl f s).mem = s.mem := by
  induction l generalizing s with
  | nil => rfl
  | cons x r ih => exact (ih _).trans (keeps s x)

theorem holdAll_mem (s : State) (i : Nat) (img : List Byte) : (s.holdAll i img).mem = s.mem :=
  foldl_mem (f := fun s d => s.holdSlot d i img false) (fun _ _ => rfl) _ _

theorem holdWaiting_mem (s : State) : s.holdWaiting.mem = s.mem := foldl_mem (fun _ _ => holdAll_mem ..) _ _

theorem holdAccepted_mem (s : State) : s.holdAccepted.mem = s.mem := by
  refine foldl_mem (fun t i => ?_) _ _
  split
  · rfl
  · split
    · rfl
    · exact holdAll_mem ..

theorem memForm_beginIteration (h : s.memForm) : s.beginIteration.memForm := h

theorem memForm_loopStep (h : s.memForm) : s.loopStep.memForm := by
  unfold State.loopStep
  extract_lets g
  clear_value g
  refine memForm_ite h ?_
  split
  · exact memForm_enqueueNext _ _ _ h
  · refine memForm_ite h (memForm_ite (memForm_beginIteration h) (memForm_ite ?_ (memForm_ite (memForm_updGen _ h) (memForm_ite ?_ (memForm_ite h ?_)))))
    · exact memForm_ite (memForm_ite (memForm_updGen _ (memForm_sendPrepare h)) h) (memForm_ite (memForm_beginIteration h) h)
    · exact memForm_updGen _ (memForm_ite (memForm_of_mem (holdWaiting_mem s) h) h)
    · exact memForm_updGen _ (memForm_ite (memForm_of_mem (holdAccepted_mem s) h) h)

/-! ### Topology and collectives -/

theorem memForm_writeErrs (a i : Nat) (l : List Nat) (h : s.memForm) : (s.writeErrs a i l).memForm := by
  induction l generalizing s i with
  | nil => exact h
  | cons x r ih => exact ih _ (memForm_writeMem _ _ h)

theorem memForm_topoDone (h : s.memForm) : s.topoDone.memForm := by
  unfold State.topoDone
  extract_lets a count self finish errs s1 ents
  have ended : ∀ (t : State) st, t.memForm → (finish t st).memForm := fun _ _ ht => ht
  have h1 : s1.memForm := memForm_writeErrs _ _ _ h
  exact memForm_ite (ended _ _ h) (memForm_ite (ended _ _ h1) (ended _ _ (memForm_host _ h1)))

theorem memForm_passTo (e key : Nat) (bs : List Byte) (h : s.memForm) : (s.passTo e key bs).memForm := by
  unfold State.passTo
  extract_lets s1
  split <;> exact h

theorem memForm_passUp (h : s.memForm) : s.passUp.memForm := by
  unfold State.passUp
  split
  · exact h
  · extract_lets root kids
    split
    · exact h
    · exact memForm_ite h (memForm_passTo _ _ _ (memForm_host _ h))

theorem memForm_devWrites (l : List (Nat × List Byte)) (h : s.memForm) : (s.devWrites l).memForm := by
  induction l generalizing s with
  | nil => exact h
  | cons x r ih => exact ih (memForm_devWrite _ _ h)

theorem memForm_takeItem (c : Coll) (origin : Nat) (data : List Byte) (h : s.memForm) : (s.takeItem c origin data).memForm :=
  memForm_passUp (memForm_ite (memForm_devWrites _ (memForm_host _ h)) (memForm_host _ h))

theorem memForm_arriveItem (i : FabItem) (data : List Byte) (h : s.memForm) : (s.arriveItem i data).memForm := by
  unfold State.arriveItem
  extract_lets held
  split
  · exact memForm_ite (memForm_takeItem _ _ _ h) h
  · exact h

theorem memForm_ringStep (i : FabItem) (data : List Byte) (h : s.memForm) : (s.ringStep i data).memForm := by
  unfold State.ringStep
  extract_lets h0 s1 s2
  have h1 : s1.memForm := memForm_ite (memForm_host _ h) h
  exact memForm_ite h (memForm_arriveItem _ _ (memForm_ite (memForm_passTo _ _ _ h1) h1))

theorem memForm_takeEarly (l : List (FabItem × List Byte)) (h : s.memForm) : (s.takeEarly l).memForm := by
  induction l generalizing s with
  | nil => exact h
  | cons x r ih => exact ih (memForm_arriveItem _ _ h)

theorem memForm_startColl (h : s.memForm) : s.startColl.memForm := by
  unfold State.startColl
  split
  · extract_lets c x s1 y s2 s3
    have h2 : s2.memForm := memForm_host (s := s1) _ (memForm_host _ h)
    have h3 : s3.memForm := memForm_ite (memForm_passTo _ _ _ h2) h2
    exact memForm_ite (memForm_host _ h) (memForm_takeEarly _ (memForm_passUp h3))
  · exact h

theorem memForm_colqWrite (v : Word) (h : s.memForm) : (s.colqWrite v).memForm := memForm_ite h (memForm_startColl (memForm_host _ h))

theorem memForm_passDown (bs : List Byte) (l : List Nat) (h : s.memForm) : (s.passDown bs l).memForm := by
  induction l generalizing s with
  | nil => exact h
  | cons e r ih => exact ih (memForm_passTo _ _ _ h)

theorem memForm_collComplete (h : s.memForm) : s.collComplete.memForm := by
  unfold State.collComplete
  split
  · exact h
  · extract_lets s0 s1 s2 s3
    have h0 : s0.memForm := memForm_passUp h
    have h1 : s1.memForm := by
      unfold s1
      split
      · exact h0
      · split
        · exact memForm_passDown _ _ (memForm_writeMem _ _ h0)
        · exact memForm_passDown _ _ (memForm_writeMem _ _ h0)
        · exact memForm_writeMem _ _ h0
    have h2 : s2.memForm := memForm_ite (memForm_writeMem _ _ h1) h1
    have h3 : s3.memForm := memForm_ite h2 (memForm_raiseSync _ _ h2)
    exact memForm_startColl (memForm_host _ h3)

/-! ### Ports -/

theorem memForm_portDown (p : Nat) (h : s.memForm) : (s.portDown p).memForm := by
  unfold State.portDown
  extract_lets s1 e
  have h1 : s1.memForm := memForm_updPort _ _ h
  split
  · exact h1
  · exact memForm_ite (memForm_passUp (memForm_host _ h1)) h1

theorem memForm_retrainPort (p : Nat) (trained : Bool) (h : s.memForm) : (s.retrainPort p trained).memForm :=
  memForm_ite (memForm_updPort _ _ h) (memForm_portDown _ h)

theorem memForm_dropLane (p lane : Nat) (h : s.memForm) : (s.dropLane p lane).memForm := memForm_ite (memForm_portDown _ h) (memForm_updPort _ _ h)

theorem memForm_dropWorn (port : Nat) (l : List Nat) (h : s.memForm) : (s.dropWorn port l).memForm := by
  induction l generalizing s with
  | nil => exact h
  | cons i r ih => exact ih (memForm_ite (memForm_dropLane _ _ h) h)

theorem memForm_switchWidth (p : Nat) (h : s.memForm) : (s.switchWidth p).memForm := by
  unfold State.switchWidth
  extract_lets x
  split
  · exact h
  · exact memForm_ite (memForm_portDown _ h) (memForm_updPort _ _ h)

end Sys2Proof.Proofs
end

section
/-!
PROOFS. Bring-up, the host link and row management keep memory's form (log entry 2).
-/

namespace Sys2Proof.Proofs
open Sys2Proof Sys2Proof.Machine

variable {s : State}

/-! ### Bring-up -/

theorem memForm_updHost (f : HostSt → HostSt) (h : s.memForm) : (s.updHost f).memForm := h
theorem memForm_filter {t : State} (p : Host.Cell → Bool) (e : t.mem = s.mem.filter p) (h : s.memForm) : t.memForm := by
  unfold State.memForm
  rw [e]
  exact memWf_filter p h

theorem memForm_dies (d : List Die) (h : s.memForm) : ({ s with dies := d } : State).memForm := h
theorem memForm_measure (i : Nat) (bs : List Byte) (h : s.memForm) : (s.measure i bs).memForm := h
theorem memForm_beginPhase (n : Nat) (h : s.memForm) : (s.beginPhase n).memForm := h
theorem memForm_loadFirmware (h : s.memForm) : s.loadFirmware.memForm := h
theorem memForm_bootFence (failed : List Nat) (h : s.memForm) : (s.bootFence failed).memForm := h
theorem memForm_trainPorts (h : s.memForm) : s.trainPorts.memForm := h
theorem memForm_clearMemory (h : s.memForm) : s.clearMemory.memForm := memForm_filter _ rfl h
theorem memForm_becomeReady (h : s.memForm) : s.becomeReady.memForm := h
theorem memForm_bootFail (code : Nat) (h : s.memForm) : (s.bootFail code).memForm := h

theorem memForm_phaseEnd (failed : List Nat) (refuse : Bool) (h : s.memForm) : (s.phaseEnd failed refuse).memForm := by
  unfold State.phaseEnd
  split
  · have h1 := memForm_measure 2 (s.host.fwImage.getD Config.bootImage) (memForm_measure 1 Config.romImage h)
    exact memForm_ite (memForm_bootFail _ h1) (memForm_beginPhase _ (memForm_loadFirmware h1))
  · exact memForm_ite (memForm_bootFail _ h) (memForm_beginPhase _ (memForm_trainPorts (memForm_bootFence _ h)))
  · split
    · exact memForm_bootFail _ h
    · refine memForm_ite (memForm_bootFail _ h) (memForm_ite (memForm_bootFail _ h) ?_)
      exact memForm_beginPhase _ (memForm_measure _ _ (memForm_clearMemory (memForm_bootFence _ (memForm_host _ h))))
  · refine memForm_ite (memForm_bootFail _ h) ?_
    extract_lets s1 s2
    have h2 : s2.memForm := memForm_dies (s := s1) _ (memForm_bootFence _ h)
    exact memForm_ite (memForm_bootFail _ h2) (memForm_beginPhase _ h2)
  · exact memForm_becomeReady h

theorem memForm_rebootWith (img : Option (List Byte)) (h : s.memForm) : (s.rebootWith img).memForm := h
theorem memForm_powerCycle (h : s.memForm) : s.powerCycle.memForm := memForm_filter _ rfl h

theorem spdm_mem {f : State → State} (keeps : (f s).mem = s.mem) : (s.spdm f).mem = s.mem := by
  unfold State.spdm
  split
  · rfl
  · split
    · rfl
    · exact keeps

theorem memForm_spdm {f : State → State} (keeps : (f s).mem = s.mem) (h : s.memForm) : (s.spdm f).memForm := memForm_of_mem (spdm_mem keeps) h

/-! ### Device memory -/

theorem memForm_hostRead (addr len : Nat) (h : s.memForm) : (s.hostRead addr len).memForm := by
  unfold State.hostRead
  extract_lets bad owned data s1
  have h1 : s1.memForm := memForm_updHost _ (memForm_touchRows _ h)
  exact memForm_ite h (memForm_ite h (memForm_ite h (memForm_ite h (memForm_ite (memForm_freeN _ h1) h1))))

theorem memForm_writeLines (l : List (Nat × List Byte)) (h : s.memForm) : (s.writeLines l).memForm := by
  induction l generalizing s with
  | nil => exact h
  | cons x r ih => exact ih (memForm_ite h (memWf_memWrite _ _ h))

theorem memForm_hostWrite (addr : Nat) (bs : List Byte) (h : s.memForm) : (s.hostWrite addr bs).memForm := by
  unfold State.hostWrite
  extract_lets keys
  exact memForm_ite h (memForm_ite h (memForm_writeLines _ (memForm_touchRows _ h)))

/-! ### Registers -/

theorem regWrite_mem (s : State) (offset : Nat) (v : Word) : (s.regWrite offset v).mem = s.mem := by
  unfold State.regWrite
  split
  · split <;> rfl
  · exact foldl_mem (f := fun s d => s.updDie d fun x => { x with hold := v.getLsbD 32, slice := max 10000 (v.toNat % 2 ^ 32) }) (fun _ _ => rfl) _ _

theorem memForm_regWrite (offset : Nat) (v : Word) (h : s.memForm) : (s.regWrite offset v).memForm := memForm_of_mem (regWrite_mem ..) h

theorem memForm_ideerrWrite (v : Word) (h : s.memForm) : (s.ideerrWrite v).memForm := memForm_ite h (memForm_ite h h)
theorem memForm_tlbinvWrite (v : Word) (h : s.memForm) : (s.tlbinvWrite v).memForm := memForm_ite h h

theorem memForm_tlbinvDone (h : s.memForm) : s.tlbinvDone.memForm := by
  unfold State.tlbinvDone
  split <;> exact h

theorem memForm_rowctlWrite (v : Word) (h : s.memForm) : (s.rowctlWrite v).memForm := memForm_ite h h
theorem memForm_cdisWrite (die : Nat) (v : Word) (h : s.memForm) : (s.cdisWrite die v).memForm := memForm_ite h h

theorem memForm_faqPop (h : s.memForm) : s.faqPop.memForm := by
  unfold State.faqPop
  split <;> exact h

theorem memForm_hbmError (dpa type : Nat) (h : s.memForm) : (s.hbmError dpa type).memForm := by
  unfold State.hbmError
  extract_lets first s1 s2
  have h2 : s2.memForm := memForm_ite h h
  exact memForm_ite h2 h2

theorem memForm_appendBad (frame spare : Nat) (excl : Bool) (h : s.memForm) : (s.appendBad frame spare excl).memForm := h

theorem memForm_retireFrame (v : Word) (excl : Bool) (h : s.memForm) : (s.retireFrame v excl).memForm := by
  unfold State.retireFrame
  extract_lets frame st stack spare s1
  have h1 : s1.memForm := memForm_updHost _ h
  exact memForm_ite h (memForm_ite h1 (memForm_ite (memForm_updHost _ (memForm_appendBad _ _ _ h1)) (memForm_updHost _ (memForm_appendBad _ _ _ h1))))

theorem memForm_topoWrite (v : Word) (h : s.memForm) : (s.topoWrite v).memForm := by
  unfold State.topoWrite
  exact memForm_ite h h

/-! ### Rows -/

theorem memForm_refreshRows (bank : Nat) (h : s.memForm) : (s.refreshRows bank).memForm := by
  unfold State.refreshRows
  extract_lets b
  split
  · exact h
  · exact h

theorem chargeAll_mem (s : State) (bank : Nat) (l : List (Nat × Nat × List Block)) : (s.chargeAll bank l).mem = s.mem := by
  induction l generalizing s with
  | nil => rfl
  | cons w r ih => exact (ih _).trans (updJob_mem ..)

theorem releaseBank_mem (s : State) (bank : Nat) : (s.releaseBank bank).mem = s.mem := chargeAll_mem ..

theorem memForm_flashRebuild (page : Nat) (rebuilt : Bool) (h : s.memForm) : (s.flashRebuild page rebuilt).memForm := by
  have bad : ({ s with flashBad := page :: s.flashBad } : State).memForm := h
  exact memForm_ite h (memForm_ite h (memForm_postRoot _ _ bad))

/-! ### Requests that were held -/

theorem memForm_run (q : HostReq) (h : s.memForm) : (q.run s).memForm := by
  have gate : ∀ {act : State → State}, (∀ t, t.memForm → (act t).memForm) → (s.hostGate q act).memForm := fun next => memForm_hostGate q h next
  cases q with
  | read a n => exact memForm_ite h (memForm_hostRead _ _ h)
  | write a b => exact memForm_ite h (memForm_hostWrite _ _ h)
  | reg o v => exact gate fun _ ht => memForm_regWrite _ _ ht
  | root o v => exact gate fun _ ht => memForm_rootWrite _ _ ht
  | preqGo o v => exact gate (act := fun s => if v.getLsbD 0 && !v.getLsbD 1 then s.preqGo o v else s) fun _ ht => memForm_ite (memForm_preqGo _ _ ht) ht
  | preqCancel o v => exact gate (act := fun s => if v.getLsbD 1 then s.preqCancel o v else s) fun _ ht => memForm_ite (memForm_preqCancel _ _ ht) ht
  | preqResume o v => exact gate (act := fun s => if v.getLsbD 2 && !v.getLsbD 1 then s.preqResume o v else s) fun _ ht => memForm_ite (memForm_preqResume _ _ ht) ht
  | ideerr v => exact memForm_ideerrWrite _ h
  | tlbinv v => exact gate fun _ ht => memForm_tlbinvWrite _ ht
  | faq => exact gate fun _ ht => memForm_faqPop ht
  | remap v => exact gate fun _ ht => memForm_retireFrame _ _ ht
  | exclude v => exact gate fun _ ht => memForm_retireFrame _ _ ht
  | rowctl v => exact gate fun _ ht => memForm_rowctlWrite _ ht
  | cdis d v => exact gate fun _ ht => memForm_cdisWrite _ _ ht

theorem memForm_runAll (l : List HostReq) (h : s.memForm) : (l.foldl (fun s q => q.run s) s).memForm := by
  induction l generalizing s with
  | nil => exact h
  | cons q r ih => exact ih (memForm_run q h)

theorem memForm_runHeld (h : s.memForm) : s.runHeld.memForm := memForm_runAll _ (memForm_updHost _ h)

theorem memForm_backoffDone (bank : Nat) (h : s.memForm) : (s.backoffDone bank).memForm := by
  unfold State.backoffDone
  split
  · exact h
  · exact memForm_ite (memForm_runHeld (memForm_of_mem (releaseBank_mem ..) h)) h

theorem memForm_retireDone (h : s.memForm) : s.retireDone.memForm := by
  unfold State.retireDone
  extract_lets a s1 s2
  have h1 : s1.memForm := h
  exact memForm_ite h (memForm_runHeld (memForm_ite (memForm_postRoot _ _ h1) h1))

end Sys2Proof.Proofs
end

section
/-!
PROOFS. Every step of the machine is sound: it refuses nothing, stops by `noBacking` alone, and keeps memory's form (R352, log entry 2).
-/

namespace Sys2Proof.Proofs
open Sys2Proof Sys2Proof.Machine

/-! ### Sound outcomes -/

/-- An outcome that refuses nothing, and a next state whose memory keeps its form. -/
structure Sound (s : State) (o : Out) : Prop where
  unrefused : ∀ r, o ≠ .refused r
  form : s.memForm → ∀ t, o = .next t → t.memForm

variable {s : State}

theorem sound_next {t : State} (h : s.memForm → t.memForm) : Sound s (.next t) := ⟨nofun, fun form _ e => by cases e; exact h form⟩

/-- An attempt whose result keeps memory's form is sound. -/
theorem sound_outcome {r : Res State} (h : s.memForm → Gives State.memForm r) : Sound s (outcome s r) :=
  ⟨outcome_ne_refused s r, fun form _ e => memForm_outcome form (h form).of e⟩

/-- So is an attempt of one stream. -/
theorem sound_outcomeOf {k : Strm} {r : Res State} (h : s.memForm → Gives State.memForm r) : Sound s (outcomeOf s k r) :=
  have sound : Sound { s with cur := k } (outcomeOf s k r) := sound_outcome h
  ⟨sound.unrefused, sound.form⟩

theorem sound_ite {c : Prop} [Decidable c] {o p : Out} (ho : Sound s o) (hp : Sound s p) : Sound s (if c then o else p) := by
  split <;> assumption

/-- What is calm keeps memory's form. -/
theorem gives_form_of_calms {u : State} {r : Res State} (h : Calms False u r) (form : u.memForm) : Gives State.memForm r := gives_mono h fun _ calm => calm.form form

/-! ### The steps of a section, an event, a wait -/

theorem memForm_enterSection (k : Strm) (h : s.memForm) : Gives State.memForm (s.enterSection k) := by
  have kept : ∀ f, Gives State.memForm (.ok (s.updK k f)) := fun f => gives_ok (memForm_updK k f h)
  unfold State.enterSection
  extract_lets x
  refine gives_ite (gives_error _) ?_
  split
  · exact gives_error _
  · exact gives_ite (gives_error _) (gives_ite (kept _) (gives_ite (gives_error _) (gives_ite (kept _) (gives_ite (gives_error _)
      (gives_ite (gives_error _) (kept _))))))

theorem memForm_takeEvent (k : Strm) (h : s.memForm) : Gives State.memForm (s.takeEvent k) := by
  unfold State.takeEvent
  extract_lets x
  refine gives_ite (gives_error _) ?_
  split
  · exact gives_ok h
  · exact gives_form_of_calms (enterHandler_calm ..) (memForm_updK _ _ h)

theorem sound_sectionEntry (k : Strm) (s : State) : Sound s (execSectionEntry k s) :=
  sound_ite (sound_outcomeOf (memForm_enterSection k)) (sound_next id)

theorem sound_sectionRetire (k : Strm) (s : State) : Sound s (execSectionRetire k s) :=
  sound_ite (sound_next fun h => memForm_updC _ (memForm_updK _ _ h)) (sound_next id)

theorem sound_eventTaken (k : Strm) (s : State) : Sound s (execEventTaken k s) :=
  sound_ite (sound_outcomeOf (memForm_takeEvent k)) (sound_next id)

theorem sound_swwaitComplete (s : State) : Sound s (execSwwaitComplete s) := by
  unfold execSwwaitComplete
  split
  · exact sound_ite (sound_outcomeOf fun h => gives_form_of_calms (swwaitWord_calm { s with cur := .a } _) h) (sound_next id)
  · exact sound_next id

theorem memForm_refillStall (keys : List Nat) (h : s.memForm) : ({ ({ s with cur := .m } : State).stall keys with cur := s.cur } : State).memForm :=
  memForm_stall (s := { s with cur := .m }) _ h

theorem sound_rdzJoin (s : State) : Sound s (execRdzJoin s) := by
  refine sound_next fun h => memForm_ite h ?_
  split
  · exact memForm_refillStall _ h
  · exact memForm_rdzJoin h

/-! ### Every instruction -/

theorem sound_word {i : Instr} (word : isWord i) (s : State) : Sound s (exec i s) := by
  obtain ⟨r, e, rests⟩ := word_rests (quiet := False) (s := s) word (fun q => q.elim) (fun _ => loud) fun _ q => q.elim
  rw [e]
  exact sound_outcome fun h => gives_mono rests fun _ calm => calm.form h

theorem sound_spdm {f : State → State} (keeps : (f s).mem = s.mem) : Sound s (.next (s.spdm f)) := sound_next (memForm_spdm keeps)

theorem exec_sound (i : Instr) (s : State) : Sound s (exec i s) := by
  by_cases word : isWord i
  · exact sound_word word s
  · cases i with
    | resultLands => exact sound_next fun h => memForm_landDue _ h
    | loadDataReturn id | storePerform id | atomicPerform id | tileLoadComplete id row | gatherComplete id | tileImageLoadComplete id =>
      exact sound_next fun h => memForm_attempt _ _ _ h
    | sectionEntry k => exact sound_sectionEntry k s
    | sectionRetire k => exact sound_sectionRetire k s
    | rdzJoin => exact sound_rdzJoin s
    | streamDeadlock => exact sound_next fun h => memForm_ite (memForm_raiseDeadlock h) h
    | jobComplete => exact sound_next fun h => memForm_ite (memForm_completeJob h) h
    | eventTaken k => exact sound_eventTaken k s
    | rakeRowPerform id row => exact sound_next fun h => memForm_copyRow _ _ h
    | swwaitComplete => exact sound_swwaitComplete s
    | windowFetchPerform id row => exact sound_next fun h => memForm_ite (memForm_fetchRow _ _ h) h
    | pgenTilePush port => exact sound_next fun h => memForm_ite (memForm_pgenPush _ h) h
    | mailboxCommand die queue => exact sound_next fun h => memForm_ite (memForm_serveMail _ _ h) h
    | tierMigrationComplete id => exact sound_next fun h => memForm_finishMig _ h
    | contextAreaClearDone die ctx => exact sound_next fun h => memForm_clearDone _ _ h
    | kvwComplete die id => exact sound_next fun h => memForm_kvwComplete _ _ h
    | forkCopyDone die ctx => exact sound_next fun h => memForm_forkDone _ _ h
    | kvCommandApply die id => exact sound_next fun h => memForm_kvApply _ _ h
    | orreryReclaimStep die ctx | orreryReleaseStep die ctx => exact sound_next fun h => memForm_background _ _ _ _ h
    | slabPageMove die ctx => exact sound_next fun h => memForm_slabMove _ _ h
    | orreryBatchPerformed die id => exact sound_next fun h => memForm_batchDone _ _ h
    | attnPageCompute die id => exact sound_next fun h => memForm_attnStep _ _ h
    | attnComplete die id => exact sound_next fun h => memForm_attnDone _ _ h
    | channelMatch die num => exact sound_next fun h => memForm_matchEnds _ _ h
    | permitArrive die num => exact sound_next fun h => memForm_permitArrive _ _ h
    | setArrived die num => exact sound_next fun h => memForm_setArrived _ _ h
    | bridgeBeatReplay die num => exact sound_next fun h => memForm_beatReplay _ _ h
    | bridgeRetrain adie fdie => exact sound_next fun h => memForm_ite (memForm_bridgeRetrain _ _ h) h
    | xcloseComplete die num => exact sound_next fun h => memForm_closeDone _ _ h
    | panStoreObserve die => exact sound_next fun h => memForm_panObserve _ h
    | launchTake die node => exact sound_next fun h => memForm_ite (memForm_launchTake _ _ h) h
    | tailxWrite node value => exact sound_next fun h => memForm_ite (memForm_tailxWrite _ _ h) h
    | gangPlace die => exact sound_next fun h => memForm_ite (memForm_gangPlace _ h) h
    | sliceEnd die => exact sound_next fun h => memForm_ite (memForm_sliceEnd _ h) h
    | preemptStop lrec gang => exact sound_next fun h => memForm_preemptStop _ _ h
    | gangSaveComplete lrec gang => exact sound_next fun h => memForm_gangSaved _ _ h
    | launchComplete lrec => exact sound_next fun h => memForm_launchDone _ h
    | powerGood => exact sound_next fun h => memForm_ite (memForm_beginPhase _ h) (memForm_powerCycle h)
    | phaseComplete failed refuse => exact sound_next fun h => memForm_ite (memForm_phaseEnd _ _ h) h
    | phaseTimeout => exact sound_next fun h => memForm_ite (memForm_bootFail _ h) h
    | deviceReset => exact sound_next fun h => memForm_rebootWith _ h
    | firmwareUpdate image sig => exact sound_next fun h => memForm_ite (memForm_rebootWith _ h) h
    | cxlMemRead addr len => exact sound_next fun h => memForm_ite h (memForm_hostRead _ _ h)
    | cxlMemWrite addr bytes => exact sound_next fun h => memForm_ite h (memForm_hostWrite _ _ h)
    | ideEstablished => exact sound_next fun h => memForm_ite (memForm_runHeld (memForm_updHost _ h)) h
    | ideKeyRefresh => exact sound_next fun h => memForm_ite (memForm_updHost _ h) h
    | ideIntegrityFail => exact sound_next fun h => memForm_ite (memForm_updHost _ h) h
    | ideerrClear value => exact sound_next fun h => memForm_ideerrWrite _ h
    | registerWrite offset value => exact sound_next fun h => memForm_run (.reg offset value) h
    | rootWrite offset value => exact sound_next fun h => memForm_run (.root offset value) h
    | preqGo offset value => exact sound_next fun h => memForm_run (.preqGo offset value) h
    | preqCancel offset value => exact sound_next fun h => memForm_run (.preqCancel offset value) h
    | preqResume offset value => exact sound_next fun h => memForm_run (.preqResume offset value) h
    | tlbinvWrite value => exact sound_next fun h => memForm_run (.tlbinv value) h
    | tlbinvComplete => exact sound_next fun h => memForm_tlbinvDone h
    | faqPop => exact sound_next fun h => memForm_run .faq h
    | hbmErrorReport dpa type => exact sound_next fun h => memForm_ite (memForm_hbmError _ _ h) h
    | retireRemap value => exact sound_next fun h => memForm_run (.remap value) h
    | retireExclude value => exact sound_next fun h => memForm_run (.exclude value) h
    | retireComplete => exact sound_next fun h => memForm_retireDone h
    | rowctlWrite value => exact sound_next fun h => memForm_run (.rowctl value) h
    | rowActivation dpa => exact sound_next fun h => memForm_ite (memForm_touchRow _ h) h
    | refreshManagement bank => exact sound_next fun h => memForm_refreshRows _ h
    | backoffEnd bank => exact sound_next fun h => memForm_backoffDone _ h
    | periodicRefresh bank row => exact sound_next fun h => memForm_ite (memForm_banks _ h) h
    | flashRebuild page rebuilt => exact sound_next fun h => memForm_flashRebuild _ _ h
    | watchdogWrite die => exact sound_next fun h => memForm_ite (memForm_fenceDie _ h) (memForm_ite (memForm_updDie _ _ h) h)
    | watchdogExpire die => exact sound_next fun h => memForm_ite (memForm_fenceDie _ h) h
    | cdisWrite die value => exact sound_next fun h => memForm_run (.cdis die value) h
    | prepare die m => exact sound_next fun h => memForm_ite (memForm_prepareAt _ _ (memForm_tookPrepare _ h)) (memForm_took _ h)
    | ack die iter => exact sound_next fun h => memForm_ite (memForm_ackFrom _ _ (memForm_took _ h)) (memForm_took _ h)
    | nack die iter => exact sound_next fun h => memForm_ite (memForm_failRound (memForm_took _ h)) (memForm_took _ h)
    | commit die m => exact sound_next fun h => memForm_ite (memForm_commitAt _ (memForm_took _ h)) (memForm_took _ h)
    | abort die m => exact sound_next fun h => memForm_ite (memForm_abortAt _ _ (memForm_took _ h)) (memForm_took _ h)
    | almanacAckTimeout => exact sound_next fun h => memForm_ite (memForm_failRound h) h
    | flitReceive port flit => exact sound_next fun h => memForm_ite (memForm_dropWorn _ _ (memForm_updPort _ _ h)) h
    | nakReceive port seq => exact sound_next fun h => memForm_ite (memForm_updPort _ _ h) h
    | portRetrain port trained => exact sound_next fun h => memForm_ite (memForm_retrainPort _ _ h) h
    | laneDrop port lane => exact sound_next fun h => memForm_ite (memForm_dropLane _ _ h) h
    | laneWidthSwitch port => exact sound_next fun h => memForm_ite (memForm_switchWidth _ h) h
    | topoLoad value => exact sound_next fun h => memForm_ite (memForm_topoWrite _ h) h
    | topoLoadComplete => exact sound_next fun h => memForm_ite (memForm_topoDone h) h
    | colqSubmit value => exact sound_next fun h => memForm_ite (memForm_colqWrite _ h) h
    | ringStep item triple => exact sound_next fun h => memForm_ringStep _ _ h
    | collectiveComplete => exact sound_next fun h => memForm_ite (memForm_collComplete h) h
    | getVersion | getCapabilities | getDigests | getCertificate slot | challenge nonce | getMeasurements => exact sound_spdm rfl
    | negotiateAlgorithms mldsa65 shake256 | keyExchange share | finish verified | keyUpdate | endSession =>
      exact sound_spdm (ite_both (P := fun t : State => t.mem = s.mem) rfl rfl)
    | sharedInfrastructureMachineCheck die => exact sound_next fun h => memForm_ite (memForm_fenceDie _ h) h
    | _ => exact absurd rfl word

/-! ### The device's own steps -/

theorem petDue_sound (i : Nat) (s : State) : Sound s (petDue i s) := sound_ite (exec_sound (.watchdogWrite i) s) (sound_next id)

/-- A list of steps that are sound wherever they are taken. -/
def AllSound (l : List (State → Out)) : Prop := ∀ f ∈ l, ∀ s, Sound s (f s)

theorem allSound_nil : AllSound [] := nofun
theorem allSound_cons {f : State → Out} {l : List (State → Out)} (hf : ∀ s, Sound s (f s)) (hl : AllSound l) : AllSound (f :: l)
  | _, .head _ => hf
  | _, .tail _ m => hl _ m
theorem allSound_append {l m : List (State → Out)} (hl : AllSound l) (hm : AllSound m) : AllSound (l ++ m) := fun f h => (List.mem_append.1 h).elim (hl f) (hm f)
theorem allSound_map {α : Type} {g : α → State → Out} (h : ∀ a s, Sound s (g a s)) (l : List α) : AllSound (l.map g) := fun f m => by
  obtain ⟨a, -, rfl⟩ := List.mem_map.1 m
  exact h a
theorem allSound_flatMap {α : Type} {g : α → List (State → Out)} (h : ∀ a, AllSound (g a)) (l : List α) : AllSound (l.flatMap g) := fun f m => by
  obtain ⟨a, -, here⟩ := List.mem_flatMap.1 m
  exact h a f here
theorem allSound_filterMap {α : Type} {g : α → Option (State → Out)} (h : ∀ a f, g a = some f → ∀ s, Sound s (f s)) (l : List α) :
    AllSound (l.filterMap g) := fun f m => by
  obtain ⟨a, -, e⟩ := List.mem_filterMap.1 m
  exact h a f e
theorem allSound_ite {c : Prop} [Decidable c] {l m : List (State → Out)} (hl : AllSound l) (hm : AllSound m) : AllSound (if c then l else m) :=
  ite_both hl hm

theorem opActs_sound (s : State) (o : MOp) : AllSound (s.opActs o) := by
  unfold State.opActs
  split
  · exact allSound_cons (exec_sound (.loadDataReturn _)) allSound_nil
  · exact allSound_cons (exec_sound (.loadDataReturn _)) allSound_nil
  · exact allSound_cons (exec_sound (.storePerform _)) allSound_nil
  · exact allSound_cons (exec_sound (.atomicPerform _)) allSound_nil
  · exact allSound_cons (exec_sound (.atomicPerform _)) allSound_nil
  · exact allSound_cons (exec_sound (.gatherComplete _)) allSound_nil
  · exact allSound_cons (exec_sound (.gatherComplete _)) allSound_nil
  · exact allSound_cons (exec_sound (.tileImageLoadComplete _)) allSound_nil
  · exact allSound_map (fun (p : Part) => exec_sound (.tileLoadComplete _ p.ix)) _

theorem copyAct_sound (k : Copy) (f : State → Out) (h : k.act = some f) : ∀ s, Sound s (f s) := by
  obtain ⟨x, -, rfl⟩ := Option.map_eq_some_iff.1 h
  exact exec_sound (.rakeRowPerform _ _)

theorem memForm_stepHalt (h : s.memForm) : s.stepHalt.memForm := memForm_ite (memForm_haltGang _ _ _ h) h

theorem coreActs_sound (s : State) : AllSound s.coreActs := by
  unfold State.coreActs
  refine allSound_append (allSound_append (allSound_append (allSound_append ?_ ?_) ?_) ?_) ?_
  · exact allSound_flatMap (opActs_sound s) _
  · exact allSound_flatMap (fun (f : WFetch) => allSound_map (fun (p : WPiece) => exec_sound (.windowFetchPerform f.id p.ix)) _) _
  · exact allSound_filterMap copyAct_sound _
  · exact allSound_map (fun n => exec_sound (.pgenTilePush n)) _
  · exact allSound_cons (exec_sound (.sectionRetire .a)) <| allSound_cons (exec_sound (.sectionRetire .v)) <|
      allSound_cons (exec_sound (.sectionRetire .m)) <| allSound_cons (exec_sound .rdzJoin) <| allSound_cons (exec_sound .streamDeadlock) <|
      allSound_cons (fun _ => sound_next memForm_stepHalt) <| allSound_cons (exec_sound .jobComplete) allSound_nil

theorem backgroundAct_sound (i : Nat) (d : Die) : AllSound (d.backgroundAct i) := by
  unfold Die.backgroundAct
  split
  · exact allSound_nil
  · rename_i n _
    exact allSound_ite (allSound_cons (exec_sound (.orreryReclaimStep i n)) allSound_nil) (allSound_cons (exec_sound (.orreryReleaseStep i n)) allSound_nil)

theorem kopActs_sound (i : Nat) (o : KOp) : AllSound ([execContextAreaClearDone i o.ctx, execKvwComplete i o.id, execKvCommandApply i o.id,
    execOrreryBatchPerformed i o.id] ++ match o.cmd with | .forked ch => [execForkCopyDone i ch] | _ => []) := by
  refine allSound_append (allSound_cons (exec_sound (.contextAreaClearDone i o.ctx)) <| allSound_cons (exec_sound (.kvwComplete i o.id)) <|
    allSound_cons (exec_sound (.kvCommandApply i o.id)) <| allSound_cons (exec_sound (.orreryBatchPerformed i o.id)) allSound_nil) ?_
  split
  · exact allSound_cons (exec_sound (.forkCopyDone i _)) allSound_nil
  · exact allSound_nil

theorem dieActs_sound (i : Nat) (d : Die) : AllSound (d.acts i) := by
  unfold Die.acts
  refine allSound_append (allSound_append (allSound_append (allSound_append (allSound_append (allSound_append ?_ ?_) ?_) ?_) ?_) ?_) ?_
  · exact allSound_flatMap (kopActs_sound i) _
  · exact backgroundAct_sound i d
  · exact allSound_map (fun (c : Ctx) => exec_sound (.slabPageMove i c.num)) _
  · exact allSound_flatMap (fun (a : Attn) => allSound_cons (exec_sound (.attnPageCompute i a.id)) <| allSound_cons (exec_sound (.attnComplete i a.id)) allSound_nil) _
  · exact allSound_flatMap (fun (e : ChEnd) => allSound_cons (exec_sound (.channelMatch i e.num)) <| allSound_cons (exec_sound (.permitArrive i e.num)) <|
      allSound_cons (exec_sound (.setArrived i e.num)) <| allSound_cons (exec_sound (.xcloseComplete i e.num)) allSound_nil) _
  · exact allSound_ite allSound_nil (allSound_cons (exec_sound (.panStoreObserve i)) allSound_nil)
  · exact allSound_map (fun q => exec_sound (.mailboxCommand i q)) _

theorem schedules_sound (i : Nat) (d : Die) : AllSound (d.schedules i) := by
  unfold Die.schedules
  refine allSound_ite allSound_nil (allSound_append (allSound_append (allSound_cons (exec_sound (.sliceEnd i)) allSound_nil) ?_) ?_)
  · exact allSound_map (fun n => exec_sound (.launchTake i n)) _
  · exact allSound_cons (exec_sound (.gangPlace i)) <| allSound_cons (petDue_sound i) allSound_nil

theorem deliver_sound (m : AlmStep) (s : State) : Sound s (m.deliver s) := by
  cases m with
  | prepare d m => exact exec_sound (.prepare d m) s
  | ack d n => exact exec_sound (.ack d n) s
  | nack d n => exact exec_sound (.nack d n) s
  | commit d m => exact exec_sound (.commit d m) s
  | abort d m => exact exec_sound (.abort d m) s

theorem memForm_appliedAll (l : List Nat) (h : s.memForm) : (l.foldl State.applied s).memForm := by
  induction l generalizing s with
  | nil => exact h
  | cons d r ih => exact ih (memForm_applied d h)

theorem packageActs_sound (s : State) : AllSound s.packageActs := by
  unfold State.packageActs
  refine allSound_append (allSound_append (allSound_append (allSound_append (allSound_append (allSound_append (allSound_append (allSound_append
    (allSound_append ?_ ?_) ?_) ?_) ?_) ?_) ?_) ?_) ?_) ?_
  · exact allSound_map deliver_sound _
  · exact allSound_flatMap (fun (b : Nat × Bank) => allSound_cons (exec_sound (.refreshManagement b.1)) <| allSound_cons (exec_sound (.backoffEnd b.1)) allSound_nil) _
  · exact allSound_filterMap copyAct_sound _
  · exact allSound_map (fun (m : Mig) => exec_sound (.tierMigrationComplete m.id)) _
  · exact allSound_map (fun (g : Nat × Nat) => exec_sound (.preemptStop g.1 g.2)) _
  · exact allSound_map (fun (v : SavedGang) => exec_sound (.gangSaveComplete v.lrec v.gang)) _
  · exact allSound_map (fun (l : Launch) => exec_sound (.launchComplete l.lrec)) _
  · exact allSound_flatMap (fun a => allSound_cons (exec_sound (.bridgeRetrain a (4 + 2 * a))) <|
      allSound_cons (exec_sound (.bridgeRetrain a (5 + 2 * a))) allSound_nil) _
  · exact allSound_map (fun p => exec_sound (.laneWidthSwitch p)) _
  · exact allSound_cons (fun _ => sound_next memForm_flushLate) <| allSound_cons (fun _ => sound_next fun h => memForm_ite h (memForm_runHeld h)) <|
      allSound_cons (exec_sound .tlbinvComplete) <| allSound_cons (exec_sound .retireComplete) <| allSound_cons (exec_sound .topoLoadComplete) <|
      allSound_cons (exec_sound .collectiveComplete) <| allSound_cons (exec_sound .almanacAckTimeout) <| allSound_cons (exec_sound .phaseTimeout) <|
      allSound_cons (fun _ => sound_next (memForm_appliedAll _)) <| allSound_cons (fun _ => sound_next memForm_loopStep) allSound_nil

theorem firstChange_sound {l : List (State → Out)} (h : AllSound l) {o : Out} (e : firstChange s l = some o) : Sound s o := by
  induction l with
  | nil => cases e
  | cons f r ih =>
    have first := h f (.head _) s
    unfold firstChange at e
    split at e
    · rename_i t here
      split at e
      · exact ih (fun g m => h g (.tail _ m)) e
      · cases e
        rwa [here] at first
    · cases e
      exact first

theorem allSound_dies (l : List Die) : AllSound (l.mapIdx fun i d => d.acts i ++ d.schedules i).flatten := fun f m => by
  obtain ⟨x, hx, here⟩ := List.mem_flatten.1 m
  obtain ⟨i, hi, rfl⟩ := List.mem_mapIdx.1 hx
  exact allSound_append (dieActs_sound i _) (schedules_sound i _) f here

theorem nextAct_sound {o : Out} (e : s.nextAct = some o) : Sound s o :=
  firstChange_sound (allSound_append (allSound_append (allSound_ite (coreActs_sound s) allSound_nil) (packageActs_sound s)) (allSound_dies _)) e

/-! ### A stream's turn, one step -/

theorem issueWord_sound (k : Strm) (s : State) : Sound s (s.issueWord k) := by
  unfold State.issueWord
  split
  · rename_i i _
    have sound := exec_sound i { s with cur := k }
    exact ⟨sound.unrefused, sound.form⟩
  · exact sound_outcomeOf fun _ => gives_error _

theorem issue_sound (k : Strm) (s : State) : Sound s (s.issue k) := by
  unfold State.issue
  split
  · exact sound_next id
  · exact sound_eventTaken k s
  · have sound := sound_swwaitComplete { s with cur := k }
    exact ⟨sound.unrefused, sound.form⟩
  · have entry := sound_sectionEntry k s
    split
    · rename_i t here
      have entered : s.memForm → t.memForm := fun h => entry.form h t here
      have sound : Sound t (if t.takeable k then execEventTaken k t else if t.inside k then t.issueWord k else .next t) :=
        sound_ite (sound_eventTaken k t) (sound_ite (issueWord_sound k t) (sound_next id))
      exact ⟨sound.unrefused, sound.form ∘ entered⟩
    · exact entry
  · exact issueWord_sound k s

theorem memForm_serveCore (h : s.memForm) : s.serveCore.memForm := memForm_ite h h

theorem memForm_rotate (h : s.memForm) : s.rotate.memForm := by
  unfold State.rotate
  split
  · exact memForm_focus _ h
  · exact h

theorem memForm_turn (t : Turn) (h : s.memForm) : ({ s with turn := t } : State).memForm := h

theorem turnStep_sound (s : State) : Sound s s.turnStep := by
  unfold State.turnStep
  extract_lets s1
  have from1 : ∀ {o : Out}, Sound s1 o → Sound s o := fun sound => ⟨sound.unrefused, sound.form⟩
  split
  · exact from1 (exec_sound .resultLands s1)
  · exact from1 (issue_sound _ s1)
  · exact sound_next fun h => memForm_serveCore (memForm_turn _ h)
  · cases e : s.nextAct with
    | none => exact sound_next fun h => h
    | some o => exact nextAct_sound e
  · exact sound_next fun h => memForm_rotate (memForm_turn _ h)

theorem step_sound (s : State) : Sound s (step s) := by
  unfold step
  split
  · rename_i i r _
    have sound := exec_sound i { s with agenda := r }
    exact ⟨sound.unrefused, sound.form⟩
  · exact turnStep_sound s

/-- Settles O6: every instruction, every step of the device and every turn keeps memory's form. -/
theorem stepKeepsMemoryForm : Obligations.StepKeepsMemoryForm := by
  unfold Obligations.StepKeepsMemoryForm
  intro s t form next
  exact (step_sound s).form form t next

/-- Settles O5: no instruction and no step of the device is refused, and the model has one fault of its own. -/
theorem stopsAreNamed : Obligations.StopsAreNamed := by
  unfold Obligations.StopsAreNamed
  refine ⟨fun s r => (step_sound s).unrefused r, fun s f _ => ?_⟩
  cases f
  rfl

end Sys2Proof.Proofs
end

section
/-!
PROOFS. Rows, refresh and the back-off (R322 to R324, R359).
-/

namespace Sys2Proof.Proofs
open Sys2Proof Sys2Proof.Machine

variable {s : State}

/-! ### An access reaches its row (R323) -/

/-- An alert leaves its bank with the row recorded for refresh management and counted, and every other bank as it was. -/
theorem rowAlert_banks (s : State) (key r : Nat) : ∃ y, (s.rowAlert key r).banks = Sparse.set s.banks (bankOf key) y ∧
    let k := Sparse.get s.banks (bankOf key)
    y.openRow = k.openRow ∧ y.counts = k.counts ∧ y.pend = k.pend ++ [r] ∧ y.alerts = k.alerts + 1 ∧ y.cmds = k.cmds + 1 := by
  unfold State.rowAlert
  extract_lets b d w k fresh wa noticed notice k1 s1
  exact ⟨k1, ite_both (P := sameBanks s1) (ite_both (P := sameBanks s1) rfl (sameBanks_postRecord ..)) rfl, rfl, rfl, rfl, rfl, rfl⟩

/-- The bank whose row `r` is opened and counted. -/
def Bank.opened (k : Bank) (r : Nat) : Bank := { k with openRow := some r, counts := Sparse.set k.counts r (Sparse.get k.counts r + 1) }

section
variable {a : Nat} (hbm : a < hbmBytes)
include hbm

theorem isHbmKey_of_lt : isHbmKey a = true := decide_eq_true (hbm.trans (by decide))

theorem isScratchKey_of_lt : isScratchKey a = false := decide_eq_false (Nat.not_le.2 (hbm.trans (by decide)))

theorem touchRow_open (same : (Sparse.get s.banks (bankOf a)).openRow = some (rowOf a)) : s.touchRow a = s := by
  simp [State.touchRow, isHbmKey_of_lt hbm, isScratchKey_of_lt hbm, same]

theorem touchRow_opens (other : (Sparse.get s.banks (bankOf a)).openRow ≠ some (rowOf a)) :
    let k := Sparse.get s.banks (bankOf a)
    let s1 : State := { s with banks := Sparse.set s.banks (bankOf a) (Bank.opened k (rowOf a)) }
    s.touchRow a = if (s.die (dieOfDpa a)).mth ≤ Sparse.get k.counts (rowOf a) + 1 then s1.rowAlert a (rowOf a) else s1 := by
  simp [State.touchRow, isHbmKey_of_lt hbm, isScratchKey_of_lt hbm, other, Bank.opened]

theorem rowActivation_ends (served : s.backedOff a = false) : exec (.rowActivation a) s = .next (s.touchRow a) := by
  show Host.Outcome.next (if _ then _ else _) = _
  simp [hbm, served]

/-- What an access to a row that is not open leaves. -/
theorem touchRow_counts (other : (Sparse.get s.banks (bankOf a)).openRow ≠ some (rowOf a)) :
    let k := Sparse.get s.banks (bankOf a); let r := rowOf a; let n := Sparse.get k.counts r + 1
    let t := s.touchRow a; let y := Sparse.get t.banks (bankOf a)
    y.openRow = some r ∧ Sparse.get y.counts r = n ∧ (∀ q, q ≠ r → Sparse.get y.counts q = Sparse.get k.counts q) ∧
      (∀ q, q ≠ bankOf a → Sparse.get t.banks q = Sparse.get s.banks q) ∧
      (n < (s.die (dieOfDpa a)).mth → y.pend = k.pend ∧ y.alerts = k.alerts ∧ t.mem = s.mem) ∧
      ((s.die (dieOfDpa a)).mth ≤ n → y.pend = k.pend ++ [r] ∧ y.alerts = k.alerts + 1 ∧ y.cmds = k.cmds + 1) := by
  intro k r n t y
  have counted : ∀ q, q ≠ r → Sparse.get (Bank.opened k r).counts q = Sparse.get k.counts q := fun q h => by
    simp [Bank.opened, sparse_get_set_other _ _ h]
  have here : Sparse.get (Bank.opened k r).counts r = n := by simp [Bank.opened, n]
  have reached : t = _ := touchRow_opens hbm other
  by_cases many : (s.die (dieOfDpa a)).mth ≤ n
  · rw [if_pos many] at reached
    obtain ⟨z, banks, opened, counts, pend, alerts, cmds⟩ := rowAlert_banks { s with banks := Sparse.set s.banks (bankOf a) (Bank.opened k r) } a r
    rw [sparse_get_set_same] at opened counts pend alerts cmds
    have after : t.banks = Sparse.set (Sparse.set s.banks (bankOf a) (Bank.opened k r)) (bankOf a) z := by rw [reached]; exact banks
    have bank : y = z := by
      show Sparse.get t.banks _ = z
      rw [after, sparse_get_set_same]
    rw [bank, opened, counts, pend, alerts, cmds]
    refine ⟨rfl, here, counted, fun q h => ?_, fun few => absurd many (Nat.not_le.2 few), fun _ => ⟨rfl, rfl, rfl⟩⟩
    rw [after, sparse_get_set_other _ _ h, sparse_get_set_other _ _ h]
  · rw [if_neg many] at reached
    have bank : y = Bank.opened k r := by
      show Sparse.get t.banks _ = _
      rw [reached, sparse_get_set_same]
    rw [bank, reached]
    exact ⟨rfl, here, counted, fun q h => by simp [sparse_get_set_other _ _ h], fun _ => ⟨rfl, rfl, rfl⟩, fun h => absurd h many⟩

end

/-! ### Refresh (R323) -/

section
variable {bank : Nat}

theorem refreshManagement_idle (idle : (Sparse.get s.banks bank).pend = [] ∨ (Sparse.get s.banks bank).backoff ≠ none) :
    exec (.refreshManagement bank) s = .next s := by
  show Host.Outcome.next (s.refreshRows bank) = _
  unfold State.refreshRows
  extract_lets b
  split
  · rename_i pend backoff
    obtain none | busy := idle
    · cases pend.symm.trans none
    · exact absurd backoff busy
  · rfl

/-- The bank with a row's count and its neighbours' set to zero. -/
def Bank.spared (b : Bank) (r : Nat) : Bank :=
  let b0 := if r = 0 then b.zero 0 else (b.zero r).zero (r - 1)
  if r < 65535 then b0.zero (r + 1) else b0

theorem get_counts_zero (b : Bank) (r j : Nat) : Sparse.get (b.zero r).counts j = if j = r then 0 else Sparse.get b.counts j := by
  simp [Bank.zero, sparse_get_set]

theorem get_counts_spared (b : Bank) (r j : Nat) :
    Sparse.get (Bank.spared b r).counts j = if j = r ∨ j + 1 = r ∨ (j = r + 1 ∧ r < 65535) then 0 else Sparse.get b.counts j := by
  have below : Sparse.get (if r = 0 then b.zero 0 else (b.zero r).zero (r - 1)).counts j = if j = r ∨ j + 1 = r then 0 else Sparse.get b.counts j := by
    by_cases first : r = 0
    · rw [if_pos first, get_counts_zero, first]
      exact if_congr (by omega) rfl rfl
    · rw [if_neg first, get_counts_zero, get_counts_zero, ← ite_or]
      exact if_congr (by omega) rfl rfl
  unfold Bank.spared
  by_cases last : r < 65535
  · simp only [if_pos last, get_counts_zero]
    rw [below, ← ite_or]
    exact if_congr (by omega) rfl rfl
  · simp only [if_neg last]
    rw [below]
    exact if_congr (by omega) rfl rfl

theorem spared_alerts (b : Bank) (r : Nat) : (Bank.spared b r).alerts = b.alerts := by
  unfold Bank.spared
  split <;> split <;> rfl

theorem refreshManagement_ends {r : Nat} {q : List Nat} (pend : (Sparse.get s.banks bank).pend = r :: q) (ready : (Sparse.get s.banks bank).backoff = none) :
    Ends (.refreshManagement bank) s fun t => let b := Sparse.get s.banks bank; let y := Sparse.get t.banks bank
      y.openRow = none ∧ y.pend = q ∧ y.backoff = some ((s.die (dieOfBank bank)).ctl + 238) ∧ y.alerts = b.alerts ∧ t.mem = s.mem ∧
      ∀ j, Sparse.get y.counts j = if j = r ∨ j + 1 = r ∨ (j = r + 1 ∧ r < 65535) then 0 else Sparse.get b.counts j := by
  have refreshed : (s.refreshRows bank) =
      let y : Bank := { Bank.spared (Sparse.get s.banks bank) r with openRow := none, pend := q, backoff := some ((s.die (dieOfBank bank)).ctl + 238) }
      { s with banks := Sparse.set s.banks bank y } := by
    unfold State.refreshRows
    simp only [pend, ready]
    rfl
  refine ⟨_, rfl, ?_⟩
  rw [refreshed]
  simp only [sparse_get_set_same]
  exact ⟨trivial, trivial, trivial, spared_alerts .., trivial, get_counts_spared _ _⟩

theorem periodicRefresh_ends {row : Nat} (hb : bank < 16384) (hr : row < 65536) : Ends (.periodicRefresh bank row) s fun t =>
    let b := Sparse.get s.banks bank; let y := Sparse.get t.banks bank
    t.mem = s.mem ∧ (row ∈ b.done → y = b) ∧ (row ∉ b.done → y.openRow = none ∧ y.pend = b.pend ∧ y.done = row :: b.done ∧
      ∀ j, Sparse.get y.counts j = if j = row then 0 else Sparse.get b.counts j) := by
  refine ⟨{ s with banks := Sparse.set s.banks bank ((Sparse.get s.banks bank).refresh row) }, ?_, rfl, fun done => ?_, fun fresh => ?_⟩
  · show Host.Outcome.next (if _ then _ else _) = _
    simp [hb, hr]
  · rw [sparse_get_set_same]
    simp [Bank.refresh, done]
  · rw [sparse_get_set_same]
    have now : (Sparse.get s.banks bank).refresh row = { (Sparse.get s.banks bank).zero row with openRow := none, done := row :: (Sparse.get s.banks bank).done } := by
      simp [Bank.refresh, fresh, Bank.zero]
    rw [now]
    exact ⟨rfl, rfl, rfl, get_counts_zero _ _⟩

/-! ### The end of a back-off (R324) -/

theorem backoffEnd_early (early : (Sparse.get s.banks bank).backoff = none ∨
    ∃ e, (Sparse.get s.banks bank).backoff = some e ∧ (s.die (dieOfBank bank)).ctl < e) : exec (.backoffEnd bank) s = .next s := by
  show Host.Outcome.next (s.backoffDone bank) = _
  unfold State.backoffDone
  obtain none | ⟨e, runs, later⟩ := early
  · simp only [none]
  · simp only [runs, if_neg (Nat.not_le.2 later)]

/-- An access that waits nowhere is charged nothing. -/
theorem charge_nil (c : Core) : c.charge [] = c := rfl

theorem updJob_id (s : State) (l j : Nat) : s.updJob l j (fun c => c) = s := by
  unfold State.updJob
  split
  · rfl
  · simp

theorem chargeAll_none {l : List (Nat × Nat × List Block)} (none : ∀ w ∈ l, w.2.2 = []) : s.chargeAll bank l = s := by
  induction l with
  | nil => rfl
  | cons w r ih =>
    have first : s.updJob w.1 w.2.1 (fun c => c.charge (waited bank (s.die c.did).cyc w.2.2)) = s := by
      rw [none w (.head _)]
      exact updJob_id ..
    show (s.updJob _ _ _).chargeAll bank r = s
    rw [first]
    exact ih fun x m => none x (.tail _ m)

theorem charge_pmc (c : Core) (l : List Nat) :
    (Sparse.get c.pmc 4 < 2 ^ 64 → Sparse.get (c.charge l).pmc 4 = (Sparse.get c.pmc 4 + l.sum) % 2 ^ 64) ∧
    (Sparse.get c.pmc 5 < 2 ^ 64 → Sparse.get (c.charge l).pmc 5 = (Sparse.get c.pmc 5 + l.length) % 2 ^ 64) := by
  induction l generalizing c with
  | nil => exact ⟨fun h => (Nat.mod_eq_of_lt h).symm, fun h => (Nat.mod_eq_of_lt h).symm⟩
  | cons n r ih =>
    obtain ⟨cycles, accesses⟩ := ih ((c.count 5 1).count 4 n)
    have four : Sparse.get ((c.count 5 1).count 4 n).pmc 4 = (Sparse.get c.pmc 4 + n) % 2 ^ 64 := by
      simp [Core.count, sparse_get_set]
    have five : Sparse.get ((c.count 5 1).count 4 n).pmc 5 = (Sparse.get c.pmc 5 + 1) % 2 ^ 64 := by
      simp [Core.count, sparse_get_set]
    rw [four] at cycles
    rw [five] at accesses
    refine ⟨fun _ => (cycles (Nat.mod_lt _ (by decide))).trans ?_, fun _ => (accesses (Nat.mod_lt _ (by decide))).trans ?_⟩
    · rw [Nat.mod_add_mod, List.sum_cons, Nat.add_assoc]
    · rw [Nat.mod_add_mod, List.length_cons, Nat.add_assoc, Nat.add_comm 1]

/-- Releasing accesses raises events and nothing else. -/
theorem releaseEvents_keeps (now : Nat) (l : List MOp) (c : Core) :
    (Core.releaseEvents bank now l c).pmc = c.pmc ∧ (Core.releaseEvents bank now l c).ops = c.ops := by
  induction l generalizing c with
  | nil => exact ⟨rfl, rfl⟩
  | cons o r ih =>
    obtain ⟨pmc, ops⟩ := ih (if !(waited bank now o.blocked).isEmpty && o.body.scalarAccess && (c.strm o.strm).evh != 0 then
        c.setStrm o.strm ((c.strm o.strm).hold { cause := 4, sub := 0, info := BitVec.ofNat 64 o.va })
      else c)
    refine ⟨pmc.trans ?_, ops.trans ?_⟩
    · exact ite_both (P := fun x : Core => x.pmc = c.pmc) (by cases o.strm <;> rfl) rfl
    · exact ite_both (P := fun x : Core => x.ops = c.ops) (by cases o.strm <;> rfl) rfl

theorem charge_ops (c : Core) (l : List Nat) : (c.charge l).ops = c.ops := by
  induction l generalizing c with
  | nil => rfl
  | cons n r ih => exact ih ((c.count 5 1).count 4 n)

/-- Everything a core issued itself that waits at a bank. -/
def Core.waits (c : Core) : List Block :=
  c.stalls ++ c.ops.flatMap (·.blocked) ++ c.rake.flatMap (·.blocked) ++ c.fetches.flatMap (·.blocked) ++
    c.ports.flatMap fun p => p.2.gen.toList.flatMap (·.blocked)

theorem release_pmc (now : Nat) (c : Core) : (c.release bank now).pmc = (c.charge (waited bank now (Core.waits c))).pmc :=
  (releaseEvents_keeps now c.ops _).1

theorem release_ops (now : Nat) (c : Core) :
    (c.release bank now).ops = c.ops.map fun o => { o with blocked := unblock bank o.blocked } :=
  congrArg (List.map _) ((releaseEvents_keeps now c.ops _).2.trans (charge_ops ..))

theorem releaseBank_frame (engines : ∀ w ∈ s.dies.flatMap Die.waiters, w.2.2 = []) (copies : ∀ m ∈ s.migs, m.blocked = []) :
    (s.releaseBank bank).core = s.core.release bank (s.die s.core.did).cyc ∧
    (Sparse.get (s.releaseBank bank).banks bank).backoff = none ∧ (s.releaseBank bank).host = s.host := by
  have none : s.chargeAll bank (s.dies.flatMap Die.waiters ++ s.migs.map fun m => (m.lrec, m.job, m.blocked)) = s := by
    refine chargeAll_none fun w m => ?_
    obtain here | here := List.mem_append.1 m
    · exact engines w here
    · obtain ⟨x, there, rfl⟩ := List.mem_map.1 here
      exact copies x there
  unfold State.releaseBank
  rw [none]
  refine ⟨rfl, ?_, rfl⟩
  rw [sparse_get_set_same]

/-- With no request held nothing is carried out. -/
theorem runHeld_none (none : s.host.held = []) : s.runHeld = s := by
  unfold State.runHeld
  rw [none]
  show ({ s with host := { s.host with held := [] } } : State) = s
  rw [← none]

theorem backoffEnd_ends {e : Nat} (runs : (Sparse.get s.banks bank).backoff = some e) (past : e ≤ (s.die (dieOfBank bank)).ctl) (idle : s.host.held = [])
    (engines : ∀ w ∈ s.dies.flatMap Die.waiters, w.2.2 = []) (copies : ∀ m ∈ s.migs, m.blocked = []) :
    let here := waited bank (s.die s.core.did).cyc (Core.waits s.core)
    Ends (.backoffEnd bank) s fun t => (Sparse.get t.banks bank).backoff = none ∧ t.mem = s.mem ∧
      (Sparse.get s.core.pmc 4 < 2 ^ 64 → Sparse.get t.core.pmc 4 = (Sparse.get s.core.pmc 4 + here.sum) % 2 ^ 64) ∧
      (Sparse.get s.core.pmc 5 < 2 ^ 64 → Sparse.get t.core.pmc 5 = (Sparse.get s.core.pmc 5 + here.length) % 2 ^ 64) ∧
      t.core.ops.length = s.core.ops.length ∧ ∀ o ∈ t.core.ops, ∀ z ∈ o.blocked, z.bank ≠ bank := by
  obtain ⟨core, ended, host⟩ := releaseBank_frame (bank := bank) engines copies
  refine ⟨s.releaseBank bank, ?_, ended, releaseBank_mem .., ?_⟩
  · show Host.Outcome.next (s.backoffDone bank) = _
    unfold State.backoffDone
    simp only [runs, if_pos past]
    rw [runHeld_none (host ▸ idle)]
  · rw [core, release_pmc, release_ops]
    obtain ⟨cycles, accesses⟩ := charge_pmc s.core (waited bank (s.die s.core.did).cyc (Core.waits s.core))
    refine ⟨cycles, accesses, List.length_map .., fun o m z waits => ?_⟩
    obtain ⟨o, -, rfl⟩ := List.mem_map.1 m
    simpa using (List.mem_filter.1 waits).2

end
end Sys2Proof.Proofs
end

section
/-!
PROOFS. Retirement, ROWCTL, CDIS, flash pages (R357 to R360, R387).
-/

namespace Sys2Proof.Proofs
open Sys2Proof Sys2Proof.Machine

variable {s : State}

/-! ### What a record does to the host's registers -/

/-- The host's registers are as they were, or one vector more has been signalled. -/
def Signalled (s t : State) : Prop := t.host = s.host ∨ ∃ v, t.host = s.host.signal v

def SameHost (s t : State) : Prop := t.host = s.host

theorem sameHost_trans {s t u : State} (h : SameHost s t) (g : SameHost t u) : SameHost s u := Eq.trans g h

theorem signalled_msix {s t : State} (h : SameHost s t) (v : Nat) : Signalled s (t.msix v) := .inr ⟨v, congrArg (HostSt.signal · v) h⟩

/-- A record that is posted signals at most one vector. -/
theorem signalled_postRecord (s : State) (node : Nat) (r : FRec) : Signalled s (s.postRecord node r) := by
  refine ite_both (P := Signalled s) (.inl rfl) ?_
  unfold State.writeRecord
  extract_lets fq rseq s1 base size head tail v vec s2
  have h1 : SameHost s s1 := rfl
  have h2 : SameHost s1 s2 :=
    ite_both (P := SameHost s1) (writeMem_host ..) (sameHost_trans (writeMem_host ..) (writeMem_host ..))
  clear_value s1 s2
  exact ite_both (P := Signalled s) (.inl h1) (signalled_msix (sameHost_trans h1 h2) vec)

theorem signalled_postRoot (s : State) (d : Nat) (r : FRec) : Signalled s (s.postRoot d r) :=
  ite_both (P := Signalled s) (.inl rfl) (signalled_postRecord ..)

/-- A vector that is signalled is appended to those signalled, or to those held until IDE stands; no other register changes. -/
structure Signals (h g : HostSt) : Prop where
  busy : g.retBusy = h.retBusy
  held : g.held = h.held
  degr : g.degr = h.degr
  sent : h.msix <+: g.msix
  kept : h.msixHeld <+: g.msixHeld

theorem signals_refl (h : HostSt) : Signals h h := ⟨rfl, rfl, rfl, List.prefix_rfl, List.prefix_rfl⟩

theorem signals_signal (h : HostSt) (v : Nat) : Signals h (h.signal v) := by
  unfold HostSt.signal
  split
  · exact ⟨rfl, rfl, rfl, List.prefix_append .., List.prefix_rfl⟩
  · exact ⟨rfl, rfl, rfl, List.prefix_rfl, List.prefix_append ..⟩

theorem postRoot_signals (s : State) (d : Nat) (r : FRec) : Signals s.host (s.postRoot d r).host := by
  obtain e | ⟨v, e⟩ := signalled_postRoot s d r
  · exact e ▸ signals_refl _
  · exact e ▸ signals_signal ..

/-! ### Requests that wait for IDE (R331) -/

theorem hostGate_held (closed : s.host.ide = false) (q : HostReq) (act : State → State) : (s.hostGate q act).host.held = s.host.held ++ [q] := by
  simp [State.hostGate, closed]

section
variable (ide : s.host.ide = true) (rdy : s.host.rdy = true)
include ide rdy

theorem hostGate_flows (q : HostReq) (act : State → State) : s.hostGate q act = act s := by
  simp [State.hostGate, ide, rdy]

/-! ### Retirement (R357, R358) -/

/-- A write that retires a frame, by its kind. -/
theorem retireWrite_ends {i : Instr} {v : Word} {excl : Bool} (kind : (i, excl) ∈ [(Instr.retireRemap v, false), (.retireExclude v, true)]) :
    exec i s = .next (s.retireFrame v excl) := by
  simp only [List.mem_cons, List.not_mem_nil, or_false, Prod.mk.injEq] at kind
  obtain ⟨rfl, rfl⟩ | ⟨rfl, rfl⟩ := kind
  · exact congrArg Host.Outcome.next (hostGate_flows ide rdy ..)
  · exact congrArg Host.Outcome.next (hostGate_flows ide rdy ..)

end

theorem retireFrame_ignored {v : Word} {excl : Bool} (ignored : s.host.retBusy = true ∨ v.getLsbD 0 ≠ excl) : s.retireFrame v excl = s := by
  refine if_pos ?_
  obtain busy | kind := ignored
  · simp [busy]
  · rw [bne_iff_ne.2 kind, Bool.or_true]

section
variable {v : Word} {excl : Bool} (free : s.host.retBusy = false) (kind : v.getLsbD 0 = excl)
include free kind

theorem retireFrame_taken : (s.host.retBusy || v.getLsbD 0 != excl) = false := by rw [free, kind, bne_self_eq_false, Bool.or_false]

theorem retireFrame_refused (st : s.retireStatus (bitsOf v.toNat 51 16) excl ≠ 0) : s.retireFrame v excl =
    { s with host := { s.host with retBusy := true, retStatus := s.retireStatus (bitsOf v.toNat 51 16) excl, retFrame := bitsOf v.toNat 51 16, retExcl := excl } } := by
  unfold State.retireFrame
  rw [retireFrame_taken free kind]
  simp [st, State.updHost]

end

section
variable {v : Word} (free : s.host.retBusy = false)
include free

theorem retireFrame_excluded (kind : v.getLsbD 0 = true) (st : s.retireStatus (bitsOf v.toNat 51 16) true = 0) :
    let frame := bitsOf v.toNat 51 16; let l := s.host.badList ++ [(frame, 0x1FF, true)]
    s.retireFrame v true = { s with
      flashLog := s.flashLog ++ [.badEntry 0 frame 0x1FF true, .badEntry 2 frame 0x1FF true]
      host := { s.host with retBusy := true, retStatus := 0, retFrame := frame, retExcl := true, badList := l, badA := some (badCopyOf l),
                            badB := some (badCopyOf l), excluded := frame :: s.host.excluded } } := by
  unfold State.retireFrame
  rw [retireFrame_taken free kind]
  simp [st, State.updHost, State.appendBad]

theorem retireFrame_remapped (kind : v.getLsbD 0 = false) (st : s.retireStatus (bitsOf v.toNat 51 16) false = 0) :
    let frame := bitsOf v.toNat 51 16; let stack := frame * 65536 / stackBytes; let spare := Sparse.get s.host.spares stack
    let l := s.host.badList ++ [(frame, spare, false)]
    s.retireFrame v false = { s with
      flashLog := s.flashLog ++ [.badEntry 0 frame spare false, .badEntry 2 frame spare false]
      host := { s.host with retBusy := true, retStatus := 0, retFrame := frame, retExcl := false, badList := l, badA := some (badCopyOf l),
                            badB := some (badCopyOf l), spares := Sparse.set s.host.spares stack (spare + 1) } } := by
  unfold State.retireFrame
  rw [retireFrame_taken free kind]
  simp [st, State.updHost, State.appendBad]

end

/-- The order in which a retirement is refused (R357). -/
theorem retireStatus_cases (s : State) (frame : Nat) (excl : Bool) :
    let st := s.retireStatus frame excl; let absent := hbmBytes ≤ frame * 65536 ∨ (s.die (dieOfDpa (frame * 65536))).fenced = true
    let known := ∃ y ∈ s.host.badList, y.1 = frame
    (absent → st = 4) ∧ (¬absent → known → st = 2) ∧ (¬absent → ¬known → 16384 ≤ s.host.badList.length → st = 3) ∧
    (¬absent → ¬known → s.host.badList.length < 16384 →
      st = if excl = false ∧ 512 ≤ Sparse.get s.host.spares (frame * 65536 / stackBytes) then 1 else 0) := by
  intro st absent known
  have listed : (s.host.badList.any fun b => b.1 == frame) = true ↔ known := by simp [known]
  have status : st = if absent then 4 else if (s.host.badList.any fun b => b.1 == frame) = true then 2 else if 16384 ≤ s.host.badList.length then 3
    else if excl = false ∧ 512 ≤ Sparse.get s.host.spares (frame * 65536 / stackBytes) then 1 else 0 := rfl
  rw [status]
  refine ⟨fun h => if_pos h, fun h k => ?_, fun h k full => ?_, fun h k room => ?_⟩
  · rw [if_neg h, if_pos (listed.2 k)]
  · rw [if_neg h, if_neg (mt listed.1 k), if_pos full]
  · rw [if_neg h, if_neg (mt listed.1 k), if_neg (Nat.not_le.2 room)]

theorem retireComplete_idle (idle : s.host.retBusy = false) : exec .retireComplete s = .next s := by
  show Host.Outcome.next s.retireDone = _
  simp [State.retireDone, idle]

theorem retireComplete_ends (busy : s.host.retBusy = true) (idle : s.host.held = []) : Ends .retireComplete s fun t => t.host.retBusy = false ∧
    (s.host.ide = true → (s.host.msix ++ [4]) <+: t.host.msix) ∧ (s.host.ide = false → (s.host.msixHeld ++ [4]) <+: t.host.msixHeld) ∧
    (s.host.retStatus ≠ 0 → t.mem = s.mem ∧ (s.host.ide = true → t.host.msix = s.host.msix ++ [4])) := by
  let a := s.host.retFrame * 65536
  let s1 := (s.updHost fun h => { h with retBusy := false }).msix 4
  let s2 := if s.host.retStatus = 0 then s1.postRoot (dieOfDpa a) { code := 0x41, die := dieOfDpa a, addr := a } else s1
  have signals : Signals s1.host s2.host := ite_both (P := fun t : State => Signals s1.host t.host) (postRoot_signals ..) (signals_refl _)
  have opened : Signals { s.host with retBusy := false } s1.host := signals_signal ..
  have ends : exec .retireComplete s = .next s2.runHeld := by
    show Host.Outcome.next s.retireDone = _
    unfold State.retireDone
    rw [if_neg (by simp [busy])]
  rw [runHeld_none ((signals.held.trans opened.held).trans idle)] at ends
  refine ⟨s2, ends, signals.busy.trans opened.busy, fun ide => ?_, fun ide => ?_, fun refused => ?_⟩
  · have sent : s1.host.msix = s.host.msix ++ [4] := by
      show (HostSt.signal _ 4).msix = _
      simp [HostSt.signal, ide]
    exact sent ▸ signals.sent
  · have kept : s1.host.msixHeld = s.host.msixHeld ++ [4] := by
      show (HostSt.signal _ 4).msixHeld = _
      simp [HostSt.signal, ide]
    exact kept ▸ signals.kept
  · have same : s2 = s1 := if_neg refused
    rw [same]
    refine ⟨rfl, fun ide => ?_⟩
    show (HostSt.signal _ 4).msix = _
    simp [HostSt.signal, ide]

/-! ### ROWCTL and CDIS (R359, R387) -/

theorem die_map {f : Die → Die} {t : State} {d : Nat} (there : d < s.dies.length) (dies : t.dies = s.dies.map f) : t.die d = f (s.die d) := by
  unfold State.die
  simp [dies, List.getD_eq_getElem?_getD, there]

theorem rowctl_ends (package : s.dies.length = 12) (v : Word) : let t := s.rowctlWrite v; let m := bitsOf v.toNat 15 0
    t.host.note = v.getLsbD 32 ∧ t.host.alim = max 1 (bitsOf v.toNat 31 16) ∧ t.host.mthd = (if m = 0 then s.host.mthd else m) ∧ t.mem = s.mem ∧
    ∀ d < 12, (t.die d).mth = if m = 0 then (s.die d).mth else m := by
  intro t m
  by_cases zero : m = 0
  · have same : t = _ := if_pos zero
    rw [same]
    simp only [if_pos zero]
    refine ⟨rfl, rfl, ?_, rfl, fun d _ => rfl⟩
    show (if m = 0 then _ else _) = _
    rw [if_pos zero]
  · have set : t = _ := if_neg zero
    rw [set]
    simp only [if_neg zero]
    refine ⟨rfl, rfl, ?_, rfl, fun d there => ?_⟩
    · show (if m = 0 then _ else _) = _
      rw [if_neg zero]
    · rw [die_map (s := s) (f := fun d => { d with mth := m }) (package ▸ there) rfl]

theorem cdis_ignored {die : Nat} (ignored : 12 ≤ die ∨ (s.die die).fenced = true) (v : Word) : s.cdisWrite die v = s := if_pos ignored

theorem cdis_ends (package : s.dies.length = 12) {die : Nat} (there : die < 12) (live : (s.die die).fenced = false) (v : Word) : let t := s.cdisWrite die v
    (t.die die).cdis.toNat = v.toNat % 2 ^ (if die < 4 then 32 else 48) ∧ ∀ d, d ≠ die → t.die d = s.die d := by
  intro t
  have written : t = s.updDie die fun d => { d with cdis := BitVec.ofNat 48 (if isAttnDie die then v.toNat % 2 ^ 32 else v.toNat) } :=
    if_neg (by simp [live, there])
  rw [written]
  refine ⟨?_, fun d other => die_updDie_other other _⟩
  rw [die_updDie (package ▸ there), BitVec.toNat_ofNat]
  unfold isAttnDie
  by_cases attn : die < 4
  · simp only [attn, decide_true, if_true]
    exact Nat.mod_eq_of_lt ((Nat.mod_lt _ (by decide)).trans (by decide))
  · simp only [attn, decide_false, if_false, Bool.false_eq_true]

/-! ### Flash pages (R360) -/

section
variable {page : Nat}

theorem flashRebuild_known (known : page ∈ s.flashBad) (rebuilt : Bool) : exec (.flashRebuild page rebuilt) s = .next s :=
  congrArg Host.Outcome.next (if_pos (by simpa using known))

theorem flashRebuild_rebuilt (fresh : page ∉ s.flashBad) :
    exec (.flashRebuild page true) s = .next { s with flashLog := s.flashLog ++ [.page page] } :=
  congrArg Host.Outcome.next ((if_neg (by simpa using fresh)).trans (if_pos rfl))

/-- A page of flash is poisoned as its list says. -/
theorem poisonedAt_flash (small : page < 2 ^ 36) (t : State) : t.poisonedAt (flashBase + page * 65536) 1 = t.flashBad.contains page := by
  have hbm : isHbmKey (flashBase + page * 65536) = false := decide_eq_false (by unfold flashBase cxlBase; omega)
  have flash : isFlashKey (flashBase + page * 65536) = true := by
    unfold isFlashKey flashBase scratchBase
    simp only [Bool.and_eq_true, decide_eq_true_eq]
    omega
  simp [State.poisonedAt, State.hbmDead, hbm, flash]

theorem postRoot_flashBad (s : State) (d : Nat) (r : FRec) : (s.postRoot d r).flashBad = s.flashBad := by
  refine ite_both (P := fun t : State => t.flashBad = s.flashBad) rfl ?_
  obtain ⟨_, _, _, _, _, _, _, _, e⟩ := served_postRecord s (s.rootOf d) { r with cyc := (s.die d).cyc }
  rw [e]

theorem flashRebuild_failed (small : page < 2 ^ 36) (fresh : page ∉ s.flashBad) : Ends (.flashRebuild page false) s fun t => t.flashBad = page :: s.flashBad ∧
    (s.rootOf s.master = 0 → t.mem = s.mem) ∧ s.poisonedAt (flashBase + page * 65536) 1 = false ∧ t.poisonedAt (flashBase + page * 65536) 1 = true := by
  let s1 : State := { s with flashBad := page :: s.flashBad }
  let t := s1.postRoot s.master { code := 0x42, die := s.master, addr := page * 65536 }
  have ends : exec (.flashRebuild page false) s = .next t :=
    congrArg Host.Outcome.next ((if_neg (by simpa using fresh)).trans (if_neg (by decide)))
  have listed : t.flashBad = page :: s.flashBad := postRoot_flashBad s1 ..
  refine ⟨t, ends, listed, fun none => ?_, ?_, ?_⟩
  · have silent : t = s1 := if_pos none
    rw [silent]
  · rw [poisonedAt_flash small]
    simpa using fresh
  · rw [poisonedAt_flash small, listed]
    simp

end
end Sys2Proof.Proofs
end

section
/-!
PROOFS. A die that is fenced (R284, R342, R360, R362, R363).
-/

namespace Sys2Proof.Proofs
open Sys2Proof Sys2Proof.Machine

/-! ### What fencing keeps of the cores, the launches and the saved gangs -/

/-- Who runs on a core, where, and whether it has been told to stop. -/
def coreId (c : Core) : Bool × Nat × Nat × Nat × Bool := (c.running, c.did, c.lrec, c.gangNo, c.stopReq)

/-- Which gang is saved, from which die. -/
def savedId (v : SavedGang) : Nat × Nat × Nat := (v.lrec, v.gang, v.die)

/-- The launches, the cores' jobs and the saved gangs stand as they did. -/
structure Stands (s t : State) : Prop where
  launches : t.launches = s.launches
  cores : (t.core :: t.parked).map coreId = (s.core :: s.parked).map coreId
  saved : t.saved.map savedId = s.saved.map savedId

theorem stands_refl (s : State) : Stands s s := ⟨rfl, rfl, rfl⟩

theorem Stands.trans {s t u : State} (h : Stands s t) (g : Stands t u) : Stands s u :=
  ⟨g.launches.trans h.launches, g.cores.trans h.cores, g.saved.trans h.saved⟩

theorem stands_ite {c : Prop} [Decidable c] {s t u : State} (ht : Stands s t) (hu : Stands s u) : Stands s (if c then t else u) :=
  ite_both (P := Stands s) ht hu

theorem stands_same {s t : State} (launches : t.launches = s.launches) (core : t.core = s.core) (parked : t.parked = s.parked)
    (saved : t.saved = s.saved) : Stands s t := ⟨launches, by rw [core, parked], by rw [saved]⟩

/-- A change of every core that keeps who runs there. -/
theorem stands_cores {s t : State} {f : Core → Core} {g : SavedGang → SavedGang} (keeps : ∀ c, coreId (f c) = coreId c)
    (same : ∀ v, savedId (g v) = savedId v) (launches : t.launches = s.launches) (core : t.core = f s.core) (parked : t.parked = s.parked.map f)
    (saved : t.saved = s.saved.map g) : Stands s t := by
  refine ⟨launches, ?_, ?_⟩
  · rw [core, parked]
    simp [keeps, Function.comp_def]
  · rw [saved]
    simp [same, Function.comp_def]

theorem stands_updJob {f : Core → Core} (keeps : ∀ c, coreId (f c) = coreId c) (s : State) (l j : Nat) : Stands s (s.updJob l j f) := by
  refine ite_both (P := Stands s) ⟨rfl, ?_, rfl⟩ ⟨rfl, ?_, ?_⟩
  · show List.map coreId (f s.core :: s.parked) = _
    simp [keeps]
  · have each : ∀ c, coreId (if c.holds l j then f c else c) = coreId c := fun c => ite_both (P := fun x => coreId x = coreId c) (keeps c) rfl
    show List.map coreId (s.core :: s.parked.map _) = _
    simp [each, Function.comp_def]
  · show List.map savedId (s.saved.map _) = _
    simp [savedId, Function.comp_def]

theorem stands_endOp (s : State) (r : Option TokRef) (e : Option FaultInfo) : Stands s (s.endOp r e) := by
  cases r with
  | none => exact stands_refl s
  | some t =>
    refine stands_updJob (fun c => ?_) ..
    cases t.strm <;> rfl

theorem stands_putCopy (s : State) (id : Nat) (k : Option Copy) : Stands s (s.putCopy id k) :=
  stands_cores (f := fun c => { c with rake := replaceCopy id k c.rake })
    (g := fun v => { v with cores := v.cores.map fun c => { c with rake := replaceCopy id k c.rake } }) (fun _ => rfl) (fun _ => rfl) rfl rfl rfl rfl

theorem stands_dropSends (l : List Copy) (s : State) : Stands s (s.dropSends l) := by
  induction l generalizing s with
  | nil => exact stands_refl s
  | cons k r ih => exact ((stands_putCopy ..).trans (stands_endOp ..)).trans (ih _)

theorem stands_loseEnds (die : Nat) (l : List ChEnd) (s : State) : Stands s (s.loseEnds die l) := by
  induction l generalizing s with
  | nil => exact stands_refl s
  | cons e r ih =>
    have ended : Stands s (s.loseEnd die e) := by
      refine Stands.trans ?_ (stands_endOp ..)
      exact Stands.trans (t := s.updEnd die e.num _) (stands_same rfl rfl rfl rfl) (stands_dropSends ..)
    exact ended.trans (ih _)

theorem stands_losePeers (d : Nat) (l : List Nat) (s : State) : Stands s (s.losePeers d l) := by
  induction l generalizing s with
  | nil => exact stands_refl s
  | cons k r ih => exact (stands_ite (stands_refl s) (stands_loseEnds ..)).trans (ih _)

theorem stands_closeAll (l : List Core) (s : State) : Stands s (s.closeAll l) := by
  induction l generalizing s with
  | nil => exact stands_refl s
  | cons c r ih => exact Stands.trans (t := s.closeEnds c.lrec c.job.toNat) (stands_same rfl rfl rfl rfl) (ih _)

theorem stands_writeMem (s : State) (key : Nat) (bs : List Byte) : Stands s (s.writeMem key bs) := stands_same (by simp) (by simp) (by simp) (by simp)

theorem stands_addUse (use : Nat) (d : Int) (l : List Nat) (s : State) : Stands s (s.addUse use d l) := by
  induction l generalizing s with
  | nil => exact stands_refl s
  | cons x r ih =>
    refine Stands.trans ?_ (ih _)
    exact stands_ite (stands_same rfl rfl rfl rfl) (stands_writeMem ..)

theorem stands_giveCores (s : State) (node : Nat) : Stands s (s.giveCores node) := stands_addUse ..

theorem stands_abandonDie (s : State) (d : Nat) : Stands s (s.abandonDie d) := by
  refine stands_cores (f := fun c => if c.did == d then c.abandon else c)
    (g := fun v => { v with cores := v.cores.map fun c => if c.did == d then c.abandon else c }) (fun c => ?_) (fun _ => rfl) rfl rfl rfl rfl
  exact ite_both (P := fun x => coreId x = coreId c) rfl rfl

theorem stands_postRoot (s : State) (d : Nat) (r : FRec) : Stands s (s.postRoot d r) := by
  refine stands_ite (stands_refl s) ?_
  obtain ⟨_, _, _, _, _, _, _, _, e⟩ := served_postRecord s (s.rootOf d) { r with cyc := (s.die d).cyc }
  rw [e]
  exact stands_same rfl rfl rfl rfl

/-! ### The Almanac's messages change the dies' rounds, what is on its way and the ports -/

/-- Nothing but the dies' rounds, the messages on their way and the ports has changed. -/
structure Rounds (s t : State) : Prop where
  stands : Stands s t
  degr : t.host.degr = s.host.degr
  dies : ∀ {α : Type} (g : Die → α), (∀ (d : Die) o a p n c r, g { d with almOut := o, almAcks := a, almPeers := p, almSince := n, almRing := c, almRetry := r } = g d) →
    dieView g t = dieView g s

theorem rounds_refl (s : State) : Rounds s s := ⟨stands_refl s, rfl, fun _ _ => rfl⟩

theorem Rounds.trans {s t u : State} (h : Rounds s t) (k : Rounds t u) : Rounds s u :=
  ⟨h.stands.trans k.stands, k.degr.trans h.degr, fun g keeps => (k.dies g keeps).trans (h.dies g keeps)⟩

theorem rounds_ite {c : Prop} [Decidable c] {s t u : State} (ht : Rounds s t) (hu : Rounds s u) : Rounds s (if c then t else u) :=
  ite_both (P := Rounds s) ht hu

theorem rounds_toPeers (m : AlmStep) (s : State) : Rounds s (s.toPeers m) := by
  unfold State.toPeers
  generalize s.gen.peers = l
  induction l generalizing s with
  | nil => exact rounds_refl s
  | cons p r ih =>
    have sent : Rounds s (s.sendBytes p 1 m.bytes) := ⟨stands_same rfl rfl rfl rfl, rfl, fun _ _ => rfl⟩
    exact sent.trans (ih _)

theorem rounds_msgs (s : State) (l : List AlmStep) : Rounds s { s with msgs := l } := ⟨stands_same rfl rfl rfl rfl, rfl, fun _ _ => rfl⟩

theorem rounds_endRound (s : State) : Rounds s s.endRound := by
  refine ⟨stands_same rfl rfl rfl rfl, rfl, fun g keeps => ?_⟩
  have each : ∀ d : Die, g { d with almOut := none, almAcks := [], almPeers := [] } = g d := fun d => keeps d none [] [] d.almSince d.almRing d.almRetry
  simp [dieView, State.endRound, each, Function.comp_def]

theorem rounds_updDie {f : Die → Die} (s : State) (d : Nat) (keeps : ∀ x, ∃ o a p n c r, f x = { x with almOut := o, almAcks := a, almPeers := p, almSince := n, almRing := c, almRetry := r }) :
    Rounds s (s.updDie d f) := by
  refine ⟨stands_same rfl rfl rfl rfl, rfl, fun g same => ?_⟩
  refine dies_map_updDie ?_
  obtain ⟨o, a, p, n, c, r, e⟩ := keeps (s.die d)
  rw [e, same]

theorem rounds_sendPrepare (s : State) : Rounds s s.sendPrepare := by
  unfold State.sendPrepare
  extract_lets x iter delta m s1
  have opened : Rounds s s1 := rounds_updDie s x fun y => ⟨some m, [], s.gen.peers, y.cyc, s.host.ringSteps, y.almRetry, rfl⟩
  exact (opened.trans (rounds_msgs ..)).trans (rounds_toPeers ..)

theorem rounds_restartRound (s : State) (o : AlmMsg) : Rounds s (s.restartRound o) := by
  unfold State.restartRound
  extract_lets s1 m
  have ended : Rounds s s1 := rounds_endRound s
  exact ((ended.trans (rounds_msgs ..)).trans (rounds_toPeers ..)).trans (rounds_sendPrepare _)

theorem rounds_fenceRound (s : State) (d : Nat) : Rounds s (s.fenceRound d) := by
  unfold State.fenceRound
  split
  · exact rounds_refl s
  · refine rounds_ite (rounds_ite (rounds_refl s) (rounds_endRound s)) (rounds_ite (rounds_refl s) ?_)
    exact (rounds_restartRound ..).trans (rounds_updDie _ _ fun y => ⟨y.almOut, y.almAcks, y.almPeers, y.almSince, y.almRing, 0, rfl⟩)

/-! ### Gangs that end, saves that are dropped, gangs that stop -/

/-- Each running core of `t` ran in `s`, with the same gang on the same die. -/
def NoNewCore (s t : State) : Prop := ∀ k ∈ t.core :: t.parked, k.running = true → ∃ c ∈ s.core :: s.parked, coreId c = coreId k

theorem noNewCore_of_stands {s t : State} (h : Stands s t) : NoNewCore s t := fun k m _ => by
  have here : coreId k ∈ (s.core :: s.parked).map coreId := h.cores ▸ List.mem_map_of_mem m
  obtain ⟨c, there, e⟩ := List.mem_map.1 here
  exact ⟨c, there, e⟩

theorem coreId_running {c k : Core} (e : coreId c = coreId k) : c.running = k.running := congrArg (·.1) e
theorem coreId_did {c k : Core} (e : coreId c = coreId k) : c.did = k.did := congrArg (·.2.1) e
theorem coreId_lrec {c k : Core} (e : coreId c = coreId k) : c.lrec = k.lrec := congrArg (·.2.2.1) e
theorem coreId_gangNo {c k : Core} (e : coreId c = coreId k) : c.gangNo = k.gangNo := congrArg (·.2.2.2.1) e
theorem coreId_stopReq {c k : Core} (e : coreId c = coreId k) : c.stopReq = k.stopReq := congrArg (·.2.2.2.2) e

theorem NoNewCore.trans {s t u : State} (h : NoNewCore s t) (g : NoNewCore t u) : NoNewCore s u := fun k m runs => by
  obtain ⟨c, there, e⟩ := g k m runs
  obtain ⟨b, here, e'⟩ := h c there ((coreId_running e).trans runs)
  exact ⟨b, here, e'.trans e⟩

theorem endGang_stands (s : State) (lrec g : Nat) : Stands (s.dropGang lrec g) (s.endGang lrec g) := by
  unfold State.endGang
  extract_lets cs s2
  have closed : Stands (s.dropGang lrec g) s2 :=
    Stands.trans (t := ({ s with orphans := s.orphans ++ cs.flatMap fun (c : Core) => c.rake } : State).dropGang lrec g) (stands_same rfl rfl rfl rfl)
      (stands_closeAll ..)
  clear_value s2 cs
  split
  · exact closed
  · exact closed.trans (stands_giveCores ..)

/-- A gang that is dropped runs nowhere. -/
theorem mem_dropGang {s : State} {lrec g : Nat} {k : Core} (m : k ∈ (s.dropGang lrec g).core :: (s.dropGang lrec g).parked) (runs : k.running = true) :
    k ∈ s.core :: s.parked ∧ ¬(k.lrec = lrec ∧ k.gangNo = g) := by
  rcases List.mem_cons.1 m with rfl | m
  · by_cases here : s.core.inGang lrec g
    · have gone : (s.dropGang lrec g).core = s.core.cleared := if_pos here
      rw [gone] at runs
      exact absurd runs Bool.false_ne_true
    · have same : (s.dropGang lrec g).core = s.core := if_neg here
      rw [same] at runs ⊢
      exact ⟨.head _, fun ⟨l, n⟩ => here (by simp [Core.inGang, runs, l, n])⟩
  · obtain ⟨m, out⟩ := List.mem_filter.1 m
    exact ⟨.tail _ m, fun ⟨l, n⟩ => by simp [Core.inGang, runs, l, n] at out⟩

/-- The gangs of a list have ended, and no core runs that did not before. -/
theorem endGangs_cores (l : List (Nat × Nat)) (s : State) : NoNewCore s (s.endGangs l) ∧
    ∀ k ∈ (s.endGangs l).core :: (s.endGangs l).parked, k.running = true → (k.lrec, k.gangNo) ∉ l := by
  induction l generalizing s with
  | nil => exact ⟨noNewCore_of_stands (stands_refl s), fun _ _ _ => List.not_mem_nil⟩
  | cons g r ih =>
    obtain ⟨old, ended⟩ := ih (s.endGang g.1 g.2)
    have first : ∀ k ∈ (s.endGang g.1 g.2).core :: (s.endGang g.1 g.2).parked, k.running = true →
        (∃ c ∈ s.core :: s.parked, coreId c = coreId k) ∧ (k.lrec, k.gangNo) ≠ g := fun k m runs => by
      obtain ⟨c, there, e⟩ := noNewCore_of_stands (endGang_stands s g.1 g.2) k m runs
      obtain ⟨here, other⟩ := mem_dropGang there ((coreId_running e).trans runs)
      refine ⟨⟨c, here, e⟩, fun same => other ⟨?_, ?_⟩⟩
      · rw [coreId_lrec e, ← same]
      · rw [coreId_gangNo e, ← same]
    refine ⟨NoNewCore.trans (fun k m runs => (first k m runs).1) old, fun k m runs => ?_⟩
    obtain ⟨c, there, e⟩ := old k m runs
    have away := (first c there ((coreId_running e).trans runs)).2
    rw [coreId_lrec e, coreId_gangNo e] at away
    exact fun listed => (List.mem_cons.1 listed).elim away (ended k m runs)

theorem endGangs_launches (l : List (Nat × Nat)) (s : State) : (s.endGangs l).launches = s.launches := by
  induction l generalizing s with
  | nil => rfl
  | cons g r ih => exact (ih _).trans (endGang_stands s g.1 g.2).launches

/-- The gangs of a list are saved no more; whoever runs runs on. -/
structure Drops (l : List SavedGang) (s t : State) : Prop where
  launches : t.launches = s.launches
  cores : (t.core :: t.parked).map coreId = (s.core :: s.parked).map coreId
  saved : t.saved.map savedId = (s.saved.filter fun x => l.all fun v => !(x.lrec == v.lrec && x.gang == v.gang)).map savedId

theorem savedId_filter (p : Nat × Nat × Nat → Bool) (l : List SavedGang) : (l.filter fun x => p (savedId x)).map savedId = (l.map savedId).filter p := by
  rw [List.filter_map]
  rfl

theorem dropSaved_drops (l : List SavedGang) (s : State) : Drops l s (s.dropSaved l) := by
  induction l generalizing s with
  | nil => exact ⟨rfl, rfl, by simp [State.dropSaved]⟩
  | cons v r ih =>
    unfold State.dropSaved
    extract_lets s1
    let s0 : State := { s with saved := s.saved.filter fun x => !(x.lrec == v.lrec && x.gang == v.gang)
                               orphans := s.orphans ++ v.cores.flatMap fun (c : Core) => c.rake }
    have h1 : Stands s0 s1 := stands_closeAll v.cores s0
    have h2 : Stands s0 (if v.valid then s1 else s1.giveCores ((v.cores.head?.map (·.node)).getD 0)) := stands_ite h1 (h1.trans (stands_giveCores ..))
    generalize (if v.valid then s1 else s1.giveCores ((v.cores.head?.map (·.node)).getD 0)) = s2 at h2
    obtain ⟨launches, cores, saved⟩ := ih s2
    refine ⟨launches.trans h2.launches, cores.trans h2.cores, saved.trans ?_⟩
    have first : s2.saved.map savedId = (s.saved.filter fun x => !(x.lrec == v.lrec && x.gang == v.gang)).map savedId := h2.saved
    let p (i : Nat × Nat × Nat) : Bool := r.all fun w => !(i.1 == w.lrec && i.2.1 == w.gang)
    let q (i : Nat × Nat × Nat) : Bool := !(i.1 == v.lrec && i.2.1 == v.gang)
    calc (s2.saved.filter fun x => p (savedId x)).map savedId
        = (s2.saved.map savedId).filter p := savedId_filter p _
      _ = ((s.saved.map savedId).filter q).filter p := by rw [first]; exact congrArg (List.filter p) (savedId_filter q _)
      _ = (s.saved.map savedId).filter fun i => p i && q i := List.filter_filter
      _ = (s.saved.filter fun x => (p (savedId x)) && q (savedId x)).map savedId := (savedId_filter (fun i => p i && q i) _).symm
      _ = _ := by
        congr 2
        funext x
        simp [p, q, savedId, Bool.and_comm]

/-- A gang saved in `t` was saved in `s`, and is not of the list. -/
theorem Drops.left {l : List SavedGang} {s t : State} (h : Drops l s t) {y : SavedGang} (m : y ∈ t.saved) :
    ∃ x ∈ s.saved, savedId x = savedId y ∧ x ∉ l := by
  have here : savedId y ∈ (s.saved.filter fun x => l.all fun v => !(x.lrec == v.lrec && x.gang == v.gang)).map savedId := h.saved ▸ List.mem_map_of_mem m
  obtain ⟨x, m, e⟩ := List.mem_map.1 here
  obtain ⟨there, out⟩ := List.mem_filter.1 m
  refine ⟨x, there, e, fun listed => ?_⟩
  have := List.all_eq_true.1 out x listed
  simp at this

theorem haltGangs_frame (l : List (Nat × Nat)) (k : StopKind) (s : State) :
    (l.foldl (fun s g => s.haltGang g.1 g.2 k) s).launches = s.launches ∧ (l.foldl (fun s g => s.haltGang g.1 g.2 k) s).saved = s.saved ∧
    (l.foldl (fun s g => s.haltGang g.1 g.2 k) s).dies = s.dies := by
  induction l generalizing s with
  | nil => exact ⟨rfl, rfl, rfl⟩
  | cons g r ih => exact ih _

/-- Each core after gangs are halted, with the core it was. -/
theorem haltGangs_mem {l : List (Nat × Nat)} {k : StopKind} {s : State} {c : Core}
    (m : c ∈ (l.foldl (fun s g => s.haltGang g.1 g.2 k) s).core :: (l.foldl (fun s g => s.haltGang g.1 g.2 k) s).parked) :
    ∃ b ∈ s.core :: s.parked, c.running = b.running ∧ c.did = b.did ∧ c.lrec = b.lrec ∧ c.gangNo = b.gangNo ∧ (b.stopReq = true → c.stopReq = true) ∧
      (b.running = true → (b.lrec, b.gangNo) ∈ l → c.stopReq = true) := by
  induction l generalizing s with
  | nil => exact ⟨c, m, rfl, rfl, rfl, rfl, id, fun _ h => absurd h List.not_mem_nil⟩
  | cons g r ih =>
    obtain ⟨b, m, runs, did, lrec, gang, stays, stops⟩ := ih m
    let up := fun (c : Core) => if c.inGang g.1 g.2 then { c with stopReq := true, stopAs := c.stopAs.join k } else c
    have made : b ∈ (s.core :: s.parked).map up := m
    obtain ⟨a, there, rfl⟩ := List.mem_map.1 made
    have upId : (up a).running = a.running ∧ (up a).did = a.did ∧ (up a).lrec = a.lrec ∧ (up a).gangNo = a.gangNo ∧ (a.stopReq = true → (up a).stopReq = true) ∧
        (a.inGang g.1 g.2 = true → (up a).stopReq = true) := by
      by_cases here : a.inGang g.1 g.2 = true
      · simp only [up, if_pos here]
        exact ⟨trivial, trivial, trivial, trivial, fun _ => trivial, fun _ => trivial⟩
      · simp only [up, if_neg here]
        exact ⟨trivial, trivial, trivial, trivial, id, fun h => absurd h here⟩
    obtain ⟨upRuns, upDid, upLrec, upGang, upStays, upStops⟩ := upId
    refine ⟨a, there, runs.trans upRuns, did.trans upDid, lrec.trans upLrec, gang.trans upGang, stays ∘ upStays, fun running listed => ?_⟩
    rcases List.mem_cons.1 listed with here | later
    · refine stays (upStops ?_)
      rw [← here]
      simp [Core.inGang, running]
    · exact stops (upRuns ▸ running) (by rw [upLrec, upGang]; exact later)

end Sys2Proof.Proofs
end

section
/-!
PROOFS. DIE_FENCE and the events that fence a die; memory's health (R322 to R324, R342, R357, R359, R360, R362, R363, R387).
-/

namespace Sys2Proof.Proofs
open Sys2Proof Sys2Proof.Machine

/-! ### The stages of DIE_FENCE -/

/-- The gangs resident on a die. -/
def gangsOn (s : State) (d : Nat) : List (Nat × Nat) := (((s.core :: s.parked).filter fun c => c.running && c.did == d).map fun c => (c.lrec, c.gangNo)).dedup

/-- The die's gangs have ended and its saves are dropped. -/
@[irreducible] def evicted (s : State) (d : Nat) : State :=
  let s1 := (s.abandonDie d).endGangs (gangsOn s d)
  s1.dropSaved (s1.saved.filter fun v => v.die == d)

/-- Then its peers' channels have failed, what it held is lost, and the launches are settled. -/
@[irreducible] def forsaken (s : State) (d : Nat) : State :=
  (((evicted s d).losePeers d (List.range 12)).updDie d Die.lost).settleLaunches d fun lrec => s.lostGangs lrec d

/-- Then the gangs of lost launches are told to stop. -/
@[irreducible] def haltedAfter (s : State) (d : Nat) : State := (forsaken s d).gangsOfLost.foldl (fun s g => s.haltGang g.1 g.2 .fail) (forsaken s d)

/-- Then their saves are dropped. -/
@[irreducible] def settled (s : State) (d : Nat) : State :=
  let s4 := haltedAfter s d
  s4.dropSaved (s4.saved.filter fun v => s4.launches.any fun l => l.lost && l.lrec == v.lrec)

/-- Then the device is marked degraded. -/
@[irreducible] def degraded (s : State) (d : Nat) : State := { settled s d with host := { (settled s d).host with degr := true } }

/-- Last the loss is recorded. -/
@[irreducible] def recorded (s : State) (d : Nat) : State := (degraded s d).postRoot (degraded s d).master { code := 0x43, die := d }

theorem fenceDie_eq {s : State} {d : Nat} (live : (s.die d).fenced = false) : s.fenceDie d = (recorded s d).fenceRound d := by
  unfold recorded degraded settled haltedAfter forsaken evicted
  exact if_neg (by simp [live])

section
variable (s : State) (d : Nat)

theorem evicted_drops : ∃ l, (∀ v ∈ ((s.abandonDie d).endGangs (gangsOn s d)).saved, v.die = d → v ∈ l) ∧
    Drops l ((s.abandonDie d).endGangs (gangsOn s d)) (evicted s d) := by
  unfold evicted
  exact ⟨_, fun v m here => List.mem_filter.2 ⟨m, by simp [here]⟩, dropSaved_drops ..⟩

theorem haltedAfter_frame : (haltedAfter s d).launches = (forsaken s d).launches ∧ (haltedAfter s d).saved = (forsaken s d).saved ∧
    (haltedAfter s d).dies = (forsaken s d).dies := by
  unfold haltedAfter
  exact haltGangs_frame ..

theorem haltedAfter_mem {c : Core} (m : c ∈ (haltedAfter s d).core :: (haltedAfter s d).parked) :
    ∃ b ∈ (forsaken s d).core :: (forsaken s d).parked, c.running = b.running ∧ c.did = b.did ∧ c.lrec = b.lrec ∧ c.gangNo = b.gangNo ∧
      (b.stopReq = true → c.stopReq = true) ∧ (b.running = true → (b.lrec, b.gangNo) ∈ (forsaken s d).gangsOfLost → c.stopReq = true) := by
  unfold haltedAfter at m
  exact haltGangs_mem m

theorem settled_drops : Drops ((haltedAfter s d).saved.filter fun v => (haltedAfter s d).launches.any fun l => l.lost && l.lrec == v.lrec)
    (haltedAfter s d) (settled s d) := by
  unfold settled
  exact dropSaved_drops ..

theorem degraded_stands : Stands (settled s d) (degraded s d) := by
  unfold degraded
  exact stands_same rfl rfl rfl rfl

theorem degraded_degr : (degraded s d).host.degr = true := by
  unfold degraded
  rfl

theorem degraded_dies : (degraded s d).dies = (settled s d).dies := by
  unfold degraded
  rfl

theorem recorded_stands : Stands (settled s d) (recorded s d) := by
  unfold recorded
  exact (degraded_stands s d).trans (stands_postRoot ..)

theorem recorded_degr : (recorded s d).host.degr = true := by
  unfold recorded
  exact (postRoot_signals ..).degr.trans (degraded_degr s d)

end

/-! ### The die itself -/

/-- What is lost with a die. -/
def lostView (d : Die) : Bool × Bool × List Ctx × Bool := (d.fenced, d.ok, d.ctxs, d.ends.isEmpty)

theorem lostView_closeAll (l : List Core) (s : State) : dieView lostView (s.closeAll l) = dieView lostView s := by
  induction l generalizing s with
  | nil => rfl
  | cons c r ih =>
    refine (ih _).trans ?_
    simp [dieView, State.closeEnds, lostView, Function.comp_def]

theorem dieView_addUse {α : Type} {g : Die → α} (keeps : ∀ (d : Die) (q : List (Nat × List Byte)), g { d with panq := q } = g d) (use : Nat) (d : Int)
    (l : List Nat) (s : State) : dieView g (s.addUse use d l) = dieView g s := by
  induction l generalizing s with
  | nil => rfl
  | cons x r ih =>
    refine (ih _).trans ?_
    exact dieView_ite rfl (dieView_writeMem keeps ..)

theorem lostView_dropSaved (l : List SavedGang) (s : State) : dieView lostView (s.dropSaved l) = dieView lostView s := by
  induction l generalizing s with
  | nil => rfl
  | cons v r ih =>
    unfold State.dropSaved
    extract_lets s1
    have closed : dieView lostView s1 = dieView lostView s := lostView_closeAll v.cores _
    clear_value s1
    refine (ih _).trans ?_
    exact dieView_ite closed ((dieView_addUse (fun _ _ => rfl) ..).trans closed)

theorem lostView_recorded (s : State) (d : Nat) : dieView lostView ((recorded s d).fenceRound d) = dieView lostView (forsaken s d) := by
  have round : dieView lostView ((recorded s d).fenceRound d) = dieView lostView (recorded s d) :=
    (rounds_fenceRound (recorded s d) d).dies lostView fun _ _ _ _ _ _ _ => rfl
  have posted : dieView lostView (recorded s d) = dieView lostView (settled s d) := by
    have marked : dieView lostView (degraded s d) = dieView lostView (settled s d) := congrArg (List.map lostView) (degraded_dies s d)
    unfold recorded
    refine Eq.trans ?_ marked
    exact dieView_ite rfl (dieView_postRecord (fun _ _ => rfl) ..)
  have dropped : dieView lostView (settled s d) = dieView lostView (haltedAfter s d) := by
    unfold settled
    exact lostView_dropSaved ..
  have halted : dieView lostView (haltedAfter s d) = dieView lostView (forsaken s d) := congrArg (List.map lostView) (haltedAfter_frame s d).2.2
  rw [round, posted, dropped, halted]

/-! ### How many dies there are -/

theorem closeAll_length (l : List Core) (s : State) : (s.closeAll l).dies.length = s.dies.length := by
  induction l generalizing s with
  | nil => rfl
  | cons c r ih =>
    refine (ih _).trans ?_
    simp [State.closeEnds]

theorem giveCores_length (s : State) (node : Nat) : (s.giveCores node).dies.length = s.dies.length :=
  length_of_dieView (g := fun _ => ()) (dieView_addUse (fun _ _ => rfl) ..)

theorem endGangs_length (l : List (Nat × Nat)) (s : State) : (s.endGangs l).dies.length = s.dies.length := by
  induction l generalizing s with
  | nil => rfl
  | cons g r ih =>
    refine (ih _).trans ?_
    unfold State.endGang
    extract_lets cs s2
    have closed : s2.dies.length = s.dies.length := closeAll_length ..
    clear_value s2 cs
    split
    · exact closed
    · exact (giveCores_length ..).trans closed

theorem dropSaved_length (l : List SavedGang) (s : State) : (s.dropSaved l).dies.length = s.dies.length := length_of_dieView (lostView_dropSaved l s)

theorem dropSends_length (l : List Copy) (s : State) : (s.dropSends l).dies.length = s.dies.length := by
  induction l generalizing s with
  | nil => rfl
  | cons k r ih => exact (ih _).trans (congrArg List.length (endOp_dies ..))

theorem losePeers_length (d : Nat) (l : List Nat) (s : State) : (s.losePeers d l).dies.length = s.dies.length := by
  have ends : ∀ (k : Nat) (l : List ChEnd) (s : State), (s.loseEnds k l).dies.length = s.dies.length := fun k l => by
    induction l with
    | nil => exact fun _ => rfl
    | cons e r ih =>
      refine fun s => (ih _).trans ?_
      refine (congrArg List.length (endOp_dies ..)).trans ((dropSends_length ..).trans ?_)
      simp [State.updEnd]
  induction l generalizing s with
  | nil => rfl
  | cons k r ih =>
    refine (ih _).trans ?_
    exact ite_both (P := fun t : State => t.dies.length = s.dies.length) rfl (ends ..)

theorem forsaken_die {s : State} {d : Nat} (there : d < s.dies.length) :
    ∃ x, ((forsaken s d).die d) = Die.lost x := by
  have still : d < ((evicted s d).losePeers d (List.range 12)).dies.length := by
    rw [losePeers_length]
    unfold evicted
    rw [dropSaved_length, endGangs_length]
    exact there
  unfold forsaken
  exact ⟨_, die_updDie still Die.lost⟩

/-! ### The cores, the saves and the launches -/

section
variable {s : State} {d : Nat}

theorem evicted_launches : (evicted s d).launches = s.launches := by
  obtain ⟨l, -, drops⟩ := evicted_drops s d
  exact drops.launches.trans ((endGangs_launches ..).trans (stands_abandonDie s d).launches)

/-- No core of the die runs any more. -/
theorem evicted_cores : ∀ k ∈ (evicted s d).core :: (evicted s d).parked, k.running = true → k.did ≠ d := fun k m runs here => by
  obtain ⟨l, -, drops⟩ := evicted_drops s d
  have dropped : coreId k ∈ (((s.abandonDie d).endGangs (gangsOn s d)).core :: ((s.abandonDie d).endGangs (gangsOn s d)).parked).map coreId :=
    drops.cores ▸ List.mem_map_of_mem m
  obtain ⟨c, there, e⟩ := List.mem_map.1 dropped
  obtain ⟨old, ended⟩ := endGangs_cores (gangsOn s d) (s.abandonDie d)
  have running := (coreId_running e).trans runs
  obtain ⟨b, there', e'⟩ := (noNewCore_of_stands (stands_abandonDie s d)).trans old c there running
  refine ended c there running (List.mem_dedup.2 (List.mem_map.2 ⟨b, List.mem_filter.2 ⟨there', ?_⟩, ?_⟩))
  · simp [(coreId_running e').trans running, (coreId_did e').trans ((coreId_did e).trans here)]
  · rw [coreId_lrec e', coreId_gangNo e']

theorem evicted_saved : ∀ y ∈ (evicted s d).saved, y.die ≠ d := fun y m here => by
  obtain ⟨l, covers, drops⟩ := evicted_drops s d
  obtain ⟨x, there, e, out⟩ := drops.left m
  have die : x.die = y.die := congrArg (·.2.2) e
  exact out (covers x there (die.trans here))

theorem forsaken_stands : ((forsaken s d).core :: (forsaken s d).parked).map coreId = ((evicted s d).core :: (evicted s d).parked).map coreId ∧
    (forsaken s d).saved.map savedId = (evicted s d).saved.map savedId ∧
    ∃ heir : Launch → Nat, (forsaken s d).launches = s.launches.map fun l => l.afterLoss d (heir l) (s.lostGangs l.lrec d) := by
  have lost := stands_losePeers d (List.range 12) (evicted s d)
  unfold forsaken
  refine ⟨lost.cores, lost.saved, (((evicted s d).losePeers d (List.range 12)).updDie d Die.lost).heir, ?_⟩
  show List.map _ ((evicted s d).losePeers d (List.range 12)).launches = _
  rw [lost.launches, evicted_launches]

/-- Everything after the halt only drops saves: who runs and the launches stand. -/
theorem fenced_after : let t := (recorded s d).fenceRound d
    t.launches = (forsaken s d).launches ∧ (t.core :: t.parked).map coreId = ((haltedAfter s d).core :: (haltedAfter s d).parked).map coreId ∧
    t.saved.map savedId = (settled s d).saved.map savedId ∧ t.host.degr = true := by
  have round := rounds_fenceRound (recorded s d) d
  have posted := recorded_stands s d
  have dropped := settled_drops s d
  exact ⟨round.stands.launches.trans (posted.launches.trans (dropped.launches.trans (haltedAfter_frame s d).1)),
    round.stands.cores.trans (posted.cores.trans dropped.cores), round.stands.saved.trans posted.saved, round.degr.trans (recorded_degr s d)⟩

theorem fenced_core {k : Core} (m : k ∈ ((recorded s d).fenceRound d).core :: ((recorded s d).fenceRound d).parked) :
    ∃ b ∈ (forsaken s d).core :: (forsaken s d).parked, k.running = b.running ∧ k.did = b.did ∧ k.lrec = b.lrec ∧
      (b.running = true → (b.lrec, b.gangNo) ∈ (forsaken s d).gangsOfLost → k.stopReq = true) := by
  obtain ⟨-, cores, -, -⟩ := fenced_after (s := s) (d := d)
  have here : coreId k ∈ ((haltedAfter s d).core :: (haltedAfter s d).parked).map coreId := cores ▸ List.mem_map_of_mem m
  obtain ⟨c, there, e⟩ := List.mem_map.1 here
  obtain ⟨b, m, runs, did, lrec, -, -, stops⟩ := haltedAfter_mem s d there
  exact ⟨b, m, (coreId_running e).symm.trans runs, (coreId_did e).symm.trans did, (coreId_lrec e).symm.trans lrec,
    fun running listed => (coreId_stopReq e).symm.trans (stops running listed)⟩

theorem fenced_idle : ∀ k ∈ ((recorded s d).fenceRound d).core :: ((recorded s d).fenceRound d).parked, k.running = true → k.did ≠ d := fun k m runs => by
  obtain ⟨b, there, running, did, -, -⟩ := fenced_core m
  have here : coreId b ∈ ((evicted s d).core :: (evicted s d).parked).map coreId := forsaken_stands.1 ▸ List.mem_map_of_mem there
  obtain ⟨c, there, e⟩ := List.mem_map.1 here
  rw [did, ← coreId_did e]
  exact evicted_cores c there ((coreId_running e).trans (running.symm.trans runs))

theorem fenced_save {y : SavedGang} (m : y ∈ ((recorded s d).fenceRound d).saved) : y.die ≠ d ∧
    ∀ l ∈ (forsaken s d).launches, l.lost = true → y.lrec ≠ l.lrec := by
  obtain ⟨-, -, saved, -⟩ := fenced_after (s := s) (d := d)
  have here : savedId y ∈ (settled s d).saved.map savedId := saved ▸ List.mem_map_of_mem m
  obtain ⟨x, there, e⟩ := List.mem_map.1 here
  obtain ⟨z, before, e', out⟩ := (settled_drops s d).left there
  have same : savedId z = savedId y := e'.trans e
  obtain ⟨launches, saves, -⟩ := haltedAfter_frame s d
  refine ⟨?_, fun l listed lost wanted => ?_⟩
  · have earlier : savedId z ∈ (evicted s d).saved.map savedId := by
      rw [← forsaken_stands.2.1, ← saves]
      exact List.mem_map_of_mem before
    obtain ⟨w, kept, e''⟩ := List.mem_map.1 earlier
    have die : w.die = y.die := congrArg (·.2.2) (e''.trans same)
    exact die ▸ evicted_saved w kept
  · have lrec : z.lrec = y.lrec := congrArg (·.1) same
    exact out (List.mem_filter.2 ⟨before, List.any_eq_true.2 ⟨l, launches ▸ listed, by simp [lost, lrec, wanted]⟩⟩)

/-- A launch that names the die, after the die's loss (R342). -/
theorem fenced_launch {l : Launch} (listed : l ∈ s.launches) (names : l.dies.testBit d = true) :
    ∃ y ∈ (forsaken s d).launches, y.lrec = l.lrec ∧ (l.reiss = false → y.lost = true) ∧ (l.reiss = true → y.again = l.again ++ s.lostGangs l.lrec d) := by
  obtain ⟨-, -, heir, launches⟩ := forsaken_stands (s := s) (d := d)
  rw [launches]
  refine ⟨_, List.mem_map_of_mem listed, ?_⟩
  unfold Launch.afterLoss
  simp only [names, Bool.not_true, Bool.false_eq_true, if_false]
  cases reiss : l.reiss with
  | false => simp
  | true => simp

theorem fenced_stops {l : Launch} (listed : l ∈ (forsaken s d).launches) (lost : l.lost = true) :
    ∀ k ∈ ((recorded s d).fenceRound d).core :: ((recorded s d).fenceRound d).parked, k.running = true → k.lrec = l.lrec → k.stopReq = true :=
  fun k m runs mine => by
    obtain ⟨b, there, running, -, lrec, stops⟩ := fenced_core m
    have runs' := running.symm.trans runs
    refine stops runs' (List.mem_dedup.2 (List.mem_map.2 ⟨b, List.mem_filter.2 ⟨there, ?_⟩, rfl⟩))
    simp only [runs', Bool.true_and, List.any_eq_true]
    exact ⟨l, listed, by simp [lost, ← mine, lrec]⟩

/-- What a fenced die leaves (R284, R342, R360, R362). -/
theorem fenceDie_leaves (package : s.dies.length = 12) (there : d < 12) (live : (s.die d).fenced = false) : let t := s.fenceDie d
    (t.die d).fenced = true ∧ (t.die d).ok = false ∧ (t.die d).ctxs = [] ∧ (t.die d).ends = [] ∧ t.host.degr = true ∧
      (∀ k ∈ t.core :: t.parked, k.running = true → k.did ≠ d) ∧ (∀ y ∈ t.saved, y.die ≠ d) ∧ (∀ key, isHbmKey key = true →
        dieOfDpa key = d → t.poisonedAt key 1 = true) ∧
      ∀ l ∈ s.launches, l.dies.testBit d = true → ∃ y ∈ t.launches, y.lrec = l.lrec ∧ (l.reiss = false → y.lost = true ∧
          (∀ k ∈ t.core :: t.parked, k.running = true → k.lrec = l.lrec → k.stopReq = true) ∧ ∀ v ∈ t.saved, v.lrec ≠ l.lrec) ∧
        (l.reiss = true → y.again = l.again ++ s.lostGangs l.lrec d) := by
  rw [fenceDie_eq live]
  intro t
  obtain ⟨x, lost⟩ := forsaken_die (s := s) (package.symm ▸ there)
  have view : lostView (t.die d) = lostView (Die.lost x) := lost ▸ die_of_dies_map (lostView_recorded s d) d
  simp only [lostView, Die.lost, Prod.mk.injEq, List.isEmpty_nil, List.isEmpty_iff] at view
  obtain ⟨fenced, ok, ctxs, ends⟩ := view
  obtain ⟨launches, -, -, degr⟩ := fenced_after (s := s) (d := d)
  refine ⟨fenced, ok, ctxs, ends, degr, fenced_idle, fun y m => (fenced_save m).1, fun key hbm mine => ?_, fun l listed names => ?_⟩
  · simp [State.poisonedAt, State.hbmDead, hbm, mine, fenced]
  · obtain ⟨y, listed', lrec, lostIf, again⟩ := fenced_launch listed names
    refine ⟨y, (congrArg (y ∈ ·) launches).mpr listed', lrec, fun kept => ⟨lostIf kept, fun k m runs mine => ?_, fun v m mine => ?_⟩, again⟩
    · exact fenced_stops listed' (lostIf kept) k m runs (mine.trans lrec.symm)
    · exact (fenced_save m).2 y listed' (lostIf kept) (mine.trans lrec.symm)

/-- The events that fence a die (R362, R363). -/
theorem fences_ends {i : Instr} (kind : i ∈ [Instr.sharedInfrastructureMachineCheck d, .watchdogExpire d, .watchdogWrite d]) (there : d < 12)
    (rdy : s.host.rdy = true) (due : i ≠ .sharedInfrastructureMachineCheck d → s.watchdogDue d = true) : exec i s = .next (s.fenceDie d) := by
  simp only [List.mem_cons, List.not_mem_nil, or_false] at kind
  rcases kind with rfl | rfl | rfl
  · exact congrArg Host.Outcome.next (if_pos (by simp [there, rdy]))
  · exact congrArg Host.Outcome.next (if_pos (due nofun))
  · exact congrArg Host.Outcome.next (if_pos (due nofun))

theorem watchdogWrite_ends (package : s.dies.length = 12) (there : d < 12) (live : (s.die d).fenced = false) (early : s.watchdogDue d = false) :
    Ends (.watchdogWrite d) s fun t => (t.die d).watchdog = (s.die d).cyc ∧ t.mem = s.mem := by
  refine ⟨s.updDie d fun d => { d with watchdog := d.cyc }, ?_, ?_, rfl⟩
  · exact congrArg Host.Outcome.next ((if_neg (by simp [early])).trans (if_pos (by simp [there, live])))
  · rw [die_updDie (package.symm ▸ there)]

end

/-- Settles O58, clause by clause in the order of the statement. -/
theorem memoryHealthAndFencing : Obligations.MemoryHealthAndFencing := by
  unfold Obligations.MemoryHealthAndFencing
  intro s die a bank row v x flowing b frame package
  refine ⟨fun hbm served => ⟨_, rowActivation_ends hbm served, fun same => ?_, touchRow_counts hbm⟩, refreshManagement_idle,
    fun r q => refreshManagement_ends, periodicRefresh_ends, backoffEnd_early, fun e runs past idle engines copies => backoffEnd_ends runs past idle engines copies,
    fun ⟨ide, rdy⟩ i excl kind => ⟨fun ignored => ?_, fun free bit => ⟨fun refused => ?_, fun listed out => ?_, fun listed out => ?_⟩, retireStatus_cases ..⟩,
    fun closed => ?_, retireComplete_idle, retireComplete_ends,
    fun ⟨ide, rdy⟩ => ⟨⟨_, congrArg Host.Outcome.next (hostGate_flows ide rdy ..), rowctl_ends package v⟩,
      fun there live => ⟨_, congrArg Host.Outcome.next (hostGate_flows ide rdy ..), cdis_ends package there live v⟩,
      fun ignored => congrArg Host.Outcome.next ((hostGate_flows ide rdy ..).trans (cdis_ignored ignored v))⟩,
    fun known => flashRebuild_known known x, fun rebuilt fresh => rebuilt ▸ flashRebuild_rebuilt fresh,
    fun failed small fresh => failed ▸ flashRebuild_failed small fresh, watchdogWrite_ends package, rfl,
    fun early => congrArg Host.Outcome.next (if_neg (by simp [early])), fun early => congrArg Host.Outcome.next (if_neg (by simp [early])),
    fun i kind there rdy live due _ => ⟨_, fences_ends kind there rdy due, fenceDie_leaves package there live⟩⟩
  · rw [touchRow_open hbm same]
    exact ⟨rfl, rfl⟩
  · rw [retireWrite_ends ide rdy kind, retireFrame_ignored ignored]
  · exact ⟨_, retireWrite_ends ide rdy kind, retireFrame_refused free bit refused⟩
  · subst out
    refine ⟨_, retireWrite_ends ide rdy kind, (retireFrame_excluded free bit listed).trans ?_⟩
    rw [listed]
    rfl
  · subst out
    refine ⟨_, retireWrite_ends ide rdy kind, (retireFrame_remapped free bit listed).trans ?_⟩
    rw [listed]
    rfl
  · exact ⟨⟨_, rfl, hostGate_held closed ..⟩, ⟨_, rfl, hostGate_held closed ..⟩, ⟨_, rfl, hostGate_held closed ..⟩, ⟨_, rfl, hostGate_held closed ..⟩⟩

end Sys2Proof.Proofs
end

section
/-!
PROOFS. The phases of bring-up, resets and DEVSTAT (R325 to R328, R356, R386).
-/

namespace Sys2Proof.Proofs
open Sys2Proof Sys2Proof.Machine

variable {s : State}

/-! ### Vectors, bytes and dies -/

/-- Vector `v` has been signalled once, or is held until IDE stands. -/
def told (s t : State) (v : Nat) : Prop :=
  t.host.msix = (if s.host.ide = true then s.host.msix ++ [v] else s.host.msix) ∧
  t.host.msixHeld = if s.host.ide = true then s.host.msixHeld else s.host.msixHeld ++ [v]

theorem told_msix {t : State} (ide : t.host.ide = s.host.ide) (sent : t.host.msix = s.host.msix) (kept : t.host.msixHeld = s.host.msixHeld) (v : Nat) :
    told s (t.msix v) v := by
  show (HostSt.signal _ v).msix = _ ∧ (HostSt.signal _ v).msixHeld = _
  unfold HostSt.signal
  rw [ide]
  split <;> simp [sent, kept]

theorem byte_filter {t : State} {p : Nat → Bool} (e : t.mem = s.mem.filter fun c => p c.1) (key : Nat) : t.byte key = if p key then s.byte key else 0 := by
  unfold State.byte
  rw [e]
  exact sparse_get_filter ..

theorem die_mapIdx {f : Nat → Die → Die} {t : State} {d : Nat} (there : d < s.dies.length) (dies : t.dies = s.dies.mapIdx f) : t.die d = f d (s.die d) := by
  unfold State.die
  simp [dies, List.getD_eq_getElem?_getD, there]

/-- What every die keeps, the first keeps. -/
theorem die_keeps {α : Type} {g : Die → α} {f : Nat → Die → Die} {t : State} (keeps : ∀ i d, g (f i d) = g d) (dies : t.dies = s.dies.mapIdx f) (d : Nat) :
    g (t.die d) = g (s.die d) := by
  refine die_of_dies_map ?_ d
  rw [dies]
  apply List.ext_getElem <;> simp [keeps]

/-! ### Power-good and resets (R325, R328) -/

theorem powerGood_first (off : s.host.phase = 0) :
    Ends .powerGood s fun t => t.host.phase = 1 ∧ t.host.phaseAt = (s.die 0).cyc ∧ t.mem = s.mem ∧ t.core = s.core :=
  ⟨_, congrArg Host.Outcome.next (if_pos off), rfl, rfl, rfl, rfl⟩

theorem powerCycle_die {d : Nat} (there : d < s.dies.length) : (s.powerCycle.die d).cyc = 0 := by
  have dies : s.powerCycle.dies = s.dies.map fun (d : Die) => { ({ Die.reset with cyc := d.cyc, ctl := d.ctl, badArr := d.badArr } : Die) with cyc := 0, ctl := 0 } :=
    List.map_map ..
  rw [die_map there dies]

theorem powerGood_again (package : s.dies.length = 12) (on : s.host.phase ≠ 0) : Ends .powerGood s fun t => t.host.phase = 1 ∧ t.host.rdy = false ∧
    t.core.running = false ∧ (∀ d < 12, (t.die d).cyc = 0) ∧
    ∀ key, (isFlashKey key = true → t.byte key = s.byte key) ∧ (isHbmKey key = true ∨ isScratchKey key = true → t.byte key = 0) := by
  refine ⟨s.powerCycle, congrArg Host.Outcome.next (if_neg on), rfl, rfl, rfl, fun d there => powerCycle_die (package ▸ there), fun key => ?_⟩
  have byte : s.powerCycle.byte key = if (isFlashKey key || (decide (cxlBase ≤ key) && decide (key < flashBase))) = true then s.byte key else 0 :=
    byte_filter (p := fun k => isFlashKey k || (decide (cxlBase ≤ k) && decide (k < flashBase))) rfl key
  rw [byte]
  refine ⟨fun flash => if_pos (by simp [flash]), fun lost => if_neg ?_⟩
  simp only [isHbmKey, isScratchKey, isFlashKey, decide_eq_true_eq, Bool.or_eq_true, Bool.and_eq_true] at lost ⊢
  simp only [cxlBase, flashBase, scratchBase] at lost ⊢
  omega

theorem rebootWith_keeps (package : s.dies.length = 12) (img : Option (List Byte)) : let t := s.rebootWith img
    t.host.phase = 1 ∧ t.host.rdy = false ∧ t.host.fail = false ∧ t.host.ide = false ∧ t.host.badList = s.host.badList ∧ t.flashBad = s.flashBad ∧
    t.core.running = false ∧ t.parked = [] ∧ t.launches = [] ∧ t.saved = [] ∧ (∀ key, isFlashKey key = true → t.byte key = s.byte key) ∧
    (∀ d < 12, (t.die d).cyc = (s.die d).cyc) ∧ t.host.fwImage = img := by
  refine ⟨rfl, rfl, rfl, rfl, rfl, rfl, rfl, rfl, rfl, rfl, fun _ _ => rfl, fun d there => ?_, rfl⟩
  rw [die_map (s := s) (f := fun d => { Die.reset with cyc := d.cyc, ctl := d.ctl, badArr := d.badArr }) (package ▸ there) rfl]

/-! ### Phases (R325 to R327) -/

/-- Bring-up has stopped with a failure code. -/
def BootFailed (s t : State) (code : Nat) : Prop :=
  t.host.fail = true ∧ t.host.fcode = code ∧ t.host.phase = s.host.phase ∧ t.host.rdy = s.host.rdy ∧ told s t 0 ∧ t.mem = s.mem

theorem bootFail_failed (s : State) (code : Nat) : BootFailed s (s.bootFail code) code :=
  have signal : (s.bootFail code).host = HostSt.signal { s.host with fail := true, fcode := code } 0 := rfl
  have keeps : ∀ h : HostSt, (h.signal 0).fail = h.fail ∧ (h.signal 0).fcode = h.fcode ∧ (h.signal 0).phase = h.phase ∧ (h.signal 0).rdy = h.rdy := fun h => by
    unfold HostSt.signal
    split <;> exact ⟨rfl, rfl, rfl, rfl⟩
  let ⟨fail, fcode, phase, rdy⟩ := keeps { s.host with fail := true, fcode := code }
  ⟨signal ▸ fail, signal ▸ fcode, signal ▸ phase, signal ▸ rdy, told_msix rfl rfl rfl 0, rfl⟩

/-- The next phase has begun. -/
def NextPhase (s t : State) : Prop := t.host.phase = s.host.phase + 1 ∧ t.host.phaseAt = (s.die 0).cyc ∧ t.host.fail = s.host.fail

theorem nextPhase_beginPhase {t : State} {n : Nat} (phase : n = s.host.phase + 1) (cyc : (t.die 0).cyc = (s.die 0).cyc)
    (fail : t.host.fail = s.host.fail) : NextPhase s (t.beginPhase n) := ⟨phase, cyc, fail⟩

theorem loadFirmware_host (s : State) : s.loadFirmware.host = s.host := rfl

theorem measure_host (s : State) (i : Nat) (bs : List Byte) :
    (s.measure i bs).host = { s.host with spdm := { s.host.spdm with meas := Sparse.set s.host.spdm.meas i (Config.shake256 bs) } } := rfl

theorem measured_image (s : State) (img : List Byte) : let t := (s.measure 1 Config.romImage).measure 2 img
    t.dies = s.dies ∧ t.mem = s.mem ∧ t.host.fail = s.host.fail ∧ t.host.fwImage = s.host.fwImage ∧ Sparse.get t.host.spdm.meas 2 = Config.shake256 img := by
  intro t
  have host : t.host = _ := measure_host ..
  rw [host, measure_host]
  exact ⟨rfl, rfl, rfl, rfl, sparse_get_set_same ..⟩

/-- The dies that failed are fenced. -/
def FencedToo (s t : State) (failed : List Nat) : Prop := ∀ i < 12, ((t.die i).fenced = true ↔ (s.die i).fenced = true ∨ i ∈ failed)

theorem phaseComplete_off (off : s.booting = false) (failed : List Nat) (x : Bool) :
    exec (.phaseComplete failed x) s = .next s ∧ exec .phaseTimeout s = .next s :=
  ⟨congrArg Host.Outcome.next (if_neg (by simp [off])), congrArg Host.Outcome.next (if_neg (by simp [off]))⟩

theorem phaseComplete_late (on : s.booting = true) (late : s.phaseLate = true) (failed : List Nat) (x : Bool) :
    exec (.phaseComplete failed x) s = .next s ∧ Ends .phaseTimeout s fun t => BootFailed s t 3 :=
  ⟨congrArg Host.Outcome.next (if_neg (by simp [late])), _, congrArg Host.Outcome.next (if_pos (by simp [on, late])), bootFail_failed s 3⟩

section
variable (up : s.booting = true ∧ s.phaseLate = false) {failed : List Nat} {x : Bool}
include up

theorem phaseComplete_ends : exec (.phaseComplete failed x) s = .next (s.phaseEnd failed x) :=
  congrArg Host.Outcome.next (if_pos (by simp [up.1, up.2]))

/-! #### Phase 1 -/

omit up in
/-- A byte of an image that has been loaded at the start of a memory. -/
theorem get_image (l : List Byte) (k b : Nat) :
    Sparse.get (((l.zipIdx k).filter fun b => b.1 != 0).map fun b => (b.2, b.1)) b = if k ≤ b then l.getD (b - k) 0 else 0 := by
  induction l generalizing k with
  | nil =>
    show (0 : Byte) = _
    simp
  | cons y l ih =>
    rw [List.zipIdx_cons, List.filter_cons]
    by_cases zero : y = 0
    · subst zero
      rw [if_neg (by simp), ih]
      by_cases here : b = k
      · subst here; simp
      · by_cases above : k ≤ b
        · rw [if_pos (by omega), if_pos above, show b - k = (b - (k + 1)) + 1 by omega]; rfl
        · rw [if_neg (by omega), if_neg above]
    · rw [if_pos (by simpa using zero), List.map_cons]
      by_cases here : b = k
      · subst here; simp [Sparse.get]
      · have skip : Sparse.get ((k, y) :: (((l.zipIdx (k + 1)).filter fun b => b.1 != 0).map fun b => (b.2, b.1))) b =
            Sparse.get (((l.zipIdx (k + 1)).filter fun b => b.1 != 0).map fun b => (b.2, b.1)) b := by
          simp [Sparse.get, Ne.symm here]
        rw [skip, ih]
        by_cases above : k ≤ b
        · rw [if_pos (by omega), if_pos above, show b - k = (b - (k + 1)) + 1 by omega]; rfl
        · rw [if_neg (by omega), if_neg above]

omit up in
theorem get_load (m : Meridian) (img : List Byte) (n : Nat) {b : Nat} (inside : b < 524288) : Sparse.get (m.load img n).tcm b = img.getD b 0 := by
  refine (get_image (img.take tcmBytes) 0 b).trans ?_
  rw [if_pos (Nat.zero_le _), Nat.sub_zero]
  simp [List.getD_eq_getElem?_getD, show b < tcmBytes from inside]

omit up in
theorem loadFirmware_cyc (s : State) : (s.loadFirmware.die 0).cyc = (s.die 0).cyc :=
  die_keeps (s := s) (g := Die.cyc) (f := fun i d => { d with mer := d.mer.load (s.host.fwImage.getD Config.bootImage) (s.freeN + 32 * i) }) (fun _ _ => rfl) rfl 0

omit up in
/-- The image is loaded into each Meridian's memory, and nothing else of a die changes. -/
theorem loadFirmware_die {d : Nat} (there : d < s.dies.length) : { s.loadFirmware.die d with mer := (s.die d).mer } = s.die d ∧
    ∀ b < 524288, Sparse.get (s.loadFirmware.die d).mer.tcm b = (s.host.fwImage.getD Config.bootImage).getD b 0 := by
  rw [die_mapIdx (s := s) (t := s.loadFirmware)
    (f := fun i d => { d with mer := d.mer.load (s.host.fwImage.getD Config.bootImage) (s.freeN + 32 * i) }) there rfl]
  exact ⟨rfl, fun b inside => get_load (s.die d).mer (s.host.fwImage.getD Config.bootImage) (s.freeN + 32 * d) inside⟩

theorem phase_one (package : s.dies.length = 12) (one : s.host.phase = 1) : let i := Instr.phaseComplete failed x
    (x = true → Ends i s fun t => BootFailed s t 1) ∧ (x = false → let img := s.host.fwImage.getD Config.bootImage
      Ends i s fun t => NextPhase s t ∧ t.mem = s.mem ∧ Sparse.get t.host.spdm.meas 2 = Config.shake256 img ∧
        ∀ d < 12, { t.die d with mer := (s.die d).mer } = s.die d ∧ ∀ b < 524288, Sparse.get (t.die d).mer.tcm b = img.getD b 0) := by
  have ended : s.phaseEnd failed x = if x then ((s.measure 1 Config.romImage).measure 2 (s.host.fwImage.getD Config.bootImage)).bootFail 0x01
      else ((s.measure 1 Config.romImage).measure 2 (s.host.fwImage.getD Config.bootImage)).loadFirmware.beginPhase 2 := by
    unfold State.phaseEnd
    rw [one]
    rfl
  refine ⟨fun refused => ⟨_, phaseComplete_ends up, ?_⟩, fun good => ⟨_, phaseComplete_ends up, ?_⟩⟩
  · rw [ended, if_pos refused]
    exact bootFail_failed ((s.measure 1 _).measure 2 _) 1
  · rw [ended, if_neg (by simp [good])]
    obtain ⟨dies, mem, fail, image, meas⟩ := measured_image s (s.host.fwImage.getD Config.bootImage)
    generalize (s.measure 1 Config.romImage).measure 2 (s.host.fwImage.getD Config.bootImage) = s1 at dies mem fail image meas
    have host := loadFirmware_host s1
    refine ⟨nextPhase_beginPhase (by rw [one]) ((loadFirmware_cyc s1).trans ?_) (by rw [host, fail]), mem, ?_, fun d there => ?_⟩
    · rw [die_of_dies dies]
    · show Sparse.get s1.loadFirmware.host.spdm.meas 2 = _
      rw [host, meas]
    · have loaded := loadFirmware_die (s := s1) (d := d) (by rw [dies, package]; exact there)
      rw [die_of_dies dies, image] at loaded
      exact loaded

end
end Sys2Proof.Proofs
end

section
/-!
PROOFS. Bring-up's later phases, READY, resets and the SPDM responder (R325 to R328, R358, R385, R386).
-/

namespace Sys2Proof.Proofs
open Sys2Proof Sys2Proof.Machine

variable {s : State} {failed : List Nat} {x : Bool}

/-! ### The dies that a phase fences (R327) -/

theorem bootFence_die {d : Nat} (there : d < s.dies.length) :
    (s.bootFence failed).die d = if failed.contains d then { s.die d with fenced := true, ok := false } else s.die d :=
  die_mapIdx (s := s) (f := fun i d => if failed.contains i then { d with fenced := true, ok := false } else d) there rfl

theorem bootFence_fenced {d : Nat} (there : d < s.dies.length) :
    ((s.bootFence failed).die d).fenced = true ↔ (s.die d).fenced = true ∨ d ∈ failed := by
  rw [bootFence_die there]
  by_cases gone : d ∈ failed <;> simp [gone]

theorem bootFence_cyc (s : State) (d : Nat) : ((s.bootFence failed).die d).cyc = (s.die d).cyc :=
  die_keeps (s := s) (g := Die.cyc) (fun _ _ => by split <;> rfl) rfl d

/-- The dies stand as a phase fences them. -/
theorem fencedToo_dies {t : State} (package : s.dies.length = 12) (dies : t.dies = (s.bootFence failed).dies) : FencedToo s t failed := fun d there => by
  rw [die_of_dies dies]
  exact bootFence_fenced (package ▸ there)

theorem phaseComplete_fails (up : s.booting = true ∧ s.phaseLate = false) {code : Nat} (e : s.phaseEnd failed x = s.bootFail code) :
    Ends (.phaseComplete failed x) s fun t => BootFailed s t code :=
  ⟨_, phaseComplete_ends up, e ▸ bootFail_failed s code⟩

section
variable (up : s.booting = true ∧ s.phaseLate = false) (package : s.dies.length = 12)

/-! ### Phase 2 -/

include up package in
theorem phase_two (two : s.host.phase = 2) : let i := Instr.phaseComplete failed x
    (0 ∈ failed → Ends i s fun t => BootFailed s t 2) ∧
    (0 ∉ failed → Ends i s fun t => NextPhase s t ∧ FencedToo s t failed ∧ t.mem = s.mem) := by
  have ended : s.phaseEnd failed x = if failed.contains 0 then s.bootFail 0x02 else (s.bootFence failed).trainPorts.beginPhase 3 := by
    unfold State.phaseEnd
    rw [two]
    rfl
  refine ⟨fun lead => phaseComplete_fails up (ended.trans (if_pos (by simpa using lead))), fun lead => ⟨_, phaseComplete_ends up, ?_⟩⟩
  rw [ended, if_neg (by simpa using lead)]
  exact ⟨nextPhase_beginPhase (by rw [two]) (bootFence_cyc s 0) rfl, fencedToo_dies package rfl, rfl⟩

/-! ### Phase 3 (R358) -/

/-- The bad-page list that is loaded changes no other register. -/
theorem loadBad_keeps {h : HostSt} (loaded : s.host.loadBad = some h) : h.phase = s.host.phase ∧ h.fail = s.host.fail := by
  unfold HostSt.loadBad at loaded
  split at loaded
  · obtain rfl := Option.some.inj loaded; exact ⟨rfl, rfl⟩
  · split at loaded
    · obtain rfl := Option.some.inj loaded; exact ⟨rfl, rfl⟩
    · cases loaded

/-- The state that phase 3 leaves before the next begins. -/
def swept (s : State) (h : HostSt) (failed : List Nat) : State :=
  ((({ s with host := h } : State).bootFence failed).clearMemory).measure 4 (h.badList.flatMap badEntry)

theorem swept_byte (s : State) (h : HostSt) (failed : List Nat) (key : Nat) :
    (swept s h failed).byte key = if (decide (cxlBase ≤ key) && decide (key < scratchBase)) = true then s.byte key else 0 :=
  byte_filter (p := fun k => decide (cxlBase ≤ k) && decide (k < scratchBase)) rfl key

theorem swept_dies (s : State) (h : HostSt) (failed : List Nat) : (swept s h failed).dies = (s.bootFence failed).dies := rfl

theorem swept_host (s : State) (h : HostSt) (failed : List Nat) : (swept s h failed).host.fail = h.fail ∧ (swept s h failed).host.badList = h.badList :=
  ⟨rfl, rfl⟩

include up package in
theorem phase_three (three : s.host.phase = 3) : let i := Instr.phaseComplete failed x
    (x = true ∨ s.host.loadBad = none → Ends i s fun t => BootFailed s t 5) ∧
    ∀ h, s.host.loadBad = some h → x = false → (0 ∈ failed → Ends i s fun t => BootFailed s t 2) ∧
    (0 ∉ failed → Ends i s fun t => NextPhase s t ∧ FencedToo s t failed ∧ t.poison = [] ∧ t.flashBad = s.flashBad ∧ t.host.badList = h.badList ∧
      (∀ key, (key < cxlBase ∨ scratchBase ≤ key) → t.byte key = 0) ∧ ∀ key, cxlBase ≤ key → key < scratchBase → t.byte key = s.byte key) := by
  have ended : s.phaseEnd failed x = match s.host.loadBad with
      | none => s.bootFail 0x05
      | some h => if x then s.bootFail 0x05 else if failed.contains 0 then s.bootFail 0x02 else (swept s h failed).beginPhase 4 := by
    unfold State.phaseEnd
    rw [three]
    rfl
  refine ⟨fun refused => phaseComplete_fails up ?_, fun h loaded good => ⟨fun lead => phaseComplete_fails up ?_, fun lead => ⟨_, phaseComplete_ends up, ?_⟩⟩⟩
  · rw [ended]
    obtain refused | unread := refused
    · cases s.host.loadBad <;> simp [refused]
    · rw [unread]
  · rw [ended, loaded]
    simp [good, lead]
  · rw [ended, loaded]
    simp only [good, Bool.false_eq_true, if_false, List.contains_eq_mem, lead, decide_false]
    have cyc : ((swept s h failed).die 0).cyc = (s.die 0).cyc := (congrArg Die.cyc (die_of_dies (swept_dies s h failed) 0)).trans (bootFence_cyc s 0)
    obtain ⟨phase, fail⟩ := loadBad_keeps loaded
    obtain ⟨failKept, badList⟩ := swept_host s h failed
    refine ⟨nextPhase_beginPhase (by rw [three]) cyc (failKept.trans fail), fencedToo_dies package rfl, rfl, rfl, badList, fun key out => ?_, fun key lo hi => ?_⟩
    · refine (swept_byte s h failed key).trans (if_neg ?_)
      simp only [Bool.and_eq_true, decide_eq_true_eq]
      omega
    · exact (swept_byte s h failed key).trans (if_pos (by simp [lo, hi]))

/-! ### Phase 4 -/

/-- The dies as phase 4 leaves them: a die is well where it is not fenced. -/
def examined (s : State) (failed : List Nat) : State :=
  { s.bootFence failed with dies := (s.bootFence failed).dies.map fun (d : Die) => { d with ok := !d.fenced } }

theorem examined_die {d : Nat} (there : d < s.dies.length) :
    (examined s failed).die d = { (s.bootFence failed).die d with ok := !((s.bootFence failed).die d).fenced } :=
  die_map (s := s.bootFence failed) (f := fun (d : Die) => { d with ok := !d.fenced }) (by simpa [State.bootFence] using there) rfl

theorem examined_fenced {d : Nat} (there : d < s.dies.length) : ((examined s failed).die d).fenced = true ↔ (s.die d).fenced = true ∨ d ∈ failed := by
  rw [examined_die there]
  exact bootFence_fenced there

theorem examined_cyc (s : State) (failed : List Nat) (d : Nat) : ((examined s failed).die d).cyc = (s.die d).cyc := by
  refine (die_of_dies_map ?_ d).trans (bootFence_cyc (failed := failed) s d)
  exact List.map_map ..

/-- No compute die is left. -/
@[reducible] def NoCompute (t : State) : Prop := ((List.range 12).all fun i => decide (i < 4) || (t.die i).fenced) = true

include package in
theorem noCompute_iff : NoCompute (examined s failed) ↔ ∀ d < 12, 4 ≤ d → (s.die d).fenced = true ∨ d ∈ failed := by
  unfold NoCompute
  rw [List.all_eq_true]
  constructor
  · intro all d there compute
    have gone := all d (List.mem_range.2 there)
    rw [Bool.or_eq_true, decide_eq_true_eq, examined_fenced (package ▸ there)] at gone
    exact gone.resolve_left (by omega)
  · intro all d there
    have there := List.mem_range.1 there
    rw [Bool.or_eq_true, decide_eq_true_eq, examined_fenced (package ▸ there)]
    by_cases attn : d < 4
    · exact .inl attn
    · exact .inr (all d there (by omega))

include up package in
theorem phase_four (four : s.host.phase = 4) : let i := Instr.phaseComplete failed x
    (0 ∈ failed → Ends i s fun t => BootFailed s t 2) ∧
    (0 ∉ failed → (∀ d < 12, 4 ≤ d → (s.die d).fenced = true ∨ d ∈ failed) → Ends i s fun t => t.host.fail = true ∧ t.host.fcode = 4) ∧
    (0 ∉ failed → (∃ d < 12, 4 ≤ d ∧ (s.die d).fenced = false ∧ d ∉ failed) → Ends i s fun t => NextPhase s t ∧ FencedToo s t failed ∧
      ∀ d < 12, ((t.die d).ok = true ↔ (t.die d).fenced = false)) := by
  have ended : s.phaseEnd failed x = if failed.contains 0 then s.bootFail 0x02
      else if (List.range 12).all fun i => decide (i < 4) || ((examined s failed).die i).fenced
        then (examined s failed).bootFail 0x04 else (examined s failed).beginPhase 5 := by
    unfold State.phaseEnd
    rw [four]
    rfl
  refine ⟨fun lead => phaseComplete_fails up (ended.trans (if_pos (by simpa using lead))), fun lead all => ?_, fun lead some => ?_⟩
  · refine ⟨_, phaseComplete_ends up, ?_⟩
    rw [ended, if_neg (by simpa using lead), if_pos ((noCompute_iff package).2 all)]
    obtain ⟨fail, code, _⟩ := bootFail_failed (examined s failed) 4
    exact ⟨fail, code⟩
  · refine ⟨_, phaseComplete_ends up, ?_⟩
    have left : ¬ NoCompute (examined s failed) := fun none => by
      obtain ⟨d, there, compute, live, kept⟩ := some
      obtain gone | gone := (noCompute_iff package).1 none d there compute
      · exact absurd gone (by simp [live])
      · exact kept gone
    rw [ended, if_neg (by simpa using lead), if_neg left]
    refine ⟨nextPhase_beginPhase (by rw [four]) (examined_cyc s failed 0) rfl, fun d there => examined_fenced (package ▸ there), fun d there => ?_⟩
    show ((examined s failed).die d).ok = true ↔ ((examined s failed).die d).fenced = false
    rw [examined_die (package ▸ there)]
    simp

/-! ### Phase 5: READY (R326) -/

theorem becomeReady_dies (s : State) : ∃ f : Nat → Die → Die, (∀ i d, (f i d).fenced = d.fenced) ∧ s.becomeReady.dies = s.dies.mapIdx f :=
  ⟨fun i d => if d.fenced then d else { d with watchdog := d.cyc, almBase := (Config.free (s.freeN + i) 40).toNat % ((hbmBytes - replicaBytes) / 4096 + 1) * 4096 },
   fun i d => by dsimp only; split <;> rfl, rfl⟩

/-- The registers READY leaves, without what SPDM has measured. -/
theorem becomeReady_host (s : State) : ∃ p, s.becomeReady.host =
    HostSt.signal { s.host with rdy := true, degr := s.dies.any fun d => d.fenced, restart := false, spdm := p } 0 := ⟨_, rfl⟩

theorem signal_host (h : HostSt) (v : Nat) : (h.signal v).rdy = h.rdy ∧ (h.signal v).phase = h.phase ∧ (h.signal v).degr = h.degr := by
  unfold HostSt.signal
  split <;> exact ⟨rfl, rfl, rfl⟩

theorem any_fenced (package : s.dies.length = 12) : (s.dies.any fun d => d.fenced) = true ↔ ∃ d < 12, (s.die d).fenced = true := by
  rw [List.any_eq_true]
  constructor
  · rintro ⟨d, there, fenced⟩
    obtain ⟨i, inside, rfl⟩ := List.getElem_of_mem there
    exact ⟨i, package ▸ inside, by simpa [State.die, List.getD_eq_getElem?_getD, inside] using fenced⟩
  · rintro ⟨i, inside, fenced⟩
    have inside : i < s.dies.length := package ▸ inside
    exact ⟨_, List.getElem_mem inside, by simpa [State.die, List.getD_eq_getElem?_getD, inside] using fenced⟩

theorem told_signal {s t : State} {h : HostSt} {v : Nat} (host : t.host = h.signal v) (ide : h.ide = s.host.ide) (sent : h.msix = s.host.msix)
    (kept : h.msixHeld = s.host.msixHeld) : told s t v := by
  unfold told HostSt.signal at *
  rw [host, ide]
  split <;> simp [sent, kept]

include up package in
theorem phase_five (five : s.host.phase = 5) : Ends (.phaseComplete failed x) s fun t => t.host.rdy = true ∧ t.host.phase = 5 ∧ told s t 0 ∧
    (t.host.degr = true ↔ ∃ d < 12, (s.die d).fenced = true) ∧ ∀ d < 12, (t.die d).fenced = (s.die d).fenced := by
  have ended : s.phaseEnd failed x = s.becomeReady := by
    unfold State.phaseEnd
    rw [five]
    rfl
  obtain ⟨f, fenced, dies⟩ := becomeReady_dies s
  obtain ⟨p, host⟩ := becomeReady_host s
  obtain ⟨rdy, phase, degr⟩ := signal_host { s.host with rdy := true, degr := s.dies.any fun d => d.fenced, restart := false, spdm := p } 0
  rw [← host] at rdy phase degr
  refine ⟨_, (phaseComplete_ends up).trans (congrArg Host.Outcome.next ended), rdy, phase.trans five, told_signal host rfl rfl rfl, ?_, fun d _ => ?_⟩
  · rw [degr]
    exact any_fenced package
  · exact die_keeps (g := Die.fenced) fenced dies d

end

/-! ### Resets (R328) -/

theorem resets_end (package : s.dies.length = 12) (bs : List Byte) (n : Nat) :
    ∀ j ∈ [Instr.deviceReset, .firmwareUpdate bs n], (j = .deviceReset ∨ s.host.fail = true) → Ends j s fun t => t.host.phase = 1 ∧ t.host.rdy = false ∧
      t.host.fail = false ∧ t.host.ide = false ∧ t.host.badList = s.host.badList ∧ t.flashBad = s.flashBad ∧ t.core.running = false ∧ t.parked = [] ∧
      t.launches = [] ∧ t.saved = [] ∧ (∀ key, isFlashKey key = true → t.byte key = s.byte key) ∧ (∀ d < 12, (t.die d).cyc = (s.die d).cyc) ∧
      t.host.fwImage = if j = .deviceReset then s.host.fwImage else some bs := by
  intro j member allowed
  simp only [List.mem_cons, List.not_mem_nil, or_false] at member
  obtain rfl | rfl := member
  · rw [if_pos rfl]
    exact ⟨_, rfl, rebootWith_keeps package s.host.fwImage⟩
  · rw [if_neg nofun]
    exact ⟨_, congrArg Host.Outcome.next (if_pos (allowed.resolve_left nofun)), rebootWith_keeps package (some bs)⟩

theorem firmwareUpdate_refused (well : s.host.fail = false) (bs : List Byte) (n : Nat) : exec (.firmwareUpdate bs n) s = .next s :=
  congrArg Host.Outcome.next (if_neg (by simp [well]))

/-! ### SPDM (R385, R386) -/

/-- A request's step is the responder's answer. -/
def Asks (j : Instr) (f : State → State) : Prop := ∀ s, exec j s = .next (s.spdm f)

theorem asks_failed {j : Instr} {f : State → State} (asks : Asks j f) (fail : s.host.fail = true) : exec j s = .next s := by
  rw [asks, State.spdm, if_pos fail]

theorem asks_restart {j : Instr} {f : State → State} (asks : Asks j f) (fail : s.host.fail = false) (restart : s.host.restart = true) :
    Ends j s fun t => t.host.spdm = { s.host.spdm with reply := .error, session := false, handshake := false } := by
  refine ⟨_, asks s, ?_⟩
  rw [State.spdm, if_neg (by simp [fail]), if_pos restart]
  rfl

/-- Every request is answered by the responder. -/
theorem asks_all (x : Bool) (a n : Nat) : ∀ j ∈ [Instr.getVersion, .getCapabilities, .negotiateAlgorithms x true, .getDigests, .getCertificate a,
    .challenge n, .getMeasurements, .keyExchange n, .finish x, .keyUpdate, .endSession], ∃ f, Asks j f := by
  simp only [List.mem_cons, List.not_mem_nil, or_false]
  rintro j (rfl | rfl | rfl | rfl | rfl | rfl | rfl | rfl | rfl | rfl | rfl) <;> exact ⟨_, fun _ => rfl⟩

theorem updSpdm_ends {j : Instr} {f : State → State} {g : Spdm → Spdm} {y : Spdm} (asks : Asks j f) (fail : s.host.fail = false)
    (restart : s.host.restart = false) (answer : f s = s.updSpdm g) (reply : g s.host.spdm = y) :
    Ends j s fun t => t.host.spdm = y ∧ t.mem = s.mem ∧ t.core = s.core := by
  refine ⟨_, asks s, ?_⟩
  rw [State.spdm, if_neg (by simp [fail]), if_neg (by simp [restart]), answer]
  exact ⟨reply, rfl, rfl⟩

/-- Two ways to write one answer. -/
theorem answer_ite {c : Bool} {s : State} {f g : Spdm → Spdm} :
    (if c then s.updSpdm f else s.updSpdm g) = s.updSpdm fun p => if c then f p else g p := by cases c <;> rfl

theorem spdm_answers (fail : s.host.fail = false) (restart : s.host.restart = false) (x : Bool) (a n : Nat) : let p := s.host.spdm
    ∀ (j : Instr) (y : Spdm), (j, y) ∈
    [(Instr.getVersion, { p with reply := .version 1 3 }), (.getCapabilities, { p with reply := .capabilities }),
     (.negotiateAlgorithms true true, { p with algs := true, reply := .algorithms true true }),
     (.negotiateAlgorithms x false, { p with algs := false, session := false, handshake := false, reply := .error }),
     (.getDigests, { p with reply := .digests (Config.shake256 Config.certChain) }),
     (.getCertificate a, { p with reply := if a = 0 then .certificate Config.certChain else .error }),
     (.challenge n, { p with reply := .challengeAuth n (Config.sign (Config.shake256 (leBytes 32 n))) }),
     (.getMeasurements, { p with reply := .measurements p.meas }),
     (.keyExchange n, if p.algs then { p with handshake := true, session := false, reply := .keyExchange } else { p with reply := .error }),
     (.finish x, if p.algs && p.handshake && x then { p with handshake := false, session := true, keyGen := p.keyGen + 1, reply := .finish }
       else { p with handshake := false, reply := .error }),
     (.keyUpdate, if p.session then { p with keyGen := p.keyGen + 1, reply := .keyUpdate } else { p with reply := .error }),
     (.endSession, if p.session then { p with session := false, reply := .endSession } else { p with reply := .error })] →
    Ends j s fun t => t.host.spdm = y ∧ t.mem = s.mem ∧ t.core = s.core := by
  intro p j y member
  simp only [List.mem_cons, List.not_mem_nil, or_false, Prod.mk.injEq] at member
  obtain ⟨rfl, rfl⟩ | ⟨rfl, rfl⟩ | ⟨rfl, rfl⟩ | ⟨rfl, rfl⟩ | ⟨rfl, rfl⟩ | ⟨rfl, rfl⟩ | ⟨rfl, rfl⟩ | ⟨rfl, rfl⟩ | ⟨rfl, rfl⟩ | ⟨rfl, rfl⟩ |
    ⟨rfl, rfl⟩ | ⟨rfl, rfl⟩ := member
  · exact updSpdm_ends (fun _ => rfl) fail restart rfl rfl
  · exact updSpdm_ends (fun _ => rfl) fail restart rfl rfl
  · exact updSpdm_ends (fun _ => rfl) fail restart (if_pos rfl) rfl
  · exact updSpdm_ends (fun _ => rfl) fail restart (if_neg (by simp)) rfl
  · exact updSpdm_ends (fun _ => rfl) fail restart rfl rfl
  · exact updSpdm_ends (fun _ => rfl) fail restart rfl rfl
  · exact updSpdm_ends (fun _ => rfl) fail restart rfl rfl
  · exact updSpdm_ends (fun _ => rfl) fail restart rfl rfl
  · exact updSpdm_ends (fun _ => rfl) fail restart answer_ite rfl
  · exact updSpdm_ends (fun _ => rfl) fail restart answer_ite rfl
  · exact updSpdm_ends (fun _ => rfl) fail restart answer_ite rfl
  · exact updSpdm_ends (fun _ => rfl) fail restart answer_ite rfl

end Sys2Proof.Proofs
end

section
/-!
PROOFS. DEVSTAT, the requests held or dropped, reads of the registers, TLBINV, the fault-address queue, IDE (R326 to R332, R340, R355, R356).
-/

namespace Sys2Proof.Proofs
open Sys2Proof Sys2Proof.Machine

variable {s : State}

/-! ### DEVSTAT (R326) -/

/-- A number written by its bits. -/
theorem testBit_sum (p : Nat → Bool) (n : Nat) : ((List.range n).map fun i => if p i then 2 ^ i else 0).sum < 2 ^ n ∧
    ∀ d < n, ((List.range n).map fun i => if p i then 2 ^ i else 0).sum.testBit d = p d := by
  induction n with
  | zero => exact ⟨by simp, nofun⟩
  | succ n ih =>
    obtain ⟨small, bits⟩ := ih
    rw [List.range_succ, List.map_append, List.sum_append]
    generalize ((List.range n).map fun i => if p i then 2 ^ i else 0).sum = low at small bits ⊢
    have top : ([n].map fun i => if p i then 2 ^ i else 0).sum = if p n then 2 ^ n else 0 := by simp
    rw [top]
    cases set : p n
    · refine ⟨by simp only [Bool.false_eq_true, if_false, Nat.pow_succ]; omega, fun d there => ?_⟩
      obtain lower | rfl := Nat.lt_succ_iff_lt_or_eq.1 there
      · simpa using bits d lower
      · simpa [set] using Nat.testBit_lt_two_pow small
    · refine ⟨by simp only [if_true, Nat.pow_succ]; omega, fun d there => ?_⟩
      rw [if_pos rfl, Nat.add_comm]
      obtain lower | rfl := Nat.lt_succ_iff_lt_or_eq.1 there
      · rw [Nat.testBit_two_pow_add_gt lower, bits d lower]
      · rw [Nat.testBit_two_pow_add_eq, Nat.testBit_lt_two_pow small, set, Bool.not_false]

theorem dieOk_bit (s : State) {d : Nat} (there : d < 12) : s.dieOk.testBit d = (s.die d).ok :=
  (testBit_sum (fun i => (s.die i).ok) 12).2 d there

/-- One bit of a word whose number is known. -/
theorem bit_of_number {v : Word} {k : Nat} {b : Bool} (e : v.toNat / 2 ^ k % 2 = b.toNat) : v.getLsbD k = b := by
  unfold BitVec.getLsbD
  rw [Nat.testBit_eq_decide_div_mod_eq, e]
  cases b <;> rfl

theorem devstat_fields (dies : s.dieOk < 2 ^ 12) (code : s.host.fcode < 256) (phase : s.host.phase < 16) : let r := s.devstat.toNat
    r / 2 ^ 52 = s.dieOk ∧ r / 2 ^ 40 % 2 ^ 12 = s.host.fcode ∧ r / 2 ^ 24 % 2 ^ 16 = min ((s.die 0).cyc / 850000) 65535 ∧ r / 2 ^ 8 % 2 ^ 16 = 0 ∧
    r / 16 % 16 = s.host.phase ∧ s.devstat.getLsbD 3 = s.host.ideerr ∧ s.devstat.getLsbD 2 = s.host.degr ∧ s.devstat.getLsbD 1 = s.host.fail ∧
    s.devstat.getLsbD 0 = s.host.rdy ∧ ∀ d < 12, s.dieOk.testBit d = (s.die d).ok := by
  intro r
  have number : s.devstat.toNat = (s.dieOk * 2 ^ 52 + s.host.fcode * 2 ^ 40 + min ((s.die 0).cyc / 850000) 65535 * 2 ^ 24 + s.host.phase * 2 ^ 4 +
      s.host.ideerr.toNat * 8 + s.host.degr.toNat * 4 + s.host.fail.toNat * 2 + s.host.rdy.toNat) % 2 ^ 64 := BitVec.toNat_ofNat ..
  have ms : min ((s.die 0).cyc / 850000) 65535 ≤ 65535 := Nat.min_le_right ..
  have ideerr := Bool.toNat_le s.host.ideerr
  have degr := Bool.toNat_le s.host.degr
  have fail := Bool.toNat_le s.host.fail
  have rdy := Bool.toNat_le s.host.rdy
  have bits : (r / 2 ^ 52 = s.dieOk ∧ r / 2 ^ 40 % 2 ^ 12 = s.host.fcode ∧ r / 2 ^ 24 % 2 ^ 16 = min ((s.die 0).cyc / 850000) 65535) ∧
      r / 2 ^ 8 % 2 ^ 16 = 0 ∧ r / 16 % 16 = s.host.phase ∧ r / 2 ^ 3 % 2 = s.host.ideerr.toNat ∧ r / 2 ^ 2 % 2 = s.host.degr.toNat ∧
      r / 2 ^ 1 % 2 = s.host.fail.toNat ∧ r / 2 ^ 0 % 2 = s.host.rdy.toNat := by
    show (s.devstat.toNat / _ = _ ∧ _) ∧ _
    generalize min ((s.die 0).cyc / 850000) 65535 = m at number ms
    generalize s.host.ideerr.toNat = i at number ideerr
    generalize s.host.degr.toNat = g at number degr
    generalize s.host.fail.toNat = f at number fail
    generalize s.host.rdy.toNat = y at number rdy
    generalize s.host.fcode = c at number code
    generalize s.host.phase = p at number phase
    generalize s.dieOk = k at number dies
    have number := number.trans (Nat.mod_eq_of_lt (by omega))
    omega
  obtain ⟨⟨b1, b2, b3⟩, b4, b5, b6, b7, b8, b9⟩ := bits
  exact ⟨b1, b2, b3, b4, b5, bit_of_number b6, bit_of_number b7, bit_of_number b8, bit_of_number b9, fun d there => dieOk_bit s there⟩

/-! ### Requests that are held or dropped (R328, R331) -/

section
variable (a n : Nat) (bs : List Byte) (v : Word)

theorem held_before_ide (closed : s.host.ide = false) :
    (Ends (.cxlMemRead a n) s fun t => t.mem = s.mem ∧ t.host.held = s.host.held ++ [.read a n]) ∧
    (Ends (.cxlMemWrite a bs) s fun t => t.mem = s.mem ∧ t.host.held = s.host.held ++ [.write a bs]) ∧
    (∀ j q, (j, q) ∈ [(Instr.registerWrite a v, HostReq.reg a v), (.ideerrClear v, .ideerr v), (.tlbinvWrite v, .tlbinv v), (.faqPop, .faq)] →
      Ends j s fun t => t.core = s.core ∧ t.mem = s.mem ∧ t.host.held = s.host.held ++ [q]) := by
  have shut : (!s.host.ide) = true := by simp [closed]
  have gated : ∀ q act, s.hostGate q act = s.holdReq q := fun q act => if_pos shut
  refine ⟨⟨_, congrArg Host.Outcome.next (if_pos shut), rfl, rfl⟩, ⟨_, congrArg Host.Outcome.next (if_pos shut), rfl, rfl⟩, fun j q member => ?_⟩
  simp only [List.mem_cons, List.not_mem_nil, or_false, Prod.mk.injEq] at member
  obtain ⟨rfl, rfl⟩ | ⟨rfl, rfl⟩ | ⟨rfl, rfl⟩ | ⟨rfl, rfl⟩ := member
  · exact ⟨_, congrArg Host.Outcome.next (gated ..), rfl, rfl, rfl⟩
  · exact ⟨_, congrArg Host.Outcome.next (if_pos shut), rfl, rfl, rfl⟩
  · exact ⟨_, congrArg Host.Outcome.next (gated ..), rfl, rfl, rfl⟩
  · exact ⟨_, congrArg Host.Outcome.next (gated ..), rfl, rfl, rfl⟩

theorem dropped_before_ready (ide : s.host.ide = true) (rdy : s.host.rdy = false) :
    (s.host.fail = false → Ends (.cxlMemRead a n) s fun t => t.host.readPoison = true ∧ t.mem = s.mem) ∧
    (∀ j ∈ [Instr.cxlMemWrite a bs, .registerWrite a v, .tlbinvWrite v, .faqPop], exec j s = .next s) := by
  have opened : ¬(!s.host.ide) = true := by simp [ide]
  have early : (!s.host.rdy) = true := by simp [rdy]
  have gated : ∀ q act, s.hostGate q act = s := fun q act => (if_neg opened).trans (if_pos early)
  refine ⟨fun well => ⟨s.updHost fun h => { h with readData := [], readPoison := true },
    congrArg Host.Outcome.next ((if_neg opened).trans ((if_neg (by simp [well])).trans (if_pos early))), rfl, rfl⟩, fun j member => ?_⟩
  simp only [List.mem_cons, List.not_mem_nil, or_false] at member
  obtain rfl | rfl | rfl | rfl := member
  · exact congrArg Host.Outcome.next ((if_neg opened).trans (if_pos (by simp [rdy])))
  · exact congrArg Host.Outcome.next (gated ..)
  · exact congrArg Host.Outcome.next (gated ..)
  · exact congrArg Host.Outcome.next (gated ..)

end

theorem readReg_cases (s : State) : s.readReg 0 = some s.devstat ∧ ∀ o, o ≠ 0 → (s.host.ide = false ∨ s.host.fail = true → s.readReg o = none) ∧
    (s.host.ide = true → s.host.fail = false → s.readReg o = some (s.regValue o)) := by
  refine ⟨rfl, fun o other => ⟨fun shut => if_neg ?_, fun ide well => if_pos (.inr ⟨ide, well⟩)⟩⟩
  rintro (zero | ⟨ide, well⟩)
  · exact other zero
  · obtain closed | failed := shut
    · exact absurd ide (by simp [closed])
    · exact absurd well (by simp [failed])

/-! ### Register writes (R326, R332, R340) -/

/-- One change of the dies named, each of which takes it alike however often. -/
theorem updDies_die {f : Die → Die} (twice : ∀ d, f (f d) = f d) (l : List Nat) {d : Nat} (there : d < s.dies.length) :
    let t := l.foldl (fun s d => s.updDie d f) s
    t.mem = s.mem ∧ t.core = s.core ∧ t.die d = if d ∈ l then f (s.die d) else s.die d := by
  induction l generalizing s with
  | nil => simp
  | cons e l ih =>
    obtain ⟨mem, core, die⟩ := ih (s := s.updDie e f) (by simpa [State.updDie] using there)
    refine ⟨mem, core, die.trans ?_⟩
    by_cases here : d = e
    · subst here
      simp [die_updDie there, twice]
    · rw [die_updDie_other here]
      simp [here]

theorem registerWrite_ends (package : s.dies.length = 12) (ide : s.host.ide = true) (rdy : s.host.rdy = true) {a : Nat} (v : Word)
    (some : s.diesAt a 0x100 ≠ []) : Ends (.registerWrite a v) s fun t => t.mem = s.mem ∧ t.core = s.core ∧ ∀ d < 12, (t.die d) =
      if d ∈ s.diesAt a 0x100 then { s.die d with hold := v.getLsbD 32, slice := max 10000 (v.toNat % 2 ^ 32) } else s.die d := by
  have written : s.regWrite a v = (s.diesAt a 0x100).foldl
      (fun s d => s.updDie d fun x => { x with hold := v.getLsbD 32, slice := max 10000 (v.toNat % 2 ^ 32) }) s := by
    unfold State.regWrite
    split
    · next none => exact absurd none some
    · rfl
  have all := fun (d : Nat) (there : d < 12) => updDies_die (s := s)
    (f := fun x => { x with hold := v.getLsbD 32, slice := max 10000 (v.toNat % 2 ^ 32) }) (fun _ => rfl) (s.diesAt a 0x100) (package ▸ there)
  obtain ⟨mem, core, -⟩ := all 0 (by decide)
  exact ⟨_, congrArg Host.Outcome.next ((hostGate_flows ide rdy ..).trans written), mem, core, fun d there => (all d there).2.2⟩

theorem ideerrClear_ends (ide : s.host.ide = true) (v : Word) :
    Ends (.ideerrClear v) s fun t => t.host.ideerr = (s.host.ideerr && !v.getLsbD 3) ∧ t.mem = s.mem := by
  refine ⟨s.clearIdeerr v, congrArg Host.Outcome.next (if_neg (by simp [ide])), ?_⟩
  unfold State.clearIdeerr
  cases v.getLsbD 3
  · exact ⟨(Bool.and_true _).symm, rfl⟩
  · exact ⟨(Bool.and_false _).symm, rfl⟩

/-! ### TLB invalidation (R355) -/

theorem tlbinvWrite_ends (ide : s.host.ide = true) (rdy : s.host.rdy = true) (v : Word) : Ends (.tlbinvWrite v) s fun t => t.mem = s.mem ∧
    t.host.tlbinv = if s.host.tlbinv.isSome ∨ v.getLsbD 1 = true then s.host.tlbinv else some v.toNat := by
  refine ⟨s.tlbinvWrite v, congrArg Host.Outcome.next (hostGate_flows ide rdy ..), ?_⟩
  unfold State.tlbinvWrite
  by_cases ignored : s.host.tlbinv.isSome = true ∨ v.getLsbD 1 = true
  · rw [if_pos ignored, if_pos (by rw [Bool.or_eq_true]; exact ignored)]
    exact ⟨rfl, rfl⟩
  · rw [if_neg ignored, if_neg (by rw [Bool.or_eq_true]; exact ignored)]
    exact ⟨rfl, rfl⟩

/-- A table whose lists are filtered reads filtered. -/
theorem sparse_get_dropTlb (hit : TlbEnt → Bool) (m : Sparse (List TlbEnt)) (k : Nat) :
    Sparse.get (m.map fun x => (x.1, dropTlb hit x.2)) k = dropTlb hit (Sparse.get m k) := by
  induction m with
  | nil => rfl
  | cons p m ih =>
    rw [List.map_cons]
    unfold Sparse.get
    rw [ih]
    split <;> rfl

theorem mem_dropTlb {hit : TlbEnt → Bool} {l : List TlbEnt} {e : TlbEnt} : e ∈ dropTlb hit l ↔ e ∈ l ∧ hit e = false := by
  simp [dropTlb]

theorem dropAll_gone {hit : TlbEnt → Bool} (s : State) : let t := s.dropAll hit
    (∀ k ∈ t.core :: t.parked, ∀ e ∈ k.tlb, hit e = false) ∧ (∀ d m, ∀ e ∈ Sparse.get (t.die d).tlbs m, hit e = false) ∧
    ∀ e ∈ s.core.tlb, hit e = false → e ∈ t.core.tlb := by
  intro t
  refine ⟨fun k member e here => ?_, fun d m e here => ?_, fun e here miss => mem_dropTlb.2 ⟨here, miss⟩⟩
  · obtain rfl | member := List.mem_cons.1 member
    · exact (mem_dropTlb.1 here).2
    · obtain ⟨c, -, rfl⟩ := List.mem_map.1 member
      exact (mem_dropTlb.1 here).2
  · have tables : (t.die d).tlbs = (s.die d).tlbs.map fun x => (x.1, dropTlb hit x.2) := by
      by_cases there : d < s.dies.length
      · rw [die_map (s := s) (t := t) (f := fun (d : Die) => { d with tlbs := d.tlbs.map fun x => (x.1, dropTlb hit x.2) }) there rfl]
      · have beyond : ∀ l : List Die, l.length ≤ d → l.getD d Die.reset = Die.reset := fun l out => by simp [List.getD_eq_getElem?_getD, out]
        have outside := Nat.le_of_not_lt there
        have none : s.die d = Die.reset := beyond _ outside
        have stillNone : t.die d = Die.reset := beyond _ (by simpa [t, State.dropAll] using outside)
        rw [none, stillNone]
        rfl
    rw [tables, sparse_get_dropTlb] at here
    exact (mem_dropTlb.1 here).2

theorem tlbinvComplete_ends {q : Nat} (busy : s.host.tlbinv = some q) : Ends .tlbinvComplete s fun t => t.host.tlbinv = none ∧ t.mem = s.mem ∧
    let gone := fun (e : TlbEnt) => q % 2 = 1 ∨ e.hits e.ptb (bitsOf q 51 16 * 65536) = true
    (∀ k ∈ t.core :: t.parked, ∀ e ∈ k.tlb, ¬ gone e) ∧ (∀ d m, ∀ e ∈ Sparse.get (t.die d).tlbs m, ¬ gone e) ∧
    ∀ e ∈ s.core.tlb, ¬ gone e → e ∈ t.core.tlb := by
  have done : s.tlbinvDone = (s.dropAll fun t => q % 2 == 1 || t.hits t.ptb (bitsOf q 51 16 * 65536)).updHost fun h => { h with tlbinv := none } := by
    unfold State.tlbinvDone
    rw [busy]
  refine ⟨_, congrArg Host.Outcome.next done, rfl, rfl, ?_⟩
  intro gone
  have miss : ∀ e : TlbEnt, (q % 2 == 1 || e.hits e.ptb (bitsOf q 51 16 * 65536)) = false ↔ ¬ gone e := fun e => by
    simp only [gone, Bool.or_eq_false_iff, beq_eq_false_iff_ne, not_or, Bool.not_eq_true]
  obtain ⟨cores, tables, kept⟩ := dropAll_gone (hit := fun t => q % 2 == 1 || t.hits t.ptb (bitsOf q 51 16 * 65536)) s
  exact ⟨fun k member e here => (miss e).1 (cores k member e here), fun d m e here => (miss e).1 (tables d m e here),
    fun e here stays => kept e here ((miss e).2 stays)⟩

/-! ### The fault-address queue (R356) -/

theorem faqWord_fields {e : FaqEnt} (type : e.type < 4) (count : e.ecnt < 256) (line : e.line * 64 < 2 ^ 52) : let p := e.word
    p.getLsbD 63 = true ∧ p.toNat / 2 ^ 61 % 4 = e.type ∧ p.getLsbD 60 = e.ovf ∧ p.toNat / 2 ^ 52 % 256 = e.ecnt ∧ p.toNat % 2 ^ 52 = e.line * 64 := by
  intro p
  have number : e.word.toNat = (2 ^ 63 + e.type * 2 ^ 61 + e.ovf.toNat * 2 ^ 60 + e.ecnt * 2 ^ 52 + e.line * 64) % 2 ^ 64 := BitVec.toNat_ofNat ..
  have ovf := Bool.toNat_le e.ovf
  have bits : e.word.toNat / 2 ^ 63 % 2 = true.toNat ∧ e.word.toNat / 2 ^ 61 % 4 = e.type ∧ e.word.toNat / 2 ^ 60 % 2 = e.ovf.toNat ∧
      e.word.toNat / 2 ^ 52 % 256 = e.ecnt ∧ e.word.toNat % 2 ^ 52 = e.line * 64 := by
    rw [Bool.toNat_true]
    generalize e.ovf.toNat = o at number ovf
    generalize e.line * 64 = l at number line
    generalize e.type = y at number type
    generalize e.ecnt = c at number count
    omega
  obtain ⟨b1, b2, b3, b4, b5⟩ := bits
  exact ⟨bit_of_number b1, b2, bit_of_number b3, b4, b5⟩

theorem faqPop_ends (ide : s.host.ide = true) (rdy : s.host.rdy = true) :
    (s.host.faq = [] → Ends .faqPop s fun t => t.host.popped = 0 ∧ t.host.faq = []) ∧
    ∀ e r, s.host.faq = e :: r → e.type < 4 → e.ecnt < 256 → e.line * 64 < 2 ^ 52 → Ends .faqPop s fun t => t.host.faq = r ∧
      let p := t.host.popped
      p.getLsbD 63 = true ∧ p.toNat / 2 ^ 61 % 4 = e.type ∧ p.getLsbD 60 = e.ovf ∧ p.toNat / 2 ^ 52 % 256 = e.ecnt ∧ p.toNat % 2 ^ 52 = e.line * 64 := by
  have flows := hostGate_flows ide rdy .faq State.faqPop
  refine ⟨fun empty => ?_, fun e r some type count line => ?_⟩
  · have popped : s.faqPop = s.updHost fun h => { h with popped := 0 } := by
      unfold State.faqPop
      rw [empty]
    exact ⟨_, congrArg Host.Outcome.next (flows.trans popped), rfl, empty⟩
  · have popped : s.faqPop = s.updHost fun h => { h with faq := r, popped := e.word } := by
      unfold State.faqPop
      rw [some]
    exact ⟨_, congrArg Host.Outcome.next (flows.trans popped), rfl, faqWord_fields type count line⟩

/-- What a report does to the queue. -/
theorem report_cases (h : HostSt) (line ty : Nat) : let g := h.report line ty
    ((∀ e ∈ h.faq, e.line ≠ line) → h.faq.length < 1024 → g.faqOvf = false ∧ g.faq = h.faq ++ [{ type := ty, ovf := h.faqOvf, ecnt := 1, line := line }]) ∧
    ((∀ e ∈ h.faq, e.line ≠ line) → 1024 ≤ h.faq.length → g.faqOvf = true ∧ g.faq = h.faq) ∧
    ((∃ e ∈ h.faq, e.line = line) → g.faq = h.faq.map fun e => if e.line = line then { e with ecnt := min (e.ecnt + 1) 255, type := max e.type ty } else e) := by
  intro g
  have listed : (h.faq.any fun e => e.line == line) = true ↔ ∃ e ∈ h.faq, e.line = line := by simp
  have fresh : (∀ e ∈ h.faq, e.line ≠ line) → ¬(h.faq.any fun e => e.line == line) = true := fun none some =>
    let ⟨e, here, same⟩ := listed.1 some
    none e here same
  refine ⟨fun none room => ?_, fun none full => ?_, fun some => ?_⟩
  · have taken : g = _ := (if_neg (fresh none)).trans (if_neg (Nat.not_le.2 room))
    rw [taken]
    exact ⟨rfl, rfl⟩
  · have lost : g = _ := (if_neg (fresh none)).trans (if_pos full)
    rw [lost]
    exact ⟨rfl, rfl⟩
  · have merged : g = _ := if_pos (listed.2 some)
    rw [merged]

theorem report_keeps (h : HostSt) (line ty : Nat) :
    (h.report line ty).ide = h.ide ∧ (h.report line ty).msix = h.msix ∧ (h.report line ty).msixHeld = h.msixHeld := by
  unfold HostSt.report
  split
  · exact ⟨rfl, rfl, rfl⟩
  · split <;> exact ⟨rfl, rfl, rfl⟩

theorem msix_queue (t : State) (v : Nat) : (t.msix v).host.faqOvf = t.host.faqOvf ∧ (t.msix v).host.faq = t.host.faq := by
  show (HostSt.signal _ v).faqOvf = _ ∧ (HostSt.signal _ v).faq = _
  unfold HostSt.signal
  split <;> exact ⟨rfl, rfl⟩

/-- A line's error before the vector it may signal. -/
def reported (s : State) (a ty : Nat) : State :=
  let s1 := s.updHost fun h => h.report (a / 64) ty
  if ty = 2 then { s1 with poison := (a / 64 :: s1.poison).dedup } else s1

theorem reported_keeps (s : State) (a ty : Nat) : (reported s a ty).mem = s.mem ∧ (reported s a ty).host = s.host.report (a / 64) ty ∧
    ∀ l, l ∈ (reported s a ty).poison ↔ l ∈ s.poison ∨ (ty = 2 ∧ l = a / 64) := by
  unfold reported
  by_cases two : ty = 2
  · rw [if_pos two]
    refine ⟨rfl, rfl, fun l => ?_⟩
    show l ∈ (a / 64 :: s.poison).dedup ↔ _
    rw [List.mem_dedup, List.mem_cons]
    tauto
  · rw [if_neg two]
    exact ⟨rfl, rfl, fun l => ⟨.inl, fun h => h.resolve_right fun h => two h.1⟩⟩

theorem hbmErrorReport_ends {a ty : Nat} (inside : a < hbmBytes) (known : ty < 3) : Ends (.hbmErrorReport a ty) s fun t => t.mem = s.mem ∧
    (s.host.faq = [] → told s t 3) ∧ (s.host.faq ≠ [] → t.host.msix = s.host.msix ∧ t.host.msixHeld = s.host.msixHeld) ∧
    (∀ l, l ∈ t.poison ↔ l ∈ s.poison ∨ (ty = 2 ∧ l = a / 64)) ∧
    ((∀ e ∈ s.host.faq, e.line ≠ a / 64) → s.host.faq.length < 1024 → t.host.faqOvf = false ∧
      t.host.faq = s.host.faq ++ [{ type := ty, ovf := s.host.faqOvf, ecnt := 1, line := a / 64 }]) ∧
    ((∀ e ∈ s.host.faq, e.line ≠ a / 64) → 1024 ≤ s.host.faq.length → t.host.faqOvf = true ∧ t.host.faq = s.host.faq) ∧
    ((∃ e ∈ s.host.faq, e.line = a / 64) → t.host.faq = s.host.faq.map fun e =>
      if e.line = a / 64 then { e with ecnt := min (e.ecnt + 1) 255, type := max e.type ty } else e) := by
  have ends : exec (.hbmErrorReport a ty) s = .next (if s.host.faq.isEmpty then (reported s a ty).msix 3 else reported s a ty) :=
    congrArg Host.Outcome.next (if_pos (by simp [inside, known]))
  obtain ⟨mem, host, poison⟩ := reported_keeps s a ty
  obtain ⟨ide, sent, kept⟩ := report_keeps s.host (a / 64) ty
  obtain ⟨fresh, full, merged⟩ := report_cases s.host (a / 64) ty
  rw [← host] at ide sent kept fresh full merged
  generalize reported s a ty = t at ends mem host poison ide sent kept fresh full merged
  by_cases empty : s.host.faq = []
  · rw [if_pos (by simp [empty])] at ends
    obtain ⟨ovf, faq⟩ := msix_queue t 3
    exact ⟨_, ends, mem, fun _ => told_msix ide sent kept 3, fun some => absurd empty some, poison,
      by rw [ovf, faq]; exact fresh, by rw [ovf, faq]; exact full, by rw [faq]; exact merged⟩
  · rw [if_neg (by simpa using empty)] at ends
    exact ⟨t, ends, mem, fun none => absurd none empty, fun _ => ⟨sent, kept⟩, poison, fresh, full, merged⟩

/-! ### IDE (R331) -/

theorem ideEstablished_ends (session : s.host.spdm.session = true) (closed : s.host.ide = false) (none : s.host.held = []) :
    Ends .ideEstablished s fun t => t.host.ide = true ∧ t.host.ideGen = s.host.ideGen + 1 ∧ t.host.msix = s.host.msix ++ s.host.msixHeld ∧
      t.host.msixHeld = [] ∧ t.mem = s.mem := by
  let t := s.updHost fun h => { h with ide := true, ideGen := h.ideGen + 1, msix := h.msix ++ h.msixHeld, msixHeld := [] }
  have ends : exec .ideEstablished s = .next t.runHeld := congrArg Host.Outcome.next (if_pos (by simp [session, closed]))
  rw [runHeld_none (s := t) none] at ends
  exact ⟨t, ends, rfl, rfl, rfl, rfl, rfl⟩

theorem ide_ends (ide : s.host.ide = true) :
    (Ends .ideKeyRefresh s fun t => { t with host := { t.host with ideGen := s.host.ideGen } } = s ∧ t.host.ideGen = s.host.ideGen + 1) ∧
    Ends .ideIntegrityFail s fun t => t.host.ideerr = true ∧ t.host.ide = false ∧ t.host.held = [] ∧ t.host.msix = s.host.msix ++ [1] ∧ t.mem = s.mem ∧
      ((∃ q ∈ s.host.held, q.isRead = true) → t.host.readPoison = true) := by
  refine ⟨⟨_, congrArg Host.Outcome.next (if_pos ide), rfl, rfl⟩, s.ideFail, congrArg Host.Outcome.next (if_pos ide), rfl, rfl, rfl, rfl, rfl, fun some => ?_⟩
  show (s.host.held.any HostReq.isRead || s.host.readPoison) = true
  rw [List.any_eq_true.2 some, Bool.true_or]

end Sys2Proof.Proofs
end

section
/-!
PROOFS. CXL.mem, the mailboxes' commands, and the statement about bring-up and the host link (R232, R329, R356, R364).
-/

namespace Sys2Proof.Proofs
open Sys2Proof Sys2Proof.Machine

variable {s : State}

/-! ### CXL.mem reads (R329, R356) -/

section
variable (ide : s.host.ide = true) (rdy : s.host.rdy = true)
include ide rdy

theorem cxlMemRead_ends {a n : Nat} (well : s.host.fail = false) (inside : a + n ≤ hbmBytes)
    (free : ∀ k ∈ kibsOf a n, s.backedOff k = false ∧ s.engineOwned k = false) :
    Ends (.cxlMemRead a n) s fun t => t.mem = (s.touchRows (kibsOf a n)).mem ∧
      ((∃ l ∈ linesOf a n, s.poisonedAt (l * 64) 64 = true) → t.host.readPoison = true) ∧
      ((∀ l ∈ linesOf a n, s.poisonedAt (l * 64) 64 = false) → t.host.readPoison = false ∧ t.host.readData = s.bytesAt a n) := by
  let bad := (linesOf a n).any fun l => s.poisonedAt (l * 64) 64
  have flows : (kibsOf a n).any s.backedOff = false := by
    rw [List.any_eq_false]
    exact fun k here => by simp [(free k here).1]
  have unowned : (kibsOf a n).any s.engineOwned = false := by
    rw [List.any_eq_false]
    exact fun k here => by simp [(free k here).2]
  have read : s.hostRead a n = (s.touchRows (kibsOf a n)).updHost fun h =>
      { h with readData := if bad then [] else s.bytesAt a n, readPoison := bad } := by
    unfold State.hostRead
    rw [if_neg (by simp [well]), if_neg (by simp [rdy]), if_neg (Nat.not_lt.2 inside), flows, unowned]
    rfl
  refine ⟨_, congrArg Host.Outcome.next ((if_neg (by simp [ide])).trans read), rfl, fun some => List.any_eq_true.2 some, fun clean => ?_⟩
  have none : bad = false := by
    rw [List.any_eq_false]
    exact fun l here => by simp [clean l here]
  refine ⟨none, ?_⟩
  show (if bad then [] else s.bytesAt a n) = _
  rw [none]
  rfl

/-! ### CXL.mem writes -/

omit ide rdy
/-- What a write brings to one line. -/
def lineRun (a : Nat) (bs : List Byte) (l : Nat) : Nat × List Byte :=
  let k := max a (l * 64)
  (k, (bs.drop (k - a)).take (l * 64 + 64 - k))

theorem lineRuns_map (a : Nat) (bs : List Byte) : lineRuns a bs = (linesOf a bs.length).map (lineRun a bs) := rfl

theorem mem_linesOf {a n l : Nat} : l ∈ linesOf a n ↔ n ≠ 0 ∧ a / 64 ≤ l ∧ l ≤ (a + n - 1) / 64 := by
  unfold linesOf
  split
  · next none => simp [none]
  · next some =>
    simp only [List.mem_map, List.mem_range]
    constructor
    · rintro ⟨i, small, rfl⟩
      omega
    · rintro ⟨-, lo, hi⟩
      exact ⟨l - a / 64, by omega, by omega⟩

theorem lineRun_length (a : Nat) (bs : List Byte) (l : Nat) :
    (lineRun a bs l).2.length = min (l * 64 + 64 - max a (l * 64)) (bs.length - (max a (l * 64) - a)) := by
  simp [lineRun]

/-- A line written alone: its bytes in the range, and its poison where it is written whole. -/
theorem lineRun_written {a l : Nat} {bs : List Byte} (meets : a < l * 64 + 64 ∧ l * 64 < a + bs.length) (m : List Host.Cell) (p : List Nat) :
    (∀ key, Sparse.get (memWrite m (lineRun a bs l).1 (lineRun a bs l).2) key =
      if (a ≤ key ∧ key < a + bs.length) ∧ key / 64 = l then bs.getD (key - a) 0 else Sparse.get m key) ∧
    ∀ j, j ∈ clearPoison p (lineRun a bs l).1 (lineRun a bs l).2.length ↔ j ∈ p ∧ ¬(j = l ∧ a ≤ j * 64 ∧ (j + 1) * 64 ≤ a + bs.length) := by
  have length := lineRun_length a bs l
  have start : (lineRun a bs l).1 = max a (l * 64) := rfl
  refine ⟨fun key => ?_, fun j => ?_⟩
  · rw [get_memWrite, length, start]
    by_cases here : (a ≤ key ∧ key < a + bs.length) ∧ key / 64 = l
    · rw [if_pos here, if_pos (by omega)]
      have at_ : max a (l * 64) - a + (key - max a (l * 64)) = key - a := by omega
      simp [lineRun, List.getD_eq_getElem?_getD, at_, show key - max a (l * 64) < l * 64 + 64 - max a (l * 64) by omega]
    · rw [if_neg here, if_neg (by omega)]
  · unfold clearPoison
    rw [List.mem_filter, length, start]
    simp only [Bool.not_eq_true', Bool.and_eq_false_iff, decide_eq_false_iff_not]
    refine and_congr_right fun _ => ?_
    obtain before | within := Nat.le_total a (l * 64)
    · rw [Nat.max_eq_right before]
      omega
    · rw [Nat.max_eq_left within]
      omega

/-- The bytes that a list of a range's lines brings, and the poison that stays. -/
theorem writeLines_written {a : Nat} {bs : List Byte} (L : List Nat) (meets : ∀ l ∈ L, bs.length ≠ 0 ∧ a < l * 64 + 64 ∧ l * 64 < a + bs.length) {y : State}
    (live : y.alive a bs.length) : let t := y.writeLines (L.map (lineRun a bs))
    (∀ key, t.byte key = if (a ≤ key ∧ key < a + bs.length) ∧ key / 64 ∈ L then bs.getD (key - a) 0 else y.byte key) ∧
    ∀ j, j ∈ t.poison ↔ j ∈ y.poison ∧ ¬(j ∈ L ∧ a ≤ j * 64 ∧ (j + 1) * 64 ≤ a + bs.length) := by
  induction L generalizing y with
  | nil => simp [State.writeLines]
  | cons l L ih =>
    have here := meets l (List.mem_cons_self ..)
    have key : (lineRun a bs l).1 = a + (max a (l * 64) - a) := by
      show max a (l * 64) = _
      exact (Nat.add_sub_cancel' (Nat.le_max_left ..)).symm
    have alive : y.hbmDead (lineRun a bs l).1 = false := key ▸ live (max a (l * 64) - a) (by
      obtain before | within := Nat.le_total a (l * 64)
      · rw [Nat.max_eq_right before]
        omega
      · rw [Nat.max_eq_left within]
        omega)
    let y1 : State := { y with mem := memWrite y.mem (lineRun a bs l).1 (lineRun a bs l).2
                               poison := clearPoison y.poison (lineRun a bs l).1 (lineRun a bs l).2.length }
    have first : y.writeLines ((l :: L).map (lineRun a bs)) = y1.writeLines (L.map (lineRun a bs)) := by
      rw [List.map_cons, State.writeLines, if_neg (by simp [alive])]
    obtain ⟨bytes, poison⟩ := ih (fun j member => meets j (List.mem_cons_of_mem _ member)) (y := y1) live
    obtain ⟨byte1, poison1⟩ := lineRun_written here.2 y.mem y.poison
    intro t
    refine ⟨fun key => ?_, fun j => ?_⟩
    · refine ((congrArg (State.byte · key) first).trans (bytes key)).trans ?_
      have one : y1.byte key = _ := byte1 key
      rw [one]
      simp only [List.mem_cons]
      by_cases range : a ≤ key ∧ key < a + bs.length <;> by_cases inL : key / 64 ∈ L <;> by_cases isL : key / 64 = l <;>
        simp [range, inL, isL, State.byte]
    · refine (show j ∈ t.poison ↔ _ from (Iff.of_eq (congrArg (fun z : State => j ∈ z.poison) first)).trans (poison j)).trans ?_
      have one : j ∈ y1.poison ↔ _ := poison1 j
      rw [one, List.mem_cons]
      tauto

theorem fences_touchRows (s : State) (l : List Nat) : fences (s.touchRows l) = fences s := by
  induction l generalizing s with
  | nil => rfl
  | cons k l ih => exact (ih _).trans (fences_touchRow ..)

include ide rdy

theorem cxlMemWrite_ends {a : Nat} {bs : List Byte} (inside : a + bs.length ≤ hbmBytes) (live : s.alive a bs.length)
    (free : ∀ k ∈ kibsOf a bs.length, s.migHeld k = false ∧ s.backedOff k = false) :
    let y := s.touchRows ((kibsOf a bs.length).filter fun k => !s.hbmDead k)
    Ends (.cxlMemWrite a bs) s fun t => t.holds a bs ∧ y.sameMemoryBut a bs.length t ∧
      ∀ l, l ∈ t.poison ↔ l ∈ y.poison ∧ ¬(a ≤ l * 64 ∧ (l + 1) * 64 ≤ a + bs.length) := by
  intro y
  have unheld : ((kibsOf a bs.length).any fun k => s.migHeld k || s.backedOff k) = false := by
    rw [List.any_eq_false]
    exact fun k here => by simp [(free k here).1, (free k here).2]
  have written : s.hostWrite a bs = y.writeLines (lineRuns a bs) := by
    unfold State.hostWrite
    rw [if_neg (by simp [rdy, Nat.not_lt.2 inside]), unheld]
    rfl
  have alive : y.alive a bs.length := fun i here => (hbmDead_of_fences (fences_touchRows ..) _).trans (live i here)
  obtain ⟨bytes, poison⟩ := writeLines_written (linesOf a bs.length) (fun l here => by obtain ⟨some, lo, hi⟩ := mem_linesOf.1 here; omega) alive
  rw [← lineRuns_map] at bytes poison
  refine ⟨_, congrArg Host.Outcome.next ((if_neg (by simp [ide])).trans written), ?_, fun key out => ?_, fun l => ?_⟩
  · refine List.ext_getElem (bytesAt_length ..) fun i h1 h2 => ?_
    have read := bytesAt_getD (y.writeLines (lineRuns a bs)) a bs.length i h2
    rw [List.getD_eq_getElem _ _ h1] at read
    rw [read, bytes, if_pos ⟨by omega, mem_linesOf.2 (by omega)⟩, Nat.add_sub_cancel_left, List.getD_eq_getElem _ _ h2]
  · rw [bytes, if_neg (by omega)]
  · rw [poison]
    refine and_congr_right fun _ => not_congr ⟨fun h => h.2, fun whole => ⟨mem_linesOf.2 (by omega), whole⟩⟩

end

/-! ### Mailboxes (R232, R364) -/

/-- A mailbox's work keeps the core that runs, and every mailbox. -/
def MailStands (s t : State) : Prop := t.core = s.core ∧ dieView Die.mbox t = dieView Die.mbox s

theorem mailStands_refl (s : State) : MailStands s s := ⟨rfl, rfl⟩

theorem mailStands_trans {s t u : State} (h : MailStands s t) (g : MailStands t u) : MailStands s u := ⟨g.1.trans h.1, g.2.trans h.2⟩

theorem mailStands_updDie (s : State) (f : Die → Die) (keeps : ∀ d, (f d).mbox = d.mbox) (d : Nat) : MailStands s (s.updDie d f) :=
  ⟨rfl, dies_map_updDie (keeps _)⟩

theorem mailStands_postRecord (s : State) (node : Nat) (r : FRec) : MailStands s (s.postRecord node r) := by
  refine ⟨?_, dieView_postRecord (fun _ _ => rfl) ..⟩
  obtain ⟨_, _, _, _, _, _, _, _, e⟩ := served_postRecord s node r
  rw [e]

theorem mailStands_holdSlot (s : State) (d i : Nat) (img : List Byte) (host : Bool) : MailStands s (s.holdSlot d i img host) :=
  mailStands_updDie s _ (fun _ => by rfl) d

theorem mailStands_sampleRow (s : State) (d node lrec : Nat) (p : PanSlot) (row : Nat) : MailStands s (s.sampleRow d node lrec p row) := by
  unfold State.sampleRow
  split
  · exact mailStands_refl s
  · next i _ =>
    extract_lets slot r
    refine ite_both (P := MailStands s) (mailStands_trans (mailStands_holdSlot ..) (mailStands_postRecord ..)) ?_
    generalize drawRow slot p r s.freeN = drawn
    obtain ⟨toks, past⟩ := drawn
    have told : MailStands s (s.updDie d fun x => { x with almTok := x.almTok ++ [{ slot := i, toks := toks }] }) := mailStands_updDie _ _ (fun _ => by rfl) d
    exact ite_both (P := MailStands s) (mailStands_trans told (mailStands_holdSlot ..)) told

theorem mailStands_sampleRows (s : State) (d node lrec : Nat) (p : PanSlot) (row n : Nat) : MailStands s (s.sampleRows d node lrec p row n) := by
  induction n generalizing s row with
  | zero => exact mailStands_refl s
  | succ n ih => exact mailStands_trans (mailStands_sampleRow ..) (ih ..)

theorem mailStands_mailWork (s : State) (d q : Nat) (m : MboxCmd) : MailStands s (s.mailWork d q m) := by
  refine ite_both (P := MailStands s) (mailStands_updDie _ _ (fun _ => by rfl) d) (ite_both (P := MailStands s) ?_ (mailStands_refl s))
  split
  · exact mailStands_refl s
  · exact mailStands_sampleRows ..

theorem mailStands_devWrite (s : State) (key : Nat) (bs : List Byte) : MailStands s (s.devWrite key bs) :=
  ite_both (P := MailStands s) ⟨rfl, rfl⟩ ⟨writeMem_core .., dieView_writeMem (fun _ _ => rfl) ..⟩

theorem mailStands_merWrites (s : State) (key : Nat) (bs : List Byte) (n : Nat) : MailStands s (s.merWrites key bs n) := by
  induction n generalizing s key bs with
  | zero => exact mailStands_refl s
  | succ n ih => exact ite_both (P := MailStands s) (mailStands_refl s) (mailStands_trans (mailStands_devWrite ..) (ih ..))

/-- An operation that ends leaves the completion queue. -/
theorem endOp_cq (s : State) (r : Option TokRef) (e : Option FaultInfo) : (s.endOp r e).core.cq = s.core.cq := by
  obtain ⟨_, _, _, _, _, frame⟩ := endOp_frame s r e
  rw [frame]

theorem endOp_mailDone_view (s : State) (r : Option TokRef) (e : Option FaultInfo) : dieView Die.mbox (s.endOp r e) = dieView Die.mbox s :=
  congrArg (List.map Die.mbox) (endOp_dies ..)

theorem mailDone_leaves {q : Nat} {m : MboxCmd} (holds : s.core.holds m.lrec m.job = true) : let t := s.mailDone q m
    t.core.cq = s.core.cq ++ [mailElement q (mailStatus q s.freeN) m] ∧ dieView Die.mbox t = dieView Die.mbox s := by
  unfold State.mailDone
  extract_lets res s1 e s2 t
  have written : MailStands s s1 := by
    refine ite_both (P := MailStands s) (mailStands_refl s) ?_
    split
    · exact mailStands_merWrites ..
    · exact mailStands_refl s
  have stands : MailStands s s2 := written
  clear_value s2
  obtain ⟨core, view⟩ := stands
  have taken : s2.updJob m.lrec m.job (fun c => { c with cq := c.cq ++ [e] }) = s2.updC fun c => { c with cq := c.cq ++ [e] } :=
    if_pos (by rw [core]; exact holds)
  have done : t = (s2.updC fun c => { c with cq := c.cq ++ [e] }).endOp m.tok none := congrArg (State.endOp · m.tok none) taken
  rw [done]
  refine ⟨(endOp_cq ..).trans ?_, (endOp_mailDone_view ..).trans view⟩
  show s2.core.cq ++ [e] = _
  rw [core]

/-- The fields of a completion element. -/
theorem mailElement_fields {q : Nat} (small : q < 4) (n : Nat) (m : MboxCmd) : let e := mailElement q (mailStatus q n) m
    e.toNat / 2 ^ 56 ≠ 0xFF ∧ (q = 3 → e.toNat / 2 ^ 56 = 0xFE) ∧ e.toNat / 2 ^ 48 % 256 = q ∧ e.toNat % 2 ^ 48 = fieldNat m.record 0 6 := by
  intro e
  have status : mailStatus q n < 255 := ite_both (P := (· < 255)) (by decide) (Nat.mod_lt _ (by decide))
  have reserved : q = 3 → mailStatus q n = 0xFE := fun three => if_pos three
  have record : fieldNat m.record 0 6 < 256 ^ 6 := (leNat_lt _).trans_le (Nat.pow_le_pow_right (by decide) (by simp))
  have number : e.toNat = (mailStatus q n * 2 ^ 56 + q * 2 ^ 48 + fieldNat m.record 0 6) % 2 ^ 64 := BitVec.toNat_ofNat ..
  generalize e.toNat = x at number
  generalize mailStatus q n = st at status reserved number
  generalize fieldNat m.record 0 6 = f at record number
  omega

section
variable {a q : Nat} {m : MboxCmd} {r : List MboxCmd} (die : a < 12) (queue : q < 4) (live : (s.die a).fenced = false)
  (oldest : Sparse.get (s.die a).mbox q = m :: r) (holds : s.core.holds m.lrec m.job = true)
  (begun : q = 2 → ∀ x ∈ m :: r, x.until_.isSome = true) (loop : s.gen.stopped = true → q = 2)
include die queue live oldest holds begun loop

theorem mailboxCommand_serves : exec (.mailboxCommand a q) s =
    .next (if (decide (32 ≤ s.core.cq.length) || !s.mailReady a q m) then s
      else ((s.updDie a fun x => { x with mbox := Sparse.set x.mbox q r }).mailWork a q m).mailDone q m) := by
  have served : s.serveMail a q = if (decide (32 ≤ s.core.cq.length) || !s.mailReady a q m) then s
      else ((s.updDie a fun x => { x with mbox := Sparse.set x.mbox q r }).mailWork a q m).mailDone q m := by
    have going : ¬(s.gen.stopped && q != 2) = true := by
      rw [Bool.and_eq_true, bne_iff_ne]
      exact fun ⟨stopped, other⟩ => other (loop stopped)
    have allBegun : ¬(q = 2 ∧ ((m :: r).any fun m => m.until_.isNone) = true) := by
      rintro ⟨two, some⟩
      obtain ⟨x, member, none⟩ := List.any_eq_true.1 some
      rw [Option.isNone_iff_eq_none] at none
      exact absurd (begun two x member) (by simp [none])
    have job : s.jobCore m.lrec m.job = some s.core := List.find?_cons_of_pos holds
    unfold State.serveMail
    simp only [oldest, if_neg going, if_neg allBegun, job, Option.map_some, Option.getD_some]
  exact congrArg Host.Outcome.next ((if_pos (by simp [die, queue, live])).trans served)

theorem mailboxCommand_ends (package : s.dies.length = 12) :
    (s.core.cq.length = 32 → exec (.mailboxCommand a q) s = .next s) ∧
    (s.core.cq.length < 32 → s.mailReady a q m = true → Ends (.mailboxCommand a q) s fun t => Sparse.get (t.die a).mbox q = r ∧
      ∃ e : Word, t.core.cq = s.core.cq ++ [e] ∧ e.toNat / 2 ^ 56 ≠ 0xFF ∧ (q = 3 → e.toNat / 2 ^ 56 = 0xFE) ∧
        e.toNat / 2 ^ 48 % 256 = q ∧ e.toNat % 2 ^ 48 = fieldNat m.record 0 6) := by
  have serves := mailboxCommand_serves die queue live oldest holds begun loop
  refine ⟨fun full => serves.trans (congrArg Host.Outcome.next (if_pos (by simp [full]))), fun room ready => ⟨_, serves, ?_⟩⟩
  rw [if_neg (by simp [ready, room])]
  have worked := mailStands_mailWork (s.updDie a fun x => { x with mbox := Sparse.set x.mbox q r }) a q m
  generalize (s.updDie a fun x => { x with mbox := Sparse.set x.mbox q r }).mailWork a q m = w at worked
  obtain ⟨core, view⟩ := worked
  have same : w.core = s.core := core
  obtain ⟨cq, stays⟩ := mailDone_leaves (s := w) (q := q) (m := m) (by rw [same]; exact holds)
  refine ⟨?_, _, cq.trans (by rw [same]), mailElement_fields queue w.freeN m⟩
  rw [die_of_dies_map (g := Die.mbox) (stays.trans view) a, die_updDie (package ▸ die)]
  exact sparse_get_set_same ..

end

/-- Settles O57, clause by clause: phases, resets, registers, CXL.mem, errors, IDE, mailboxes and SPDM each by the lemma of its own. -/
theorem bringUpAndHost : Obligations.BringUpAndHost := by
  intro s failed x a n bs v up told quiet fails next fenced i flowing package
  refine ⟨powerGood_first, powerGood_again package, fun off => phaseComplete_off off failed x, fun on late => phaseComplete_late on late failed x,
    fun up one => phase_one up package one, fun up two => phase_two up package two, fun up three => phase_three up package three,
    fun up four => phase_four up package four, fun up five => phase_five up package five, resets_end package bs n,
    fun well => firmwareUpdate_refused well bs n, devstat_fields, held_before_ide a n bs v, dropped_before_ready a n bs v, readReg_cases s,
    fun flow => cxlMemRead_ends flow.1 flow.2, fun flow => cxlMemWrite_ends flow.1 flow.2, fun flow => registerWrite_ends package flow.1 flow.2 v,
    fun ide => ideerrClear_ends ide v, fun flow => tlbinvWrite_ends flow.1 flow.2 v, fun q => tlbinvComplete_ends,
    fun flow => faqPop_ends flow.1 flow.2, fun ty => hbmErrorReport_ends, ideEstablished_ends, ide_ends,
    fun m r q die queue live oldest holds begun loop => mailboxCommand_ends die queue live oldest holds begun loop package,
    fun fail j asked => ?_, fun fail restart j asked => ?_, fun fail restart => spdm_answers fail restart x a n⟩
  · obtain ⟨f, asks⟩ := asks_all x a n j asked
    exact asks_failed asks fail
  · obtain ⟨f, asks⟩ := asks_all x a n j asked
    exact asks_restart asks fail restart

end Sys2Proof.Proofs
end

section
/-!
PROOFS. A send whose walk for its tile set opens a row that alerts, so that a record is posted as the word issues (R155, R323, R354, R359).
-/

namespace Sys2Proof.Proofs
open Sys2Proof Sys2Proof.Machine

/-- A sender of one tile a set, with a permit, and its receiver on die 4. -/
def permitted : ChEnd :=
  { (default : ChEnd) with num := 0, peer := 4, role := 0, t := 1, st := .opened, peerEnd := some 0, permits := 1 }

def granting : ChEnd :=
  { (default : ChEnd) with num := 0, peer := 0, role := 1, t := 1, nb := 1, buf := 0x10010000, st := .opened, peerEnd := some 0, bufs := [.granted] }

/-- A core of die 0 that has sent its word to the Sluice. -/
def sendingCore : Core :=
  { (default : Core) with
    running := true
    sa := { (default : StrmSt) with secLen := 1, entered := true, sent := some 0, view := { (default : JobView) with ptb := 0x100000 } } }

/-- Stream A of that core; on die 0, which holds its tables, the first activation of a row alerts, the host asks for notices, and the fault-record
queue of the die's ROOT, at 0x301000, has no entry, so that its DROP counts the record. -/
def alertingSend : State :=
  (({ State.reset with
      core := sendingCore, cur := .a, mem := memWrite sameBankTables 0x300040 (leBytes 8 0x301000)
      host := { HostSt.reset with note := true, alim := 1 } }).updDie 0 fun d => { d with mth := 1, root := 0x300000, ends := [permitted] }).updDie 4 fun d =>
    { d with ends := [granting] }

/-- XSEND on end 0 of the tile set at address 0. -/
def xsendZero : Wm :=
  { pm := 0, awe := false, awk := 0, d := 696, a := 696, b := 696, c := 696, cls := 0, tke := false, tk := 0, opn := false, sz := 0, disp := 0 }

/-- The Sluice accepts the word now. -/
theorem alertingSend_takes : alertingSend.takesBy .sluice (shM xsendZero .opt true 3 24 .sDst .sSrc .sSrc .sSrc) 0 0 0
    (alertingSend.updDie 0 fun d => d.accepts .sluice 1) := by
  have zero : alertingSend.srcIf .sSrc 696 = .ok (0, alertingSend) := srcIf_scalar (by decide) (by decide) (by decide)
  refine ⟨alertingSend, 0, ⟨⟨by decide, by decide⟩, ?_⟩, rfl, by decide, rfl⟩
  unfold State.sources
  simp only [shM, xsendZero, zero]

/-- DROP counts the record of the alert that the walk raises. -/
theorem alertingSend_posts : ∃ x, exec (.xsend xsendZero) alertingSend = .next x ∧ x.byte 0x301018 ≠ alertingSend.byte 0x301018 := ⟨_, rfl, by decide⟩

/-- The word names the sender. -/
theorem alertingSend_end : (alertingSend.updDie 0 fun d => d.accepts .sluice 1).endOf (0 : Word).toNat (some 0) = .ok permitted := by
  have found : ((alertingSend.updDie 0 fun d => d.accepts .sluice 1).die 0).chEnd 0 = some permitted := rfl
  unfold State.endOf
  rw [show (alertingSend.updDie 0 fun d => d.accepts .sluice 1).core.did = 0 from rfl, show (0 : Word).toNat % 128 = 0 from rfl, found]
  rfl

/-- Refutes O52: XSEND's own translation may walk the tables. Here the walk opens rows that alert, and the record of the first alert is counted in the
queue's DROP as the word issues, so that memory is not as it was. -/
theorem not_channelWords : ¬ Obligations.ChannelWords := by
  unfold Obligations.ChannelWords
  intro h
  obtain ⟨-, -, -, -, xsend, -⟩ := h xsendZero alertingSend (alertingSend.updDie 0 fun d => d.accepts .sluice 1) 0 0 0 permitted none
    (alertingSend.updDie 0 fun d => d.accepts .sluice 1) (by decide) (by decide) (open_iff.2 (by decide))
  obtain ⟨-, -, sends⟩ := xsend [(0, 0x200000)] alertingSend_takes (by decide) alertingSend_end
    (by unfold addrOk; decide) (by decide)
    (by unfold State.classDone; decide) rfl
  obtain ⟨x, hx, -, mem, -⟩ := sends granting (by decide) (by decide) (by decide) (by decide) rfl (by decide) (by decide)
  obtain ⟨y, hy, posted⟩ := alertingSend_posts
  obtain rfl : y = x.retire 1 := Host.Outcome.next.inj (hy.symm.trans hx)
  exact posted (congrArg (Sparse.get · 0x301018) mem)

end Sys2Proof.Proofs
end

section
/-!
PROOFS. Contexts and commands in their die's lists; nodes, their filing and their lists (R125, R128 to R131, R135).
-/

namespace Sys2Proof.Proofs
open Sys2Proof Sys2Proof.Machine

/-! ### A context and a command of a die (R120, R145) -/

/-- What the Orrery's words read of a die: its contexts and commands. -/
def orrView (d : Die) : List Ctx × List KOp := (d.ctxs, d.kops)

/-- The contexts and commands of every die are as they were. -/
def OrrStays (s t : State) : Prop := dieView orrView t = dieView orrView s

theorem orrStays_trans {s t u : State} (h : OrrStays s t) (g : OrrStays t u) : OrrStays s u := Eq.trans g h

theorem orrStays_of_dies {s t : State} (h : t.dies = s.dies) : OrrStays s t := congrArg (List.map orrView) h

section
variable {s t : State} {die n : Nat} {c x : Ctx}

theorem ctx_num (found : (s.die die).ctx n = some c) : c.num = n := by simpa using List.find?_some found

theorem ctx_of_stays (h : OrrStays s t) (die n : Nat) : (t.die die).ctx n = (s.die die).ctx n := by
  have same : (t.die die).ctxs = (s.die die).ctxs := congrArg Prod.fst (die_of_dies_map (g := orrView) h die)
  unfold Die.ctx
  rw [same]

theorem kop_of_stays (h : OrrStays s t) (die id : Nat) : (t.die die).kop id = (s.die die).kop id := by
  have same : (t.die die).kops = (s.die die).kops := congrArg Prod.snd (die_of_dies_map (g := orrView) h die)
  unfold Die.kop
  rw [same]

theorem stays_length (h : OrrStays s t) : t.dies.length = s.dies.length := length_of_dieView h

/-- A list's first context of a number, after the contexts of that number have changed. -/
theorem find?_map_ctx {f : Ctx → Ctx} (keeps : ∀ c, c.num = n → (f c).num = n) (l : List Ctx) :
    (l.map fun c => if c.num = n then f c else c).find? (fun c => c.num == n) = (l.find? fun c => c.num == n).map f := by
  induction l with
  | nil => rfl
  | cons c l ih =>
    by_cases here : c.num = n
    · simp [here, keeps c here]
    · simp [here, ih]

/-- A changed context stands where it stood. -/
theorem ctx_updCtx {f : Ctx → Ctx} (there : die < s.dies.length) (found : (s.die die).ctx n = some c) (keeps : ∀ c, c.num = n → (f c).num = n) :
    ((s.updCtx die n f).die die).ctx n = some (f c) := by
  unfold Die.ctx at found
  unfold State.updCtx Die.ctx
  rw [die_updDie there]
  refine (find?_map_ctx keeps (s.die die).ctxs).trans ?_
  rw [found, Option.map_some]

/-- Another context is as it was. -/
theorem updCtx_length (s : State) (die n : Nat) (f : Ctx → Ctx) : (s.updCtx die n f).dies.length = s.dies.length := by simp [State.updCtx]

theorem finishK_ctx (there : die < s.dies.length) (o : KOp) (e : Option FaultInfo) (n : Nat) :
    ((s.finishK die o e).die die).ctx n = (s.die die).ctx n := by
  unfold State.finishK
  rw [die_endOp, die_updDie there]
  rfl

theorem finishK_gone (there : die < s.dies.length) (o : KOp) (e : Option FaultInfo) : ((s.finishK die o e).die die).kop o.id = none := by
  unfold State.finishK
  rw [die_endOp, die_updDie there]
  simp [Die.kop, List.find?_eq_none]

theorem finishK_mem (s : State) (die : Nat) (o : KOp) (e : Option FaultInfo) : (s.finishK die o e).mem = s.mem := endOp_mem ..

/-- A command that changes its context ends: the context as changed, the command gone. -/
theorem changed_finishK {o : KOp} {f : Ctx → Ctx} (there : die < s.dies.length) (found : (s.die die).ctx n = some c)
    (keeps : ∀ c, c.num = n → (f c).num = n) (e : Option FaultInfo) : let t := (s.updCtx die n f).finishK die o e
    (t.die die).ctx n = some (f c) ∧ (t.die die).kop o.id = none ∧ t.mem = s.mem := by
  have there' : die < (s.updCtx die n f).dies.length := (updCtx_length ..).symm ▸ there
  exact ⟨(finishK_ctx there' ..).trans (ctx_updCtx there found keeps), finishK_gone there' .., finishK_mem ..⟩

theorem orrStays_updJob (s : State) (lrec job : Nat) (f : Core → Core) : OrrStays s (s.updJob lrec job f) := orrStays_of_dies (State.updJob_dies ..)

theorem orrStays_touchRows (s : State) (l : List Nat) : OrrStays s (s.touchRows l) := dieView_touchRows (fun _ _ => rfl) ..

theorem orrStays_writeMem (s : State) (key : Nat) (bs : List Byte) : OrrStays s (s.writeMem key bs) := dieView_writeMem (fun _ _ => rfl) ..

theorem orrStays_writeRuns (l : List (Nat × List Byte)) (s : State) : OrrStays s (s.writeRuns l) := by
  induction l generalizing s with
  | nil => rfl
  | cons r l ih => exact orrStays_trans (orrStays_writeMem ..) (ih _)

theorem orrStays_copyFrame (s : State) (src dst n : Nat) : OrrStays s (s.copyFrame src dst n) := ite_both (P := OrrStays s) rfl rfl

theorem orrStays_clearFrame (s : State) (key n : Nat) : OrrStays s (s.clearFrame key n) := ite_both (P := OrrStays s) rfl rfl

theorem orrStays_makeMoves (l : List GMove) (s : State) : OrrStays s (s.makeMoves l) := by
  induction l generalizing s with
  | nil => rfl
  | cons m l ih => exact orrStays_trans (orrStays_copyFrame ..) (ih _)

theorem orrStays_clearArea (l : List (Nat × MapEnt)) (s : State) : OrrStays s (s.clearArea l) := by
  induction l generalizing s with
  | nil => rfl
  | cons e l ih => exact orrStays_trans (orrStays_clearFrame ..) (ih _)

theorem orrStays_fillFree (l : List (Nat × MapEnt)) (s : State) : OrrStays s (s.fillFree l) := by
  induction l generalizing s with
  | nil => rfl
  | cons e l ih => exact orrStays_trans (orrStays_trans (s := s) (t := { s with freeN := s.freeN + 65536 }) rfl (orrStays_writeMem ..)) (ih _)

/-! ### Accesses that may be served (R84, R324, R331, R357) -/

theorem gate_goes {reads writes : List Nat} (flow : ∀ k ∈ reads ++ writes, s.flows k) : s.gate reads writes = .go := by
  have linked : (reads ++ writes).any s.linkDown = false := List.any_eq_false.2 fun k here => by simp [(flow k here).1]
  have unheld : writes.any s.migHeld = false := List.any_eq_false.2 fun k here => by simp [(flow k (List.mem_append_right _ here)).2.1]
  have idle : (reads ++ writes).any s.stripeBusy = false := List.any_eq_false.2 fun k here => by simp [(flow k here).2.2.1]
  have awake : (reads ++ writes).any s.backedOff = false := List.any_eq_false.2 fun k here => by simp [(flow k here).2.2.2]
  unfold State.gate
  simp only [linked, unheld, idle, awake, Bool.or_self, Bool.false_eq_true, if_false]

/-- A command whose accesses flow goes on, their rows open. -/
theorem gateK_goes {o : KOp} {reads writes : List Nat} (free : ∀ k ∈ reads ++ writes, s.flows k ∧ isScratchKey k = false) (go : State → State) :
    s.gateK die o reads writes go = go (s.touchRows (reads ++ writes)) := by
  have hbm : writes.any isScratchKey = false := List.any_eq_false.2 fun k here => by simp [(free k (List.mem_append_right _ here)).2]
  unfold State.gateK
  rw [hbm, Bool.and_false, if_neg (by decide), gate_goes fun k here => (free k here).1]

end

/-! ### Lists of nodes (R125, R129 to R131) -/

section
variable (c : Ctx)

/-- A list that changes leaves every field that filing reads, and the nodes. -/
structure ListsOnly (c x : Ctx) : Prop where
  num : x.num = c.num
  h : x.h = c.h
  ww : x.ww = c.ww
  rp : x.rp = c.rp
  lw : x.lw = c.lw
  gp : x.gp = c.gp
  steps : x.steps = c.steps
  nodes : x.nodes = c.nodes

theorem onList_listsOnly (l slot : Nat) (f : List Nat → List Nat) : ListsOnly c (c.onList l slot f) := by
  unfold Ctx.onList
  split <;> exact ⟨rfl, rfl, rfl, rfl, rfl, rfl, rfl, rfl⟩

theorem unlink_listsOnly (ix : Nat) : ListsOnly c (c.unlink ix) := onList_listsOnly ..

/-- Where a node belongs depends on H, rp and W alone. -/
theorem place_listsOnly {x : Ctx} (same : ListsOnly c x) (e : Nat) : x.place e = c.place e := by
  obtain ⟨-, h, -, rp, lw, -, -, -⟩ := same
  have w : x.w = c.w := congrArg (2 ^ ·) lw
  unfold Ctx.place Ctx.front Ctx.block
  rw [h, rp, w]

/-- What filing leaves, and the node it files. -/
theorem file_leaves (ix : Nat) (n : Node) : let y := c.file ix n
    (y.num = c.num ∧ y.h = c.h ∧ y.ww = c.ww ∧ y.rp = c.rp ∧ y.steps = c.steps) ∧
    Sparse.get y.nodes ix = { n with flg := (c.place n.e).1 } ∧ ∀ j, j ≠ ix → Sparse.get y.nodes j = Sparse.get c.nodes j := by
  obtain ⟨num, h, ww, rp, -, -, steps, -⟩ := onList_listsOnly c (c.place n.e).1 (c.place n.e).2 (· ++ [ix])
  have filed : (c.file ix n).nodes = Sparse.set c.nodes ix { n with flg := (c.place n.e).1 } := rfl
  refine ⟨⟨num, h, ww, rp, steps⟩, ?_, fun j other => ?_⟩
  · rw [filed]; exact sparse_get_set_same ..
  · rw [filed]; exact sparse_get_set_other _ _ other

/-- The list a node belongs on, by its expiry (R129). -/
theorem place_flg (e : Nat) : (c.place e).1 = if e = neverExpiry then 4 else if e ≤ c.h then 5
    else if e / 2 ^ c.lw ≤ (c.rp + 1) / 2 ^ c.lw + 1 then 1 else if e / 2 ^ c.lw ≤ (c.rp + 1) / 2 ^ c.lw + 2 ^ c.lw + 1 then 2 else 3 := by
  unfold Ctx.place
  by_cases never : e = neverExpiry
  · rw [if_pos never, if_pos never]
  · rw [if_neg never, if_neg never]
    by_cases expired : e ≤ c.h
    · rw [if_pos expired, if_pos expired]
    · rw [if_neg expired, if_neg expired]
      show (if e / 2 ^ c.lw ≤ _ then _ else if e / 2 ^ c.lw ≤ _ then _ else _ : Nat × Nat).1 = _
      by_cases near : e / 2 ^ c.lw ≤ (c.rp + 1) / 2 ^ c.lw + 1
      · rw [if_pos near]; exact (congrArg Prod.fst (if_pos near))
      · rw [if_neg near]
        refine (congrArg Prod.fst (if_neg near)).trans ?_
        by_cases ring : e / 2 ^ c.lw ≤ (c.rp + 1) / 2 ^ c.lw + 2 ^ c.lw + 1
        · rw [if_pos ring]; exact congrArg Prod.fst (if_pos ring)
        · rw [if_neg ring]; exact congrArg Prod.fst (if_neg ring)

theorem file_node (ix : Nat) (n : Node) : let y := c.file ix n
    (Sparse.get y.nodes ix).e = n.e ∧ (Sparse.get y.nodes ix).flg =
      if n.e = neverExpiry then 4 else if n.e ≤ c.h then 5 else if n.e / 2 ^ c.lw ≤ (c.rp + 1) / 2 ^ c.lw + 1 then 1
      else if n.e / 2 ^ c.lw ≤ (c.rp + 1) / 2 ^ c.lw + 2 ^ c.lw + 1 then 2 else 3 := by
  intro y
  obtain ⟨-, node, -⟩ := file_leaves c ix n
  rw [show Sparse.get y.nodes ix = _ from node]
  exact ⟨rfl, place_flg c n.e⟩

/-- A node written by KVW (R128, R129). -/
theorem publish_node (p g l : Nat) : let x := c.publish p g l; let n := Sparse.get x.nodes (c.nodeIx p g)
    x.ww = some (match c.ww with | none => p | some q => max q p) ∧ n.tag = p ∧ n.grp = g ∧ n.e = if l = 0 then 2 ^ 32 - 1 else p + l := by
  intro x n
  obtain ⟨⟨-, -, ww, -, -⟩, node, -⟩ := file_leaves (c.unlink (c.nodeIx p g)) (c.nodeIx p g)
    { e := if l = 0 then neverExpiry else p + l, tag := p, grp := g, flg := 0 }
  have written : n = _ := node
  rw [written]
  refine ⟨?_, rfl, rfl, rfl⟩
  show some (max (wwInt _) p).toNat = _
  rw [ww, (unlink_listsOnly c _).ww]
  cases c.ww with
  | none =>
    exact congrArg some (show (max (-1 : Int) p).toNat = p by omega)
  | some q =>
    exact congrArg some (show (max (q : Int) p).toNat = max q p by omega)

theorem publish_num (p g l : Nat) : (c.publish p g l).num = c.num :=
  (file_leaves (c.unlink (c.nodeIx p g)) (c.nodeIx p g) _).1.1.trans (unlink_listsOnly c _).num

/-- Whether an entry is there for KVRNW and KVEXP (R135). -/
def EntryThere (p g : Nat) : Prop :=
  let n := Sparse.get c.nodes (c.nodeIx p g)
  p < c.limit ∧ n.tag = p ∧ (∃ q, c.ww = some q ∧ p ≤ q) ∧ c.h < n.e ∧ n.e ≠ 0

theorem absent_iff (p g : Nat) : c.absent p g = true ↔ ¬ EntryThere c p g := by
  have written : decide ((p : Int) > wwInt c.ww) = true ↔ ¬ ∃ q, c.ww = some q ∧ p ≤ q := by
    rw [decide_eq_true_eq]
    cases c.ww with
    | none => simp [wwInt]; omega
    | some q => simp [wwInt]
  unfold Ctx.absent EntryThere
  simp only [Bool.or_eq_true, decide_eq_true_eq, bne_iff_ne, beq_iff_eq] at written ⊢
  rw [written]
  simp only [not_and_or, not_lt, ne_eq, not_not, or_assoc]

theorem toRelease_node (ix : Nat) (n : Node) : Sparse.get (c.toRelease ix n).nodes ix = { n with flg := 5 } := sparse_get_set_same ..

theorem renew_expire (p g l : Nat) : let e := if l = 0 then 2 ^ 32 - 1 else c.qp + l
    let y := c.renew p g l; let z := c.expire p g
    (¬ EntryThere c p g → y = (c, 1) ∧ z = (c, 1)) ∧
    (EntryThere c p g → (Sparse.get y.1.nodes (c.nodeIx p g)).e = (if e ≤ c.h then 0 else e) ∧ y.2 = (if e ≤ c.h then 2 else 0) ∧
      (Sparse.get z.1.nodes (c.nodeIx p g)).e = 0 ∧ z.2 = 0) := by
  intro e y z
  refine ⟨fun gone => ⟨if_pos ((absent_iff c p g).2 gone), if_pos ((absent_iff c p g).2 gone)⟩, fun there => ?_⟩
  have present : ¬ c.absent p g = true := fun gone => (absent_iff c p g).1 gone there
  have expired : z = ((c.unlink (c.nodeIx p g)).toRelease (c.nodeIx p g) { Sparse.get c.nodes (c.nodeIx p g) with e := 0 }, 0) := if_neg present
  have renewed : y = if e ≤ c.h then ((c.unlink (c.nodeIx p g)).toRelease (c.nodeIx p g) { Sparse.get c.nodes (c.nodeIx p g) with e := 0 }, 2)
    else ((c.unlink (c.nodeIx p g)).file (c.nodeIx p g) { Sparse.get c.nodes (c.nodeIx p g) with e := e }, 0) := if_neg present
  rw [renewed, expired, toRelease_node]
  by_cases past : e ≤ c.h
  · rw [if_pos past, if_pos past, if_pos past, toRelease_node]
    exact ⟨rfl, rfl, rfl, rfl⟩
  · rw [if_neg past, if_neg past, if_neg past, (file_leaves (c.unlink (c.nodeIx p g)) (c.nodeIx p g) { Sparse.get c.nodes (c.nodeIx p g) with e := e }).2.1]
    exact ⟨rfl, rfl, rfl, rfl⟩

theorem toRelease_num (ix : Nat) (n : Node) : (c.toRelease ix n).num = c.num := rfl

theorem renew_num (p g l : Nat) : (c.renew p g l).1.num = c.num := by
  have unlinked := (unlink_listsOnly c (c.nodeIx p g)).num
  refine ite_both (P := fun r : Ctx × Nat => r.1.num = c.num) rfl (ite_both (P := fun r : Ctx × Nat => r.1.num = c.num) ?_ ?_)
  · exact (toRelease_num ..).trans unlinked
  · exact (file_leaves (c.unlink _) _ _).1.1.trans unlinked

theorem expire_num (p g : Nat) : (c.expire p g).1.num = c.num :=
  ite_both (P := fun r : Ctx × Nat => r.1.num = c.num) rfl ((toRelease_num ..).trans (unlink_listsOnly c _).num)

/-! ### Steps of reclamation and release (R130, R131) -/

/-- What a splice leaves, and what it brings to the release list. -/
theorem splice_leaves (l slot : Nat) (list : l = 1 ∨ l = 2) (p : Node → Bool) : let y := c.splice l slot p
    (y.num = c.num ∧ y.h = c.h ∧ y.ww = c.ww ∧ y.rp = c.rp) ∧ y.release = c.release ++ (c.listAt l slot).filter fun ix => p (Sparse.get c.nodes ix) := by
  obtain ⟨num, h, ww, rp, -, -, -, -⟩ := onList_listsOnly c l slot fun x => x.filter fun ix => !p (Sparse.get c.nodes ix)
  refine ⟨⟨num, h, ww, rp⟩, ?_⟩
  obtain rfl | rfl := list <;> rfl

theorem reclaim_advances (due : c.due = []) (behind : c.rp < c.h) : let x := c.reclaim; let q := c.rp + 1
    (x.num = c.num ∧ x.h = c.h ∧ x.ww = c.ww) ∧ x.rp = q ∧ x.release = c.release ++ c.listAt 1 (2 * (q % c.w) + c.block q % 2) ∧
      (q % c.w ≠ c.w - 1 → x.steps = []) := by
  intro x q
  let y := c.splice 1 (2 * (q % c.w) + c.block q % 2) fun _ => true
  let y1 : Ctx := { y with rp := q, steps := [] }
  have stepped : x = if q % c.w ≠ c.w - 1 then y1 else { y1 with steps := y1.blockEnd } := by
    show c.reclaim = _
    unfold Ctx.reclaim
    rw [due]
    exact if_neg (Nat.not_le.2 behind)
  obtain ⟨⟨num, h, ww, -⟩, release⟩ := splice_leaves c 1 (2 * (q % c.w) + c.block q % 2) (.inl rfl) fun _ => true
  rw [List.filter_true] at release
  rw [stepped]
  by_cases inner : q % c.w ≠ c.w - 1
  · rw [if_pos inner]
    exact ⟨⟨num, h, ww⟩, rfl, release, fun _ => rfl⟩
  · rw [if_neg inner]
    exact ⟨⟨num, h, ww⟩, rfl, release, fun is => absurd is inner⟩

theorem reclaim_splices {b : Nat} {r : List EngStep} (due : c.due = .splice b :: r) : let x := c.reclaim
    (x.num = c.num ∧ x.h = c.h ∧ x.ww = c.ww) ∧ x.rp = c.rp ∧ x.steps = r ∧
      x.release = c.release ++ (c.listAt 2 (b % c.w)).filter fun j => c.block (Sparse.get c.nodes j).e == b := by
  intro x
  have stepped : x = { c.splice 2 (b % c.w) (fun n => c.block n.e == b) with steps := r } := by
    show c.reclaim = _
    unfold Ctx.reclaim
    rw [due]
  obtain ⟨⟨num, h, ww, rp⟩, release⟩ := splice_leaves c 2 (b % c.w) (.inr rfl) fun n => c.block n.e == b
  rw [stepped]
  exact ⟨⟨num, h, ww⟩, rp, rfl, release⟩

theorem reclaim_moves {j : Nat} {r : List EngStep} (due : c.due = .move j :: r) : let x := c.reclaim
    (x.num = c.num ∧ x.h = c.h ∧ x.ww = c.ww) ∧ x.rp = c.rp ∧ x.steps = r ∧ let n := Sparse.get c.nodes j
      Sparse.get x.nodes j = { n with flg := (c.place n.e).1 } ∧ ∀ k, k ≠ j → Sparse.get x.nodes k = Sparse.get c.nodes k := by
  intro x
  have stepped : x = { c.refile j with steps := r } := by
    show c.reclaim = _
    unfold Ctx.reclaim
    rw [due]
  have unlinked := unlink_listsOnly c j
  obtain ⟨⟨num, h, ww, rp, -⟩, node, others⟩ := file_leaves (c.unlink j) j (Sparse.get c.nodes j)
  rw [place_listsOnly c unlinked] at node
  rw [unlinked.nodes] at others
  rw [stepped]
  exact ⟨⟨num.trans unlinked.num, h.trans unlinked.h, ww.trans unlinked.ww⟩, rp.trans unlinked.rp, rfl, node, others⟩

theorem releaseOne_empties {held : Nat → Bool} {ix : Nat} (first : (c.release.find? fun j => !held j) = some ix) : let x := c.releaseOne held
    x.num = c.num ∧ (∀ j, j ∈ x.release ↔ j ∈ c.release ∧ j ≠ ix) ∧ Sparse.get x.nodes ix = default ∧
      ∀ j, j ≠ ix → Sparse.get x.nodes j = Sparse.get c.nodes j := by
  intro x
  have emptied : x = { c with release := c.release.filter (· != ix), nodes := Sparse.set c.nodes ix default } := by
    show c.releaseOne held = _
    unfold Ctx.releaseOne
    rw [first]
  rw [emptied]
  exact ⟨rfl, fun j => by simp, by simp, fun j other => by simp [sparse_get_set_other _ _ other]⟩

end
end Sys2Proof.Proofs
end

section
/-!
PROOFS. The Orrery's commands and background steps (R123, R125, R128 to R145).
-/

namespace Sys2Proof.Proofs
open Sys2Proof Sys2Proof.Machine

/-! ### Bytes cleared and written (R82, R123) -/

theorem clearFrame_byte (s : State) (key n j : Nat) : (s.clearFrame key n).byte j =
    if s.hbmDead key = false ∧ key ≤ j ∧ j < key + n then 0 else s.byte j := by
  unfold State.clearFrame
  by_cases dead : s.hbmDead key = true
  · rw [if_pos dead, if_neg (by simp [dead])]
  · rw [if_neg dead]
    refine (byte_filter (p := fun k => !(decide (key ≤ k) && decide (k < key + n))) rfl j).trans ?_
    have live : s.hbmDead key = false := by simpa using dead
    by_cases inside : key ≤ j ∧ j < key + n <;> simp [live, inside]

theorem clearFrame_hbmDead (s : State) (key n k : Nat) : (s.clearFrame key n).hbmDead k = s.hbmDead k :=
  ite_both (P := fun t : State => t.hbmDead k = s.hbmDead k) rfl rfl

/-- Every live frame of an area that is cleared reads zero, and a byte that was zero still does. -/
theorem clearArea_zero (l : List (Nat × MapEnt)) (s : State) : let t := s.clearArea l
    (∀ j, s.byte j = 0 → t.byte j = 0) ∧ ∀ e ∈ l, s.hbmDead (e.2.key 0) = false → ∀ i < 65536, t.byte (e.2.key 0 + i) = 0 := by
  induction l generalizing s with
  | nil => exact ⟨fun _ => id, nofun⟩
  | cons e l ih =>
    obtain ⟨stays, cleared⟩ := ih (s.clearFrame (e.2.key 0) 65536)
    have still : ∀ j, s.byte j = 0 → (s.clearFrame (e.2.key 0) 65536).byte j = 0 := fun j zero => by
      rw [clearFrame_byte]
      split
      · rfl
      · exact zero
    refine ⟨fun j zero => stays j (still j zero), fun x member live i inside => ?_⟩
    obtain rfl | later := List.mem_cons.1 member
    · refine stays _ ?_
      rw [clearFrame_byte, if_pos ⟨live, by omega, by omega⟩]
    · exact cleared x later ((clearFrame_hbmDead ..).trans live) i inside

theorem keyIn_page {page va : Nat} (here : va / 65536 * 65536 = page) : keyIn [(page, page)] va = va := by
  unfold keyIn
  rw [List.find?_cons_of_pos (by simp [here])]
  show page + va % 65536 = va
  omega

/-- Bytes within one page that maps to itself lie in one run. -/
theorem joinRuns_page {page : Nat} (bs : List Byte) (va : Nat) (inside : ∀ i < bs.length, (va + i) / 65536 * 65536 = page) (some : bs ≠ []) :
    joinRuns (keyedBytes [(page, page)] va bs) = [(va, bs)] := by
  induction bs generalizing va with
  | nil => exact absurd rfl some
  | cons b r ih =>
    have first : keyIn [(page, page)] va = va := keyIn_page (inside 0 (by simp))
    unfold keyedBytes joinRuns
    rw [first]
    by_cases last : r = []
    · subst last
      rfl
    · rw [ih (va + 1) (fun i small => by rw [Nat.add_assoc, Nat.add_comm 1]; exact inside (i + 1) (by simpa using small)) last]
      exact if_pos rfl

theorem fences_updJob (s : State) (lrec job : Nat) (f : Core → Core) : fences (s.updJob lrec job f) = fences s := by
  unfold fences
  rw [State.updJob_dies, State.updJob_host]

/-! ### Commands applied (R132 to R136, R145) -/

section
variable {s : State} {die : Nat} {o : KOp} {c : Ctx} (there : die < s.dies.length) (kop : (s.die die).kop o.id = some o)
  (ctx : (s.die die).ctx o.ctx = some c)
include there kop ctx

/-- A command's context becomes `x`, and the command is gone. -/
def Becomes (s : State) (die : Nat) (o : KOp) (x : Ctx) : Prop :=
  Ends (.kvCommandApply die o.id) s fun t => (t.die die).ctx o.ctx = some x ∧ (t.die die).kop o.id = none ∧ t.mem = s.mem

omit there ctx in
theorem kvApply_held (held : (s.die die).canApply o = false) : exec (.kvCommandApply die o.id) s = .next s := by
  refine congrArg Host.Outcome.next ?_
  unfold State.kvApply
  rw [kop]
  dsimp only
  split
  · rfl
  · rw [held, Bool.and_false]
    rfl

section
variable (may : (s.die die).canApply o = true) (fresh : o.applied = false)
include may fresh

omit there ctx in
theorem kvApply_applies (noWrite : ∀ p g l cell, o.cmd ≠ .kvw p g l cell) : exec (.kvCommandApply die o.id) s = .next (s.applyK die o) := by
  refine congrArg Host.Outcome.next ?_
  unfold State.kvApply
  rw [kop]
  dsimp only
  split
  · next p g l cell is => exact absurd is (noWrite p g l cell)
  · rw [may, fresh]
    rfl

/-- A command that gives its context a new content and ends, after a result that it may deliver. -/
theorem becomes_of_put {x : Ctx} {u : State} (noWrite : ∀ p g l cell, o.cmd ≠ .kvw p g l cell) (num : x.num = c.num)
    (put : OrrStays (s.updCtx die c.num fun _ => x) u) (mem : u.mem = s.mem) (applies : s.applyK die o = u.finishK die o none) : Becomes s die o x := by
  refine ⟨_, (kvApply_applies kop may fresh noWrite).trans (congrArg Host.Outcome.next applies), ?_, ?_, (finishK_mem ..).trans mem⟩
  · have named := ctx_num ctx
    have long : die < u.dies.length := by rw [stays_length put, updCtx_length]; exact there
    rw [finishK_ctx long, ctx_of_stays put, named]
    exact ctx_updCtx there ctx fun _ _ => num.trans named
  · exact finishK_gone (by rw [stays_length put, updCtx_length]; exact there) ..

theorem position_becomes {x : Ctx} (command : (∃ q, o.cmd = .adv q ∧ x = c.advance q) ∨ (∃ p, o.cmd = .commit p ∧ x = c.commit p) ∨
    ∃ q, o.cmd = .rewind q ∧ x = c.rewind q) : Becomes s die o x := by
  obtain ⟨q, cmd, rfl⟩ | ⟨q, cmd, rfl⟩ | ⟨q, cmd, rfl⟩ := command <;>
    refine becomes_of_put there kop ctx may fresh (by simp [cmd]) rfl (u := s.updCtx die c.num _) rfl rfl ?_ <;>
    simp only [State.applyK, ctx, cmd]

theorem entry_becomes {x : Ctx} {st : Nat} (command : (∃ p g l dst, o.cmd = .renew p g l dst ∧ c.renew p g l = (x, st)) ∨
    ∃ p g dst, o.cmd = .expire p g dst ∧ c.expire p g = (x, st)) : Becomes s die o x := by
  obtain ⟨p, g, l, dst, cmd, result⟩ | ⟨p, g, dst, cmd, result⟩ := command
  · have num : x.num = c.num := (congrArg (fun r : Ctx × Nat => r.1.num) result).symm.trans (renew_num c p g l)
    refine becomes_of_put there kop ctx may fresh (by simp [cmd]) num (u := (s.updCtx die c.num fun _ => x).deliver dst (statusWord st 0))
      (orrStays_updJob ..) (deliver_mem ..) ?_
    simp only [State.applyK, ctx, cmd, result, State.endStatus]
  · have num : x.num = c.num := (congrArg (fun r : Ctx × Nat => r.1.num) result).symm.trans (expire_num c p g)
    refine becomes_of_put there kop ctx may fresh (by simp [cmd]) num (u := (s.updCtx die c.num fun _ => x).deliver dst (statusWord st 0))
      (orrStays_updJob ..) (deliver_mem ..) ?_
    simp only [State.applyK, ctx, cmd, result, State.endStatus]

end

/-! ### A cell is written (R128) -/

omit there in
/-- A KVW into a unit that borrows nothing writes its cell through its own entry, files the node and ends. -/
theorem kvwComplete_writes (may : (s.die die).canApply o = true) {p g l : Nat} {cell : List Byte} (cmd : o.cmd = .kvw p g l cell)
    (own : ∀ i ∈ c.unitGranules (p / c.unit), (Sparse.get c.map i).brw = false)
    (works : s.entError (c.slabEnt (c.cellOff p g)) (c.slab + c.cellOff p g) (c.cellOff p g) = none)
    (free : ∀ k ∈ (c.slabEnt (c.cellOff p g)).keys (c.cellOff p g) c.cellBytes, s.flows k ∧ isScratchKey k = false) :
    exec (.kvwComplete die o.id) s = .next (((((s.touchRows ((c.slabEnt (c.cellOff p g)).keys (c.cellOff p g) c.cellBytes)).countFor
      o.lrec o.job 10 0).writeMem ((c.slabEnt (c.cellOff p g)).key (c.cellOff p g)) cell).updCtx die o.ctx fun x => x.publish p g l).finishK die o none) := by
  have lent : ((c.unitGranules (p / c.unit)).filter fun i => (Sparse.get c.map i).brw) = [] :=
    List.filter_eq_nil_iff.2 fun i member => by simp [own i member]
  refine congrArg Host.Outcome.next ?_
  unfold State.kvwComplete
  rw [kop]
  simp only [cmd, ctx, may, Bool.not_true, Bool.false_eq_true, if_false, lent, List.flatMap_nil, List.find?_nil, List.findSome?_nil, works,
    moveReads, moveWrites, List.nil_append, List.map_nil, List.sum_nil]
  exact gateK_goes free _

theorem kvwComplete_ends (may : (s.die die).canApply o = true) {p g l : Nat} {cell : List Byte} (cmd : o.cmd = .kvw p g l cell) :
    let off := c.cellOff p g; let ent := c.slabEnt off; let key := ent.key off
    (∀ i ∈ c.unitGranules (p / c.unit), (Sparse.get c.map i).brw = false) → s.entError ent (c.slab + off) off = none →
    (∀ k ∈ ent.keys off c.cellBytes, s.flows k ∧ isScratchKey k = false) → s.alive key cell.length →
    Ends (.kvwComplete die o.id) s fun t => (t.die die).ctx o.ctx = some (c.publish p g l) ∧ (t.die die).kop o.id = none ∧ t.holds key cell ∧
      (s.touchRows (ent.keys off c.cellBytes)).sameMemoryBut key cell.length t := by
  intro off ent key own works free live
  let y := s.touchRows (ent.keys off c.cellBytes)
  let u := (y.countFor o.lrec o.job 10 0).writeMem key cell
  have stays : OrrStays s u := orrStays_trans (orrStays_touchRows ..) (orrStays_trans (orrStays_updJob ..) (orrStays_writeMem ..))
  have ctx' : (u.die die).ctx o.ctx = some c := (ctx_of_stays stays ..).trans ctx
  have long : die < u.dies.length := (stays_length stays).symm ▸ there
  have mem : (y.countFor o.lrec o.job 10 0).mem = y.mem := updJob_mem ..
  have dead : ∀ k, (y.countFor o.lrec o.job 10 0).hbmDead k = s.hbmDead k := hbmDead_of_fences ((fences_updJob ..).trans (fences_touchRows ..))
  obtain ⟨after, gone, memory⟩ := changed_finishK (o := o) long ctx' (f := fun x => x.publish p g l) (fun x num => (publish_num x p g l).trans num) none
  refine ⟨_, kvwComplete_writes kop ctx may cmd own works free, after, gone, ?_, fun j out => ?_⟩
  · by_cases none : cell = []
    · subst none
      rfl
    · have alive : (y.countFor o.lrec o.job 10 0).hbmDead key = false := (dead key).trans (live 0 (List.length_pos_of_ne_nil none))
      exact bytesAt_written (memory.trans (writeMem_mem cell alive))
  · refine (congrArg (Sparse.get · j) memory).trans ((byte_writeMem_other out).trans ?_)
    exact congrArg (Sparse.get · j) mem

/-! ### Background steps (R123, R130, R131, R137, R144) -/

omit there kop ctx in
theorem background_idle {n : Nat} (other : (s.die die).nextWork ≠ some n) (has : Ctx → Bool) (f : Ctx → Ctx) : s.background die n has f = s := by
  refine if_neg ?_
  simp [other]

omit kop in
/-- The engine's step on the context whose turn it is. -/
theorem background_steps (next : (s.die die).nextWork = some o.ctx) (due : (s.die die).orrStep ≤ (s.die die).cyc) {has : Ctx → Bool} {f : Ctx → Ctx}
    (some_ : has c = true) (keeps : ∀ c, c.num = o.ctx → (f c).num = o.ctx) : let t := s.background die o.ctx has f
    t.mem = s.mem ∧ (t.die die).ctx o.ctx = some (f c) := by
  intro t
  have stepped : t = (s.updCtx die o.ctx f).updDie die fun d => { d with orrNext := o.ctx + 1, orrStep := d.cyc + 1 } :=
    (if_pos (by simp [next, due, ctx, some_]) : (if _ then _ else _) = _)
  rw [stepped]
  refine ⟨rfl, ?_⟩
  rw [die_updDie (by rw [updCtx_length]; exact there)]
  exact ctx_updCtx there ctx keeps

omit there kop ctx in
/-- Reclamation keeps the number of its context. -/
theorem reclaim_num (c : Ctx) : c.reclaim.num = c.num := by
  cases due : c.due with
  | nil =>
    by_cases behind : c.rp < c.h
    · exact (reclaim_advances c due behind).1.1
    · have idle : c.reclaim = { c with steps := [] } := by
        unfold Ctx.reclaim
        rw [due]
        exact if_pos (Nat.le_of_not_lt behind)
      rw [idle]
  | cons step r =>
    cases step with
    | splice b => exact (reclaim_splices c due).1.1
    | move j => exact (reclaim_moves c due).1.1

omit kop in
/-- What a step of reclamation leaves: memory, H, the watermark, and what its kind says. -/
theorem reclaimStep_ends (next : (s.die die).nextWork = some o.ctx) (due : (s.die die).orrStep ≤ (s.die die).cyc) (reclaims : c.reclaims = true)
    {p : Ctx → Prop} (leaves : (c.reclaim.num = c.num ∧ c.reclaim.h = c.h ∧ c.reclaim.ww = c.ww) ∧ p c.reclaim) :
    Ends (.orreryReclaimStep die o.ctx) s fun t => t.mem = s.mem ∧ ∃ x, (t.die die).ctx o.ctx = some x ∧ x.h = c.h ∧ x.ww = c.ww ∧ p x := by
  obtain ⟨⟨-, h, ww⟩, kind⟩ := leaves
  obtain ⟨mem, after⟩ := background_steps (f := Ctx.reclaim) there ctx next due reclaims fun x num => (reclaim_num x).trans num
  exact ⟨_, rfl, mem, _, after, h, ww, kind⟩

omit kop in
theorem releaseStep_ends (next : (s.die die).nextWork = some o.ctx) (due : (s.die die).orrStep ≤ (s.die die).cyc) {ix : Nat}
    (first : (c.release.find? fun j => !(s.die die).inView c j) = some ix) : Ends (.orreryReleaseStep die o.ctx) s fun t => ∃ x,
      (t.die die).ctx o.ctx = some x ∧ (∀ j, j ∈ x.release ↔ j ∈ c.release ∧ j ≠ ix) ∧ Sparse.get x.nodes ix = default ∧
        ∀ j, j ≠ ix → Sparse.get x.nodes j = Sparse.get c.nodes j := by
  have has : (c.release.any fun ix => !(s.die die).inView c ix) = true :=
    List.any_eq_true.2 ⟨ix, List.mem_of_find?_eq_some first, by simpa using List.find?_some first⟩
  obtain ⟨-, after⟩ := background_steps there ctx next due (has := fun c => c.release.any fun ix => !(s.die die).inView c ix)
    (f := fun c => c.releaseOne ((s.die die).inView c)) has fun x num => by
      unfold Ctx.releaseOne
      split <;> exact num
  obtain ⟨-, release, emptied, others⟩ := releaseOne_empties c first
  exact ⟨_, rfl, _, after, release, emptied, others⟩

omit kop in
theorem clearDone_ends (first : ((s.die die).kops.find? fun x => x.ctx == o.ctx && x.cmd == .new) = some o)
    (free : ∀ k ∈ c.amap.flatMap fun e => e.2.keys 0 65536, s.flows k ∧ isScratchKey k = false) :
    Ends (.contextAreaClearDone die o.ctx) s fun t => (t.die die).ctx o.ctx = some { c with clearing := false } ∧ (t.die die).kop o.id = none ∧
      ∀ e ∈ c.amap, s.hbmDead (e.2.key 0) = false → ∀ i < 65536, t.byte (e.2.key 0 + i) = 0 := by
  let y := s.touchRows (c.amap.flatMap fun e => e.2.keys 0 65536)
  let u := y.clearArea c.amap
  have stays : OrrStays s u := orrStays_trans (orrStays_touchRows ..) (orrStays_clearArea ..)
  have ctx' : (u.die die).ctx o.ctx = some c := (ctx_of_stays stays ..).trans ctx
  have done : s.clearDone die o.ctx = (u.updCtx die o.ctx fun c => { c with clearing := false }).finishK die o none := by
    unfold State.clearDone
    rw [first, ctx]
    exact gateK_goes (reads := []) free _
  obtain ⟨after, gone, memory⟩ := changed_finishK (o := o) ((stays_length stays).symm ▸ there : die < u.dies.length) ctx'
    (f := fun c => { c with clearing := false }) (fun _ => id) none
  refine ⟨_, congrArg Host.Outcome.next done, after, gone, fun e member live i inside => ?_⟩
  have zero : u.byte (e.2.key 0 + i) = 0 :=
    (clearArea_zero c.amap y).2 e member ((hbmDead_of_fences (fences_touchRows ..) _).trans live) i inside
  exact (congrArg (Sparse.get · (e.2.key 0 + i)) memory).trans zero

omit kop ctx in
theorem forkDone_ends {child : Nat} {cc : Ctx} (first : ((s.die die).kops.find? fun x => x.cmd == .forked child) = some o)
    (found : (s.die die).ctx child = some cc) : Ends (.forkCopyDone die child) s fun t =>
      (t.die die).ctx child = some { cc with copying := false } ∧ (t.die die).kop o.id = none := by
  have done : s.forkDone die child = (s.updCtx die child fun c => { c with copying := false }).finishK die o none := by
    unfold State.forkDone
    rw [first]
  obtain ⟨after, gone, -⟩ := changed_finishK (o := o) there found (f := fun c => { c with copying := false }) (fun _ => id) none
  exact ⟨_, congrArg Host.Outcome.next done, after, gone⟩

/-- Whether a command is a SLABGR. -/
def isGrow : KCmd → Bool
  | .grow _ _ => true
  | _ => false

omit kop in
/-- The next page of a slab that grows, in a state that holds the context: the watermark rises, and the last page ends the command. -/
theorem pageMoved_leaves {u : State} {f : Fwd} (stays : OrrStays s u) : let t := u.pageMoved die c f o none
    t.mem = u.mem ∧ (f.wm + 1 < 2 ^ c.k → (t.die die).ctx o.ctx = some { c with fwd := some { f with wm := f.wm + 1 } }) ∧
      (2 ^ c.k ≤ f.wm + 1 → (t.die die).ctx o.ctx = some { c with slab := f.base, k := c.k + 1, map := f.map, fwd := none } ∧
        (t.die die).kop o.id = none) := by
  intro t
  have named := ctx_num ctx
  have long : die < u.dies.length := (stays_length stays).symm ▸ there
  have ctx' : (u.die die).ctx o.ctx = some c := (ctx_of_stays stays ..).trans ctx
  have error : (if f.err.isSome then f.err else none) = f.err := by cases f.err <;> rfl
  have moved : t = if f.wm + 1 < 2 ^ c.k then u.updCtx die o.ctx fun x => { x with fwd := some { f with wm := f.wm + 1 } }
      else (u.updCtx die o.ctx fun x => { x with slab := f.base, k := x.k + 1, map := f.map, fwd := none }).finishK die o f.err := by
    show u.pageMoved die c f o none = _
    unfold State.pageMoved
    simp only [error, named]
  rw [moved]
  by_cases more : f.wm + 1 < 2 ^ c.k
  · rw [if_pos more]
    exact ⟨rfl, fun _ => ctx_updCtx long ctx' fun _ => id, fun last => absurd more (Nat.not_lt.2 last)⟩
  · rw [if_neg more]
    obtain ⟨after, gone, memory⟩ := changed_finishK (o := o) long ctx'
      (f := fun x => { x with slab := f.base, k := x.k + 1, map := f.map, fwd := none }) (fun _ => id) f.err
    exact ⟨memory, fun is => absurd is more, fun _ => ⟨after, gone⟩⟩

omit kop in
theorem slabPageMove_ends {f : Fwd} (growing : c.fwd = some f)
    (first : ((s.die die).kops.find? fun x => x.ctx == o.ctx && x.applied && isGrow x.cmd) = some o) : let mv := c.pageMoves f
    mv.findSome? s.moveError = none → (∀ k ∈ moveReads mv ++ moveWrites mv, s.flows k ∧ isScratchKey k = false) →
    Ends (.slabPageMove die o.ctx) s fun t => t.mem = ((s.touchRows (moveReads mv ++ moveWrites mv)).makeMoves mv).mem ∧
      (f.wm + 1 < 2 ^ c.k → (t.die die).ctx o.ctx = some { c with fwd := some { f with wm := f.wm + 1 } }) ∧
      (2 ^ c.k ≤ f.wm + 1 → (t.die die).ctx o.ctx = some { c with slab := f.base, k := c.k + 1, map := f.map, fwd := none } ∧
        (t.die die).kop o.id = none) := by
  intro mv works free
  let u := ((s.touchRows (moveReads mv ++ moveWrites mv)).makeMoves mv).countFor o.lrec o.job 10 ((mv.map (·.n)).sum)
  have stays : OrrStays s u := orrStays_trans (orrStays_touchRows ..) (orrStays_trans (orrStays_makeMoves ..) (orrStays_updJob ..))
  have done : s.slabMove die o.ctx = u.pageMoved die c f o none := by
    unfold State.slabMove
    split
    · next x y found grows =>
      obtain rfl : c = x := Option.some.inj (ctx.symm.trans found)
      obtain rfl : o = y := Option.some.inj (first.symm.trans grows)
      rw [growing]
      dsimp only
      rw [show (c.pageMoves f).findSome? s.moveError = none from works]
      exact gateK_goes free _
    · next none => exact absurd first (none c o ctx)
  obtain ⟨mem, more, last⟩ := pageMoved_leaves there ctx (f := f) stays
  exact ⟨_, congrArg Host.Outcome.next done, mem.trans (updJob_mem ..), more, last⟩

/-! ### Batches performed (R131, R140, R290, R291) -/

section
variable (applied : o.applied = true)
include applied

theorem shareDone_ends {src a n : Nat} {dst : DestRef} (cmd : o.cmd = .share src a n dst) : Ends (.orreryBatchPerformed die o.id) s fun t =>
    (t.die die).kop o.id = none ∧ (t.die die).ctx o.ctx = some c ∧ t.mem = s.mem := by
  have done : s.batchDone die o.id = s.finishK die o none := by
    unfold State.batchDone
    simp only [kop, applied, cmd, Bool.not_true, Bool.false_eq_true, if_false]
  exact ⟨_, congrArg Host.Outcome.next done, finishK_gone there .., (finishK_ctx there ..).trans ctx, finishK_mem ..⟩

theorem freeDone_ends {dst : DestRef} (cmd : o.cmd = .free dst) : (c.release ≠ [] → exec (.orreryBatchPerformed die o.id) s = .next s) ∧
    (c.release = [] → Ends (.orreryBatchPerformed die o.id) s fun t => (t.die die).kop o.id = none ∧ (t.die die).ctx o.ctx = none) := by
  have run : s.batchDone die o.id = if c.release.isEmpty then (s.releaseArea die c).finishK die o none else s := by
    unfold State.batchDone
    simp only [kop, applied, cmd, ctx, Bool.not_true, Bool.false_eq_true, if_false]
  refine ⟨fun more => congrArg Host.Outcome.next (run.trans (if_neg (by simpa using more))), fun empty => ?_⟩
  have filled := orrStays_fillFree c.amap s
  have long : die < (s.fillFree c.amap).dies.length := (stays_length filled).symm ▸ there
  have still : die < (s.releaseArea die c).dies.length := by
    unfold State.releaseArea
    simpa using long
  refine ⟨_, congrArg Host.Outcome.next (run.trans (if_pos (by simp [empty]))), finishK_gone still .., (finishK_ctx still ..).trans ?_⟩
  unfold State.releaseArea
  rw [die_updDie long]
  simp [Die.ctx, List.find?_eq_none, ctx_num ctx]

theorem putDone_ends {pa : Nat} {bytes : List Byte} (cmd : o.cmd = .put [(pa / 65536 * 65536, pa / 65536 * 65536)] pa bytes)
    (inside : pa % 65536 + bytes.length ≤ 65536) (some_ : bytes ≠ []) (linked : s.linkFailed pa = false)
    (free : ∀ k ∈ kibKeys [(pa / 65536 * 65536, pa / 65536 * 65536)] pa bytes.length, s.flows k ∧ isScratchKey k = false)
    (live : s.alive pa bytes.length) : Ends (.orreryBatchPerformed die o.id) s fun t =>
      (t.die die).kop o.id = none ∧ (t.die die).ctx o.ctx = some c ∧ t.holds pa bytes := by
  let y := s.touchRows (kibKeys [(pa / 65536 * 65536, pa / 65536 * 65536)] pa bytes.length)
  have written : y.writeIn [(pa / 65536 * 65536, pa / 65536 * 65536)] pa bytes = y.writeMem pa bytes := by
    unfold State.writeIn
    rw [joinRuns_page bytes pa (fun i small => by omega) some_]
    rfl
  have done : s.batchDone die o.id = (y.writeMem pa bytes).finishK die o none := by
    unfold State.batchDone
    simp only [kop, applied, cmd, Bool.not_true, Bool.false_eq_true, if_false]
    rw [keyIn_page rfl, linked, ← written]
    exact (if_neg (by decide)).trans (gateK_goes (reads := []) free _)
  have stays : OrrStays s (y.writeMem pa bytes) := orrStays_trans (orrStays_touchRows ..) (orrStays_writeMem ..)
  have long : die < (y.writeMem pa bytes).dies.length := (stays_length stays).symm ▸ there
  have alive : y.hbmDead pa = false := (hbmDead_of_fences (fences_touchRows ..) _).trans (live 0 (List.length_pos_of_ne_nil some_))
  exact ⟨_, congrArg Host.Outcome.next done, finishK_gone long .., (finishK_ctx long ..).trans ((ctx_of_stays stays ..).trans ctx),
    bytesAt_written ((finishK_mem ..).trans (writeMem_mem bytes alive))⟩

end
end

/-- Settles O50: what a command or a step makes of its context is a lemma about contexts alone; the contexts and commands of the die are followed
through the accesses, which keep them. -/
theorem orrerySteps : Obligations.OrrerySteps := by
  intro s die o c d there kop ctx after gone free becomes
  refine ⟨kvApply_held kop, fun may fresh => ⟨fun q cmd => ?_, fun p cmd => ?_, fun q cmd => ?_, fun p g l dst cmd => ?_, fun p g dst cmd => ?_,
      fun p g l cell cmd => kvwComplete_ends there kop ctx may cmd⟩,
    publish_node c, renew_expire c, file_node c, fun other => ?_, fun next due => ⟨fun alive => ⟨fun none behind => ?_, fun b r is => ?_, fun j r is => ?_⟩,
      fun ix first => releaseStep_ends there ctx next due first⟩,
    fun first clear => clearDone_ends there ctx first clear, fun child cc first found => forkDone_ends there first found,
    fun f base dst growing cmd applied first => slabPageMove_ends there ctx growing first,
    fun applied => ⟨fun src a n dst cmd => shareDone_ends there kop ctx applied cmd, fun dst cmd => freeDone_ends there kop ctx applied cmd,
      fun pa bytes cmd inside some_ linked flow live => putDone_ends there kop ctx applied cmd inside some_ linked flow live⟩⟩
  · exact position_becomes there kop ctx may fresh (.inl ⟨q, cmd, rfl⟩)
  · exact position_becomes there kop ctx may fresh (.inr (.inl ⟨p, cmd, rfl⟩))
  · exact position_becomes there kop ctx may fresh (.inr (.inr ⟨q, cmd, rfl⟩))
  · exact entry_becomes there kop ctx may fresh (.inl ⟨p, g, l, dst, cmd, rfl⟩)
  · exact entry_becomes there kop ctx may fresh (.inr ⟨p, g, dst, cmd, rfl⟩)
  · exact ⟨congrArg Host.Outcome.next (background_idle other ..), congrArg Host.Outcome.next (background_idle other ..)⟩
  · exact reclaimStep_ends there ctx next due (by simp [Ctx.reclaims, alive, behind]) (reclaim_advances c none behind)
  · exact reclaimStep_ends there ctx next due (by simp [Ctx.reclaims, alive, is]) (reclaim_splices c is)
  · exact reclaimStep_ends there ctx next due (by simp [Ctx.reclaims, alive, is]) (reclaim_moves c is)

end Sys2Proof.Proofs
end

section
/-!
PROOFS. The Almanac's messages: how they are laid out, and what each does to a round (R367 to R370).
-/

namespace Sys2Proof.Proofs
open Sys2Proof Sys2Proof.Machine

/-! ### The layout of a message (R367) -/

/-- The header of a message: its TYPE, its die, the entries of its delta, ITER, MASK and digest, the rest zero. -/
def MsgHead (bs : List Byte) (ty die dn : Nat) (iter : BitVec 32) (mask dig : Nat) : Prop :=
  fieldNat bs 0 1 = ty ∧ fieldNat bs 1 1 = die ∧ fieldNat bs 2 2 = dn ∧ fieldNat bs 4 4 = iter.toNat ∧ fieldNat bs 8 8 = mask ∧
    fieldNat bs 16 32 = dig ∧ fieldNat bs 48 16 = 0

/-- A header's fields, each with its width. -/
def almFields (ty die dn : Nat) (iter : BitVec 32) (mask : Nat) (dig : BitVec 256) : List (Nat × Nat) :=
  [(1, ty), (1, die), (2, dn), (4, iter.toNat), (8, mask), (32, dig.toNat), (16, 0)]

theorem almHeader_fields (ty die dn : Nat) (iter : BitVec 32) (mask : Nat) (dig : BitVec 256) :
    almHeader ty die dn iter mask dig = fieldsBytes (almFields ty die dn iter mask dig) := by
  simp [almHeader, fieldsBytes, almFields, List.append_assoc]

theorem almHeader_head {ty die dn : Nat} {mask : Nat} (type : ty < 256) (id : die < 256) (count : dn < 65536) (dies : mask < 2 ^ 64)
    (iter : BitVec 32) (dig : BitVec 256) (rest : List Byte) : MsgHead (almHeader ty die dn iter mask dig ++ rest) ty die dn iter mask dig.toNat := by
  rw [almHeader_fields]
  have iters : iter.toNat < 256 ^ 4 := iter.isLt
  have digest : dig.toNat < 256 ^ 32 := dig.isLt
  exact ⟨fieldNat_fields (l := []) rfl type rfl rest, fieldNat_fields (l := [(1, ty)]) rfl id rfl rest,
    fieldNat_fields (l := [(1, ty), (1, die)]) rfl count rfl rest, fieldNat_fields (l := [(1, ty), (1, die), (2, dn)]) rfl iters rfl rest,
    fieldNat_fields (l := [(1, ty), (1, die), (2, dn), (4, iter.toNat)]) rfl dies rfl rest,
    fieldNat_fields (l := [(1, ty), (1, die), (2, dn), (4, iter.toNat), (8, mask)]) rfl digest rfl rest,
    fieldNat_fields (l := [(1, ty), (1, die), (2, dn), (4, iter.toNat), (8, mask), (32, dig.toNat)]) rfl (by decide) rfl rest⟩

theorem shortMsg_head {ty die : Nat} (type : ty < 256) (id : die < 256) (iter : BitVec 32) : MsgHead (almHeader ty die 0 iter 0 0) ty die 0 iter 0 0 := by
  have h := almHeader_head type id (dn := 0) (mask := 0) (by decide) (by decide) iter 0 []
  rwa [List.append_nil] at h

theorem almHeader_length (ty die dn : Nat) (iter : BitVec 32) (mask : Nat) (dig : BitVec 256) : (almHeader ty die dn iter mask dig).length = 64 := by
  rw [almHeader_fields, length_fieldsBytes]
  rfl

/-- The slot images follow the header, each after its index (R367). -/
theorem prepare_delta (die : Nat) (m : AlmMsg) : (AlmStep.prepare die m).bytes.drop 64 = deltaBytes m.delta :=
  List.drop_left' (almHeader_length ..)

/-! ### The dies that serve -/

theorem liveDies_of_fenced {s t : State} (h : dieView Die.fenced t = dieView Die.fenced s) : t.liveDies = s.liveDies := by
  unfold State.liveDies
  simp only [die_of_dies_map (g := Die.fenced) h]

theorem master_of_fenced {s t : State} (h : dieView Die.fenced t = dieView Die.fenced s) : t.master = s.master := by
  unfold State.master
  simp only [die_of_dies_map (g := Die.fenced) h]

theorem master_lt (s : State) : s.master < 12 := by
  unfold State.master
  cases e : (List.range 12).find? fun d => !(s.die d).fenced with
  | none => decide
  | some d => exact List.mem_range.1 (List.mem_of_find?_eq_some e)

theorem almRound_some {s : State} {x : Nat} {o : AlmMsg} (h : s.almRound = some (x, o)) : x < 12 ∧ (s.die x).almOut = some o := by
  obtain ⟨d, here, e⟩ := List.exists_of_findSome?_eq_some h
  obtain ⟨y, out, pair⟩ := Option.map_eq_some_iff.1 e
  cases pair
  exact ⟨List.mem_range.1 here, out⟩

/-! ### A step that touches the ports alone -/

/-- Of memory, the dies, the messages, the writes held back and the host's side, nothing but the ports has changed. -/
structure PortsOnly (s t : State) : Prop where
  mem : t.mem = s.mem
  dies : t.dies = s.dies
  msgs : t.msgs = s.msgs
  late : t.late = s.late
  host : { t.host with ports := s.host.ports } = s.host

theorem portsOnly_refl (s : State) : PortsOnly s s := ⟨rfl, rfl, rfl, rfl, rfl⟩

theorem PortsOnly.trans {s t u : State} (h : PortsOnly s t) (k : PortsOnly t u) : PortsOnly s u :=
  ⟨k.mem.trans h.mem, k.dies.trans h.dies, k.msgs.trans h.msgs, k.late.trans h.late,
    (congrArg (fun x : HostSt => { x with ports := s.host.ports }) k.host).trans h.host⟩

theorem portsOnly_updPort (s : State) (p : Nat) (f : WPort → WPort) : PortsOnly s (s.updPort p f) := ⟨rfl, rfl, rfl, rfl, rfl⟩

theorem portsOnly_toPeers (m : AlmStep) (s : State) : PortsOnly s (s.toPeers m) := by
  unfold State.toPeers
  generalize s.gen.peers = l
  induction l generalizing s with
  | nil => exact portsOnly_refl s
  | cons p r ih => exact (portsOnly_updPort s p _).trans (ih _)

theorem PortsOnly.die {s t : State} (h : PortsOnly s t) (d : Nat) : t.die d = s.die d := die_of_dies h.dies d

/-! ### PREPARE and its answers (R368) -/

section
variable {s : State} {die : Nat} {iter : BitVec 32}

/-- A message that is not accepted leaves the list and does nothing else. -/
theorem ends_took {i : Instr} {q : AlmStep} (e : exec i s = .next (s.took q)) : Ends i s fun t => t = { s with msgs := s.msgs.erase q } := ⟨_, e, rfl⟩

theorem prepare_stores (package : s.dies.length = 12) {m : AlmMsg} (ok : s.prepareOk die m = true) : Ends (.prepare die m) s fun t => t.mem = s.mem ∧
    (t.die die).almDelta = some m ∧ (t.die die).almState = 1 ∧
    t.msgs = (s.tookPrepare die).msgs ++ [if Config.shake256 (deltaBytes m.delta) = m.digest then .ack die m.iter else .nack die m.iter] := by
  have there : die < 12 := by
    unfold State.prepareOk at ok
    simp only [Bool.and_eq_true, decide_eq_true_eq] at ok
    exact ok.1.1.1.1
  refine ⟨(s.tookPrepare die).prepareAt die m, congrArg Host.Outcome.next (if_pos ok), rfl, ?_⟩
  have stored := die_updDie (s := s.tookPrepare die) (package.symm ▸ there : die < s.dies.length) fun d => { d with almDelta := some m, almState := 1 }
  refine ⟨congrArg Die.almDelta stored, congrArg Die.almState stored, ?_⟩
  have answer : (if almDigestOk m then AlmStep.ack die m.iter else .nack die m.iter) =
      if Config.shake256 (deltaBytes m.delta) = m.digest then .ack die m.iter else .nack die m.iter := by simp only [almDigestOk, beq_iff_eq]
  exact congrArg (fun x => (s.tookPrepare die).msgs ++ [x]) answer

/-- The master's list of answers with one more. -/
def acked (s : State) (die : Nat) : State := s.updDie s.master fun d => { d with almAcks := (die :: d.almAcks).dedup }

theorem acked_fenced (s : State) (die : Nat) : dieView Die.fenced (acked s die) = dieView Die.fenced s := dies_map_updDie rfl

theorem acked_answers (package : s.dies.length = 12) (die : Nat) : die ∈ ((acked s die).die s.master).almAcks := by
  have e : ((acked s die).die s.master).almAcks = (die :: (s.die s.master).almAcks).dedup :=
    congrArg Die.almAcks (die_updDie (package.symm ▸ master_lt s : s.master < s.dies.length) _)
  rw [e, List.mem_dedup]
  exact List.mem_cons_self

theorem ackFrom_cases (s : State) (die : Nat) (iter : BitVec 32) : let t := s.ackFrom die iter; t.mem = s.mem ∧ t.dies = (acked s die).dies ∧
    t.msgs = s.msgs ++ if ((acked s die).die s.master).committed then s.liveDies.map (fun d => AlmStep.commit d { sender := s.master, iter := iter }) else [] := by
  have same : (acked s die).master = s.master := master_of_fenced (acked_fenced s die)
  have live : (acked s die).liveDies = s.liveDies := liveDies_of_fenced (acked_fenced s die)
  have e : s.ackFrom die iter = if ((acked s die).die (acked s die).master).committed then
      ({ acked s die with msgs := (acked s die).msgs ++ (acked s die).liveDies.map fun d => AlmStep.commit d { sender := s.master, iter := iter } } : State).toPeers
        (.commit s.master { sender := s.master, iter := iter })
    else acked s die := rfl
  intro t
  have unfolded : t = _ := e
  rw [same, live] at unfolded
  by_cases done : ((acked s die).die s.master).committed = true
  · rw [if_pos done] at unfolded ⊢
    have sent := portsOnly_toPeers (.commit s.master { sender := s.master, iter := iter })
      { acked s die with msgs := (acked s die).msgs ++ s.liveDies.map fun d => AlmStep.commit d { sender := s.master, iter := iter } }
    rw [unfolded]
    exact ⟨sent.mem, sent.dies, sent.msgs⟩
  · rw [if_neg done] at unfolded ⊢
    rw [unfolded, List.append_nil]
    exact ⟨rfl, rfl, rfl⟩

theorem ack_counts (package : s.dies.length = 12) (ok : s.answerOk die iter true = true) : Ends (.ack die iter) s fun t => t.mem = s.mem ∧
    die ∈ (t.die s.master).almAcks ∧ t.msgs = s.msgs.erase (.ack die iter) ++
      (if (t.die s.master).committed then s.liveDies.map fun d => AlmStep.commit d { sender := s.master, iter := iter } else []) := by
  refine ⟨(s.took (.ack die iter)).ackFrom die iter, congrArg Host.Outcome.next (if_pos ok), ?_⟩
  obtain ⟨mem, dies, msgs⟩ := ackFrom_cases (s.took (.ack die iter)) die iter
  have same : ((s.took (.ack die iter)).ackFrom die iter).die s.master = (acked (s.took (.ack die iter)) die).die s.master :=
    die_of_dies dies _
  rw [same]
  exact ⟨mem, acked_answers (s := s.took (.ack die iter)) package die, msgs⟩

end

end Sys2Proof.Proofs
end

section
/-!
PROOFS. The Almanac: a round that is tried again, a commit that is applied, an abort (R368 to R370).
-/

namespace Sys2Proof.Proofs
open Sys2Proof Sys2Proof.Machine

/-! ### A round that is tried again (R369; log entries 43 and 61) -/

section
variable {s : State}

/-- The PREPARE a master sends. -/
def preparedMsg (s : State) : AlmMsg :=
  let iter := (s.die s.master).almIter + 1
  let delta := s.collected iter
  { sender := s.master, iter := iter, mask := s.liveMask, digest := Config.shake256 (deltaBytes delta), delta := delta }

theorem preparedMsg_digest (s : State) : almDigestOk (preparedMsg s) = true := beq_self_eq_true _

/-- The master's die once its PREPARE is out. -/
def opened (s : State) (d : Die) : Die :=
  { d with almOut := some (preparedMsg s), almAcks := [], almPeers := s.gen.peers, almSince := d.cyc, almRing := s.host.ringSteps }

theorem sendPrepare_cases (s : State) : let t := s.sendPrepare; t.mem = s.mem ∧ t.dies = (s.updDie s.master (opened s)).dies ∧
    t.msgs = s.msgs ++ s.liveDies.map fun d => AlmStep.prepare d (preparedMsg s) := by
  have sent := portsOnly_toPeers (.prepare s.master (preparedMsg s))
    { s.updDie s.master (opened s) with msgs := s.msgs ++ s.liveDies.map fun d => AlmStep.prepare d (preparedMsg s) }
  exact ⟨sent.mem, sent.dies, sent.msgs⟩

/-- Two states whose dies serve alike and hold the same would send the same PREPARE. -/
theorem preparedMsg_congr {s t : State} (fenced : dieView Die.fenced t = dieView Die.fenced s) (pend : dieView Die.almPend t = dieView Die.almPend s)
    (iter : dieView Die.almIter t = dieView Die.almIter s) : preparedMsg t = preparedMsg s := by
  have held : t.collected = s.collected := by
    funext n
    unfold State.collected
    simp only [liveDies_of_fenced fenced, die_of_dies_map (g := Die.almPend) pend]
  unfold preparedMsg State.liveMask
  rw [liveDies_of_fenced fenced, master_of_fenced fenced, die_of_dies_map (g := Die.almIter) iter, held]

/-- A round tried again: ITER as before, nothing answered yet, the ABORT before the new PREPARE. -/
def Retried (s : State) (o : AlmMsg) (t : State) : Prop := t.mem = s.mem ∧ (t.die s.master).almRetry = 1 ∧ (t.die s.master).almAcks = [] ∧
  (∀ d < 12, d ≠ s.master → (t.die d).almOut = none) ∧ ∃ n : AlmMsg, (t.die s.master).almOut = some n ∧ n.sender = s.master ∧ n.iter = o.iter ∧
    n.mask = s.liveMask ∧ n.delta = s.collected o.iter ∧ almDigestOk n = true ∧
    t.msgs = (s.liveDies.map fun d => AlmStep.abort d { sender := s.master, iter := o.iter }) ++ s.liveDies.map fun d => AlmStep.prepare d n

/-- The round is over and its ABORT is out. -/
def aborted (s : State) (o : AlmMsg) : State :=
  ({ s.endRound with msgs := s.liveDies.map fun d => AlmStep.abort d { sender := s.master, iter := o.iter } } : State).toPeers
    (.abort s.master { sender := s.master, iter := o.iter })

theorem aborted_ports (s : State) (o : AlmMsg) :
    PortsOnly { s.endRound with msgs := s.liveDies.map fun d => AlmStep.abort d { sender := s.master, iter := o.iter } } (aborted s o) := portsOnly_toPeers ..

theorem rounds_aborted (s : State) (o : AlmMsg) : Rounds s (aborted s o) := ((rounds_endRound s).trans (rounds_msgs ..)).trans (rounds_toPeers ..)

theorem aborted_die (package : s.dies.length = 12) (o : AlmMsg) {d : Nat} (there : d < 12) :
    (aborted s o).die d = { s.die d with almOut := none, almAcks := [], almPeers := [] } :=
  die_map (f := fun d : Die => { d with almOut := none, almAcks := [], almPeers := [] }) (package.symm ▸ there : d < s.dies.length) (aborted_ports s o).dies

theorem restartRound_eq (s : State) (o : AlmMsg) : s.restartRound o = (aborted s o).sendPrepare := rfl

theorem restartRound_retried (package : s.dies.length = 12) {o : AlmMsg} (next : o.iter = (s.die s.master).almIter + 1) :
    Retried s o ((s.restartRound o).updDie s.master fun d => { d with almRetry := 1 }) := by
  have rounds := rounds_aborted s o
  have ports := aborted_ports s o
  have fenced := rounds.dies Die.fenced fun _ _ _ _ _ _ _ => rfl
  have same : (aborted s o).master = s.master := master_of_fenced fenced
  have live : (aborted s o).liveDies = s.liveDies := liveDies_of_fenced fenced
  have msg : preparedMsg (aborted s o) = preparedMsg s :=
    preparedMsg_congr fenced (rounds.dies Die.almPend fun _ _ _ _ _ _ _ => rfl) (rounds.dies Die.almIter fun _ _ _ _ _ _ _ => rfl)
  obtain ⟨mem, dies, msgs⟩ := sendPrepare_cases (aborted s o)
  rw [same] at dies
  rw [live, msg] at msgs
  rw [restartRound_eq]
  generalize (aborted s o).sendPrepare = u at mem dies msgs ⊢
  have length : (aborted s o).dies.length = 12 := (length_of_dieView fenced).trans package
  have long : u.dies.length = 12 := by rw [dies, State.updDie_dies, List.length_set, length]
  have lead := die_updDie (s := u) (long.symm ▸ master_lt s : s.master < u.dies.length) fun d => { d with almRetry := 1 }
  have before : u.die s.master = opened (aborted s o) ((aborted s o).die s.master) :=
    (die_of_dies dies _).trans (die_updDie (length.symm ▸ master_lt s : s.master < (aborted s o).dies.length) _)
  refine ⟨mem.trans ports.mem, congrArg Die.almRetry lead, (congrArg Die.almAcks lead).trans (congrArg Die.almAcks before), fun d there other => ?_,
    preparedMsg s, (congrArg Die.almOut lead).trans ((congrArg Die.almOut before).trans (congrArg some msg)), rfl, next.symm, rfl, ?_, preparedMsg_digest s, ?_⟩
  · have untouched : (u.updDie s.master fun d => { d with almRetry := 1 }).die d = (aborted s o).die d :=
      (die_updDie_other other _).trans ((die_of_dies dies d).trans (die_updDie_other other _))
    rw [untouched, aborted_die package o there]
  · rw [next]; rfl
  · exact msgs.trans (congrArg (· ++ _) ports.msgs)

theorem failRound_retried (package : s.dies.length = 12) {o : AlmMsg} (round : s.almRound = some (s.master, o)) (first : (s.die s.master).almRetry = 0)
    (next : o.iter = (s.die s.master).almIter + 1) : Retried s o s.failRound := by
  have e : s.failRound = (s.restartRound o).updDie s.master fun d => { d with almRetry := 1 } := by
    unfold State.failRound
    rw [round]
    exact if_pos first
  rw [e]
  exact restartRound_retried package next

/-- A NACK and a deadline that passes both fail the round. -/
theorem round_retried (package : s.dies.length = 12) {o : AlmMsg} {die : Nat} {iter : BitVec 32} (round : s.almRound = some (s.master, o))
    (first : (s.die s.master).almRetry = 0) (next : o.iter = (s.die s.master).almIter + 1) {i : Instr} (kind : i ∈ [Instr.nack die iter, .almanacAckTimeout])
    (nack : i = .nack die iter → s.answerOk die iter false = true) (due : i = .almanacAckTimeout → s.ackDue = true) : Ends i s (Retried s o) := by
  rcases List.mem_pair.1 kind with rfl | rfl
  · exact ⟨_, congrArg Host.Outcome.next (if_pos (nack rfl)), failRound_retried (s := s.took (.nack die iter)) package round first next⟩
  · exact ⟨_, congrArg Host.Outcome.next (if_pos (due rfl)), failRound_retried package round first next⟩

end

end Sys2Proof.Proofs
end

section
/-!
PROOFS. The Almanac: a commit that is applied, an abort (R368 to R370).
-/

namespace Sys2Proof.Proofs
open Sys2Proof Sys2Proof.Machine

/-! ### Writes of the device's own that are not held back (R357) -/

/-- What a write of the device's own keeps: the host's side, the frames that move, and of a die all but Pan's queue; writes held back only join. -/
structure DevWrote (s t : State) : Prop where
  late : ∃ more, t.late = s.late ++ more
  migs : t.migs = s.migs
  host : t.host = s.host
  dies : ∀ {α : Type} (g : Die → α), (∀ (d : Die) q, g { d with panq := q } = g d) → dieView g t = dieView g s

theorem devWrote_refl (s : State) : DevWrote s s := ⟨⟨[], (List.append_nil _).symm⟩, rfl, rfl, fun _ _ => rfl⟩

theorem DevWrote.trans {s t u : State} (h : DevWrote s t) (k : DevWrote t u) : DevWrote s u := by
  obtain ⟨a, ea⟩ := h.late
  obtain ⟨b, eb⟩ := k.late
  exact ⟨⟨a ++ b, by rw [eb, ea, List.append_assoc]⟩, k.migs.trans h.migs, k.host.trans h.host, fun g keeps => (k.dies g keeps).trans (h.dies g keeps)⟩

theorem devWrote_writeMem (s : State) (key : Nat) (bs : List Byte) : DevWrote s (s.writeMem key bs) :=
  ⟨⟨[], by simp⟩, ite_both (P := fun t : State => t.migs = s.migs) rfl (ite_both (P := fun t : State => t.migs = s.migs) rfl rfl), by simp,
    fun _ keeps => dieView_writeMem keeps ..⟩

theorem devWrote_devWrite (s : State) (key : Nat) (bs : List Byte) : DevWrote s (s.devWrite key bs) :=
  ite_both (P := DevWrote s) ⟨⟨_, rfl⟩, rfl, rfl, fun _ _ => rfl⟩ (devWrote_writeMem ..)

theorem devWrote_merWrites (n : Nat) (s : State) (key : Nat) (bs : List Byte) : DevWrote s (s.merWrites key bs n) := by
  induction n generalizing s key bs with
  | zero => exact devWrote_refl s
  | succ n ih => exact ite_both (P := DevWrote s) (devWrote_refl s) ((devWrote_devWrite ..).trans (ih ..))

theorem devWrote_writeSlots (base : Nat) (l : List (Nat × List Byte)) (s : State) : DevWrote s (s.writeSlots base l) := by
  induction l generalizing s with
  | nil => exact devWrote_refl s
  | cons x r ih => exact (devWrote_merWrites ..).trans (ih _)

/-- Bytes of HBM that a write of the device's own reaches at once. -/
structure Writable (s : State) (key n : Nat) : Prop where
  alive : s.alive key n
  free : ∀ j < n, s.migHeld (key + j) = false
  inside : key + n ≤ hbmBytes

theorem DevWrote.writable {s t : State} (h : DevWrote s t) {key n : Nat} (w : Writable s key n) : Writable t key n := by
  have fenced : fences t = fences s := congrArg₂ Prod.mk (congrArg HostSt.excluded h.host) (h.dies Die.fenced fun _ _ => rfl)
  refine ⟨fun i inside => (hbmDead_of_fences fenced _).trans (w.alive i inside), fun j inside => ?_, w.inside⟩
  rw [← w.free j inside]
  unfold State.migHeld State.frameLocked
  rw [h.migs, h.host]

theorem Writable.skip {s : State} {key n : Nat} (w : Writable s key n) {m : Nat} (part : m ≤ n) : Writable s (key + m) (n - m) where
  alive i inside := by
    have h := w.alive (m + i) (by omega)
    rwa [← Nat.add_assoc] at h
  free j inside := by
    have h := w.free (m + j) (by omega)
    rwa [← Nat.add_assoc] at h
  inside := by have := w.inside; omega

theorem devWrite_writable {s : State} {key n : Nat} (w : Writable s key n) (some : 0 < n) (idle : s.late = []) (bs : List Byte) :
    s.devWrite key bs = s.writeMem key bs ∧ s.hbmDead key = false := by
  have small : key < 2 ^ 52 := by
    have := w.inside
    have size : hbmBytes < 2 ^ 52 := by decide
    omega
  have held : s.holdsLate key = false := by
    have free : s.migHeld key = false := w.free 0 some
    have link : s.linkDown key = false := by
      have here : ¬ cxlBase ≤ key := Nat.not_le.2 small
      simp [State.linkDown, here]
    simp [State.holdsLate, idle, free, link]
  exact ⟨if_neg (by simp [held]), w.alive 0 some⟩

/-- A write that was made: nothing is held back, the bytes stand at their key, no other byte changed. -/
structure Stored (key : Nat) (bs : List Byte) (s t : State) : Prop where
  idle : t.late = []
  holds : t.holds key bs
  frame : s.sameMemoryBut key bs.length t

theorem holds_append {s : State} {key : Nat} {a b : List Byte} (front : s.holds key a) (back : s.holds (key + a.length) b) : s.holds key (a ++ b) := by
  unfold State.holds at front back ⊢
  rw [List.length_append, bytesAt_append, front, back]

theorem holds_same {s t : State} {key : Nat} {bs : List Byte} (h : s.holds key bs) (same : ∀ i < bs.length, t.byte (key + i) = s.byte (key + i)) :
    t.holds key bs := (bytesAt_congr same).trans h

theorem writeMem_stored {s : State} {key : Nat} {bs : List Byte} (idle : s.late = []) (live : s.hbmDead key = false) :
    Stored key bs s (s.writeMem key bs) :=
  ⟨by rw [writeMem_late, idle], bytesAt_writeMem live, fun _ out => byte_writeMem_other out⟩

theorem merWrites_stored (n : Nat) {s : State} {key : Nat} {bs : List Byte} (fuel : key % 8 + bs.length ≤ 8 * n) (w : Writable s key bs.length)
    (idle : s.late = []) : Stored key bs s (s.merWrites key bs n) := by
  induction n generalizing s key bs with
  | zero =>
    obtain rfl : bs = [] := List.length_eq_zero_iff.1 (by omega)
    exact ⟨idle, rfl, fun _ _ => rfl⟩
  | succ n ih =>
    by_cases empty : bs = []
    · subst empty
      exact ⟨idle, rfl, fun _ _ => rfl⟩
    have some : 0 < bs.length := List.length_pos_iff.2 empty
    have e : s.merWrites key bs (n + 1) = (s.devWrite key (bs.take (8 - key % 8))).merWrites (key + (8 - key % 8)) (bs.drop (8 - key % 8)) n :=
      if_neg (by simpa using empty)
    obtain ⟨direct, live⟩ := devWrite_writable w some idle (bs.take (8 - key % 8))
    have wrote := devWrote_writeMem s key (bs.take (8 - key % 8))
    obtain ⟨idle1, front, frame1⟩ := writeMem_stored (bs := bs.take (8 - key % 8)) idle live
    rw [e, direct]
    generalize s.writeMem key (bs.take (8 - key % 8)) = u at wrote idle1 front frame1 ⊢
    rw [List.length_take] at frame1
    rcases Nat.le_total bs.length (8 - key % 8) with last | more
    · have done : u.merWrites (key + (8 - key % 8)) (bs.drop (8 - key % 8)) n = u := by
        rw [List.drop_eq_nil_of_le last]
        cases n <;> rfl
      rw [Nat.min_eq_right last] at frame1
      rw [List.take_of_length_le last] at front
      rw [done]
      exact ⟨idle1, front, frame1⟩
    · rw [Nat.min_eq_left more] at frame1
      have length : (bs.drop (8 - key % 8)).length = bs.length - (8 - key % 8) := List.length_drop
      have rest := ih (key := key + (8 - key % 8)) (bs := bs.drop (8 - key % 8)) (by omega) (length ▸ wrote.writable (w.skip more)) idle1
      refine ⟨rest.idle, ?_, fun k out => (rest.frame k (by omega)).trans (frame1 k (by omega))⟩
      have joined := holds_append (s := u.merWrites (key + (8 - key % 8)) (bs.drop (8 - key % 8)) n) (key := key) (a := bs.take (8 - key % 8))
        (b := bs.drop (8 - key % 8)) (holds_same front fun i inside => rest.frame _ (.inl ?_)) ?_
      · rwa [List.take_append_drop] at joined
      · rw [List.length_take] at inside
        omega
      · rw [List.length_take, Nat.min_eq_left more]
        exact rest.holds

theorem merWrite_stored {s : State} {key : Nat} {bs : List Byte} (w : Writable s key bs.length) (idle : s.late = []) :
    Stored key bs s (s.merWrite key bs) := merWrites_stored _ (by omega) w idle

/-! ### The slots of a delta (R366, R368) -/

/-- Whether a slot of a delta can be written at once. -/
def SlotOpen (s : State) (base : Nat) (z : Nat × List Byte) : Prop := z.2.length = 64 ∧ Writable s (base + 64 * z.1) 64

theorem writeSlots_stored (base : Nat) (l : List (Nat × List Byte)) {s : State} (slots : ∀ z ∈ l, SlotOpen s base z) (once : (l.map (·.1)).Nodup)
    (idle : s.late = []) : let t := s.writeSlots base l; t.late = [] ∧ (∀ z ∈ l, t.holds (base + 64 * z.1) z.2) ∧
      ∀ k, (∀ z ∈ l, k < base + 64 * z.1 ∨ base + 64 * z.1 + 64 ≤ k) → t.byte k = s.byte k := by
  induction l generalizing s with
  | nil => exact ⟨idle, nofun, fun _ _ => rfl⟩
  | cons x r ih =>
    obtain ⟨size, w⟩ := slots x List.mem_cons_self
    obtain ⟨fresh, rest⟩ := List.nodup_cons.1 once
    have wrote : DevWrote s (s.merWrite (base + 64 * x.1) x.2) := devWrote_merWrites ..
    obtain ⟨idle1, front, frame1⟩ := merWrite_stored (size.symm ▸ w : Writable s (base + 64 * x.1) x.2.length) idle
    have open1 : ∀ z ∈ r, SlotOpen (s.merWrite (base + 64 * x.1) x.2) base z := fun z m =>
      ⟨(slots z (List.mem_cons_of_mem _ m)).1, wrote.writable (slots z (List.mem_cons_of_mem _ m)).2⟩
    obtain ⟨idle2, hold2, frame2⟩ := ih open1 rest idle1
    rw [size] at frame1
    refine ⟨idle2, fun z m => ?_, fun k out => ?_⟩
    · rcases List.mem_cons.1 m with rfl | later
      · refine holds_same front fun i inside => frame2 _ fun y m => ?_
        have other : y.1 ≠ z.1 := fun e => fresh (List.mem_map.2 ⟨y, m, e⟩)
        omega
      · exact hold2 z later
    · exact (frame2 k fun z m => out z (List.mem_cons_of_mem _ m)).trans (frame1 k (out x List.mem_cons_self))

/-! ### COMMIT (R368, R370) -/

section
variable {s : State} {die : Nat}

theorem applied_held {m : AlmMsg} (delta : (s.die die).almDelta = some m) (held : s.replicaHeld die = true) : s.applied die = s := by
  unfold State.applied
  rw [delta]
  exact if_pos (.inr held)

/-- A die that has applied a delta. -/
def appliedDie (m : AlmMsg) (d : Die) : Die :=
  { d with almDelta := none, almState := 0, almIter := m.iter, almRetry := 0, almPend := d.almPend.filter fun h => h.iter == m.iter + 1 }

theorem applied_done (there : die < s.dies.length) {m : AlmMsg} (delta : (s.die die).almDelta = some m) (applying : (s.die die).almState = 2)
    (free : s.replicaHeld die = false) : let t := s.applied die
    t.mem = s.mem ∧ (t.die die).almIter = m.iter ∧ (t.die die).almState = 0 ∧ (t.die die).almDelta = none := by
  have e : s.applied die = (let s1 := s.updDie die (appliedDie m); if s1.liveDies.any fun d => (s1.die d).almState != 0 then s1 else s1.endRound) := by
    unfold State.applied
    rw [delta]
    exact if_neg (by simp [applying, free])
  have now := die_updDie there (appliedDie m)
  intro t
  have unfolded : t = _ := e
  rw [unfolded]
  refine ite_both (P := fun t : State => t.mem = s.mem ∧ (t.die die).almIter = m.iter ∧ (t.die die).almState = 0 ∧ (t.die die).almDelta = none)
    ⟨rfl, by rw [now]; exact ⟨rfl, rfl, rfl⟩⟩ ⟨rfl, ?_⟩
  have kept {α : Type} (g : Die → α) (keeps : ∀ (d : Die) o a p n c r, g { d with almOut := o, almAcks := a, almPeers := p, almSince := n, almRing := c, almRetry := r } = g d) :
      g (((s.updDie die (appliedDie m)).endRound).die die) = g ((s.updDie die (appliedDie m)).die die) :=
    die_of_dies_map ((rounds_endRound _).dies g keeps) die
  rw [kept Die.almIter fun _ _ _ _ _ _ _ => rfl, kept Die.almState fun _ _ _ _ _ _ _ => rfl, kept Die.almDelta fun _ _ _ _ _ _ _ => rfl, now]
  exact ⟨rfl, rfl, rfl⟩

/-- A die whose delta is being applied, its writes made or held back. -/
def applying (s : State) (die : Nat) (d : AlmMsg) : State :=
  (s.writeSlots (s.die die).almBase d.delta).updDie die fun x => { x with almState := 2 }

theorem commitAt_eq {d : AlmMsg} (delta : (s.die die).almDelta = some d) : s.commitAt die = (applying s die d).applied die := by
  unfold State.commitAt
  rw [delta]
  rfl

theorem applying_die (there : die < s.dies.length) (d : AlmMsg) : let x := (applying s die d).die die
    x.almState = 2 ∧ x.almDelta = (s.die die).almDelta ∧ x.almIter = (s.die die).almIter ∧ x.almBase = (s.die die).almBase := by
  have wrote := devWrote_writeSlots (s.die die).almBase d.delta s
  have there1 : die < (s.writeSlots (s.die die).almBase d.delta).dies.length :=
    (length_of_dieView (wrote.dies Die.fenced fun _ _ => rfl)).symm ▸ there
  intro x
  have now : x = _ := die_updDie there1 fun x => { x with almState := 2 }
  have kept {α : Type} (g : Die → α) (keeps : ∀ (d : Die) q, g { d with panq := q } = g d) :
      g ((s.writeSlots (s.die die).almBase d.delta).die die) = g (s.die die) := die_of_dies_map (wrote.dies g keeps) die
  rw [now]
  exact ⟨rfl, kept Die.almDelta fun _ _ => rfl, kept Die.almIter fun _ _ => rfl, kept Die.almBase fun _ _ => rfl⟩

theorem applying_held (there : die < s.dies.length) (d : AlmMsg) (held : s.replicaHeld die = true) : (applying s die d).replicaHeld die = true := by
  obtain ⟨-, -, -, base⟩ := applying_die there d
  obtain ⟨more, late⟩ := (devWrote_writeSlots (s.die die).almBase d.delta s).late
  have joined : (applying s die d).late = s.late ++ more := late
  unfold State.replicaHeld at held ⊢
  rw [base, joined, List.any_append]
  exact Bool.or_eq_true_iff.2 (.inl held)

variable {q : AlmEnd}

theorem commitOk_there (ok : s.commitOk die q.iter = true) : die < 12 ∧ ∀ d, (s.die die).almDelta = some d → d.iter = q.iter := by
  unfold State.commitOk at ok
  simp only [Bool.and_eq_true, decide_eq_true_eq] at ok
  obtain ⟨⟨⟨⟨there, -⟩, -⟩, same⟩, -⟩ := ok
  refine ⟨there, fun d delta => ?_⟩
  rw [delta] at same
  exact beq_iff_eq.1 same

theorem commit_run (ok : s.commitOk die q.iter = true) {d : AlmMsg} (delta : (s.die die).almDelta = some d) :
    exec (.commit die q) s = .next ((applying (s.took (.commit die q)) die d).applied die) :=
  congrArg Host.Outcome.next ((if_pos ok).trans (commitAt_eq (s := s.took (.commit die q)) delta))

theorem commit_held (package : s.dies.length = 12) (ok : s.commitOk die q.iter = true) {d : AlmMsg} (delta : (s.die die).almDelta = some d)
    (held : s.replicaHeld die = true) : Ends (.commit die q) s fun t => (t.die die).almState = 2 ∧ (t.die die).almIter = (s.die die).almIter := by
  have there : die < (s.took (.commit die q)).dies.length := package.symm ▸ (commitOk_there ok).1
  obtain ⟨state, kept, iter, -⟩ := applying_die there d
  have waits := applying_held there d held
  refine ⟨_, commit_run ok delta, ?_⟩
  rw [applied_held (kept.trans delta) waits]
  exact ⟨state, iter⟩

theorem commit_applied (package : s.dies.length = 12) (ok : s.commitOk die q.iter = true) {d : AlmMsg} (delta : (s.die die).almDelta = some d)
    (idle : s.late = []) (once : (d.delta.map (·.1)).Nodup)
    (slots : ∀ z ∈ d.delta, z.1 < 4096 ∧ SlotOpen s (s.die die).almBase z) : Ends (.commit die q) s fun t =>
      (∀ z ∈ d.delta, t.holds ((s.die die).almBase + 64 * z.1) z.2) ∧ (t.die die).almIter = q.iter ∧ (t.die die).almState = 0 ∧
        (t.die die).almDelta = none ∧ s.sameMemoryBut (s.die die).almBase 262144 t := by
  have there : die < (s.took (.commit die q)).dies.length := package.symm ▸ (commitOk_there ok).1
  obtain ⟨state, kept, -, -⟩ := applying_die there d
  have open1 : ∀ z ∈ d.delta, SlotOpen (s.took (.commit die q)) (s.die die).almBase z := fun z m =>
    ⟨(slots z m).2.1, (slots z m).2.2.alive, (slots z m).2.2.free, (slots z m).2.2.inside⟩
  obtain ⟨idle1, holds, frame⟩ := writeSlots_stored (s.die die).almBase d.delta (s := s.took (.commit die q)) open1 once idle
  have free : (applying (s.took (.commit die q)) die d).replicaHeld die = false := by
    unfold State.replicaHeld
    rw [show (applying (s.took (.commit die q)) die d).late = [] from idle1]
    rfl
  have there1 : die < (applying (s.took (.commit die q)) die d).dies.length := by
    have wrote := devWrote_writeSlots (s.die die).almBase d.delta (s.took (.commit die q))
    unfold applying
    rw [State.updDie_dies, List.length_set]
    exact (length_of_dieView (wrote.dies Die.fenced fun _ _ => rfl)).symm ▸ there
  obtain ⟨mem, iter, done, gone⟩ := applied_done there1 (kept.trans delta) state free
  refine ⟨_, commit_run ok delta, fun z m => ?_, iter.trans ((commitOk_there ok).2 d delta), done, gone, fun k out => ?_⟩
  · refine holds_same (holds z m) fun i _ => ?_
    unfold State.byte
    rw [mem]
    rfl
  · have byte : ((applying (s.took (.commit die q)) die d).applied die).byte k = ((s.took (.commit die q)).writeSlots (s.die die).almBase d.delta).byte k := by
      unfold State.byte
      rw [mem]
      rfl
    refine byte.trans (frame k fun z m => ?_)
    have := (slots z m).1
    omega

/-! ### ABORT (R369) -/

theorem abort_discards (package : s.dies.length = 12) (there : die < 12) (open_ : s.dies.any Die.committed = false) {d : AlmMsg}
    (delta : (s.die die).almDelta = some d) : Ends (.abort die q) s fun t => t.mem = s.mem ∧
      (d.iter = q.iter → (s.die die).almState = 1 → (t.die die).almDelta = none ∧ (t.die die).almState = 0) ∧
      (d.iter ≠ q.iter → (t.die die).almDelta = some d) := by
  have run : exec (.abort die q) s = .next ((s.took (.abort die q)).abortAt die q.iter) := congrArg Host.Outcome.next (if_pos (by simp [there, open_]))
  have e : (s.took (.abort die q)).abortAt die q.iter = if d.iter = q.iter ∧ (s.die die).almState = 1 then
      (s.took (.abort die q)).updDie die fun x => { x with almDelta := none, almState := 0 } else s.took (.abort die q) := by
    unfold State.abortAt
    rw [show ((s.took (.abort die q)).die die).almDelta = some d from delta]
    rfl
  refine ⟨_, run, ?_⟩
  rw [e]
  by_cases named : d.iter = q.iter ∧ (s.die die).almState = 1
  · have now := die_updDie (s := s.took (.abort die q)) (package.symm ▸ there : die < s.dies.length) fun x => { x with almDelta := none, almState := 0 }
    rw [if_pos named]
    exact ⟨rfl, fun _ _ => ⟨congrArg Die.almDelta now, congrArg Die.almState now⟩, fun other => absurd named.1 other⟩
  · rw [if_neg named]
    exact ⟨rfl, fun same state => absurd ⟨same, state⟩ named, fun _ => delta⟩

end

end Sys2Proof.Proofs
end

section
/-!
PROOFS. The fabric: flits, replay and lane repair (R374 to R376).
-/

namespace Sys2Proof.Proofs
open Sys2Proof Sys2Proof.Machine

/-! ### What sending leaves of a port -/

/-- A port without its replay buffer, its next number and what waits to be sent. -/
def portView (x : WPort) : WPort := { x with replay := [], txSeq := 0, txq := [] }

/-- Nothing of a port but its replay buffer, its next number and what waits to be sent differs. -/
def Pumped (x y : WPort) : Prop := portView y = portView x

theorem pumped_refl (x : WPort) : Pumped x x := rfl

theorem Pumped.trans {x y z : WPort} (h : Pumped x y) (k : Pumped y z) : Pumped x z := Eq.trans k h

theorem pumped_pump (l : List (Nat × List Byte)) (x : WPort) : Pumped x (x.pump l) := by
  induction l generalizing x with
  | nil => rfl
  | cons y r ih => exact ite_both (P := Pumped x) rfl (Eq.trans (ih _) rfl)

theorem Pumped.st {x y : WPort} (h : Pumped x y) : y.st = x.st := (congrArg WPort.st h :)
theorem Pumped.lanes {x y : WPort} (h : Pumped x y) : y.lanes = x.lanes := (congrArg WPort.lanes h :)
theorem Pumped.dropQ {x y : WPort} (h : Pumped x y) : y.dropQ = x.dropQ := (congrArg WPort.dropQ h :)
theorem Pumped.fails {x y : WPort} (h : Pumped x y) : y.fails = x.fails := (congrArg WPort.fails h :)
theorem Pumped.rpr {x y : WPort} (h : Pumped x y) : y.rpr = x.rpr := (congrArg WPort.rpr h :)
theorem Pumped.counts {x y : WPort} (h : Pumped x y) : y.seen = x.seen ∧ y.fixed = x.fixed := ⟨(congrArg WPort.seen h :), (congrArg WPort.fixed h :)⟩
theorem Pumped.received {x y : WPort} (h : Pumped x y) : y.rxSeq = x.rxSeq ∧ y.rx = x.rx ∧ y.nak = x.nak :=
  ⟨(congrArg WPort.rxSeq h :), (congrArg WPort.rx h :), (congrArg WPort.nak h :)⟩

@[simp] theorem wport_updPort (s : State) (p : Nat) (f : WPort → WPort) : (s.updPort p f).wport p = f (s.wport p) := sparse_get_set_same ..

theorem wport_updPort_other (s : State) {p q : Nat} (other : q ≠ p) (f : WPort → WPort) : (s.updPort p f).wport q = s.wport q := sparse_get_set_other _ _ other

theorem pumped_sendBytes (s : State) (p ty : Nat) (bs : List Byte) (q : Nat) : Pumped (s.wport q) ((s.sendBytes p ty bs).wport q) := by
  unfold State.sendBytes
  by_cases here : q = p
  · subst here
    rw [wport_updPort]
    exact pumped_pump ..
  · rw [wport_updPort_other s here]
    exact pumped_refl _

/-! ### Data passed to a neighbour (R380, R381) -/

/-- Nothing has changed but what the engine has passed on, the ports' queues and whether the collective has passed its part up. -/
structure Passed (s t : State) : Prop where
  mem : t.mem = s.mem
  dies : t.dies = s.dies
  late : t.late = s.late
  ports : ∀ q, Pumped (s.wport q) (t.wport q)
  out : s.host.fabOut <+: t.host.fabOut
  coll : ∃ sent : Coll → Bool, t.host.coll = s.host.coll.map fun c => { c with upSent := sent c }
  host : { t.host with ports := s.host.ports, fabOut := s.host.fabOut, coll := s.host.coll } = s.host

theorem coll_same (o : Option Coll) : o = o.map fun c => { c with upSent := c.upSent } := by cases o <;> rfl

theorem passed_refl (s : State) : Passed s s := ⟨rfl, rfl, rfl, fun _ => pumped_refl _, List.prefix_rfl, ⟨Coll.upSent, coll_same _⟩, rfl⟩

theorem Passed.trans {s t u : State} (h : Passed s t) (k : Passed t u) : Passed s u := by
  obtain ⟨f, hf⟩ := h.coll
  obtain ⟨g, hg⟩ := k.coll
  refine ⟨k.mem.trans h.mem, k.dies.trans h.dies, k.late.trans h.late, fun q => (h.ports q).trans (k.ports q), h.out.trans k.out,
    ⟨fun c => g { c with upSent := f c }, ?_⟩,
    (congrArg (fun x : HostSt => { x with ports := s.host.ports, fabOut := s.host.fabOut, coll := s.host.coll }) k.host).trans h.host⟩
  rw [hg, hf, Option.map_map]
  rfl

theorem passTo_passed (s : State) (e key : Nat) (bs : List Byte) : Passed s (s.passTo e key bs) ∧
    (s.passTo e key bs).host.fabOut = s.host.fabOut ++ [(key, bs)] ∧ (s.passTo e key bs).host.coll = s.host.coll := by
  unfold State.passTo
  extract_lets src s1
  have noted : Passed s s1 := ⟨rfl, rfl, rfl, fun _ => pumped_refl _, List.prefix_append .., ⟨Coll.upSent, coll_same _⟩, rfl⟩
  split
  next p _ => exact ⟨noted.trans ⟨rfl, rfl, rfl, pumped_sendBytes s1 p 3 bs, List.prefix_rfl, ⟨Coll.upSent, coll_same _⟩, rfl⟩, rfl, rfl⟩
  next => exact ⟨noted, rfl, rfl⟩

theorem passUp_passed (s : State) : Passed s s.passUp := by
  unfold State.passUp
  split
  · exact passed_refl s
  next c running =>
    extract_lets root kids
    split
    · exact passed_refl s
    next up _ =>
      refine ite_both (P := Passed s) (passed_refl s) (Passed.trans ?_ (passTo_passed ..).1)
      exact ⟨rfl, rfl, rfl, fun _ => pumped_refl _, List.prefix_rfl, ⟨fun _ => true, by rw [running]; rfl⟩, rfl⟩

/-! ### A port that goes down (R375) -/

section
variable {s : State} {port : Nat}

theorem portDown_down (s : State) (port : Nat) : (s.portDown port).mem = s.mem ∧ ((s.portDown port).wport port).st = 0 ∧ ((s.portDown port).wport port).lanes = 0 := by
  have down : ((s.updPort port fun x => { x with st := 0, lanes := 0, dropQ := [] }).wport port).st = 0 ∧
      ((s.updPort port fun x => { x with st := 0, lanes := 0, dropQ := [] }).wport port).lanes = 0 := by
    rw [wport_updPort]
    exact ⟨rfl, rfl⟩
  unfold State.portDown
  extract_lets s1 e
  split
  · exact ⟨rfl, down⟩
  next c _ =>
    refine ite_both (P := fun t : State => t.mem = s.mem ∧ (t.wport port).st = 0 ∧ (t.wport port).lanes = 0) ?_ ⟨rfl, down⟩
    have passed := passUp_passed { s1 with host := { s1.host with coll := some { c with miss := c.miss ++ [e] } } }
    exact ⟨passed.mem, (passed.ports port).st.trans down.1, (passed.ports port).lanes.trans down.2⟩

/-! ### Lanes that are dropped (R376) -/

theorem dropLane_wide (wide : 2 < laneCount (s.wport port).lanes) (lane : Nat) :
    s.dropLane port lane = s.updPort port fun x => { x with st := 3, dropQ := x.dropQ ++ [lane] } := if_neg (Nat.not_le.2 wide)

theorem dropLane_narrow (narrow : laneCount (s.wport port).lanes ≤ 2) (lane : Nat) : s.dropLane port lane = s.portDown port := if_pos narrow

theorem dropLane_mem (s : State) (port lane : Nat) : (s.dropLane port lane).mem = s.mem :=
  ite_both (P := fun t : State => t.mem = s.mem) (portDown_down s port).1 rfl

theorem laneDrop_refused {lane : Nat} (refused : port ≥ 48 ∨ (s.wport port).up = false ∨ (s.wport port).lanes.getLsbD lane = false ∨ lane ∈ (s.wport port).dropQ) :
    exec (.laneDrop port lane) s = .next s := by
  refine congrArg Host.Outcome.next (if_neg ?_)
  simp only [Bool.and_eq_true, decide_eq_true_eq, Bool.not_eq_true', List.contains_eq_mem, decide_eq_false_iff_not]
  rintro ⟨⟨⟨there, up⟩, used⟩, fresh⟩
  rcases refused with out | down | unused | waiting
  · omega
  · exact absurd up (by simp [down])
  · exact absurd used (by simp [unused])
  · exact fresh waiting

theorem laneDrop_ends {lane : Nat} (there : port < 48) (up : (s.wport port).up = true) (used : (s.wport port).lanes.getLsbD lane = true)
    (fresh : lane ∉ (s.wport port).dropQ) : Ends (.laneDrop port lane) s fun t => t.mem = s.mem ∧
      (laneCount (s.wport port).lanes ≤ 2 → (t.wport port).st = 0 ∧ (t.wport port).lanes = 0) ∧
      (2 < laneCount (s.wport port).lanes → t.wport port = { s.wport port with st := 3, dropQ := (s.wport port).dropQ ++ [lane] }) := by
  refine ⟨s.dropLane port lane, congrArg Host.Outcome.next (if_pos (by simp [there, up, used, fresh])), dropLane_mem .., fun narrow => ?_, fun wide => ?_⟩
  · rw [dropLane_narrow narrow]
    exact (portDown_down s port).2
  · rw [dropLane_wide wide, wport_updPort]

/-! ### A width switch, a retraining, a NAK (R375, R376) -/

theorem switch_refused (refused : port ≥ 48 ∨ (s.wport port).st ≠ 3 ∨ (s.wport port).replay ≠ []) : exec (.laneWidthSwitch port) s = .next s := by
  refine congrArg Host.Outcome.next (if_neg ?_)
  simp only [Bool.and_eq_true, decide_eq_true_eq, beq_iff_eq, List.isEmpty_iff]
  rintro ⟨⟨there, pending⟩, drained⟩
  rcases refused with out | st | replay
  · omega
  · exact st pending
  · exact replay drained

/-- A lane leaves the mask of those in use. -/
theorem lane_leaves (m : BitVec 4) (l : Nat) {j : Nat} (lane : j < 4) : (m &&& ~~~(1#4 <<< l)).getLsbD j = (m.getLsbD j && j != l) := by
  have one : (1#4 <<< l).getLsbD j = decide (j = l) := by
    rw [BitVec.getLsbD_shiftLeft, BitVec.getLsbD_one]
    by_cases h : j = l
    · subst h
      simp [lane]
    · by_cases below : j < l
      · simp [below, h]
      · simp [h, show j - l ≠ 0 by omega]
  rw [BitVec.getLsbD_and, BitVec.getLsbD_not, one]
  by_cases h : j = l <;> simp [h, lane]

theorem isEmpty_ite {α β : Type} (l : List α) (a b : β) : (if l.isEmpty then a else b) = if l = [] then a else b := by cases l <;> rfl

theorem switch_ends {l : Nat} {r : List Nat} (there : port < 48) (pending : (s.wport port).st = 3) (drained : (s.wport port).replay = [])
    (queue : (s.wport port).dropQ = l :: r) (wide : 2 < laneCount (s.wport port).lanes) : Ends (.laneWidthSwitch port) s fun t => t.mem = s.mem ∧
      (t.wport port).dropQ = r ∧ (t.wport port).st = (if r = [] then 2 else 3) ∧ (t.wport port).rpr = min ((s.wport port).rpr + 1) 255 ∧
      ∀ j < 4, (t.wport port).lanes.getLsbD j = ((s.wport port).lanes.getLsbD j && j != l) := by
  refine ⟨s.switchWidth port, congrArg Host.Outcome.next (if_pos (by simp [there, pending, drained])), ?_⟩
  have e : s.switchWidth port = s.updPort port fun x =>
      let y := { x with lanes := x.lanes &&& ~~~(1#4 <<< l), dropQ := r, rpr := min (x.rpr + 1) 255, st := if r.isEmpty then 2 else 3 }
      y.pump y.txq := by
    unfold State.switchWidth
    simp only [queue]
    exact if_neg (Nat.not_le.2 wide)
  rw [e]
  beta_reduce
  rw [wport_updPort]
  generalize s.wport port = p
  have kept := pumped_pump p.txq { p with lanes := p.lanes &&& ~~~(1#4 <<< l), dropQ := r, rpr := min (p.rpr + 1) 255, st := if r.isEmpty then 2 else 3 }
  exact ⟨rfl, kept.dropQ, kept.st.trans (isEmpty_ite ..), kept.rpr, fun j lane => (congrArg (BitVec.getLsbD · j) kept.lanes).trans (lane_leaves _ _ lane)⟩

theorem retrain_refused (refused : port ≥ 48 ∨ (s.wport port).st ≠ 1) (x : Bool) : exec (.portRetrain port x) s = .next s := by
  refine congrArg Host.Outcome.next (if_neg ?_)
  simp only [Bool.and_eq_true, decide_eq_true_eq, beq_iff_eq]
  rintro ⟨there, training⟩
  rcases refused with out | st
  · omega
  · exact st training

theorem retrain_ends (there : port < 48) (training : (s.wport port).st = 1) (x : Bool) : Ends (.portRetrain port x) s fun t => t.mem = s.mem ∧
    (x = false → (t.wport port).st = 0 ∧ (t.wport port).lanes = 0) ∧
    (x = true → (t.wport port).st = (if (s.wport port).dropQ = [] then 2 else 3) ∧ (t.wport port).fails = 0 ∧ (t.wport port).lanes = (s.wport port).lanes) := by
  have run : exec (.portRetrain port x) s = .next (s.retrainPort port x) := congrArg Host.Outcome.next (if_pos (by simp [there, training]))
  refine ⟨_, run, ?_⟩
  cases x with
  | false => exact ⟨(portDown_down s port).1, fun _ => (portDown_down s port).2, nofun⟩
  | true =>
    refine ⟨rfl, nofun, fun _ => ?_⟩
    unfold State.retrainPort
    rw [if_pos rfl, wport_updPort]
    generalize s.wport port = p
    have kept := pumped_pump p.txq { p with st := if p.dropQ.isEmpty then 2 else 3, fails := 0, nakSeq := none
                                            rply := if p.replay.isEmpty then p.rply else min (p.rply + 1) 65535 }
    exact ⟨kept.st.trans (isEmpty_ite ..), kept.fails, kept.lanes⟩

theorem nakFor_unknown {p : WPort} {seq : Nat} (none : ∀ z ∈ p.replay, z.1 ≠ seq) : p.nakFor seq = p :=
  if_pos (by simpa using fun a b m => none (a, b) m)

theorem nakFor_known {p : WPort} {seq : Nat} (some_ : ∃ z ∈ p.replay, z.1 = seq) : let n := if p.nakSeq = some seq then p.fails + 1 else 0
    p.nakFor seq = { p with replay := p.replay.dropWhile fun z => z.1 != seq, rply := min (p.rply + 1) 65535, fails := n, nakSeq := some seq
                            st := if 16 ≤ n then 1 else p.st } := by
  obtain ⟨z, m, e⟩ := some_
  have held : (p.replay.any fun x => x.1 == seq) = true := List.any_eq_true.2 ⟨z, m, beq_iff_eq.2 e⟩
  exact if_neg (by simp [held])

theorem nakReceive_ends (there : port < 48) (up : (s.wport port).up = true) (seq : Nat) : Ends (.nakReceive port seq) s fun t => t.mem = s.mem ∧
    t.wport port = (s.wport port).nakFor seq :=
  ⟨_, congrArg Host.Outcome.next (if_pos (by simp [there, up])), rfl, wport_updPort ..⟩

theorem flits_refused (refused : port ≥ 48 ∨ (s.wport port).up = false) (bs : List Byte) (seq : Nat) :
    exec (.flitReceive port bs) s = .next s ∧ exec (.nakReceive port seq) s = .next s := by
  have shut : ¬ (decide (port < 48) && (s.wport port).up) = true := by
    rw [Bool.and_eq_true, decide_eq_true_eq]
    rintro ⟨there, up⟩
    rcases refused with out | down
    · omega
    · exact absurd up (by simp [down])
  exact ⟨congrArg Host.Outcome.next (if_neg shut), congrArg Host.Outcome.next (if_neg shut)⟩

end

end Sys2Proof.Proofs
end

section
/-!
PROOFS. The fabric: a flit arrives (R374 to R376).
-/

namespace Sys2Proof.Proofs
open Sys2Proof Sys2Proof.Machine

/-! ### The NAK flit and the count of corrected symbols -/

theorem nakFlit_fields (p : WPort) : fieldNat p.nakFlit 4 1 = 2 ∧ fieldNat p.nakFlit 8 2 = p.rxSeq % 65536 := by
  have laid : ∃ rest, p.nakFlit = fieldsBytes [(2, p.txSeq), (2, prevSeq p.rxSeq), (1, 2), (3, 0)] ++ (leBytes 2 p.rxSeq ++ rest) := by
    have pay : (leBytes 2 p.rxSeq ++ List.replicate flitPay 0).take flitPay = leBytes 2 p.rxSeq ++ (List.replicate flitPay 0).take (flitPay - 2) := by
      rw [List.take_append, leBytes_length, List.take_of_length_le (by rw [leBytes_length]; decide)]
    unfold WPort.nakFlit flitBytes
    rw [pay]
    simp only [fieldsBytes, List.flatMap_cons, List.flatMap_nil, List.append_nil, List.append_assoc]
    exact ⟨_, rfl⟩
  obtain ⟨rest, e⟩ := laid
  rw [e]
  refine ⟨fieldNat_fields (l := [(2, p.txSeq), (2, prevSeq p.rxSeq)]) rfl (by decide) rfl _, ?_⟩
  have skip : (fieldsBytes [(2, p.txSeq), (2, prevSeq p.rxSeq), (1, 2), (3, 0)] ++ (leBytes 2 p.rxSeq ++ rest)).drop 8 = leBytes 2 p.rxSeq ++ rest :=
    List.drop_left' (length_fieldsBytes _)
  rw [fieldNat, skip, List.take_left' (leBytes_length ..), leNat_leBytes]
  rfl

theorem countFixed_get (p : WPort) (bs : List Byte) {j : Nat} (lane : j < 4) : Sparse.get (p.countFixed bs).fixed j =
    (if p.seen % 2 ^ 20 = 0 then 0 else Sparse.get p.fixed j) + Config.fecFixed bs j := by
  unfold WPort.countFixed
  rw [sparse_get_ofFn, if_pos lane]
  simp only [beq_iff_eq, fixWindow]

/-! ### What a port does with a flit (R375) -/

section
variable {p : WPort} {bs : List Byte}

/-- Whether a flit's check holds, and whether it carries data. -/
def flitGood (bs : List Byte) : Prop := let f := Config.fecCorrects bs; fieldNat f 240 4 = crc32 (f.take 240)
def flitData (bs : List Byte) : Prop := let f := Config.fecCorrects bs; fieldNat f 4 1 ≠ 0 ∧ fieldNat f 4 1 ≠ 2

theorem receive_bad (bad : ¬ flitGood bs) : p.receive bs = p.refuse true := if_pos bad

theorem receive_stray (good : flitGood bs) (data : flitData bs) (stray : fieldNat (Config.fecCorrects bs) 0 2 ≠ p.rxSeq) :
    p.receive bs = p.refuse false :=
  (if_neg (not_not.2 good)).trans ((if_neg data.1).trans ((if_neg data.2).trans (if_pos stray)))

theorem nakFor_keeps (p : WPort) (seq : Nat) : let q := p.nakFor seq; (q.rxSeq = p.rxSeq ∧ q.rx = p.rx ∧ q.nak = p.nak) ∧ q.seen = p.seen ∧ q.fixed = p.fixed :=
  ite_both (P := fun q : WPort => (q.rxSeq = p.rxSeq ∧ q.rx = p.rx ∧ q.nak = p.nak) ∧ q.seen = p.seen ∧ q.fixed = p.fixed)
    ⟨⟨rfl, rfl, rfl⟩, rfl, rfl⟩ ⟨⟨rfl, rfl, rfl⟩, rfl, rfl⟩

/-- The port once a flit's acknowledgement has been taken. -/
def ackedPort (p : WPort) (bs : List Byte) : WPort := { p with replay := ackUpTo (fieldNat (Config.fecCorrects bs) 2 2) p.replay }

theorem receive_other (good : flitGood bs) (other : ¬ flitData bs) : let q := p.receive bs
    (q.rxSeq = p.rxSeq ∧ q.rx = p.rx ∧ q.nak = p.nak) ∧ q.seen = p.seen ∧ q.fixed = p.fixed := by
  by_cases idle : fieldNat (Config.fecCorrects bs) 4 1 = 0
  · have e : p.receive bs = (ackedPort p bs).pump (ackedPort p bs).txq := (if_neg (not_not.2 good)).trans (if_pos idle)
    rw [e]
    exact ⟨(pumped_pump _ (ackedPort p bs)).received, (pumped_pump _ (ackedPort p bs)).counts⟩
  · have nak : fieldNat (Config.fecCorrects bs) 4 1 = 2 := not_not.1 fun h => other ⟨idle, h⟩
    have e : p.receive bs = ((ackedPort p bs).nakFor (fieldNat (Config.fecCorrects bs) 8 2)).pump ((ackedPort p bs).nakFor (fieldNat (Config.fecCorrects bs) 8 2)).txq :=
      (if_neg (not_not.2 good)).trans ((if_neg idle).trans (if_pos nak))
    obtain ⟨⟨rxSeq, rx, naks⟩, seen, fixed⟩ := nakFor_keeps (ackedPort p bs) (fieldNat (Config.fecCorrects bs) 8 2)
    rw [e]
    generalize (ackedPort p bs).nakFor (fieldNat (Config.fecCorrects bs) 8 2) = q at rxSeq rx naks seen fixed ⊢
    obtain ⟨a, b, c⟩ := (pumped_pump q.txq q).received
    obtain ⟨d, g⟩ := (pumped_pump q.txq q).counts
    exact ⟨⟨a.trans rxSeq, b.trans rx, c.trans naks⟩, d.trans seen, g.trans fixed⟩

theorem receive_next (good : flitGood bs) (data : flitData bs) (next : fieldNat (Config.fecCorrects bs) 0 2 = p.rxSeq) : let q := p.receive bs
    (q.rxSeq = (p.rxSeq + 1) % 65536 ∧ q.nak = p.nak ∧ q.rx = if fieldNat (Config.fecCorrects bs) 4 1 = 1 ∨ fieldNat (Config.fecCorrects bs) 4 1 = 3
      then p.rx ++ [((Config.fecCorrects bs).drop 8).take 232] else p.rx) ∧ q.seen = p.seen ∧ q.fixed = p.fixed := by
  have e : ∃ q : WPort, p.receive bs = q.pump q.txq ∧ q.rxSeq = (p.rxSeq + 1) % 65536 ∧ q.nak = p.nak ∧ q.seen = p.seen ∧ q.fixed = p.fixed ∧
      q.rx = if fieldNat (Config.fecCorrects bs) 4 1 = 1 ∨ fieldNat (Config.fecCorrects bs) 4 1 = 3
        then p.rx ++ [((Config.fecCorrects bs).drop 8).take 232] else p.rx :=
    ⟨_, (if_neg (not_not.2 good)).trans ((if_neg data.1).trans ((if_neg data.2).trans (if_neg (not_not.2 next)))), rfl, rfl, rfl, rfl, rfl⟩
  obtain ⟨q, e, rxSeq, naks, seen, fixed, rx⟩ := e
  rw [e]
  obtain ⟨a, b, c⟩ := (pumped_pump q.txq q).received
  obtain ⟨d, g⟩ := (pumped_pump q.txq q).counts
  exact ⟨⟨a.trans rxSeq, c.trans naks, b.trans rx⟩, d.trans seen, g.trans fixed⟩

theorem receive_counts (p : WPort) (bs : List Byte) : (p.receive bs).seen = p.seen ∧ (p.receive bs).fixed = p.fixed := by
  by_cases good : flitGood bs
  · by_cases data : flitData bs
    · by_cases next : fieldNat (Config.fecCorrects bs) 0 2 = p.rxSeq
      · exact (receive_next good data next).2
      · rw [receive_stray good data next]
        exact ⟨rfl, rfl⟩
    · exact (receive_other good data).2
  · rw [receive_bad good]
    exact ⟨rfl, rfl⟩

theorem countFixed_receive (p : WPort) (bs : List Byte) : ((p.receive bs).countFixed bs).fixed = (p.countFixed bs).fixed := by
  obtain ⟨seen, fixed⟩ := receive_counts p bs
  unfold WPort.countFixed
  rw [seen, fixed]

end

/-! ### Lanes that correct too much (R376) -/

section
variable {port : Nat}

theorem dropWorn_mem (l : List Nat) (s : State) : (s.dropWorn port l).mem = s.mem := by
  induction l generalizing s with
  | nil => rfl
  | cons i r ih => exact (ih _).trans (ite_both (P := fun t : State => t.mem = s.mem) (dropLane_mem ..) rfl)

theorem dropWorn_well (l : List Nat) {s : State} (well : ∀ i ∈ l, Sparse.get (s.wport port).fixed i ≤ 4096) : s.dropWorn port l = s := by
  induction l generalizing s with
  | nil => rfl
  | cons i r ih =>
    have ok : ¬ fixLimit < Sparse.get (s.wport port).fixed i := Nat.not_lt.2 (well i List.mem_cons_self)
    have same : (if (s.wport port).up && (s.wport port).lanes.getLsbD i && !(s.wport port).dropQ.contains i && decide (fixLimit < Sparse.get (s.wport port).fixed i)
        then s.dropLane port i else s) = s := if_neg (by simp [ok])
    have e : s.dropWorn port (i :: r) = s.dropWorn port r := congrArg (fun t : State => t.dropWorn port r) same
    rw [e, ih fun i m => well i (List.mem_cons_of_mem _ m)]

/-- A lane of a port that has corrected too much and does not wait to be dropped. -/
def worn (p : WPort) (j : Nat) : Prop := p.lanes.getLsbD j = true ∧ j ∉ p.dropQ ∧ 4096 < Sparse.get p.fixed j

/-- A port more of whose lanes wait to be dropped. -/
structure Repairs (p y : WPort) : Prop where
  lanes : y.lanes = p.lanes
  fixed : y.fixed = p.fixed
  up : p.up = true → y.up = true
  pending : p.st = 3 → y.st = 3
  waits : ∀ j ∈ p.dropQ, j ∈ y.dropQ

theorem Repairs.trans {p x y : WPort} (h : Repairs p x) (k : Repairs x y) : Repairs p y :=
  ⟨k.lanes.trans h.lanes, k.fixed.trans h.fixed, k.up ∘ h.up, k.pending ∘ h.pending, fun j m => k.waits j (h.waits j m)⟩

theorem repairs_refl (p : WPort) : Repairs p p := ⟨rfl, rfl, id, id, fun _ => id⟩

/-- One lane of a wide port looked at: it waits to be dropped, if it is worn. -/
theorem dropWorn_one {s : State} (up : (s.wport port).up = true) (wide : 2 < laneCount (s.wport port).lanes) (i : Nat) :
    ∃ t : State, (∀ r, s.dropWorn port (i :: r) = t.dropWorn port r) ∧ Repairs (s.wport port) (t.wport port) ∧
      (∀ j, j ≠ i → j ∈ (t.wport port).dropQ → j ∈ (s.wport port).dropQ) ∧
      (worn (s.wport port) i → (t.wport port).st = 3 ∧ i ∈ (t.wport port).dropQ) := by
  by_cases bad : worn (s.wport port) i
  · have taken : ((s.wport port).up && (s.wport port).lanes.getLsbD i && !(s.wport port).dropQ.contains i && decide (fixLimit < Sparse.get (s.wport port).fixed i)) = true := by
      have limit : fixLimit < Sparse.get (s.wport port).fixed i := bad.2.2
      simp [up, bad.1, bad.2.1, limit]
    refine ⟨s.updPort port fun x => { x with st := 3, dropQ := x.dropQ ++ [i] }, fun r =>
      congrArg (fun t : State => t.dropWorn port r) ((if_pos taken).trans (dropLane_wide wide i)), ?_⟩
    rw [wport_updPort]
    exact ⟨⟨rfl, rfl, fun _ => rfl, fun _ => rfl, fun j m => List.mem_append_left _ m⟩,
      fun j other m => (List.mem_append.1 m).resolve_right fun h => other (List.mem_singleton.1 h), fun _ => ⟨rfl, List.mem_append_right _ List.mem_cons_self⟩⟩
  · have passed : ¬ ((s.wport port).up && (s.wport port).lanes.getLsbD i && !(s.wport port).dropQ.contains i && decide (fixLimit < Sparse.get (s.wport port).fixed i)) = true := by
      simp only [Bool.and_eq_true, decide_eq_true_eq, Bool.not_eq_true', List.contains_eq_mem, decide_eq_false_iff_not]
      rintro ⟨⟨⟨-, used⟩, fresh⟩, limit⟩
      exact bad ⟨used, fresh, limit⟩
    exact ⟨s, fun r => congrArg (fun t : State => t.dropWorn port r) (if_neg passed), repairs_refl _, fun _ _ => id, fun h => absurd h bad⟩

theorem dropWorn_wide (l : List Nat) {s : State} (up : (s.wport port).up = true) (wide : 2 < laneCount (s.wport port).lanes) :
    let y := (s.dropWorn port l).wport port; Repairs (s.wport port) y ∧ ∀ j ∈ l, worn (s.wport port) j → y.st = 3 ∧ j ∈ y.dropQ := by
  induction l generalizing s with
  | nil => exact ⟨repairs_refl _, nofun⟩
  | cons i r ih =>
    obtain ⟨t, e, repairs, fresh, here⟩ := dropWorn_one up wide i
    rw [e r]
    obtain ⟨later, rest⟩ := ih (s := t) (repairs.up up) (repairs.lanes ▸ wide)
    refine ⟨repairs.trans later, fun j m bad => ?_⟩
    by_cases same : j = i
    · obtain ⟨st, waits⟩ := here (same ▸ bad)
      exact ⟨later.pending st, later.waits j (same ▸ waits)⟩
    · have after : j ∈ r := (List.mem_cons.1 m).resolve_left same
      exact rest j after ⟨repairs.lanes ▸ bad.1, fun h => bad.2.1 (fresh j same h), repairs.fixed ▸ bad.2.2⟩

end

/-! ### FLIT_RECEIVE -/

section
variable {s : State} {port : Nat}

theorem flitReceive_run (there : port < 48) (up : (s.wport port).up = true) (bs : List Byte) : exec (.flitReceive port bs) s =
    .next ((s.updPort port fun p => (p.receive bs).countFixed bs).dropWorn port (List.range 4)) := congrArg Host.Outcome.next (if_pos (by simp [there, up]))

/-- What becomes of a port, its counts of corrected symbols aside, where no lane has corrected too much. -/
def Received (p y : WPort) (bs : List Byte) : Prop :=
  let f := Config.fecCorrects bs
  let rest := { y with seen := p.seen, fixed := p.fixed }
  (¬flitGood bs → rest = { p with nak := p.nak ++ [p.nakFlit], crce := min (p.crce + 1) 65535 }) ∧
  (flitGood bs → flitData bs → fieldNat f 0 2 ≠ p.rxSeq → rest = { p with nak := p.nak ++ [p.nakFlit] }) ∧
  (flitGood bs → ¬flitData bs → y.rxSeq = p.rxSeq ∧ y.rx = p.rx ∧ y.nak = p.nak) ∧
  (flitGood bs → flitData bs → fieldNat f 0 2 = p.rxSeq → y.rxSeq = (p.rxSeq + 1) % 65536 ∧ y.nak = p.nak ∧
    y.rx = if fieldNat f 4 1 = 1 ∨ fieldNat f 4 1 = 3 then p.rx ++ [(f.drop 8).take 232] else p.rx)

theorem received (p : WPort) (bs : List Byte) : Received p ((p.receive bs).countFixed bs) bs := by
  refine ⟨fun bad => ?_, fun good data stray => ?_, fun good other => (receive_other good other).1, fun good data next => (receive_next good data next).1⟩
  · rw [receive_bad bad]
    rfl
  · rw [receive_stray good data stray]
    rfl

theorem flitReceive_ends (there : port < 48) (up : (s.wport port).up = true) (bs : List Byte) : Ends (.flitReceive port bs) s fun t => t.mem = s.mem ∧
    (¬flitGood bs → 2 < laneCount (s.wport port).lanes → ∀ j < 4, (s.wport port).lanes.getLsbD j = true → j ∉ (s.wport port).dropQ →
      4096 < Sparse.get ((s.wport port).countFixed bs).fixed j → (t.wport port).st = 3 ∧ j ∈ (t.wport port).dropQ) ∧
    ((∀ j < 4, Sparse.get ((s.wport port).countFixed bs).fixed j ≤ 4096) → Received (s.wport port) (t.wport port) bs) := by
  have port1 : (s.updPort port fun p => (p.receive bs).countFixed bs).wport port = ((s.wport port).receive bs).countFixed bs := wport_updPort ..
  refine ⟨_, flitReceive_run there up bs, dropWorn_mem .., fun bad wide j lane used fresh limit => ?_, fun well => ?_⟩
  · have kept : ((s.wport port).receive bs).countFixed bs = ((s.wport port).refuse true).countFixed bs := by rw [receive_bad bad]
    rw [kept] at port1
    generalize (s.updPort port fun p => (p.receive bs).countFixed bs) = u at port1 ⊢
    have h := (dropWorn_wide (port := port) (List.range 4) (s := u) (by rw [port1]; exact up) (by rw [port1]; exact wide)).2 j (List.mem_range.2 lane)
    refine h ?_
    rw [port1]
    exact ⟨used, fresh, limit⟩
  · have same := dropWorn_well (port := port) (List.range 4) (s := s.updPort port fun p => (p.receive bs).countFixed bs) fun i m => by
      rw [port1, countFixed_receive]
      exact well i (List.mem_range.1 m)
    rw [same, port1]
    exact received ..

end

end Sys2Proof.Proofs
end

section
/-!
PROOFS. The fabric: the topology table (R378, R379).
-/

namespace Sys2Proof.Proofs
open Sys2Proof Sys2Proof.Machine

section
variable {s : State}

/-! ### TOPO (R379) -/

theorem topoLoad_ends (rdy : s.host.rdy = true) (v : Word) : Ends (.topoLoad v) s fun t => t.mem = s.mem ∧ t.host.topo = s.host.topo ∧
    (v.getLsbD 0 = true → s.host.topoBusy = false → t.host.topoBusy = true ∧ t.host.topoAddr = bitsOf v.toNat 51 6 * 64) := by
  refine ⟨s.topoWrite v, congrArg Host.Outcome.next (if_pos rdy), ?_⟩
  unfold State.topoWrite
  by_cases ignored : (!v.getLsbD 0 || s.host.topoBusy) = true
  · rw [if_pos ignored]
    exact ⟨rfl, rfl, fun go idle => absurd ignored (by simp [go, idle])⟩
  · rw [if_neg ignored]
    exact ⟨rfl, rfl, fun _ _ => ⟨rfl, rfl⟩⟩

theorem topoComplete_waits (waits : s.host.topoBusy = false ∨ s.topoHeld = true) : exec .topoLoadComplete s = .next s := by
  refine congrArg Host.Outcome.next (if_neg ?_)
  rcases waits with idle | held
  · simp [idle]
  · simp [held]

/-! ### The errors of a table -/

theorem topoErr_lt (i self parent port : Nat) (up : Bool) : topoErr i self parent port up < 256 := by
  unfold topoErr
  split_ifs <;> decide

/-- Each entry's ERR stands in its byte, and the host's side is as before. -/
theorem writeErrs_written (a : Nat) (l : List Nat) {s : State} {i : Nat} (live : ∀ k < l.length, s.hbmDead (a + 64 + 16 * (i + k) + 3) = false)
    (small : ∀ x ∈ l, x < 256) : let t := s.writeErrs a i l
    t.host = s.host ∧ (∀ k < l.length, t.natAt (a + 64 + 16 * (i + k) + 3) 1 = l.getD k 0) ∧ ∀ key < a + 64 + 16 * i + 3, t.byte key = s.byte key := by
  induction l generalizing s i with
  | nil => exact ⟨rfl, nofun, fun _ _ => rfl⟩
  | cons x r ih =>
    have first : s.hbmDead (a + 64 + 16 * i + 3) = false := live 0 (Nat.zero_lt_succ _)
    have written := natAt_writeMem 1 x first
    have later : ∀ k < r.length, (s.writeMem (a + 64 + 16 * i + 3) (leBytes 1 x)).hbmDead (a + 64 + 16 * (i + 1 + k) + 3) = false := fun k inside => by
      rw [hbmDead_writeMem]
      rw [Nat.add_assoc i 1 k, Nat.add_comm 1 k]
      exact live (k + 1) (Nat.succ_lt_succ inside)
    have other : ∀ key < a + 64 + 16 * i + 3, (s.writeMem (a + 64 + 16 * i + 3) (leBytes 1 x)).byte key = s.byte key := fun key below =>
      byte_writeMem_other (.inl below)
    have host : (s.writeMem (a + 64 + 16 * i + 3) (leBytes 1 x)).host = s.host := by simp
    have e : s.writeErrs a i (x :: r) = (s.writeMem (a + 64 + 16 * i + 3) (leBytes 1 x)).writeErrs a (i + 1) r := rfl
    rw [e]
    generalize s.writeMem (a + 64 + 16 * i + 3) (leBytes 1 x) = u at written later other host ⊢
    obtain ⟨host1, rest, frame⟩ := ih later fun y m => small y (List.mem_cons_of_mem _ m)
    refine ⟨host1.trans host, fun k inside => ?_, fun key below => (frame key (by omega)).trans (other key below)⟩
    cases k with
    | zero =>
      have kept : (u.writeErrs a (i + 1) r).natAt (a + 64 + 16 * i + 3) 1 = u.natAt (a + 64 + 16 * i + 3) 1 := natAt_congr fun j _ => frame _ (by omega)
      exact kept.trans (written.trans (Nat.mod_eq_of_lt (small x List.mem_cons_self)))
    | succ k =>
      have h := rest k (Nat.lt_of_succ_lt_succ inside)
      rwa [Nat.add_assoc i 1 k, Nat.add_comm 1 k] at h

/-! ### TOPO_LOAD_COMPLETE -/

/-- A load that ends with a status. -/
def topoEnded (s : State) (st : Nat) : State := { s with host := { s.host with topoBusy := false, topoStatus := st } }

/-- The entry of a table that stands in memory at an address, and the error its check finds. -/
def topoEntry (s : State) (a i : Nat) : Nat × Nat × Nat := (s.natAt (a + 64 + 16 * i) 2, s.natAt (a + 64 + 16 * i + 2) 1, s.natAt (a + 64 + 16 * i + 4) 8)
def entryErr (s : State) (a i : Nat) : Nat :=
  topoErr i (s.natAt (a + 2) 2) (topoEntry s a i).1 (topoEntry s a i).2.1 (s.wport (topoEntry s a i).2.1).up

theorem topoErrs_map (s : State) (a count : Nat) : s.topoErrs a (s.natAt (a + 2) 2) count = (List.range count).map (entryErr s a) := rfl

theorem topoComplete_run (busy : s.host.topoBusy = true) (free : s.topoHeld = false) : exec .topoLoadComplete s = .next s.topoDone :=
  congrArg Host.Outcome.next (if_pos (by simp [busy, free]))

theorem topoComplete_malformed (busy : s.host.topoBusy = true) (free : s.topoHeld = false)
    (bad : s.natAt s.host.topoAddr 2 = 0 ∨ 4096 < s.natAt s.host.topoAddr 2 ∨ s.natAt s.host.topoAddr 2 ≤ s.natAt (s.host.topoAddr + 2) 2) :
    Ends .topoLoadComplete s fun t => t.host.topoStatus = 2 ∧ t.host.topoBusy = false ∧ t.host.topo = s.host.topo ∧ t.mem = s.mem := by
  have e : s.topoDone = topoEnded s 2 := if_pos bad
  exact ⟨_, topoComplete_run busy free, by rw [e]; exact ⟨rfl, rfl, rfl, rfl⟩⟩

/-- What a load of a table of `count` entries at `a` for entry `self` leaves. -/
def TopoLoaded (s : State) (a count self : Nat) (t : State) : Prop := t.host.topoBusy = false ∧
  (∀ i < count, t.natAt (a + 64 + 16 * i + 3) 1 = entryErr s a i) ∧
  ((∃ i < count, entryErr s a i ≠ 0) → t.host.topoStatus = 1 ∧ t.host.topo = s.host.topo) ∧
  ((∀ i < count, entryErr s a i = 0) → t.host.topoStatus = 0 ∧ t.host.topoSelf = self ∧ t.host.topo = (List.range count).map (topoEntry s a))

theorem topoDone_checked {a count self : Nat} (atA : s.host.topoAddr = a) (counts : s.natAt a 2 = count) (selfs : s.natAt (a + 2) 2 = self) (some : 0 < count)
    (most : count ≤ 4096) (inside : self < count) : s.topoDone = if ((List.range count).map (entryErr s a)).any fun e => e != 0 then
      topoEnded (s.writeErrs a 0 ((List.range count).map (entryErr s a))) 1
    else topoEnded { s.writeErrs a 0 ((List.range count).map (entryErr s a)) with
      host := { (s.writeErrs a 0 ((List.range count).map (entryErr s a))).host with topo := (List.range count).map (topoEntry s a), topoSelf := self } } 0 := by
  subst atA counts selfs
  exact if_neg (by omega)

theorem topoComplete_loads (busy : s.host.topoBusy = true) (free : s.topoHeld = false) {a count self : Nat} (atA : s.host.topoAddr = a)
    (counts : s.natAt a 2 = count) (selfs : s.natAt (a + 2) 2 = self) (some : 0 < count) (most : count ≤ 4096) (inside : self < count)
    (live : s.alive a (64 + 16 * count)) : Ends .topoLoadComplete s (TopoLoaded s a count self) := by
  refine ⟨_, topoComplete_run busy free, ?_⟩
  have length : ((List.range count).map (entryErr s a)).length = count := by simp
  obtain ⟨host, errs, -⟩ := writeErrs_written a ((List.range count).map (entryErr s a)) (s := s) (i := 0)
    (fun k small => by
      rw [length] at small
      have h := live (64 + 16 * (0 + k) + 3) (by omega)
      rwa [← Nat.add_assoc, ← Nat.add_assoc] at h)
    (fun x m => by
      obtain ⟨i, -, rfl⟩ := List.mem_map.1 m
      exact topoErr_lt ..)
  rw [topoDone_checked atA counts selfs some most inside]
  generalize s.writeErrs a 0 ((List.range count).map (entryErr s a)) = u at host errs ⊢
  have each : ∀ i < count, u.natAt (a + 64 + 16 * i + 3) 1 = entryErr s a i := fun i small => by
    have h := errs i (length.symm ▸ small)
    rw [Nat.zero_add] at h
    rw [h, List.getD_eq_getElem?_getD, List.getElem?_map, List.getElem?_range small]
    rfl
  by_cases bad : ∃ i < count, entryErr s a i ≠ 0
  · obtain ⟨i, small, err⟩ := bad
    rw [if_pos (List.any_eq_true.2 ⟨_, List.mem_map_of_mem (List.mem_range.2 small), by simpa using err⟩)]
    refine ⟨rfl, each, fun _ => ⟨rfl, (congrArg HostSt.topo host :)⟩, fun well => absurd (well i small) err⟩
  · have well : ∀ i < count, entryErr s a i = 0 := fun i small => not_not.1 fun h => bad ⟨i, small, h⟩
    have none : ¬ (((List.range count).map (entryErr s a)).any fun e => e != 0) = true := fun h => by
      obtain ⟨x, m, nonzero⟩ := List.any_eq_true.1 h
      obtain ⟨i, small, rfl⟩ := List.mem_map.1 m
      exact absurd (well i (List.mem_range.1 small)) (by simpa using nonzero)
    rw [if_neg none]
    exact ⟨rfl, each, fun h => absurd h bad, fun _ => ⟨rfl, rfl, rfl⟩⟩

end

end Sys2Proof.Proofs
end

section
/-!
PROOFS. The fabric: collectives that are queued and start (R380, R381).
-/

namespace Sys2Proof.Proofs
open Sys2Proof Sys2Proof.Machine

/-! ### What the tree depends on -/

/-- Two host sides with the same topology. -/
structure SameTree (h g : HostSt) : Prop where
  topo : g.topo = h.topo
  self : g.topoSelf = h.topoSelf

section
variable {h g : HostSt} (same : SameTree h g)
include same

theorem parent_congr : g.parent = h.parent := by
  funext i
  unfold HostSt.parent
  rw [same.topo]

theorem chain_congr (n i : Nat) : g.chain n i = h.chain n i := by
  induction n generalizing i with
  | zero => rfl
  | succ n ih =>
    unfold HostSt.chain
    rw [parent_congr same, ih]

theorem hop_congr : g.hop = h.hop := by
  funext root
  unfold HostSt.hop
  rw [chain_congr same, parent_congr same, same.self]

theorem childrenFrom_congr : g.childrenFrom = h.childrenFrom := by
  funext root
  unfold HostSt.childrenFrom HostSt.neighbours
  rw [hop_congr same, parent_congr same, same.self, same.topo]

theorem awaited_congr : g.awaited = h.awaited := by
  funext c
  unfold HostSt.awaited
  rw [hop_congr same, childrenFrom_congr same, same.self, same.topo]

theorem portOf_congr : g.portOf = h.portOf := by
  funext e
  unfold HostSt.portOf HostSt.peerOf
  rw [same.topo, same.self]

theorem distance_congr : g.distance = h.distance := by
  funext e
  unfold HostSt.distance
  rw [same.topo, same.self]

theorem awaits_congr (coll : g.coll = h.coll) (i : FabItem) : g.awaits i = h.awaits i := by
  unfold HostSt.awaits
  rw [coll, awaited_congr same]

theorem passedOver_congr (c : Coll) (origin : Nat) : g.passedOver c origin = h.passedOver c origin := by
  unfold HostSt.passedOver
  rw [distance_congr same]

end

section
variable {s t : State}

theorem Passed.tree (h : Passed s t) : SameTree s.host t.host := ⟨(congrArg HostSt.topo h.host :), (congrArg HostSt.topoSelf h.host :)⟩

theorem Passed.fences (h : Passed s t) : fences t = fences s :=
  congrArg₂ Prod.mk (congrArg HostSt.excluded h.host :) (congrArg (List.map Die.fenced) h.dies)

theorem Passed.collNone (h : Passed s t) (idle : s.host.coll = none) : t.host.coll = none := by
  obtain ⟨sent, e⟩ := h.coll
  rw [e, idle]
  rfl

theorem Passed.collSome (h : Passed s t) {c : Coll} (runs : s.host.coll = some c) : ∃ sent, t.host.coll = some { c with upSent := sent } := by
  obtain ⟨sent, e⟩ := h.coll
  exact ⟨sent c, by rw [e, runs]; rfl⟩

theorem Passed.keepsOut (h : Passed s t) {x : Nat × List Byte} (m : x ∈ s.host.fabOut) : x ∈ t.host.fabOut := h.out.subset m

theorem bytesAt_mem (same : t.mem = s.mem) (key n : Nat) : t.bytesAt key n = s.bytesAt key n := bytesAt_congr fun i _ => by
  unfold State.byte
  rw [same]

theorem natAt_mem (same : t.mem = s.mem) (key n : Nat) : t.natAt key n = s.natAt key n := by
  unfold State.natAt
  rw [bytesAt_mem same]

theorem readColl_mem (same : t.mem = s.mem) (a : Nat) : t.readColl a = s.readColl a := by
  unfold State.readColl
  simp only [natAt_mem same]

theorem lostPeers_congr (tree : SameTree s.host t.host) (ports : t.host.ports = s.host.ports) (c : Coll) : t.lostPeers c = s.lostPeers c := by
  unfold State.lostPeers State.wport
  rw [awaited_congr tree, portOf_congr tree, ports]

/-! ### A part that is passed up (R380) -/

/-- The root toward which a collective's parts go. -/
def treeTop (c : Coll) : Nat := if c.op = 3 then 0 else c.root

theorem partialOf_leaf {c : Coll} (none : c.items = []) : s.partialOf c [] = s.bytesAt c.src c.bytes := by
  unfold State.partialOf
  rw [none]
  rfl

/-- A leaf passes its own data toward the root at once. -/
theorem passUp_leaf {c : Coll} (runs : s.host.coll = some c) (fresh : c.upSent = false) (none : c.items = []) (kind : c.op = 2 ∨ c.op = 3) {up : Nat}
    (hop : s.host.hop (treeTop c) = some up) (leaf : s.host.childrenFrom (treeTop c) = []) :
    s.passUp.host.coll = some { c with upSent := true } ∧ (up, s.bytesAt c.src c.bytes) ∈ s.passUp.host.fabOut := by
  have open_ : ¬ ((c.op ≠ 2 ∧ c.op ≠ 3) ∨ c.upSent = true ∨ (!([] : List Nat).all fun k => c.arrived.contains k || c.miss.contains k) = true) := by
    rintro (⟨two, three⟩ | sent | kids)
    · exact kind.elim two three
    · exact absurd sent (by simp [fresh])
    · exact absurd kids (by simp)
  have e : s.passUp = ({ s with host := { s.host with coll := some { c with upSent := true } } } : State).passTo up up (s.bytesAt c.src c.bytes) := by
    unfold State.passUp
    unfold treeTop at hop leaf
    simp only [runs, hop, leaf]
    rw [if_neg open_, partialOf_leaf none]
  obtain ⟨-, out, coll⟩ := passTo_passed { s with host := { s.host with coll := some { c with upSent := true } } } up up (s.bytesAt c.src c.bytes)
  rw [e]
  refine ⟨coll, ?_⟩
  rw [out]
  exact List.mem_append_right _ List.mem_cons_self

/-! ### A collective that starts -/

theorem startColl_waits (waits : s.host.coll ≠ none ∨ s.host.colq = []) : s.startColl = s := by
  unfold State.startColl
  split
  next a r idle queue =>
    rcases waits with runs | empty
    · exact absurd idle runs
    · rw [empty] at queue
      cases queue
  next => rfl

/-- The head of the queue has left it. -/
def popped (s : State) (r : List Nat) : State := { s with host := { s.host with colq := r } }

/-- The collective of the descriptor at an address, its lost peers known. -/
def startedColl (s : State) (a : Nat) : Coll := { s.readColl a with miss := s.lostPeers (s.readColl a) }

/-- The descriptor at the head of the queue runs. -/
def begun (s : State) (a : Nat) (r : List Nat) : State := { s with host := { s.host with colq := r, coll := some (startedColl s a), early := [] } }

/-- A ring injects its own triple. -/
def injected (s : State) (a : Nat) (r : List Nat) : State :=
  let c := s.readColl a
  if c.op = 4 ∧ 1 < s.host.topo.length then (begun s a r).passTo s.host.successor s.host.topoSelf (s.bytesAt c.src c.bytes) else begun s a r

theorem injected_passed (s : State) (a : Nat) (r : List Nat) : Passed (begun s a r) (injected s a r) :=
  ite_both (P := Passed (begun s a r)) (passTo_passed ..).1 (passed_refl _)

variable {a : Nat} {r : List Nat}

theorem startColl_run (idle : s.host.coll = none) (queue : s.host.colq = a :: r) : s.startColl = if (s.readColl a).formed = false then popped s r
    else (injected s a r).passUp.takeEarly s.host.early := by
  have lost : (popped s r).lostPeers (s.readColl a) = s.lostPeers (s.readColl a) := lostPeers_congr (s := s) (t := popped s r) ⟨rfl, rfl⟩ rfl _
  unfold State.startColl
  split
  next b q _ head =>
    obtain ⟨rfl, rfl⟩ := List.cons.inj (queue.symm.trans head)
    unfold injected begun startedColl
    rw [← lost]
    cases formed : (s.readColl a).formed with
    | false => exact (if_pos (congrArg Bool.not formed)).trans (if_pos rfl).symm
    | true => exact (if_neg (Bool.eq_false_iff.1 (congrArg Bool.not formed))).trans (if_neg nofun).symm
  next none => exact absurd queue (none a r idle)

theorem startColl_malformed (idle : s.host.coll = none) (queue : s.host.colq = a :: r) (bad : (s.readColl a).formed = false) :
    s.startColl = popped s r := (startColl_run idle queue).trans (if_pos bad)

theorem startColl_starts (idle : s.host.coll = none) (queue : s.host.colq = a :: r) (early : s.host.early = []) (formed : (s.readColl a).formed = true) :
    s.startColl = (injected s a r).passUp := by
  rw [startColl_run idle queue, if_neg (by simp [formed]), early]
  rfl

/-- What a collective that has started has done. -/
theorem startColl_begun (idle : s.host.coll = none) (queue : s.host.colq = a :: r) (early : s.host.early = []) (formed : (s.readColl a).formed = true) :
    let t := s.startColl; let c := s.readColl a; t.mem = s.mem ∧ t.host.colq = r ∧ ∃ sent, t.host.coll = some { c with miss := s.lostPeers c, upSent := sent } ∧
      (c.op = 4 → 1 < s.host.topo.length → (s.host.topoSelf, s.bytesAt c.src c.bytes) ∈ t.host.fabOut) ∧
      ∀ up, c.op = 2 ∨ c.op = 3 → s.host.hop (treeTop c) = some up → s.host.childrenFrom (treeTop c) = [] →
        sent = true ∧ (up, s.bytesAt c.src c.bytes) ∈ t.host.fabOut := by
  have starts := startColl_starts idle queue early formed
  have before := injected_passed s a r
  have after := passUp_passed (injected s a r)
  have passed := before.trans after
  intro t c
  have e : t = (injected s a r).passUp := starts
  clear_value t
  subst e
  obtain ⟨sent, coll⟩ := passed.collSome (c := startedColl s a) rfl
  refine ⟨passed.mem, (congrArg HostSt.colq passed.host :), sent, coll, fun ring more => ?_, fun up kind hop leaf => ?_⟩
  · refine after.keepsOut ?_
    unfold injected
    rw [if_pos ⟨ring, more⟩, (passTo_passed ..).2.1]
    exact List.mem_append_right _ List.mem_cons_self
  · have tree : ¬ (c.op = 4 ∧ 1 < s.host.topo.length) := by
      rintro ⟨ring, -⟩
      rcases kind with two | three <;> omega
    have same : injected s a r = begun s a r := if_neg tree
    have alike : SameTree s.host (begun s a r).host := ⟨rfl, rfl⟩
    have leafs := passUp_leaf (s := begun s a r) (c := startedColl s a) rfl rfl rfl kind
      ((congrFun (hop_congr alike) _).trans hop) ((congrFun (childrenFrom_congr alike) _).trans leaf)
    obtain ⟨sentUp, out⟩ := leafs
    rw [bytesAt_mem (s := s) (t := begun s a r) rfl] at out
    rw [same] at coll ⊢
    exact ⟨congrArg Coll.upSent (Option.some.inj (coll.symm.trans sentUp)), out⟩

end

/-! ### COLQ (R380) -/

section
variable {s : State} {v : Word}

theorem collSubmit_run (rdy : s.host.rdy = true) : exec (.colqSubmit v) s = .next (s.colqWrite v) := congrArg Host.Outcome.next (if_pos rdy)

theorem collSubmit_full (rdy : s.host.rdy = true) (full : 16 ≤ s.host.colq.length) : exec (.colqSubmit v) s = .next s :=
  (collSubmit_run rdy).trans (congrArg Host.Outcome.next (if_pos full))

/-- A descriptor joins the queue. -/
def collQueued (s : State) (a : Nat) : State := { s with host := { s.host with colq := s.host.colq ++ [a] } }

theorem colqWrite_queues (room : s.host.colq.length < 16) (v : Word) : s.colqWrite v = (collQueued s (bitsOf v.toNat 51 6 * 64)).startColl :=
  if_neg (Nat.not_le.2 room)

theorem collSubmit_waits (rdy : s.host.rdy = true) (room : s.host.colq.length < 16) (runs : s.host.coll ≠ none) : Ends (.colqSubmit v) s fun t =>
    t.mem = s.mem ∧ t.host.coll = s.host.coll ∧ t.host.colq = s.host.colq ++ [bitsOf v.toNat 51 6 * 64] := by
  refine ⟨_, collSubmit_run rdy, ?_⟩
  rw [colqWrite_queues room, startColl_waits (s := collQueued s _) (.inl runs)]
  exact ⟨rfl, rfl, rfl⟩

theorem collSubmit_starts (rdy : s.host.rdy = true) (queue : s.host.colq = []) (idle : s.host.coll = none) (early : s.host.early = []) :
    let c := s.readColl (bitsOf v.toNat 51 6 * 64)
    Ends (.colqSubmit v) s fun t => t.mem = s.mem ∧ t.host.colq = [] ∧ (c.formed = false → t.host.coll = none) ∧
      (c.formed = true → ∃ d, t.host.coll = some d ∧ { d with upSent := c.upSent } = { c with miss := s.lostPeers c } ∧
        (c.op = 4 → 1 < s.host.topo.length → (s.host.topoSelf, s.bytesAt c.src c.bytes) ∈ t.host.fabOut) ∧
        ∀ up, c.op = 2 ∨ c.op = 3 → s.host.hop (treeTop c) = some up → s.host.childrenFrom (treeTop c) = [] →
          d.upSent = true ∧ (up, s.bytesAt c.src c.bytes) ∈ t.host.fabOut) := by
  generalize place : bitsOf v.toNat 51 6 * 64 = a
  have e : s.colqWrite v = (collQueued s a).startColl := by rw [colqWrite_queues (by rw [queue]; decide), place]
  have read : (collQueued s a).readColl a = s.readColl a := readColl_mem rfl a
  have tree : SameTree s.host (collQueued s a).host := ⟨rfl, rfl⟩
  have lost : (collQueued s a).lostPeers (s.readColl a) = s.lostPeers (s.readColl a) := lostPeers_congr tree rfl _
  have head : (collQueued s a).host.colq = a :: [] := congrArg (· ++ [a]) queue
  refine ⟨_, collSubmit_run rdy, ?_⟩
  rw [e]
  cases formed : (s.readColl a).formed with
  | false =>
    rw [startColl_malformed (s := collQueued s a) idle head (read.symm ▸ formed)]
    exact ⟨rfl, rfl, fun _ => idle, nofun⟩
  | true =>
    have starts := startColl_begun (s := collQueued s a) idle head early (read.symm ▸ formed)
    dsimp only at starts
    rw [read, lost, hop_congr tree, childrenFrom_congr tree, bytesAt_mem (s := s) (t := collQueued s a) rfl] at starts
    obtain ⟨mem, colq, sent, coll, ring, leaf⟩ := starts
    exact ⟨mem, colq, nofun, fun _ => ⟨_, coll, rfl, ring, leaf⟩⟩

end

end Sys2Proof.Proofs
end

section
/-!
PROOFS. The fabric: items that arrive, a collective's completion (R380, R381).
-/

namespace Sys2Proof.Proofs
open Sys2Proof Sys2Proof.Machine

/-! ### An item that arrives (R381) -/

section
variable {s : State}

theorem devWrote_devWrites (l : List (Nat × List Byte)) (s : State) : DevWrote s (s.devWrites l) := by
  induction l generalizing s with
  | nil => exact devWrote_refl s
  | cons x r ih => exact (devWrote_devWrite ..).trans (ih _)

/-- A collective with one item more: in time, or passed over. -/
def withItem (c : Coll) (late : Bool) (origin : Nat) (data : List Byte) : Coll :=
  { c with arrived := c.arrived ++ [origin], items := if late then c.items else c.items ++ [(origin, data)]
           lateItems := if late then c.lateItems ++ [(origin, data)] else c.lateItems }

/-- The item is noted with the collective. -/
def itemNoted (s : State) (c : Coll) (origin : Nat) (data : List Byte) : State :=
  { s with host := { s.host with coll := some (withItem c (s.host.passedOver c origin) origin data) } }

theorem takeItem_cases (s : State) (c : Coll) (origin : Nat) (data : List Byte) : let t := s.takeItem c origin data
    (∃ sent, t.host.coll = some { withItem c (s.host.passedOver c origin) origin data with upSent := sent }) ∧ t.host.early = s.host.early ∧
      t.host.ringSteps = s.host.ringSteps ∧ s.host.fabOut <+: t.host.fabOut ∧ (s.host.passedOver c origin = false → t.mem = s.mem) := by
  have e : ∃ u : State, s.takeItem c origin data = u.passUp ∧ u.host = (itemNoted s c origin data).host ∧ (s.host.passedOver c origin = false → u.mem = s.mem) := by
    refine ⟨if s.host.passedOver c origin ∧ c.late ≠ 0 then
        (itemNoted s c origin data).devWrites (splitAt64K (c.late + 64 + 8192 * c.lateItems.length) (data.take 8192)) else itemNoted s c origin data, rfl, ?_, ?_⟩
    · exact ite_both (P := fun u : State => u.host = (itemNoted s c origin data).host) (devWrote_devWrites ..).host rfl
    · intro onTime
      rw [if_neg (by simp [onTime])]
      rfl
  obtain ⟨u, e, host, mem⟩ := e
  intro t
  have unfolded : t = u.passUp := e
  clear_value t
  subst unfolded
  have passed := passUp_passed u
  have earlyKept : u.passUp.host.early = u.host.early := (congrArg HostSt.early passed.host :)
  have stepsKept : u.passUp.host.ringSteps = u.host.ringSteps := (congrArg HostSt.ringSteps passed.host :)
  have runs := passed.collSome (congrArg HostSt.coll host)
  have out := passed.out
  rw [host] at earlyKept stepsKept out
  exact ⟨runs, earlyKept, stepsKept, out, fun onTime => passed.mem.trans (mem onTime)⟩

theorem awaits_runs {i : FabItem} (awaited : s.host.awaits i = true) : ∃ c, s.host.coll = some c := by
  unfold HostSt.awaits at awaited
  split at awaited
  · cases awaited
  next c runs => exact ⟨c, runs⟩

theorem arriveItem_awaited {i : FabItem} (awaited : s.host.awaits i = true) {c : Coll} (runs : s.host.coll = some c) (data : List Byte) :
    s.arriveItem i data = s.takeItem c i.origin data := by
  unfold State.arriveItem
  simp only [runs]
  exact if_pos awaited

theorem arriveItem_early {i : FabItem} (unawaited : s.host.awaits i = false) (data : List Byte) :
    s.arriveItem i data = { s with host := { s.host with early := s.host.early ++ [(i, data)] } } := by
  unfold State.arriveItem
  split
  · exact if_neg (by simp [unawaited])
  · rfl

/-! ### RING_STEP -/

variable {item : FabItem} {bs : List Byte}

theorem ringStep_ignored (ignored : s.host.topo.length ≤ item.origin ∨ item.origin = s.host.topoSelf) : exec (.ringStep item bs) s = .next s :=
  congrArg Host.Outcome.next (if_pos ignored)

/-- The ring's step is counted. -/
def stepped (s : State) (item : FabItem) : State := if item.ring then { s with host := { s.host with ringSteps := s.host.ringSteps + 1 } } else s

/-- A triple of a ring goes on to the next entry. -/
def forwarded (s : State) (item : FabItem) (bs : List Byte) : State :=
  if item.ring && decide (s.host.distance item.origin + 1 < s.host.topo.length) then (stepped s item).passTo s.host.successor item.origin bs else stepped s item

theorem ringStep_run (there : item.origin < s.host.topo.length) (other : item.origin ≠ s.host.topoSelf) :
    exec (.ringStep item bs) s = .next ((forwarded s item bs).arriveItem item bs) :=
  congrArg Host.Outcome.next (if_neg (by rintro (out | own); exacts [absurd there (Nat.not_lt.2 out), other own]))

theorem forwarded_cases (s : State) (item : FabItem) (bs : List Byte) : let u := forwarded s item bs
    u.mem = s.mem ∧ u.host.ringSteps = s.host.ringSteps + item.ring.toNat ∧ u.host.coll = s.host.coll ∧ u.host.early = s.host.early ∧ SameTree s.host u.host ∧
      (item.ring = true → s.host.distance item.origin + 1 < s.host.topo.length → (item.origin, bs) ∈ u.host.fabOut) := by
  have counted : (stepped s item).mem = s.mem ∧ (stepped s item).host.ringSteps = s.host.ringSteps + item.ring.toNat ∧ (stepped s item).host.coll = s.host.coll ∧
      (stepped s item).host.early = s.host.early ∧ SameTree s.host (stepped s item).host := by
    unfold stepped
    cases item.ring <;> exact ⟨rfl, rfl, rfl, rfl, rfl, rfl⟩
  obtain ⟨mem, steps, coll, early, tree⟩ := counted
  intro u
  by_cases goes : (item.ring && decide (s.host.distance item.origin + 1 < s.host.topo.length)) = true
  · have e : u = (stepped s item).passTo s.host.successor item.origin bs := if_pos goes
    clear_value u
    subst e
    obtain ⟨passed, out, collKept⟩ := passTo_passed (stepped s item) s.host.successor item.origin bs
    refine ⟨passed.mem.trans mem, (congrArg HostSt.ringSteps passed.host :).trans steps, collKept.trans coll, (congrArg HostSt.early passed.host :).trans early,
      ⟨passed.tree.topo.trans tree.topo, passed.tree.self.trans tree.self⟩, fun _ _ => ?_⟩
    rw [out]
    exact List.mem_append_right _ List.mem_cons_self
  · have e : u = stepped s item := if_neg goes
    clear_value u
    subst e
    exact ⟨mem, steps, coll, early, tree, fun ring near => absurd (by simp [ring, near]) goes⟩

theorem ringStep_ends (there : item.origin < s.host.topo.length) (other : item.origin ≠ s.host.topoSelf) : Ends (.ringStep item bs) s fun t =>
    t.host.ringSteps = s.host.ringSteps + item.ring.toNat ∧
    (item.ring = true → s.host.distance item.origin + 1 < s.host.topo.length → (item.origin, bs) ∈ t.host.fabOut) ∧
    (s.host.awaits item = false → t.mem = s.mem ∧ t.host.coll = s.host.coll ∧ t.host.early = s.host.early ++ [(item, bs)]) ∧
    (∀ c, s.host.coll = some c → s.host.awaits item = true → ∃ d, t.host.coll = some d ∧ d.arrived = c.arrived ++ [item.origin] ∧ t.host.early = s.host.early ∧
      (s.host.passedOver c item.origin = false → d.items = c.items ++ [(item.origin, bs)] ∧ d.lateItems = c.lateItems ∧ t.mem = s.mem) ∧
      (s.host.passedOver c item.origin = true → d.items = c.items ∧ d.lateItems = c.lateItems ++ [(item.origin, bs)])) := by
  refine ⟨_, ringStep_run there other, ?_⟩
  obtain ⟨mem, steps, coll, early, tree, out⟩ := forwarded_cases s item bs
  generalize forwarded s item bs = u at mem steps coll early tree out ⊢
  have awaits : u.host.awaits item = s.host.awaits item := awaits_congr tree coll item
  cases awaited : s.host.awaits item with
  | false =>
    rw [arriveItem_early (awaits.trans awaited)]
    exact ⟨steps, out, fun _ => ⟨mem, coll, congrArg (· ++ [(item, bs)]) early⟩, nofun⟩
  | true =>
    obtain ⟨c, runs⟩ := awaits_runs awaited
    rw [arriveItem_awaited (awaits.trans awaited) (coll.trans runs)]
    obtain ⟨⟨sent, takes⟩, earlyKept, stepsKept, more, memKept⟩ := takeItem_cases u c item.origin bs
    rw [passedOver_congr tree] at takes memKept
    refine ⟨stepsKept.trans steps, fun ring near => more.subset (out ring near), nofun, fun c' runs' _ => ?_⟩
    obtain rfl := Option.some.inj (runs.symm.trans runs')
    refine ⟨_, takes, rfl, earlyKept.trans early, fun onTime => ?_, fun late => ?_⟩
    · rw [onTime]
      exact ⟨rfl, rfl, (memKept onTime).trans mem⟩
    · rw [late]
      exact ⟨rfl, rfl⟩

/-! ### COLLECTIVE_COMPLETE (R380, R381) -/

theorem passDown_passed (data : List Byte) (l : List Nat) (s : State) : Passed s (s.passDown data l) := by
  induction l generalizing s with
  | nil => exact passed_refl s
  | cons e r ih => exact (passTo_passed ..).1.trans (ih _)

theorem collComplete_waits (waits : s.host.collDone = false ∨ s.collHeld = true) : exec .collectiveComplete s = .next s := by
  refine congrArg Host.Outcome.next (if_neg ?_)
  rcases waits with open_ | held
  · simp [open_]
  · simp [held]

theorem collComplete_idle (idle : s.host.coll = none) : exec .collectiveComplete s = .next s := by
  have open_ : s.host.collDone = false := by
    unfold HostSt.collDone
    rw [idle]
  exact congrArg Host.Outcome.next (if_neg (by simp [open_]))

/-- A write of a range that writes reach stands, and no byte outside it changes. -/
theorem writeMem_alive {key : Nat} {bs : List Byte} (live : s.alive key bs.length) : (s.writeMem key bs).holds key bs ∧ s.sameMemoryBut key bs.length (s.writeMem key bs) := by
  refine ⟨?_, fun _ out => byte_writeMem_other out⟩
  by_cases empty : bs = []
  · subst empty
    rfl
  · exact bytesAt_writeMem (live 0 (List.length_pos_iff.2 empty))

/-- The result is passed on to the children of a tree. -/
def resultPassed (s : State) (c : Coll) (kids : Nat → List Nat) (data : List Byte) : State :=
  match c.op with
  | 1 => s.passDown data (kids c.root)
  | 3 => s.passDown data (kids 0)
  | _ => s

theorem resultPassed_passed (s : State) (c : Coll) (kids : Nat → List Nat) (data : List Byte) : Passed s (resultPassed s c kids data) := by
  unfold resultPassed
  split
  · exact passDown_passed ..
  · exact passDown_passed ..
  · exact passed_refl s

/-- The result stands at its place, and goes down the tree. -/
def resultWritten (s : State) (c : Coll) (data : List Byte) : State :=
  resultPassed (s.passUp.writeMem c.dst (data.take c.bytes)) c s.host.childrenFrom data

/-- The sync word, where there is one, is raised. -/
def syncRaisedBy (s : State) (c : Coll) : State := if c.sw = 0 then s else s.raiseSync c.sw c.bytes

/-- No collective runs. -/
def collEnded (s : State) : State := { s with host := { s.host with coll := none } }

theorem collComplete_eq {c : Coll} (runs : s.host.coll = some c) {data : List Byte} (result : s.collResult c = some data) (noLate : c.op ≠ 4 ∨ c.late = 0) :
    s.collComplete = (collEnded (syncRaisedBy (resultWritten s c data) c)).startColl := by
  have skip : ¬ (c.op = 4 ∧ c.late ≠ 0) := by
    rintro ⟨ring, some⟩
    exact noLate.elim (· ring) some
  unfold State.collComplete
  simp only [runs, result]
  rw [if_neg skip]
  rfl

theorem resultWritten_stored {c : Coll} {data : List Byte} (live : s.alive c.dst (data.take c.bytes).length) : let u := resultWritten s c data
    u.holds c.dst (data.take c.bytes) ∧ s.sameMemoryBut c.dst (data.take c.bytes).length u ∧ fences u = fences s ∧ u.host.colq = s.host.colq := by
  have up := passUp_passed s
  obtain ⟨holds, frame⟩ := writeMem_alive (s := s.passUp) (key := c.dst) (bs := data.take c.bytes) fun i inside =>
    (hbmDead_of_fences up.fences _).trans (live i inside)
  have down := resultPassed_passed (s.passUp.writeMem c.dst (data.take c.bytes)) c s.host.childrenFrom data
  have queue : (s.passUp.writeMem c.dst (data.take c.bytes)).host.colq = s.host.colq := by
    rw [writeMem_host]
    exact (congrArg HostSt.colq up.host :)
  refine ⟨(bytesAt_mem down.mem ..).trans holds, fun k out => ?_, down.fences.trans ((fences_writeMem ..).trans up.fences), (congrArg HostSt.colq down.host :).trans queue⟩
  have same : s.passUp.byte k = s.byte k := by
    unfold State.byte
    rw [up.mem]
  have kept : (resultWritten s c data).byte k = (s.passUp.writeMem c.dst (data.take c.bytes)).byte k := by
    unfold State.byte
    rw [← down.mem]
    rfl
  exact kept.trans ((frame k out).trans same)

theorem collComplete_ends {c : Coll} (runs : s.host.coll = some c) {data : List Byte} (done : s.host.collDone = true) (free : s.collHeld = false)
    (empty : s.host.colq = []) (result : s.collResult c = some data) (live : s.alive c.dst (data.take c.bytes).length) (noLate : c.op ≠ 4 ∨ c.late = 0)
    (apart : c.sw = 0 ∨ c.sw + 16 ≤ c.dst ∨ c.dst + (data.take c.bytes).length ≤ c.sw) (liveSync : s.alive c.sw 16) :
    Ends .collectiveComplete s fun t => t.host.coll = none ∧ t.holds c.dst (data.take c.bytes) ∧
      (c.sw = 0 → s.sameMemoryBut c.dst (data.take c.bytes).length t) ∧ (c.sw ≠ 0 → t.natAt c.sw 16 = syncUpdate (s.natAt c.sw 16) c.bytes) := by
  refine ⟨s.collComplete, congrArg Host.Outcome.next (if_pos (by simp [done, free])), ?_⟩
  obtain ⟨holds, frame, fenced, queue⟩ := resultWritten_stored (c := c) (data := data) live
  rw [collComplete_eq runs result noLate]
  generalize resultWritten s c data = u at holds frame fenced queue ⊢
  have queue1 : (syncRaisedBy u c).host.colq = [] :=
    ite_both (P := fun t : State => t.host.colq = []) (queue.trans empty) ((congrArg HostSt.colq (writeMem_host ..)).trans (queue.trans empty))
  rw [startColl_waits (s := collEnded (syncRaisedBy u c)) (.inr queue1)]
  by_cases sync : c.sw = 0
  · have same : syncRaisedBy u c = u := if_pos sync
    rw [same]
    exact ⟨rfl, (bytesAt_mem (s := u) (t := collEnded u) rfl ..).trans holds, fun _ => frame, fun some => absurd sync some⟩
  · have raised : syncRaisedBy u c = u.raiseSync c.sw c.bytes := if_neg sync
    obtain ⟨word, others⟩ := raiseSync_written (s := u) (key := c.sw) ((hbmDead_of_fences fenced _).trans (liveSync 0 (by decide))) c.bytes
    have before : u.natAt c.sw 16 = s.natAt c.sw 16 := natAt_congr fun i inside => frame _ (by omega)
    rw [raised]
    refine ⟨rfl, holds_same holds fun i inside => others _ (by omega), fun none => absurd none sync, fun _ => ?_⟩
    rw [natAt_mem (s := u.raiseSync c.sw c.bytes) (t := collEnded (u.raiseSync c.sw c.bytes)) rfl, word, before]

end

/-! ### Items in the order of their keys (R381) -/

theorem insertBy_perm (x : Nat × List Byte) (l : List (Nat × List Byte)) : (insertBy x l).Perm (x :: l) := by
  induction l with
  | nil => exact List.Perm.refl _
  | cons y r ih =>
    unfold insertBy
    split
    · exact List.Perm.refl _
    · exact (ih.cons y).trans (List.Perm.swap ..)

theorem insertBy_sorted (x : Nat × List Byte) {l : List (Nat × List Byte)} (sorted : l.Pairwise fun y z => y.1 ≤ z.1) :
    (insertBy x l).Pairwise fun y z => y.1 ≤ z.1 := by
  induction l with
  | nil => exact List.pairwise_singleton ..
  | cons y r ih =>
    obtain ⟨first, rest⟩ := List.pairwise_cons.1 sorted
    unfold insertBy
    split
    next le => exact List.pairwise_cons.2 ⟨fun z m => (List.mem_cons.1 m).elim (fun e => e ▸ le) fun m => le.trans (first z m), sorted⟩
    next gt =>
      refine List.pairwise_cons.2 ⟨fun z m => ?_, ih rest⟩
      rcases List.mem_cons.1 ((insertBy_perm x r).subset m) with rfl | m
      · exact Nat.le_of_not_le gt
      · exact first z m

theorem sortItems_sorts (l : List (Nat × List Byte)) : (sortItems l).Perm l ∧ (sortItems l).Pairwise fun y z => y.1 ≤ z.1 := by
  induction l with
  | nil => exact ⟨List.Perm.refl _, List.Pairwise.nil⟩
  | cons x r ih => exact ⟨(insertBy_perm ..).trans (ih.1.cons x), insertBy_sorted x ih.2⟩

end Sys2Proof.Proofs
end

section
/-!
PROOFS. The Almanac and the fabric: the statement (R367 to R370, R374 to R381).
-/

namespace Sys2Proof.Proofs
open Sys2Proof Sys2Proof.Machine

/-- Settles O59: each message and each fabric step by the lemma about it; what travels changes ports alone, so a round, a replica and a collective are read
off the one die or the one queue that the step changes. -/
theorem almanacAndFabric : Obligations.AlmanacAndFabric := by
  intro s die port seq iter m q item v x bs took p now lead package
  refine ⟨⟨fun sender count mask => ?_, fun id => ⟨shortMsg_head (by decide) id iter, shortMsg_head (by decide) id iter⟩,
      fun sender => ⟨shortMsg_head (by decide) sender q.iter, shortMsg_head (by decide) sender q.iter⟩⟩,
    fun refused => ends_took (congrArg Host.Outcome.next (if_neg (Bool.eq_false_iff.1 refused))), prepare_stores package,
    fun refused => ends_took (congrArg Host.Outcome.next (if_neg (Bool.eq_false_iff.1 refused))), ack_counts package,
    fun refused => ends_took (congrArg Host.Outcome.next (if_neg (Bool.eq_false_iff.1 refused))),
    fun early => congrArg Host.Outcome.next (if_neg (Bool.eq_false_iff.1 early)),
    fun o round first next i kind nack due => round_retried package round first next kind nack due,
    fun refused => ends_took (congrArg Host.Outcome.next (if_neg (Bool.eq_false_iff.1 refused))), fun d ok delta => ⟨commit_held package ok delta, ?_⟩,
    fun refused => ends_took (congrArg Host.Outcome.next (if_neg ?_)), fun d there open_ delta => abort_discards package there open_ delta, ?_, ?_,
    fun refused => retrain_refused refused x, fun there training => retrain_ends there training x, laneDrop_refused, laneDrop_ends, switch_refused, ?_,
    fun shut => ⟨congrArg Host.Outcome.next (if_neg (Bool.eq_false_iff.1 shut)), congrArg Host.Outcome.next (if_neg (Bool.eq_false_iff.1 shut))⟩,
    fun rdy => topoLoad_ends rdy v, topoComplete_waits, fun busy free => ⟨topoComplete_malformed busy free, ?_⟩, fun rdy => ⟨collSubmit_full rdy,
      collSubmit_waits rdy, collSubmit_starts rdy⟩, ⟨ringStep_ignored, ringStep_ends⟩, fun c runs => ⟨collComplete_waits, ?_⟩, collComplete_idle, sortItems_sorts⟩
  · exact ⟨almHeader_head (by decide) sender count mask m.iter m.digest _, prepare_delta die m⟩
  · intro idle once slots
    exact commit_applied package ok delta idle once fun z member =>
      have ⟨small, size, live, free, inside⟩ := slots z member
      ⟨small, size, live, free, inside⟩
  · simp only [Bool.and_eq_true, decide_eq_true_eq, Bool.not_eq_true']
    rintro ⟨there, none⟩
    rcases refused with out | committed
    · omega
    · exact absurd committed (by simp [none])
  · exact ⟨fun refused => flits_refused refused bs seq, ⟨(nakFlit_fields p).1, (nakFlit_fields p).2, fun j lane => countFixed_get p bs lane⟩,
      fun there up => flitReceive_ends there up bs⟩
  · intro there up
    obtain ⟨t, run, mem, port1⟩ := nakReceive_ends there up seq
    exact ⟨t, run, mem, fun none => port1.trans (nakFor_unknown none), fun held => port1.trans (nakFor_known held)⟩
  · exact fun _ _ => switch_ends
  · exact topoComplete_loads busy free rfl rfl rfl
  · exact fun _ => collComplete_ends runs

end Sys2Proof.Proofs
end
